-- ==== Sys2Proof/Word.lean ====
section
/-! DEFINITION. The word types of the Tarwelis 9600 (R6: bit 0 is the least significant bit, memory is little-endian). -/

namespace Sys2Proof

abbrev Byte := BitVec 8
abbrev W16 := BitVec 16
abbrev W32 := BitVec 32
abbrev W64 := BitVec 64

/-- One bit per lane of a group, or per line of a line form (R5, R304). -/
abbrev Mask := BitVec 32

/-- A 128-byte line, byte k in bits 8k+7 to 8k (R43, R169). -/
abbrev Line := BitVec 1024

/-- One bit per byte of a line (R48). -/
abbrev ByteMask := BitVec 128

/-- The 2,048 bits of a write signature (R98). -/
abbrev SigBits := BitVec 2048

/-- The 32 lane containers of a vector register (R169). -/
abbrev Lanes := Vector W32 32

end Sys2Proof
end

