-- ==== Sys2Proof/Config.lean ====
section
/-! DEFINITION. What the spec leaves open, as constants without a body: a proof about them holds for every value. Those
of a number are applied to the state's plain counter of drawn values, the others to what they depend on. -/

namespace Sys2Proof.Config

/-- A register lane that the spec calls undefined (R191): by the value drawn and a position within what it was drawn for. -/
opaque freeLane : Nat → Nat → W32

/-- An accumulator element that the spec calls undefined (R324): 64 bits. -/
opaque freeElement : Nat → Nat → W64

/-- Whether a stall lets the results that are not due be written before a reader that came early (R242). -/
opaque lateReader : Nat → Bool

/-- The value that an approximated function returns for an operand, where it lies within the bound of R285: function
0 VFRCP, 1 VFRSQ, 2 VFEXP2, 3 VFLOG2, 4 VFSIN, 5 VFCOS. -/
opaque approx : Nat → W32 → W32

/-- The compression code a controller finds for a block's 512 bytes (R60): how many of its sectors are free. -/
opaque compressible : BitVec 4096 → Nat

/-- Whether a read of an Alcove word that races an engine's write returns what the word held before it (R95, R117): by the value drawn and
the position of the write among those not yet observed. -/
opaque racesOld : Nat → Nat → Bool

/-- Which line the L1 gives up when it needs room (R48): an index into the lines present. -/
opaque victim : Nat → Nat

/-- Which of its Hall's controllers serves a line (R60). -/
opaque controllerOf : Nat → Nat

/-- What the HBM temperature sensor of a die reads (R447), in 1/16 °C: by the value drawn. -/
opaque hbmTemperature : Nat → Nat

/-- The signature the root of trust makes with its own key (R444). -/
opaque ecdsaSign : List Byte → List Byte

/-- The LMS signature the root of trust makes over the measurements (R444). -/
opaque lmsSign : List Byte → List Byte

/-- Whether a device certificate verifies under both schemes, and the identity key it certifies (R443). -/
opaque certVerifies : List Byte → Bool
opaque certifiedKey : List Byte → List Byte

/-- The public keys burnt into the device, and the certificate chain of an Annex (R441, R444). -/
opaque rootEcdsa : List Byte
opaque rootLms : List Byte
opaque certChain : Nat → List Byte

/-- What the device answers to GET_CAPABILITIES (R444). -/
opaque spdmCapabilities : List Byte

/-- The highest clock step at which the package, at a measured power in mW and a step, stays within a cap in W (R447). -/
opaque capStep : Nat → Nat → Nat → Nat

/-- How many flits a die's router has deflected by a time (R428, R430). -/
opaque deflected : Nat → Nat → BitVec 64

/-- Where the host has placed each function's BAR0 in its own address space (R434). -/
opaque bar0 : Nat → Nat

/-- Whether the device behind a peer port accepts an access at an address of its own (R436). -/
opaque peerAccepts : Nat → Nat → Bool

/-- The physical line at which the scheduler keeps the first line of a context's image (R16). -/
opaque imageLine : Nat → Nat

end Sys2Proof.Config
end

