-- ==== Sys2Proof/Machine/Fp.lean ====
section
/-! DEFINITION. Floating-point formats, rounding and exact arithmetic (R196 to R211, R281 to R285): a finite value is a
signed rational times a power of two, computed exactly and rounded once. -/

namespace Sys2Proof.Machine

/-- A floating-point element format (R196). `ieee` is false for E4M3, which has no infinity. -/
structure Fmt where
  bits : Nat
  mbits : Nat
  bias : Nat
  maxFin : Nat            -- the encoding of the largest finite value
  nan : Nat               -- the canonical NaN (R197)
  ieee : Bool
  deriving DecidableEq, Repr

def fp32 : Fmt := ⟨32, 23, 127, 0x7F7FFFFF, 0x7FC00000, true⟩
def bf16 : Fmt := ⟨16, 7, 127, 0x7F7F, 0x7FC0, true⟩
def fp16 : Fmt := ⟨16, 10, 15, 0x7BFF, 0x7E00, true⟩
def e4m3 : Fmt := ⟨8, 3, 7, 0x7E, 0x7F, false⟩
def e5m2 : Fmt := ⟨8, 2, 15, 0x7B, 0x7E, true⟩

/-- A decoded value: NaN, an infinity, or (-1)^neg × mant × 2^exp, where mant 0 is a signed zero. -/
inductive Fv where
  | nan
  | inf (neg : Bool)
  | fin (neg : Bool) (mant : Nat) (exp : Int)
  deriving DecidableEq, Repr

/-- The value of an encoding (R196). -/
def Fmt.value (f : Fmt) (n : Nat) : Fv :=
  let neg := n / 2 ^ (f.bits - 1) % 2 == 1
  let mag := n % 2 ^ (f.bits - 1)
  let e := mag / 2 ^ f.mbits
  let frac := mag % 2 ^ f.mbits
  if f.ieee && f.maxFin < mag then (if frac == 0 then .inf neg else .nan)
  else if f.maxFin < mag then .nan
  else if e == 0 then .fin neg frac (1 - (f.bias : Int) - f.mbits)
  else .fin neg (2 ^ f.mbits + frac) ((e : Int) - f.bias - f.mbits)

/-- The rounding modes of R208. RS carries the LFSR value after its step. -/
inductive Rnd where
  | rne | rz | ru | rd
  | rs (s : Nat)
  deriving DecidableEq, Repr

/-- An exact magnitude: num / den × 2^exp, den positive. -/
structure Mag where
  num : Nat
  den : Nat
  exp : Int
  deriving DecidableEq, Repr

/-- num / den × 2^exp in units of 2^u, as a numerator and a denominator. -/
def Mag.scale (m : Mag) (u : Int) : Nat × Nat :=
  if u ≤ m.exp then (m.num * 2 ^ (m.exp - u).toNat, m.den) else (m.num, m.den * 2 ^ (u - m.exp).toNat)

/-- Floor(log2) of a magnitude that is not zero. -/
def Mag.log2 (m : Mag) : Int :=
  let l : Int := (m.num.log2 : Int) - m.den.log2
  let (a, b) := Mag.scale ⟨m.num, m.den, 0⟩ l
  if a < b then l - 1 + m.exp else l + m.exp

/-- Whether a quotient with that remainder rounds away from zero (R208, R209). -/
def Rnd.up (r : Rnd) (neg : Bool) (q rem den : Nat) : Bool :=
  match r with
  | .rne => den < 2 * rem || (den == 2 * rem && q % 2 == 1)
  | .rz => false
  | .ru => !neg && rem != 0
  | .rd => neg && rem != 0
  | .rs s => 65536 ≤ rem * 65536 / den + s

/-- A magnitude rounded to an integer number of units 2^u. -/
def Mag.roundAt (m : Mag) (u : Int) (r : Rnd) (neg : Bool) : Nat :=
  let (a, b) := m.scale u
  let q := a / b
  if r.up neg q (a % b) b then q + 1 else q

/-- Whether a magnitude is an integer number of units 2^u. -/
def Mag.exactAt (m : Mag) (u : Int) : Bool :=
  let (a, b) := m.scale u
  a % b == 0

def Fmt.sign (f : Fmt) (neg : Bool) (mag : Nat) : Nat := if neg then 2 ^ (f.bits - 1) + mag else mag

/-- What becomes of a value too large for the format. -/
inductive Overflow where
  | ieee      -- IEEE 754 for the mode
  | sat       -- the largest finite value (R210)
  deriving DecidableEq, Repr

/-- The encoding of infinity; E4M3 has none and gives its NaN (R210). -/
def Fmt.infinity (f : Fmt) (neg : Bool) : Nat := if f.ieee then f.sign neg (f.maxFin + 1) else f.nan

def Fmt.overflow (f : Fmt) (o : Overflow) (r : Rnd) (neg : Bool) : Nat :=
  match o with
  | .sat => f.sign neg f.maxFin
  | .ieee =>
    if !f.ieee then f.nan
    else match r with
      | .rne => f.infinity neg
      | .ru => if neg then f.sign neg f.maxFin else f.infinity neg
      | .rd => if neg then f.infinity neg else f.sign neg f.maxFin
      | _ => f.sign neg f.maxFin

/-- A non-zero exact value rounded once into the format: the exponent is unbounded above, then overflow applies. -/
def Fmt.round (f : Fmt) (o : Overflow) (r : Rnd) (neg : Bool) (m : Mag) : Nat :=
  let emin : Int := 1 - (f.bias : Int)
  let e := if m.log2 < emin then emin else m.log2
  let q := m.roundAt (e - f.mbits) r neg
  -- q at most 2^(mbits + 1); adding the exponent above emin to the encoding carries a renormalisation
  let mag := q + (e - emin).toNat * 2 ^ f.mbits
  if f.maxFin < mag then f.overflow o r neg else f.sign neg mag

/-- The sign of an exact zero sum of unlike signs (R281). -/
def Rnd.zeroNeg (r : Rnd) : Bool := r == .rd

/-- The encoding of a value, rounded. -/
def Fmt.ofValue (f : Fmt) (o : Overflow) (r : Rnd) : Fv → Nat
  | .nan => f.nan
  | .inf neg => if o == .sat then f.sign neg f.maxFin else f.infinity neg
  | .fin neg 0 _ => f.sign neg 0
  | .fin neg m e => f.round o r neg ⟨m, 1, e⟩

/-! ## Exact operations -/

def Fv.neg : Fv → Fv
  | .nan => .nan
  | .inf n => .inf !n
  | .fin n m e => .fin (!n) m e

def Fv.negIf (b : Bool) (v : Fv) : Fv := if b then v.neg else v

/-- The product, exact. 0 × ∞ is a NaN. -/
def Fv.mul : Fv → Fv → Fv
  | .nan, _ => .nan
  | _, .nan => .nan
  | .inf n, .inf n' => .inf (n != n')
  | .inf n, .fin n' m _ => if m == 0 then .nan else .inf (n != n')
  | .fin n m _, .inf n' => if m == 0 then .nan else .inf (n != n')
  | .fin n m e, .fin n' m' e' => .fin (n != n') (m * m') (e + e')

def signed (neg : Bool) (m : Nat) : Int := if neg then -(m : Int) else m

/-- A sum, exact. (+∞) + (-∞) is a NaN; an exact zero of unlike signs takes the sign of the mode. -/
def Fv.add (r : Rnd) : Fv → Fv → Fv
  | .nan, _ => .nan
  | _, .nan => .nan
  | .inf n, .inf n' => if n == n' then .inf n else .nan
  | .inf n, .fin _ _ _ => .inf n
  | .fin _ _ _, .inf n => .inf n
  | .fin n m e, .fin n' m' e' =>
    let lo := if e ≤ e' then e else e'
    let x := signed n (m * 2 ^ (e - lo).toNat) + signed n' (m' * 2 ^ (e' - lo).toNat)
    if x == 0 then .fin (if m == 0 && m' == 0 && n == n' then n else r.zeroNeg) 0 0
    else .fin (x < 0) x.natAbs lo

/-- A sum of several terms, exact, whose sign when zero is the mode's unless every term is a zero of one sign. -/
def Fv.sum (r : Rnd) (l : List Fv) : Fv :=
  match l with
  | [] => .fin false 0 0
  | a :: rest => rest.foldl (Fv.add r) a

/-- The comparison key of finite values and infinities: -1, 0 or 1 for a < b, a = b, a > b. -/
def Fv.cmp : Fv → Fv → Int
  | .inf n, .inf n' => if n == n' then 0 else if n then -1 else 1
  | .inf n, _ => if n then -1 else 1
  | _, .inf n => if n then 1 else -1
  | .fin n m e, .fin n' m' e' =>
    let lo := if e ≤ e' then e else e'
    let x := signed n (m * 2 ^ (e - lo).toNat) - signed n' (m' * 2 ^ (e' - lo).toNat)
    if x < 0 then -1 else if x == 0 then 0 else 1
  | _, _ => 0

def Fv.isNan : Fv → Bool
  | .nan => true
  | _ => false

/-- The minimum or maximum of R56: -0 orders below +0, one NaN gives the other operand, two give the canonical NaN. -/
def Fmt.minMax (f : Fmt) (max : Bool) (a b : Nat) : Nat :=
  let x := f.value a
  let y := f.value b
  match x.isNan, y.isNan with
  | true, true => f.nan
  | true, false => b
  | false, true => a
  | false, false =>
    let c := x.cmp y
    let aLess := c < 0 || (c == 0 && a / 2 ^ (f.bits - 1) % 2 == 1)
    if aLess != max then a else b

/-- A value rounded to an integer in the mode (R211), saturated to lo .. hi; a NaN gives 0. -/
def Fv.toInt (v : Fv) (r : Rnd) (lo hi : Int) : Int :=
  match v with
  | .nan => 0
  | .inf n => if n then lo else hi
  | .fin n m e =>
    let x := signed n (Mag.roundAt ⟨m, 1, e⟩ 0 r n)
    if x < lo then lo else if hi < x then hi else x

def Fv.ofInt (x : Int) : Fv := .fin (x < 0) x.natAbs 0

/-- A rational num / den, rounded. -/
def Fmt.ofRat (f : Fmt) (r : Rnd) (neg : Bool) (num den : Nat) : Nat :=
  if num == 0 then f.sign neg 0 else f.round .ieee r neg ⟨num, den, 0⟩

/-! ## Square roots and integral values -/

/-- The largest x below 2^n with x^k × den ≤ num, by bits from the top. -/
def rootBits (k num den : Nat) : Nat → Nat → Nat
  | 0, x => x
  | n + 1, x =>
    let y := x + 2 ^ n
    rootBits k num den n (if y ^ k * den ≤ num then y else x)

/-- The square root, correctly rounded (R281): an integer root to 64 bits with a sticky bit below them. -/
def Fmt.sqrt (f : Fmt) (r : Rnd) (v : Fv) : Nat :=
  match v with
  | .nan => f.nan
  | .inf n => if n then f.nan else f.infinity false
  | .fin n 0 _ => f.sign n 0
  | .fin true _ _ => f.nan
  | .fin false m e =>
    let e' : Int := e - 100 - (e - 100) % 2
    let a := m * 2 ^ (e - e').toNat
    let q := rootBits 2 a 1 66 0
    f.round .ieee r false ⟨2 * q + (if q * q == a then 0 else 1), 1, e' / 2 - 1⟩

/-- VFRND (R284). -/
def Fmt.integral (f : Fmt) (r : Rnd) (a : Nat) : Nat :=
  match f.value a with
  | .nan => f.nan
  | .inf _ => a
  | .fin _ 0 _ => a
  | .fin n m e =>
    let q := Mag.roundAt ⟨m, 1, e⟩ 0 r n
    if q == 0 then f.sign n 0 else f.round .ieee r n ⟨q, 1, 0⟩

/-- VFFRC (R284): a - Floor(a), rounded toward zero. -/
def Fmt.fraction (f : Fmt) (a : Nat) : Nat :=
  match f.value a with
  | .nan => f.nan
  | .inf _ => f.nan
  | .fin n m e =>
    let q := Mag.roundAt ⟨m, 1, e⟩ 0 .rd n
    let d := Fv.add .rz (.fin n m e) ((Fv.ofInt (signed n q)).neg)
    match d with
    | .fin _ 0 _ => 0
    | .fin _ m' e' => f.round .ieee .rz false ⟨m', 1, e'⟩
    | _ => f.nan

/-! ## Fixed-point values of the approximated functions, with 96 fraction bits -/

def fx : Nat := 96
def one : Nat := 2 ^ fx

/-- ln 2 × 2^96 and 2π × 2^96, each below the true value by less than one. -/
def ln2Fx : Nat := 54916777467707473351141471128
def twoPiFx : Nat := 497805226624462170461043889244

/-- Σ x^k / k! of the exponential, `n` terms from term `t` of index `k`. -/
def expSeries (x : Nat) : Nat → Nat → Nat → Nat
  | 0, _, _ => 0
  | n + 1, k, t => t + expSeries x n (k + 1) (t * x / one / (k + 1))

/-- 2^(z / 2^96) × 2^96 for z below 2^96. -/
def exp2Fx (z : Nat) : Nat := expSeries (z * ln2Fx / one) 40 0 one

/-- The fraction bits of log2 x for x in [1, 2), by squaring. -/
def log2Bits : Nat → Nat → Nat → Nat
  | 0, _, acc => acc
  | n + 1, x, acc =>
    let y := x * x / one
    if 2 * one ≤ y then log2Bits n (y / 2) (2 * acc + 1) else log2Bits n y (2 * acc)

/-- log2 (x / 2^96) × 2^64 for x in [2^96, 2^97). -/
def log2Fx (x : Nat) : Nat := log2Bits 64 x 0

/-- The alternating series of sine (k = 1) or cosine (k = 0), signed. -/
def trigSeries (x2 : Nat) : Nat → Nat → Nat → Int
  | 0, _, _ => 0
  | n + 1, k, t => (t : Int) - trigSeries x2 n (k + 2) (t * x2 / one / ((k + 1) * (k + 2)))

/-- sin or cos of q / 2^96 turns for q at most an eighth of a turn. -/
def sinSmall (q : Nat) : Int :=
  let x := q * twoPiFx / one
  trigSeries (x * x / one) 24 1 x
def cosSmall (q : Nat) : Int :=
  let x := q * twoPiFx / one
  trigSeries (x * x / one) 24 0 one

/-- sin of q / 2^96 turns, q below one turn, in units of 2^-96: folded into the first eighth. -/
def sinTurn (q : Nat) : Int :=
  let h := q % (one / 2)
  let v := if one / 4 < h then one / 2 - h else h
  let m := if one / 8 < v then cosSmall (one / 4 - v) else sinSmall v
  if one / 2 ≤ q then -m else m

/-! ## The approximated functions (R285) -/

/-- Whether a candidate lies within `tol` units of 2^u of the value num × 2^exp, or, with `tol` in ulps, of its own. -/
def near (x y tol : Mag) (nx ny : Bool) : Bool :=
  let u := min x.exp (min y.exp tol.exp)
  let a := signed nx ((x.scale u).1 * y.den * tol.den)
  let b := signed ny ((y.scale u).1 * x.den * tol.den)
  (a - b).natAbs ≤ (tol.scale u).1 * x.den * y.den

/-- The fixed function of R276 where the spec bounds the result: the device's own value where it meets the bound, else a value that does.
The magnitude of the function's value lies between `lo` and `hi`, which are far closer to each other than the bound; a value meets the bound
where it does for both. -/
def bounded (fn : Nat) (a : W32) (neg : Bool) (lo hi : Mag) (tolUlp : Option Nat) : W32 :=
  let c := Config.approx fn a
  let best := BitVec.ofNat 32 (fp32.round .ieee .rne neg hi)
  let ulp : Int := (if lo.log2 < -126 then -126 else lo.log2) - 23
  let tol : Mag := match tolUlp with
    | some k => ⟨k, 1, ulp⟩
    | none => ⟨1, 1, -22⟩
  match fp32.value c.toNat with
  | .fin n m e => if near ⟨m, 1, e⟩ lo tol n neg && near ⟨m, 1, e⟩ hi tol n neg then c else best
  | _ => best

def isPow2 (m : Nat) : Bool := m != 0 && 2 ^ m.log2 == m

def f32Inf (neg : Bool) : W32 := BitVec.ofNat 32 (fp32.infinity neg)
def f32Nan : W32 := 0x7FC00000#32

/-- VFRCP: 1 / a. -/
def vfrcp (a : W32) : W32 :=
  match fp32.value a.toNat with
  | .nan => f32Nan
  | .inf n => BitVec.ofNat 32 (fp32.sign n 0)
  | .fin n 0 _ => f32Inf n
  | .fin n m e =>
    let x : Mag := ⟨m, 1, e⟩
    if x.log2 < -128 then f32Inf n
    else if isPow2 m then BitVec.ofNat 32 (fp32.round .ieee .rne n ⟨1, m, -e⟩)
    else bounded 0 a n ⟨1, m, -e⟩ ⟨1, m, -e⟩ (some 1)

/-- VFRSQ: 1 / √a. -/
def vfrsq (a : W32) : W32 :=
  match fp32.value a.toNat with
  | .nan => f32Nan
  | .inf n => if n then f32Nan else 0
  | .fin n 0 _ => f32Inf n
  | .fin true _ _ => f32Nan
  | .fin false m e =>
    let e' := e - e % 2
    let d := m * 2 ^ (e - e').toNat
    let q := rootBits 2 (2 ^ 192) d 97 0
    let x (q : Nat) : Mag := ⟨q, 1, -(e' / 2) - 96⟩
    if q * q * d == 2 ^ 192 then BitVec.ofNat 32 (fp32.round .ieee .rne false (x q))
    else bounded 1 a false (x q) (x (q + 1)) (some 1)

/-- VFEXP2: 2^a. -/
def vfexp2 (a : W32) : W32 :=
  match fp32.value a.toNat with
  | .nan => f32Nan
  | .inf n => if n then 0 else f32Inf false
  | .fin n m e =>
    let x : Mag := ⟨m, 1, e⟩
    let fl := signed n (x.roundAt 0 .rd n)
    if !n && 7 ≤ x.log2 && m != 0 then f32Inf false
    else if n && m != 0 && (8 ≤ x.log2 || fl < -150) then 0
    else if (m == 0 || x.exactAt 0) && -149 ≤ fl then BitVec.ofNat 32 (fp32.round .ieee .rne false ⟨1, 1, fl⟩)
    else
      let y := signed n (x.roundAt (-96) .rd n) - fl * (one : Int)
      let z := exp2Fx y.toNat
      bounded 2 a false ⟨z, 1, fl - 96⟩ ⟨min (z + 1024) (2 * one), 1, fl - 96⟩ (some 2)

/-- VFLOG2: log2 a. -/
def vflog2 (a : W32) : W32 :=
  match fp32.value a.toNat with
  | .nan => f32Nan
  | .inf n => if n then f32Nan else f32Inf false
  | .fin _ 0 _ => f32Inf true
  | .fin true _ _ => f32Nan
  | .fin false m e =>
    let x : Mag := ⟨m, 1, e⟩
    let l := x.log2
    if isPow2 m then BitVec.ofNat 32 (fp32.ofValue .ieee .rne (Fv.ofInt l))
    else
      let y := l * (2 ^ 64 : Nat) + log2Fx (m * 2 ^ (96 - m.log2))
      let x (k : Int) : Mag := ⟨(y + k).natAbs, 1, -64⟩
      bounded 3 a (y < 0) (x (if y < 0 then 2 else 0)) (x (if y < 0 then 0 else 2)) (if l == 0 || l == -1 then none else some 2)

/-- VFSIN and VFCOS: of a turns. -/
def vftrig (cos : Bool) (a : W32) : W32 :=
  match fp32.value a.toNat with
  | .nan => f32Nan
  | .inf _ => f32Nan
  | .fin n m e =>
    let x : Mag := ⟨m, 1, e⟩
    -- the argument reduced to one turn, in units of 2^-160: exact for every operand above 2^-137
    let k := if -160 ≤ e then m * 2 ^ (e + 160).toNat else m / 2 ^ (-160 - e).toNat
    let full : Nat := 2 ^ 160
    let q0 := if n then (full - k % full) % full else k % full
    let q := if cos then (q0 + full / 4) % full else q0
    if m == 0 && !cos then a
    else if x.exactAt (-2) then
      (if q == full / 4 then 0x3F800000#32 else if q == 3 * (full / 4) then 0xBF800000#32
        else if Config.approx (if cos then 5 else 4) a == 0x80000000#32 then 0x80000000#32 else 0#32)
    else
      let v := sinTurn (q / 2 ^ 64)
      bounded (if cos then 5 else 4) a (if v == 0 then n else v < 0) ⟨v.natAbs - 1024, 1, -96⟩ ⟨min (v.natAbs + 1024) one, 1, -96⟩ none

/-! ## Colour formats (R201, R288, R289) -/

/-- Clamp to [0, 1], a NaN giving 0. -/
def unit01 (v : Fv) : Mag :=
  match v with
  | .nan => ⟨0, 1, 0⟩
  | .inf n => if n then ⟨0, 1, 0⟩ else ⟨1, 1, 0⟩
  | .fin n m e => if n || m == 0 then ⟨0, 1, 0⟩ else if 0 ≤ Mag.log2 ⟨m, 1, e⟩ then ⟨1, 1, 0⟩ else ⟨m, 1, e⟩

/-- RNE (x × k) for x clamped to [0, 1]. -/
def toUnorm (k : Nat) (v : Fv) : Nat :=
  let x := unit01 v
  Mag.roundAt ⟨x.num * k, x.den, x.exp⟩ 0 .rne false

def fromUnorm (k n : Nat) : W32 := BitVec.ofNat 32 (fp32.ofRat .rne false n k)

/-- The IEC 61966-2-1 decode of n / 255, correctly rounded: ((40 n + 561) / 10761)^(12/5) above the linear part. -/
def srgbDecode (n : Nat) : W32 :=
  if n ≤ 10 then BitVec.ofNat 32 (fp32.ofRat .rne false (100 * n) (255 * 1292))
  else
    let num := (40 * n + 561) ^ 12 * 2 ^ 320
    let den := 10761 ^ 12
    let q := rootBits 5 num den 65 0
    BitVec.ofNat 32 (fp32.round .ieee .rne false ⟨2 * q + (if q ^ 5 * den == num then 0 else 1), 1, -65⟩)

/-- The largest n below 2^k for which 255 × encode(x) exceeds n - 1/2, or equals it with n even. -/
def srgbSearch (x : Mag) : Nat → Nat → Nat
  | 0, n => n
  | k + 1, n =>
    let y := n + 2 ^ k
    -- x^5 against ((40 y + 541) / 10761)^12
    let (a, b) := Mag.scale ⟨x.num ^ 5 * 10761 ^ 12, x.den ^ 5 * (40 * y + 541) ^ 12, 5 * x.exp⟩ 0
    srgbSearch x k (if b < a || (a == b && y % 2 == 0) then y else n)

/-- The integer nearest to 255 × encode(x), x clamped to [0, 1] (R201). -/
def srgbEncode (v : Fv) : Nat :=
  let x := unit01 v
  let (a, b) := Mag.scale ⟨x.num * 10000000, x.den * 31308, x.exp⟩ 0
  if a ≤ b then Mag.roundAt ⟨x.num * 255 * 1292, x.den * 100, x.exp⟩ 0 .rne false
  else min 255 (srgbSearch x 8 0)

/-! ## The stochastic-rounding LFSR (R209) -/

/-- One step: the value used for the rounding, which is also the new state. -/
def lfsrStep (lane : Nat) (s : W16) : W16 :=
  let s := if s == 0 then 0x8000#16 ^^^ BitVec.ofNat 16 (lane * 0x9E37) else s
  if s.getLsbD 0 then (s >>> 1) ^^^ 0xB400#16 else s >>> 1

end Sys2Proof.Machine
end

