-- ==== Sys2Proof/Machine/Flags.lean ====
section
/-! DEFINITION. Conditions and sticky flags: the comparison codes of R256, R280 and R282, the classes of R283, and the
accumulator status word of R217. The machine has no condition-code register: a condition is written to a predicate. -/

namespace Sys2Proof.Machine

/-- The condition codes 0 eq, 1 ne, 2 lt, 3 le, 4 gt, 5 ge on exact integers (R256). -/
def condInt (cc : Nat) (a b : Int) : Bool :=
  match cc with
  | 0 => a == b
  | 1 => a != b
  | 2 => a < b
  | 3 => a ≤ b
  | 4 => b < a
  | _ => b ≤ a

/-- The condition codes of VFCMP (R282): -0 equals +0, and 6 is unordered, 7 ordered. -/
def condF32 (cc : Nat) (a b : W32) : Bool :=
  let x := fp32.value a.toNat
  let y := fp32.value b.toNat
  let uo := x.isNan || y.isNan
  match cc with
  | 1 => uo || x.cmp y != 0
  | 6 => uo
  | 7 => !uo
  | _ => !uo && condInt cc (x.cmp y) 0

/-- The class bit of an FP32 value (R283). -/
def f32Class (a : W32) : Nat :=
  let e := (a.extractLsb' 23 8).toNat
  let frac := a.extractLsb' 0 23
  let neg := a.getLsbD 31
  if e == 255 then (if frac != 0 then 8 else if neg then 0 else 7)
  else if e == 0 then (if frac == 0 then (if neg then 3 else 4) else if neg then 2 else 5)
  else if neg then 1 else 6

/-- The sticky flags of an accumulator's status word, each ORed in (R217). -/
structure AccFlags where
  aloss : Bool
  special : Bool
  ovf : Bool
  nanout : Bool
  deriving DecidableEq, Repr

def AccFlags.none : AccFlags := ⟨false, false, false, false⟩

def AccFlags.or (x y : AccFlags) : AccFlags :=
  ⟨x.aloss || y.aloss, x.special || y.special, x.ovf || y.ovf, x.nanout || y.nanout⟩

def AccFlags.word (f : AccFlags) : W32 :=
  BitVec.ofNat 32 (f.aloss.toNat + 2 * f.special.toNat + 4 * f.ovf.toNat + 8 * f.nanout.toNat)

end Sys2Proof.Machine
end

