-- ==== Sys2Proof/Syntax.lean ====
section
/-! DEFINITION. The steps of the Tarwelis 9600, one constructor per row of spec/opcode_table.json: the Krytnak
instructions, with the header of R225 and the body fields of R228 to R235, and the device's own events, each with
the data that says where it happens. -/

namespace Sys2Proof

/-- The common header (R225): SUB, S, G, GN and NX. OPC is the constructor. -/
structure Hdr where
  sub : BitVec 6
  s : Bool
  g : BitVec 3
  gn : Bool
  nx : BitVec 2
  deriving DecidableEq, Repr

/-- U format (R228). -/
structure UBody where
  sd : BitVec 6
  sa : BitVec 6
  sb : BitVec 6
  sc : BitVec 6
  ps : BitVec 3
  is : Bool
  x8 : BitVec 8
  imm : W32
  deriving DecidableEq, Repr

/-- The body of ANCHOR (R26). `len` holds bits 62 to 32: the immediate length of SUB 1, and under SUB 0 the length
register M in its top six bits. -/
structure AnchorBody where
  k : BitVec 3
  n : BitVec 6
  len : BitVec 31
  deriving DecidableEq, Repr

/-- The length register M of SUB 0 (R26). -/
def AnchorBody.m (b : AnchorBody) : BitVec 6 := b.len.extractLsb' 25 6

/-- C format (R229). -/
structure CBody where
  ca : BitVec 6
  cb : BitVec 6
  cv : BitVec 8
  lbl : BitVec 12
  cx : BitVec 13
  ofs : BitVec 24
  slt : BitVec 3
  deriving DecidableEq, Repr

/-- V format (R230). -/
structure VBody where
  vd : BitVec 8
  va : BitVec 8
  vb : BitVec 8
  ib : Bool
  pd : BitVec 3
  rm : BitVec 3
  sat : Bool
  ty : BitVec 4
  cc : BitVec 4
  imm : W32
  deriving DecidableEq, Repr

/-- V3 format (R231). -/
structure V3Body where
  vd : BitVec 8
  va : BitVec 8
  vb : BitVec 8
  vc : BitVec 8
  rm : BitVec 3
  sat : Bool
  ty : BitVec 4
  ps : BitVec 3
  cc : BitVec 4
  deriving DecidableEq, Repr

/-- M format (R232). -/
structure MBody where
  md : BitVec 8
  mx : BitVec 8
  mb : BitVec 3
  am : BitVec 2
  xv : Bool
  ms : BitVec 6
  sz : BitVec 4
  mop : BitVec 4
  mp : BitVec 3
  mc : BitVec 8
  imm : BitVec 24
  deriving DecidableEq, Repr

/-- A format (R233); the fields are AS, AD, AL, TG, ST, SV, SE, BE, BA, FO, AX and AI. -/
structure ABody where
  asrc : BitVec 6
  ad : BitVec 6
  al : BitVec 6
  tg : BitVec 6
  st : BitVec 8
  sv : Bool
  se : Bool
  be : Bool
  ba : BitVec 6
  fo : Bool
  ax : BitVec 6
  ai : BitVec 24
  deriving DecidableEq, Repr

/-- X format (R234). -/
structure XBody where
  xt : BitVec 4
  xa : BitVec 4
  xsa : BitVec 6
  xsb : BitVec 6
  xsc : BitVec 6
  xv : BitVec 8
  af : BitVec 4
  xp : BitVec 3
  xm : BitVec 8
  xi : BitVec 23
  deriving DecidableEq, Repr

/-- T format (R235); `topt` is the field TO. -/
structure TBody where
  tv : BitVec 8
  tsa : BitVec 6
  tsb : BitVec 6
  tsc : BitVec 6
  tp : BitVec 3
  topt : BitVec 11
  ti : W32
  deriving DecidableEq, Repr

/-- The split an issue turn names: core x + 32 y, group slot 0-47, split 0-3 (R3, R171, R176). -/
structure Focus where
  core : Nat
  slot : Nat
  split : Nat
  deriving DecidableEq, Repr

/-- A register line of a frame (R169): line `idx` of the lines of frame `handle` of context `cid`. -/
structure RegLine where
  cid : Nat
  handle : Nat
  idx : Nat
  deriving DecidableEq, Repr

/-- The leaf the Porter's fault-service firmware chooses to write (R386): its entry's physical address and value. -/
structure PteWrite where
  pa : Nat
  value : W64
  deriving DecidableEq, Repr

/-- The Porter's pick of one page for an Annex (R69): the page, its address space and the ring its frame comes from
(0 FFNA, 1 FFNB, 2 FFFN, 3 FFFS). -/
structure MigPick where
  asid : Nat
  va : W64
  ring : Nat
  deriving DecidableEq, Repr

/-- Where a launch or a restore is to stand (R375, R400): an origin, or none for the launch record's own. -/
inductive Origin where
  | fromRecord
  | at (x y : Nat)
  deriving DecidableEq, Repr

/-- Who writes a Resolver-slot register (R416). -/
inductive Writer where
  | physical                       -- the physical function, through its own window
  | supervisor (vf : Nat)          -- a supervisor context of function vf, through its function view
  | hostOf (vf : Nat)              -- host software of function vf, through its BAR0 function view
  | other
  deriving DecidableEq, Repr

/-- A memory access from outside the device (R434, R436). -/
inductive HostAccess where
  | read (len : Nat)
  | write (bytes : List Byte)
  | atomic (op ty : Nat) (wide : Bool) (operand comparand : W64)
  deriving DecidableEq, Repr

/-- One direction of the authentication of a Corridor link (R443): nonces, certificate and the two signatures. -/
structure AuthHalf where
  nonceA : List Byte
  nonceB : List Byte
  cert : List Byte
  sig : List Byte
  deriving DecidableEq, Repr

/-- Both directions of one link's authentication (R443). -/
structure AuthMsg where
  there : AuthHalf
  back : AuthHalf
  deriving DecidableEq, Repr

/-- One constructor per row of spec/opcode_table.json. The first constructors are the instructions of the opcode map
(R237); the rest are the steps the device takes by itself, or at the hand of the host and the board. The steps that
only the host, the board or a policy outside the model begins stand last. -/
inductive Instr where
  /-- R255: Copies a uniform register or pair to another. -/
  | smov (h : Hdr) (b : UBody)
  /-- R255: Writes an immediate to a uniform register, or sign-extended or zero-extended to a pair. -/
  | smovi (h : Hdr) (b : UBody)
  /-- R255: Adds two uniform operands, wrapping or saturating. -/
  | sadd (h : Hdr) (b : UBody)
  /-- R255: Subtracts two uniform operands, wrapping or saturating. -/
  | ssub (h : Hdr) (b : UBody)
  /-- R255: Writes the low half of a uniform product, or the clamped product with .sat. -/
  | smul (h : Hdr) (b : UBody)
  /-- R255: Writes the high half of the exact uniform product. -/
  | smulh (h : Hdr) (b : UBody)
  /-- R255: Computes A times B plus C exactly, then wraps or clamps once. -/
  | smad (h : Hdr) (b : UBody)
  /-- R255: Bitwise AND of uniform operands. -/
  | sand (h : Hdr) (b : UBody)
  /-- R255: Bitwise OR of uniform operands. -/
  | sor (h : Hdr) (b : UBody)
  /-- R255: Bitwise XOR of uniform operands. -/
  | sxor (h : Hdr) (b : UBody)
  /-- R255: Shifts a uniform operand left, giving 0 for counts of w or more. -/
  | sshl (h : Hdr) (b : UBody)
  /-- R255: Shifts a uniform operand right logically. -/
  | sshr (h : Hdr) (b : UBody)
  /-- R255: Shifts a uniform operand right arithmetically. -/
  | ssra (h : Hdr) (b : UBody)
  /-- R255: Writes the signed or unsigned minimum. -/
  | smin (h : Hdr) (b : UBody)
  /-- R255: Writes the signed or unsigned maximum. -/
  | smax (h : Hdr) (b : UBody)
  /-- R256: Compares two uniform operands, writes 1 or 0 and optionally sets a predicate for the lanes of g. -/
  | scmp (h : Hdr) (b : UBody)
  /-- R257: Selects one of two uniform operands by a register value or by any or all lanes of a predicate. -/
  | ssel (h : Hdr) (b : UBody)
  /-- R255: Counts the 1 bits of a uniform operand. -/
  | spopc (h : Hdr) (b : UBody)
  /-- R255: Counts the leading zeros of a uniform operand. -/
  | sclz (h : Hdr) (b : UBody)
  /-- R258: Extracts a bit field and extends it by sign or with zeros. -/
  | sbfx (h : Hdr) (b : UBody)
  /-- R258: Inserts the low bits of one operand into a field of another. -/
  | sbfi (h : Hdr) (b : UBody)
  /-- R258: Adds a shifted, extended offset to a 64-bit base. -/
  | slea (h : Hdr) (b : UBody)
  /-- R259: Reads a special register into a uniform register or pair. -/
  | srd (h : Hdr) (b : UBody)
  /-- R259: Reads a special register into each lane of g of a vector register, tagged N32. -/
  | srdV (h : Hdr) (b : UBody)
  /-- R260: Writes a uniform value into sr.lfsr of each lane of g. -/
  | swr (h : Hdr) (b : UBody)
  /-- R260: Writes each lane's own vector value into its sr.lfsr. -/
  | swrV (h : Hdr) (b : UBody)
  /-- R261: Loads one location into a uniform register on the core path. -/
  | sld (h : Hdr) (b : UBody)
  /-- R261: Stores a uniform value to one location on the core path. -/
  | sst (h : Hdr) (b : UBody)
  /-- R262: Writes a predicate ANDed with the guarded set into a uniform register. -/
  | sballot (h : Hdr) (b : UBody)
  /-- R26: Translates a uniform base without faulting and establishes an anchor VALID or STALE. -/
  | anchor (h : Hdr) (b : AnchorBody)
  /-- R264: Sends the lanes of g to the branch target, diverging the split. -/
  | br (h : Hdr) (b : CBody)
  /-- R265: Sends each lane of g through a jump table to a PAD target, diverging by target. -/
  | brx (h : Hdr) (b : CBody)
  /-- R266: Performs nothing; marks a labelled BRX target. -/
  | pad (h : Hdr) (b : CBody)
  /-- R267: Branches the lanes of g and writes the link into a uniform pair. -/
  | call (h : Hdr) (b : CBody)
  /-- R267: Sends the lanes of g to the PC held in a uniform pair. -/
  | ret (h : Hdr) (b : CBody)
  /-- R269: Makes the split wait at a convergence point until the other splits wait at a JOIN or end. -/
  | join (h : Hdr) (b : CBody)
  /-- R268: Decrements a count and sends the lanes of g back to the target while it is non-zero. -/
  | loop (h : Hdr) (b : CBody)
  /-- R270: Retires the lanes of g and, when none remain, completes the group after any implicit AWAIT. -/
  | exit (h : Hdr) (b : CBody)
  /-- R271: Removes the split from the ready set until another split is ready or 16 ac pass. -/
  | yield (h : Hdr) (b : CBody)
  /-- R272: Performs nothing. -/
  | nop (h : Hdr) (b : CBody)
  /-- R273: Raises the program fault BKPT with a code and halts the context. -/
  | bkpt (h : Hdr) (b : CBody)
  /-- R273: Raises the program fault TRAP with a code and halts the context. -/
  | trap (h : Hdr) (b : CBody)
  /-- R277: Adds vector lanes or elements, wrapping or saturating. -/
  | vadd (h : Hdr) (b : VBody)
  /-- R277: Subtracts vector lanes or elements. -/
  | vsub (h : Hdr) (b : VBody)
  /-- R277: Writes the low bits of each vector product, or the clamped product. -/
  | vmul (h : Hdr) (b : VBody)
  /-- R277: Writes the high 32 bits of each exact 64-bit product. -/
  | vmulh (h : Hdr) (b : VBody)
  /-- R277: Writes the per-lane minimum. -/
  | vmin (h : Hdr) (b : VBody)
  /-- R277: Writes the per-lane maximum. -/
  | vmax (h : Hdr) (b : VBody)
  /-- R277: Writes the absolute value of each lane or element. -/
  | vabs (h : Hdr) (b : VBody)
  /-- R277: Bitwise AND of vector registers, tagged RAW. -/
  | vand (h : Hdr) (b : VBody)
  /-- R277: Bitwise OR of vector registers, tagged RAW. -/
  | vor (h : Hdr) (b : VBody)
  /-- R277: Bitwise XOR of vector registers, tagged RAW. -/
  | vxor (h : Hdr) (b : VBody)
  /-- R277: Bitwise complement of a vector register, tagged RAW. -/
  | vnot (h : Hdr) (b : VBody)
  /-- R278: Shifts each lane left by a lane or immediate count. -/
  | vshl (h : Hdr) (b : VBody)
  /-- R278: Shifts each lane right logically. -/
  | vshr (h : Hdr) (b : VBody)
  /-- R278: Shifts each lane right arithmetically. -/
  | vsra (h : Hdr) (b : VBody)
  /-- R277: Counts the 1 bits of each lane. -/
  | vpopc (h : Hdr) (b : VBody)
  /-- R277: Counts the leading zeros of each lane. -/
  | vclz (h : Hdr) (b : VBody)
  /-- R279: Extracts a bit field of each lane. -/
  | vbfx (h : Hdr) (b : VBody)
  /-- R280: Compares integer lanes into a predicate and optionally a mask register. -/
  | vcmp (h : Hdr) (b : VBody)
  /-- R277: Copies a vector register with its tag. -/
  | vmov (h : Hdr) (b : VBody)
  /-- R277: Writes an immediate to every lane of g, tagged RAW. -/
  | vmovi (h : Hdr) (b : VBody)
  /-- R281: Adds FP32 lanes with one rounding. -/
  | vfadd (h : Hdr) (b : VBody)
  /-- R281: Multiplies FP32 lanes with one rounding. -/
  | vfmul (h : Hdr) (b : VBody)
  /-- R281: Writes the FP32 minimum under the ordering of R56. -/
  | vfmin (h : Hdr) (b : VBody)
  /-- R281: Writes the FP32 maximum under the ordering of R56. -/
  | vfmax (h : Hdr) (b : VBody)
  /-- R285: Approximates 1/a in each lane. -/
  | vfrcp (h : Hdr) (b : VBody)
  /-- R285: Approximates the reciprocal square root in each lane. -/
  | vfrsq (h : Hdr) (b : VBody)
  /-- R281: Writes the correctly rounded square root of each lane. -/
  | vfsqrt (h : Hdr) (b : VBody)
  /-- R285: Approximates 2 to the power a in each lane. -/
  | vfexp2 (h : Hdr) (b : VBody)
  /-- R285: Approximates log base 2 in each lane. -/
  | vflog2 (h : Hdr) (b : VBody)
  /-- R285: Approximates the sine of a turn fraction in each lane. -/
  | vfsin (h : Hdr) (b : VBody)
  /-- R285: Approximates the cosine of a turn fraction in each lane. -/
  | vfcos (h : Hdr) (b : VBody)
  /-- R282: Compares FP32 lanes into a predicate and optionally a mask register. -/
  | vfcmp (h : Hdr) (b : VBody)
  /-- R283: Classifies each FP32 lane and tests the class against a mask. -/
  | vfclass (h : Hdr) (b : VBody)
  /-- R284: Rounds each FP32 lane to an integral value. -/
  | vfrnd (h : Hdr) (b : VBody)
  /-- R284: Writes a minus Floor(a), rounded toward zero. -/
  | vffrc (h : Hdr) (b : VBody)
  /-- R286: Adds packed BF16 or FP16 elements. -/
  | vpadd (h : Hdr) (b : VBody)
  /-- R286: Multiplies packed BF16 or FP16 elements. -/
  | vpmul (h : Hdr) (b : VBody)
  /-- R286: Writes the minimum of packed elements. -/
  | vpmin (h : Hdr) (b : VBody)
  /-- R286: Writes the maximum of packed elements. -/
  | vpmax (h : Hdr) (b : VBody)
  /-- R287: Converts each element between formats with the same element count. -/
  | vcvt (h : Hdr) (b : VBody)
  /-- R288: Narrows two or four source registers into one packed container. -/
  | vpack (h : Hdr) (b : VBody)
  /-- R289: Widens a selected part of a packed container. -/
  | vunpk (h : Hdr) (b : VBody)
  /-- R290: Rewrites the format tag of a register without changing its bits. -/
  | vtag (h : Hdr) (b : VBody)
  /-- R292: Gives each lane of g the value of a source lane selected by mode. -/
  | vshfl (h : Hdr) (b : VBody)
  /-- R293: Broadcasts one source lane's value to every lane of g. -/
  | vbcast (h : Hdr) (b : VBody)
  /-- R294: Reduces the lanes of g over a fixed binary tree into lanes or a uniform register. -/
  | vred (h : Hdr) (b : VBody)
  /-- R295: Computes an inclusive or exclusive prefix over the lanes of g in lane order. -/
  | vscan (h : Hdr) (b : VBody)
  /-- R296: Writes the mask of lanes of g whose value is non-zero to a uniform register. -/
  | vballot (h : Hdr) (b : VBody)
  /-- R277: Computes a times b plus c exactly, then wraps or clamps once. -/
  | vmad (h : Hdr) (b : V3Body)
  /-- R279: Inserts a per-lane bit field. -/
  | vbfi (h : Hdr) (b : V3Body)
  /-- R277: Selects a or b per lane by a predicate. -/
  | vsel (h : Hdr) (b : V3Body)
  /-- R281: Computes FP32 a times b plus c with one rounding. -/
  | vfma (h : Hdr) (b : V3Body)
  /-- R286: Computes packed fused multiply-add with one rounding per element. -/
  | vpfma (h : Hdr) (b : V3Body)
  /-- R298: Interpolates a plus c times b minus a with one rounding. -/
  | vlerp (h : Hdr) (b : V3Body)
  /-- R297: Sums four element products with an accumulator. -/
  | vdot4 (h : Hdr) (b : V3Body)
  /-- R297: Sums two element products with an accumulator. -/
  | vdot2 (h : Hdr) (b : V3Body)
  /-- R302: Loads one value per lane of g from its formed address. -/
  | ld (h : Hdr) (b : MBody)
  /-- R302: Stores one value per lane of g to its formed address. -/
  | st (h : Hdr) (b : MBody)
  /-- R304: Loads whole register lines from translated space. -/
  | ldx (h : Hdr) (b : MBody)
  /-- R304: Stores whole register lines to translated space. -/
  | stx (h : Hdr) (b : MBody)
  /-- R304: Loads whole register lines from the own Alcove. -/
  | lda (h : Hdr) (b : MBody)
  /-- R304: Stores whole register lines to the own Alcove. -/
  | sta (h : Hdr) (b : MBody)
  /-- R304: Loads whole register lines from an Atrium page. -/
  | ldat (h : Hdr) (b : MBody)
  /-- R304: Stores whole register lines to an Atrium page. -/
  | stat (h : Hdr) (b : MBody)
  /-- R305: Performs one atomic per lane of g at the location's home and returns the old value. -/
  | atom (h : Hdr) (b : MBody)
  /-- R305: Performs one atomic per lane of g with no value returned. -/
  | atomNr (h : Hdr) (b : MBody)
  /-- R306: Applies a line operation to two consecutive Atrium rows. -/
  | atoma (h : Hdr) (b : MBody)
  /-- R308: Fetches one texel per lane through the level-of-detail fetch with a status code. -/
  | ldlod (h : Hdr) (b : MBody)
  /-- R309: Gathers a 2 x 2 texel footprint and its weights per lane. -/
  | txg (h : Hdr) (b : MBody)
  /-- R310: Performs the level-of-detail fetch without reading the texel and logs no feedback. -/
  | resq (h : Hdr) (b : MBody)
  /-- R310: Performs the residency query and logs feedback as a fetch would. -/
  | resqFb (h : Hdr) (b : MBody)
  /-- R307: Prefetches each lane's line into the L1. -/
  | prefL1 (h : Hdr) (b : MBody)
  /-- R307: Prefetches each lane's line into its home slice. -/
  | prefL2 (h : Hdr) (b : MBody)
  /-- R142: Issues a linear copy, with optional status, barrier and follow-on. -/
  | cpy (h : Hdr) (b : ABody)
  /-- R142: Issues a zero-fill copy. -/
  | cpyz (h : Hdr) (b : ABody)
  /-- R143: Issues a reduction copy from the Alcove to memory. -/
  | cpyr (h : Hdr) (b : ABody)
  /-- R144: Issues one 32-byte lane copy per lane of g into the Alcove. -/
  | cpyl (h : Hdr) (b : ABody)
  /-- R146: Issues a lattice load copy by block walk or window walk into the Alcove. -/
  | cpytLd (h : Hdr) (b : ABody)
  /-- R146: Issues a block-walk lattice store copy from the Alcove. -/
  | cpytSt (h : Hdr) (b : ABody)
  /-- R153: Waits until any masked tag is ready and returns the ready mask. -/
  | twany (h : Hdr) (b : ABody)
  /-- R153: Waits until every masked tag is ready. -/
  | twall (h : Hdr) (b : ABody)
  /-- R153: Waits for the masked tag with the oldest outstanding copy and returns its number. -/
  | tfirst (h : Hdr) (b : ABody)
  /-- R315: Returns a tag's outstanding count. -/
  | tcnt (h : Hdr) (b : ABody)
  /-- R158: Initialises an arrival barrier with a quorum. -/
  | abinit (h : Hdr) (b : ABody)
  /-- R158: Adds expected bytes to a barrier's current phase. -/
  | abexp (h : Hdr) (b : ABody)
  /-- R158: Releases and counts an arrival at a barrier, returning the token. -/
  | abarr (h : Hdr) (b : ABody)
  /-- R158: Waits until the barrier's phase differs from the token or it is BROKEN. -/
  | abwait (h : Hdr) (b : ABody)
  /-- R316: Reports at once whether the barrier's phase differs from the token. -/
  | abtest (h : Hdr) (b : ABody)
  /-- R163: Takes the next producer position and waits for its tread to be empty. -/
  | flacqP (h : Hdr) (b : ABody)
  /-- R163: Takes the next consumer position and waits for its tread to be full. -/
  | flacqC (h : Hdr) (b : ABody)
  /-- R163: Releases a producer position, marking the tread full. -/
  | flrelP (h : Hdr) (b : ABody)
  /-- R163: Releases a consumer position, emptying the tread and flipping its phase. -/
  | flrelC (h : Hdr) (b : ABody)
  /-- R319: Arrives at a banister tag and waits on the token received. -/
  | ban (h : Hdr) (b : ABody)
  /-- R319: Arrives at a banister tag and returns the token. -/
  | bana (h : Hdr) (b : ABody)
  /-- R319: Waits until a banister tag's phase differs from a token. -/
  | banw (h : Hdr) (b : ABody)
  /-- R327: Loads a stationary tile from packed weights. -/
  | ldwMem (h : Hdr) (b : XBody)
  /-- R328: Makes a raster sample tile for a block origin. -/
  | ldwSmp (h : Hdr) (b : XBody)
  /-- R329: Sets the group scales of a weight tile. -/
  | ldws (h : Hdr) (b : XBody)
  /-- R330: Releases a stationary tile once its operations retire. -/
  | trel (h : Hdr) (b : XBody)
  /-- R336: Streams activation rows from the Alcove against a tile into accumulators. -/
  | mma (h : Hdr) (b : XBody)
  /-- R336: Streams activation rows from memory or a window walk against a tile into accumulators. -/
  | mmag (h : Hdr) (b : XBody)
  /-- R337: Multiplies each lane's K-vector against a tile it names into vector registers. -/
  | vxm (h : Hdr) (b : XBody)
  /-- R331: Sets the mode of a run of accumulators and clears them. -/
  | accz (h : Hdr) (b : XBody)
  /-- R332: Loads an accumulator from an accumulator image. -/
  | accld (h : Hdr) (b : XBody)
  /-- R332: Writes an accumulator image. -/
  | accstRaw (h : Hdr) (b : XBody)
  /-- R333: Applies the post-operator program to a block of elements and writes the outputs. -/
  | accstPost (h : Hdr) (b : XBody)
  /-- R334: Reads one accumulator row into a vector register per lane. -/
  | accrdEl (h : Hdr) (b : XBody)
  /-- R334: Reads an accumulator's flags, mode and raster presence into a uniform register. -/
  | accrdSt (h : Hdr) (b : XBody)
  /-- R335: Sets a linear pre-operator with a K limit. -/
  | preopLin (h : Hdr) (b : XBody)
  /-- R335: Sets a transposed pre-operator with a K limit. -/
  | preopTr (h : Hdr) (b : XBody)
  /-- R335: Sets a window pre-operator from a lattice descriptor. -/
  | preopWin (h : Hdr) (b : XBody)
  /-- R338: Loads a post-operator program into an accumulator. -/
  | postop (h : Hdr) (b : XBody)
  /-- R339: Forms edge rows for primitive records and accumulates edge values against a sample tile. -/
  | edge (h : Hdr) (b : XBody)
  /-- R341: Writes per-primitive coverage masks into a vector register. -/
  | cvg (h : Hdr) (b : XBody)
  /-- R344: Combines source and destination colours through a blend matrix tile. -/
  | blend (h : Hdr) (b : XBody)
  /-- R343: Filters points against a 16 x 16 texel patch tile. -/
  | flt (h : Hdr) (b : XBody)
  /-- R346: Resolves covered samples into a Resolver slot with the less-than test. -/
  | rslvLt (h : Hdr) (b : XBody)
  /-- R346: Resolves covered samples into a Resolver slot with the less-or-equal test. -/
  | rslvLe (h : Hdr) (b : XBody)
  /-- R347: Copies a Resolver slot to memory. -/
  | rslvRd (h : Hdr) (b : XBody)
  /-- R347: Copies memory into a Resolver slot. -/
  | rslvLd (h : Hdr) (b : XBody)
  /-- R347: Sets every entry of a Resolver slot to a clear depth and background ids. -/
  | rslvClr (h : Hdr) (b : XBody)
  /-- R348: Submits Binner input records to a list set. -/
  | binfl (h : Hdr) (b : XBody)
  /-- R353: Spawns child tasks at a uniform entry and pushes the continuation. -/
  | spawn (h : Hdr) (b : TBody)
  /-- R353: Spawns child tasks at per-lane entries, one child group per entry. -/
  | spawnLane (h : Hdr) (b : TBody)
  /-- R354: Creates a dependent task that waits on up to four futures. -/
  | spawnc (h : Hdr) (b : TBody)
  /-- R355: Waits for the frame's children and acquires their signatures. -/
  | await (h : Hdr) (b : TBody)
  /-- R356: Resets a future to EMPTY unless waiters remain, and clears its block. -/
  | fnew (h : Hdr) (b : TBody)
  /-- R357: Releases and resolves a future with a value. -/
  | fres (h : Hdr) (b : TBody)
  /-- R357: Releases and resolves a future as FAULTED. -/
  | fflt (h : Hdr) (b : TBody)
  /-- R358: Waits for a future to be resolved and acquires. -/
  | fwait (h : Hdr) (b : TBody)
  /-- R358: Reads a future's state once without waiting. -/
  | fpoll (h : Hdr) (b : TBody)
  /-- R360: Arrives at a reorder point that sorts live lanes by key. -/
  | reorder (h : Hdr) (b : TBody)
  /-- R361: Samples the die counter and the die id. -/
  | time (h : Hdr) (b : TBody)
  /-- R362: Reads a field of a named context. -/
  | ctxrd (h : Hdr) (b : TBody)
  /-- R362: Writes a field of a named context. -/
  | ctxwr (h : Hdr) (b : TBody)
  /-- R364: Takes the oldest privileged-queue record, or returns empty. -/
  | evpop (h : Hdr) (b : TBody)
  /-- R364: Waits until a privileged-queue record exists and takes it. -/
  | evpopWait (h : Hdr) (b : TBody)
  /-- R365: Invalidates translations of a range in one ASID across the package. -/
  | tlbinvRange (h : Hdr) (b : TBody)
  /-- R365: Invalidates every translation of one ASID. -/
  | tlbinvAsid (h : Hdr) (b : TBody)
  /-- R365: Invalidates every translation of every ASID of the issuing function. -/
  | tlbinvFn (h : Hdr) (b : TBody)
  /-- R366: Sends a wake notice for a range of one ASID. -/
  | mapqRange (h : Hdr) (b : TBody)
  /-- R366: Sends a wake notice for a whole ASID. -/
  | mapqAsid (h : Hdr) (b : TBody)
  /-- R366: Sends a wake notice for every ASID of the function. -/
  | mapqFn (h : Hdr) (b : TBody)
  /-- R363: Halts a named context and waits for it to settle. -/
  | haltcHalt (h : Hdr) (b : TBody)
  /-- R363: Resumes a halted context. -/
  | haltcResume (h : Hdr) (b : TBody)
  /-- R363: Kills a context, writing completion records and resolving its futures. -/
  | haltcKill (h : Hdr) (b : TBody)
  /-- R368: Performs nothing; values 1-3 give eviction, polling or allocation preferences. -/
  | hint (h : BitVec 10)
  /-- R174: At an issue decision, merges splits with equal PCs, pops the stack and releases the lowest waiting JOIN. -/
  | joinRelease (core : Nat) (slot : Nat)
  /-- R191: When all participants arrive, sorts and deals lanes and ORs the signature union into every frame. -/
  | reorderRendezvous (core : Nat) (slot : Nat)
  /-- R170: A register-cache miss returns a line from its home, evicting by preference. -/
  | registerLineFill (core : Nat) (line : RegLine)
  /-- R243: A variable-latency result is written and the scoreboard releases held instructions. -/
  | variableResultWrite (core : Nat) (slot : Nat) (id : Nat)
  /-- R221: A fetch line fills the instruction cache, checking parity and retrying once. -/
  | instructionLineFill (core : Nat) (asid : Nat) (va : W64)
  /-- R29: A walk for a lookup page completes, installing a leaf or reporting a fault to its waiters. -/
  | pageWalk (core : Nat) (asid : Nat) (page : Nat)
  /-- R37: A recipient invalidates matching entries, stales anchors and empties its filter and instruction cache. -/
  | tlbinvReceive (op : Nat) (rcp : Nat)
  /-- R37: A recipient's in-flight accesses under old entries are performed and it acknowledges. -/
  | tlbinvDrainAck (op : Nat) (rcp : Nat)
  /-- R37: Every acknowledgement has arrived and the invalidation completes. -/
  | tlbinvComplete (op : Nat)
  /-- R366: A recipient wakes matching parked splits, copies and Array streams and empties its filter. -/
  | mapqNoticeReceive (op : Nat) (rcp : Nat)
  /-- R366: Every recipient has acted on the notice and the MAPQ completes. -/
  | mapqComplete (op : Nat)
  /-- R103: A registration arrives at the home, recalling overlapping or oldest owners, then records the owner. -/
  | l2Registration (id : Nat)
  /-- R49: A write-back merges exactly its dirty bytes at the home and removes its owner. -/
  | l2WritebackMerge (id : Nat)
  /-- R54: A read at the home forwards to owners and proceeds after their write-backs merge. -/
  | l2Read (id : Nat)
  /-- R56: The slice ALU performs an atomic and returns the old value. -/
  | l2Atomic (id : Nat)
  /-- R56: The slice ALU applies a copy's reduction to a line. -/
  | l2Reduction (id : Nat)
  /-- R58: An Atrium bank performs one load, store, atomic or line operation. -/
  | atriumBankOperation (id : Nat)
  /-- R187: The bank decides an FWAIT against resolution, adding a waiter or returning the resolved word. -/
  | waitRegistrationOp (id : Nat)
  /-- R187: The bank swaps a frame handle into the future's overflow list or returns the resolved word. -/
  | galleryRegistrationOp (id : Nat)
  /-- R188: The bank resolves a future, multicasts a notice and posts the list head. -/
  | futureResolutionOp (id : Nat)
  /-- R188: A core wakes and frees every wait-table entry matching the notice. -/
  | resolutionNoticeReceive (id : Nat) (core : Nat)
  /-- R385: A bank posts a list head to the Porter's wake queue, retrying while it is full. -/
  | wakeQueuePost (hall : Nat)
  /-- R385: The Porter walks a Gallery list, making frames ready or decreasing REM. -/
  | wakeQueueHead (hall : Nat)
  /-- R107: After its signature ORs are acknowledged, a child decrements the parent's pending count. -/
  | awaitPendingDecrement (id : Nat)
  /-- R107: When the pending count reaches zero AWAIT reads, clears and acquires the await block. -/
  | awaitComplete (core : Nat) (slot : Nat)
  /-- R183: A free group slot binds a ready frame, its deque top, or steals from another core. -/
  | slotBind (core : Nat) (slot : Nat) (victim : (Option Nat))
  /-- R140: The CE reads a beat's source and performs it at its destination, crediting its barrier. -/
  | copyBeat (core : Nat) (seq : Nat)
  /-- R145: The CE starts a lattice copy, reading and checking the lattice and ending malformed ones with MAP. -/
  | copyLatticeStart (core : Nat) (seq : Nat)
  /-- R150: After the last beat the CE issues the follow-on matrix command to the Array. -/
  | followOnIssue (core : Nat) (seq : Nat)
  /-- R154: A copy ORs its signature into its tag, writes its status word and decreases the tag count. -/
  | copyComplete (core : Nat) (seq : Nat)
  /-- R319: Once every core has counted its arrivals the phase increments and the release is broadcast. -/
  | banisterPhaseRelease (cid : Nat) (tag : Nat)
  /-- R322: An Array operation clears the per-tile interlock, is checked and starts running. -/
  | arrayOpDispatch (core : Nat) (seq : Nat)
  /-- R322: An Array operation's effects are all performed and its tiles are released to held instructions. -/
  | arrayOpRetire (core : Nat) (seq : Nat)
  /-- R411: The Binner checks FULL and bins one input record to all its tiles or none. -/
  | binnerPrimitive (core : Nat) (seq : Nat)
  /-- R82: The ring header's bank reserves an index or refuses, counting drops. -/
  | feedbackReserve (id : Nat)
  /-- R80: The unit writes a reserved ring entry and inserts its key in the filter, or sets LOST. -/
  | feedbackEntryWrite (id : Nat)
  /-- R67: The migration engine takes the next command and write-protects the page. -/
  | migrationCommand (annex : Nat)
  /-- R67: After an engine TLBINV completes, the engine copies, swaps the frame, wakes and posts MIGRATION_DONE. -/
  | migrationInvalidationDone (annex : Nat)
  /-- R373: The Porter chooses the next launch record by priority, weighted share and queue number. -/
  | porterRecordSelect (hall : Nat)
  /-- R375: An admitted launch is given a CID and placed by the Porter or by a host PLACE. -/
  | contextPlacement (q : Nat) (origin : Origin)
  /-- R376: Reservations on a core complete as resources free and bind records are written. -/
  | resourceReservation (cid : Nat) (core : Nat)
  /-- R376: A core performs the ASID sweep and starts a committed group. -/
  | groupStart (cid : Nat) (core : Nat)
  /-- R401: Cores stop issuing for the context and engines stop or complete late. -/
  | saveLineArrival (cid : Nat) (core : Nat) (late : (List Nat))
  /-- R401: Image sections are written, resources freed and STATE becomes saved. -/
  | preemptSaveComplete (cid : Nat)
  /-- R400: A saved image is reserved, reloaded, swept and re-issued on a new rectangle. -/
  | contextRestore (cid : Nat) (origin : Origin)
  /-- R111: A crew whose groups and engine operations are done writes its record and resolves its future. -/
  | crewCompletion (cid : Nat) (crew : Nat)
  /-- R383: A held event is posted once the full ring has room. -/
  | eventHeldPost (vf : Nat)
  /-- R384: The Porter starts the handler launch from EVHL when the privileged ring is non-empty. -/
  | handlerLaunchStart (vf : Nat)
  /-- R391: A core's engines stop starting work of the halted context within the skid bound. -/
  | haltLineArrival (cid : Nat) (core : Nat)
  /-- R391: A core writes register lines, accumulators and stop records, releases and sets SETTLED. -/
  | haltSettle (cid : Nat) (core : Nat)
  /-- R391: When every unit has settled the context enters STATE 3 and one HALT event is posted. -/
  | contextHalted (cid : Nat)
  /-- R428: Writes a management register with no behaviour of its own; bad accesses read 0 and change nothing. -/
  | managementRegisterWrite (vf : Nat) (off : Nat) (size : Nat) (val : W64)
  /-- R241: The result of a fixed-latency instruction issued at ac n is written, all lanes and tag together, at ac n + L. -/
  | fixedLatencyResultWrite (core : Nat) (slot : Nat) (id : Nat)
  /-- R238: Issue of an instruction whose OPC is unassigned outside the hint region traps ILLEGAL_OPCODE precisely. -/
  | unassignedOpcode (w : BitVec 96)
  /-- R17: Writes the ASID table base, ignored while any context is live. -/
  | astbWrite (val : W64)
  /-- R64: Writes hotness control, clearing every sketch and starting a new interval. -/
  | hotctlWrite (val : W64)
  /-- R66: Advances the migration ring tail, making commands pending. -/
  | mgtlWrite (annex : Nat) (val : W64)
  /-- R431: Writing DCTL.RESET resets the die's unit, killing its contexts. -/
  | dctlReset (die : Nat)
  /-- R438: Writing DCTL.WITHDRAW withdraws the unit until device reset. -/
  | dctlWithdraw (die : Nat)
  /-- R386: Writes a function's duty split, redirecting held records and emptying filters for FEEDBACK. -/
  | dsrWrite (f : Nat) (val : W64)
  /-- R398: Clearing FROZEN restores a function's queue service. -/
  | vfrzClear (f : Nat) (val : W64)
  /-- R384: Writing EVHL or EVHA re-enables starting a refused handler launch. -/
  | evhlWrite (f : Nat) (evha : Bool) (val : W64)
  /-- R387: Host writes HEAD of HFRB or HERB, freeing ring space. -/
  | hostRingHeadWrite (f : Nat) (events : Bool) (val : W64)
  /-- R387: Host writes HCRB TAIL, making commands pending. -/
  | hcrbTailWrite (f : Nat) (val : W64)
  /-- R416: Writes a Resolver slot owner; a function view changes only CV and CID of its granted slot. -/
  | rsownWrite (by_ : Writer) (hall : Nat) (slot : Nat) (val : W64)
  /-- R432: Holds a new rate until the next DTOFF write of the die. -/
  | dtrateWrite (die : Nat) (val : W64)
  /-- R432: Writes the offset and applies any held rate. -/
  | dtoffWrite (die : Nat) (val : W64)
  /-- R432: Reads the offset and latches the effective rate for the next DTRATE read. -/
  | dtoffRead (die : Nat)
  /-- R434: A host access through BAR2 is performed at the line's home. -/
  | hostBar2Access (vf : Nat) (off : Nat) (acc : HostAccess)
  /-- R436: An inbound peer access is performed at its home or refused. -/
  | peerInboundAccess (port : Nat) (pa : Nat) (acc : HostAccess)
  /-- R437: A link retrains at reduced width, replays in-flight flits and posts an event. -/
  | linkRetrained (port : Nat) (lanes : Nat)
  /-- R434: An FLR of a VF kills its contexts, stops its queues and resets its registers. -/
  | functionLevelReset (f : Nat)
  /-- R441: The leading Annex verifies each die's firmware image under both schemes. -/
  | powerOn (images : (List (List Byte)))
  /-- R443: Neighbouring dies exchange nonces and certificates, withdrawing a unit that fails. -/
  | linkAuthentication (link : Nat) (msg : AuthMsg)
  /-- R442: After a good boot the root of trust raises each SVN floor. -/
  | svnFloorRaise
  /-- R444: Answers the SPDM GET_VERSION request. -/
  | spdmGetVersion (req : (List Byte))
  /-- R444: Answers the SPDM GET_CAPABILITIES request. -/
  | spdmGetCapabilities (req : (List Byte))
  /-- R444: Answers the SPDM NEGOTIATE_ALGORITHMS request. -/
  | spdmNegotiateAlgorithms (req : (List Byte))
  /-- R444: Answers the SPDM GET_DIGESTS request. -/
  | spdmGetDigests (req : (List Byte))
  /-- R444: Answers the SPDM GET_CERTIFICATE request. -/
  | spdmGetCertificate (req : (List Byte))
  /-- R444: Answers the SPDM CHALLENGE request. -/
  | spdmChallenge (req : (List Byte))
  /-- R444: Returns the image digests, SVN floors and LMS signature blocks. -/
  | spdmGetMeasurements (req : (List Byte))
  /-- R446: Every 10 s each die posts a health report, DEGRADED on a high correctable rate. -/
  | periodicHealthReport (die : Nat)
  /-- R446: A single-bit error is corrected and counted. -/
  | correctableSoftError (die : Nat)
  /-- R446: An uncorrectable error resets its unit and posts a REPLACE report. -/
  | uncorrectableSoftError (die : Nat)
  /-- R448: A junction above 105 °C forces 470 MHz and posts a thermal report. -/
  | thermalThrottle (die : Nat) (temp : Nat)
  /-- R448: A junction above 115 °C asserts thermal trip and removes core power. -/
  | thermalTrip (die : Nat) (temp : Nat)
  /-- R447: Sets the package power cap. -/
  | pldmSetPowerCap (watts : Nat)
  /-- R447: Sets the arithmetic clock ceiling. -/
  | pldmSetClockCeiling (mhz : Nat)
  /-- R447: Returns junction and HBM temperatures. -/
  | pldmReadTemperature (die : Nat)
  /-- R447: Returns package power. -/
  | pldmReadPackagePower
  /-- R447: The arithmetic clock moves to the highest allowed step at instruction boundaries. -/
  | clockStepChange (power : Nat)
  /-- R373: Every 1 ms the served-time integrals restart at zero. -/
  | shareWindowRestart
  /-- R377: Every 16 ms each function's pre-emption budget restarts. -/
  | preemptBudgetWindow
  /-- R370: A write to a queue doorbell advances TAIL and wakes the serving Porter. -/
  | doorbellWrite (vf : Nat) (q : Nat) (val : W64)
  /-- R397: A master that breaches the Corridor protocol is frozen whole until its die is reset, and every context with work there halts with MASTER_FROZEN. -/
  | corridorProtocolBreach (core : Nat)
  /-- R401: The Porter pre-empts a lower-priority context and raises its save line. -/
  | preempt (cid : Nat) (for_ : Nat)
  /-- R69: The Porter takes a filled free-frame ring entry, waiting for a reserved one. -/
  | freeFrameTake (ring : Nat)
  /-- R69: Each interval the Porter reads the windows, chooses hot pages and returns held frames. -/
  | porterMigrationSelect (annex : Nat) (picks : (List MigPick))
  /-- R84: In hardware mode the Porter passes complete ring entries as RESIDENCY_REQUEST events. -/
  | feedbackDrain (asid : Nat) (ring : W64)
  /-- R430: A flit whose age reaches CAGE is returned to its source with NAK. -/
  | flitAgeLimit (id : Nat)
  /-- R431: A held NAKed request is resent every 1 µs while the destination is in reset. -/
  | nakResend (id : Nat)
  /-- R431: A reset not complete within 50 ms withdraws the unit. -/
  | dieResetTimeout (die : Nat)
  /-- R431: A unit reset completes, STATE returns to good and DIE_RESET complete is posted. -/
  | dieResetComplete (die : Nat)
  /-- R388: A host command performs the invalidation of R365 without a write-back. -/
  | hostCmdTlbinv (vf : Nat)
  /-- R388: A host command sends a MAPQ notice. -/
  | hostCmdMapq (vf : Nat)
  /-- R388: A host command halts a context. -/
  | hostCmdHaltcHalt (vf : Nat)
  /-- R388: A host command resumes a context. -/
  | hostCmdHaltcResume (vf : Nat)
  /-- R388: A host command kills a context. -/
  | hostCmdHaltcKill (vf : Nat)
  /-- R388: A host command answers an open launch or restore placement request. -/
  | hostCmdPlace (vf : Nat)
  /-- R64: At the end of the sampling interval each controller writes its hot list and clears. -/
  | hotlistIntervalEnd
  /-- R50: A forward from the home makes a DR line write back and become clean. -/
  | l1ForwardRequest (core : Nat) (asid : Nat) (line : Nat)
  /-- R194: A group parked for more than 4,096 ac becomes evictable. -/
  | parkEvictionTimeout (core : Nat) (slot : Nat)
  /-- R379: A split ready for 1,024 ac without issuing becomes promoted. -/
  | issuePromotion (core : Nat) (slot : Nat) (split : Nat)
  /-- R271: A yielding split becomes ready again after 16 ac. -/
  | yieldExpiry (core : Nat) (slot : Nat) (split : Nat)
  /-- R321: The Array reloads an evicted stationary tile by replaying its load descriptor. -/
  | tileReload (cid : Nat) (crew : Nat) (tile : Nat)
  /-- R321: An idle accumulator is evicted to its context's image area. -/
  | accumulatorEvict (cid : Nat) (crew : Nat) (acc : Nat)
  /-- R188: A wait-table waiter whose slot is needed is moved to the Gallery by a new registration. -/
  | waiterToGallery (core : Nat) (slot : Nat) (split : Nat)
  /-- R194: An awaiting, Gallery or long-parked group is evicted from its slot. -/
  | groupEvict (core : Nat) (slot : Nat)
  /-- R386: In hardware mode the Porter maps what its policy allows and posts PAGE_MAPPED or a FAULT event. -/
  | porterFaultService (hall : Nat) (map : (Option PteWrite))
  /-- R167: A copy of a saved context completes against the saved image. -/
  | copyLateCompletion (cid : Nat) (seq : Nat)
  /-- R63: A 128-byte request reaches a memory controller, updates the hotness sketch and is decoded or encoded through compression metadata. -/
  | memoryControllerRequest (line : Nat) (write : Bool)
  /-- R33: A held fault record is posted in age order once its destination has space. -/
  | faultRecordHeldPost (core : Nat)
  /-- R406: After each ready split issues one instruction the context halts with STEP. -/
  | stepHalt (cid : Nat)
  deriving DecidableEq, Repr

end Sys2Proof
end

