-- ==== Sys2Proof/WellFormed.lean ====
section
/-! DEFINITION. Which instructions are well formed: the checks of R238 step 2 that an instruction's own fields decide,
each instruction's SUB values, NX values, RM, TY, AF, SZ and AM codes, register pairs and alignments, and the field
values its entry calls ILLEGAL_OPCODE. Registers beyond VREGS or UREGS, the role and the privilege are checked at issue
(Machine/Ops.lean). An event of the device carries no encoding and is well formed. -/

namespace Sys2Proof

/-- An even register number: the low half of a pair (R228). -/
def even (r : BitVec 6) : Bool := !r.getLsbD 0

/-- NX = 01 is legal in the C format only (R227). -/
def Hdr.nonC (h : Hdr) : Bool := h.nx != 1#2

/-- NX 00 or 11, all that BR, BRX, CALL, RET, LOOP, EXIT, BKPT and TRAP accept (R263). -/
def Hdr.plainNx (h : Hdr) : Bool := h.nx == 0#2 || h.nx == 3#2

def Hdr.subIs (h : Hdr) (k : Nat) : Bool := h.sub.toNat == k

def Hdr.subBelow (h : Hdr) (k : Nat) : Bool := h.sub.toNat < k

def Hdr.subIn (h : Hdr) (l : List Nat) : Bool := l.contains h.sub.toNat

/-- With W set, every operand named is a pair (R254). -/
def Hdr.wide (h : Hdr) (l : List (BitVec 6)) : Bool := !h.sub.getLsbD 0 || l.all even

/-- R258: the length is 1 to w and the field lies within w bits. -/
def fieldOk (h : Hdr) (b : UBody) : Bool :=
  let w := if h.sub.getLsbD 0 then 64 else 32
  let len := (b.imm.extractLsb' 0 7).toNat
  1 ≤ len && b.x8.toNat + len ≤ w

/-- The special registers of 64 bits: sr.trb and sr.time (R247). -/
def wideSr (x : BitVec 8) : Bool := x == 7#8 || x == 8#8

def tyIn (t : BitVec 4) (l : List Nat) : Bool := l.contains t.toNat

/-- The rounding modes of R236. -/
def rounds (rm : BitVec 3) : Bool := rm.toNat ≤ 4

/-- VBFX's position and length (R279). -/
def vfieldOk (imm : W32) : Bool :=
  let len := (imm.extractLsb' 8 8).toNat
  1 ≤ len && (imm.extractLsb' 0 8).toNat + len ≤ 32

/-- The pairs VCVT accepts, source first (R287). -/
def cvtPair (src dst : Nat) : Bool :=
  if src == dst then [1, 2, 3, 4, 5, 6, 7, 8, 9, 10, 11, 12, 13].contains src
  else ([1, 2, 3].contains src && [1, 2, 3].contains dst) || ([4, 5, 10].contains src && [4, 5, 10].contains dst) ||
    ([6, 7, 8, 9].contains src && [6, 7, 8, 9].contains dst) || ([12, 13].contains src && [12, 13].contains dst) ||
    (src == 3 && dst == 11) || (src == 11 && dst == 3)

/-- The VCVT pairs whose elements round in RM (R287). -/
def cvtRounds (src dst : Nat) : Bool :=
  src != dst && !([1, 2].contains src && [1, 2].contains dst) && !([8, 9].contains src && [8, 9].contains dst) &&
    !([12, 13].contains src)

/-- VPACK's pairs of ratio 2 (R288). -/
def packPair2 (src dst : Nat) : Bool :=
  (src == 3 && [4, 5, 10].contains dst) || (src == 1 && dst == 10) || ([4, 5].contains src && [6, 7].contains dst) ||
    (src == 10 && [8, 9].contains dst)

/-- VPACK's pairs of ratio 4 (R288). -/
def packPair4 (src dst : Nat) : Bool :=
  (src == 3 && [6, 7, 8, 9, 12, 13, 15].contains dst) || (src == 1 && [8, 9].contains dst)

/-- The VPACK pairs whose elements round in RM: neither integer narrowing nor a colour target (R288). -/
def packRounds (src dst : Nat) : Bool := [3, 4, 5].contains src && !([12, 13, 15].contains dst)

/-- How many parts VUNPK can select for a pair, 0 where the pair is not accepted (R289). -/
def unpkParts (src dst : Nat) : Nat :=
  if [6, 7].contains src && [4, 5].contains dst then 2
  else if [6, 7].contains src && dst == 3 then 4
  else if [4, 5].contains src && dst == 3 then 2
  else if [8, 9].contains src && dst == 10 then 2
  else if src == 8 && dst == 1 then 4
  else if src == 9 && dst == 2 then 4
  else if src == 10 && dst == 1 then 2
  else if [8, 9].contains src && dst == 3 then 4
  else if src == 10 && dst == 3 then 2
  else if [12, 13, 15].contains src && dst == 3 then 4
  else 0

/-- The operations and types of VRED and VSCAN (R294). -/
def redOp (cc ty : BitVec 4) : Bool :=
  let op := (cc.extractLsb' 0 3).toNat
  (tyIn ty [1, 2] && op ≤ 5) || (tyIn ty [3] && op ≤ 2)

/-- Only the f32 addition rounds (R294). -/
def redRounds (cc ty : BitVec 4) : Bool := cc.extractLsb' 0 3 == 0#3 && tyIn ty [3]

/-- R232: address mode 11 is illegal, and mode 10 names a pair. -/
def amOk (b : MBody) : Bool := b.am != 3#2 && (b.am != 2#2 || even b.ms)

def szIn (b : MBody) (l : List Nat) : Bool := l.contains b.sz.toNat

/-- The registers a size spans (R232). -/
def szRegs (b : MBody) : Nat := if b.sz == 5#4 then 2 else if b.sz == 6#4 then 4 else 1

/-- The alignment of MD (R232). -/
def mdAligned (b : MBody) : Bool := b.md.toNat % szRegs b == 0

/-- The result tag of a load (R300). -/
def tagOk (b : MBody) : Bool := if b.sz.toNat < 4 then b.mop == 0#4 else b.mop.toNat ≤ 14

/-- The line forms (R299): no lane offset, size 4, a count below 16. -/
def lineForm (b : MBody) : Bool := !b.xv && szIn b [4] && b.mc.toNat ≤ 15

/-- The combinations of operation, type and width of ATOM, and the alignment of its operand (R305). -/
def atomForm (b : MBody) : Bool :=
  szIn b [4, 5] && (b.sz == 4#4 || !b.mc.getLsbD 0) &&
    ((b.mp.toNat ≤ 1 && b.mop.toNat ≤ 2) || ((b.mp == 2#3 || b.mp == 3#3) && b.mop.toNat ≤ 2 && b.sz == 4#4) ||
      (b.mp == 4#3 && 3 ≤ b.mop.toNat && b.mop.toNat ≤ 7))

/-- Register `r` lies outside the span of `n` registers from `first`. -/
def outside (r first : BitVec 8) (n : Nat) : Bool := r.toNat < first.toNat || first.toNat + n ≤ r.toNat

/-- A status register, where one is named, is a uniform register (R311). -/
def uniStatus (b : ABody) : Bool := !b.se || (!b.sv && b.st.toNat < 64)

/-- A barrier, where one is named, stands in a pair (R233). -/
def barPair (b : ABody) : Bool := !b.be || even b.ba

/-- CPYR's operation in SUB bits 2-0 and type in bits 5-3 (R311), with the pairings of R143: operations 0 add, 1 min,
2 max, 3 and, 4 or; types 0 i32, 1 n32, 2 f32, 3 bf16, 4 b32. -/
def ropOk (h : Hdr) : Bool :=
  let op := (h.sub.extractLsb' 0 3).toNat
  let ty := (h.sub.extractLsb' 3 3).toNat
  (op == 0 && [0, 2, 3].contains ty) || ((op == 1 || op == 2) && ty ≤ 3) || ((op == 3 || op == 4) && ty == 4)

/-- The n of a banister arrival is 1 to 48 (R318). -/
def banCount (b : ABody) : Bool :=
  let n := (b.ai.extractLsb' 0 6).toNat
  1 ≤ n && n ≤ 48

/-- The opcodes the map of R237 leaves unassigned, outside the hint region. -/
def unassigned (opc : Byte) : Bool :=
  let n := opc.toNat
  (0x1C ≤ n && n ≤ 0x1F) || (0x2C ≤ n && n ≤ 0x2F) || (0x68 ≤ n && n ≤ 0x6F) || (0x7E ≤ n && n ≤ 0x8F) ||
    (0xA3 ≤ n && n ≤ 0xAF) || (0xC2 ≤ n && n ≤ 0xCF) || (0xE0 ≤ n && n ≤ 0xEF)

/-- The field checks of one instruction. -/
def Instr.wellFormed : Instr → Bool
  | .smov h b => h.nonC && h.subIn [0, 1] && h.wide [b.sd, b.sa]
  | .smovi h b => h.nonC && h.subIn [0, 1, 3] && h.wide [b.sd]
  | .sadd h b => h.nonC && h.subBelow 8 && h.wide [b.sd, b.sa] && (b.is || h.wide [b.sb])
  | .ssub h b => h.nonC && h.subBelow 8 && h.wide [b.sd, b.sa] && (b.is || h.wide [b.sb])
  | .smul h b => h.nonC && h.subBelow 8 && h.wide [b.sd, b.sa] && (b.is || h.wide [b.sb])
  | .smulh h b => h.nonC && h.subBelow 4 && h.wide [b.sd, b.sa] && (b.is || h.wide [b.sb])
  | .smad h b => h.nonC && h.subBelow 8 && h.wide [b.sd, b.sa, b.sc] && (b.is || h.wide [b.sb])
  | .sand h b => h.nonC && h.subBelow 2 && h.wide [b.sd, b.sa] && (b.is || h.wide [b.sb])
  | .sor h b => h.nonC && h.subBelow 2 && h.wide [b.sd, b.sa] && (b.is || h.wide [b.sb])
  | .sxor h b => h.nonC && h.subBelow 2 && h.wide [b.sd, b.sa] && (b.is || h.wide [b.sb])
  | .sshl h b => h.nonC && h.subBelow 2 && h.wide [b.sd, b.sa]
  | .sshr h b => h.nonC && h.subBelow 2 && h.wide [b.sd, b.sa]
  | .ssra h b => h.nonC && h.subBelow 2 && h.wide [b.sd, b.sa]
  | .smin h b => h.nonC && h.subBelow 4 && h.wide [b.sd, b.sa] && (b.is || h.wide [b.sb])
  | .smax h b => h.nonC && h.subBelow 4 && h.wide [b.sd, b.sa] && (b.is || h.wide [b.sb])
  | .scmp h b => h.nonC && h.subBelow 4 && b.x8.toNat ≤ 5 && h.wide [b.sa] && (b.is || h.wide [b.sb])
  | .ssel h b => h.nonC && h.subIn [0, 1, 8, 9, 16, 17] && h.wide [b.sd, b.sa] && (b.is || h.wide [b.sb])
  | .spopc h b => h.nonC && h.subBelow 2 && h.wide [b.sa]
  | .sclz h b => h.nonC && h.subBelow 2 && h.wide [b.sa]
  | .sbfx h b => h.nonC && h.subBelow 4 && h.wide [b.sd, b.sa] && fieldOk h b
  | .sbfi h b => h.nonC && h.subBelow 2 && h.wide [b.sd, b.sa, b.sc] && fieldOk h b
  | .slea h b => h.nonC && h.subIn [0, 2] && even b.sd && even b.sa && b.x8.toNat ≤ 63
  | .srd h b => h.nonC && h.subIs 0 && b.x8.toNat ≤ 15 && (!wideSr b.x8 || even b.sd)
  | .srdV h b => h.nonC && h.subIs 1 && b.x8.toNat ≤ 15 && !wideSr b.x8
  | .swr h b => h.nonC && h.subIs 0 && b.x8 == 0x0E#8
  | .swrV h b => h.nonC && h.subIs 1 && b.x8 == 0x0E#8
  | .sld h b => h.nonC && h.subBelow 6 && even b.sa && (!h.subIs 5 || even b.sd)
  | .sst h b => h.nonC && h.subIn [0, 2, 4, 5] && even b.sa && (!h.subIs 5 || even b.sb)
  | .sballot h _ => h.nonC && h.subIs 0
  | .anchor h b => h.nonC && h.subBelow 2 && even b.n
  | .br h _ => h.subIs 0 && h.plainNx
  | .brx h b => h.subIs 0 && h.plainNx && even b.ca && b.cx != 0#13
  | .pad h _ => h.subIs 0
  | .call h b => h.subIs 0 && h.plainNx && even b.ca
  | .ret h b => h.subIs 0 && h.plainNx && even b.ca
  | .join h _ => h.subIs 0
  | .loop h b => h.subIs 0 && h.plainNx && b.cx.toNat < 2 && (b.cx == 0#13 || even b.ca)
  | .exit h _ => h.subIs 0 && h.plainNx
  | .yield h _ => h.subIs 0
  | .nop h _ => h.subIs 0
  | .bkpt h _ => h.subIs 0 && h.plainNx
  | .trap h _ => h.subIs 0 && h.plainNx
  | .vadd h b => h.nonC && h.subIs 0 && tyIn b.ty [1, 2, 8, 9, 10, 14]
  | .vsub h b => h.nonC && h.subIs 0 && tyIn b.ty [1, 2, 8, 9, 10, 14]
  | .vmul h b => h.nonC && h.subIs 0 && tyIn b.ty [1, 2, 8, 9, 10]
  | .vmulh h b => h.nonC && h.subIs 0 && tyIn b.ty [1, 2]
  | .vmin h b => h.nonC && h.subIs 0 && tyIn b.ty [1, 2, 8, 9, 10, 14]
  | .vmax h b => h.nonC && h.subIs 0 && tyIn b.ty [1, 2, 8, 9, 10, 14]
  | .vabs h b => h.nonC && h.subIs 0 && tyIn b.ty [1, 8, 10]
  | .vand h _ => h.nonC && h.subIs 0
  | .vor h _ => h.nonC && h.subIs 0
  | .vxor h _ => h.nonC && h.subIs 0
  | .vnot h _ => h.nonC && h.subIs 0
  | .vshl h b => h.nonC && h.subIs 0 && tyIn b.ty [0, 1, 2]
  | .vshr h b => h.nonC && h.subIs 0 && tyIn b.ty [0, 1, 2]
  | .vsra h b => h.nonC && h.subIs 0 && tyIn b.ty [0, 1, 2]
  | .vpopc h b => h.nonC && h.subIs 0 && tyIn b.ty [0, 1, 2]
  | .vclz h b => h.nonC && h.subIs 0 && tyIn b.ty [0, 1, 2]
  | .vbfx h b => h.nonC && h.subIs 0 && tyIn b.ty [0, 1, 2] && vfieldOk b.imm
  | .vcmp h b => h.nonC && h.subBelow 2 && tyIn b.ty [1, 2, 14] && b.cc.toNat ≤ 5
  | .vmov h _ => h.nonC && h.subIs 0
  | .vmovi h _ => h.nonC && h.subIs 0
  | .vfadd h b => h.nonC && h.subBelow 4 && tyIn b.ty [3] && rounds b.rm
  | .vfmul h b => h.nonC && h.subBelow 4 && tyIn b.ty [3] && rounds b.rm
  | .vfmin h b => h.nonC && h.subIs 0 && tyIn b.ty [3]
  | .vfmax h b => h.nonC && h.subIs 0 && tyIn b.ty [3]
  | .vfrcp h b => h.nonC && h.subIs 0 && tyIn b.ty [3]
  | .vfrsq h b => h.nonC && h.subIs 0 && tyIn b.ty [3]
  | .vfsqrt h b => h.nonC && h.subIs 0 && tyIn b.ty [3] && rounds b.rm
  | .vfexp2 h b => h.nonC && h.subIs 0 && tyIn b.ty [3]
  | .vflog2 h b => h.nonC && h.subIs 0 && tyIn b.ty [3]
  | .vfsin h b => h.nonC && h.subIs 0 && tyIn b.ty [3]
  | .vfcos h b => h.nonC && h.subIs 0 && tyIn b.ty [3]
  | .vfcmp h b => h.nonC && h.subBelow 2 && tyIn b.ty [3] && b.cc.toNat ≤ 7
  | .vfclass h b => h.nonC && h.subIs 0 && tyIn b.ty [3]
  | .vfrnd h b => h.nonC && h.subIs 0 && tyIn b.ty [3] && rounds b.rm
  | .vffrc h b => h.nonC && h.subIs 0 && tyIn b.ty [3]
  | .vpadd h b => h.nonC && h.subBelow 4 && tyIn b.ty [4, 5] && rounds b.rm
  | .vpmul h b => h.nonC && h.subBelow 4 && tyIn b.ty [4, 5] && rounds b.rm
  | .vpmin h b => h.nonC && h.subIs 0 && tyIn b.ty [4, 5]
  | .vpmax h b => h.nonC && h.subIs 0 && tyIn b.ty [4, 5]
  | .vcvt h b => h.nonC && h.subIs 0 && cvtPair b.cc.toNat b.ty.toNat &&
      (!cvtRounds b.cc.toNat b.ty.toNat || rounds b.rm)
  | .vpack h b => h.nonC && h.subIs 0 && (packPair2 b.cc.toNat b.ty.toNat || (packPair4 b.cc.toNat b.ty.toNat && b.va.toNat % 4 == 0)) &&
      (!packRounds b.cc.toNat b.ty.toNat || rounds b.rm)
  | .vunpk h b => h.nonC && h.subIs 0 && (b.imm.toNat % 4 < unpkParts b.cc.toNat b.ty.toNat)
  | .vtag h _ => h.nonC && h.subIs 0
  | .vshfl h b => h.nonC && h.subIs 0 && b.cc.toNat ≤ 3
  | .vbcast h _ => h.nonC && h.subBelow 2
  | .vred h b => h.nonC && h.subIs 0 && redOp b.cc b.ty && (!redRounds b.cc b.ty || rounds b.rm) &&
      (!b.cc.getLsbD 3 || b.vd.toNat < 64)
  | .vscan h b => h.nonC && h.subIs 0 && redOp b.cc b.ty && (!redRounds b.cc b.ty || rounds b.rm)
  | .vballot h b => h.nonC && h.subIs 0 && tyIn b.ty [0, 1, 2, 3, 14] && b.cc == 0#4 && b.vd.toNat < 64
  | .vmad h b => h.nonC && h.subIs 0 && tyIn b.ty [1, 2]
  | .vbfi h b => h.nonC && h.subIs 0 && tyIn b.ty [0, 1, 2]
  | .vsel h _ => h.nonC && h.subIs 0
  | .vfma h b => h.nonC && h.subBelow 8 && tyIn b.ty [3] && rounds b.rm
  | .vpfma h b => h.nonC && h.subBelow 8 && tyIn b.ty [4, 5] && rounds b.rm
  | .vlerp h b => h.nonC && h.subIs 0 && tyIn b.ty [3, 4, 5] && rounds b.rm
  | .vdot4 h b => h.nonC && h.subIs 0 && (tyIn b.ty [8, 9] || (tyIn b.ty [6, 7] && rounds b.rm))
  | .vdot2 h b => h.nonC && h.subIs 0 && (tyIn b.ty [10] || (tyIn b.ty [4, 5] && rounds b.rm))
  | .ld h b => h.nonC && h.subIs 0 && amOk b && b.sz.toNat ≤ 6 && mdAligned b && tagOk b
  | .st h b => h.nonC && h.subIs 0 && amOk b && szIn b [0, 2, 4, 5, 6] && mdAligned b
  | .ldx h b => h.nonC && h.subIs 0 && amOk b && b.am != 1#2 && lineForm b && b.mop.toNat ≤ 14
  | .stx h b => h.nonC && h.subIs 0 && amOk b && b.am != 1#2 && lineForm b
  | .lda h b => h.nonC && h.subIs 0 && b.am == 1#2 && lineForm b && b.mop.toNat ≤ 14
  | .sta h b => h.nonC && h.subIs 0 && b.am == 1#2 && lineForm b
  | .ldat h b => h.nonC && h.subIs 0 && b.am == 2#2 && even b.ms && lineForm b && b.mop.toNat ≤ 14
  | .stat h b => h.nonC && h.subIs 0 && b.am == 2#2 && even b.ms && lineForm b
  | .atom h b => h.nonC && h.subIs 0 && amOk b && atomForm b && mdAligned b
  | .atomNr h b => h.nonC && h.subIs 1 && amOk b && atomForm b
  | .atoma h b => h.nonC && h.subIs 0 && b.am == 2#2 && even b.ms && !b.xv && szIn b [4] &&
      ((b.mp.toNat ≤ 3 && b.mop.toNat ≤ 2) || (b.mp == 4#3 && b.mop == 4#4))
  | .ldlod h b => h.nonC && h.subIs 0 && b.am == 2#2 && even b.ms && b.xv && szIn b [4, 5, 6] && mdAligned b && b.mop.toNat ≤ 14 &&
      outside b.mc b.md (szRegs b)
  | .txg h b => h.nonC && h.subIs 0 && b.am == 2#2 && even b.ms && b.xv && szIn b [4] && b.mop.toNat ≤ 14 && b.mp.toNat ≤ 2 &&
      outside b.mc b.md 6
  | .resq h b => h.nonC && h.subIs 0 && b.am == 2#2 && even b.ms && b.xv
  | .resqFb h b => h.nonC && h.subIs 1 && b.am == 2#2 && even b.ms && b.xv
  | .prefL1 h b => h.nonC && h.subIs 0 && amOk b
  | .prefL2 h b => h.nonC && h.subIs 1 && amOk b
  | .cpy h b => h.nonC && h.subIn [0, 2] && even b.asrc && even b.ad && uniStatus b && barPair b
  | .cpyz h b => h.nonC && h.subIn [0, 2] && even b.ad && uniStatus b && barPair b && !b.fo
  | .cpyr h b => h.nonC && ropOk h && even b.asrc && even b.ad && uniStatus b && barPair b && !b.fo
  | .cpyl h b => h.nonC && h.subIs 0 && !b.ai.getLsbD 0 && (!b.se || b.sv) && barPair b && !b.fo
  | .cpytLd h b => h.nonC && h.subIs 0 && even b.ad && even b.ax && uniStatus b && barPair b && b.al.toNat ≤ 58
  | .cpytSt h b => h.nonC && h.subIs 1 && even b.ad && even b.ax && uniStatus b && barPair b && b.al.toNat ≤ 58 && !b.fo
  | .twany h b => h.nonC && h.subBelow 2 && (h.subIs 1 || even b.asrc) && even b.ad
  | .twall h b => h.nonC && h.subBelow 2 && (h.subIs 1 || even b.asrc)
  | .tfirst h b => h.nonC && h.subBelow 2 && (h.subIs 1 || even b.asrc)
  | .tcnt h _ => h.nonC && h.subIs 0
  | .abinit h b => h.nonC && h.subBelow 4 && even b.ba && !b.sv && !(h.sub.getLsbD 1 && b.ai.extractLsb' 0 16 == 0#16)
  | .abexp h b => h.nonC && h.subIn [0, 2] && even b.ba && !b.sv
  | .abarr h b => h.nonC && h.subIs 0 && even b.ba && !b.sv && uniStatus b
  | .abwait h b => h.nonC && h.subIs 0 && even b.ba && !b.sv && uniStatus b
  | .abtest h b => h.nonC && h.subIs 0 && even b.ba && !b.sv && uniStatus b
  | .flacqP h b => h.nonC && h.subIs 0 && even b.asrc
  | .flacqC h b => h.nonC && h.subIs 1 && even b.asrc && (!b.se || b.st.toNat < 64)
  | .flrelP h b => h.nonC && h.subIs 0 && even b.asrc && (!b.se || b.st.toNat < 64)
  | .flrelC h b => h.nonC && h.subIs 1 && even b.asrc
  | .ban h b => h.nonC && h.subBelow 2 && b.tg.toNat ≤ 7 && banCount b
  | .bana h b => h.nonC && h.subBelow 2 && b.tg.toNat ≤ 7 && banCount b && (!b.se || b.st.toNat < 64)
  | .banw h b => h.nonC && h.subBelow 2 && b.tg.toNat ≤ 7
  | .ldwMem h b => h.nonC && h.subIs 0 && even b.xsa && (b.xi.extractLsb' 0 3).toNat ≤ 5 &&
      ((b.xi.extractLsb' 3 5).toNat + 1) * ((b.xi.extractLsb' 8 5).toNat + 1) ≤ 32
  | .ldwSmp h b => h.nonC && h.subIs 1 && (b.xi.extractLsb' 8 5).toNat ≤ 1
  | .ldws h b => h.nonC && h.subBelow 2 && even b.xsa
  | .trel h _ => h.nonC && h.subIs 0
  | .mma h b => h.nonC && h.subIs 0 && even b.xsa && b.af.toNat ≤ 3
  | .mmag h b => h.nonC && h.subIs 0 && even b.xsa && b.af.toNat ≤ 3
  | .vxm h b => h.nonC && h.subIs 0 && b.af.toNat ≤ 3
  | .accz h b => h.nonC && h.subBelow 2 && b.xa.toNat + (b.xi.extractLsb' 0 4).toNat ≤ 15
  | .accld h b => h.nonC && h.subIs 0 && even b.xsa
  | .accstRaw h b => h.nonC && h.subIs 0 && even b.xsa
  | .accstPost h b => h.nonC && h.subIs 1 && even b.xsa && b.xm.toNat ≤ 31
  | .accrdEl h _ => h.nonC && h.subIs 0
  | .accrdSt h _ => h.nonC && h.subIs 1
  | .preopLin h b => h.nonC && h.subIs 0 && (b.xi.extractLsb' 0 14).toNat ≤ 8192
  | .preopTr h b => h.nonC && h.subIs 1 && (b.xi.extractLsb' 0 14).toNat ≤ 8192
  | .preopWin h b => h.nonC && h.subIs 2 && even b.xsa
  | .postop h b => h.nonC && h.subIs 0 && even b.xsa
  | .edge h b => h.nonC && h.subBelow 2 && even b.xsa && b.af == 4#4 && b.xm.toNat ≤ 79 && b.xa.toNat + (b.xm.toNat + 10) / 10 ≤ 16
  | .cvg h _ => h.nonC && h.subIs 0
  | .blend h b => h.nonC && h.subIs 0 && even b.xsa && even b.xsb && b.af == 4#4
  | .flt h b => h.nonC && h.subIs 0 && even b.xsa && b.af == 4#4
  | .rslvLt h b => h.nonC && h.subIs 0 && even b.xsa && b.xm.toNat ≤ 9
  | .rslvLe h b => h.nonC && h.subIs 1 && even b.xsa && b.xm.toNat ≤ 9
  | .rslvRd h b => h.nonC && h.subIs 2 && even b.xsa
  | .rslvLd h b => h.nonC && h.subIs 3 && even b.xsa
  | .rslvClr h _ => h.nonC && h.subIs 4
  | .binfl h b => h.nonC && h.subIs 0 && even b.xsa && even b.xsb
  | .spawn h b => h.nonC && h.subIs 0 && even b.tsa && even b.tsb && b.topt.toNat < 4 && !b.topt.getLsbD 0
  | .spawnLane h b => h.nonC && h.subIs 0 && !b.tv.getLsbD 0 && even b.tsb && b.topt.toNat < 4 && b.topt.getLsbD 0
  | .spawnc h b => h.nonC && h.subIs 0 && even b.tsa && even b.tsb && even b.tsc && b.topt.toNat < 8
  | .await h b => h.nonC && h.subIs 0 && b.topt == 0#11
  | .fnew h b => h.nonC && h.subIs 0 && b.topt == 0#11 && even b.tsa
  | .fres h b => h.nonC && h.subBelow 2 && b.topt == 0#11 && even b.tsa && (h.subIs 1 || even b.tsb)
  | .fflt h b => h.nonC && h.subBelow 2 && b.topt == 0#11 && even b.tsa && (h.subIs 1 || even b.tsb)
  | .fwait h b => h.nonC && h.subIs 0 && b.topt == 0#11 && even b.tsa && even b.tsb && b.tsc.toNat / 2 != b.tsb.toNat / 2
  | .fpoll h b => h.nonC && h.subIs 0 && b.topt == 0#11 && even b.tsa && even b.tsb && b.tsc.toNat / 2 != b.tsb.toNat / 2
  | .reorder h b => h.nonC && h.subIs 0 && b.topt == 0#11
  | .time h b => h.nonC && h.subIs 0 && b.topt == 0#11 && even b.tsa
  | .ctxrd h b => h.nonC && h.subIs 0 && b.topt == 0#11 && even b.tsb && (b.ti.extractLsb' 0 8).toNat ≤ 5
  | .ctxwr h b => h.nonC && h.subIs 0 && b.topt == 0#11 && even b.tsb && ((b.ti.extractLsb' 0 8).toNat == 4 || (b.ti.extractLsb' 0 8).toNat == 5)
  | .evpop h b => h.nonC && h.subIs 0 && b.topt == 0#11 && even b.tsa
  | .evpopWait h b => h.nonC && h.subIs 1 && b.topt == 0#11 && even b.tsa
  | .tlbinvRange h b => h.nonC && h.subIs 0 && b.topt == 0#11 && even b.tsa
  | .tlbinvAsid h b => h.nonC && h.subIs 0 && b.topt == 1#11
  | .tlbinvFn h b => h.nonC && h.subIs 0 && b.topt == 2#11
  | .mapqRange h b => h.nonC && h.subIs 0 && b.topt == 0#11 && even b.tsa
  | .mapqAsid h b => h.nonC && h.subIs 0 && b.topt == 1#11
  | .mapqFn h b => h.nonC && h.subIs 0 && b.topt == 2#11
  | .haltcHalt h b => h.nonC && h.subIs 0 && b.topt == 0#11
  | .haltcResume h b => h.nonC && h.subIs 1 && b.topt == 0#11
  | .haltcKill h b => h.nonC && h.subIs 2 && b.topt == 0#11
  | .hint _ => true
  | .joinRelease _ _ => true
  | .reorderRendezvous _ _ => true
  | .registerLineFill _ _ => true
  | .variableResultWrite _ _ _ => true
  | .instructionLineFill _ _ _ => true
  | .pageWalk _ _ _ => true
  | .tlbinvReceive _ _ => true
  | .tlbinvDrainAck _ _ => true
  | .tlbinvComplete _ => true
  | .mapqNoticeReceive _ _ => true
  | .mapqComplete _ => true
  | .l2Registration _ => true
  | .l2WritebackMerge _ => true
  | .l2Read _ => true
  | .l2Atomic _ => true
  | .l2Reduction _ => true
  | .atriumBankOperation _ => true
  | .waitRegistrationOp _ => true
  | .galleryRegistrationOp _ => true
  | .futureResolutionOp _ => true
  | .resolutionNoticeReceive _ _ => true
  | .wakeQueuePost _ => true
  | .wakeQueueHead _ => true
  | .awaitPendingDecrement _ => true
  | .awaitComplete _ _ => true
  | .slotBind _ _ _ => true
  | .copyBeat _ _ => true
  | .copyLatticeStart _ _ => true
  | .followOnIssue _ _ => true
  | .copyComplete _ _ => true
  | .banisterPhaseRelease _ _ => true
  | .arrayOpDispatch _ _ => true
  | .arrayOpRetire _ _ => true
  | .binnerPrimitive _ _ => true
  | .feedbackReserve _ => true
  | .feedbackEntryWrite _ => true
  | .migrationCommand _ => true
  | .migrationInvalidationDone _ => true
  | .porterRecordSelect _ => true
  | .contextPlacement _ _ => true
  | .resourceReservation _ _ => true
  | .groupStart _ _ => true
  | .saveLineArrival _ _ _ => true
  | .preemptSaveComplete _ => true
  | .contextRestore _ _ => true
  | .crewCompletion _ _ => true
  | .eventHeldPost _ => true
  | .handlerLaunchStart _ => true
  | .haltLineArrival _ _ => true
  | .haltSettle _ _ => true
  | .contextHalted _ => true
  | .managementRegisterWrite _ _ _ _ => true
  | .fixedLatencyResultWrite _ _ _ => true
  | .unassignedOpcode w => unassigned (w.extractLsb' 88 8)
  | .astbWrite _ => true
  | .hotctlWrite _ => true
  | .mgtlWrite _ _ => true
  | .dctlReset _ => true
  | .dctlWithdraw _ => true
  | .dsrWrite _ _ => true
  | .vfrzClear _ _ => true
  | .evhlWrite _ _ _ => true
  | .hostRingHeadWrite _ _ _ => true
  | .hcrbTailWrite _ _ => true
  | .rsownWrite _ _ _ _ => true
  | .dtrateWrite _ _ => true
  | .dtoffWrite _ _ => true
  | .dtoffRead _ => true
  | .hostBar2Access _ _ _ => true
  | .peerInboundAccess _ _ _ => true
  | .linkRetrained _ _ => true
  | .functionLevelReset _ => true
  | .powerOn _ => true
  | .linkAuthentication _ _ => true
  | .svnFloorRaise => true
  | .spdmGetVersion _ => true
  | .spdmGetCapabilities _ => true
  | .spdmNegotiateAlgorithms _ => true
  | .spdmGetDigests _ => true
  | .spdmGetCertificate _ => true
  | .spdmChallenge _ => true
  | .spdmGetMeasurements _ => true
  | .periodicHealthReport _ => true
  | .correctableSoftError _ => true
  | .uncorrectableSoftError _ => true
  | .thermalThrottle _ _ => true
  | .thermalTrip _ _ => true
  | .pldmSetPowerCap _ => true
  | .pldmSetClockCeiling _ => true
  | .pldmReadTemperature _ => true
  | .pldmReadPackagePower => true
  | .clockStepChange _ => true
  | .shareWindowRestart => true
  | .preemptBudgetWindow => true
  | .doorbellWrite _ _ _ => true
  | .corridorProtocolBreach _ => true
  | .preempt _ _ => true
  | .freeFrameTake _ => true
  | .porterMigrationSelect _ _ => true
  | .feedbackDrain _ _ => true
  | .flitAgeLimit _ => true
  | .nakResend _ => true
  | .dieResetTimeout _ => true
  | .dieResetComplete _ => true
  | .hostCmdTlbinv _ => true
  | .hostCmdMapq _ => true
  | .hostCmdHaltcHalt _ => true
  | .hostCmdHaltcResume _ => true
  | .hostCmdHaltcKill _ => true
  | .hostCmdPlace _ => true
  | .hotlistIntervalEnd => true
  | .l1ForwardRequest _ _ _ => true
  | .parkEvictionTimeout _ _ => true
  | .issuePromotion _ _ _ => true
  | .yieldExpiry _ _ _ => true
  | .tileReload _ _ _ => true
  | .accumulatorEvict _ _ _ => true
  | .waiterToGallery _ _ _ => true
  | .groupEvict _ _ => true
  | .porterFaultService _ _ => true
  | .copyLateCompletion _ _ => true
  | .memoryControllerRequest _ _ => true
  | .faultRecordHeldPost _ => true
  | .stepHalt _ => true

end Sys2Proof
end

