-- ==== Sys2Proof/Decode.lean ====
section
/-! DEFINITION. The decoder and the encoder of the 96-bit Krytnak instruction (R225 to R239). The decoder is total: it
answers an instruction, or the reason for which the word is none (R238). Reserved fields are ignored. -/

namespace Sys2Proof

/-- Why a word is not an instruction (R238): the SUB of an assigned opcode is not listed, or a field holds a value that
the instruction forbids. Both make its issue an ILLEGAL_OPCODE trap. -/
inductive DecodeError where
  | subOperation
  | forbiddenField
  deriving DecidableEq, Repr

def bit (w : BitVec 96) (k : Nat) : Bool := w.getLsbD k

def unpackHdr (w : BitVec 96) : Hdr :=
  ⟨w.extractLsb' 82 6, bit w 81, w.extractLsb' 78 3, bit w 77, w.extractLsb' 75 2⟩

def unpackU (w : BitVec 96) : UBody :=
  ⟨w.extractLsb' 66 6, w.extractLsb' 60 6, w.extractLsb' 54 6, w.extractLsb' 48 6, w.extractLsb' 45 3, bit w 44,
    w.extractLsb' 32 8, w.extractLsb' 0 32⟩

def unpackAnchor (w : BitVec 96) : AnchorBody := ⟨w.extractLsb' 69 3, w.extractLsb' 63 6, w.extractLsb' 32 31⟩

def unpackC (w : BitVec 96) : CBody :=
  ⟨w.extractLsb' 66 6, w.extractLsb' 60 6, w.extractLsb' 52 8, w.extractLsb' 40 12, w.extractLsb' 27 13,
    w.extractLsb' 3 24, w.extractLsb' 0 3⟩

def unpackV (w : BitVec 96) : VBody :=
  ⟨w.extractLsb' 64 8, w.extractLsb' 56 8, w.extractLsb' 48 8, bit w 47, w.extractLsb' 44 3, w.extractLsb' 41 3, bit w 40,
    w.extractLsb' 36 4, w.extractLsb' 32 4, w.extractLsb' 0 32⟩

def unpackV3 (w : BitVec 96) : V3Body :=
  ⟨w.extractLsb' 64 8, w.extractLsb' 56 8, w.extractLsb' 48 8, w.extractLsb' 40 8, w.extractLsb' 37 3, bit w 36,
    w.extractLsb' 32 4, w.extractLsb' 29 3, w.extractLsb' 25 4⟩

def unpackM (w : BitVec 96) : MBody :=
  ⟨w.extractLsb' 64 8, w.extractLsb' 56 8, w.extractLsb' 53 3, w.extractLsb' 51 2, bit w 50, w.extractLsb' 44 6,
    w.extractLsb' 40 4, w.extractLsb' 36 4, w.extractLsb' 33 3, w.extractLsb' 24 8, w.extractLsb' 0 24⟩

def unpackA (w : BitVec 96) : ABody :=
  ⟨w.extractLsb' 66 6, w.extractLsb' 60 6, w.extractLsb' 54 6, w.extractLsb' 48 6, w.extractLsb' 40 8, bit w 39, bit w 38,
    bit w 37, w.extractLsb' 31 6, bit w 30, w.extractLsb' 24 6, w.extractLsb' 0 24⟩

def unpackX (w : BitVec 96) : XBody :=
  ⟨w.extractLsb' 68 4, w.extractLsb' 64 4, w.extractLsb' 58 6, w.extractLsb' 52 6, w.extractLsb' 46 6, w.extractLsb' 38 8,
    w.extractLsb' 34 4, w.extractLsb' 31 3, w.extractLsb' 23 8, w.extractLsb' 0 23⟩

def unpackT (w : BitVec 96) : TBody :=
  ⟨w.extractLsb' 64 8, w.extractLsb' 58 6, w.extractLsb' 52 6, w.extractLsb' 46 6, w.extractLsb' 43 3, w.extractLsb' 32 11,
    w.extractLsb' 0 32⟩

/-- Row 0 of the opcode map (R237). -/
def decodeRow0 (col : Nat) (h : Hdr) (w : BitVec 96) : Except DecodeError Instr :=
  match col with
  | 0 => .ok (.smov h (unpackU w))
  | 1 => .ok (.smovi h (unpackU w))
  | 2 => .ok (.sadd h (unpackU w))
  | 3 => .ok (.ssub h (unpackU w))
  | 4 => .ok (.smul h (unpackU w))
  | 5 => .ok (.smulh h (unpackU w))
  | 6 => .ok (.smad h (unpackU w))
  | 7 => .ok (.sand h (unpackU w))
  | 8 => .ok (.sor h (unpackU w))
  | 9 => .ok (.sxor h (unpackU w))
  | 10 => .ok (.sshl h (unpackU w))
  | 11 => .ok (.sshr h (unpackU w))
  | 12 => .ok (.ssra h (unpackU w))
  | 13 => .ok (.smin h (unpackU w))
  | 14 => .ok (.smax h (unpackU w))
  | 15 => .ok (.scmp h (unpackU w))
  | _ => .error .forbiddenField

/-- Row 1 of the opcode map (R237). -/
def decodeRow1 (col : Nat) (h : Hdr) (w : BitVec 96) : Except DecodeError Instr :=
  match col with
  | 0 => .ok (.ssel h (unpackU w))
  | 1 => .ok (.spopc h (unpackU w))
  | 2 => .ok (.sclz h (unpackU w))
  | 3 => .ok (.sbfx h (unpackU w))
  | 4 => .ok (.sbfi h (unpackU w))
  | 5 => .ok (.slea h (unpackU w))
  | 6 => match h.sub.toNat with | 0 => .ok (.srd h (unpackU w)) | 1 => .ok (.srdV h (unpackU w)) | _ => .error .subOperation
  | 7 => match h.sub.toNat with | 0 => .ok (.swr h (unpackU w)) | 1 => .ok (.swrV h (unpackU w)) | _ => .error .subOperation
  | 8 => .ok (.sld h (unpackU w))
  | 9 => .ok (.sst h (unpackU w))
  | 10 => .ok (.sballot h (unpackU w))
  | 11 => .ok (.anchor h (unpackAnchor w))
  | _ => .ok (.unassignedOpcode w)

/-- Row 2 of the opcode map (R237). -/
def decodeRow2 (col : Nat) (h : Hdr) (w : BitVec 96) : Except DecodeError Instr :=
  match col with
  | 0 => .ok (.br h (unpackC w))
  | 1 => .ok (.brx h (unpackC w))
  | 2 => .ok (.pad h (unpackC w))
  | 3 => .ok (.call h (unpackC w))
  | 4 => .ok (.ret h (unpackC w))
  | 5 => .ok (.join h (unpackC w))
  | 6 => .ok (.loop h (unpackC w))
  | 7 => .ok (.exit h (unpackC w))
  | 8 => .ok (.yield h (unpackC w))
  | 9 => .ok (.nop h (unpackC w))
  | 10 => .ok (.bkpt h (unpackC w))
  | 11 => .ok (.trap h (unpackC w))
  | _ => .ok (.unassignedOpcode w)

/-- Row 3 of the opcode map (R237). -/
def decodeRow3 (col : Nat) (h : Hdr) (w : BitVec 96) : Except DecodeError Instr :=
  match col with
  | 0 => .ok (.vadd h (unpackV w))
  | 1 => .ok (.vsub h (unpackV w))
  | 2 => .ok (.vmul h (unpackV w))
  | 3 => .ok (.vmulh h (unpackV w))
  | 4 => .ok (.vmin h (unpackV w))
  | 5 => .ok (.vmax h (unpackV w))
  | 6 => .ok (.vabs h (unpackV w))
  | 7 => .ok (.vand h (unpackV w))
  | 8 => .ok (.vor h (unpackV w))
  | 9 => .ok (.vxor h (unpackV w))
  | 10 => .ok (.vnot h (unpackV w))
  | 11 => .ok (.vshl h (unpackV w))
  | 12 => .ok (.vshr h (unpackV w))
  | 13 => .ok (.vsra h (unpackV w))
  | 14 => .ok (.vpopc h (unpackV w))
  | 15 => .ok (.vclz h (unpackV w))
  | _ => .error .forbiddenField

/-- Row 4 of the opcode map (R237). -/
def decodeRow4 (col : Nat) (h : Hdr) (w : BitVec 96) : Except DecodeError Instr :=
  match col with
  | 0 => .ok (.vbfx h (unpackV w))
  | 1 => .ok (.vcmp h (unpackV w))
  | 2 => .ok (.vmov h (unpackV w))
  | 3 => .ok (.vmovi h (unpackV w))
  | 4 => .ok (.vfadd h (unpackV w))
  | 5 => .ok (.vfmul h (unpackV w))
  | 6 => .ok (.vfmin h (unpackV w))
  | 7 => .ok (.vfmax h (unpackV w))
  | 8 => .ok (.vfrcp h (unpackV w))
  | 9 => .ok (.vfrsq h (unpackV w))
  | 10 => .ok (.vfsqrt h (unpackV w))
  | 11 => .ok (.vfexp2 h (unpackV w))
  | 12 => .ok (.vflog2 h (unpackV w))
  | 13 => .ok (.vfsin h (unpackV w))
  | 14 => .ok (.vfcos h (unpackV w))
  | 15 => .ok (.vfcmp h (unpackV w))
  | _ => .error .forbiddenField

/-- Row 5 of the opcode map (R237). -/
def decodeRow5 (col : Nat) (h : Hdr) (w : BitVec 96) : Except DecodeError Instr :=
  match col with
  | 0 => .ok (.vfclass h (unpackV w))
  | 1 => .ok (.vfrnd h (unpackV w))
  | 2 => .ok (.vffrc h (unpackV w))
  | 3 => .ok (.vpadd h (unpackV w))
  | 4 => .ok (.vpmul h (unpackV w))
  | 5 => .ok (.vpmin h (unpackV w))
  | 6 => .ok (.vpmax h (unpackV w))
  | 7 => .ok (.vcvt h (unpackV w))
  | 8 => .ok (.vpack h (unpackV w))
  | 9 => .ok (.vunpk h (unpackV w))
  | 10 => .ok (.vtag h (unpackV w))
  | 11 => .ok (.vshfl h (unpackV w))
  | 12 => .ok (.vbcast h (unpackV w))
  | 13 => .ok (.vred h (unpackV w))
  | 14 => .ok (.vscan h (unpackV w))
  | 15 => .ok (.vballot h (unpackV w))
  | _ => .error .forbiddenField

/-- Row 6 of the opcode map (R237). -/
def decodeRow6 (col : Nat) (h : Hdr) (w : BitVec 96) : Except DecodeError Instr :=
  match col with
  | 0 => .ok (.vmad h (unpackV3 w))
  | 1 => .ok (.vbfi h (unpackV3 w))
  | 2 => .ok (.vsel h (unpackV3 w))
  | 3 => .ok (.vfma h (unpackV3 w))
  | 4 => .ok (.vpfma h (unpackV3 w))
  | 5 => .ok (.vlerp h (unpackV3 w))
  | 6 => .ok (.vdot4 h (unpackV3 w))
  | 7 => .ok (.vdot2 h (unpackV3 w))
  | _ => .ok (.unassignedOpcode w)

/-- Row 7 of the opcode map (R237). -/
def decodeRow7 (col : Nat) (h : Hdr) (w : BitVec 96) : Except DecodeError Instr :=
  match col with
  | 0 => .ok (.ld h (unpackM w))
  | 1 => .ok (.st h (unpackM w))
  | 2 => .ok (.ldx h (unpackM w))
  | 3 => .ok (.stx h (unpackM w))
  | 4 => .ok (.lda h (unpackM w))
  | 5 => .ok (.sta h (unpackM w))
  | 6 => .ok (.ldat h (unpackM w))
  | 7 => .ok (.stat h (unpackM w))
  | 8 => match h.sub.toNat with | 0 => .ok (.atom h (unpackM w)) | 1 => .ok (.atomNr h (unpackM w)) | _ => .error .subOperation
  | 9 => .ok (.atoma h (unpackM w))
  | 10 => .ok (.ldlod h (unpackM w))
  | 11 => .ok (.txg h (unpackM w))
  | 12 => match h.sub.toNat with | 0 => .ok (.resq h (unpackM w)) | 1 => .ok (.resqFb h (unpackM w)) | _ => .error .subOperation
  | 13 => match h.sub.toNat with | 0 => .ok (.prefL1 h (unpackM w)) | 1 => .ok (.prefL2 h (unpackM w)) | _ => .error .subOperation
  | _ => .ok (.unassignedOpcode w)

/-- Row 9 of the opcode map (R237). -/
def decodeRow9 (col : Nat) (h : Hdr) (w : BitVec 96) : Except DecodeError Instr :=
  match col with
  | 0 => .ok (.cpy h (unpackA w))
  | 1 => .ok (.cpyl h (unpackA w))
  | 2 => .ok (.cpyr h (unpackA w))
  | 3 => match h.sub.toNat with | 0 => .ok (.cpytLd h (unpackA w)) | 1 => .ok (.cpytSt h (unpackA w)) | _ => .error .subOperation
  | 4 => .ok (.cpyz h (unpackA w))
  | 5 => .ok (.twany h (unpackA w))
  | 6 => .ok (.twall h (unpackA w))
  | 7 => .ok (.tfirst h (unpackA w))
  | 8 => .ok (.tcnt h (unpackA w))
  | 9 => .ok (.abinit h (unpackA w))
  | 10 => .ok (.abexp h (unpackA w))
  | 11 => .ok (.abarr h (unpackA w))
  | 12 => .ok (.abwait h (unpackA w))
  | 13 => .ok (.abtest h (unpackA w))
  | 14 => match h.sub.toNat with | 0 => .ok (.flacqP h (unpackA w)) | 1 => .ok (.flacqC h (unpackA w)) | _ => .error .subOperation
  | 15 => match h.sub.toNat with | 0 => .ok (.flrelP h (unpackA w)) | 1 => .ok (.flrelC h (unpackA w)) | _ => .error .subOperation
  | _ => .error .forbiddenField

/-- Row A of the opcode map (R237). -/
def decodeRowA (col : Nat) (h : Hdr) (w : BitVec 96) : Except DecodeError Instr :=
  match col with
  | 0 => .ok (.ban h (unpackA w))
  | 1 => .ok (.bana h (unpackA w))
  | 2 => .ok (.banw h (unpackA w))
  | _ => .ok (.unassignedOpcode w)

/-- Row B of the opcode map (R237). -/
def decodeRowB (col : Nat) (h : Hdr) (w : BitVec 96) : Except DecodeError Instr :=
  match col with
  | 0 => match h.sub.toNat with | 0 => .ok (.ldwMem h (unpackX w)) | 1 => .ok (.ldwSmp h (unpackX w)) | _ => .error .subOperation
  | 1 => .ok (.ldws h (unpackX w))
  | 2 => .ok (.trel h (unpackX w))
  | 3 => .ok (.mma h (unpackX w))
  | 4 => .ok (.mmag h (unpackX w))
  | 5 => .ok (.vxm h (unpackX w))
  | 6 => .ok (.accz h (unpackX w))
  | 7 => .ok (.accld h (unpackX w))
  | 8 => match h.sub.toNat with | 0 => .ok (.accstRaw h (unpackX w)) | 1 => .ok (.accstPost h (unpackX w)) | _ => .error .subOperation
  | 9 => match h.sub.toNat with | 0 => .ok (.accrdEl h (unpackX w)) | 1 => .ok (.accrdSt h (unpackX w)) | _ => .error .subOperation
  | 10 => match h.sub.toNat with | 0 => .ok (.preopLin h (unpackX w)) | 1 => .ok (.preopTr h (unpackX w)) | 2 => .ok (.preopWin h (unpackX w)) | _ => .error .subOperation
  | 11 => .ok (.postop h (unpackX w))
  | 12 => .ok (.edge h (unpackX w))
  | 13 => .ok (.cvg h (unpackX w))
  | 14 => .ok (.blend h (unpackX w))
  | 15 => .ok (.flt h (unpackX w))
  | _ => .error .forbiddenField

/-- Row C of the opcode map (R237). -/
def decodeRowC (col : Nat) (h : Hdr) (w : BitVec 96) : Except DecodeError Instr :=
  match col with
  | 0 => match h.sub.toNat with | 0 => .ok (.rslvLt h (unpackX w)) | 1 => .ok (.rslvLe h (unpackX w)) | 2 => .ok (.rslvRd h (unpackX w)) | 3 => .ok (.rslvLd h (unpackX w)) | 4 => .ok (.rslvClr h (unpackX w)) | _ => .error .subOperation
  | 1 => .ok (.binfl h (unpackX w))
  | _ => .ok (.unassignedOpcode w)

/-- Row D of the opcode map (R237). -/
def decodeRowD (col : Nat) (h : Hdr) (w : BitVec 96) : Except DecodeError Instr :=
  match col with
  | 0 => match (w.extractLsb' 32 1).toNat with | 0 => .ok (.spawn h (unpackT w)) | 1 => .ok (.spawnLane h (unpackT w)) | _ => .error .subOperation
  | 1 => .ok (.spawnc h (unpackT w))
  | 2 => .ok (.await h (unpackT w))
  | 3 => .ok (.fnew h (unpackT w))
  | 4 => .ok (.fres h (unpackT w))
  | 5 => .ok (.fflt h (unpackT w))
  | 6 => .ok (.fwait h (unpackT w))
  | 7 => .ok (.fpoll h (unpackT w))
  | 8 => .ok (.reorder h (unpackT w))
  | 9 => .ok (.time h (unpackT w))
  | 10 => .ok (.ctxrd h (unpackT w))
  | 11 => .ok (.ctxwr h (unpackT w))
  | 12 => match h.sub.toNat with | 0 => .ok (.evpop h (unpackT w)) | 1 => .ok (.evpopWait h (unpackT w)) | _ => .error .subOperation
  | 13 => match (w.extractLsb' 32 11).toNat with | 0 => .ok (.tlbinvRange h (unpackT w)) | 1 => .ok (.tlbinvAsid h (unpackT w)) | 2 => .ok (.tlbinvFn h (unpackT w)) | _ => .error .subOperation
  | 14 => match (w.extractLsb' 32 11).toNat with | 0 => .ok (.mapqRange h (unpackT w)) | 1 => .ok (.mapqAsid h (unpackT w)) | 2 => .ok (.mapqFn h (unpackT w)) | _ => .error .subOperation
  | 15 => match h.sub.toNat with | 0 => .ok (.haltcHalt h (unpackT w)) | 1 => .ok (.haltcResume h (unpackT w)) | 2 => .ok (.haltcKill h (unpackT w)) | _ => .error .subOperation
  | _ => .error .forbiddenField

/-- The instruction a word names, its field values aside (R237 to R239). -/
def decodeRaw (w : BitVec 96) : Except DecodeError Instr :=
  let h := unpackHdr w
  let col := (w.extractLsb' 88 4).toNat
  match (w.extractLsb' 92 4).toNat with
  | 0 => decodeRow0 col h w
  | 1 => decodeRow1 col h w
  | 2 => decodeRow2 col h w
  | 3 => decodeRow3 col h w
  | 4 => decodeRow4 col h w
  | 5 => decodeRow5 col h w
  | 6 => decodeRow6 col h w
  | 7 => decodeRow7 col h w
  | 9 => decodeRow9 col h w
  | 10 => decodeRowA col h w
  | 11 => decodeRowB col h w
  | 12 => decodeRowC col h w
  | 13 => decodeRowD col h w
  | 15 => .ok (.hint (w.extractLsb' 88 4 ++ h.sub))
  | _ => .ok (.unassignedOpcode w)

/-- The decoder: total, and rejecting by name what R238 makes ILLEGAL_OPCODE. -/
def decode (w : BitVec 96) : Except DecodeError Instr :=
  match decodeRaw w with
  | .error e => .error e
  | .ok i => if i.wellFormed then .ok i else .error .forbiddenField

/-- The instruction in the low 96 bits of `w`, numbered as the opcode table numbers them: the row's bits are those of
the slot (R218). -/
def decodeTableWord (_nbits w : Nat) : Option Instr :=
  match decode (BitVec.ofNat 96 w) with
  | .ok i => some i
  | .error _ => none

/-! ## The encoder, from the same tables -/

def flag (b : Bool) : BitVec 1 := BitVec.ofBool b

def packHdr (opc : Byte) (h : Hdr) : BitVec 24 := opc ++ h.sub ++ flag h.s ++ h.g ++ flag h.gn ++ h.nx ++ 0#3

def packU (b : UBody) : BitVec 72 := b.sd ++ b.sa ++ b.sb ++ b.sc ++ b.ps ++ flag b.is ++ 0#4 ++ b.x8 ++ b.imm

def packAnchor (b : AnchorBody) : BitVec 72 := b.k ++ b.n ++ b.len ++ 0#32

def packC (b : CBody) : BitVec 72 := b.ca ++ b.cb ++ b.cv ++ b.lbl ++ b.cx ++ b.ofs ++ b.slt

def packV (b : VBody) : BitVec 72 :=
  b.vd ++ b.va ++ b.vb ++ flag b.ib ++ b.pd ++ b.rm ++ flag b.sat ++ b.ty ++ b.cc ++ b.imm

def packV3 (b : V3Body) : BitVec 72 :=
  b.vd ++ b.va ++ b.vb ++ b.vc ++ b.rm ++ flag b.sat ++ b.ty ++ b.ps ++ b.cc ++ 0#25

def packM (b : MBody) : BitVec 72 :=
  b.md ++ b.mx ++ b.mb ++ b.am ++ flag b.xv ++ b.ms ++ b.sz ++ b.mop ++ b.mp ++ 0#1 ++ b.mc ++ b.imm

def packA (b : ABody) : BitVec 72 :=
  b.asrc ++ b.ad ++ b.al ++ b.tg ++ b.st ++ flag b.sv ++ flag b.se ++ flag b.be ++ b.ba ++ flag b.fo ++ b.ax ++ b.ai

def packX (b : XBody) : BitVec 72 := b.xt ++ b.xa ++ b.xsa ++ b.xsb ++ b.xsc ++ b.xv ++ b.af ++ b.xp ++ b.xm ++ b.xi

def packT (b : TBody) : BitVec 72 := b.tv ++ b.tsa ++ b.tsb ++ b.tsc ++ b.tp ++ b.topt ++ b.ti

def word (opc : Byte) (h : Hdr) (body : BitVec 72) : BitVec 96 := packHdr opc h ++ body

/-- The word of an instruction: none for an event of the device, which is not in the instruction stream. -/
def encode : Instr → Option (BitVec 96)
  | .smov h b => some (word 0x00#8 h (packU b))
  | .smovi h b => some (word 0x01#8 h (packU b))
  | .sadd h b => some (word 0x02#8 h (packU b))
  | .ssub h b => some (word 0x03#8 h (packU b))
  | .smul h b => some (word 0x04#8 h (packU b))
  | .smulh h b => some (word 0x05#8 h (packU b))
  | .smad h b => some (word 0x06#8 h (packU b))
  | .sand h b => some (word 0x07#8 h (packU b))
  | .sor h b => some (word 0x08#8 h (packU b))
  | .sxor h b => some (word 0x09#8 h (packU b))
  | .sshl h b => some (word 0x0A#8 h (packU b))
  | .sshr h b => some (word 0x0B#8 h (packU b))
  | .ssra h b => some (word 0x0C#8 h (packU b))
  | .smin h b => some (word 0x0D#8 h (packU b))
  | .smax h b => some (word 0x0E#8 h (packU b))
  | .scmp h b => some (word 0x0F#8 h (packU b))
  | .ssel h b => some (word 0x10#8 h (packU b))
  | .spopc h b => some (word 0x11#8 h (packU b))
  | .sclz h b => some (word 0x12#8 h (packU b))
  | .sbfx h b => some (word 0x13#8 h (packU b))
  | .sbfi h b => some (word 0x14#8 h (packU b))
  | .slea h b => some (word 0x15#8 h (packU b))
  | .srd h b => some (word 0x16#8 h (packU b))
  | .srdV h b => some (word 0x16#8 h (packU b))
  | .swr h b => some (word 0x17#8 h (packU b))
  | .swrV h b => some (word 0x17#8 h (packU b))
  | .sld h b => some (word 0x18#8 h (packU b))
  | .sst h b => some (word 0x19#8 h (packU b))
  | .sballot h b => some (word 0x1A#8 h (packU b))
  | .anchor h b => some (word 0x1B#8 h (packAnchor b))
  | .br h b => some (word 0x20#8 h (packC b))
  | .brx h b => some (word 0x21#8 h (packC b))
  | .pad h b => some (word 0x22#8 h (packC b))
  | .call h b => some (word 0x23#8 h (packC b))
  | .ret h b => some (word 0x24#8 h (packC b))
  | .join h b => some (word 0x25#8 h (packC b))
  | .loop h b => some (word 0x26#8 h (packC b))
  | .exit h b => some (word 0x27#8 h (packC b))
  | .yield h b => some (word 0x28#8 h (packC b))
  | .nop h b => some (word 0x29#8 h (packC b))
  | .bkpt h b => some (word 0x2A#8 h (packC b))
  | .trap h b => some (word 0x2B#8 h (packC b))
  | .vadd h b => some (word 0x30#8 h (packV b))
  | .vsub h b => some (word 0x31#8 h (packV b))
  | .vmul h b => some (word 0x32#8 h (packV b))
  | .vmulh h b => some (word 0x33#8 h (packV b))
  | .vmin h b => some (word 0x34#8 h (packV b))
  | .vmax h b => some (word 0x35#8 h (packV b))
  | .vabs h b => some (word 0x36#8 h (packV b))
  | .vand h b => some (word 0x37#8 h (packV b))
  | .vor h b => some (word 0x38#8 h (packV b))
  | .vxor h b => some (word 0x39#8 h (packV b))
  | .vnot h b => some (word 0x3A#8 h (packV b))
  | .vshl h b => some (word 0x3B#8 h (packV b))
  | .vshr h b => some (word 0x3C#8 h (packV b))
  | .vsra h b => some (word 0x3D#8 h (packV b))
  | .vpopc h b => some (word 0x3E#8 h (packV b))
  | .vclz h b => some (word 0x3F#8 h (packV b))
  | .vbfx h b => some (word 0x40#8 h (packV b))
  | .vcmp h b => some (word 0x41#8 h (packV b))
  | .vmov h b => some (word 0x42#8 h (packV b))
  | .vmovi h b => some (word 0x43#8 h (packV b))
  | .vfadd h b => some (word 0x44#8 h (packV b))
  | .vfmul h b => some (word 0x45#8 h (packV b))
  | .vfmin h b => some (word 0x46#8 h (packV b))
  | .vfmax h b => some (word 0x47#8 h (packV b))
  | .vfrcp h b => some (word 0x48#8 h (packV b))
  | .vfrsq h b => some (word 0x49#8 h (packV b))
  | .vfsqrt h b => some (word 0x4A#8 h (packV b))
  | .vfexp2 h b => some (word 0x4B#8 h (packV b))
  | .vflog2 h b => some (word 0x4C#8 h (packV b))
  | .vfsin h b => some (word 0x4D#8 h (packV b))
  | .vfcos h b => some (word 0x4E#8 h (packV b))
  | .vfcmp h b => some (word 0x4F#8 h (packV b))
  | .vfclass h b => some (word 0x50#8 h (packV b))
  | .vfrnd h b => some (word 0x51#8 h (packV b))
  | .vffrc h b => some (word 0x52#8 h (packV b))
  | .vpadd h b => some (word 0x53#8 h (packV b))
  | .vpmul h b => some (word 0x54#8 h (packV b))
  | .vpmin h b => some (word 0x55#8 h (packV b))
  | .vpmax h b => some (word 0x56#8 h (packV b))
  | .vcvt h b => some (word 0x57#8 h (packV b))
  | .vpack h b => some (word 0x58#8 h (packV b))
  | .vunpk h b => some (word 0x59#8 h (packV b))
  | .vtag h b => some (word 0x5A#8 h (packV b))
  | .vshfl h b => some (word 0x5B#8 h (packV b))
  | .vbcast h b => some (word 0x5C#8 h (packV b))
  | .vred h b => some (word 0x5D#8 h (packV b))
  | .vscan h b => some (word 0x5E#8 h (packV b))
  | .vballot h b => some (word 0x5F#8 h (packV b))
  | .vmad h b => some (word 0x60#8 h (packV3 b))
  | .vbfi h b => some (word 0x61#8 h (packV3 b))
  | .vsel h b => some (word 0x62#8 h (packV3 b))
  | .vfma h b => some (word 0x63#8 h (packV3 b))
  | .vpfma h b => some (word 0x64#8 h (packV3 b))
  | .vlerp h b => some (word 0x65#8 h (packV3 b))
  | .vdot4 h b => some (word 0x66#8 h (packV3 b))
  | .vdot2 h b => some (word 0x67#8 h (packV3 b))
  | .ld h b => some (word 0x70#8 h (packM b))
  | .st h b => some (word 0x71#8 h (packM b))
  | .ldx h b => some (word 0x72#8 h (packM b))
  | .stx h b => some (word 0x73#8 h (packM b))
  | .lda h b => some (word 0x74#8 h (packM b))
  | .sta h b => some (word 0x75#8 h (packM b))
  | .ldat h b => some (word 0x76#8 h (packM b))
  | .stat h b => some (word 0x77#8 h (packM b))
  | .atom h b => some (word 0x78#8 h (packM b))
  | .atomNr h b => some (word 0x78#8 h (packM b))
  | .atoma h b => some (word 0x79#8 h (packM b))
  | .ldlod h b => some (word 0x7A#8 h (packM b))
  | .txg h b => some (word 0x7B#8 h (packM b))
  | .resq h b => some (word 0x7C#8 h (packM b))
  | .resqFb h b => some (word 0x7C#8 h (packM b))
  | .prefL1 h b => some (word 0x7D#8 h (packM b))
  | .prefL2 h b => some (word 0x7D#8 h (packM b))
  | .cpy h b => some (word 0x90#8 h (packA b))
  | .cpyz h b => some (word 0x94#8 h (packA b))
  | .cpyr h b => some (word 0x92#8 h (packA b))
  | .cpyl h b => some (word 0x91#8 h (packA b))
  | .cpytLd h b => some (word 0x93#8 h (packA b))
  | .cpytSt h b => some (word 0x93#8 h (packA b))
  | .twany h b => some (word 0x95#8 h (packA b))
  | .twall h b => some (word 0x96#8 h (packA b))
  | .tfirst h b => some (word 0x97#8 h (packA b))
  | .tcnt h b => some (word 0x98#8 h (packA b))
  | .abinit h b => some (word 0x99#8 h (packA b))
  | .abexp h b => some (word 0x9A#8 h (packA b))
  | .abarr h b => some (word 0x9B#8 h (packA b))
  | .abwait h b => some (word 0x9C#8 h (packA b))
  | .abtest h b => some (word 0x9D#8 h (packA b))
  | .flacqP h b => some (word 0x9E#8 h (packA b))
  | .flacqC h b => some (word 0x9E#8 h (packA b))
  | .flrelP h b => some (word 0x9F#8 h (packA b))
  | .flrelC h b => some (word 0x9F#8 h (packA b))
  | .ban h b => some (word 0xA0#8 h (packA b))
  | .bana h b => some (word 0xA1#8 h (packA b))
  | .banw h b => some (word 0xA2#8 h (packA b))
  | .ldwMem h b => some (word 0xB0#8 h (packX b))
  | .ldwSmp h b => some (word 0xB0#8 h (packX b))
  | .ldws h b => some (word 0xB1#8 h (packX b))
  | .trel h b => some (word 0xB2#8 h (packX b))
  | .mma h b => some (word 0xB3#8 h (packX b))
  | .mmag h b => some (word 0xB4#8 h (packX b))
  | .vxm h b => some (word 0xB5#8 h (packX b))
  | .accz h b => some (word 0xB6#8 h (packX b))
  | .accld h b => some (word 0xB7#8 h (packX b))
  | .accstRaw h b => some (word 0xB8#8 h (packX b))
  | .accstPost h b => some (word 0xB8#8 h (packX b))
  | .accrdEl h b => some (word 0xB9#8 h (packX b))
  | .accrdSt h b => some (word 0xB9#8 h (packX b))
  | .preopLin h b => some (word 0xBA#8 h (packX b))
  | .preopTr h b => some (word 0xBA#8 h (packX b))
  | .preopWin h b => some (word 0xBA#8 h (packX b))
  | .postop h b => some (word 0xBB#8 h (packX b))
  | .edge h b => some (word 0xBC#8 h (packX b))
  | .cvg h b => some (word 0xBD#8 h (packX b))
  | .blend h b => some (word 0xBE#8 h (packX b))
  | .flt h b => some (word 0xBF#8 h (packX b))
  | .rslvLt h b => some (word 0xC0#8 h (packX b))
  | .rslvLe h b => some (word 0xC0#8 h (packX b))
  | .rslvRd h b => some (word 0xC0#8 h (packX b))
  | .rslvLd h b => some (word 0xC0#8 h (packX b))
  | .rslvClr h b => some (word 0xC0#8 h (packX b))
  | .binfl h b => some (word 0xC1#8 h (packX b))
  | .spawn h b => some (word 0xD0#8 h (packT b))
  | .spawnLane h b => some (word 0xD0#8 h (packT b))
  | .spawnc h b => some (word 0xD1#8 h (packT b))
  | .await h b => some (word 0xD2#8 h (packT b))
  | .fnew h b => some (word 0xD3#8 h (packT b))
  | .fres h b => some (word 0xD4#8 h (packT b))
  | .fflt h b => some (word 0xD5#8 h (packT b))
  | .fwait h b => some (word 0xD6#8 h (packT b))
  | .fpoll h b => some (word 0xD7#8 h (packT b))
  | .reorder h b => some (word 0xD8#8 h (packT b))
  | .time h b => some (word 0xD9#8 h (packT b))
  | .ctxrd h b => some (word 0xDA#8 h (packT b))
  | .ctxwr h b => some (word 0xDB#8 h (packT b))
  | .evpop h b => some (word 0xDC#8 h (packT b))
  | .evpopWait h b => some (word 0xDC#8 h (packT b))
  | .tlbinvRange h b => some (word 0xDD#8 h (packT b))
  | .tlbinvAsid h b => some (word 0xDD#8 h (packT b))
  | .tlbinvFn h b => some (word 0xDD#8 h (packT b))
  | .mapqRange h b => some (word 0xDE#8 h (packT b))
  | .mapqAsid h b => some (word 0xDE#8 h (packT b))
  | .mapqFn h b => some (word 0xDE#8 h (packT b))
  | .haltcHalt h b => some (word 0xDF#8 h (packT b))
  | .haltcResume h b => some (word 0xDF#8 h (packT b))
  | .haltcKill h b => some (word 0xDF#8 h (packT b))
  | .hint n => some ((0xF#4 ++ n : BitVec 14) ++ 0#82)
  | .joinRelease _ _ => none
  | .reorderRendezvous _ _ => none
  | .registerLineFill _ _ => none
  | .variableResultWrite _ _ _ => none
  | .instructionLineFill _ _ _ => none
  | .pageWalk _ _ _ => none
  | .tlbinvReceive _ _ => none
  | .tlbinvDrainAck _ _ => none
  | .tlbinvComplete _ => none
  | .mapqNoticeReceive _ _ => none
  | .mapqComplete _ => none
  | .l2Registration _ => none
  | .l2WritebackMerge _ => none
  | .l2Read _ => none
  | .l2Atomic _ => none
  | .l2Reduction _ => none
  | .atriumBankOperation _ => none
  | .waitRegistrationOp _ => none
  | .galleryRegistrationOp _ => none
  | .futureResolutionOp _ => none
  | .resolutionNoticeReceive _ _ => none
  | .wakeQueuePost _ => none
  | .wakeQueueHead _ => none
  | .awaitPendingDecrement _ => none
  | .awaitComplete _ _ => none
  | .slotBind _ _ _ => none
  | .copyBeat _ _ => none
  | .copyLatticeStart _ _ => none
  | .followOnIssue _ _ => none
  | .copyComplete _ _ => none
  | .banisterPhaseRelease _ _ => none
  | .arrayOpDispatch _ _ => none
  | .arrayOpRetire _ _ => none
  | .binnerPrimitive _ _ => none
  | .feedbackReserve _ => none
  | .feedbackEntryWrite _ => none
  | .migrationCommand _ => none
  | .migrationInvalidationDone _ => none
  | .porterRecordSelect _ => none
  | .contextPlacement _ _ => none
  | .resourceReservation _ _ => none
  | .groupStart _ _ => none
  | .saveLineArrival _ _ _ => none
  | .preemptSaveComplete _ => none
  | .contextRestore _ _ => none
  | .crewCompletion _ _ => none
  | .eventHeldPost _ => none
  | .handlerLaunchStart _ => none
  | .haltLineArrival _ _ => none
  | .haltSettle _ _ => none
  | .contextHalted _ => none
  | .managementRegisterWrite _ _ _ _ => none
  | .fixedLatencyResultWrite _ _ _ => none
  | .unassignedOpcode w => some w
  | .astbWrite _ => none
  | .hotctlWrite _ => none
  | .mgtlWrite _ _ => none
  | .dctlReset _ => none
  | .dctlWithdraw _ => none
  | .dsrWrite _ _ => none
  | .vfrzClear _ _ => none
  | .evhlWrite _ _ _ => none
  | .hostRingHeadWrite _ _ _ => none
  | .hcrbTailWrite _ _ => none
  | .rsownWrite _ _ _ _ => none
  | .dtrateWrite _ _ => none
  | .dtoffWrite _ _ => none
  | .dtoffRead _ => none
  | .hostBar2Access _ _ _ => none
  | .peerInboundAccess _ _ _ => none
  | .linkRetrained _ _ => none
  | .functionLevelReset _ => none
  | .powerOn _ => none
  | .linkAuthentication _ _ => none
  | .svnFloorRaise => none
  | .spdmGetVersion _ => none
  | .spdmGetCapabilities _ => none
  | .spdmNegotiateAlgorithms _ => none
  | .spdmGetDigests _ => none
  | .spdmGetCertificate _ => none
  | .spdmChallenge _ => none
  | .spdmGetMeasurements _ => none
  | .periodicHealthReport _ => none
  | .correctableSoftError _ => none
  | .uncorrectableSoftError _ => none
  | .thermalThrottle _ _ => none
  | .thermalTrip _ _ => none
  | .pldmSetPowerCap _ => none
  | .pldmSetClockCeiling _ => none
  | .pldmReadTemperature _ => none
  | .pldmReadPackagePower => none
  | .clockStepChange _ => none
  | .shareWindowRestart => none
  | .preemptBudgetWindow => none
  | .doorbellWrite _ _ _ => none
  | .corridorProtocolBreach _ => none
  | .preempt _ _ => none
  | .freeFrameTake _ => none
  | .porterMigrationSelect _ _ => none
  | .feedbackDrain _ _ => none
  | .flitAgeLimit _ => none
  | .nakResend _ => none
  | .dieResetTimeout _ => none
  | .dieResetComplete _ => none
  | .hostCmdTlbinv _ => none
  | .hostCmdMapq _ => none
  | .hostCmdHaltcHalt _ => none
  | .hostCmdHaltcResume _ => none
  | .hostCmdHaltcKill _ => none
  | .hostCmdPlace _ => none
  | .hotlistIntervalEnd => none
  | .l1ForwardRequest _ _ _ => none
  | .parkEvictionTimeout _ _ => none
  | .issuePromotion _ _ _ => none
  | .yieldExpiry _ _ _ => none
  | .tileReload _ _ _ => none
  | .accumulatorEvict _ _ _ => none
  | .waiterToGallery _ _ _ => none
  | .groupEvict _ _ => none
  | .porterFaultService _ _ => none
  | .copyLateCompletion _ _ => none
  | .memoryControllerRequest _ _ => none
  | .faultRecordHeldPost _ => none
  | .stepHalt _ => none

end Sys2Proof
end

