-- ==== Sys2Proof/Machine/Arith.lean ====
section
/-! DEFINITION. Integer arithmetic on uniform operands and on the elements of a lane container (R254, R255, R258, R277
to R279), the formats of containers (R203), and conversions between them (R287 to R289): operands are converted to
integers or exact values, computed exactly, and narrowed once. -/

namespace Sys2Proof.Machine

/-- The value of `w` bits, signed or unsigned. -/
def intOf (w : Nat) (sgn : Bool) (n : Nat) : Int :=
  if sgn && 2 ^ (w - 1) ≤ n then (n : Int) - (2 ^ w : Nat) else n

def loOf (w : Nat) (sgn : Bool) : Int := if sgn then -(2 ^ (w - 1) : Nat) else 0
def hiOf (w : Nat) (sgn : Bool) : Int := if sgn then (2 ^ (w - 1) : Nat) - 1 else (2 ^ w : Nat) - 1

def clampInt (lo hi x : Int) : Int := if x < lo then lo else if hi < x then hi else x

/-- The `w` bits of an exact result: wrapped, or clamped to the range (R254, R277). -/
def narrow (w : Nat) (sgn sat : Bool) (x : Int) : Nat :=
  ((if sat then clampInt (loOf w sgn) (hiOf w sgn) x else x) % (2 ^ w : Nat)).toNat

/-! ## Uniform operations: operands are 64-bit carriers, of which a 32-bit form uses the low half -/

/-- The 64-bit or 32-bit operand as an integer. -/
def uInt (wide sgn : Bool) (a : W64) : Int :=
  if wide then intOf 64 sgn a.toNat else intOf 32 sgn (a.toNat % 2 ^ 32)

def uWidth (wide : Bool) : Nat := if wide then 64 else 32

def uNarrow (wide sgn sat : Bool) (x : Int) : W64 := BitVec.ofNat 64 (narrow (uWidth wide) sgn sat x)

/-- Shift left, 0 for a count of w or more (R255). -/
def shl (w k x : Nat) : Nat := if w ≤ k then 0 else x * 2 ^ k % 2 ^ w
def shr (w k x : Nat) : Nat := if w ≤ k then 0 else x / 2 ^ k
def sra (w k x : Nat) : Nat :=
  let k' := if w ≤ k then w - 1 else k
  (Int.emod (Int.ediv (intOf w true x) (2 ^ k' : Nat)) (2 ^ w : Nat)).toNat

/-- The number of 1 bits among the low `n` bits. -/
def popcount : Nat → Nat → Nat
  | 0, _ => 0
  | n + 1, x => x % 2 + popcount n (x / 2)

def clz (w x : Nat) : Nat := if x == 0 then w else w - 1 - x.log2

/-- Bits pos + len - 1 to pos, extended to w bits (R258, R279). -/
def bitfield (w : Nat) (sgn : Bool) (pos len x : Nat) : Nat :=
  narrow w sgn false (intOf len sgn (x / 2 ^ pos % 2 ^ len))

/-- C with bits pos + len - 1 to pos replaced by the low bits of A (R258, R279). -/
def insertField (pos len a c : Nat) : Nat :=
  c / 2 ^ (pos + len) * 2 ^ (pos + len) + a % 2 ^ len * 2 ^ pos + c % 2 ^ pos

/-! ## Elements of a container -/

/-- Element width and signedness of the integer suffixes (R236). -/
def elemInfo (ty : Nat) : Nat × Bool :=
  match ty with
  | 1 => (32, true)
  | 8 => (8, true)
  | 9 => (8, false)
  | 10 => (16, true)
  | _ => (32, false)

/-- Element i of a container of w-bit elements (R203). -/
def elem (w i : Nat) (c : W32) : Nat := c.toNat / 2 ^ (w * i) % 2 ^ w

/-- A container from its elements, the first in the low bits. -/
def ofElems (w : Nat) : List Nat → Nat
  | [] => 0
  | x :: l => x % 2 ^ w + 2 ^ w * ofElems w l

def container (w : Nat) (l : List Nat) : W32 := BitVec.ofNat 32 (ofElems w l)

/-- An integer operation on each element. -/
def elementwise (ty : Nat) (sat : Bool) (f : Int → Int → Int) (a b : W32) : W32 :=
  let (w, sgn) := elemInfo ty
  container w ((List.range (32 / w)).map fun i =>
    narrow w sgn sat (f (intOf w sgn (elem w i a)) (intOf w sgn (elem w i b))))

def minInt (a b : Int) : Int := if a ≤ b then a else b
def maxInt (a b : Int) : Int := if a ≤ b then b else a

/-! ## Formats of the type suffixes -/

/-- The floating-point format of a suffix code, for 3 to 7 (R236). -/
def tyFmt (ty : Nat) : Fmt :=
  match ty with
  | 4 => bf16
  | 5 => fp16
  | 6 => e4m3
  | 7 => e5m2
  | _ => fp32

def isFloatTy (ty : Nat) : Bool := 3 ≤ ty && ty ≤ 7

/-- The width of an element of a suffix (R203, R236). -/
def tyWidth (ty : Nat) : Nat :=
  match ty with
  | 4 => 16 | 5 => 16 | 10 => 16
  | 6 => 8 | 7 => 8 | 8 => 8 | 9 => 8 | 12 => 8 | 13 => 8
  | _ => 32

/-- The tag a suffix gives a result (R203): .rgb10a2 is carried as N32, and .a32 as ADDR. -/
def tyTag (ty : Nat) : BitVec 4 := if ty == 15 then 2#4 else BitVec.ofNat 4 ty

/-- Whether a suffix accepts a tag (R203). -/
def tyAccepts (ty : Nat) (tag : BitVec 4) : Bool :=
  match ty with
  | 2 => tag == 2#4 || tag == 14#4
  | 15 => tag == 2#4
  | _ => tag == BitVec.ofNat 4 ty

/-- The index rule of R27: I32 extends by its sign, N32 and ADDR with zeros. -/
def indexTag (tag : BitVec 4) : Bool := tag == 1#4 || tag == 2#4 || tag == 14#4

/-- The rounding mode of RM 0 to 3; RM 4 carries the stepped LFSR value. -/
def rndOf (rm : BitVec 3) (s : W16) : Rnd :=
  match rm.toNat with
  | 0 => .rne
  | 1 => .rz
  | 2 => .ru
  | 3 => .rd
  | _ => .rs s.toNat

/-- The exact value of an element of a suffix: an integer, a floating-point value, or an FX32 (value / 256). -/
def tyValue (ty n : Nat) : Fv :=
  if isFloatTy ty then (tyFmt ty).value n
  else if ty == 11 then .fin (intOf 32 true n < 0) (intOf 32 true n).natAbs (-8)
  else
    let (w, sgn) := elemInfo ty
    Fv.ofInt (intOf w sgn n)

/-- One element converted (R210, R211, R287): the formats are those of suffixes 1 to 11, and differ. -/
def convertElem (src dst : Nat) (sat : Bool) (r : Rnd) (n : Nat) : Nat :=
  let v := tyValue src n
  if isFloatTy dst then (tyFmt dst).ofValue (if sat && dst != 3 then .sat else .ieee) r v
  else if dst == 11 then
    narrow 32 true false (match v with
      | .fin neg m e => Fv.toInt (.fin neg m (e + 8)) r (loOf 32 true) (hiOf 32 true)
      | v => Fv.toInt v r (loOf 32 true) (hiOf 32 true))
  else
    let (w, sgn) := elemInfo dst
    if isFloatTy src then narrow w sgn false (Fv.toInt v r (loOf w sgn) (hiOf w sgn))
    else
      let (w', sgn') := elemInfo src
      narrow w sgn sat (intOf w' sgn' n)

/-- An element copied to its own format: only a NaN changes (R287). -/
def copyElem (ty n : Nat) : Nat :=
  if isFloatTy ty && ((tyFmt ty).value n).isNan then (tyFmt ty).nan else n

/-- The UNORM8 or sRGB8 value of a colour channel, and a channel from a value (R201). -/
def channelOut (ty i : Nat) (v : Fv) : Nat := if ty == 13 && i < 3 then srgbEncode v else toUnorm 255 v
def channelIn (ty i n : Nat) : W32 := if ty == 13 && i < 3 then srgbDecode n else fromUnorm 255 n

end Sys2Proof.Machine
end

