-- ==== Sys2Proof/Machine/State.lean ====
section
/-! DEFINITION. The state of the device as plain data: what spec/ names, unit by unit. Collections that are sparse are
lists of key and value pairs in rising key order that list no default value (Machine/SMap.lean). -/

namespace Sys2Proof.Machine

/-- Bytes by address, sparse; an unlisted address reads as 0 (assumption 1). -/
abbrev Mem := List Host.Cell

/-- Address, trap and halt codes (R30, R389). -/
inductive FaultCode where
  | notPresent | permRead | permWrite | permExec | nonCanonical | aperture | alcoveRange | pteMalformed
  | withdrawn | anchorEmpty | misaligned | vfViolation
  | illegalOpcode | formatMismatch | badTarget | fetchParity | divergenceDepth | reorderDiverged | doubleResolve
  | barrierOverrun | copyFault | arrayFault | lodDescriptor | bkpt | trap
  | haltRequest | step | masterFrozen
  deriving DecidableEq, Repr

/-! ## Registers of a split and of a group -/

inductive AnchorSt where
  | empty | stale | valid
  deriving DecidableEq, Repr

/-- An anchor register (R25). `attr` is TYPE in bits 7-6, then RD, WR, EX, CMP, TIER and RM in bits 5 to 0. -/
structure Anchor where
  st : AnchorSt
  vbase : W64
  frame : BitVec 52
  limit : W32
  attr : Byte
  deriving DecidableEq, Repr

/-- What a stop record says of a fault (R393). -/
structure TrapInfo where
  code : FaultCode
  subc : Byte := 0
  precise : Bool := true
  umask : Mask := 0
  fva : W64 := 0
  info : BitVec 12 := 0
  deriving DecidableEq, Repr

/-- A split parked on a replayable fault (R32): its unfinished lanes, faulting lookup pages, whether the wake came
during a halt, and since when; `pending` marks it record-pending while a record of it is held (R33). -/
structure Park where
  umask : Mask
  pages : List Nat
  code : FaultCode
  fva : W64
  woken : Bool
  since : Nat
  pending : Bool
  deriving DecidableEq, Repr

/-- Why a split is not ready (R193), with what the wait must keep across retries. -/
inductive Wait where
  | none
  | await
  | future (link : Option Nat)   -- FWAIT, in the wait table or by that link in the Gallery (R187)
  | resolved (off word : Nat)    -- FWAIT whose registration, of the future at that Atrium offset, returned the resolved word (R187)
  | tags                         -- TWALL, TWANY
  | tagFirst (chosen : Nat)      -- TFIRST, the tag chosen at issue (R153)
  | barrier                      -- ABWAIT
  | tread (pos : Nat)            -- FLACQ, the position it has taken (R317)
  | banister (tag : Nat) (token : Option Nat) -- BAN or BANW on a tag; the token a BAN received, none before it is counted (R319)
  | join
  | reorder
  | event                        -- EVPOP.wait
  | yield (since : Nat)          -- YIELD, from the given ac (R271)
  | request (id : Nat)           -- an operation at a home or a bank on behalf of the instruction at PC
  | maintain (op : Nat)          -- TLBINV or MAPQ (R365, R366)
  | haltc (cid : Nat)            -- HALTC.halt or HALTC.kill on that context (R363)
  | access                       -- walks or fills outstanding for the instruction at PC (R29)
  | fetch                        -- a walk or fill for an instruction line, before the instruction issues (R29, R224)
  | release                      -- registrations outstanding for a release (R101)
  | stalled                      -- held at issue (R139, R29, R164, R181, R319)
  | held (accs : List Nat) (sig : SigBits) -- held at issue by the per-tile interlock on accumulators (R322), with the leaf signatures of the
                                 -- operations waited for that have retired (R115)
  | parked (p : Park)
  deriving DecidableEq, Repr

/-- A vector register: format tag and lanes (R169, R203). -/
structure VReg where
  tag : BitVec 4
  lanes : Lanes
  deriving DecidableEq, Repr

/-- What an instruction under way read at its issue (R240): the vector registers it names, the predicates and the uniform registers. The
gather and texel unit keeps the map lines and the descriptor that it has read for it (R76). -/
structure Operands where
  v : List (Nat × VReg)
  p : Vector Mask 7
  u : Vector W32 64
  maps : List (Nat × Line) := []
  deriving DecidableEq, Repr

/-- A split (R171). `unfinished` holds the lanes an instruction at PC has still to perform; `badPages` the lookup pages
whose walk ended in a fault for it. `sbit` is the S bit of a non-sequential arrival (R245). `stop` is a fault it met
that waits for its stop record. -/
structure Split where
  pc : W64
  mask : Mask
  u : Vector W32 64
  anchors : Vector Anchor 8
  wait : Wait
  asleep : Bool
  unfinished : Option Mask
  badPages : List (Nat × FaultCode)
  sbit : Bool
  readySince : Nat
  promoted : Bool
  trapinfo : W32
  stop : Option TrapInfo
  raiser : Bool
  stepped : Bool                  -- it has issued its instruction since the resume (R406)
  barred : Bool                   -- it may issue nothing before the step halt (R406)
  issued : Option (W64 × BitVec 96) -- the instruction it issued last, with its PC: a wait goes on with it and fetches nothing
  read : Option Operands          -- the operands of the instruction under way
  streaming : Bool                -- HINT #3, until its next edge event (R368)
  deriving DecidableEq, Repr

/-- A divergence-stack entry (R173). -/
structure StackEntry where
  pc : W64
  mask : Mask
  emask : Byte
  vb : Vector W64 8
  u : Vector W32 64
  deriving DecidableEq, Repr

/-- One register write of a result (R240). -/
inductive RegWrite where
  | vec (r : Nat) (mask : Mask) (val : Lanes) (tag : BitVec 4)
  | tag (r : Nat) (tag : BitVec 4)
  | uni (r : Nat) (val : W32)
  | pred (p : Nat) (mask : Mask) (val : Mask)
  | anchor (k : Nat) (val : Anchor)
  deriving DecidableEq, Repr

/-- A result not yet written (R240): of fixed latency, due at an ac (R241), or variable-latency, which is due from the
moment its value arrives (R243). -/
structure Result where
  id : Nat
  split : Nat
  fixed : Bool
  due : Option Nat
  writes : List RegWrite
  opened : Bool                   -- of an instruction still being performed: it is written once that has ended or parked (R32, R240)
  deriving DecidableEq, Repr

/-- A register that an engine will write: a copy status word or an Array result (R139, R323). -/
structure Owed where
  split : Nat
  isVec : Bool
  reg : Nat
  engine : Bool      -- false: CE, true: Array
  seq : Nat
  id : Nat           -- its place among the group's results
  tag : Option (BitVec 4) -- the tag that a later write of the register has left (R206)
  deriving DecidableEq, Repr

/-- A register whose first read acquires a signature (R115, R323). -/
structure StatusSig where
  split : Nat
  isVec : Bool
  reg : Nat
  sig : SigBits
  deriving DecidableEq, Repr

/-- A flight reservation (R164). -/
structure Reservation where
  flight : Nat
  pos : Nat
  consumer : Bool
  holder : Nat                    -- the slot that HOLDER names, 0xFF before the tread is acquired
  deriving DecidableEq, Repr

inductive Role where
  | general | copy | matrix | vector
  deriving DecidableEq, Repr

/-- Where the completion of a group whose lanes have all retired stands (R270). -/
inductive ExitPhase where
  | live | awaiting | releasing | merging | complete
  deriving DecidableEq, Repr

/-- A group's state (R168 to R174): it belongs to the frame the group runs under. -/
structure Group where
  role : Role
  vregs : Nat
  uregs : Nat
  v : List (Nat × VReg)
  p : Vector Mask 7
  lfsr : Vector W16 32
  splits : Vector (Option Split) 4
  stack : List StackEntry          -- top first
  results : List Result            -- oldest first
  owed : List Owed
  statusSigs : List StatusSig
  nextId : Nat
  exit : ExitPhase
  resv : List Reservation
  crew : Nat
  num : Nat
  preferEvict : Bool               -- HINT #1 (R368)
  away : List Nat                  -- register lines whose value stands at their home (R53, R170)
  reordered : Option TBody         -- the REORDER at whose rendezvous it has arrived (R190)
  tgtChecked : Bool                -- the entry slot's TGT bit has been checked (R220)
  deriving DecidableEq, Repr

/-! ## Frames, contexts and crews -/

/-- A write signature with its owning context (R98). -/
structure Sig where
  cid : Nat
  bits : SigBits
  deriving DecidableEq, Repr

inductive FrameKind where
  | launch | child | continuation | dependent
  deriving DecidableEq, Repr

/-- STATE of a task frame (R180). -/
inductive FrameSt where
  | running | inDeque | ready | awaiting | waitTable | gallery | complete
  deriving DecidableEq, Repr

/-- A task frame (R180) with its signature and the group that runs under it. -/
structure Frame where
  parent : Option Nat
  pc : W64
  plane : Vector (BitVec 5) 32
  mask : Mask
  kind : FrameKind
  st : FrameSt
  pin : Bool
  rem : Nat
  links : Vector W32 4
  futs : Vector W64 4
  futOffs : Vector Nat 4          -- where those futures lie in the Atrium
  awb : W64
  regs : Nat
  core : Nat
  slot : Nat
  sig : SigBits
  acq : List SigBits              -- signatures to acquire before the first instruction (R102)
  acqAll : Bool                   -- an all-ones acquire is due (R100, R110)
  lent : List Nat                 -- crews other than its own on whose cores it has run (R184)
  group : Group
  deriving DecidableEq, Repr

/-- A copy tag of a crew (R152). -/
structure TagSt where
  count : Nat
  oldest : Nat
  sig : SigBits
  deriving DecidableEq, Repr

inductive AccMode where
  | none | f32 | i48
  deriving DecidableEq, Repr

/-- Pre-operator state (R335); `win` holds the 192 bytes of the lattice. -/
inductive PreOp where
  | lin (kv : Nat)
  | tr (kv : Nat)
  | win (bytes : List Byte)
  deriving DecidableEq, Repr

/-- Raster state: primitive count, sample count, one top-left flag a row (R320). -/
structure Raster where
  prims : Nat
  samples : Nat
  flags : List Bool
  deriving DecidableEq, Repr

/-- An accumulator tile (R320). Element (i, n) is at 64 i + n (F32) or 32 i + n (I48). -/
structure Acc where
  mode : AccMode
  elems : List (Nat × W64)
  status : W32
  pre : PreOp
  post : Vector W64 8
  raster : Option Raster
  undef : Option Nat              -- its unlisted elements are undefined since an ARRAY_FAULT (R324): the drawn index
  deriving DecidableEq, Repr

inductive TileTag where
  | w3g | w4g | mxfp4w | e4m3w | bf16w | fxs
  deriving DecidableEq, Repr

/-- A column scale: special, or (-1)^neg × mant × 2^exp (R212, R213). -/
structure Scale where
  special : Bool
  neg : Bool
  mant : Nat
  exp : Int
  deriving DecidableEq, Repr

/-- One LDW or LDWS of a load descriptor, with its uniform operand values (R320). -/
structure LoadDesc where
  instr : Instr
  va : W64
  vb : W64
  vc : W64
  deriving DecidableEq, Repr

/-- A filled stationary tile (R320). Weight (k, n) is at 8192 n + k; the scale of group j of column n at 256 n + j. -/
structure TileData where
  tag : TileTag
  rk : Nat
  rn : Nat
  kt : Nat
  nt : Nat
  weights : List (Nat × Int)
  gsize : Nat
  scales : List (Nat × Scale)
  loss : Bool
  origin : Option (Nat × Nat)
  desc : List LoadDesc
  resident : Bool
  page : Option Nat               -- the page that a reload of it for VXM waits for (R321, R324)
  deriving DecidableEq, Repr

/-- A crew's banister tag on its core (R318, R319): arrivals counted and held, with the subrectangle and n they name. -/
structure BanCore where
  counted : Nat
  sub : W32
  n : Nat
  held : Nat
  heldSub : W32
  heldN : Nat
  sig : SigBits
  heldSig : SigBits
  tokens : List (Nat × Nat)       -- tokens owed to held arrivals: frame and result
  deriving DecidableEq, Repr

inductive CrewSt where
  | waiting | reserved | committed | running | complete
  deriving DecidableEq, Repr

/-- A crew and what its core holds for it (R44, R113, R151, R176, R320). -/
structure Crew where
  core : Nat
  st : CrewSt
  alcBase : Nat                   -- KiB
  alcSize : Nat                   -- KiB
  tagBase : Nat
  tags : List TagSt
  accs : Vector Acc 16
  accOut : List Nat               -- accumulators evicted to the image (R321)
  tiles : Vector (Option TileData) 16
  tileOrder : List Nat            -- filled tiles in load order (R325)
  ban : Vector BanCore 8
  flights : List (Nat × SigBits)  -- flight signatures by Alcove offset (R113)
  sig : SigBits
  frames : Nat                    -- frames in use of the pool (R181)
  frameLow : Bool
  status : Nat
  released : Bool                 -- its reservations have been freed
  deriving DecidableEq, Repr

/-- One entry of a launch block (R175). -/
structure Entry where
  pc : W64
  vregs : Nat
  uregs : Nat
  groups : Nat
  deriving DecidableEq, Repr

structure LaunchBlock where
  alcove : Nat
  tags : Nat
  roles : Bool
  gang : Bool
  frames : Nat
  entries : Vector Entry 3
  deriving DecidableEq, Repr

/-- A launch record as the Porter read it (R371). -/
structure LaunchRec where
  kind : Nat
  fixed : Bool
  cls : Bool
  asid : Nat
  seq : W32
  lblk : W64
  x0 : Nat
  y0 : Nat
  w : Nat
  h : Nat
  arg : W64
  crec : W64
  cfut : W64
  lfut : W64
  deriving DecidableEq, Repr

/-- A rectangle of cores (R177). -/
structure Rect where
  x : Nat
  y : Nat
  w : Nat
  h : Nat
  deriving DecidableEq, Repr

/-- STATE of a context (R362); `saving` is the interval of R401 before STATE becomes 4, read as running. -/
inductive CtxSt where
  | none | running | halting | halted | saved | restoring | killed | saving | placing
  deriving DecidableEq, Repr

/-- A stop record (R393), before its layout as 64 bytes. -/
structure StopRec where
  src : Nat
  code : Option FaultCode
  subc : Byte
  precise : Bool
  raiser : Bool
  parked : Bool
  waiting : Bool
  woken : Bool
  dx : Nat
  dy : Nat
  slot : Nat
  split : Nat
  handle : Nat                    -- the frame, by which a resume finds the split again
  pc : W64
  moved : Option W64              -- the PC that a handler has written over it (R396)
  mask : Mask
  umask : Mask
  fva : W64
  iseq : Nat
  nrec : Nat
  time : W64
  info : BitVec 12
  fsubc : Byte
  deriving DecidableEq, Repr

inductive CopyKind where
  | cpy | cpyz | cpyr | cpyl | cpyt
  deriving DecidableEq, Repr

/-- STATE of a copy record (R165); `done` awaits COPY_COMPLETE. -/
inductive CopySt where
  | queued | running | parked | followOn | done
  deriving DecidableEq, Repr

/-- Where a barrier lies: in a core's Alcove or in the Atrium (R157). -/
inductive BarPlace where
  | alcove (core at_ : Nat)
  | atrium (off : Nat)
  deriving DecidableEq, Repr

/-- A beat that has been sent to its home and is counted when it is performed there (R140): its bytes, its line, and the place of
the barrier it credits. `signed`: it has been performed, and its signature is on its way to the block of a barrier in the Atrium (R58, R116). -/
structure SentBeat where
  n : Nat
  sig : SigBits
  bar : Option BarPlace
  filled : Bool
  signed : Bool
  deriving DecidableEq, Repr

/-- A copy record (R165), with the issuer, the leaf signature and the pages a parked beat waits on. -/
structure CopyRec where
  seq : Nat
  cid : Nat
  crew : Nat                      -- whose Alcove and tags it uses (R184)
  home : Nat                      -- toward whose completion it counts (R184)
  handle : Nat
  slot : Nat
  split : Nat
  kind : CopyKind
  store : Bool                    -- CPYT.st
  tag : Nat
  st : CopySt
  follow : Option Instr
  fov : Vector W64 3
  followSeq : Option Nat
  bar : Option W64
  bphase : Nat
  statUni : Option Nat
  statVec : Option (Nat × Nat)    -- register, lane
  rop : Nat
  rtype : Nat
  src : W64
  dst : W64
  len : Nat
  done : Nat
  valid : Nat
  coords : Vector W32 6
  lattice : List Byte
  sig : SigBits
  clamped : Bool
  filled : Bool
  overrun : Bool
  replayed : Bool
  fault : Option (Byte × Byte)    -- cause, and the follow-on's sub-cause
  pages : List Nat
  wasParked : Bool
  beat : Option SentBeat          -- a beat whose reduction is on its way to its home, or whose signature is to its barrier (R140, R116)
  deriving DecidableEq, Repr

inductive OpSt where
  | queued | running | stalled
  deriving DecidableEq, Repr

/-- An append that a Binner has made for its primitive: the tile word's place, its snapshot, the word installed, and where the record
stands (R412, R413). -/
structure Appended where
  at_ : Nat
  snapshot : Nat
  word : Nat
  va : W64
  deriving DecidableEq, Repr

/-- The primitive that a Binner is binning (R411 to R413). -/
structure Binning where
  rc : Nat                        -- its input record
  left : List (Nat × Nat)         -- the tiles still to come
  done : List Appended            -- latest first
  adds : List Nat                 -- the POOLTOP values returned, in order
  seen : Option Nat               -- the tile word read, while its CAS is still to come
  hand : Option Nat               -- a chunk taken and not installed
  deriving DecidableEq, Repr

/-- An Array, Binner or Resolver operation (R322 to R325). -/
structure ArrOp where
  seq : Nat
  cid : Nat
  crew : Nat
  home : Nat
  handle : Nat
  slot : Nat
  split : Nat
  instr : Instr
  va : W64
  vb : W64
  vc : W64
  sig : SigBits
  st : OpSt
  next : Nat
  page : Option Nat               -- the lookup page it is stalled on
  follow : Option Nat
  resReg : Option Nat
  updates : Nat                   -- entries updated so far (R345)
  bin : Option Binning            -- BINFL: the primitive under way
  deriving DecidableEq, Repr

/-- A bind record of a core's slot table (R378); a listed record has V = 1. -/
structure Bind where
  commit : Bool
  entry : Nat
  prio : Nat
  cid : Nat
  asid : Nat
  group : Nat
  tagb : Nat
  alcb : Nat
  alcn : Nat
  crew : Nat
  frame : Option Nat
  shown : Nat                     -- FRAME of the record: dispatch rewrites it only as it binds (R378)
  regs : Nat
  extra : Bool                    -- the slot is none that a launch reserved: it is given up when its frame leaves it (R183, R465)
  deriving DecidableEq, Repr

structure Ctx where
  cid : Nat
  vf : Nat
  asid : Nat
  sup : Bool
  prio : Nat
  rcd : LaunchRec
  blk : LaunchBlock
  queue : Nat
  rect : Rect
  st : CtxSt
  settled : Bool
  first : Option FaultCode        -- first cause (R392)
  firstSeq : Nat
  heldRaise : Option (FaultCode × Nat) -- a raise held until a restore has finished, with its issue sequence (R392)
  killAfter : Bool                -- a violation or HALTC.kill completes with a kill (R363, R397)
  offenders : List (Nat × Nat)    -- the engines that met its violation, as SRC and core: they write no records of it (R397)
  step : Bool
  bkptNop : Bool
  stepping : Bool
  crews : List Crew
  frames : List (Nat × Frame)
  banPhase : Vector Nat 8
  banUnion : Vector SigBits 8     -- signatures of the completed phases with .edge (R112)
  stops : List StopRec
  image : Mem
  hseq : Nat
  arrived : List Nat              -- cores the halt or save line has reached
  settledAt : List Nat
  copies : List CopyRec           -- copy records of the image (section 1)
  ops : List ArrOp                -- engine records of the image (section 2)
  late : List CopyRec             -- copies that complete late (R167)
  queued : List (Nat × List Nat × List Nat) -- deque and ready frames of a saved crew (R183)
  slotsSaved : List (Nat × Bool × List (Nat × BitVec 96)) -- Resolver slots of section 11 (R425)
  alcoves : List (Nat × Mem)      -- section 9 of a saved context, by crew
  saveStop : Bool                 -- a fault arose while saving or saved (R403)
  placed : Bool
  summary : Bool                  -- the summary has been written (R381)
  waiters : List Focus            -- splits in HALTC on this context, in order of arrival (R363); core 1024 is the host of function `slot`
  reqOpen : Bool                  -- an open PLACE_REQUEST (R375, R400)
  restoreTo : Option (Nat × Nat)  -- the origin a PLACE gave its restore (R400)
  handler : Bool
  byOther : Bool                  -- pre-empted for another function's work (R377)
  deriving DecidableEq, Repr

/-! ## A core -/

/-- A translation: `size` is 18, 24 or 31 address bits; `leaf` the entry it came from (R21, R28). -/
structure TlbEnt where
  asid : Nat
  vbase : Nat
  size : Nat
  leaf : W64
  pbase : Nat
  deriving DecidableEq, Repr

structure WalkEnt where
  asid : Nat
  level : Nat
  tag : Nat
  next : Nat
  deriving DecidableEq, Repr

/-- A walk in progress (R28, R37). `quiet`: only fetches of the texel unit for a level page wait for it (R77). -/
structure Miss where
  asid : Nat
  page : Nat
  quiet : Bool
  deriving DecidableEq, Repr

inductive L1St where
  | c | d | dr
  deriving DecidableEq, Repr

/-- An L1 line (R48 to R50); line number pa / 128. `vunit` is the fill tag. -/
structure L1Line where
  asid : Nat
  line : Nat
  vunit : Nat
  st : L1St
  data : Line
  valid : ByteMask
  dirty : ByteMask
  reg : ByteMask
  cmp : Bool
  tier : Bool
  low : Bool                      -- allocated as least recently used (R368)
  deriving DecidableEq, Repr

structure TexLine where
  asid : Nat
  line : Nat
  vunit : Nat
  data : Line
  deriving DecidableEq, Repr

/-- A line of the instruction cache (R224). -/
structure ILine where
  asid : Nat
  va : W64
  bits : BitVec 512
  deriving DecidableEq, Repr

/-- A wait-table entry (R187). -/
structure WaitEnt where
  future : Nat                    -- Atrium offset
  va : W64                        -- its address
  asid : Nat
  slot : Nat
  split : Nat
  deriving DecidableEq, Repr

structure FRef where
  cid : Nat
  handle : Nat
  deriving DecidableEq, Repr

/-- Key of the recent-entry filter (R80). -/
structure FbKey where
  asid : Nat
  rid : Nat
  level : Nat
  tx : Nat
  ty : Nat
  deriving DecidableEq, Repr

/-- A 32-byte fault record with the function it concerns (R33), and the split that is record-pending while it is held. -/
structure FaultRec where
  vf : Nat
  bits : BitVec 256
  owner : Option FRef
  split : Nat
  deriving DecidableEq, Repr

/-- A 4-byte word of a core's Alcove that an engine has written and that no completion edge has been observed to cover: which copy or
Array operation wrote it, and what it held before (R117). -/
structure Raced where
  cid : Nat
  crew : Nat
  array : Bool                    -- an operation of the Array path, else a copy
  seq : Nat
  tag : Nat
  word : Nat
  old : W32
  deriving DecidableEq, Repr

structure Core where
  slots : List (Nat × Bind)
  deque : List FRef               -- the 16 newest entries, top first (R183)
  spilled : List FRef             -- the older ones, in the context images
  ready : List FRef
  waits : List WaitEnt
  tlb1 : List TlbEnt
  tlb2 : List TlbEnt
  walks : List WalkEnt
  asids : List (Nat × W64)        -- cached ASID table entries (R18)
  misses : List Miss
  l1 : List L1Line
  tex : List TexLine
  icache : List ILine
  alcove : Mem
  ce : List CopyRec
  ceSeq : Nat
  arr : List ArrOp
  arrSeq : Nat
  filter : List FbKey
  fbUnreach : W64
  frSeq : W64
  held : List FaultRec
  regLines : List RegLine
  accsIn : List (Nat × Nat × Nat)  -- accumulators in its 16 physical ones: context, crew, number; latest used first (R321)
  tilesIn : List (Nat × Nat × Nat) -- tiles in its 32 macros, in the same way
  frozen : Bool                   -- its masters breached the Corridor protocol (R397)
  racing : List Raced             -- the engines' writes to its Alcove that a core-path read may still miss (R117)
  deriving DecidableEq, Repr

/-! ## Homes, memory, Atrium and the operations in flight -/

/-- An L2 line (R54, R61); owners are (core, ASID, registered mask), oldest first. -/
structure L2Line where
  data : Line
  dirty : Bool
  cmp : Bool
  tier : Bool
  owners : List (Nat × Nat × ByteMask)
  deriving DecidableEq, Repr

/-- What an operation at a home or a bank does when it arrives. -/
inductive ReqOp where
  | read (core asid line vunit : Nat) (toL1 cmp tier low : Bool)
  | fill (core asid line vunit : Nat) (toL1 cmp tier low : Bool) (data : Line) -- the answer of a read, on its way to its core
  | load (fill off n : Nat) (data : Line) (valid : ByteMask) -- bytes of a line that wait for that answer, with those the L1 held at the issue
  | prefetch (line : Nat) (tier : Bool)
  | writeback (core asid : Nat) (l : L1Line)
  | register (core asid line : Nat)
  | atomic (line off : Nat) (wide : Bool) (op ty : Nat) (a b : W64) (cmp tier : Bool)
  | reduce (line : Nat) (data : Line) (mask : ByteMask) (op ty : Nat) (cmp tier : Bool)
  | bankLoad (off len : Nat)
  | bankStore (off : Nat) (bytes : List Byte)
  | bankAtomic (off : Nat) (wide : Bool) (op ty : Nat) (a b : W64)
  | bankLine (off op ty : Nat) (operand : BitVec 512)
  | waitReg (off : Nat)
  | galleryReg (off link : Nat)
  | resolve (off : Nat) (value : W64) (faulted : Bool) (rcore rslot : Nat) (eng : Bool)
  | awaitDec (off : Nat)
  | fbReserve (off : Nat) (key : FbKey) (status : Nat)
  | fbWrite (off index : Nat) (key : FbKey) (status : Nat) (logn : Nat) (base : W64)
  deriving DecidableEq, Repr

/-- Where the answer of an operation goes. -/
inductive ReqDst where
  | drop
  | split (f : Focus)             -- the split's instruction at PC is in progress
  | vecLane (f : Focus) (reg lane size : Nat) (signed : Bool) (tag : BitVec 4)
  | vecLine (f : Focus) (reg first words : Nat) (mask : Mask) (tag : BitVec 4)
  | uni (f : Focus) (reg size : Nat) (signed : Bool)
  | frame (cid handle : Nat)
  | copy (seq : Nat)              -- a beat of a copy of the core (R140)
  deriving DecidableEq, Repr

/-- An operation in flight to a home or an Atrium bank (R55, R58): from `core`, under `asid`, for frame `h` of context
`cid`. `page` is the lookup page it was translated through, where one is known (R37, R38). `nak` marks a flit returned
at its age limit, and `again` one that has been (R430, R431). -/
structure Req where
  id : Nat
  page : Option Nat
  core : Nat
  cid : Nat
  h : Nat
  asid : Nat
  op : ReqOp
  dst : ReqDst
  lanes : Mask
  nak : Bool
  again : Bool
  sent : Nat := 0                 -- when it was injected, or came back with a NAK (R430, R431)
  after : List Nat := []          -- operations that must have been acknowledged first: the line ORs of a signature (R58, R107, R108)
  deriving DecidableEq, Repr

/-- A resolution notice on its way to the cores (R188). -/
structure Notice where
  id : Nat
  future : Nat
  asid : Nat
  reached : List Nat
  deriving DecidableEq, Repr

/-- Who waits for a maintenance operation. -/
inductive MaintFor where
  | split (f : Focus)
  | host (vf : Nat)
  | migration (annex : Nat)
  | porter
  deriving DecidableEq, Repr

/-- A TLBINV or MAPQ in progress (R365, R366): scope 0 range, 1 ASID, 2 function. A merged broadcast
covers several ranges (R386). -/
structure MaintOp where
  id : Nat
  inv : Bool
  scope : Nat
  asid : Nat
  ranges : List (Nat × Nat)
  vf : Nat
  owner : MaintFor
  left : List Nat                 -- recipients it has not reached
  unacked : List Nat              -- recipients that have not acknowledged
  drain : List (Nat × List Nat)   -- by recipient: the operations in flight that were translated before step (a) (R37, R38)
  started : Bool
  joined : Option Nat             -- the broadcast that covers it (R386)
  deriving DecidableEq, Repr

/-! ## Porters, queues, functions, dies -/

/-- A record a Porter holds (R373). -/
structure HeldRec where
  q : Nat
  vf : Nat
  prio : Nat
  rcd : LaunchRec
  cid : Option Nat
  deriving DecidableEq, Repr

structure Porter where
  held : List HeldRec
  wake : List (List (Nat × Nat))  -- list heads: the list each begins, as (CID, handle word)
  wakePend : List (List (Nat × Nat)) -- posts on their way, or that found the wake queue full
  faults : List FaultRec
  deriving DecidableEq, Repr

/-- A function's registers and the device's book-keeping for it (R372, R382 to R387, R398, R435). -/
structure Fn where
  weight : Byte
  ceil : BitVec 3
  pbud : W16
  evhl : W64
  evha : BitVec 13
  evdrop : W64
  hfrb : W64
  herb : W64
  hcrb : W64
  hfTail : W32
  hfHead : W32
  heTail : W32
  heHead : W32
  hcTail : W32
  hcHead : W32
  vfw : Vector W64 8
  dsr : BitVec 7
  frozen : Bool
  fcode : Byte
  eseq : W32
  heldEv : List (BitVec 512)      -- events that the Porter holds, at most 256 (R383)
  waitEv : List (BitVec 512)      -- events beyond those, with producers that wait (R383)
  handler : Option Nat
  handlerOff : Bool
  served : Nat
  spent : Nat
  cmdBusy : Bool
  deriving DecidableEq, Repr

/-- STATE of a die (R427). -/
inductive DieSt where
  | good | inReset | withdrawn
  deriving DecidableEq, Repr

structure Die where
  st : DieSt
  auth : Bool
  far : W16
  cxl0 : W16
  cxl1 : W16
  resetBit : Bool
  withdrawBit : Bool
  resetAt : Nat
  start : Nat                     -- when its counter started
  dtoff : W64
  dtrate : W32
  heldRate : Option W32
  latched : Option W32
  cdefl : W64                     -- CDEFL as it was last written, and when (R428)
  cdeflAt : Nat
  cnak : W64
  ce : W32
  ceTimes : List Nat              -- when its latest correctable errors came, newest first, at most 1,001 (R446)
  reportAt : Nat                  -- when its latest periodic report fell due (R446)
  temp : Nat                      -- hottest junction, 1/16 °C
  peer : Byte                     -- PEER enables, Annexes only (R436)
  digest : Option (List Byte)     -- SHA-384 of its accepted image
  running : Bool
  frozen : Bool                   -- its raster units, or its migration engine, breached the Corridor protocol (R397)
  deriving DecidableEq, Repr

structure Sketch where
  counters : List (Nat × Nat)
  table : List (Nat × Bool × Nat) -- page, TIER, estimate; earliest inserted first
  seq : W32
  deriving DecidableEq, Repr

inductive MigStage where
  | idle | guarded | copied | undone
  | waking (done : Bool)           -- the MAPQ that ends the move is under way
  deriving DecidableEq, Repr

/-- A migration command (R66). -/
structure MigCmd where
  va : W64
  asid : Nat
  big : Bool
  dst : Nat
  token : W32
  badFrame : Bool                 -- its frame is not of the tier of the ring it came from (R69)
  at_ : Option Nat                -- its ring slot's physical address; none for the Porter's ring
  deriving DecidableEq, Repr

/-- An entry of the window table (R69). -/
structure MigWindow where
  asid : Nat
  lo : Nat
  len : Nat
  deriving DecidableEq, Repr

structure Annex where
  mgrb : W64
  mgtl : W32
  mghd : W32
  porter : List MigCmd
  turn : Bool
  cur : Option (MigCmd × W64 × Nat) -- command, E0, leaf address
  stage : MigStage
  deriving DecidableEq, Repr

structure Undercroft where
  cmpwb : W64
  rawwb : W64
  saved : W64
  mdBad : W64
  metaLines : List Nat            -- lines of its metadata cache, latest used first: 128 blocks each (R61)
  deriving DecidableEq, Repr

/-- The variant of the device (R1); the integrator of a kit sets its thermal design power, in W. -/
inductive Variant where
  | p | m
  | k (tdp : Nat)
  deriving DecidableEq, Repr

/-- Its thermal design power in W (R1). -/
def Variant.tdp : Variant → Nat
  | .p => 1550
  | .m => 1800
  | .k w => w

/-- What the physical function's configuration space says of virtual functions (R434). -/
structure ConfigSpace where
  ari : Bool
  totalVfs : Nat
  initialVfs : Nat
  firstVfOffset : Nat
  vfStride : Nat
  pageSizes : List Nat            -- System Page Size, in bytes
  vfMigration : Bool
  deriving DecidableEq, Repr

def ConfigSpace.fixed : ConfigSpace :=
  { ari := true, totalVfs := 63, initialVfs := 63, firstVfOffset := 1, vfStride := 1, pageSizes := [4096], vfMigration := false }

/-- A management-controller or SPDM answer the device has given (R444, R447). -/
inductive Answer where
  | spdm (code : Byte) (bytes : List Byte)
  | temperature (die junction hbm : Nat)
  | power (milliwatt : Nat)
  | bar (bytes : List Byte)
  | refusedPeer (port : Nat)
  deriving DecidableEq, Repr

/-- What moves next (the guide's "plain data in State says which moves next"): a split issues, or a device, host or
board event happens, `dt` ac after the step before it. -/
inductive Act where
  | issue (f : Focus)
  | event (i : Instr)
  deriving DecidableEq, Repr

structure Turn where
  dt : Nat
  act : Act
  deriving DecidableEq, Repr

structure State where
  agenda : List Turn
  todo : List Instr
  focus : Focus
  issuedNow : List Nat            -- issue slots that have issued in this ac (R379)
  ac : Nat
  time : Nat                      -- in 1 / (47 × 232,792,560) ns
  step : Nat                      -- clock step: the arithmetic clock is 47 × step MHz (R447)
  hotStart : Nat                  -- when the sampling interval began (R64)
  shareStart : Nat                -- when the window of served time began (R373)
  budgetStart : Nat               -- when the window of pre-emption budgets began (R377)
  freeCtr : Nat                   -- the model's own: counts the free values drawn
  powered : Bool
  coresOn : Bool
  cores : List (Nat × Core)
  ctxs : List (Nat × Ctx)
  nextCid : Nat
  dram : Mem
  host : Mem
  peer : Mem
  atrium : Mem
  sigOwner : List (Nat × Nat)     -- context that owns the signature block at an Atrium offset (R98)
  gallery : List (Nat × Nat × Nat) -- overflow lists: (future, CID, handle word), newest first (R187)
  l2 : List (Nat × L2Line)
  codes : List (Nat × Nat)         -- compression code of a 512-byte block (R60)
  crofts : Vector Undercroft 2
  reqs : List Req
  nextReq : Nat
  notices : List Notice
  maints : List MaintOp
  porters : Vector Porter 2
  doorbells : List (Nat × W32)
  qtb : W64
  astb : W64
  hotctl : W64
  hotbuf : W64
  mgwt : W64
  freeRings : Vector W64 4        -- FFNA, FFNB, FFFN, FFFS
  keptFrames : List (Nat × Nat)   -- (ring, frame) the Porter keeps until a ring has room (R69)
  taken : List (Nat × Nat)        -- (ring, frame) the Porter has taken
  windows : List MigWindow        -- the migration windows as read at the last interval (R69)
  sketches : Vector Sketch 14
  annexes : Vector Annex 2
  fns : Vector Fn 64
  dies : Vector Die 6
  rsown : List (Nat × W32)        -- RSOWN by 64 hall + slot
  resolver : List (Nat × List (Nat × BitVec 96)) -- entries of a slot by pixel, depth in the low word (R345)
  fbRings : List (Nat × W64)      -- feedback rings met, by ASID
  svnFloor : Vector Nat 3
  svnSeen : Vector (Option Nat) 3
  links : List Nat                -- Corridor links that have authenticated (R443)
  variant : Variant
  cfgSpace : ConfigSpace
  measured : List Byte            -- measurement blocks 1 to 7 as the last boot left them (R444)
  waitHomes : List Instr          -- events held until a die in reset takes flits again (R431)
  homeHeld : Bool                 -- the model's own: what is being done has met a home in reset
  powerCap : Nat
  clockCeil : Nat
  packagePower : Nat
  thermalTrip : Bool
  answers : List Answer
  deriving DecidableEq, Repr

/-! ## The states a step can stop in -/

/-- Why a step faults. -/
inductive Fault where
  /-- Raised by `step` alone: the thermal trip of R448 has removed core power and the turn is an issue turn; the spec
  describes nothing a core does after that. Safe: the model stops where no behaviour is given. -/
  | unpowered
  deriving DecidableEq, Repr

/-- Why a step is refused. -/
inductive Refusal where
  /-- Raised by `exec` for an instruction that has no meaning in the model yet, by its mnemonic. Safe. -/
  | notModelled (mnemonic : String)
  deriving DecidableEq, Repr

/-! ## Reset -/

def Anchor.reset : Anchor := ⟨.empty, 0, 0, 0, 0⟩

def Undercroft.reset : Undercroft := ⟨0, 0, 0, 0, []⟩

def Porter.reset : Porter := ⟨[], [], [], []⟩

/-- Reset values of R62, R64, R69, R372, R383, R384, R386, R387, R398 and R435. -/
def Fn.reset : Fn :=
  { weight := 1, ceil := 7, pbud := 0xFFFF, evhl := 0, evha := 0, evdrop := 0, hfrb := 0, herb := 0, hcrb := 0,
    hfTail := 0, hfHead := 0, heTail := 0, heHead := 0, hcTail := 0, hcHead := 0, vfw := Vector.replicate 8 0,
    dsr := 0, frozen := false, fcode := 0, eseq := 0, heldEv := [], waitEv := [], handler := none, handlerOff := false,
    served := 0, spent := 0, cmdBusy := false }

/-- A die at power-on (R427, R432); its populated memory is assumption 4. -/
def Die.reset (far : W16) : Die :=
  { st := .good, auth := false, far := far, cxl0 := 0, cxl1 := 0, resetBit := false, withdrawBit := false,
    resetAt := 0, start := 0, dtoff := 0, dtrate := 0x40000000, heldRate := none, latched := none, cdefl := 0, cdeflAt := 0,
    cnak := 0, ce := 0, ceTimes := [], reportAt := 0, temp := 0, peer := 0, digest := none, running := false, frozen := false }

def Sketch.reset : Sketch := ⟨[], [], 0⟩

def Annex.reset : Annex := ⟨0, 0, 0, [], false, none, .idle⟩

/-- The device right after power is applied, before POWER_ON verifies its firmware (R441): no context, memory lists
nothing, every register at the reset value its field map gives. -/
def State.reset : State :=
  { agenda := [], todo := [], focus := ⟨0, 0, 0⟩, issuedNow := [], ac := 0, time := 0, step := 20, hotStart := 0, shareStart := 0, budgetStart := 0, freeCtr := 0, powered := false,
    coresOn := true, cores := [], ctxs := [], nextCid := 1, dram := [], host := [], peer := [], atrium := [],
    sigOwner := [], gallery := [], l2 := [], codes := [], crofts := Vector.replicate 2 Undercroft.reset,
    reqs := [], nextReq := 0, notices := [], maints := [], porters := Vector.replicate 2 Porter.reset,
    doorbells := [], qtb := 0, astb := 0, hotctl := 0, hotbuf := 0, mgwt := 0,
    freeRings := Vector.replicate 4 0, keptFrames := [], taken := [], windows := [],
    sketches := Vector.replicate 14 Sketch.reset, annexes := Vector.replicate 2 Annex.reset,
    fns := Vector.replicate 64 Fn.reset,
    dies := #v[Die.reset 0, Die.reset 0, Die.reset 512, Die.reset 512, Die.reset 0, Die.reset 0],
    rsown := [], resolver := [], fbRings := [], svnFloor := Vector.replicate 3 0,
    svnSeen := Vector.replicate 3 none, links := [], variant := .p, cfgSpace := ConfigSpace.fixed, measured := [], waitHomes := [], homeHeld := false, powerCap := 1550, clockCeil := 940, packagePower := 0,
    thermalTrip := false, answers := [] }

end Sys2Proof.Machine
end

