-- ==== Sys2Proof/Machine/SMap.lean ====
section
/-! DEFINITION. Sorted lists of key and value pairs, and byte memory in its canonical form: addresses strictly rising and
no entry equal to 0, which an unlisted address reads as (assumption 1). -/

namespace Sys2Proof.Machine

/-- A vector with a function applied to every element, built element by element so that it evaluates. -/
def mapEach {α β : Type} {n : Nat} (v : Vector α n) (f : α → β) : Vector β n := Vector.ofFn fun i => f v[i]

/-- The value at a key. -/
def lookup {α : Type} : List (Nat × α) → Nat → Option α
  | [], _ => none
  | (k, v) :: l, a => if k == a then some v else if a < k then none else lookup l a

/-- The list with a key bound to a value. -/
def insert {α : Type} : List (Nat × α) → Nat → α → List (Nat × α)
  | [], a, x => [(a, x)]
  | (k, v) :: l, a, x =>
    if k == a then (a, x) :: l else if a < k then (a, x) :: (k, v) :: l else (k, v) :: insert l a x

/-- The list without a key. -/
def remove {α : Type} : List (Nat × α) → Nat → List (Nat × α)
  | [], _ => []
  | (k, v) :: l, a => if k == a then l else if a < k then (k, v) :: l else (k, v) :: remove l a

/-- Keys strictly rising. -/
def rising {α : Type} : List (Nat × α) → Bool
  | [] => true
  | [_] => true
  | (a, _) :: (b, y) :: l => a < b && rising ((b, y) :: l)

namespace Mem

/-- The canonical form (assumption 1). -/
def wf (m : Mem) : Bool := rising m && m.all fun c => c.2 != 0

def read (m : Mem) (a : Nat) : Byte := (lookup m a).getD 0

def write (m : Mem) (a : Nat) (x : Byte) : Mem := if x == 0 then remove m a else insert m a x

/-- `n` bytes from an address, the first in the low bits (R6). -/
def readN (m : Mem) (a : Nat) : Nat → Nat
  | 0 => 0
  | n + 1 => (read m a).toNat + 256 * readN m (a + 1) n

/-- The low `n` bytes of a value, little-endian. -/
def writeN (m : Mem) (a : Nat) : Nat → Nat → Mem
  | 0, _ => m
  | n + 1, x => writeN (write m a (BitVec.ofNat 8 x)) (a + 1) n (x / 256)

def writeBytes (m : Mem) (a : Nat) : List Byte → Mem
  | [] => m
  | x :: l => writeBytes (write m a x) (a + 1) l

def readBytes (m : Mem) (a : Nat) : Nat → List Byte
  | 0 => []
  | n + 1 => read m a :: readBytes m (a + 1) n

/-- The 128-byte line at a line number. -/
def line (m : Mem) (l : Nat) : Line := BitVec.ofNat 1024 (readN m (128 * l) 128)

def setLine (m : Mem) (l : Nat) (x : Line) : Mem := writeN m (128 * l) 128 x.toNat

/-- The memory with a range of bytes cleared. -/
def clear (m : Mem) (lo n : Nat) : Mem := m.filter fun c => c.1 < lo || lo + n ≤ c.1

/-- The bytes of a range, at addresses from 0, and such bytes placed at an address. -/
def slice (m : Mem) (lo n : Nat) : Mem := (m.filter fun c => lo ≤ c.1 && c.1 < lo + n).map fun c => (c.1 - lo, c.2)
def place (m : Mem) (lo : Nat) (part : Mem) : Mem := part.foldl (fun m c => write m (lo + c.1) c.2) m

end Mem

end Sys2Proof.Machine
end

