-- ==== Sys2Proof/Machine/Operands.lean ====
section
/-! DEFINITION. The registers an instruction names, by its operand fields (R228 to R235 and the entries of the
instructions): what it reads and what it writes. One table serves the checks against VREGS and UREGS (R169, R238), the
scoreboard (R243) and the presence of register lines (R170). -/

namespace Sys2Proof.Machine

/-- The registers of an instruction: uniform, vector, predicate and anchor registers read and written. -/
structure RegUse where
  ur : List Nat := []
  uw : List Nat := []
  vr : List Nat := []
  vw : List Nat := []
  pr : List Nat := []
  pw : List Nat := []
  ar : List Nat := []
  aw : List Nat := []
  deriving DecidableEq, Repr

/-- The pair an even field names (R228). -/
def pair (r : BitVec 6) : List Nat := [r.toNat, r.toNat + 1]

def regs (wide : Bool) (r : BitVec 6) : List Nat := if wide then pair r else [r.toNat]

/-- `n` vector registers from a field. -/
def span (r : BitVec 8) (n : Nat) : List Nat := (List.range n).map (r.toNat + ·)

/-- `n` uniform registers from a field. -/
def spanU (r : BitVec 6) (n : Nat) : List Nat := (List.range n).map (r.toNat + ·)

/-- The registers of an address (R232): the pair of mode 10, the lane offset of vX, the anchor of mode 00. -/
def addrU (b : MBody) : List Nat := if b.am == 2#2 then pair b.ms else []
def addrV (b : MBody) : List Nat := if b.xv then [b.mx.toNat] else []
def addrA (b : MBody) : List Nat := if b.am == 0#2 then [b.mb.toNat] else []

/-- The operand registers of ATOM (R305): comparand and new value for .cas. -/
def atomOps (b : MBody) : List Nat := span b.mc ((if b.mop == 7#4 then 2 else 1) * (if b.sz == 5#4 then 2 else 1))

/-- The registers of a VXM row of kv elements (R337). -/
def vxmRegs (b : XBody) : Nat :=
  32 * ((b.xi.extractLsb' 16 3).toNat + 1) * (if b.af == 2#4 then 2 else 1) / 4

/-- An instruction that reads or steps the LFSRs of its lanes: stochastic rounding, and the moves of sr.lfsr (R169, R260). -/
def usesLfsr : Instr → Bool
  | .srdV _ b => b.x8 == 0x0E#8
  | .swr _ _ | .swrV _ _ => true
  | .vfadd _ b | .vfmul _ b | .vfrcp _ b | .vfrsq _ b | .vfsqrt _ b | .vfexp2 _ b | .vflog2 _ b | .vfsin _ b | .vfcos _ b | .vfrnd _ b | .vffrc _ b => b.rm == 4#3
  | .vpadd _ b | .vpmul _ b | .vcvt _ b | .vpack _ b | .vred _ b | .vscan _ b => b.rm == 4#3
  | .vfma _ b | .vpfma _ b | .vlerp _ b | .vdot4 _ b | .vdot2 _ b => b.rm == 4#3
  | _ => false

/-- The register operands of one instruction. The guard is a predicate read. -/
def regUse : Instr → RegUse
  | .smov h b => { ur := regs (h.sub.getLsbD 0) b.sa, uw := regs (h.sub.getLsbD 0) b.sd, pr := [h.g.toNat] }
  | .smovi h b => { uw := regs (h.sub.getLsbD 0) b.sd, pr := [h.g.toNat] }
  | .sadd h b => { ur := regs (h.sub.getLsbD 0) b.sa ++ (if b.is then [] else regs (h.sub.getLsbD 0) b.sb), uw := regs (h.sub.getLsbD 0) b.sd, pr := [h.g.toNat] }
  | .ssub h b => { ur := regs (h.sub.getLsbD 0) b.sa ++ (if b.is then [] else regs (h.sub.getLsbD 0) b.sb), uw := regs (h.sub.getLsbD 0) b.sd, pr := [h.g.toNat] }
  | .smul h b => { ur := regs (h.sub.getLsbD 0) b.sa ++ (if b.is then [] else regs (h.sub.getLsbD 0) b.sb), uw := regs (h.sub.getLsbD 0) b.sd, pr := [h.g.toNat] }
  | .smulh h b => { ur := regs (h.sub.getLsbD 0) b.sa ++ (if b.is then [] else regs (h.sub.getLsbD 0) b.sb), uw := regs (h.sub.getLsbD 0) b.sd, pr := [h.g.toNat] }
  | .smad h b => { ur := regs (h.sub.getLsbD 0) b.sa ++ (if b.is then [] else regs (h.sub.getLsbD 0) b.sb) ++ regs (h.sub.getLsbD 0) b.sc, uw := regs (h.sub.getLsbD 0) b.sd, pr := [h.g.toNat] }
  | .sand h b => { ur := regs (h.sub.getLsbD 0) b.sa ++ (if b.is then [] else regs (h.sub.getLsbD 0) b.sb), uw := regs (h.sub.getLsbD 0) b.sd, pr := [h.g.toNat] }
  | .sor h b => { ur := regs (h.sub.getLsbD 0) b.sa ++ (if b.is then [] else regs (h.sub.getLsbD 0) b.sb), uw := regs (h.sub.getLsbD 0) b.sd, pr := [h.g.toNat] }
  | .sxor h b => { ur := regs (h.sub.getLsbD 0) b.sa ++ (if b.is then [] else regs (h.sub.getLsbD 0) b.sb), uw := regs (h.sub.getLsbD 0) b.sd, pr := [h.g.toNat] }
  | .sshl h b => { ur := regs (h.sub.getLsbD 0) b.sa ++ (if b.is then [] else [b.sb.toNat]), uw := regs (h.sub.getLsbD 0) b.sd, pr := [h.g.toNat] }
  | .sshr h b => { ur := regs (h.sub.getLsbD 0) b.sa ++ (if b.is then [] else [b.sb.toNat]), uw := regs (h.sub.getLsbD 0) b.sd, pr := [h.g.toNat] }
  | .ssra h b => { ur := regs (h.sub.getLsbD 0) b.sa ++ (if b.is then [] else [b.sb.toNat]), uw := regs (h.sub.getLsbD 0) b.sd, pr := [h.g.toNat] }
  | .smin h b => { ur := regs (h.sub.getLsbD 0) b.sa ++ (if b.is then [] else regs (h.sub.getLsbD 0) b.sb), uw := regs (h.sub.getLsbD 0) b.sd, pr := [h.g.toNat] }
  | .smax h b => { ur := regs (h.sub.getLsbD 0) b.sa ++ (if b.is then [] else regs (h.sub.getLsbD 0) b.sb), uw := regs (h.sub.getLsbD 0) b.sd, pr := [h.g.toNat] }
  | .scmp h b => { ur := regs (h.sub.getLsbD 0) b.sa ++ (if b.is then [] else regs (h.sub.getLsbD 0) b.sb), uw := [b.sd.toNat], pr := [h.g.toNat], pw := [b.ps.toNat] }
  | .ssel h b => { ur := regs (h.sub.getLsbD 0) b.sa ++ (if b.is then [] else regs (h.sub.getLsbD 0) b.sb) ++ (if h.sub.toNat < 2 then [b.sc.toNat] else []), uw := regs (h.sub.getLsbD 0) b.sd, pr := h.g.toNat :: (if h.sub.toNat < 2 then [] else [b.ps.toNat]) }
  | .spopc h b => { ur := regs (h.sub.getLsbD 0) b.sa, uw := [b.sd.toNat], pr := [h.g.toNat] }
  | .sclz h b => { ur := regs (h.sub.getLsbD 0) b.sa, uw := [b.sd.toNat], pr := [h.g.toNat] }
  | .sbfx h b => { ur := regs (h.sub.getLsbD 0) b.sa, uw := regs (h.sub.getLsbD 0) b.sd, pr := [h.g.toNat] }
  | .sbfi h b => { ur := regs (h.sub.getLsbD 0) b.sa ++ regs (h.sub.getLsbD 0) b.sc, uw := regs (h.sub.getLsbD 0) b.sd, pr := [h.g.toNat] }
  | .slea h b => { ur := pair b.sa ++ (if b.is then [] else [b.sb.toNat]), uw := pair b.sd, pr := [h.g.toNat] }
  | .srd h b => { uw := regs (wideSr b.x8) b.sd, pr := [h.g.toNat] }
  | .srdV h b => { vw := [(b.imm.extractLsb' 0 8).toNat], pr := [h.g.toNat] }
  | .swr h b => { ur := [b.sa.toNat], pr := [h.g.toNat] }
  | .swrV h b => { vr := [(b.imm.extractLsb' 0 8).toNat], pr := [h.g.toNat] }
  | .sld h b => { ur := pair b.sa, uw := regs (h.subIs 5) b.sd, pr := [h.g.toNat] }
  | .sst h b => { ur := pair b.sa ++ regs (h.subIs 5) b.sb, pr := [h.g.toNat] }
  | .sballot h b => { uw := [b.sd.toNat], pr := h.g.toNat :: ([b.ps.toNat]) }
  | .anchor h b => { ur := pair b.n ++ (if h.subIs 0 then [b.m.toNat] else []), pr := [h.g.toNat], aw := [b.k.toNat] }
  | .br h _ => { pr := [h.g.toNat] }
  | .brx h b => { ur := pair b.ca, vr := [b.cv.toNat], pr := [h.g.toNat] }
  | .pad h _ => { pr := [h.g.toNat] }
  | .call h b => { uw := pair b.ca, pr := [h.g.toNat] }
  | .ret h b => { ur := pair b.ca, pr := [h.g.toNat] }
  | .join h _ => { pr := [h.g.toNat] }
  | .loop h b => { ur := regs (b.cx.getLsbD 0) b.ca, uw := regs (b.cx.getLsbD 0) b.ca, pr := [h.g.toNat] }
  | .exit h _ => { pr := [h.g.toNat] }
  | .yield h _ => { pr := [h.g.toNat] }
  | .nop h _ => { pr := [h.g.toNat] }
  | .bkpt h _ => { pr := [h.g.toNat] }
  | .trap h _ => { pr := [h.g.toNat] }
  | .vadd h b => { vr := b.va.toNat :: (if b.ib then [] else [b.vb.toNat]), vw := [b.vd.toNat], pr := [h.g.toNat] }
  | .vsub h b => { vr := b.va.toNat :: (if b.ib then [] else [b.vb.toNat]), vw := [b.vd.toNat], pr := [h.g.toNat] }
  | .vmul h b => { vr := b.va.toNat :: (if b.ib then [] else [b.vb.toNat]), vw := [b.vd.toNat], pr := [h.g.toNat] }
  | .vmulh h b => { vr := b.va.toNat :: (if b.ib then [] else [b.vb.toNat]), vw := [b.vd.toNat], pr := [h.g.toNat] }
  | .vmin h b => { vr := b.va.toNat :: (if b.ib then [] else [b.vb.toNat]), vw := [b.vd.toNat], pr := [h.g.toNat] }
  | .vmax h b => { vr := b.va.toNat :: (if b.ib then [] else [b.vb.toNat]), vw := [b.vd.toNat], pr := [h.g.toNat] }
  | .vabs h b => { vr := [b.va.toNat], vw := [b.vd.toNat], pr := [h.g.toNat] }
  | .vand h b => { vr := b.va.toNat :: (if b.ib then [] else [b.vb.toNat]), vw := [b.vd.toNat], pr := [h.g.toNat] }
  | .vor h b => { vr := b.va.toNat :: (if b.ib then [] else [b.vb.toNat]), vw := [b.vd.toNat], pr := [h.g.toNat] }
  | .vxor h b => { vr := b.va.toNat :: (if b.ib then [] else [b.vb.toNat]), vw := [b.vd.toNat], pr := [h.g.toNat] }
  | .vnot h b => { vr := [b.va.toNat], vw := [b.vd.toNat], pr := [h.g.toNat] }
  | .vshl h b => { vr := b.va.toNat :: (if b.ib then [] else [b.vb.toNat]), vw := [b.vd.toNat], pr := [h.g.toNat] }
  | .vshr h b => { vr := b.va.toNat :: (if b.ib then [] else [b.vb.toNat]), vw := [b.vd.toNat], pr := [h.g.toNat] }
  | .vsra h b => { vr := b.va.toNat :: (if b.ib then [] else [b.vb.toNat]), vw := [b.vd.toNat], pr := [h.g.toNat] }
  | .vpopc h b => { vr := [b.va.toNat], vw := [b.vd.toNat], pr := [h.g.toNat] }
  | .vclz h b => { vr := [b.va.toNat], vw := [b.vd.toNat], pr := [h.g.toNat] }
  | .vbfx h b => { vr := [b.va.toNat], vw := [b.vd.toNat], pr := [h.g.toNat] }
  | .vcmp h b => { vr := b.va.toNat :: (if b.ib then [] else [b.vb.toNat]), vw := if h.subIs 1 then [b.vd.toNat] else [], pr := [h.g.toNat], pw := [b.pd.toNat] }
  | .vmov h b => { vr := [b.va.toNat], vw := [b.vd.toNat], pr := [h.g.toNat] }
  | .vmovi h b => { vw := [b.vd.toNat], pr := [h.g.toNat] }
  | .vfadd h b => { vr := b.va.toNat :: (if b.ib then [] else [b.vb.toNat]), vw := [b.vd.toNat], pr := [h.g.toNat] }
  | .vfmul h b => { vr := b.va.toNat :: (if b.ib then [] else [b.vb.toNat]), vw := [b.vd.toNat], pr := [h.g.toNat] }
  | .vfmin h b => { vr := b.va.toNat :: (if b.ib then [] else [b.vb.toNat]), vw := [b.vd.toNat], pr := [h.g.toNat] }
  | .vfmax h b => { vr := b.va.toNat :: (if b.ib then [] else [b.vb.toNat]), vw := [b.vd.toNat], pr := [h.g.toNat] }
  | .vfrcp h b => { vr := [b.va.toNat], vw := [b.vd.toNat], pr := [h.g.toNat] }
  | .vfrsq h b => { vr := [b.va.toNat], vw := [b.vd.toNat], pr := [h.g.toNat] }
  | .vfsqrt h b => { vr := [b.va.toNat], vw := [b.vd.toNat], pr := [h.g.toNat] }
  | .vfexp2 h b => { vr := [b.va.toNat], vw := [b.vd.toNat], pr := [h.g.toNat] }
  | .vflog2 h b => { vr := [b.va.toNat], vw := [b.vd.toNat], pr := [h.g.toNat] }
  | .vfsin h b => { vr := [b.va.toNat], vw := [b.vd.toNat], pr := [h.g.toNat] }
  | .vfcos h b => { vr := [b.va.toNat], vw := [b.vd.toNat], pr := [h.g.toNat] }
  | .vfcmp h b => { vr := b.va.toNat :: (if b.ib then [] else [b.vb.toNat]), vw := if h.subIs 1 then [b.vd.toNat] else [], pr := [h.g.toNat], pw := [b.pd.toNat] }
  | .vfclass h b => { vr := [b.va.toNat], vw := [b.vd.toNat], pr := [h.g.toNat], pw := [b.pd.toNat] }
  | .vfrnd h b => { vr := [b.va.toNat], vw := [b.vd.toNat], pr := [h.g.toNat] }
  | .vffrc h b => { vr := [b.va.toNat], vw := [b.vd.toNat], pr := [h.g.toNat] }
  | .vpadd h b => { vr := b.va.toNat :: (if b.ib then [] else [b.vb.toNat]), vw := [b.vd.toNat], pr := [h.g.toNat] }
  | .vpmul h b => { vr := b.va.toNat :: (if b.ib then [] else [b.vb.toNat]), vw := [b.vd.toNat], pr := [h.g.toNat] }
  | .vpmin h b => { vr := b.va.toNat :: (if b.ib then [] else [b.vb.toNat]), vw := [b.vd.toNat], pr := [h.g.toNat] }
  | .vpmax h b => { vr := b.va.toNat :: (if b.ib then [] else [b.vb.toNat]), vw := [b.vd.toNat], pr := [h.g.toNat] }
  | .vcvt h b => { vr := [b.va.toNat], vw := [b.vd.toNat], pr := [h.g.toNat] }
  | .vpack h b => { vr := if packPair4 b.cc.toNat b.ty.toNat then span b.va 4 else b.va.toNat :: (if b.ib then [] else [b.vb.toNat]), vw := [b.vd.toNat], pr := [h.g.toNat] }
  | .vunpk h b => { vr := [b.va.toNat], vw := [b.vd.toNat], pr := [h.g.toNat] }
  | .vtag h b => { vw := [b.vd.toNat], pr := [h.g.toNat] }
  | .vshfl h b => { vr := b.va.toNat :: (if b.ib then [] else [b.vb.toNat]), vw := [b.vd.toNat], pr := [h.g.toNat], pw := [b.pd.toNat] }
  | .vbcast h b => { vr := [b.va.toNat], vw := [b.vd.toNat], pr := [h.g.toNat], pw := [b.pd.toNat] }
  | .vred h b => { uw := if b.cc.getLsbD 3 then [b.vd.toNat] else [], vr := [b.va.toNat], vw := if b.cc.getLsbD 3 then [] else [b.vd.toNat], pr := [h.g.toNat] }
  | .vscan h b => { vr := [b.va.toNat], vw := [b.vd.toNat], pr := [h.g.toNat] }
  | .vballot h b => { uw := [b.vd.toNat], vr := [b.va.toNat], pr := [h.g.toNat], pw := [b.pd.toNat] }
  | .vmad h b => { vr := [b.va.toNat, b.vb.toNat, b.vc.toNat], vw := [b.vd.toNat], pr := [h.g.toNat] }
  | .vbfi h b => { vr := [b.va.toNat, b.vb.toNat, b.vc.toNat], vw := [b.vd.toNat], pr := [h.g.toNat] }
  | .vsel h b => { vr := [b.va.toNat, b.vb.toNat], vw := [b.vd.toNat], pr := h.g.toNat :: ([b.ps.toNat]) }
  | .vfma h b => { vr := [b.va.toNat, b.vb.toNat, b.vc.toNat], vw := [b.vd.toNat], pr := [h.g.toNat] }
  | .vpfma h b => { vr := [b.va.toNat, b.vb.toNat, b.vc.toNat], vw := [b.vd.toNat], pr := [h.g.toNat] }
  | .vlerp h b => { vr := [b.va.toNat, b.vb.toNat, b.vc.toNat], vw := [b.vd.toNat], pr := [h.g.toNat] }
  | .vdot4 h b => { vr := [b.va.toNat, b.vb.toNat, b.vc.toNat], vw := [b.vd.toNat], pr := [h.g.toNat] }
  | .vdot2 h b => { vr := [b.va.toNat, b.vb.toNat, b.vc.toNat], vw := [b.vd.toNat], pr := [h.g.toNat] }
  | .ld h b => { ur := addrU b, vr := addrV b, vw := span b.md (szRegs b), pr := [h.g.toNat], ar := addrA b }
  | .st h b => { ur := addrU b, vr := addrV b ++ span b.md (szRegs b), pr := [h.g.toNat], ar := addrA b }
  | .ldx h b => { ur := addrU b, vw := span b.md (b.mc.toNat + 1), pr := [h.g.toNat], ar := addrA b }
  | .stx h b => { ur := addrU b, vr := span b.md (b.mc.toNat + 1), pr := [h.g.toNat], ar := addrA b }
  | .lda h b => { ur := [b.ms.toNat], vw := span b.md (b.mc.toNat + 1), pr := [h.g.toNat] }
  | .sta h b => { ur := [b.ms.toNat], vr := span b.md (b.mc.toNat + 1), pr := [h.g.toNat] }
  | .ldat h b => { ur := addrU b, vw := span b.md (b.mc.toNat + 1), pr := [h.g.toNat], ar := addrA b }
  | .stat h b => { ur := addrU b, vr := span b.md (b.mc.toNat + 1), pr := [h.g.toNat], ar := addrA b }
  | .atom h b => { ur := addrU b, vr := addrV b ++ atomOps b, vw := span b.md (szRegs b), pr := [h.g.toNat], ar := addrA b }
  | .atomNr h b => { ur := addrU b, vr := addrV b ++ atomOps b, pr := [h.g.toNat], ar := addrA b }
  | .atoma h b => { ur := addrU b, vr := [b.mc.toNat], pr := [h.g.toNat] }
  | .ldlod h b => { ur := addrU b, vr := span b.mx 3, vw := span b.md (szRegs b) ++ [b.mc.toNat], pr := [h.g.toNat] }
  | .txg h b => { ur := addrU b, vr := span b.mx 3, vw := span b.md 6 ++ [b.mc.toNat], pr := [h.g.toNat] }
  | .resq h b => { ur := addrU b, vr := span b.mx 3, vw := [b.md.toNat], pr := [h.g.toNat] }
  | .resqFb h b => { ur := addrU b, vr := span b.mx 3, vw := [b.md.toNat], pr := [h.g.toNat] }
  | .prefL1 h b => { ur := addrU b, vr := addrV b, pr := [h.g.toNat], ar := addrA b }
  | .prefL2 h b => { ur := addrU b, vr := addrV b, pr := [h.g.toNat], ar := addrA b }
  | .cpy h b => { ur := pair b.asrc ++ pair b.ad ++ (if h.subIs 0 then [b.al.toNat] else []) ++ (if b.be then pair b.ba else []), uw := if b.se then [b.st.toNat] else [], pr := [h.g.toNat] }
  | .cpyz h b => { ur := pair b.ad ++ (if h.subIs 0 then [b.al.toNat] else []) ++ (if b.be then pair b.ba else []), uw := if b.se then [b.st.toNat] else [], pr := [h.g.toNat] }
  | .cpyr h b => { ur := pair b.asrc ++ pair b.ad ++ [b.al.toNat] ++ (if b.be then pair b.ba else []), uw := if b.se then [b.st.toNat] else [], pr := [h.g.toNat] }
  | .cpyl h b => { ur := (if b.be then pair b.ba else []), vr := span (b.ai.extractLsb' 0 8) 2 ++ [(b.ai.extractLsb' 8 8).toNat, (b.ai.extractLsb' 16 8).toNat], vw := if b.se then [b.st.toNat] else [], pr := [h.g.toNat] }
  | .cpytLd h b => { ur := pair b.ad ++ pair b.ax ++ spanU b.al 6 ++ (if b.be then pair b.ba else []), uw := if b.se then [b.st.toNat] else [], pr := [h.g.toNat] }
  | .cpytSt h b => { ur := pair b.ad ++ pair b.ax ++ spanU b.al 6 ++ (if b.be then pair b.ba else []), uw := if b.se then [b.st.toNat] else [], pr := [h.g.toNat] }
  | .twany h b => { ur := (if h.subIs 0 then pair b.asrc else []), uw := pair b.ad, pr := [h.g.toNat] }
  | .twall h b => { ur := (if h.subIs 0 then pair b.asrc else []), pr := [h.g.toNat] }
  | .tfirst h b => { ur := (if h.subIs 0 then pair b.asrc else []), uw := [b.al.toNat], pr := [h.g.toNat] }
  | .tcnt h b => { uw := [b.al.toNat], pr := [h.g.toNat] }
  | .abinit h b => { ur := pair b.ba ++ (if h.sub.getLsbD 1 then [] else [b.al.toNat]), pr := [h.g.toNat] }
  | .abexp h b => { ur := pair b.ba ++ (if h.sub.getLsbD 1 then [] else [b.al.toNat]), pr := [h.g.toNat] }
  | .abarr h b => { ur := pair b.ba, uw := if b.se then [b.st.toNat] else [], pr := [h.g.toNat] }
  | .abwait h b => { ur := pair b.ba ++ [b.al.toNat], uw := if b.se then [b.st.toNat] else [], pr := [h.g.toNat] }
  | .abtest h b => { ur := pair b.ba ++ [b.al.toNat], uw := if b.se then [b.st.toNat] else [], pr := [h.g.toNat] }
  | .flacqP h b => { ur := pair b.asrc, uw := [b.al.toNat], pr := [h.g.toNat] }
  | .flacqC h b => { ur := pair b.asrc, uw := b.al.toNat :: (if b.se then [b.st.toNat] else []), pr := [h.g.toNat] }
  | .flrelP h b => { ur := pair b.asrc ++ [b.al.toNat] ++ (if b.se then [b.st.toNat] else []), pr := [h.g.toNat] }
  | .flrelC h b => { ur := pair b.asrc ++ [b.al.toNat], pr := [h.g.toNat] }
  | .ban h b => { ur := [b.al.toNat], pr := [h.g.toNat] }
  | .bana h b => { ur := [b.al.toNat], uw := if b.se then [b.st.toNat] else [], pr := [h.g.toNat] }
  | .banw h b => { ur := [b.al.toNat], pr := [h.g.toNat] }
  | .ldwMem h b => { ur := pair b.xsa ++ [b.xsb.toNat, b.xsc.toNat], pr := [h.g.toNat] }
  | .ldwSmp h b => { ur := [b.xsc.toNat], pr := [h.g.toNat] }
  | .ldws h b => { ur := pair b.xsa ++ [b.xsb.toNat], pr := [h.g.toNat] }
  | .trel h _ => { pr := [h.g.toNat] }
  | .mma h b => { ur := pair b.xsa ++ [b.xsb.toNat], pr := [h.g.toNat] }
  | .mmag h b => { ur := pair b.xsa ++ [b.xsb.toNat], pr := [h.g.toNat] }
  | .vxm h b => { vr := span b.xv (vxmRegs b) ++ [(b.xi.extractLsb' 8 8).toNat], vw := span (b.xi.extractLsb' 0 8) (4 * ((b.xi.extractLsb' 19 4).toNat + 1)), pr := [h.g.toNat] }
  | .accz h _ => { pr := [h.g.toNat] }
  | .accld h b => { ur := pair b.xsa, pr := [h.g.toNat] }
  | .accstRaw h b => { ur := pair b.xsa, pr := [h.g.toNat] }
  | .accstPost h b => { ur := pair b.xsa ++ [b.xsb.toNat], pr := [h.g.toNat] }
  | .accrdEl h b => { ur := [b.xsa.toNat], vw := [b.xv.toNat], pr := [h.g.toNat] }
  | .accrdSt h b => { uw := [b.xsa.toNat], pr := [h.g.toNat] }
  | .preopLin h _ => { pr := [h.g.toNat] }
  | .preopTr h _ => { pr := [h.g.toNat] }
  | .preopWin h b => { ur := pair b.xsa, pr := [h.g.toNat] }
  | .postop h b => { ur := pair b.xsa, pr := [h.g.toNat] }
  | .edge h b => { ur := pair b.xsa, pr := [h.g.toNat] }
  | .cvg h b => { vw := [b.xv.toNat], pr := [h.g.toNat] }
  | .blend h b => { ur := pair b.xsa ++ pair b.xsb, pr := [h.g.toNat] }
  | .flt h b => { ur := pair b.xsa ++ [b.xsb.toNat], pr := [h.g.toNat] }
  | .rslvLt h b => { ur := pair b.xsa ++ [b.xsb.toNat], uw := [b.xsc.toNat], pr := [h.g.toNat] }
  | .rslvLe h b => { ur := pair b.xsa ++ [b.xsb.toNat], uw := [b.xsc.toNat], pr := [h.g.toNat] }
  | .rslvRd h b => { ur := pair b.xsa ++ [b.xsb.toNat], uw := [b.xsc.toNat], pr := [h.g.toNat] }
  | .rslvLd h b => { ur := pair b.xsa ++ [b.xsb.toNat], uw := [b.xsc.toNat], pr := [h.g.toNat] }
  | .rslvClr h b => { ur := [b.xsa.toNat, b.xsb.toNat], uw := [b.xsc.toNat], pr := [h.g.toNat] }
  | .binfl h b => { ur := pair b.xsa ++ pair b.xsb ++ [b.xsc.toNat], uw := [b.xsc.toNat], pr := [h.g.toNat] }
  | .spawn h b => { ur := pair b.tsa ++ pair b.tsb, pr := [h.g.toNat] }
  | .spawnLane h b => { ur := pair b.tsb, vr := span b.tv 2, pr := [h.g.toNat] }
  | .spawnc h b => { ur := pair b.tsa ++ pair b.tsb ++ spanU b.tsc (2 * ((b.topt.extractLsb' 0 2).toNat + 1)), pr := [h.g.toNat] }
  | .await h _ => { pr := [h.g.toNat] }
  | .fnew h b => { ur := pair b.tsa, uw := [b.tsb.toNat], pr := [h.g.toNat] }
  | .fres h b => { ur := pair b.tsa ++ (if h.subIs 0 then pair b.tsb else []), pr := [h.g.toNat] }
  | .fflt h b => { ur := pair b.tsa ++ (if h.subIs 0 then pair b.tsb else []), pr := [h.g.toNat] }
  | .fwait h b => { ur := pair b.tsa, uw := pair b.tsb ++ [b.tsc.toNat], pr := [h.g.toNat] }
  | .fpoll h b => { ur := pair b.tsa, uw := pair b.tsb ++ [b.tsc.toNat], pr := [h.g.toNat] }
  | .reorder h b => { vr := [b.tv.toNat, (b.ti.extractLsb' 0 8).toNat], ur := if b.ti.getLsbD 14 then [(b.ti.extractLsb' 8 6).toNat] else [],
                      pr := [h.g.toNat] }
  | .time h b => { uw := pair b.tsa ++ [b.tsb.toNat], pr := [h.g.toNat] }
  | .ctxrd h b => { ur := [b.tsa.toNat], uw := pair b.tsb, pr := [h.g.toNat] }
  | .ctxwr h b => { ur := b.tsa.toNat :: pair b.tsb, pr := [h.g.toNat] }
  | .evpop h b => { ur := pair b.tsa, uw := [b.tsb.toNat], pr := [h.g.toNat] }
  | .evpopWait h b => { ur := pair b.tsa, uw := [b.tsb.toNat], pr := [h.g.toNat] }
  | .tlbinvRange h b => { ur := pair b.tsa ++ [b.tsb.toNat, b.tsc.toNat], pr := [h.g.toNat] }
  | .tlbinvAsid h b => { ur := [b.tsb.toNat], pr := [h.g.toNat] }
  | .tlbinvFn h _ => { pr := [h.g.toNat] }
  | .mapqRange h b => { ur := pair b.tsa ++ [b.tsb.toNat, b.tsc.toNat], pr := [h.g.toNat] }
  | .mapqAsid h b => { ur := [b.tsb.toNat], pr := [h.g.toNat] }
  | .mapqFn h _ => { pr := [h.g.toNat] }
  | .haltcHalt h b => { ur := [b.tsa.toNat], uw := [b.tsb.toNat], pr := [h.g.toNat] }
  | .haltcResume h b => { ur := [b.tsa.toNat], uw := [b.tsb.toNat], pr := [h.g.toNat] }
  | .haltcKill h b => { ur := [b.tsa.toNat], uw := [b.tsb.toNat], pr := [h.g.toNat] }
  | .hint _ => {}
  | .joinRelease _ _ => {}
  | .reorderRendezvous _ _ => {}
  | .registerLineFill _ _ => {}
  | .variableResultWrite _ _ _ => {}
  | .instructionLineFill _ _ _ => {}
  | .pageWalk _ _ _ => {}
  | .tlbinvReceive _ _ => {}
  | .tlbinvDrainAck _ _ => {}
  | .tlbinvComplete _ => {}
  | .mapqNoticeReceive _ _ => {}
  | .mapqComplete _ => {}
  | .l2Registration _ => {}
  | .l2WritebackMerge _ => {}
  | .l2Read _ => {}
  | .l2Atomic _ => {}
  | .l2Reduction _ => {}
  | .atriumBankOperation _ => {}
  | .waitRegistrationOp _ => {}
  | .galleryRegistrationOp _ => {}
  | .futureResolutionOp _ => {}
  | .resolutionNoticeReceive _ _ => {}
  | .wakeQueuePost _ => {}
  | .wakeQueueHead _ => {}
  | .awaitPendingDecrement _ => {}
  | .awaitComplete _ _ => {}
  | .slotBind _ _ _ => {}
  | .copyBeat _ _ => {}
  | .copyLatticeStart _ _ => {}
  | .followOnIssue _ _ => {}
  | .copyComplete _ _ => {}
  | .banisterPhaseRelease _ _ => {}
  | .arrayOpDispatch _ _ => {}
  | .arrayOpRetire _ _ => {}
  | .binnerPrimitive _ _ => {}
  | .feedbackReserve _ => {}
  | .feedbackEntryWrite _ => {}
  | .migrationCommand _ => {}
  | .migrationInvalidationDone _ => {}
  | .porterRecordSelect _ => {}
  | .contextPlacement _ _ => {}
  | .resourceReservation _ _ => {}
  | .groupStart _ _ => {}
  | .saveLineArrival _ _ _ => {}
  | .preemptSaveComplete _ => {}
  | .contextRestore _ _ => {}
  | .crewCompletion _ _ => {}
  | .eventHeldPost _ => {}
  | .handlerLaunchStart _ => {}
  | .haltLineArrival _ _ => {}
  | .haltSettle _ _ => {}
  | .contextHalted _ => {}
  | .managementRegisterWrite _ _ _ _ => {}
  | .fixedLatencyResultWrite _ _ _ => {}
  | .unassignedOpcode _ => {}
  | .astbWrite _ => {}
  | .hotctlWrite _ => {}
  | .mgtlWrite _ _ => {}
  | .dctlReset _ => {}
  | .dctlWithdraw _ => {}
  | .dsrWrite _ _ => {}
  | .vfrzClear _ _ => {}
  | .evhlWrite _ _ _ => {}
  | .hostRingHeadWrite _ _ _ => {}
  | .hcrbTailWrite _ _ => {}
  | .rsownWrite _ _ _ _ => {}
  | .dtrateWrite _ _ => {}
  | .dtoffWrite _ _ => {}
  | .dtoffRead _ => {}
  | .hostBar2Access _ _ _ => {}
  | .peerInboundAccess _ _ _ => {}
  | .linkRetrained _ _ => {}
  | .functionLevelReset _ => {}
  | .powerOn _ => {}
  | .linkAuthentication _ _ => {}
  | .svnFloorRaise => {}
  | .spdmGetVersion _ => {}
  | .spdmGetCapabilities _ => {}
  | .spdmNegotiateAlgorithms _ => {}
  | .spdmGetDigests _ => {}
  | .spdmGetCertificate _ => {}
  | .spdmChallenge _ => {}
  | .spdmGetMeasurements _ => {}
  | .periodicHealthReport _ => {}
  | .correctableSoftError _ => {}
  | .uncorrectableSoftError _ => {}
  | .thermalThrottle _ _ => {}
  | .thermalTrip _ _ => {}
  | .pldmSetPowerCap _ => {}
  | .pldmSetClockCeiling _ => {}
  | .pldmReadTemperature _ => {}
  | .pldmReadPackagePower => {}
  | .clockStepChange _ => {}
  | .shareWindowRestart => {}
  | .preemptBudgetWindow => {}
  | .doorbellWrite _ _ _ => {}
  | .corridorProtocolBreach _ => {}
  | .preempt _ _ => {}
  | .freeFrameTake _ => {}
  | .porterMigrationSelect _ _ => {}
  | .feedbackDrain _ _ => {}
  | .flitAgeLimit _ => {}
  | .nakResend _ => {}
  | .dieResetTimeout _ => {}
  | .dieResetComplete _ => {}
  | .hostCmdTlbinv _ => {}
  | .hostCmdMapq _ => {}
  | .hostCmdHaltcHalt _ => {}
  | .hostCmdHaltcResume _ => {}
  | .hostCmdHaltcKill _ => {}
  | .hostCmdPlace _ => {}
  | .hotlistIntervalEnd => {}
  | .l1ForwardRequest _ _ _ => {}
  | .parkEvictionTimeout _ _ => {}
  | .issuePromotion _ _ _ => {}
  | .yieldExpiry _ _ _ => {}
  | .tileReload _ _ _ => {}
  | .accumulatorEvict _ _ _ => {}
  | .waiterToGallery _ _ _ => {}
  | .groupEvict _ _ => {}
  | .porterFaultService _ _ => {}
  | .copyLateCompletion _ _ => {}
  | .memoryControllerRequest _ _ => {}
  | .faultRecordHeldPost _ => {}
  | .stepHalt _ => {}

end Sys2Proof.Machine
end

