-- ==== Sys2Proof/Machine/Ops.lean ====
section
/-! DEFINITION. The named operations of the machine on its units and registers: access to cores, contexts, frames and
splits; register reads and results (R240 to R243); the next PC and the retirement of lanes (R219, R227, R168); taking an
exception, which is one shared operation (R389 to R394), and the return from it beside it (R363, R396). -/

namespace Sys2Proof.Machine

/-! ## Units -/

def Core.empty : Core :=
  { slots := [], deque := [], spilled := [], ready := [], waits := [], tlb1 := [], tlb2 := [], walks := [], asids := [], misses := [],
    l1 := [], tex := [], icache := [], alcove := [], ce := [], ceSeq := 0, arr := [], arrSeq := 0, filter := [],
    fbUnreach := 0, frSeq := 0, held := [], regLines := [], accsIn := [], tilesIn := [], frozen := false, racing := [] }

def State.core (s : State) (n : Nat) : Core := (lookup s.cores n).getD Core.empty

def State.setCore (s : State) (n : Nat) (c : Core) : State := { s with cores := insert s.cores n c }

def State.modCore (s : State) (n : Nat) (f : Core → Core) : State := s.setCore n (f (s.core n))

/-- A completion edge covers writes of the engines: their words are read as they stand from now on (R115, R117). -/
def Core.seen (c : Core) (p : Raced → Bool) : Core :=
  let words := (c.racing.filter p).map (·.word)
  { c with racing := c.racing.filter fun x => !words.contains x.word }

/-- The writes that race a read of `n` bytes of the Alcove at `a`. -/
def Core.raced (c : Core) (cid crew a n : Nat) : List Raced :=
  c.racing.filter fun x => x.cid == cid && x.crew == crew && a < 4 * x.word + 4 && 4 * x.word < a + n

def State.ctx (s : State) (cid : Nat) : Option Ctx := lookup s.ctxs cid

def State.setCtx (s : State) (cid : Nat) (c : Ctx) : State := { s with ctxs := insert s.ctxs cid c }

def State.modCtx (s : State) (cid : Nat) (f : Ctx → Ctx) : State :=
  match s.ctx cid with
  | none => s
  | some c => s.setCtx cid (f c)

def State.frame (s : State) (cid h : Nat) : Option Frame :=
  match s.ctx cid with
  | none => none
  | some c => lookup c.frames h

def State.modFrame (s : State) (cid h : Nat) (f : Frame → Frame) : State :=
  s.modCtx cid fun c =>
    match lookup c.frames h with
    | none => c
    | some fr => { c with frames := insert c.frames h (f fr) }

def State.modGroup (s : State) (cid h : Nat) (f : Group → Group) : State :=
  s.modFrame cid h fun fr => { fr with group := f fr.group }

def Group.split (g : Group) (k : Nat) : Option Split := (g.splits[k]?).join

def Group.setSplit (g : Group) (k : Nat) (sp : Option Split) : Group :=
  { g with splits := g.splits.setIfInBounds k sp }

def Group.modSplit (g : Group) (k : Nat) (f : Split → Split) : Group :=
  match g.split k with
  | none => g
  | some sp => g.setSplit k (some (f sp))

def State.modSplit (s : State) (cid h k : Nat) (f : Split → Split) : State :=
  s.modGroup cid h fun g => g.modSplit k f

def getNth {α : Type} (l : List α) (i : Nat) : Option α := l[i]?

/-- The list with element `i` changed. -/
def modNth {α : Type} (l : List α) (i : Nat) (f : α → α) : List α :=
  match l, i with
  | [], _ => []
  | x :: l, 0 => f x :: l
  | x :: l, i + 1 => x :: modNth l i f

/-- The list with at most `n` of the elements that satisfy p: the first of them. -/
def capWays {α : Type} (p : α → Bool) : Nat → List α → List α
  | _, [] => []
  | 0, x :: l => if p x then capWays p 0 l else x :: capWays p 0 l
  | n + 1, x :: l => if p x then x :: capWays p n l else x :: capWays p (n + 1) l

def Ctx.crew (c : Ctx) (n : Nat) : Option Crew := getNth c.crews n

def Ctx.modCrew (c : Ctx) (n : Nat) (f : Crew → Crew) : Ctx := { c with crews := modNth c.crews n f }

def State.modCrew (s : State) (cid n : Nat) (f : Crew → Crew) : State := s.modCtx cid fun c => c.modCrew n f

def Group.mapSplits (g : Group) (f : Split → Split) : Group := { g with splits := mapEach g.splits fun o => o.map f }

/-- A context with the groups changed of the frames whose last binding was on a core. -/
def Ctx.mapResident (c : Ctx) (core : Nat) (f : Group → Group) : Ctx :=
  let one (y : Frame) : Frame := if y.core == core then { y with group := f y.group } else y
  { c with frames := c.frames.map fun y => (y.1, one y.2) }

/-- Change every split of the groups bound on a core whose bind record satisfies p. -/
def State.mapSplits (s : State) (core : Nat) (p : Bind → Bool) (f : Split → Split) : State :=
  (s.core core).slots.foldl (fun s b =>
    match b.2.frame with
    | none => s
    | some h => if p b.2 then s.modGroup b.2.cid h fun g => { g with splits := mapEach g.splits fun o => o.map f } else s) s

/-- Splits of a core whose wait satisfies p try again. -/
def State.wake (s : State) (core : Nat) (p : Wait → Bool) : State :=
  s.mapSplits core (fun _ => true) fun sp => if p sp.wait then { sp with asleep := false } else sp

/-- The same on every core that has a group. -/
def State.wakeAll (s : State) (p : Wait → Bool) : State := s.cores.foldl (fun s c => s.wake c.1 p) s

/-- Make an event due: it happens after those already due. -/
def State.push (s : State) (i : Instr) : State := { s with todo := s.todo ++ [i] }

def State.pushAll (s : State) (l : List Instr) : State := { s with todo := s.todo ++ l }

/-- Draw a free value: the index a constant of Config is applied to. -/
def State.draw (s : State) : Nat × State := (s.freeCtr, { s with freeCtr := s.freeCtr + 1 })

/-! ## Cores, rectangles and dies (R2, R3, R42, R177) -/

def coreOf (x y : Nat) : Nat := x + 32 * y
def coreX (n : Nat) : Nat := n % 32
def coreY (n : Nat) : Nat := n / 32

/-- The Hall of a core: A for x below 16. -/
def hallOf (n : Nat) : Nat := if coreX n < 16 then 0 else 1

def Rect.cores (r : Rect) : List Nat :=
  (List.range (r.w * r.h)).map fun i => coreOf (r.x + i % r.w) (r.y + i / r.w)

def Rect.has (r : Rect) (n : Nat) : Bool :=
  r.x ≤ coreX n && coreX n < r.x + r.w && r.y ≤ coreY n && coreY n < r.y + r.h

/-- The crew number of a core: its index in row-major order over the rectangle (R176). -/
def Rect.index (r : Rect) (n : Nat) : Nat := (coreX n - r.x) + r.w * (coreY n - r.y)

/-- sr.rect (R177). -/
def Rect.word (r : Rect) : W32 := BitVec.ofNat 32 (r.x + 32 * r.y + 512 * (r.w % 32) + 32768 * r.h)

def allCores : List Nat := List.range 384

/-! ## Time (R432, R447): units of 1 / (47 × 232,792,560) ns -/

def unitsPerNs : Nat := 47 * 232792560

/-- The units of one ac at clock step k, of 47 k MHz. -/
def unitsPerAc (k : Nat) : Nat := 1000 * 232792560 / k

/-- Let `n` ac pass. -/
def State.tick (s : State) (n : Nat) : State := { s with ac := s.ac + n, time := s.time + n * unitsPerAc s.step }

/-- The counter of a die: nanoseconds since it started (R432). -/
def State.counter (s : State) (die : Nat) : W64 :=
  match s.dies[die]? with
  | some d => BitVec.ofNat 64 ((s.time - d.start) / unitsPerNs)
  | none => 0

/-! ## Canonical addresses and program counters (R12, R219) -/

/-- Bits 63 to 57 equal bit 56. -/
def canonical (va : W64) : Bool :=
  let top := (va.extractLsb' 56 8).toNat
  top == 0 || top == 255

def upperHalf (va : W64) : Bool := va.getLsbD 63

def lineOf (pc : W64) : W64 := (pc >>> 6) <<< 6

def slotOf (pc : W64) : Nat := pc.toNat % 8

/-- The sequential successor (R219). -/
def nextPc (pc : W64) : W64 := if slotOf pc < 4 then pc + 1 else lineOf pc + 64

/-- Bits 5-3 zero and a slot of 0 to 4. -/
def pcFormed (pc : W64) : Bool := pc.toNat % 64 < 5

/-! ## Registers -/

def VReg.zero : VReg := ⟨0, Vector.replicate 32 0⟩

def Group.vreg (g : Group) (r : Nat) : VReg := (lookup g.v r).getD VReg.zero

def Group.pred (g : Group) (p : Nat) : Mask := if p == 7 then BitVec.allOnes 32 else (g.p[p]?).getD 0

def Split.ureg (sp : Split) (r : Nat) : W32 := (sp.u[r]?).getD 0

/-- A pair s(r+1):s(r) (R228). -/
def Split.upair (sp : Split) (r : Nat) : W64 := sp.ureg (r + 1) ++ sp.ureg r

def lane (v : Lanes) (l : Nat) : W32 := (v[l]?).getD 0

/-- The lanes of a mask, ascending. -/
def lanesOf (m : Mask) : List Nat := (List.range 32).filter m.getLsbD

def maskOf (l : List Nat) : Mask := l.foldl (fun m i => m ||| BitVec.twoPow 32 i) 0

def maskBy (f : Nat → Bool) : Mask := BitVec.ofFnLE fun (i : Fin 32) => f i.val

def lanesBy (f : Nat → W32) : Lanes := Vector.ofFn fun i => f i.val

/-- The lanes of `new` where the mask is set, else those of `old`. -/
def mergeLanes (m : Mask) (new old : Lanes) : Lanes := lanesBy fun l => if m.getLsbD l then lane new l else lane old l

/-- One register write performed (R206, R240, R275). -/
def Group.write (g : Group) (k : Nat) (w : RegWrite) : Group :=
  match w with
  | .vec r m val tag => { g with v := insert g.v r ⟨tag, mergeLanes m val (g.vreg r).lanes⟩ }
  | .tag r tag => { g with v := insert g.v r ⟨tag, (g.vreg r).lanes⟩ }
  | .uni r val => g.modSplit k fun sp => { sp with u := sp.u.setIfInBounds r val }
  | .pred p m val => if p == 7 then g else { g with p := g.p.setIfInBounds p ((g.pred p &&& ~~~m) ||| (val &&& m)) }
  | .anchor b val => g.modSplit k fun sp => { sp with anchors := sp.anchors.setIfInBounds b val }

def Group.writes (g : Group) (k : Nat) (l : List RegWrite) : Group := l.foldl (fun g w => g.write k w) g

/-- The register a write names. -/
def RegWrite.sameReg : RegWrite → RegWrite → Bool
  | .vec r _ _ _, .vec r' _ _ _ => r == r'
  | .vec r _ _ _, .tag r' _ => r == r'
  | .tag r _, .vec r' _ _ _ => r == r'
  | .tag r _, .tag r' _ => r == r'
  | .uni r _, .uni r' _ => r == r'
  | .pred p _ _, .pred p' _ _ => p == p'
  | .anchor b _, .anchor b' _ => b == b'
  | _, _ => false

/-- Lanes added to a write of their register, which keeps the tag it has: that of a later write where one has been made (R206). -/
def RegWrite.join : RegWrite → RegWrite → RegWrite
  | .vec r m v t, .vec _ m' v' _ => .vec r (m ||| m') (mergeLanes m' v' v) t
  | _, w => w

/-- A write that has received nothing yet: it holds its register's place among the results (R206). -/
def RegWrite.isEmpty : RegWrite → Bool
  | .vec _ m _ _ => m == 0
  | _ => false

def RegWrite.empty : RegWrite → RegWrite
  | .vec r _ _ t => .vec r 0 (Vector.replicate 32 0) t
  | w => w

/-- Writes added to those of a result. -/
def addWrites (l ws : List RegWrite) : List RegWrite :=
  ws.foldl (fun l w => if l.any w.sameReg then l.map fun x => if w.sameReg x then x.join w else x else l ++ [w]) l

/-- The tag that writes leave in a vector register. -/
def tagLeft (l : List RegWrite) (r : Nat) : Option (BitVec 4) :=
  l.findSome? fun w => match w with
    | .vec k _ _ t | .tag k t => if k == r then some t else none
    | _ => none

/-- An earlier write that is still to come leaves the tag of the later one that has been made (R206). -/
def RegWrite.under (later : List RegWrite) (w : RegWrite) : RegWrite :=
  match w with
  | .vec r m v t => .vec r m v ((tagLeft later r).getD t)
  | .tag r t => .tag r ((tagLeft later r).getD t)
  | w => w

def Result.under (later : List RegWrite) (r : Result) : Result := { r with writes := r.writes.map (·.under later) }

def Owed.under (later : Result) (o : Owed) : Owed :=
  if o.isVec && o.id ≤ later.id then { o with tag := tagLeft later.writes o.reg <|> o.tag } else o

/-- R242: a write waits for an earlier write of the same register by the same split. -/
def Result.blockedBy (r : Result) (earlier : List Result) : Bool :=
  earlier.any fun q => q.split == r.split && q.writes.any fun w => r.writes.any w.sameReg

/-- Write the results that `now` selects, in issue order, where none earlier holds them back (R241, R242). A register written by several
splits carries the tag of the last write in issue order, whichever is made last (R206). -/
def commit (now : Result → Bool) : List Result → List Result → Group → Group
  | [], kept, g => { g with results := kept }
  | r :: l, kept, g =>
    if now r && !r.blockedBy kept then
      commit now l (kept.map (·.under r.writes)) { g.writes r.split r.writes with owed := g.owed.map (·.under r) }
    else commit now l (kept ++ [r]) g

/-- Write every result due at an ac. -/
def Group.commitDue (g : Group) (ac : Nat) : Group :=
  commit (fun r => match r.due with | some d => d ≤ ac | none => false) g.results [] g

/-- The results without the writes that have received nothing. -/
def Group.dropEmpty (g : Group) (p : Result → Bool) : Group :=
  { g with results := (g.results.map fun (r : Result) => if p r then { r with writes := r.writes.filter (!·.isEmpty) } else r).filter fun r =>
      !(p r && r.writes.isEmpty) }

/-- Write every result whose value is known, as a halt does (R391 step 4). -/
def Group.commitAll (g : Group) : Group :=
  let g := g.dropEmpty (·.opened)
  commit (fun r => r.due.isSome || !r.fixed) g.results [] g

/-! ## The ASID table entry that a core goes by (R17, R18) -/

def asidVf (e : W64) : Nat := (e.extractLsb' 1 6).toNat
def asidSup (e : W64) : Bool := e.getLsbD 7

/-- The owning function and the supervisor right of a context, as a core sees them: by the entry its translation unit has
cached, so that a change takes effect after an invalidation of the ASID (R18); by what the launch read where the core has
cached none (assumption 82). -/
def State.ctxVf (s : State) (core : Nat) (c : Ctx) : Nat :=
  match lookup (s.core core).asids c.asid with
  | some e => asidVf e
  | none => c.vf

def State.ctxSup (s : State) (core : Nat) (c : Ctx) : Bool :=
  match lookup (s.core core).asids c.asid with
  | some e => asidSup e
  | none => c.sup

/-! ## The issuing split -/

/-- The split an instruction issues from, with what it belongs to. -/
structure Env where
  s : State
  f : Focus
  bind : Bind
  cid : Nat
  h : Nat
  ctx : Ctx
  fr : Frame
  sp : Split

/-- The frame and the split as the instruction under way reads them: its operands are those of its issue (R240). -/
def Operands.over (q : Operands) (fr : Frame) (sp : Split) : Frame × Split :=
  ({ fr with group := { fr.group with v := q.v.foldl (fun v x => insert v x.1 x.2) fr.group.v, p := q.p } }, { sp with u := q.u })

/-- The split at the focus, where there is one. -/
def Env.of (s : State) (f : Focus) : Option Env :=
  match lookup (s.core f.core).slots f.slot with
  | none => none
  | some b =>
    match b.frame, s.ctx b.cid with
    | some h, some c =>
      match lookup c.frames h with
      | none => none
      | some fr =>
        match fr.group.split f.split with
        | none => none
        | some sp => match sp.read with
          | none => some ⟨s, f, b, b.cid, h, c, fr, sp⟩
          | some q => some ⟨s, f, b, b.cid, h, c, (q.over fr sp).1, (q.over fr sp).2⟩
    | _, _ => none

namespace Env

def group (e : Env) : Group := e.fr.group
def vf (e : Env) : Nat := e.s.ctxVf e.f.core e.ctx
def sup (e : Env) : Bool := e.s.ctxSup e.f.core e.ctx
def u (e : Env) (r : BitVec 6) : W32 := e.sp.ureg r.toNat
def u64 (e : Env) (r : BitVec 6) : W64 := e.sp.upair r.toNat
def v (e : Env) (r : BitVec 8) : VReg := e.group.vreg r.toNat
def vl (e : Env) (r : BitVec 8) (l : Nat) : W32 := lane (e.group.vreg r.toNat).lanes l
def p (e : Env) (r : BitVec 3) : Mask := e.group.pred r.toNat

/-- The guarded set g (R226). -/
def g (e : Env) (h : Hdr) : Mask :=
  let q := e.p h.g
  e.sp.mask &&& (if h.gn then ~~~q else q)

/-- The crew whose Alcove and tags the group uses (R184). -/
def crew (e : Env) : Option Crew := e.ctx.crew e.bind.crew

def modSplit (e : Env) (s : State) (f : Split → Split) : State := s.modSplit e.cid e.h e.f.split f
def modGroup (e : Env) (s : State) (f : Group → Group) : State := s.modGroup e.cid e.h f
def modFrame (e : Env) (s : State) (f : Frame → Frame) : State := s.modFrame e.cid e.h f
def modCrew (e : Env) (s : State) (f : Crew → Crew) : State := s.modCrew e.cid e.bind.crew f
def modCore (e : Env) (s : State) (f : Core → Core) : State := s.modCore e.f.core f

/-- An edge event of the split: it ends a HINT #3 (R88, R368). -/
def edge (e : Env) (s : State) : State := e.modSplit s fun sp => { sp with streaming := false }

/-- A result of latency L from this issue (R241). -/
def fixed (e : Env) (l : Nat) (ws : List RegWrite) (s : State) : State :=
  e.modGroup s fun g =>
    { g with nextId := g.nextId + 1, results := g.results ++ [⟨g.nextId, e.f.split, true, some (s.ac + l), ws, false⟩] }

/-- What an instruction that is still being performed has received: its result is written as a whole (R240). -/
def gather (e : Env) (ws : List RegWrite) (s : State) : State :=
  e.modGroup s fun g =>
    if g.results.any fun r => r.opened && r.split == e.f.split then
      { g with results := g.results.map fun (r : Result) => if r.opened && r.split == e.f.split then { r with writes := addWrites r.writes ws } else r }
    else { g with nextId := g.nextId + 1, results := g.results ++ [⟨g.nextId, e.f.split, false, none, ws, true⟩] }

/-- A variable-latency result that has not arrived yet (R243). -/
def owe (e : Env) (ws : List RegWrite) (s : State) : State :=
  e.modGroup s fun g =>
    { g with nextId := g.nextId + 1, results := g.results ++ [⟨g.nextId, e.f.split, false, none, ws, false⟩] }

/-- The instruction has ended or parks: what it has received becomes written by VARIABLE_RESULT_WRITE. -/
def arrived (e : Env) (s : State) : State :=
  let s := e.modGroup s fun g => g.dropEmpty fun r => r.opened && r.split == e.f.split
  match s.frame e.cid e.h with
  | none => s
  | some fr =>
    (e.modGroup s fun g => { g with results := g.results.map fun (r : Result) => if r.split == e.f.split then { r with opened := false } else r }).pushAll
      ((fr.group.results.filter fun r => r.split == e.f.split && r.opened).map fun r => .variableResultWrite e.f.core e.f.slot r.id)

/-- A variable-latency result (R243): it becomes written by VARIABLE_RESULT_WRITE. -/
def later (e : Env) (ws : List RegWrite) (s : State) : State :=
  match s.frame e.cid e.h with
  | none => s
  | some fr => (e.owe ws s).push (.variableResultWrite e.f.core e.f.slot fr.group.nextId)

end Env

/-- A uniform result of one register or a pair. -/
def uniW (wide : Bool) (r : BitVec 6) (x : W64) : List RegWrite :=
  if wide then [.uni r.toNat (x.extractLsb' 0 32), .uni (r.toNat + 1) (x.extractLsb' 32 32)]
  else [.uni r.toNat (x.extractLsb' 0 32)]

/-! ## Results of a meaning -/

/-- What one instruction did. -/
inductive Perf where
  | ok (s : State)                   -- performed: NX says where its lanes go (R227)
  | moved (s : State)                -- performed, with its lanes already moved
  | stay (s : State)                 -- held or waiting at its PC
  | trap (t : TrapInfo) (s : State)  -- a program fault, taken precisely

def faultOf (c : FaultCode) : TrapInfo := { code := c }

def Perf.bad (c : FaultCode) (s : State) : Perf := .trap (faultOf c) s

/-! ## Taking an exception (R389 to R394) -/

/-- The split a halt record of the raise belongs to keeps the fault for its stop record; the halt line of the context is
raised unless it is up already (R391, R392). `seq` is the issue sequence of an engine's work. -/
def State.raiseHalt (s : State) (cid : Nat) (code : FaultCode) (seq : Nat) : State :=
  match s.ctx cid with
  | none => s
  | some c =>
    match c.st with
    | .running | .placing =>
      (s.setCtx cid { c with st := .halting, settled := false, first := some code, firstSeq := seq, stepping := false,
                             arrived := [], settledAt := [] }).pushAll
        (c.rect.cores.map fun n => .haltLineArrival cid n)
    | .restoring => s.setCtx cid { c with heldRaise := some (c.heldRaise.getD (code, seq)) }
    | .saving | .saved =>
      if c.first.isSome then s.setCtx cid { c with saveStop := true }
      else s.setCtx cid { c with first := some code, firstSeq := seq, saveStop := true }
    | _ => s

/-- Whether a raise now would be the first cause; one during a restore will be, unless the restore ends in STATE 3. -/
def Ctx.raises (c : Ctx) : Bool :=
  match c.st with
  | .running | .placing => true
  | .restoring => c.heldRaise.isNone && !c.saveStop
  | .saving | .saved => c.first.isNone
  | _ => false

/-- TAKING AN EXCEPTION: a program fault met by a split. The fault is kept for the split's stop record, whose PC is the
split's own (R394), and the context's halt line is raised (R390, R391). The handler is not a change of PC on this
machine: the context stops, and a supervisor reads the record (R396). -/
def Env.take (e : Env) (t : TrapInfo) (s : State) : State :=
  (e.modSplit s fun sp => { sp with stop := some t, raiser := e.ctx.raises }).raiseHalt e.cid t.code 0

/-- sr.trapinfo (R395). -/
def TrapInfo.word (t : TrapInfo) (split : Nat) (code : Byte) : W32 :=
  BitVec.ofNat 32 (code.toNat + 256 * t.subc.toNat + 65536 * t.info.toNat + 268435456 * split +
    1073741824 * t.precise.toNat + 2147483648)

/-- The code of R389. -/
def FaultCode.byte : FaultCode → Byte
  | .notPresent => 0x01 | .permRead => 0x02 | .permWrite => 0x03 | .permExec => 0x04 | .nonCanonical => 0x05
  | .aperture => 0x06 | .alcoveRange => 0x07 | .pteMalformed => 0x08 | .withdrawn => 0x09 | .anchorEmpty => 0x0A
  | .misaligned => 0x0B | .vfViolation => 0x0C | .illegalOpcode => 0x10 | .formatMismatch => 0x11 | .badTarget => 0x12
  | .fetchParity => 0x13 | .divergenceDepth => 0x14 | .reorderDiverged => 0x15 | .doubleResolve => 0x16
  | .barrierOverrun => 0x17 | .copyFault => 0x18 | .arrayFault => 0x19 | .lodDescriptor => 0x1A | .bkpt => 0x1B
  | .trap => 0x1C | .haltRequest => 0x20 | .step => 0x21 | .masterFrozen => 0x22

/-- A replayable fault (R30). -/
def FaultCode.replayable : FaultCode → Bool
  | .notPresent | .permRead | .permWrite | .permExec => true
  | _ => false

/-- THE RETURN FROM AN EXCEPTION, of one split: at HALTC.resume the split goes on at its stop record's PC, which the
handler may have written; sr.trapinfo takes the record (R394 to R396). A split parked and not woken stays parked. -/
def Split.resume (k : Nat) (pc : W64) (sp : Split) : Split :=
  let info := match sp.stop with
    | some t => t.word k t.code.byte
    | none => sp.trapinfo
  { sp with pc := pc, trapinfo := info, stop := none, raiser := false, stepped := false, barred := false, asleep := false, sbit := true,
            badPages := [], read := none }

/-! ## Where the lanes go next (R168, R172, R227) -/

/-- The lowest free split number. -/
def Group.freeSplit (g : Group) : Option Nat := (List.range 4).find? fun k => (g.split k).isNone

def Group.freeSplits (g : Group) : Nat := ((List.range 4).filter fun k => (g.split k).isNone).length

/-- The live lanes: those of the splits and of the stack (R168, R171). -/
def Group.live (g : Group) : Mask :=
  (g.stack.map (·.mask) ++ (List.range 4).filterMap fun k => (g.split k).map (·.mask)).foldl (· ||| ·) 0

/-- The numbers of a group's register lines (R169): a split's uniform lines, the tag line, the control line. -/
def Group.uniPer (g : Group) : Nat := (g.uregs + 31) / 32
def Group.uniLine (g : Group) (split r : Nat) : Nat := g.vregs + g.uniPer * split + r / 32
def Group.tagLine (g : Group) : Nat := g.vregs + 4 * g.uniPer
def Group.ctlLine (g : Group) : Nat := g.tagLine + 1

/-- A new split in a free number: the uniform lines that an earlier split of that number had at home are none of its. -/
def Group.addSplit (g : Group) (k : Nat) (sp : Split) : Group :=
  { g.setSplit k (some sp) with away := g.away.filter fun i => !(g.uniLine k 0 ≤ i && i < g.uniLine (k + 1) 0) }

def Split.goto (pc : W64) (sp : Split) : Split :=
  { sp with pc := pc, wait := .none, asleep := false, unfinished := none, badPages := [], read := none, issued := none }

/-- A non-sequential arrival acts as an S bit on the instruction reached (R245). -/
def Split.arrive (pc : W64) (sp : Split) : Split := { sp.goto pc with sbit := true }

/-- The stack entry of a push (R173). -/
def Split.entry (sp : Split) (pc : W64) (m : Mask) : StackEntry :=
  { pc := pc, mask := m, u := sp.u,
    emask := BitVec.ofFnLE fun (i : Fin 8) => (sp.anchors[i.val]).st == .empty,
    vb := Vector.ofFn fun i => (sp.anchors[i.val]).vbase }

/-- R172 for one taken set: a new split with the lowest free number, or a push and the split goes on with the set.
`k` keeps the not-taken set at `pc`. -/
def Group.divergeTo (g : Group) (k : Nat) (t : Mask) (target : W64) : Group :=
  match g.split k with
  | none => g
  | some sp =>
    match g.freeSplit with
    | some n => g.addSplit n { sp.arrive target with mask := t }
    | none => { g.setSplit k (some { sp.arrive target with mask := t }) with stack := sp.entry sp.pc sp.mask :: g.stack }

/-- The taken set T of a split goes to the target, the rest to the next slot (R172, R227). -/
def Group.branch (g : Group) (k : Nat) (t : Mask) (target : W64) : Group :=
  match g.split k with
  | none => g
  | some sp =>
    if t == 0 then g.setSplit k (some (sp.goto (nextPc sp.pc)))
    else if sp.mask &&& ~~~t == 0 then g.setSplit k (some (sp.arrive target))
    else (g.setSplit k (some { sp.arrive (nextPc sp.pc) with mask := sp.mask &&& ~~~t })).divergeTo k t target

/-- A split has ended: nothing is owed to its own registers any more. -/
def Group.forget (g : Group) (k : Nat) : Group :=
  { g with
    results := g.results.map fun r => if r.split == k then
        { r with writes := r.writes.filter fun w => match w with
            | .uni _ _ | .anchor _ _ => false
            | _ => true }
      else r,
    owed := g.owed.filter fun o => o.isVec || o.split != k,
    statusSigs := g.statusSigs.filter fun o => o.isVec || o.split != k }

/-- The lanes of the set retire (R168). A split whose mask is empty ends. -/
def Group.retire (g : Group) (k : Nat) (m : Mask) : Group :=
  match g.split k with
  | none => g
  | some sp =>
    let rest := sp.mask &&& ~~~m
    if rest == 0 then (g.setSplit k none).forget k else g.setSplit k (some { sp with mask := rest })

/-- A split of the group waits at a JOIN, or a stack entry can become a split (R174). -/
def Group.joining (g : Group) : Bool := (!g.stack.isEmpty && g.freeSplit.isSome) || (List.range 4).any fun k => match g.split k with
  | some sp => sp.wait == .join
  | none => false

/-- Splits that wait at a JOIN may go on, or a stack entry be popped (R174, R270). -/
def State.rejoin (s : State) (cid h core slot : Nat) : State :=
  match s.frame cid h with
  | some fr => if fr.group.joining then s.push (.joinRelease core slot) else s
  | none => s

/-- The lanes of a set retire; a group with no live lane has executed EXIT, and begins to complete (R168, R270). -/
def Env.retire (e : Env) (m : Mask) (s : State) : State :=
  let s := e.modFrame s fun fr => { fr with mask := fr.mask &&& ~~~m, group := fr.group.retire e.f.split m }
  match s.frame e.cid e.h with
  | none => s
  | some fr =>
    if fr.group.live == 0 && fr.group.stack.isEmpty && fr.group.exit == .live then
      (e.modGroup s fun g => { g with exit := .awaiting }).push (.awaitComplete e.f.core e.f.slot)
    else s.rejoin e.cid e.h e.f.core e.f.slot

/-- The split after one issued instruction: PC advanced by `n` slots. -/
def Split.advance (n : Nat) (sp : Split) : Split :=
  { sp.goto (n.repeat nextPc sp.pc) with sbit := false, stepped := true }

/-- NX 00, 10 and 11 after an instruction was performed (R227). -/
def Env.next (e : Env) (h : Hdr) (n : Nat) (s : State) : State :=
  let g := e.g h
  let s := e.modSplit s (Split.advance n)
  if h.nx == 2#2 && g != 0 then e.retire g s else s

/-! ## The checks at issue (R238) -/

/-- R179: what a group of each role may issue, by opcode range. -/
def Role.allows (r : Role) (i : Instr) : Bool :=
  match r, encode i with
  | .general, _ => true
  | _, none => true
  | r, some w =>
    let opc := (w.extractLsb' 88 8).toNat
    if opc < 0x30 || 0xD0 ≤ opc then true
    else if opc < 0x90 then r == .vector
    else if opc < 0x99 then r == .copy
    else if opc < 0xB0 then true
    else r == .matrix

/-- The privileged forms of R350. -/
def privileged : Instr → Bool
  | .ctxrd _ _ | .ctxwr _ _ | .evpop _ _ | .evpopWait _ _ | .tlbinvRange _ _ | .tlbinvAsid _ _ | .tlbinvFn _ _
  | .mapqRange _ _ | .mapqAsid _ _ | .mapqFn _ _ | .haltcHalt _ _ | .haltcResume _ _ | .haltcKill _ _ => true
  | _ => false

/-- Every register an instruction names lies below VREGS and UREGS (R169). -/
def Env.inRange (e : Env) (i : Instr) : Bool :=
  let r := regUse i
  (r.ur ++ r.uw).all (· < e.group.uregs) && (r.vr ++ r.vw).all (· < e.group.vregs)

/-- Step 2 of R238: the instruction is legal for this group. -/
def Env.legal (e : Env) (i : Instr) : Bool :=
  i.wellFormed && e.inRange i && e.group.role.allows i && (e.sup || !privileged i)

/-- The typed operands of R204: registers with the suffix that must accept their tag. -/
def Env.tagsOk (e : Env) (l : List (Nat × (BitVec 4 → Bool))) : Bool :=
  l.all fun (r, ok) => ok (e.group.vreg r).tag

def anyTag (t : BitVec 4) : Bool := t != 15#4

/-- The slots an instruction takes: a copy with a follow-on takes the next slot with it (R149). -/
def slotsOf : Instr → Nat
  | .cpy _ b => if b.fo then 2 else 1
  | .cpytLd _ b => if b.fo then 2 else 1
  | _ => 1

/-- An instruction issues: the checks of R238 steps 2 and 3 in order, then what it does, then where its lanes go. An instruction
that was under way already has passed the check of its tags. With no split at the focus nothing issues. -/
def issueAny (i : Instr) (h : Hdr) (tags : Env → Bool) (body : Env → Perf) (s : State) :
    Host.Outcome State Fault Refusal :=
  .next (match Env.of s s.focus with
    | none => s
    | some e =>
      if !e.legal i then e.take (faultOf .illegalOpcode) s
      else if e.sp.wait != .access && !tags e then e.take (faultOf .formatMismatch) s
      else
        match body e with
        | .ok s' => e.next h (slotsOf i) s'
        | .moved s' => s'
        | .stay s' => s'
        | .trap t s' => e.take t s')

/-- The same for an instruction that performs nothing when its guarded set is empty (R226). -/
def issueWith (i : Instr) (h : Hdr) (tags : Env → Bool) (body : Env → Perf) : State → Host.Outcome State Fault Refusal :=
  issueAny i h tags fun e => if e.g h == 0 then .ok e.s else body e

def noTags (_ : Env) : Bool := true

end Sys2Proof.Machine
end

