-- ==== Sys2Proof/Machine/Home.lean ====
section
/-! DEFINITION. Memory behind the cores: the physical map and the functions' windows (R42, R435), lines and homes (R43,
R54, R55), the slice ALU (R56), ownership and forwarding (R50, R54, R103), write signatures (R98) and the core's L1
(R48 to R51). -/

namespace Sys2Proof.Machine

/-! ## The physical map -/

def gib : Nat := 1073741824

/-- The register of a die, and the die of an Annex or a Hall (R361). -/
def State.die (s : State) (i : Nat) : Die := (s.dies[i]?).getD (Die.reset 0)

/-- The region an address lies in: 0 and 1 the near tier of Hall A and Hall B, 2 and 3 the far tier and CXL of Annex N
and Annex S; none outside the populated regions and in the reserved metadata ranges (R42). -/
def State.region (s : State) (pa : Nat) : Option Nat :=
  if pa < 0x5FE8000000 then some 0
  else if 0x8000000000 ≤ pa && pa < 0xDFE8000000 then some 1
  else if 0x10000000000 ≤ pa && pa < 0x10000000000 + gib * (s.die 2).far.toNat then some 2
  else if 0x18000000000 ≤ pa && pa < 0x18000000000 + gib * (s.die 3).far.toNat then some 3
  else if 0x400000000000 ≤ pa && pa < 0x400000000000 + gib * (s.die 2).cxl0.toNat then some 2
  else if 0x440000000000 ≤ pa && pa < 0x440000000000 + gib * (s.die 2).cxl1.toNat then some 2
  else if 0x480000000000 ≤ pa && pa < 0x480000000000 + gib * (s.die 3).cxl0.toNat then some 3
  else if 0x4C0000000000 ≤ pa && pa < 0x4C0000000000 + gib * (s.die 3).cxl1.toNat then some 3
  else none

/-- The dies of a unit: a Hall with its Undercroft, or an Annex (R427, R439). -/
def dieOfRegion (r : Nat) : Nat := r

/-- Whether an address lies in a withdrawn range (R439). -/
def State.withdrawnAt (s : State) (pa : Nat) : Bool :=
  match s.region pa with
  | some r => (s.die (dieOfRegion r)).st == .withdrawn
  | none => false

/-- A function's register block. -/
def State.fn (s : State) (vf : Nat) : Fn := (s.fns[vf]?).getD Fn.reset

def State.modFn (s : State) (vf : Nat) (f : Fn → Fn) : State := { s with fns := s.fns.setIfInBounds vf (f (s.fn vf)) }

/-- Base and length in bytes of a VFW, where it is valid (R435). -/
def vfwRange (w : W64) : Option (Nat × Nat) :=
  if w.getLsbD 0 then some ((w.extractLsb' 21 31).toNat * 2097152, (w.extractLsb' 1 20).toNat * 2097152) else none

/-- Whether a physical address lies in a function's windows (R435). -/
def State.inWindow (s : State) (vf pa : Nat) : Bool :=
  (s.region pa).isSome &&
    (vf == 0 || (s.fn vf).vfw.toList.any fun w =>
      match vfwRange w with
      | some (b, n) => b ≤ pa && pa < b + n
      | none => false)

/-- The parity of the set bits of a number's low `n` bits. -/
def parity (n x : Nat) : Nat := popcount n x % 2

/-- The Undercroft that is a line's home: 0 A, 1 B (R43), or the one left while the other is withdrawn (R440). -/
def State.homeUnit (s : State) (ln : Nat) : Nat :=
  match s.region (128 * ln) with
  | some 0 => 0
  | some 1 => 1
  | _ =>
    if (s.die 4).st == .withdrawn then 1
    else if (s.die 5).st == .withdrawn then 0
    else parity 31 (128 * ln / 2097152)

/-- The slice of a line within its Undercroft (R43). -/
def sliceOf (ln : Nat) : Nat :=
  (List.range 8).foldl (fun acc i =>
    acc + 2 ^ i * (((List.range 6).map fun k => ln / 2 ^ (8 * k + i) % 2 * (if 7 + i + 8 * k ≤ 51 then 1 else 0)).foldl (· + ·) 0 % 2)) 0

/-- The state of a die towards traffic. Once power is applied, a good die that has not passed its authentication takes none yet (R443): flits to it
wait as for a die in reset (R431; assumption 72). -/
def State.openSt (s : State) (die : Nat) : DieSt :=
  let d := s.die die
  if d.st == .good && s.powered && !d.auth then .inReset else d.st

/-- The state of the die at which a line has its home. A line that its home has to fetch waits while the die of its memory takes no flits (R431). -/
def State.homeState (s : State) (ln : Nat) : DieSt :=
  let d := s.openSt (4 + s.homeUnit ln)
  if d == .good && (lookup s.l2 ln).isNone && (s.region (128 * ln)).any fun r => s.openSt (dieOfRegion r) == .inReset then .inReset else d

/-- The host lanes lie on the Annexes: with neither, or after a thermal trip, there is no host link (R439, R443, R448). -/
def State.hostLink (s : State) : Bool := !s.thermalTrip && ((s.die 2).st != .withdrawn || (s.die 3).st != .withdrawn)

/-- What is being done meets a home that takes no flits yet: it is held (R431, `held`). -/
def State.meet (s : State) (ln : Nat) : State := if s.homeState ln == .inReset then { s with homeHeld := true } else s

/-! ## Bytes of a line -/

/-- The 1,024-bit mask of a byte mask, from byte 0. -/
def expandBits : Nat → Nat → Nat
  | 0, _ => 0
  | n + 1, m => (if m % 2 == 1 then 255 else 0) + 256 * expandBits n (m / 2)

def expand (m : ByteMask) : Line := BitVec.ofNat 1024 (expandBits 128 m.toNat)

/-- The bytes of `new` where the mask is set, else those of `old` (R49). -/
def mergeBytes (m : ByteMask) (new old : Line) : Line :=
  let x := expand m
  (new &&& x) ||| (old &&& ~~~x)

/-- The mask of bytes off to off + n - 1 of a line. -/
def rangeMask (off n : Nat) : ByteMask := BitVec.ofNat 128 ((2 ^ n - 1) * 2 ^ off)

def lineBytes (l : Line) (off n : Nat) : Nat := l.toNat / 2 ^ (8 * off) % 2 ^ (8 * n)

def bytesAt (off : Nat) (x : Nat) : Line := BitVec.ofNat 1024 (x * 2 ^ (8 * off))

/-! ## Write signatures (R98) -/

def sigHash (k p : Nat) : Nat := ((p % 2 ^ 32) ^^^ (p / 2 ^ 32)) * k % 2 ^ 32 / 2 ^ 21

/-- The lines of context images stand behind the 2^45 lines of the physical map (assumption 9): 2^25 lines a context. -/
def isImageLn (ln : Nat) : Bool := 2 ^ 45 ≤ ln
def imageCid (ln : Nat) : Nat := (ln - 2 ^ 45) / 2 ^ 25
def imageOff (ln : Nat) : Nat := (ln - 2 ^ 45) % 2 ^ 25 * 128

/-- The address past the physical map that stands for a byte of an image. -/
def imagePa (cid off : Nat) : Nat := 2 ^ 52 + cid * 2 ^ 32 + off % 2 ^ 32
def imageLn (cid off : Nat) : Nat := imagePa cid off / 128

/-- The physical line number that the hashes take: the scheduler alone knows that of an image line (R16). -/
def physLine (ln : Nat) : Nat := if isImageLn ln then Config.imageLine (imageCid ln) + (ln - 2 ^ 45) % 2 ^ 25 else ln

/-- The two bits of a line. -/
def sigOf (ln : Nat) : SigBits :=
  let p := physLine ln
  BitVec.twoPow 2048 (sigHash 0x9E3779B1 p) ||| BitVec.twoPow 2048 (sigHash 0xC2B2AE3D p)

def sigHit (σ : SigBits) (ln : Nat) : Bool := σ &&& sigOf ln == sigOf ln

def sigAll : SigBits := BitVec.allOnes 2048

/-! ## The hotness sketch (R63, R64) -/

def sketchIndex (j p : Nat) : Nat :=
  let q := (p % 2 ^ 32) ^^^ (p / 2 ^ 32)
  let m := match j with | 0 => 0x9E3779B1 | 1 => 0x85EBCA77 | 2 => 0xC2B2AE3D | _ => 0x27D4EB2F
  4096 * j + q * m % 2 ^ 32 / 2 ^ 20

/-- The earliest entry with the smallest estimate. -/
def smallest (l : List (Nat × Bool × Nat)) : Option (Nat × Bool × Nat) :=
  match l with
  | [] => none
  | x :: rest => some (rest.foldl (fun m y => if y.2.2 < m.2.2 then y else m) x)

/-- One counted request for page p (R63, R64). An entry keeps the TIER of its page's latest request: which one R65's report gives where requests
differed the spec does not say (assumption 100). -/
def Sketch.count (k : Sketch) (size p : Nat) (tier : Bool) : Sketch :=
  let bump (c : List (Nat × Nat)) j :=
    let i := sketchIndex j p
    insert c i (min 0xFFFF ((lookup c i).getD 0 + 1))
  let c := (List.range 4).foldl bump k.counters
  let est := ((List.range 4).map fun j => (lookup c (sketchIndex j p)).getD 0).foldl min 0xFFFF
  let t :=
    if k.table.any fun e => e.1 == p then k.table.map fun e => if e.1 == p then (p, tier, est) else e
    else if k.table.length < size then k.table ++ [(p, tier, est)]
    else match smallest k.table with
      | some m => if m.2.2 < est then (k.table.filter fun e => e.1 != m.1) ++ [(p, tier, est)] else k.table
      | none => k.table
  { k with counters := c, table := t }

/-- The controller that serves a line: 0-5 Hall A, 6-11 Hall B, 12 Annex N, 13 Annex S (R63). -/
def State.controller (s : State) (ln : Nat) : Nat :=
  match s.region (128 * ln) with
  | some 0 => Config.controllerOf ln % 6
  | some 1 => 6 + Config.controllerOf ln % 6
  | some 2 => 12
  | _ => 13

/-- A 128-byte read or write reaches the controller from a slice (R63). -/
def State.sample (s : State) (ln : Nat) (tier : Bool) : State :=
  if s.hotctl.getLsbD 0 then
    let c := s.controller ln
    match s.sketches[c]? with
    | some k =>
      { s with sketches := s.sketches.setIfInBounds c (k.count (s.hotctl.extractLsb' 1 7).toNat (ln / 2048) tier) }
    | none => s
  else s

/-! ## Image lines (R13, R16, R53) -/

/-- The image offsets at which the frames, the Alcove section and the register lines stand (R399). -/
def imageFrames : Nat := 0x03000000
def imageAlcoves : Nat := 0x0C000000
def imageRegs : Nat := 0x20000000
/-- Where section 7, the accumulators, begins. -/
def imageAccs : Nat := 0x08000000

/-- The crew and the Alcove offset of an image offset in the Alcove section. -/
def Ctx.imageAlcove (c : Ctx) (off : Nat) : Option (Nat × Nat) :=
  let n := 1024 * c.blk.alcove
  if imageAlcoves ≤ off && off < imageAlcoves + n * c.crews.length then some ((off - imageAlcoves) / n, (off - imageAlcoves) % n) else none

/-- Whether a crew has its Alcove allocation: from its reservation to its release (R44, R184). -/
def Crew.holdsAlcove (k : Crew) : Bool := k.st != .waiting && !k.released

/-- `n` bytes of an image. The Alcove section of a halted context is the live Alcove (R396, R399). The part of a crew that has no allocation
reads 0 and discards writes (assumption 94). -/
def State.imageRead (s : State) (cid off n : Nat) : Nat :=
  match s.ctx cid with
  | none => 0
  | some c =>
    match c.imageAlcove off with
    | none => Mem.readN c.image off n
    | some (k, o) =>
      match c.crew k with
      | some crew => if c.st == .saved then Mem.readN ((lookup c.alcoves k).getD []) o n
          else if crew.holdsAlcove then Mem.readN (s.core crew.core).alcove (1024 * crew.alcBase + o) n
          else 0
      | none => 0

def State.imageWrite (s : State) (cid off n x : Nat) : State :=
  match s.ctx cid with
  | none => s
  | some c =>
    match c.imageAlcove off with
    | none => s.setCtx cid { c with image := Mem.writeN c.image off n x }
    | some (k, o) =>
      match c.crew k with
      | some crew =>
        if c.st == .saved then s.setCtx cid { c with alcoves := insert c.alcoves k (Mem.writeN ((lookup c.alcoves k).getD []) o n x) }
        else if crew.holdsAlcove then s.modCore crew.core fun y => { y with alcove := Mem.writeN y.alcove (1024 * crew.alcBase + o) n x }
        else s
      | none => s

/-- The memory behind a home: device memory, or the image. -/
def State.memLine (s : State) (ln : Nat) : Line :=
  if isImageLn ln then BitVec.ofNat 1024 (s.imageRead (imageCid ln) (imageOff ln) 128) else Mem.line s.dram ln

/-! ## Homes (R54, R55, R103) -/

/-- A near-tier line: the only ones stored through compression metadata (R60, R61). -/
def State.isNear (s : State) (ln : Nat) : Bool := match s.region (128 * ln) with | some r => r < 2 | none => false

/-- A line of the metadata cache is used: 2 MiB of 64-byte lines in 2,048 sets of 16 ways (R61). The spec gives no index and no
replacement: the set is the line number modulo 2,048, and the least recently used goes (assumption 80). -/
def Undercroft.useMeta (u : Undercroft) (m : Nat) : Undercroft :=
  { u with metaLines := m :: capWays (fun x => x % 2048 == m % 2048) 15 (u.metaLines.filter (· != m)) }

/-- The Undercroft of a near-tier line with the metadata line of its block in its cache. -/
def State.useMeta (s : State) (ln : Nat) : State :=
  let u := s.homeUnit ln
  { s with crofts := s.crofts.setIfInBounds u (((s.crofts[u]?).getD Undercroft.reset).useMeta (ln / 512)) }

/-- A read of a line from memory through its controller: counted, and decoded through its block's code; a code that hardware
never writes is taken as 0 and counted (R60, R61, R63). -/
def State.memoryRead (s : State) (ln : Nat) (tier : Bool) : State :=
  if isImageLn ln then s
  else
    let s := s.sample ln tier
    if !s.isNear ln then s
    else
      let s := s.useMeta ln
      if 5 ≤ (lookup s.codes (ln / 4)).getD 0 then
        let u := s.homeUnit ln
        let c := (s.crofts[u]?).getD Undercroft.reset
        { s with crofts := s.crofts.setIfInBounds u { c with mdBad := c.mdBad + 1 } }
      else s

/-- A line present in its slice. That of an image keeps its bytes in the image alone. -/
def State.l2At (s : State) (ln : Nat) : Option L2Line :=
  (lookup s.l2 ln).map fun l => if isImageLn ln then { l with data := s.memLine ln } else l

def State.setL2 (s : State) (ln : Nat) (l : L2Line) : State :=
  if isImageLn ln then
    { s.imageWrite (imageCid ln) (imageOff ln) 128 l.data.toNat with l2 := insert s.l2 ln { l with data := 0, dirty := false } }
  else { s with l2 := insert s.l2 ln l }

/-- The line as its home holds it, with a fill from memory when it is not present. -/
def State.fetchL2 (s : State) (ln : Nat) (tier : Bool) : State × L2Line :=
  match s.l2At ln with
  | some l => (s, l)
  | none =>
    let l : L2Line := { data := s.memLine ln, dirty := false, cmp := false, tier := tier, owners := [] }
    ((s.memoryRead ln tier).setL2 ln l, l)

def findL1 (l : List L1Line) (asid ln : Nat) : Option L1Line := l.find? fun x => x.asid == asid && x.line == ln

def putL1 (l : List L1Line) (x : L1Line) : List L1Line :=
  x :: l.filter fun y => !(y.asid == x.asid && y.line == x.line)

def dropL1 (l : List L1Line) (asid ln : Nat) : List L1Line := l.filter fun y => !(y.asid == asid && y.line == ln)

/-- A write-back merges exactly the dirty bytes and removes the owner (R49, R54, R55). -/
def State.mergeAt (s : State) (core : Nat) (x : L1Line) : State :=
  let (s, l) := s.fetchL2 x.line x.tier
  s.setL2 x.line { l with data := mergeBytes x.dirty x.data l.data, dirty := true, cmp := x.cmp, tier := x.tier,
                          owners := l.owners.filter fun o => !(o.1 == core && o.2.1 == x.asid) }

/-- The line a request names, for its order with the source's other requests. -/
def ReqOp.line : ReqOp → Option Nat
  | .read _ _ ln _ _ _ _ _ => some ln
  | .fill _ _ ln _ _ _ _ _ _ => some ln
  | .prefetch ln _ => some ln
  | .writeback _ _ l => some l.line
  | .register _ _ ln => some ln
  | .atomic ln _ _ _ _ _ _ _ _ => some ln
  | .reduce ln _ _ _ _ _ _ => some ln
  | _ => none

/-- The write-backs of a core for a line that are in flight: they arrive before the core's answer to a forward (R430). -/
def State.flushBacks (s : State) (core ln : Nat) : State :=
  let mine (r : Req) : Bool := match r.op with
    | .writeback c _ l => c == core && l.line == ln
    | _ => false
  let s' := (s.reqs.filter mine).foldl (fun s r => match r.op with
    | .writeback c _ l => s.mergeAt c l
    | _ => s) s
  { s' with reqs := s'.reqs.filter fun r => !mine r }

/-- Fills under way of some lines of a core bring its L1 nothing: they were read before something that has happened to the line since. -/
def State.staleFills (s : State) (core : Nat) (p : Nat → Nat → Bool) : State :=
  let stale (r : Req) : Req := match r.op with
    | .read c asid ln vu true cmp tier low => if c == core && p asid ln then { r with op := .read c asid ln vu false cmp tier low } else r
    | .fill c asid ln vu true cmp tier low x => if c == core && p asid ln then { r with op := .fill c asid ln vu false cmp tier low x } else r
    | _ => r
  { s with reqs := s.reqs.map stale }

/-- A forward to one owner: a DR line writes back its dirty bytes and becomes clean, a line in any other state answers with no data, and the
home removes the owner (R50, R54). -/
def State.forward (s : State) (ln core asid : Nat) : State :=
  let s := s.flushBacks core ln
  let drop (s : State) : State := match s.l2At ln with
    | some l => s.setL2 ln { l with owners := l.owners.filter fun o => !(o.1 == core && o.2.1 == asid) }
    | none => s
  match findL1 (s.core core).l1 asid ln with
  | some x =>
    if x.st == .dr then
      drop (((s.mergeAt core x).staleFills core fun a l => a == asid && l == ln).modCore core fun c =>
        { c with l1 := putL1 c.l1 { x with st := .c, dirty := 0, reg := 0 } })
    else drop s
  | none => drop s

/-- Forward to the owners of a line that satisfy p, the older first (R54, R103). -/
def State.forwardTo (s : State) (ln : Nat) (p : Nat → Nat → Bool) : State :=
  match lookup s.l2 ln with
  | some l => (l.owners.filter fun o => p o.1 o.2.1).foldl (fun s o => s.forward ln o.1 o.2.1) s
  | none => s

def State.forwardAll (s : State) (ln : Nat) : State := s.forwardTo ln fun _ _ => true

/-- What cores own of a context's image is recalled: the homes have it as it was last written (R53, R54, R123). -/
def State.recallImage (s : State) (cid : Nat) : State :=
  (s.l2.filter fun x => isImageLn x.1 && imageCid x.1 == cid).foldl (fun s x => s.forwardAll x.1) s

/-- The bits of a block of four lines. -/
def State.block (s : State) (b : Nat) : BitVec 4096 := BitVec.ofNat 4096 (Mem.readN s.dram (512 * b) 512)

/-- The code a block is stored with (R60, R61): compressed only for CMP = 1 and TIER = 0, and a zero block may always be
stored as such. How far a block compresses is not stated. -/
def storeCode (x : BitVec 4096) (cmp tier : Bool) : Nat :=
  let zero := x == 0
  if cmp && !tier then
    if zero then 1
    else match Config.compressible x % 4 with | 0 => 0 | k => k + 1
  else if zero then Config.compressible x % 2
  else 0

/-- Sectors that a code leaves unwritten. -/
def sectorsSaved (code : Nat) : Nat := match code with | 0 => 0 | 1 => 4 | 2 => 3 | 3 => 2 | _ => 1

def Undercroft.stored (u : Undercroft) (code : Nat) : Undercroft :=
  if code == 0 then { u with rawwb := u.rawwb + 1 }
  else { u with cmpwb := u.cmpwb + 1, saved := u.saved + BitVec.ofNat 64 (sectorsSaved code) }

/-- A dirty line is written to memory; the block of a near-tier line is encoded anew (R61, R62). -/
def State.memoryWrite (s : State) (ln : Nat) (l : L2Line) : State :=
  let s := { s.sample ln l.tier with dram := Mem.setLine s.dram ln l.data }
  if s.isNear ln then
    let s := s.useMeta ln
    let u := s.homeUnit ln
    let code := storeCode (s.block (ln / 4)) l.cmp l.tier
    { s with
      codes := if code == 0 then remove s.codes (ln / 4) else insert s.codes (ln / 4) code,
      crofts := s.crofts.setIfInBounds u (((s.crofts[u]?).getD Undercroft.reset).stored code) }
  else s

/-- A line leaves its home slice: its owners are recalled first, and it is written to memory if it is dirty (R54). -/
def State.evictL2 (s : State) (ln : Nat) : State :=
  let s := s.forwardAll ln
  match lookup s.l2 ln with
  | none => s
  | some l =>
    let s := if l.dirty then s.memoryWrite ln l else s
    { s with l2 := remove s.l2 ln }

/-- The set of a line: its Undercroft, its slice, and one of the 2,048 sets of a slice of 4 MiB in 16 ways of 128 bytes (R43,
R54). The spec gives no index within a slice: the set is bits 10 to 0 of the line number div 256 (assumption 80). -/
def State.l2Set (s : State) (ln : Nat) : Nat × Nat × Nat := (s.homeUnit ln, sliceOf ln, ln / 256 % 2048)

/-- Whether a line can enter its set without another leaving it. -/
def State.hasWay (s : State) (ln : Nat) : Bool :=
  (lookup s.l2 ln).isSome || s.l2.length < 16 || (s.l2.filter fun x => s.l2Set x.1 == s.l2Set ln).length < 16

/-- Room for a line in its set (R54). Which line goes is not specified (assumption 80). -/
def State.makeWayL2 (s : State) (ln : Nat) : State :=
  if s.hasWay ln then s
  else
    let set := s.l2.filter fun x => s.l2Set x.1 == s.l2Set ln
    let (k, s) := s.draw
    match set[Config.victim k % set.length]? with
    | some x => s.evictL2 x.1
    | none => s

/-- The line as its home holds it, allocated with a fill from memory when it is not present (R54). -/
def State.allocate (s : State) (ln : Nat) (tier : Bool) : State × L2Line := (s.makeWayL2 ln).fetchL2 ln tier

/-- A write-back arrives. Another owner whose registered bytes it covers is older: it is recalled first, so that its bytes
cannot be merged over newer ones later (R93, R103, R130; assumption 81). -/
def State.mergeBack (s : State) (core : Nat) (x : L1Line) : State :=
  let older (o : Nat × Nat × ByteMask) : Bool := !(o.1 == core && o.2.1 == x.asid) && o.2.2 &&& x.dirty != 0
  let owners : List (Nat × Nat × ByteMask) := match lookup s.l2 x.line with
    | some l => l.owners.filter older
    | none => []
  let s := owners.foldl (fun s o => State.forward s x.line o.1 o.2.1) s
  (s.makeWayL2 x.line).mergeAt core x

/-- A read at the home by a core's L1: its own registered line stays as it is (R50, R54). -/
def State.homeReadBy (s : State) (core asid ln : Nat) (tier : Bool) : State × Line :=
  let s := s.forwardTo ln fun c a => !(c == core && a == asid)
  let (s, l) := s.allocate ln tier
  (s, l.data)

/-- A read at the home (R54, R55). -/
def State.homeRead (s : State) (ln : Nat) (tier : Bool) : State × Line :=
  let s := (s.meet ln).forwardAll ln
  let (s, l) := s.allocate ln tier
  (s, l.data)

/-- A write of some bytes at the home, by an engine or the host (R52, R54). -/
def State.homeWrite (s : State) (ln : Nat) (m : ByteMask) (x : Line) (cmp tier : Bool) : State :=
  let s := (s.meet ln).forwardAll ln
  let (s, l) := s.allocate ln tier
  s.setL2 ln { l with data := mergeBytes m x l.data, dirty := true, cmp := cmp, tier := tier }

/-- A registration from a core (R54, R103): an owner whose mask overlaps is recalled first, and the oldest owner when two
others stand. A repeated registration replaces its owner's mask and makes it the newest of the owners: the spec does not say
whether its place in the order moves (assumption 79). -/
def State.homeRegister (s : State) (core asid ln : Nat) (mask : ByteMask) (tier : Bool) : State :=
  let (s, l) := s.allocate ln tier
  let other (o : Nat × Nat × ByteMask) : Bool := !(o.1 == core && o.2.1 == asid)
  let s := (l.owners.filter fun o => other o && o.2.2 &&& mask != 0).foldl (fun s o => s.forward ln o.1 o.2.1) s
  let left := match lookup s.l2 ln with | some l => l.owners.filter other | none => []
  let s := if 2 ≤ left.length then
      match left with
      | o :: _ => s.forward ln o.1 o.2.1
      | [] => s
    else s
  match s.l2At ln with
  | some l => s.setL2 ln { l with owners := l.owners.filter other ++ [(core, asid, mask)] }
  | none => s

/-- A span of bytes read at the homes, line by line. -/
def State.readSpan (tier : Bool) : Nat → State → Nat → Nat → State × Nat
  | 0, s, _, _ => (s, 0)
  | f + 1, s, pa, n =>
    if n == 0 then (s, 0)
    else
      let k := min n (128 - pa % 128)
      let (s, l) := s.homeRead (pa / 128) tier
      let (s, rest) := State.readSpan tier f s (pa + k) (n - k)
      (s, lineBytes l (pa % 128) k + rest * 2 ^ (8 * k))

/-- A span of bytes written at the homes, line by line. -/
def State.writeSpan (cmp tier : Bool) : Nat → State → Nat → Nat → Nat → State
  | 0, s, _, _, _ => s
  | f + 1, s, pa, n, x =>
    if n == 0 then s
    else
      let k := min n (128 - pa % 128)
      let s := s.homeWrite (pa / 128) (rangeMask (pa % 128) k) (bytesAt (pa % 128) (x % 2 ^ (8 * k))) cmp tier
      State.writeSpan cmp tier f s (pa + k) (n - k) (x / 2 ^ (8 * k))

/-- n bytes at a physical address, read or written at the homes, by a unit that comes through no leaf: a walker, a Porter, a
controller. R63 gives only "the TIER bit of its leaf": such a request carries TIER 0 and CMP 0 (assumption 79). -/
def State.readMem (s : State) (pa n : Nat) : State × Nat := State.readSpan false (n / 128 + 2) s pa n
def State.writeMem (s : State) (pa n x : Nat) : State := State.writeSpan false false (n / 128 + 2) s pa n x

/-! ## The slice ALU (R56): types 0 i, 1 n, 2 f32, 3 bf16x2, 4 b; operations 0 add, 1 min, 2 max, 3 and, 4 or, 5 xor,
6 exch, 7 cas -/

def aluFloat (f : Fmt) (op a b : Nat) : Nat :=
  match op with
  | 0 => f.ofValue .ieee .rne ((f.value a).add .rne (f.value b))
  | 1 => f.minMax false a b
  | _ => f.minMax true a b

/-- One location of `w` bits: the old value, the operand, and the new value of .cas. -/
def alu (op ty w old a b : Nat) : Nat :=
  match ty with
  | 2 => aluFloat fp32 op old a
  | 3 => aluFloat bf16 op (old % 65536) (a % 65536) + 65536 * aluFloat bf16 op (old / 65536) (a / 65536)
  | 4 => match op with
    | 3 => old &&& a
    | 4 => old ||| a
    | 5 => old ^^^ a
    | 6 => a
    | _ => if old == a then b else old
  | _ =>
    let sgn := ty == 0
    let x := intOf w sgn old
    let y := intOf w sgn a
    narrow w sgn false (match op with
      | 0 => x + y
      | 1 => minInt x y
      | _ => maxInt x y)

/-- An atomic at the home: the old value, the new one stored (R55, R97). -/
def State.homeAtomic (s : State) (ln off : Nat) (wide : Bool) (op ty : Nat) (a b : W64) (cmp tier : Bool) : State × W64 :=
  let n := if wide then 8 else 4
  let s := s.forwardAll ln
  let (s, l) := s.allocate ln tier
  let old := lineBytes l.data off n
  let m := 2 ^ (8 * n)
  let new := alu op ty (8 * n) old (a.toNat % m) (b.toNat % m)
  (s.setL2 ln { l with data := mergeBytes (rangeMask off n) (bytesAt off new) l.data, dirty := true, cmp := cmp, tier := tier },
    BitVec.ofNat 64 old)

/-- Element-wise operation over 4-byte words of `n` words (R56, R58). -/
def aluWords (op ty : Nat) : Nat → Nat → Nat → Nat
  | 0, _, _ => 0
  | n + 1, x, y => alu op ty 32 (x % 2 ^ 32) (y % 2 ^ 32) 0 + 2 ^ 32 * aluWords op ty n (x / 2 ^ 32) (y / 2 ^ 32)

/-- A reduction of the masked bytes into a line (R56). -/
def State.homeReduce (s : State) (ln : Nat) (x : Line) (m : ByteMask) (op ty : Nat) (cmp tier : Bool) : State :=
  let s := s.forwardAll ln
  let (s, l) := s.allocate ln tier
  let r := BitVec.ofNat 1024 (aluWords op ty 32 l.data.toNat x.toNat)
  s.setL2 ln { l with data := mergeBytes m r l.data, dirty := true, cmp := cmp, tier := tier }

/-! ## Requests in flight -/

/-- Send an operation to a home or a bank. -/
def State.send (s : State) (r : Nat → Req) : State :=
  { s with nextReq := s.nextReq + 1, reqs := s.reqs ++ [{ r s.nextReq with sent := s.time }] }

def State.req (s : State) (id : Nat) : Option Req := s.reqs.find? fun r => r.id == id

def State.dropReq (s : State) (id : Nat) : State := { s with reqs := s.reqs.filter fun r => r.id != id }

/-- The bytes of the Atrium a bank operation names, as its 64-byte row. -/
def ReqOp.row : ReqOp → Option Nat
  | .bankLoad off _ => some (off / 64)
  | .bankStore off _ => some (off / 64)
  | .bankAtomic off _ _ _ _ _ => some (off / 64)
  | .bankLine off _ _ _ => some (off / 64)
  | .waitReg off => some (off / 64)
  | .galleryReg off _ => some (off / 64)
  | .resolve off _ _ _ _ _ => some (off / 64)
  | .fbReserve off _ _ => some (off / 64)
  | .awaitDec off => some (off / 64)
  | _ => none

/-- The die an operation goes to: that of its line's home, or of its row's bank. -/
def State.destDie (s : State) (r : Req) : Option Nat :=
  match r.op.line, r.op.row with
  | some ln, _ => some (4 + s.homeUnit ln)
  | none, some row => some (row / 524288 % 2)
  | none, none => none

/-- The master that receives an operation: the slice of its line, or the bank of its row (R43, R57); none for an answer. -/
def State.master (s : State) (op : ReqOp) : Option (Nat × Nat) :=
  match op with
  | .fill _ _ _ _ _ _ _ _ _ | .load _ _ _ _ _ | .fbWrite _ _ _ _ _ _ => none
  | _ => match op.line, op.row with
    | some ln, _ => some (4 + s.homeUnit ln, sliceOf ln)
    | none, some row => some (row / 524288 % 2, row % 512)
    | none, none => none

/-- Whether an operation follows an earlier one: one that it must see acknowledged first; or one of its core, since a master presents the flits
of one source in sequence order (R430), and those of one source to a die that has returned the earlier one keep their order (R431). -/
def State.follows (s : State) (r q : Req) : Bool :=
  r.after.contains q.id || q.id < r.id && q.core == r.core &&
    ((q.op.line.isSome && q.op.line == r.op.line) || ((s.master q.op).isSome && s.master q.op == s.master r.op) ||
      (q.again && (s.destDie q).isSome && s.destDie q == s.destDie r))

/-- An operation waits for an earlier one. -/
def State.reqBlocked (s : State) (r : Req) : Bool := s.reqs.any (s.follows r)

/-- The step that performs an operation in flight. -/
def Req.event (r : Req) : Instr :=
  match r.op with
  | .read _ _ _ _ _ _ _ _ | .prefetch _ _ | .fill _ _ _ _ _ _ _ _ _ | .load _ _ _ _ _ => .l2Read r.id
  | .writeback _ _ _ => .l2WritebackMerge r.id
  | .register _ _ _ => .l2Registration r.id
  | .atomic _ _ _ _ _ _ _ _ _ => .l2Atomic r.id
  | .reduce _ _ _ _ _ _ _ => .l2Reduction r.id
  | .bankLoad _ _ | .bankStore _ _ | .bankAtomic _ _ _ _ _ _ | .bankLine _ _ _ _ => .atriumBankOperation r.id
  | .waitReg _ => .waitRegistrationOp r.id
  | .galleryReg _ _ => .galleryRegistrationOp r.id
  | .resolve _ _ _ _ _ _ => .futureResolutionOp r.id
  | .awaitDec _ => .awaitPendingDecrement r.id
  | .fbReserve _ _ _ => .feedbackReserve r.id
  | .fbWrite _ _ _ _ _ _ => .feedbackEntryWrite r.id

/-- The state of the die an operation goes to. An answer goes to its core. -/
def State.destState (s : State) (r : Req) : DieSt :=
  match r.op with
  | .fill _ _ _ _ _ _ _ _ _ | .load _ _ _ _ _ | .fbWrite _ _ _ _ _ _ => .good
  | _ =>
    match r.op.line with
    | some ln => s.homeState ln
    | none => s.openSt ((r.op.row.getD 0) / 524288 % 2)

/-- An operation may be performed: its die takes flits, it was not returned by a NAK (R431), and no earlier one of its core stands
before it. -/
def State.mayServe (s : State) (r : Req) : Bool := !r.nak && !s.reqBlocked r && s.destState r == .good

/-- Groups on a core whose end waits for a release look again (R270). -/
def State.retryExit (s : State) (core : Nat) : State :=
  s.pushAll ((s.core core).slots.filterMap fun b =>
    match b.2.frame.bind (s.frame b.2.cid ·) with
    | some fr => if fr.group.exit == .releasing then some (.awaitComplete core b.1) else none
    | none => none)

/-- A halt or a save of a context that has reached a core looks again whether the core has settled. -/
def State.settles (s : State) (cid core : Nat) : State :=
  match s.ctx cid with
  | none => s
  | some c =>
    if !c.arrived.contains core then s
    else if c.st == .halting && !c.settledAt.contains core then s.push (.haltSettle cid core)
    else if c.st == .saving then s.push (.preemptSaveComplete cid)
    else s

/-- A wait for an operation at a bank. -/
def Wait.isRequest : Wait → Bool
  | .request _ => true
  | _ => false

/-- An operation has been performed: it is no longer in flight, what it kept back follows, and what waits on its core for
accesses or releases looks again, a halt or a save with it. -/
def State.answered (s : State) (r : Req) : State :=
  let s := s.dropReq r.id
  let later := s.reqs.filter fun q => s.follows q r
  let s := s.pushAll ((later.filter fun q => !s.reqBlocked q).map Req.event)
  let s := s.settles r.cid r.core
  let drains := s.maints.filter fun m => m.inv && !m.left.contains r.core && m.unacked.contains r.core
  ((s.wake r.core fun w => w == .access || w == .release || w == .stalled || w.isRequest).retryExit r.core).pushAll (drains.map fun m => .tlbinvDrainAck m.id r.core)

/-- The loads that wait for the answer of a read. -/
def State.loadsOf (s : State) (id : Nat) : List Req := s.reqs.filter fun q => match q.op with
  | .load f _ _ _ _ => f == id
  | _ => false

/-! ## The core's L1 (R48 to R51) -/

/-- Send an L1 line's dirty bytes home. A fill of the line that is under way does not hold them (R92). -/
def State.sendBack (s : State) (core cid h : Nat) (x : L1Line) : State :=
  let s := s.staleFills core fun a ln => a == x.asid && ln == x.line
  (s.send fun id => { id := id, page := some x.vunit, core := core, cid := cid, h := h, asid := x.asid, op := .writeback core x.asid x,
                      dst := .drop, lanes := 0, nak := false, again := false }).push (.l2WritebackMerge s.nextReq)

/-- The line leaves the L1: dirty bytes are written back (R50). -/
def State.evictL1 (s : State) (core cid h asid ln : Nat) : State :=
  match findL1 (s.core core).l1 asid ln with
  | none => s
  | some x =>
    let s := s.modCore core fun c => { c with l1 := dropL1 c.l1 asid ln }
    if x.st == .c then s else s.sendBack core cid h x

/-- Room for a line: a set holds 16, and which line goes is not specified (R48). The spec gives no index: the set is the line
number modulo 128 (assumption 79). Lines allocated as least recently used go first (R368). -/
def State.makeRoom (s : State) (core cid h asid ln : Nat) : State :=
  if (findL1 (s.core core).l1 asid ln).isSome then s
  else
    let set := (s.core core).l1.filter fun x => x.line % 128 == ln % 128
    if set.length < 16 then s
    else
      let (k, s) := s.draw
      let set := if set.any (·.low) then set.filter (·.low) else set
      match set[Config.victim k % set.length]? with
      | some x => s.evictL1 core cid h x.asid x.line
      | none => s

/-- A store of some bytes into the L1: it allocates without a fill (R49, R50). -/
def State.storeL1 (s : State) (core cid h asid ln vunit : Nat) (m : ByteMask) (x : Line) (cmp tier : Bool) : State :=
  let s := s.makeRoom core cid h asid ln
  let y := match findL1 (s.core core).l1 asid ln with
    | some y => { y with data := mergeBytes m x y.data, valid := y.valid ||| m, dirty := y.dirty ||| m, cmp := cmp, tier := tier,
                         st := if y.st == .c then .d else y.st }
    | none => { asid := asid, line := ln, vunit := vunit, st := .d, data := mergeBytes m x 0, valid := m, dirty := m, reg := 0,
                cmp := cmp, tier := tier, low := false }
  s.modCore core fun c => { c with l1 := putL1 c.l1 y }

/-- A fill: the bytes that are not valid, and the whole line becomes valid (R49, R50). -/
def State.fillL1 (s : State) (core cid h asid ln vunit : Nat) (x : Line) (cmp tier low : Bool) : State :=
  let s := s.makeRoom core cid h asid ln
  let y := match findL1 (s.core core).l1 asid ln with
    | some y => { y with low := y.low && low, data := mergeBytes (~~~y.valid) x y.data, valid := BitVec.allOnes 128 }
    | none => { asid := asid, line := ln, vunit := vunit, st := .c, data := x, valid := BitVec.allOnes 128, dirty := 0, reg := 0,
                cmp := cmp, tier := tier, low := low }
  s.modCore core fun c => { c with l1 := putL1 c.l1 y }

/-- The bytes of a load, where every one of them is valid (R49). -/
def State.loadL1 (s : State) (core asid ln off n : Nat) : Option Nat :=
  match findL1 (s.core core).l1 asid ln with
  | some y => if rangeMask off n &&& ~~~y.valid == 0 then some (lineBytes y.data off n) else none
  | none => none

/-! ## Acquire (R100, R102) -/

/-- The self-invalidation of an acquire on a core: L1 lines and texel lines of the ASID that hit the signature. -/
def State.acquireOn (s : State) (core cid h asid : Nat) (σ : SigBits) : State :=
  let hit := (s.core core).l1.filter fun x => x.asid == asid && sigHit σ x.line
  let s := (hit.foldl (fun s x => s.evictL1 core cid h asid x.line) s).staleFills core fun a ln => a == asid && sigHit σ ln
  s.modCore core fun c => { c with tex := c.tex.filter fun t => !(t.asid == asid && sigHit σ t.line) }

/-- A strand of a frame acquires a signature of context `owner`. -/
def State.acquire (s : State) (core cid h : Nat) (owner : Nat) (σ : SigBits) : State :=
  let σ := if owner == cid then σ else sigAll
  match s.ctx cid with
  | none => s
  | some c => (s.acquireOn core cid h c.asid σ).modFrame cid h fun fr => { fr with sig := fr.sig ||| σ }

/-- An ASID sweep of a core (R102, R110): it does not change the frame's own signature. The instruction cache of the core
is invalidated with it (R224). -/
def State.sweep (s : State) (core cid h asid : Nat) : State :=
  (s.acquireOn core cid h asid sigAll).modCore core fun c => { c with icache := [] }

/-! ## Release (R101) -/

/-- The lines a release of a signature has still to register. -/
def State.unregistered (s : State) (core asid : Nat) (σ : SigBits) : List L1Line :=
  (s.core core).l1.filter fun x => x.asid == asid && sigHit σ x.line && x.st != .c && (x.st == .d || x.dirty &&& ~~~x.reg != 0)

/-- Operations of a core's ASID that are in flight and hold a release back: accesses, atomics, write-backs and
registrations that are not acknowledged. -/
def State.inFlight (s : State) (core asid : Nat) : Bool := s.reqs.any fun r => r.core == core && r.asid == asid

/-- Whether a release has nothing left to wait for (R101 steps 1 to 3). -/
def State.released (s : State) (core asid : Nat) (σ : SigBits) : Bool :=
  !s.inFlight core asid && (s.unregistered core asid σ).isEmpty

/-- Send the registrations of a release (R101 step 2). -/
def State.sendRegistrations (s : State) (core cid h asid : Nat) (σ : SigBits) : State :=
  (s.unregistered core asid σ).foldl (fun s x =>
    if s.reqs.any fun r => r.core == core && r.op == .register core asid x.line then s
    else (s.send fun id => { id := id, page := some x.vunit, core := core, cid := cid, h := h, asid := asid, op := .register core asid x.line,
                             dst := .drop, lanes := 0, nak := false, again := false }).push (.l2Registration s.nextReq)) s

/-- A split with an access of its frame's strand that is not yet performed in every lane: it waits for translations or answers, or is
parked (R121). -/
def Split.owesAccess (sp : Split) : Bool := sp.unfinished.isSome && match sp.wait with
  | .access | .parked _ => true
  | _ => false

/-- The other splits of the group have no access left to perform: they belong to the same strand (R88, R101 step 1). -/
def Env.siblingsDone (e : Env) (s : State) : Bool :=
  match s.frame e.cid e.h with
  | some fr => (List.range 4).all fun k => k == e.f.split || (fr.group.split k).all fun sp => !sp.owesAccess
  | none => true

/-- Whether a release by the issuing strand has nothing left to wait for. -/
def Env.releaseReady (e : Env) (s : State) : Bool := s.released e.f.core e.ctx.asid e.fr.sig && e.siblingsDone s

/-- A release at an instruction: the split is held until steps 1 to 3 of R101 are complete, then the rest is done. -/
def Env.withRelease (e : Env) (s : State) (k : State → Perf) : Perf :=
  if e.releaseReady s then k s
  else .stay (e.modSplit (s.sendRegistrations e.f.core e.cid e.h e.ctx.asid e.fr.sig) fun sp => { sp with wait := .release, asleep := true })

end Sys2Proof.Machine
end

