-- ==== Sys2Proof/Machine/Translate.lean ====
section
/-! DEFINITION. Address spaces and translation: the ASID table (R17, R18), the walk (R19 to R24), the TLBs (R28), the
places an address can name (R12 to R16, R429, R436), a lane's checks in the order of R30, anchors (R27), and fault
records and parking (R31 to R33). -/

namespace Sys2Proof.Machine

/-- The kinds of access (R23). -/
inductive Kind where
  | load | store | atomic | fetch
  deriving DecidableEq, Repr

/-- The point of performance an address names (R13). -/
inductive Place where
  | mem (pa : Nat) (cmp tier rm : Bool)
  | atrium (off : Nat)             -- Hall B's Atrium follows Hall A's
  | host (addr : Nat)
  | peer (port pa : Nat)
  | window (vf off : Nat)          -- a management window, reached through a leaf of TYPE host (R429)
  | alcove (off : Nat)             -- within the crew's allocation
  | image (cid off : Nat)
  deriving DecidableEq, Repr

/-- What an access accepts: leaf TYPEs, the code it takes for an Alcove address where it accepts none, and whether the
image aperture is accepted (R30 steps 3 and 8). -/
structure Accept where
  types : List Nat
  alcove : Option FaultCode
  image : Bool
  deriving DecidableEq, Repr

def Accept.any : Accept := ⟨[0, 1, 2], none, true⟩

/-- The places that an L1 caches (R13, R48): TYPE memory and the image aperture. The bytes of an image are reached at the homes
through addresses past the physical map (assumption 9). -/
def Place.cached : Place → Option (Nat × Bool × Bool)
  | .mem pa cmp tier _ => some (pa, cmp, tier)
  | .image cid off => some (imagePa cid off, false, false)
  | _ => none

/-- The answer of the TLBs, or of a walk, for one access. -/
inductive TRes where
  | ok (p : Place)
  | miss (page : Nat)
  | fault (c : FaultCode)
  deriving DecidableEq, Repr

/-! ## The ASID table (R17, R18) -/

def asidRoot (e : W64) : Nat := (e.extractLsb' 16 36).toNat * 65536

/-- An 8-byte entry at a physical address, read at its home. -/
def State.readEntry (s : State) (pa : Nat) : State × W64 :=
  let (s, x) := s.readMem pa 8
  (s, BitVec.ofNat 64 x)

/-- Where an ASID's entry stands. -/
def State.asidAt (s : State) (asid : Nat) : Nat := (s.astb.extractLsb' 16 36).toNat * 65536 + 8 * asid

/-- An ASID's entry, cached by a core's translation unit while it is valid. One in a withdrawn range is not valid (R439; assumption 95). -/
def State.asidEntry (s : State) (core : Option Nat) (asid : Nat) : State × W64 :=
  let pa := s.asidAt asid
  match core with
  | none => if s.withdrawnAt pa then (s, 0) else s.readEntry pa
  | some n =>
    match lookup (s.core n).asids asid with
    | some e => (s, e)
    | none =>
      if s.withdrawnAt pa then (s, 0)
      else
      let (s, e) := s.readEntry pa
      (if e.getLsbD 0 then s.modCore n fun c => { c with asids := insert c.asids asid e } else s, e)

/-! ## Leaves (R21, R24) -/

def leafType (e : W64) : Nat := (e.extractLsb' 2 2).toNat
def leafFrame (e : W64) : Nat := (e.extractLsb' 18 34).toNat * 262144

/-- The physical address a translation gives (R24: modulo 2^52). -/
def TlbEnt.pa (t : TlbEnt) (va : W64) : Nat := (t.pbase + va.toNat % 2 ^ t.size) % 2 ^ 52

def TlbEnt.covers (t : TlbEnt) (asid : Nat) (va : W64) : Bool := t.asid == asid && t.vbase == va.toNat / 2 ^ t.size

/-- ATTR of an anchor (R25): TYPE, then RD, WR, EX, CMP, TIER and RM. -/
def attrOf (e : W64) : Byte :=
  e.extractLsb' 2 2 ++ BitVec.ofBool (e.getLsbD 4) ++ BitVec.ofBool (e.getLsbD 5) ++ BitVec.ofBool (e.getLsbD 6) ++
    BitVec.ofBool (e.getLsbD 7) ++ BitVec.ofBool (e.getLsbD 8) ++ BitVec.ofBool (e.getLsbD 9)

def attrType (a : Byte) : Nat := (a.extractLsb' 6 2).toNat

/-- The permission an access lacks (R23). -/
def lacks (a : Byte) (k : Kind) : Option FaultCode :=
  let rd := a.getLsbD 5
  let wr := a.getLsbD 4
  match k with
  | .load => if rd then none else some .permRead
  | .store => if wr then none else some .permWrite
  | .atomic => if !wr then some .permWrite else if rd then none else some .permRead
  | .fetch => if a.getLsbD 3 && attrType a == 0 then none else some .permExec

/-- The function whose management window a host address names, with the offset (R429, R434). -/
def windowOf (addr : Nat) : Option (Nat × Nat) :=
  (List.range 64).findSome? fun f =>
    if Config.bar0 f ≤ addr && addr < Config.bar0 f + 1048576 then some (f, addr - Config.bar0 f) else none

/-- Where a physical address of a leaf of TYPE 0, 1 or 2 lies (R21, R436). CMP counts for the near tier only. -/
def placeOf (a : Byte) (pa : Nat) : Place :=
  match attrType a with
  | 0 => .mem pa (a.getLsbD 2 && !a.getLsbD 1) (a.getLsbD 1) (a.getLsbD 0)
  | 1 => .atrium (pa % 67108864)
  | _ =>
    if pa < 2 ^ 51 then
      match windowOf pa with
      | some (f, off) => .window f off
      | none => .host pa
    else .peer (pa / 2 ^ 47 % 16) (pa % 2 ^ 47)

/-- A host or peer address that no lanes lead to any more: a flit to a withdrawn Annex ends as an access to a withdrawn range (R431, R439). -/
def State.lostPort (s : State) (pa : Nat) : Bool :=
  if pa < 2 ^ 51 then (s.die 2).st == .withdrawn && (s.die 3).st == .withdrawn else (s.die (2 + pa / 2 ^ 50 % 2)).st == .withdrawn

/-- The last checks of R30, from step 7: for an access that translation has placed. -/
def State.placed (s : State) (vf : Nat) (sup : Bool) (a : Byte) (pa : Nat) (k : Kind) (acc : Accept) : TRes :=
  if attrType a == 3 || (attrType a == 0 && s.withdrawnAt pa) ||
      (attrType a == 1 && (s.die (pa / 33554432 % 2)).st == .withdrawn) || (attrType a == 2 && s.lostPort pa) then .fault .withdrawn
  else if k != .fetch && !acc.types.contains (attrType a) then .fault .aperture
  else
    let p := placeOf a pa
    match p with
    | .window f _ =>
      if f != vf then .fault .vfViolation
      else if !sup then .fault .aperture
      else match lacks a k with
        | some c => .fault c
        | none => .ok p
    | .peer port x =>
      match lacks a k with
      | some c => .fault c
      | none => if Config.peerAccepts port x then .ok p else .fault .vfViolation
    | _ => match lacks a k with
      | some c => .fault c
      | none => .ok p

/-- An access at a physical address that a leaf or an anchor has given (R30 steps 6 to 9, R42): the frame lies in the function's
windows, then `placed`. -/
def State.useFrame (s : State) (vf : Nat) (sup : Bool) (a : Byte) (pa : Nat) (k : Kind) (acc : Accept) : TRes :=
  if attrType a == 0 && !s.inWindow vf pa then .fault .vfViolation else s.placed vf sup a pa k acc

def State.useLeaf (s : State) (vf : Nat) (sup : Bool) (t : TlbEnt) (va : W64) (k : Kind) (acc : Accept) : TRes :=
  s.useFrame vf sup (attrOf t.leaf) (t.pa va) k acc

/-! ## The walk (R19 to R22, R24) -/

inductive Walked where
  | leaf (t : TlbEnt)
  | fault (c : FaultCode)
  deriving DecidableEq, Repr

/-- One entry of a node, read at its home (R22). -/
def State.nodeEntry (s : State) (vf base idx : Nat) : State × Except FaultCode W64 :=
  let pa := base + 8 * idx
  if !s.inWindow vf pa then (s, .error .vfViolation)
  else if s.withdrawnAt pa then (s, .error .withdrawn)
  else
    let (s, e) := s.readEntry pa
    (s, if e.getLsbD 0 then .ok e else .error .notPresent)

def Core.remember (c : Core) (w : WalkEnt) : Core := { c with walks := (w :: c.walks).take 64 }

def State.rememberOn (s : State) (core : Option Nat) (w : WalkEnt) : State :=
  match core with
  | some n => s.modCore n fun c => c.remember w
  | none => s

def nextNode (e : W64) : Nat := (e.extractLsb' 16 36).toNat * 65536

/-- Level 1: a leaf of 256 KiB, or with CH one entry for its contiguity run (R24). -/
def State.walk1 (s : State) (vf asid : Nat) (va : W64) (node : Nat) : State × Walked :=
  match s.nodeEntry vf node (va.extractLsb' 18 13).toNat with
  | (s, .error c) => (s, .fault c)
  | (s, .ok e) =>
    (s, if !e.getLsbD 1 then .fault .pteMalformed
        else if e.getLsbD 10 then
          .leaf ⟨asid, va.toNat / 2 ^ 24, 24, e,
            (leafFrame e + 2 ^ 52 - (va.extractLsb' 18 6).toNat * 262144) % 2 ^ 52⟩
        else .leaf ⟨asid, va.toNat / 2 ^ 18, 18, e, leafFrame e⟩)

/-- Level 2: a leaf of 2 GiB, or a pointer. -/
def State.walk2 (s : State) (core : Option Nat) (vf asid : Nat) (va : W64) (node : Nat) : State × Walked :=
  match s.nodeEntry vf node (va.extractLsb' 31 13).toNat with
  | (s, .error c) => (s, .fault c)
  | (s, .ok e) =>
    if e.getLsbD 1 then
      (s, if leafType e == 1 then .fault .pteMalformed
          else .leaf ⟨asid, va.toNat / 2 ^ 31, 31, e, leafFrame e / 2 ^ 31 * 2 ^ 31⟩)
    else (s.rememberOn core ⟨asid, 2, va.toNat / 2 ^ 31, nextNode e⟩).walk1 vf asid va (nextNode e)

/-- Level 3. -/
def State.walk3 (s : State) (core : Option Nat) (vf asid : Nat) (va : W64) (node : Nat) : State × Walked :=
  match s.nodeEntry vf node (va.extractLsb' 44 13).toNat with
  | (s, .error c) => (s, .fault c)
  | (s, .ok e) =>
    if e.getLsbD 1 then (s, .fault .pteMalformed)
    else (s.rememberOn core ⟨asid, 3, va.toNat / 2 ^ 44, nextNode e⟩).walk2 core vf asid va (nextNode e)

/-- A walk for a lower-half address; a core's walk starts below the pointers its walk cache holds (R28). -/
def State.walk (s : State) (core : Option Nat) (asid : Nat) (va : W64) : State × Walked :=
  match s.asidEntry core asid with
  | (s, a) =>
    if !a.getLsbD 0 then (s, .fault (if s.withdrawnAt (s.asidAt asid) then .withdrawn else .notPresent))
    else
      let cached (level tag : Nat) : Option Nat := match core with
        | none => none
        | some n => ((s.core n).walks.find? fun w => w.asid == asid && w.level == level && w.tag == tag).map (·.next)
      match cached 2 (va.toNat / 2 ^ 31) with
      | some node => s.walk1 (asidVf a) asid va node
      | none =>
        match cached 3 (va.toNat / 2 ^ 44) with
        | some node => s.walk2 core (asidVf a) asid va node
        | none => s.walk3 core (asidVf a) asid va (asidRoot a)

/-! ## The TLBs (R28) -/

/-- The set of a leaf in the second level: 4,096 entries in 512 sets of 8 ways. R28 gives no index: it is the number of the
leaf's own unit of virtual space modulo 512 (assumption 79). -/
def TlbEnt.set (t : TlbEnt) : Nat := t.vbase % 512

/-- A leaf enters the second level. -/
def putTlb2 (l : List TlbEnt) (t : TlbEnt) : List TlbEnt := t :: capWays (fun x => x.set == t.set) 7 l

/-- A leaf enters the first level; what falls out of it enters the second. R28 gives no replacement policy: both levels and the
walk cache drop the entry that was installed first, and a first-level victim moves to the second level (assumption 79). -/
def Core.install (c : Core) (t : TlbEnt) : Core :=
  { c with tlb1 := (t :: c.tlb1).take 96, tlb2 := (c.tlb1.drop 95).foldl putTlb2 c.tlb2 }

def Core.findTlb (c : Core) (asid : Nat) (va : W64) : Option TlbEnt :=
  (c.tlb1.find? fun t => t.covers asid va) <|> (c.tlb2.find? fun t => t.covers asid va)

/-- R36: a permission fault discards the entry that caused it. -/
def Core.discard (c : Core) (asid : Nat) (va : W64) : Core :=
  { c with tlb1 := c.tlb1.filter fun t => !t.covers asid va, tlb2 := c.tlb2.filter fun t => !t.covers asid va }

/-- The lookup page of an address (R28). -/
def lookupPage (va : W64) : Nat := va.toNat / 262144

/-! ## Apertures (R13 to R16) -/

def alcoveBase : W64 := 0x00FFFFFFFFF80000

def inAlcove (va : W64) : Bool := alcoveBase ≤ va && !upperHalf va && va.toNat < 2 ^ 56

/-- The size of an image: past its header and every section its header names (R399). -/
def Ctx.imageSize (c : Ctx) : Nat :=
  (List.range 16).foldl (fun m k =>
    max m (Mem.readN c.image (64 + 16 * k) 8 + Mem.readN c.image (72 + 16 * k) 8)) 4096

/-- An upper-half address: the byte of an image it names, where R14 and R16 allow the access. -/
def State.imageAt (s : State) (sup : Bool) (va : W64) : Option (Nat × Nat) :=
  let cid := (va.extractLsb' 32 16).toNat
  let off := va.toNat % 2 ^ 32
  if !sup || va.extractLsb' 48 8 != 0#8 then none
  else match s.ctx cid with
    | some c => if (c.st == .halted || c.st == .saved) && off < c.imageSize then some (cid, off) else none
    | none => none

/-! ## A lane's address (R27, R30) -/

/-- How an instruction names an address: a virtual one, an Alcove offset, or an anchor with an offset. -/
inductive Addr where
  | va (a : W64)
  | alcove (off : Int)
  | anchored (k : Nat) (off : Int)

namespace Env

def asid (e : Env) : Nat := e.ctx.asid

/-- The crew's Alcove: base and size in bytes. -/
def alcove (e : Env) : Nat × Nat :=
  match e.crew with
  | some c => (1024 * c.alcBase, 1024 * c.alcSize)
  | none => (0, 0)

def anchor (e : Env) (k : Nat) : Anchor := (e.sp.anchors[k]?).getD Anchor.reset

/-- The virtual address (R27); an Alcove offset within range is the aperture base plus the offset (R15). -/
def vaOf (e : Env) : Addr → W64
  | .va a => a
  | .alcove off => alcoveBase + BitVec.ofInt 64 off
  | .anchored k off => (e.anchor k).vbase + BitVec.ofInt 64 off

/-- Steps 1 to 5 of R30 for `n` bytes aligned to `align`. An Alcove offset takes ALCOVE_RANGE at or beyond the allocation's size (R15), before
the check of its alignment. Only a line of LDA or STA can begin within the allocation and end beyond it: the spec calls an offset
"excessive" without saying so for such a line, and all of it takes ALCOVE_RANGE here, after that check (assumption 92). -/
def early (e : Env) (acc : Accept) (n align : Nat) (a : Addr) : Option FaultCode :=
  let va := e.vaOf a
  let size : Int := (e.alcove.2 : Nat)
  let aligned : Option FaultCode := if va.toNat % align == 0 then none else some .misaligned
  let inside (off : Int) : Option FaultCode :=
    if off < 0 || size ≤ off then some .alcoveRange
    else aligned <|> (if size < off + (n : Nat) then some .alcoveRange else none)
  match a with
  | .alcove off => inside off
  | _ =>
    let hollow : Bool := match a with
      | .anchored k _ => (e.anchor k).st == .empty
      | _ => false
    if hollow then some .anchorEmpty
    else if !canonical va then some .nonCanonical
    else if upperHalf va then (if acc.image && (e.s.imageAt e.sup va).isSome then aligned else some .aperture)
    else if inAlcove va then acc.alcove <|> inside (va.toNat - alcoveBase.toNat : Nat)
    else aligned

/-- Whether the anchor path serves the access (R27). An address in the Alcove aperture names the Alcove also where it lies within
the LIMIT of an anchor of a larger leaf: the pseudocode of R27 gives FRAME + off there, R15 and the last paragraph of R27 the
Alcove (assumption 83). -/
def anchored (e : Env) (s : State) (k : Nat) (off : Int) (n : Nat) (kind : Kind) (acc : Accept) : Option TRes :=
  let b := e.anchor k
  if b.st == .valid && 0 ≤ off && off + (n : Nat) ≤ ((b.limit.toNat : Nat) : Int) && (lacks b.attr kind).isNone &&
      !inAlcove (b.vbase + BitVec.ofInt 64 off) then
    some (s.useFrame e.vf e.sup b.attr ((b.frame.toNat + off.toNat) % 2 ^ 52) kind acc)
  else none

/-- Steps 6 to 9 of R30 through a core's TLBs: `miss` where a walk is needed. -/
def lookupVa (e : Env) (s : State) (kind : Kind) (acc : Accept) (va : W64) : TRes :=
  if upperHalf va then
    match s.imageAt e.sup va with
    | some (cid, off) => .ok (.image cid off)
    | none => .fault .aperture
  else if inAlcove va then .ok (.alcove (va.toNat - alcoveBase.toNat))
  else match (s.core e.f.core).findTlb e.asid va with
    | some t => s.useLeaf e.vf e.sup t va kind acc
    | none => .miss (lookupPage va)

/-- Steps 6 to 9 of R30 for a lane. -/
def lookupAddr (e : Env) (s : State) (n : Nat) (kind : Kind) (acc : Accept) (a : Addr) : TRes :=
  match a with
  | .anchored k off => (e.anchored s k off n kind acc).getD (e.lookupVa s kind acc (e.vaOf a))
  | _ => e.lookupVa s kind acc (e.vaOf a)

end Env

/-- Translation with the walk performed at once, for engines and for what a core does for itself: a walk fills the core's
TLB when it finds a leaf. -/
def State.xlate (s : State) (core asid vf : Nat) (sup : Bool) (kind : Kind) (acc : Accept) (va : W64) : State × TRes :=
  if upperHalf va then
    (s, match s.imageAt sup va with
      | some (cid, off) => .ok (.image cid off)
      | none => .fault .aperture)
  else if inAlcove va then (s, .ok (.alcove (va.toNat - alcoveBase.toNat)))
  else match (s.core core).findTlb asid va with
    | some t => (s, s.useLeaf vf sup t va kind acc)
    | none =>
      match s.walk (some core) asid va with
      | (s, .fault c) => (s, .fault c)
      | (s, .leaf t) => (s.modCore core fun c => c.install t, s.useLeaf vf sup t va kind acc)

def Env.translate (e : Env) (s : State) (kind : Kind) (acc : Accept) (va : W64) : State × TRes :=
  s.xlate e.f.core e.asid e.vf e.sup kind acc va

/-! ## Fault records (R33) -/

/-- Put a field into a record. -/
def field {n : Nat} (r : BitVec n) (off x : Nat) : BitVec n := r ||| BitVec.ofNat n (x * 2 ^ off)

/-- A fault record, without its sequence number. `src` 0 vector lanes, 1 scalar, 2 fetch, 3 CE, 4 Array stream, 5 gather
and texel unit. -/
def faultRecord (va : W64) (asid : Nat) (code : FaultCode) (k : Kind) (src core slot split units : Nat) (lanes : Mask) :
    BitVec 256 :=
  let kind := match k with | .load => 0 | .store => 1 | .fetch => 2 | .atomic => 3
  field (field (field (field (field (field (field (field (field (field (0 : BitVec 256)
    0 (va.toNat % 2 ^ 57)) 64 asid) 80 code.byte.toNat) 88 kind) 90 src) 96 (coreX core)) 101 (coreY core))
    112 (slot + 64 * split)) 120 units) 128 lanes.toNat

/-- Logarithm and base of a ring register (R387). -/
def ringLog (r : W64) : Nat := (r.extractLsb' 0 5).toNat
def ringBase (r : W64) : Nat := (r.extractLsb' 6 46).toNat * 64

/-- Whether a device-produced ring takes no record: disabled, or full. -/
def ringFull (r : W64) (tail head : W32) : Bool :=
  ringLog r == 0 || 2 ^ ringLog r ≤ (tail - head).toNat

def State.porter (s : State) (h : Nat) : Porter := (s.porters[h]?).getD Porter.reset

def State.modPorter (s : State) (h : Nat) (f : Porter → Porter) : State :=
  { s with porters := s.porters.setIfInBounds h (f (s.porter h)) }

/-- A record leaves for its destination; false when that is full (R33). The Porter's own queue has no stated bound. -/
def State.deliverFault (s : State) (core : Nat) (r : FaultRec) : State × Bool :=
  let f := s.fn r.vf
  if f.dsr.getLsbD 1 then
    if !s.hostLink || ringFull f.hfrb f.hfTail f.hfHead then (s, false)
    else
      let at_ := ringBase f.hfrb + 32 * (f.hfTail.toNat % 2 ^ ringLog f.hfrb)
      ({ s with host := Mem.writeN s.host at_ 32 r.bits.toNat }.modFn r.vf fun f => { f with hfTail := f.hfTail + 1 }, true)
  else
    (s.modPorter (hallOf core) fun p => { p with faults := p.faults ++ [r] }, true)

/-- Post a record with the core's next sequence number; a record is held while older ones are, or while its destination
is full. `owner` and `split` name the parked split it belongs to, where there is one. -/
def State.postFault (s : State) (core vf : Nat) (owner : Option FRef) (split : Nat) (rec : BitVec 256) : State :=
  let r : FaultRec := ⟨vf, field rec 192 (s.core core).frSeq.toNat, owner, split⟩
  let s := s.modCore core fun c => { c with frSeq := c.frSeq + 1 }
  if !(s.core core).held.isEmpty then s.modCore core fun c => { c with held := c.held ++ [r] }
  else match s.deliverFault core r with
    | (s, true) => s
    | (s, false) => s.modCore core fun c => { c with held := c.held ++ [r] }

/-! ## Faults of an access, parking and violations (R31, R32, R397) -/

/-- A faulting unit: its index, lookup page, code and address. -/
structure Bad where
  unit : Nat
  page : Nat
  code : FaultCode
  va : W64
  deriving DecidableEq, Repr

/-- An event of R25 that makes an anchor STALE: VBASE keeps its value and LIMIT reads 0. -/
def Anchor.stale (b : Anchor) : Anchor := { b with st := .stale, limit := 0 }

def Split.stale (sp : Split) : Split := { sp with anchors := mapEach sp.anchors Anchor.stale }

/-- The distinct pages of a list of faulting units, in order. -/
def pagesOf (l : List Bad) : List Nat := (l.map (·.page)).foldl (fun p x => if p.contains x then p else p ++ [x]) []

/-- A record of a split is held at its core (R33). -/
def State.recordPending (s : State) (core : Nat) (x : FRef) (split : Nat) : Bool :=
  (s.core core).held.any fun r => r.owner == some x && r.split == split

namespace Env

/-- A violation from the context's operands (R397): imprecise, but for one that a management window refuses (R429), and the context is killed
when the halt settles. -/
def violate (e : Env) (va : W64) (u : Mask) (s : State) (precise : Bool := false) : State :=
  (e.take { code := .vfViolation, precise := precise, umask := u, fva := va &&& 0x01FFFFFFFFFFFFFF } s).modCtx e.cid fun c =>
    { c with killAfter := true }

/-- Park the split on replayable faults: one record for each distinct lookup page (R32, R33). A scalar access has one unit, which stays
unfinished; a fetch has none. -/
def park (e : Env) (k : Kind) (src : Nat) (u : Mask) (bad : List Bad) (s : State) : State :=
  let pages := pagesOf bad
  let post (s : State) (p : Nat) : State :=
    match bad.find? fun b => b.page == p with
    | none => s
    | some b =>
      let lanes := if src == 0 || src == 5 then maskOf ((bad.filter fun b => b.page == p).map (·.unit)) else 0
      s.postFault e.f.core e.vf (some ⟨e.cid, e.h⟩) e.f.split
        (faultRecord b.va e.asid b.code k src e.f.core e.f.slot e.f.split pages.length lanes)
  let s := bad.foldl (fun s b => match b.code with
    | .permRead | .permWrite | .permExec => s.modCore e.f.core fun c => c.discard e.asid b.va
    | _ => s) s
  let s := pages.foldl post s
  match bad with
  | [] => s
  | b :: _ =>
    e.modSplit s fun sp =>
      { sp.stale with wait := .parked ⟨u, pages, b.code, b.va, false, s.ac, s.recordPending e.f.core ⟨e.cid, e.h⟩ e.f.split⟩, asleep := true,
                      unfinished := if src == 2 then none else if src == 1 then some 1 else some u, badPages := [] }

/-- A walk is needed for a page: it joins the walk that is in progress, or enters the miss table, unless that is full (R28, R29). -/
def requestWalk (e : Env) (page : Nat) (s : State) (quiet : Bool := false) : State :=
  let c := s.core e.f.core
  if c.misses.any fun m => m.asid == e.asid && m.page == page then
    if quiet then s
    else s.modCore e.f.core fun c => { c with misses := c.misses.map fun (m : Miss) =>
      if m.asid == e.asid && m.page == page then { m with quiet := false } else m }
  else if 32 ≤ c.misses.length then s
  else (s.modCore e.f.core fun c => { c with misses := c.misses ++ [⟨e.asid, page, quiet⟩] }).push (.pageWalk e.f.core e.asid page)

/-- The split waits at its instruction for what is under way. -/
def hold (e : Env) (w : Wait) (s : State) : Perf := .stay (e.modSplit s fun sp => { sp with wait := w, asleep := true })

end Env

/-- How far an access has come over its units. -/
structure Progress where
  s : State
  vals : List (Nat × List W32)     -- what completed units delivered
  pending : List Nat
  bad : List Bad
  violated : Bool

/-- What became of one unit that translated. -/
inductive Did where
  | done (s : State) (vals : List W32)
  | pending (s : State)

/-- The address at which a unit of `n` bytes goes on in a second page: only a line of LDAT or STAT can (R304). -/
def secondPage (va : W64) (n : Nat) : Option W64 :=
  let last := va + BitVec.ofNat 64 (n - 1)
  if lookupPage va == lookupPage last then none else some ((last >>> 18) <<< 18)

/-- The split of an answer. -/
def ReqDst.focus : ReqDst → Option Focus
  | .split f | .vecLane f _ _ _ _ _ | .vecLine f _ _ _ _ _ | .uni f _ _ _ => some f
  | _ => none

/-- A unit of the instruction has been sent and its answer is on its way: it is performed under the translation that it had (R39). -/
def Env.sent (e : Env) (s : State) (i : Nat) : Bool :=
  s.reqs.any fun r => r.dst.focus == some e.f && r.cid == e.cid && r.h == e.h && r.lanes.getLsbD i

/-- The access names a management window: a refusal is resolved as APERTURE for a page of the wrong TYPE is, every other lane being
performed (R429, R31). -/
def Env.atWindow (e : Env) (s : State) (n : Nat) (kind : Kind) (acc : Accept) (a : Addr) : Bool :=
  let window : Place → Bool
    | .window _ _ => true
    | _ => false
  let mapped (va : W64) : Bool := ((s.core e.f.core).findTlb e.asid va).any fun t => window (placeOf (attrOf t.leaf) (t.pa va))
  match a with
  | .anchored k off =>
    if (e.anchored s k off n kind acc).isSome then window (placeOf (e.anchor k).attr (((e.anchor k).frame.toNat + off.toNat) % 2 ^ 52))
    else mapped (e.vaOf a)
  | .va va => mapped va
  | .alcove _ => false

/-- One unit of an access after its early checks (R31): performed once every page it lies in is translated. -/
def Env.unit (e : Env) (kind : Kind) (acc : Accept) (n : Nat) (addr : Nat → Addr) (act : Nat → Place → State → Did)
    (p : Progress) (i : Nat) : Progress :=
  if p.violated || e.sent p.s i then { p with pending := p.pending ++ [i] }
  else
    let a := addr i
    let va := e.vaOf a
    let page := lookupPage va
    let fault (va : W64) (c : FaultCode) : Progress :=
      { p with bad := p.bad ++ [⟨i, lookupPage va, c, va⟩], violated := c == .vfViolation && !e.atWindow p.s n kind acc a }
    let walk (page : Nat) : Progress := { p with s := e.requestWalk page p.s, pending := p.pending ++ [i] }
    let perform (place : Place) : Progress :=
      match act i place p.s with
      | .done s v => { p with s := s, vals := p.vals ++ [(i, v)] }
      | .pending s => { p with s := s, pending := p.pending ++ [i] }
    match lookup e.sp.badPages page with
    | some c => fault va c
    | none =>
      match e.lookupAddr p.s n kind acc a with
      | .ok place =>
        match secondPage va n with
        | none => perform place
        | some va2 => match lookup e.sp.badPages (lookupPage va2) with
          | some c => fault va2 c
          | none => match e.lookupVa p.s kind acc va2 with
            | .ok _ => perform place
            | .miss page => walk page
            | .fault c => fault va2 c
      | .miss page => walk page
      | .fault c => fault va c

/-- What an access comes to (R31, R32): a violation; completion; a wait for what is under way; the program fault of its
lowest such unit; or parking. A scalar access has one unit and no unfinished lane (R261). -/
def Env.conclude (e : Env) (kind : Kind) (src : Nat) (finish : List (Nat × List W32) → State → State) (p : Progress) : Perf :=
  let s := if p.vals.isEmpty then p.s else finish p.vals p.s
  let left := maskOf (p.pending ++ p.bad.map (·.unit))
  let s := if p.violated || p.pending.isEmpty then e.arrived s else s
  let u := if src == 1 then 0 else left
  if p.violated then
    match p.bad.find? fun b => b.code == .vfViolation with
    | some b => .stay (e.violate b.va u s)
    | none => .stay s
  else if left == 0 then .ok s
  else if !p.pending.isEmpty then
    .stay (e.modSplit s fun sp => { sp with unfinished := some left, wait := .access, asleep := true })
  else match p.bad.find? fun b => !b.code.replayable with
    | some b => if b.code == .vfViolation then .stay (e.violate b.va u s true)
        else .trap { code := b.code, umask := u, fva := b.va &&& 0x01FFFFFFFFFFFFFF } s
    | none => .stay (e.park kind src u p.bad s)

/-- The result of an instruction that performs its lanes one by one takes its place among the results when it issues (R206). -/
def Env.opens (e : Env) (dest : List RegWrite) (s : State) : State := if dest.isEmpty then s else e.gather (dest.map RegWrite.empty) s

/-- An access over the units of `todo`, lanes or lines (R31, R32, R304): the early checks of all of them, then each unit
that translates is performed. `finish` writes what completed units delivered; `dest` are the vector writes of the result, which takes its
place in issue order at once (R206). -/
def Env.access (e : Env) (todo : Mask) (kind : Kind) (acc : Accept) (n align src : Nat) (addr : Nat → Addr)
    (act : Nat → Place → State → Did) (finish : List (Nat × List W32) → State → State) (s : State) (dest : List RegWrite := []) : Perf :=
  let u := (e.sp.unfinished.getD todo) &&& todo
  let units := lanesOf u
  let faults := units.filterMap fun i => (e.early acc n align (addr i)).map fun c => (i, c)
  match faults with
  | (i, c) :: _ =>
    .trap { code := c, umask := if src == 1 then 0 else maskOf (faults.map (·.1)),
            fva := e.vaOf (addr i) &&& 0x01FFFFFFFFFFFFFF } s
  | [] =>
    e.conclude kind src finish (units.foldl (e.unit kind acc n addr act) ⟨e.opens dest s, [], [], [], false⟩)

/-- Every split of a core that waits for walks, fills or answers tries again. -/
def State.wakeAccess (s : State) (core : Nat) : State :=
  (s.wake core fun w => w == .access || w == .stalled).mapSplits core (fun _ => true) fun sp =>
    if sp.wait == .fetch then { sp with wait := .none, asleep := false } else sp

/-- Every split of a core whose release, or stall, may now end. -/
def State.wakeRelease (s : State) (core : Nat) : State := s.wake core fun w => w == .release || w == .stalled

end Sys2Proof.Machine
end

