-- ==== Sys2Proof/Machine/Window.lean ====
section
/-! DEFINITION. Queue table entries as the Porter reads them (R369), and the registers of a management window as a read
sees them (R428, with the field maps of the registers' own rules). -/

namespace Sys2Proof.Machine

/-! ## Queue table entries (R369) -/

/-- A queue table entry, its 32 bytes as a number. -/
abbrev QEntry := Nat

def QEntry.ring (q : QEntry) : Nat := q % 2 ^ 52
def QEntry.logn (q : QEntry) : Nat := q / 2 ^ 64 % 16
def QEntry.prio (q : QEntry) : Nat := q / 2 ^ 68 % 8
def QEntry.priv (q : QEntry) : Bool := q / 2 ^ 71 % 2 == 1
def QEntry.vf (q : QEntry) : Nat := q / 2 ^ 72 % 64
def QEntry.head (q : QEntry) : W32 := BitVec.ofNat 32 (q / 2 ^ 128)
def QEntry.etail (q : QEntry) : W32 := BitVec.ofNat 32 (q / 2 ^ 160)

/-- LOGN 1 to 12 enables a queue. -/
def QEntry.enabled (q : QEntry) : Bool := 1 ≤ q.logn && q.logn ≤ 12

def State.queueAt (s : State) (n : Nat) : Nat := (s.qtb.extractLsb' 16 36).toNat * 65536 + 32 * n

/-- An entry read at its home. A queue whose entry or whose ring lies in a withdrawn range is not enabled (R439; assumption 95). -/
def State.queue (s : State) (n : Nat) : State × QEntry :=
  if s.withdrawnAt (s.queueAt n) then (s, 0)
  else
    let (s, q) := s.readMem (s.queueAt n) 32
    if s.withdrawnAt (QEntry.ring q) then (s, 0) else (s, q)

/-- A function's privileged queue: its lowest-numbered enabled queue with PRIV = 1 (R382). -/
def State.privQueueFrom (s : State) (vf n : Nat) : Nat → State × Option (Nat × QEntry)
  | 0 => (s, none)
  | k + 1 =>
    match s.queue n with
    | (s, q) => if q.enabled && q.priv && q.vf == vf then (s, some (n, q)) else State.privQueueFrom s vf (n + 1) k

def State.privQueue (s : State) (vf : Nat) : State × Option (Nat × QEntry) :=
  if s.qtb.getLsbD 0 then s.privQueueFrom vf 0 256 else (s, none)

/-! ## Registers (R428) -/

/-- Two 32-bit fields of one register. -/
def both (lo hi : W32) : W64 := hi ++ lo

/-- VFS (R372). -/
def Fn.vfs (f : Fn) : W64 := f.weight.setWidth 64 ||| f.ceil.setWidth 64 <<< 8 ||| f.pbud.setWidth 64 <<< 16

/-- VFRZ (R398). -/
def Fn.vfrz (f : Fn) : W64 := (if f.frozen then 1 else 0) ||| f.fcode.setWidth 64 <<< 8

/-- DCAP (R427). -/
def Die.dcap (d : Die) (i : Nat) : W64 :=
  let st := match d.st with | .good => 0 | .inReset => 1 | .withdrawn => 2
  BitVec.ofNat 64 (i + 8 * st + 64 * d.auth.toNat) ||| d.far.setWidth 64 <<< 16 ||| d.cxl0.setWidth 64 <<< 32 |||
    d.cxl1.setWidth 64 <<< 48

def Die.dctl (d : Die) : W64 := BitVec.ofNat 64 (d.resetBit.toNat + 2 * d.withdrawBit.toNat)

/-- The RATE in effect (R432). -/
def Die.readRate (d : Die) : W32 := d.latched.getD d.dtrate

/-- A bind record (R378). -/
def Bind.record (b : Bind) : Nat :=
  1 + 2 * b.commit.toNat + 4 * b.entry + 2 ^ 8 * b.prio + 2 ^ 16 * b.cid + 2 ^ 32 * b.asid + 2 ^ 48 * b.group + 2 ^ 56 * b.tagb +
    2 ^ 64 * b.alcb + 2 ^ 80 * b.alcn + 2 ^ 96 * b.crew + 2 ^ 128 * b.shown + 2 ^ 192 * b.regs

/-- The slot-table view of a core (R378, R82). -/
def State.slotView (s : State) (vf core off : Nat) : W64 :=
  let c := s.core core
  if off < 1536 then
    match lookup c.slots (off / 32) with
    | some b =>
      let mine := match s.ctx b.cid with | some x => x.vf == vf | none => false
      if vf == 0 || mine then BitVec.ofNat 64 (b.record / 2 ^ (8 * (off % 32))) else 0
    | none => 0
  else if off == 1536 && vf == 0 then c.fbUnreach
  else 0

/-- An entry of RSOWN (R416). -/
def State.rsownOf (s : State) (hall slot : Nat) : W32 := (lookup s.rsown (64 * hall + slot)).getD 0

def rsV (r : W32) : Bool := r.getLsbD 0
def rsVf (r : W32) : Nat := (r.extractLsb' 1 6).toNat
def rsCv (r : W32) : Bool := r.getLsbD 7
def rsCid (r : W32) : Nat := (r.extractLsb' 8 16).toNat

/-- The registers of every window. -/
def State.ownRegister (s : State) (vf off : Nat) : State × W64 :=
  let f := s.fn vf
  if off == 0x00 then (s, f.dsr.setWidth 64)
  else if off == 0x08 then (s, f.vfs)
  else if off == 0x10 then (s, f.evhl)
  else if off == 0x18 then (s, f.evdrop)
  else if off == 0x20 then (s, f.hfrb)
  else if off == 0x28 then (s, both f.hfTail f.hfHead)
  else if off == 0x30 then (s, f.herb)
  else if off == 0x38 then (s, both f.heTail f.heHead)
  else if off == 0x40 then (s, f.hcrb)
  else if off == 0x48 then (s, both f.hcTail f.hcHead)
  else if 0x50 ≤ off && off < 0x90 then (s, (f.vfw[(off - 0x50) / 8]?).getD 0)
  else if off == 0x90 then (s, f.evha.setWidth 64)
  else if 0x1000 ≤ off && off < 0x1800 then
    let q := (off - 0x1000) / 8
    match s.queue q with
    | (s, e) => (s, if e.vf == vf then ((lookup s.doorbells q).getD 0).setWidth 64 else 0)
  else if 0x2000 ≤ off && off < 0x2400 then
    let r := s.rsownOf ((off - 0x2000) / 0x200) ((off - 0x2000) % 0x200 / 8)
    (s, if rsV r && rsVf r == vf then r.setWidth 64 else 0)
  else if 0x40000 ≤ off && off < 0x40000 + 0x800 * 384 then
    (s, s.slotView vf ((off - 0x40000) / 0x800) ((off - 0x40000) % 0x800))
  else (s, 0)

/-- The registers of the physical function's window alone. A read of DTOFF latches the effective RATE for the next read of
DTRATE (R432). -/
def State.pfRegister (s : State) (off : Nat) : State × W64 :=
  if off == 0x10000 then (s, s.astb)
  else if off == 0x10008 then (s, s.qtb)
  else if off == 0x10010 then (s, s.hotctl)
  else if off == 0x10018 then (s, s.hotbuf)
  else if off == 0x10020 then (s, s.mgwt)
  else if 0x10028 ≤ off && off < 0x10048 then (s, (s.freeRings[(off - 0x10028) / 8]?).getD 0)
  else if 0x10100 ≤ off && off < 0x10180 then
    let a := (off - 0x10100) / 0x40
    let x := (s.annexes[a]?).getD Annex.reset
    let k := (off - 0x10100) % 0x40 / 8
    (s, if k == 0 then x.mgrb else if k == 1 then x.mgtl.setWidth 64 else if k == 2 then x.mghd.setWidth 64
        else if k == 3 then (s.die (2 + a)).peer.setWidth 64 else 0)
  else if 0x10200 ≤ off && off < 0x10380 then
    let i := (off - 0x10200) / 0x40
    let d := s.die i
    let k := (off - 0x10200) % 0x40 / 8
    if k == 0 then (s, d.dcap i)
    else if k == 1 then (s, d.dctl)
    else if k == 2 then ({ s with dies := s.dies.setIfInBounds i { d with latched := some d.dtrate } }, d.dtoff)
    else if k == 3 then ({ s with dies := s.dies.setIfInBounds i { d with latched := none } }, d.readRate.setWidth 64)
    else if k == 4 then (s, d.cdefl + (Config.deflected i s.time - Config.deflected i d.cdeflAt))
    else if k == 5 then (s, d.cnak)
    else (s, 0)
  else if 0x10400 ≤ off && off < 0x10600 then (s, (s.fn ((off - 0x10400) / 8)).vfs)
  else if 0x10600 ≤ off && off < 0x10800 then (s, (s.fn ((off - 0x10600) / 8)).vfrz)
  else if 0x10800 ≤ off && off < 0x11800 then
    (s, ((s.fn ((off - 0x10800) / 0x40)).vfw[(off - 0x10800) % 0x40 / 8]?).getD 0)
  else if 0x11800 ≤ off && off < 0x11A00 then (s, (s.fn ((off - 0x11800) / 8)).dsr.setWidth 64)
  else if 0x12000 ≤ off && off < 0x12400 then
    (s, (s.rsownOf ((off - 0x12000) / 0x200) ((off - 0x12000) % 0x200 / 8)).setWidth 64)
  else if 0x13000 ≤ off && off < 0x13040 then
    let u := (s.crofts[(off - 0x13000) / 0x20]?).getD Undercroft.reset
    let k := (off - 0x13000) % 0x20 / 8
    (s, if k == 0 then u.cmpwb else if k == 1 then u.rawwb else if k == 2 then u.saved else u.mdBad)
  else (s, 0)

/-- A read of a management window: aligned 8-byte reads reach a register, any other reads 0 (R428). -/
def State.readWindow (s : State) (vf off n : Nat) : State × Nat :=
  if n == 8 && off % 8 == 0 then
    if vf == 0 && 0x10000 ≤ off && off < 0x40000 then
      let (s, x) := s.pfRegister off
      (s, x.toNat)
    else
      let (s, x) := s.ownRegister vf off
      (s, x.toNat)
  else (s, 0)

end Sys2Proof.Machine
end

