-- ==== Sys2Proof/Machine/Memory.lean ====
section
/-! DEFINITION. The core path (R91): what a load, a store and an atomic do at each place (R13, R302 to R306), and the
instructions that use it: SLD, SST (R261), ANCHOR (R26), LD, ST, the line forms, ATOM, ATOMA and PREF (R299 to R307). -/

namespace Sys2Proof.Machine

namespace Env

/-- Send an operation to a home or a bank on the split's behalf; `page` is the lookup page it was translated through. -/
def request (e : Env) (op : ReqOp) (dst : ReqDst) (lanes : Mask) (s : State) (page : Option Nat := none) (after : List Nat := []) : State :=
  s.send fun id => { id := id, page := page, core := e.f.core, cid := e.cid, h := e.h, asid := e.asid, op := op, dst := dst, lanes := lanes,
                     nak := false, again := false, after := after }

/-- A bank operation of the Atrium (R58). -/
def bank (e : Env) (op : ReqOp) (dst : ReqDst) (lanes : Mask) (s : State) (page : Option Nat := none) : State :=
  (e.request op dst lanes s page).push (.atriumBankOperation s.nextReq)

/-- An atomic at its home slice (R97). -/
def atomicAt (e : Env) (op : ReqOp) (dst : ReqDst) (lanes : Mask) (s : State) (page : Option Nat := none) : State :=
  (e.request op dst lanes s page).push (.l2Atomic s.nextReq)

/-- An answer for this destination is on its way. -/
def awaiting (dst : ReqDst) (s : State) : Bool := dst != .drop && s.reqs.any fun r => r.dst == dst

/-- The line joins the frame signature (R99). -/
def sign (e : Env) (ln : Nat) (s : State) : State := e.modFrame s fun fr => { fr with sig := fr.sig ||| sigOf ln }

/-- A read of a line from its home into the L1, unless one is on its way there; with the number of that read. -/
def fill (e : Env) (ln vunit : Nat) (cmp tier : Bool) (s : State) : State × Nat :=
  let op : ReqOp := .read e.f.core e.asid ln vunit true cmp tier e.sp.streaming
  match s.reqs.find? fun r => r.core == e.f.core && r.op == op with
  | some r => (s, r.id)
  | none => ((e.request op .drop 0 s (some vunit)).push (.l2Read s.nextReq), s.nextReq)

/-- A load of bytes that the L1 does not hold waits for the answer of a read of its line; bytes that it holds now keep their value (R49). -/
def awaitFill (e : Env) (dst : ReqDst) (lanes : Mask) (va : W64) (pa n : Nat) (cmp tier : Bool) (s : State) : State :=
  if awaiting dst s then s
  else
    let (s, id) := e.fill (pa / 128) (lookupPage va) cmp tier s
    if dst == .drop then s
    else
      let (x, m) := match findL1 (s.core e.f.core).l1 e.asid (pa / 128) with
        | some y => (y.data, y.valid)
        | none => (0, 0)
      e.request (.load id (pa % 128) n x m) dst lanes s (some (lookupPage va))

/-- The line of an atomic leaves the core's L1 and its texel cache before the atomic is sent (R50 to R52); a fill of the line that is
under way brings the core no copy from before the atomic, so that a later load is ordered after it (R92). -/
def leaveLine (e : Env) (ln : Nat) (s : State) : State :=
  ((s.evictL1 e.f.core e.cid e.h e.asid ln).staleFills e.f.core fun a l => a == e.asid && l == ln).modCore e.f.core fun c =>
    { c with tex := c.tex.filter fun t => !(t.asid == e.asid && t.line == ln) }

/-- `n` bytes at a place that answers at once: all but TYPE memory, an image and the Atrium. A management window answers as R428
gives. A word of the Alcove that an engine has written is old or new until an edge covers it (R95, R117). -/
def readNow (e : Env) (p : Place) (n : Nat) (s : State) : State × Nat :=
  match p with
  | .alcove off =>
    let k := s.core e.f.core
    match k.raced e.cid e.bind.crew (e.alcove.1 + off) n with
    | [] => (s, Mem.readN k.alcove (e.alcove.1 + off) n)
    | l =>
      let (d, s) := s.draw
      (s, Mem.readN (l.zipIdx.foldl (fun m (x : Raced × Nat) =>
        if Config.racesOld d x.2 then Mem.writeN m (4 * x.1.word) 4 x.1.old.toNat else m) k.alcove) (e.alcove.1 + off) n)
  | .host a => (s, Mem.readN s.host a n)
  | .peer port a => (s, Mem.readN s.peer (port * 2 ^ 47 + a) n)
  | .window vf off => s.readWindow vf off n
  | .atrium off => (s, Mem.readN s.atrium off n)
  | .mem _ _ _ _ | .image _ _ => (s, 0)

/-- `n` bytes stored at such a place. A store of 8 aligned bytes to a management window writes a register (R428). -/
def writeNow (e : Env) (p : Place) (n x : Nat) (s : State) : State :=
  match p with
  | .alcove off => e.modCore s fun c =>
    ({ c with alcove := Mem.writeN c.alcove (e.alcove.1 + off) n x } : Core).seen fun y =>
      e.alcove.1 + off < 4 * y.word + 4 && 4 * y.word < e.alcove.1 + off + n
  | .host a => { s with host := Mem.writeN s.host a n x }
  | .peer port a => { s with peer := Mem.writeN s.peer (port * 2 ^ 47 + a) n x }
  | .window vf off => if n == 8 then s.push (.managementRegisterWrite vf off 8 (BitVec.ofNat 64 x)) else s
  | .atrium off => { s with atrium := Mem.writeN s.atrium off n x }
  | .mem _ _ _ _ | .image _ _ => s

/-- A load at a place: the bytes, or none while they are fetched. -/
def loadAt (e : Env) (dst : ReqDst) (lanes : Mask) (va : W64) (n : Nat) (p : Place) (s : State) : State × Option Nat :=
  match p.cached, p with
  | some (pa, cmp, tier), _ =>
    match s.loadL1 e.f.core e.asid (pa / 128) (pa % 128) n with
    | some x => (s, some x)
    | none => (e.awaitFill dst lanes va pa n cmp tier s, none)
  | none, .atrium off =>
    if awaiting dst s then (s, none)
    else (e.bank (.bankLoad off n) dst lanes s (some (lookupPage va)), none)
  | none, _ =>
    let (s, x) := e.readNow p n s
    (s, some x)

/-- A store at a place. -/
def storeAt (e : Env) (va : W64) (n x : Nat) (p : Place) (s : State) : State :=
  match p.cached, p with
  | some (pa, cmp, tier), _ =>
    e.sign (pa / 128) (s.storeL1 e.f.core e.cid e.h e.asid (pa / 128) (lookupPage va) (rangeMask (pa % 128) n)
      (bytesAt (pa % 128) x) cmp tier)
  | none, .atrium off =>
    e.bank (.bankStore off ((List.range n).map fun i => BitVec.ofNat 8 (x / 2 ^ (8 * i)))) .drop 0 s (some (lookupPage va))
  | none, _ => e.writeNow p n x s

/-- An atomic at a place that answers at once: the old value (R305). -/
def atomicNow (e : Env) (p : Place) (n op ty a b : Nat) (s : State) : State × Nat :=
  match p with
  | .window _ _ => (s, 0)
  | _ =>
    let (s, old) := e.readNow p n s
    (e.writeNow p n (alu op ty (8 * n) old a b) s, old)

/-- An atomic at a place: the old value, or none while the answer is under way. With no destination nothing is awaited. -/
def atomicOn (e : Env) (dst : ReqDst) (lanes : Mask) (va : W64) (n op ty a b : Nat) (p : Place) (s : State) : State × Option Nat :=
  let sent (s : State) : State × Option Nat := (s, if dst == .drop then some 0 else none)
  let page := some (lookupPage va)
  if awaiting dst s then (s, none)
  else match p.cached, p with
    | some (pa, cmp, tier), _ =>
      let s := e.sign (pa / 128) (e.leaveLine (pa / 128) s)
      sent (e.atomicAt (.atomic (pa / 128) (pa % 128) (n == 8) op ty (BitVec.ofNat 64 a) (BitVec.ofNat 64 b) cmp tier) dst lanes s page)
    | none, .atrium off => sent (e.bank (.bankAtomic off (n == 8) op ty (BitVec.ofNat 64 a) (BitVec.ofNat 64 b)) dst lanes s page)
    | none, _ =>
      let (s, x) := e.atomicNow p n op ty a b s
      (s, some x)

end Env

/-! ## Sizes and values (R232, R300, R302) -/

/-- Bytes of an access by its SZ. -/
def szBytes (sz : Nat) : Nat := match sz with | 0 | 1 => 1 | 2 | 3 => 2 | 4 => 4 | 5 => 8 | _ => 16

/-- The register words of `n` loaded bytes, the first zero-extended or sign-extended when it is narrower than a lane. -/
def wordsOf (n : Nat) (sgn : Bool) (x : Nat) : List W32 :=
  if n < 4 then [if sgn then BitVec.ofInt 32 (intOf (8 * n) true x) else BitVec.ofNat 32 x]
  else (List.range (n / 4)).map fun j => BitVec.ofNat 32 (x / 2 ^ (32 * j))

/-- Words as a number, the first in the low bits. -/
def ofWords : List W32 → Nat
  | [] => 0
  | w :: l => w.toNat + 2 ^ 32 * ofWords l

/-- The register writes of what lanes received: word j of a lane goes to register r + j. -/
def laneWrites (r : Nat) (tag : BitVec 4) (vals : List (Nat × List W32)) (words : Nat) : List RegWrite :=
  (List.range words).map fun j =>
    .vec (r + j) (maskOf (vals.map (·.1)))
      (lanesBy fun l => match lookup vals l with
        | some ws => (ws[j]?).getD 0
        | none => 0) tag

/-- An answer for a split at work: its register writes arrive with the split's other results (R243), and the units it
completes are no longer unfinished. A split of another frame that stands there now is not concerned. -/
def State.deliver (s : State) (r : Req) (f : Focus) (units : Mask) (ws : List RegWrite) : State :=
  match Env.of s f with
  | none => s
  | some e =>
    if e.cid != r.cid || e.h != r.h then s
    else e.modSplit (if ws.isEmpty then s else e.gather ws s) fun sp =>
      { sp with unfinished := sp.unfinished.map fun u => u &&& ~~~units, asleep := if sp.wait == .access then false else sp.asleep }

/-- The answer of a request goes to its destination. -/
def State.answer (s : State) (r : Req) (x : Nat) : State :=
  match r.dst with
  | .drop | .frame _ _ | .split _ | .copy _ => s
  | .vecLane f reg l size sgn tag =>
    s.deliver r f r.lanes (laneWrites reg tag [(l, wordsOf size sgn x)] (max 1 (size / 4)))
  | .vecLine f reg first words mask tag =>
    let ws := [RegWrite.vec reg (maskOf ((List.range words).map (first + ·)) &&& mask)
      (lanesBy fun l => BitVec.ofNat 32 (x / 2 ^ (32 * (l - first)))) tag]
    let more := s.reqs.any fun q => q.id != r.id && q.lanes == r.lanes && match q.dst with
      | .vecLine f' _ _ _ _ _ => f' == f
      | _ => false
    s.deliver r f (if more then 0 else r.lanes) ws
  | .uni f reg size sgn =>
    s.deliver r f r.lanes (((wordsOf size sgn x).zip (List.range 4)).map fun (w, j) => .uni (reg + j) w)

/-! ## Scalar accesses (R261) -/

def Env.scalarAddr (e : Env) (b : UBody) : W64 := e.u64 b.sa + b.imm.signExtend 64

def execSld (h : Hdr) (b : UBody) : State → Host.Outcome State Fault Refusal :=
  issueWith (.sld h b) h noTags fun e =>
    let n := szBytes h.sub.toNat
    let sgn := h.sub == 1#6 || h.sub == 3#6
    let va := e.scalarAddr b
    e.access 1 .load .any n n 1 (fun _ => .va va)
      (fun _ p s => match e.loadAt (.uni e.f b.sd.toNat n sgn) 1 va n p s with
        | (s, some x) => .done s (wordsOf n sgn x)
        | (s, none) => .pending s)
      (fun vals s => vals.foldl (fun s v => e.gather ((v.2.zip (List.range 4)).map fun (w, j) => .uni (b.sd.toNat + j) w) s) s) e.s

def execSst (h : Hdr) (b : UBody) : State → Host.Outcome State Fault Refusal :=
  issueWith (.sst h b) h noTags fun e =>
    let n := szBytes h.sub.toNat
    let va := e.scalarAddr b
    let x := (if h.sub == 5#6 then (e.u64 b.sb).toNat else (e.u b.sb).toNat) % 2 ^ (8 * n)
    e.access 1 .store .any n n 1 (fun _ => .va va) (fun _ p s => .done (e.storeAt va n x p s) []) (fun _ s => s) e.s

/-! ## ANCHOR (R26) -/

/-- The bytes from an address to the end of its translation. -/
def TlbEnt.left (t : TlbEnt) (va : W64) : Nat := 2 ^ t.size - va.toNat % 2 ^ t.size

/-- The anchor that a base and a length give: VALID where a leaf maps the base for this function, else STALE. Its walk is performed at once, within
the instruction, and takes no place in the miss table (assumption 20). -/
def Env.newAnchor (e : Env) (va : W64) (len : Nat) (s : State) : State × Anchor :=
  let stale : Anchor := ⟨.stale, va, 0, 0, 0⟩
  if inAlcove va || upperHalf va then (s, stale)
  else
    let use (s : State) (t : TlbEnt) : State × Anchor :=
      if leafType t.leaf == 3 || (leafType t.leaf == 0 && (!s.inWindow e.vf (t.pa va) || s.withdrawnAt (t.pa va))) then (s, stale)
      else (s, ⟨.valid, va, BitVec.ofNat 52 (t.pa va), BitVec.ofNat 32 (min len (t.left va)), attrOf t.leaf⟩)
    match (s.core e.f.core).findTlb e.asid va with
    | some t => use s t
    | none =>
      match s.walk (some e.f.core) e.asid va with
      | (s, .leaf t) => use (s.modCore e.f.core fun c => c.install t) t
      | (s, .fault _) => (s, stale)

/-- R26: a non-canonical base traps; a missing or forbidding translation leaves the anchor STALE. -/
def execAnchor (h : Hdr) (b : AnchorBody) : State → Host.Outcome State Fault Refusal :=
  issueWith (.anchor h b) h noTags fun e =>
    let va := e.u64 b.n
    if !canonical va then .bad .nonCanonical e.s
    else
      let (s, a) := e.newAnchor va (if h.sub == 0#6 then (e.u b.m).toNat else b.len.toNat) e.s
      .ok (e.later [.anchor b.k.toNat a] s)

/-! ## Addresses of the M format (R232) -/

/-- The offset of a lane: vX under the tag rule of R27, plus IMM. -/
def Env.laneOffset (e : Env) (b : MBody) (l : Nat) : Int :=
  (if b.xv then
    let x := e.vl b.mx l
    if (e.v b.mx).tag == 1#4 then x.toInt else (x.toNat : Int)
  else 0) + b.imm.toInt

def Env.laneAddr (e : Env) (b : MBody) (l : Nat) : Addr :=
  match b.am.toNat with
  | 0 => .anchored b.mb.toNat (e.laneOffset b l)
  | 1 => .alcove (e.laneOffset b l)
  | _ => .va (e.u64 b.ms + BitVec.ofInt 64 (e.laneOffset b l))

/-- The tag check of the lane offset register. -/
def offsetTags (b : MBody) : List (Nat × (BitVec 4 → Bool)) := if b.xv then [(b.mx.toNat, indexTag)] else []

/-- The result tag of a load (R300). -/
def loadTag (b : MBody) : BitVec 4 :=
  match b.sz.toNat with | 0 | 2 => 2#4 | 1 | 3 => 1#4 | _ => b.mop

/-! ## LD and ST (R302) -/

def execLd (h : Hdr) (b : MBody) : State → Host.Outcome State Fault Refusal :=
  issueWith (.ld h b) h (fun e => e.tagsOk (offsetTags b)) fun e =>
    let n := szBytes b.sz.toNat
    let sgn := b.sz == 1#4 || b.sz == 3#4
    e.access (e.g h) .load .any n n 0 (e.laneAddr b)
      (fun l p s => match e.loadAt (.vecLane e.f b.md.toNat l n sgn (loadTag b)) (BitVec.twoPow 32 l) (e.vaOf (e.laneAddr b l)) n p s with
        | (s, some x) => .done s (wordsOf n sgn x)
        | (s, none) => .pending s)
      (fun vals s => e.gather (laneWrites b.md.toNat (loadTag b) vals (max 1 (n / 4))) s) e.s (laneWrites b.md.toNat (loadTag b) [] (max 1 (n / 4)))

/-- The data registers of a store from a register. -/
def Env.laneData (e : Env) (r : BitVec 8) (n l : Nat) : Nat :=
  ofWords ((List.range (max 1 (n / 4))).map fun j => lane (e.group.vreg (r.toNat + j)).lanes l) % 2 ^ (8 * n)

def dataTags (r : BitVec 8) (n : Nat) : List (Nat × (BitVec 4 → Bool)) := (List.range n).map fun j => (r.toNat + j, anyTag)

def execSt (h : Hdr) (b : MBody) : State → Host.Outcome State Fault Refusal :=
  issueWith (.st h b) h (fun e => e.tagsOk (offsetTags b ++ dataTags b.md (szRegs b))) fun e =>
    let n := szBytes b.sz.toNat
    e.access (e.g h) .store .any n n 0 (e.laneAddr b)
      (fun l p s => .done (e.storeAt (e.vaOf (e.laneAddr b l)) n (e.laneData b.md n l) p s) []) (fun _ s => s) e.s

/-! ## Line forms (R304) -/

/-- The lines of a block, as the units of R31. -/
def linesOf (b : MBody) : Mask := maskOf (List.range (b.mc.toNat + 1))

/-- The address of line j. LDA and STA name a single offset register, read unsigned. -/
def Env.lineAddr (e : Env) (b : MBody) (j : Nat) : Addr :=
  let off : Int := b.imm.toInt + ((128 * j : Nat) : Int)
  match b.am.toNat with
  | 0 => .anchored b.mb.toNat off
  | 1 => .alcove (((e.u b.ms).toNat : Int) + off)
  | _ => .va (e.u64 b.ms + BitVec.ofInt 64 off)

/-- The Atrium offset of the `o`th byte of a line whose first byte lies at `off`: the second row of a line may lie in the next page,
with a translation of its own. -/
def Env.rowOff (e : Env) (kind : Kind) (va : W64) (off o : Nat) (s : State) : Nat :=
  let a := va + BitVec.ofNat 64 o
  if lookupPage a == lookupPage va then off + o
  else match e.lookupVa s kind ⟨[1], some .aperture, false⟩ a with
    | .ok (.atrium x) => x
    | _ => off + o

/-- A line of a load: an Atrium line is eight bank operations of 16 bytes. -/
def Env.loadLine (e : Env) (b : MBody) (g : Mask) (j : Nat) (p : Place) (s : State) : Did :=
  match p with
  | .atrium off =>
    let dst (k : Nat) : ReqDst := .vecLine e.f (b.md.toNat + j) (4 * k) 4 g b.mop
    if (List.range 8).any fun k => Env.awaiting (dst k) s then .pending s
    else
      let va := e.vaOf (e.lineAddr b j)
      .pending ((List.range 8).foldl (fun s k =>
        e.bank (.bankLoad (e.rowOff .load va off (16 * k) s) 16) (dst k) (BitVec.twoPow 32 j) s (some (lookupPage (va + BitVec.ofNat 64 (16 * k))))) s)
  | _ =>
    match e.loadAt (.vecLine e.f (b.md.toNat + j) 0 32 g b.mop) (BitVec.twoPow 32 j) (e.vaOf (e.lineAddr b j)) 128 p s with
    | (s, some x) => .done s ((List.range 32).map fun l => BitVec.ofNat 32 (x / 2 ^ (32 * l)))
    | (s, none) => .pending s

def Env.lineWrites (b : MBody) (g : Mask) (vals : List (Nat × List W32)) : List RegWrite :=
  vals.map fun (j, ws) => .vec (b.md.toNat + j) g (lanesBy fun l => (ws[l]?).getD 0) b.mop

/-- The bytes of the lanes of g in a line. -/
def laneBytes (g : Mask) : ByteMask := (lanesOf g).foldl (fun m l => m ||| rangeMask (4 * l) 4) 0

/-- A line of a store: the bytes of the lanes of g. -/
def Env.storeLine (e : Env) (b : MBody) (g : Mask) (j : Nat) (p : Place) (s : State) : State :=
  let v := (e.group.vreg (b.md.toNat + j)).lanes
  let va := e.vaOf (e.lineAddr b j)
  match p.cached, p with
  | some (pa, cmp, tier), _ =>
    let x := BitVec.ofNat 1024 (ofWords v.toList)
    e.sign (pa / 128) (s.storeL1 e.f.core e.cid e.h e.asid (pa / 128) (lookupPage va) (laneBytes g) x cmp tier)
  | none, .window _ _ => s
  | none, .atrium off =>
    (List.range 8).foldl (fun s k =>
      let ls := (List.range 4).map (4 * k + ·)
      let put (n o x : Nat) (s : State) : State := e.storeAt (va + BitVec.ofNat 64 o) n x (.atrium (e.rowOff .store va off o s)) s
      if ls.all g.getLsbD then put 16 (16 * k) (ofWords (ls.map (lane v ·))) s
      else ls.foldl (fun s l => if g.getLsbD l then put 4 (4 * l) (lane v l).toNat s else s) s) s
  | none, .alcove off => (lanesOf g).foldl (fun s l => e.writeNow (.alcove (off + 4 * l)) 4 (lane v l).toNat s) s
  | none, .host a => (lanesOf g).foldl (fun s l => e.writeNow (.host (a + 4 * l)) 4 (lane v l).toNat s) s
  | none, .peer port a => (lanesOf g).foldl (fun s l => e.writeNow (.peer port (a + 4 * l)) 4 (lane v l).toNat s) s
  | none, _ => s

def lineLoad (i : Instr) (h : Hdr) (b : MBody) (acc : Accept) (align : Nat) : State → Host.Outcome State Fault Refusal :=
  issueWith i h noTags fun e =>
    e.access (linesOf b) .load acc 128 align 0 (e.lineAddr b) (e.loadLine b (e.g h))
      (fun vals s => e.gather (Env.lineWrites b (e.g h) vals) s) e.s (Env.lineWrites b 0 ((List.range (b.mc.toNat + 1)).map fun j => (j, [])))

def lineStore (i : Instr) (h : Hdr) (b : MBody) (acc : Accept) (align : Nat) : State → Host.Outcome State Fault Refusal :=
  issueWith i h (fun e => e.tagsOk (dataTags b.md (b.mc.toNat + 1))) fun e =>
    e.access (linesOf b) .store acc 128 align 0 (e.lineAddr b)
      (fun j p s => .done (e.storeLine b (e.g h) j p s) []) (fun _ s => s) e.s

/-- Any aperture except the Alcove, which takes ALCOVE_RANGE. -/
def Accept.noAlcove : Accept := ⟨[0, 1, 2], some .alcoveRange, true⟩

/-- A page of TYPE Atrium; any other address takes APERTURE. -/
def Accept.atrium : Accept := ⟨[1], some .aperture, false⟩

def execLdx (h : Hdr) (b : MBody) : State → Host.Outcome State Fault Refusal := lineLoad (.ldx h b) h b .noAlcove 128
def execStx (h : Hdr) (b : MBody) : State → Host.Outcome State Fault Refusal := lineStore (.stx h b) h b .noAlcove 128
def execLda (h : Hdr) (b : MBody) : State → Host.Outcome State Fault Refusal := lineLoad (.lda h b) h b .any 4
def execSta (h : Hdr) (b : MBody) : State → Host.Outcome State Fault Refusal := lineStore (.sta h b) h b .any 4
def execLdat (h : Hdr) (b : MBody) : State → Host.Outcome State Fault Refusal := lineLoad (.ldat h b) h b .atrium 64
def execStat (h : Hdr) (b : MBody) : State → Host.Outcome State Fault Refusal := lineStore (.stat h b) h b .atrium 64

/-! ## Atomics (R305, R306) -/

/-- The operand types of R56 as the format tags of R203: I32, N32 with ADDR, F32, BF16P, and any. -/
def atomAccepts (mp : Nat) (t : BitVec 4) : Bool :=
  match mp with
  | 0 => t == 1#4
  | 1 => t == 2#4 || t == 14#4
  | 2 => t == 3#4
  | 3 => t == 4#4
  | _ => anyTag t

/-- The result tag: that of the type, RAW for b32 and b64. -/
def atomTag (mp : Nat) : BitVec 4 := if mp == 4 then 0#4 else BitVec.ofNat 4 (mp + 1)

def atomTags (b : MBody) : List (Nat × (BitVec 4 → Bool)) :=
  offsetTags b ++ (atomOps b).map fun r => (r, atomAccepts b.mp.toNat)

/-- ATOM, with the old value returned or not: lanes in ascending order, each once. -/
def atomic (i : Instr) (h : Hdr) (b : MBody) (ret : Bool) : State → Host.Outcome State Fault Refusal :=
  issueWith i h (fun e => e.tagsOk (atomTags b)) fun e =>
    let n := szBytes b.sz.toNat
    let k := n / 4
    let opnd (l j : Nat) : Nat := ofWords ((List.range k).map fun w => lane (e.group.vreg (b.mc.toNat + j * k + w)).lanes l)
    e.access (e.g h) .atomic .any n n 0 (e.laneAddr b)
      (fun l p s =>
        let dst := if ret then .vecLane e.f b.md.toNat l n false (atomTag b.mp.toNat) else .drop
        match e.atomicOn dst (BitVec.twoPow 32 l) (e.vaOf (e.laneAddr b l)) n b.mop.toNat b.mp.toNat (opnd l 0) (opnd l 1) p s with
        | (s, some x) => .done s (if ret then wordsOf n false x else [])
        | (s, none) => .pending s)
      (fun vals s => if ret then e.gather (laneWrites b.md.toNat (atomTag b.mp.toNat) vals k) s else s) e.s
      (if ret then laneWrites b.md.toNat (atomTag b.mp.toNat) [] k else [])

def execAtom (h : Hdr) (b : MBody) : State → Host.Outcome State Fault Refusal := atomic (.atom h b) h b true
def execAtomNr (h : Hdr) (b : MBody) : State → Host.Outcome State Fault Refusal := atomic (.atomNr h b) h b false

/-- The identity of an operation of ATOMA, which a lane outside g contributes (R306). -/
def identityOf (op ty : Nat) : W32 :=
  match op, ty with
  | 0, 2 => 0x80000000
  | 0, 3 => 0x80008000
  | 1, 0 => 0x7FFFFFFF
  | 1, 1 => 0xFFFFFFFF
  | 1, 2 => 0x7F800000
  | 1, 3 => 0x7F807F80
  | 2, 0 => 0x80000000
  | 2, 2 => 0xFF800000
  | 2, 3 => 0xFF80FF80
  | _, _ => 0

/-- R306: two rows, each one bank operation; a row with no lane of g is not sent. Its operand is tag-agnostic (R300). -/
def execAtoma (h : Hdr) (b : MBody) : State → Host.Outcome State Fault Refusal :=
  issueWith (.atoma h b) h (fun e => e.tagsOk [(b.mc.toNat, anyTag)]) fun e =>
    let g := e.g h
    let rows := (List.range 2).filter fun r => g.extractLsb' (16 * r) 16 != 0#16
    let addr (r : Nat) : Addr := .va (e.u64 b.ms + BitVec.ofInt 64 (b.imm.toInt + ((64 * r : Nat) : Int)))
    let operand (r : Nat) : Nat := ofWords ((List.range 16).map fun k =>
      if g.getLsbD (16 * r + k) then e.vl b.mc (16 * r + k) else identityOf b.mop.toNat b.mp.toNat)
    e.access (maskOf rows) .atomic .atrium 64 64 0 addr
      (fun r p s => match p with
        | .atrium off =>
          .done (e.bank (.bankLine off b.mop.toNat b.mp.toNat (BitVec.ofNat 512 (operand r))) .drop 0 s (some (lookupPage (e.vaOf (addr r))))) []
        | _ => .done s []) (fun _ s => s) e.s

/-! ## Prefetch (R307) -/

/-- The request of one lane: its line of TYPE memory or of an image. -/
def Env.prefetchAt (e : Env) (l1 : Bool) (va : W64) (p : Place) (s : State) : State :=
  match p.cached with
  | none => s
  | some (pa, cmp, tier) =>
    if !l1 then (e.request (.prefetch (pa / 128) tier) .drop 0 s (some (lookupPage va))).push (.l2Read s.nextReq)
    else if (s.loadL1 e.f.core e.asid (pa / 128) 0 128).isSome then s
    else (e.fill (pa / 128) (lookupPage va) cmp tier s).1

/-- One lane of a prefetch, with the lanes whose walks are under way (R29). A lane that may not read, or names no such line, is
dropped. -/
def Env.prefetch (e : Env) (b : MBody) (l1 : Bool) (p : State × List Nat) (l : Nat) : State × List Nat :=
  let a := e.laneAddr b l
  let va := e.vaOf a
  if (e.early .any 1 1 a).isSome || (lookup e.sp.badPages (lookupPage va)).isSome then p
  else match e.lookupAddr p.1 1 .load .any a with
    | .ok x => (e.prefetchAt l1 va x p.1, p.2)
    | .miss page => (e.requestWalk page p.1, p.2 ++ [l])
    | .fault _ => p

/-- R307: the lanes of g, each once its walk is over. -/
def pref (i : Instr) (h : Hdr) (b : MBody) (l1 : Bool) : State → Host.Outcome State Fault Refusal :=
  issueWith i h (fun e => e.tagsOk (offsetTags b)) fun e =>
    let r := (lanesOf ((e.sp.unfinished.getD (e.g h)) &&& e.g h)).foldl (e.prefetch b l1) (e.s, [])
    if r.2.isEmpty then .ok r.1
    else .stay (e.modSplit r.1 fun sp => { sp with unfinished := some (maskOf r.2), wait := .access, asleep := true })

def execPrefL1 (h : Hdr) (b : MBody) : State → Host.Outcome State Fault Refusal := pref (.prefL1 h b) h b true
def execPrefL2 (h : Hdr) (b : MBody) : State → Host.Outcome State Fault Refusal := pref (.prefL2 h b) h b false

end Sys2Proof.Machine
end

