-- ==== Sys2Proof/Machine/Barrier.lean ====
section
/-! DEFINITION. Arrival barriers (R157 to R161, R316, R473), flights (R162 to R164, R113, R317) and the Banister (R318,
R319, R112). -/

namespace Sys2Proof.Machine

/-! ## Waking -/

def Wait.isTread : Wait → Bool
  | .tread _ => true
  | .stalled => true
  | _ => false

def Wait.isBanister : Wait → Bool
  | .banister _ _ => true
  | .stalled => true
  | _ => false

/-! ## Barrier objects (R157, R158) -/

structure Bar where
  owed : Nat
  landed : Nat
  arrived : Nat
  quorum : Nat
  phase : Nat
  trapov : Bool
  overrun : Bool
  broken : Bool
  excess : Nat
  deriving DecidableEq, Repr

def State.bytesOf (s : State) (p : BarPlace) (o n : Nat) : Nat :=
  match p with
  | .alcove c a => Mem.readN (s.core c).alcove (a + o) n
  | .atrium a => Mem.readN s.atrium (a + o) n

def State.putBytes (s : State) (p : BarPlace) (o n x : Nat) : State :=
  match p with
  | .alcove c a => s.modCore c fun k => { k with alcove := Mem.writeN k.alcove (a + o) n x }
  | .atrium a => { s with atrium := Mem.writeN s.atrium (a + o) n x }

def State.bar (s : State) (p : BarPlace) : Bar :=
  let x := s.bytesOf p 0 20
  { owed := x % 2 ^ 32, landed := x / 2 ^ 32 % 2 ^ 32, arrived := x / 2 ^ 64 % 2 ^ 16, quorum := x / 2 ^ 80 % 2 ^ 16,
    phase := x / 2 ^ 96 % 2 ^ 16, trapov := x / 2 ^ 112 % 2 == 1, overrun := x / 2 ^ 113 % 2 == 1, broken := x / 2 ^ 114 % 2 == 1,
    excess := x / 2 ^ 128 % 2 ^ 32 }

def Bar.num (b : Bar) : Nat :=
  b.owed + 2 ^ 32 * b.landed + 2 ^ 64 * b.arrived + 2 ^ 80 * b.quorum + 2 ^ 96 * b.phase + 2 ^ 112 * b.trapov.toNat +
    2 ^ 113 * b.overrun.toNat + 2 ^ 114 * b.broken.toNat + 2 ^ 128 * b.excess

/-- An operation on a barrier is performed whole; those that wait on a barrier look again. -/
def State.setBar (s : State) (p : BarPlace) (b : Bar) : State := (s.putBytes p 0 20 b.num).wakeAll (· == .barrier)

namespace Bar

def overran (b : Bar) (k : Nat) : Bar := { b with excess := min (b.excess + k) 0xFFFFFFFF, overrun := true }

def check (b : Bar) : Bar :=
  if b.landed == b.owed && b.arrived == b.quorum then { b with phase := (b.phase + 1) % 65536, owed := 0, landed := 0, arrived := 0 }
  else b

/-- Expect, Arrive and Credit of R158, each with whether it overran. -/
def expect (b : Bar) (n : Nat) : Bar × Bool :=
  if b.broken then (b, false)
  else if 0xFFFFFFFF < b.owed + n then ({ b.overran (b.owed + n - 0xFFFFFFFF) with owed := 0xFFFFFFFF }, true)
  else ({ b with owed := b.owed + n }, false)

def arrive (b : Bar) : Bar × Bool :=
  if b.broken then (b, false)
  else if b.arrived == b.quorum then ((b.overran 1).check, true)
  else ({ b with arrived := b.arrived + 1 }.check, false)

def credit (b : Bar) (n bphase : Nat) : Bar × Bool :=
  if b.broken then (b, false)
  else if bphase != b.phase then (b.overran n, true)
  else
    let room := b.owed - b.landed
    if room < n then ({ b.overran (n - room) with landed := b.landed + room }.check, true)
    else ({ b with landed := b.landed + n }.check, false)

/-- The result word of R316. -/
def word (b : Bar) (bit18 : Bool) : W32 :=
  BitVec.ofNat 32 (b.phase + 2 ^ 16 * b.overrun.toNat + 2 ^ 17 * b.broken.toNat + 2 ^ 18 * bit18.toNat)

end Bar

/-! ## Signature blocks (R98, R116) -/

/-- The context that owns the signature in an Atrium block; 0 where several have written it, so that every acquire of it
takes it as all ones (R100). -/
def State.claimSig (s : State) (off cid : Nat) : State :=
  match lookup s.sigOwner off with
  | some c => if c == cid then s else { s with sigOwner := insert s.sigOwner off 0 }
  | none => { s with sigOwner := insert s.sigOwner off cid }

/-- OR a signature into the 256-byte block of a barrier in an Alcove, at offset o: one operation (R116). -/
def State.orSig (s : State) (p : BarPlace) (o : Nat) (σ : SigBits) : State := s.putBytes p o 256 (s.bytesOf p o 256 ||| σ.toNat)

/-- A signature goes to the 256-byte block at offset o of an object in the Atrium, in four line ORs, which are separate operations of its
bank (R58); with their numbers, which are consecutive. -/
def State.sendSig (s : State) (core cid h asid : Nat) (dst : ReqDst) (a o : Nat) (σ : SigBits) : State × List Nat :=
  let row (k : Nat) : ReqOp := .bankLine (a + o + 64 * k) 4 4 (σ.extractLsb' (512 * k) 512)
  ((List.range 4).foldl (fun s k =>
    (s.send fun id => { id := id, page := none, core := core, cid := cid, h := h, asid := asid, op := row k, dst := dst, lanes := 0, nak := false,
                        again := false }).push (.atriumBankOperation s.nextReq)) (s.claimSig a cid),
    (List.range 4).map (s.nextReq + ·))

def State.blockOf (s : State) (p : BarPlace) (o cid : Nat) : Nat × SigBits :=
  let owner := match p with
    | .atrium a => (lookup s.sigOwner a).getD 0
    | .alcove _ _ => cid
  (owner, BitVec.ofNat 2048 (s.bytesOf p o 256))

/-! ## A barrier's address (R312, R316, R473) -/

/-- Steps 3 to 6 of R312 for a barrier address. -/
def Env.barCheck (e : Env) (va : W64) : Option FaultCode :=
  if !canonical va then some .nonCanonical
  else if upperHalf va then some .aperture
  else if inAlcove va && e.alcove.2 < va.toNat - alcoveBase.toNat + 320 then some .alcoveRange
  else if va.toNat % 64 != 0 then some .misaligned
  else none

/-- A fault of a uniform operand met at issue: a replayable one parks the split with an empty mask and SRC 1. -/
def Env.issueFault (e : Env) (k : Kind) (c : FaultCode) (va : W64) (s : State) : Perf :=
  if c == .vfViolation then .stay (e.violate va 0 s)
  else if c.replayable then .stay (e.modSplit (e.park k 1 0 [⟨0, lookupPage va, c, va⟩] s) fun sp => { sp with unfinished := none })
  else .trap { code := c, fva := va &&& 0x01FFFFFFFFFFFFFF } s

/-- The split tries its instruction again when something comes in; a wait that the instruction goes on with is kept. -/
def Env.again (e : Env) (s : State) : Perf :=
  e.hold (match e.sp.wait with
    | .future l => .future l
    | .request id => .request id
    | _ => .access) s

/-- The place of a barrier whose address has passed its checks; an Atrium row with an operation of this core still under
way is waited for. Its walk is performed at once, without a place in the miss table (assumption 20). The 320 bytes of a barrier in the Atrium
are found by the page of the first: those past the end of the page lie at the following Atrium offsets (assumption 93). -/
def Env.barPlace (e : Env) (va : W64) (s : State) : Except Perf (State × BarPlace) :=
  if inAlcove va then .ok (s, .alcove e.f.core (e.alcove.1 + (va.toNat - alcoveBase.toNat)))
  else match e.translate s .atomic .atrium va with
    | (s, .fault c) => .error (e.issueFault .atomic c va s)
    | (s, .ok (.atrium off)) =>
      if s.reqs.any fun r => r.core == e.f.core && r.op.row == some (off / 64) then .error (e.again s)
      else .ok (s, .atrium off)
    | (s, _) => .error (.bad .aperture s)

/-- A barrier instruction: the address checked, then its operation. -/
def barrierOp (i : Instr) (h : Hdr) (b : ABody) (legal : Env → Bool) (op : Env → BarPlace → State → Perf) :
    State → Host.Outcome State Fault Refusal :=
  issueWith i h noTags fun e =>
    let va := e.u64 b.ba
    if !legal e then .bad .illegalOpcode e.s
    else match e.barCheck va with
      | some c => .trap { code := c, fva := va &&& 0x01FFFFFFFFFFFFFF } e.s
      | none =>
        match e.barPlace va e.s with
        | .error p => p
        | .ok (s, p) => op e p s

/-- The result of a barrier form, written when SE = 1. -/
def Env.status (e : Env) (b : ABody) (x : W32) (s : State) : State := if b.se then e.later [.uni b.st.toNat x] s else s

/-- R316, R158: the barrier's state is set and its signature block cleared. -/
def execAbinit (h : Hdr) (b : ABody) : State → Host.Outcome State Fault Refusal :=
  let count (e : Env) : Nat := if h.sub.getLsbD 1 then (b.ai.extractLsb' 0 16).toNat else (e.u b.al).toNat % 65536
  barrierOp (.abinit h b) h b (fun e => count e != 0) fun e p s =>
    let s := (s.putBytes p 20 44 0).putBytes p 64 256 0
    let s := match p with
      | .atrium a => { s with sigOwner := insert s.sigOwner a e.cid }
      | .alcove _ _ => s
    .ok (s.setBar p ⟨0, 0, 0, count e, 0, h.sub.getLsbD 0, false, false, 0⟩)

/-- R316: a BARRIER_OVERRUN is taken after the operation. -/
def execAbexp (h : Hdr) (b : ABody) : State → Host.Outcome State Fault Refusal :=
  barrierOp (.abexp h b) h b (fun _ => true) fun e p s =>
    let (x, ov) := (s.bar p).expect (if h.sub.getLsbD 1 then b.ai.toNat else (e.u b.al).toNat)
    let s := s.setBar p x
    if ov && x.trapov then .bad .barrierOverrun s else .ok s

/-- The arrival of ABARR. -/
def Env.arriveAt (e : Env) (b : ABody) (p : BarPlace) (s : State) : Perf :=
  let before := s.bar p
  let (x, ov) := before.arrive
  let s := s.setBar p x
  if ov && x.trapov then .bad .barrierOverrun s
  else .ok (e.status b ({ x with phase := before.phase }.word false) s)

/-- R316, R116: release, the OR into the block, then the arrival: for a barrier in the Atrium once its line ORs have been acknowledged. -/
def execAbarr (h : Hdr) (b : ABody) : State → Host.Outcome State Fault Refusal :=
  barrierOp (.abarr h b) h b (fun _ => true) fun e p s =>
    match e.sp.wait, p with
    | .request id, _ => if (List.range 4).any fun k => (s.req (id - k)).isSome then e.hold (.request id) s else e.arriveAt b p s
    | _, .alcove _ _ => e.withRelease s fun s => e.arriveAt b p (s.orSig p 64 e.fr.sig)
    | _, .atrium a => e.withRelease s fun s =>
      let (s, _) := s.sendSig e.f.core e.cid e.h e.asid (.split e.f) a 64 e.fr.sig
      e.hold (.request (s.nextReq - 1)) s

/-- Whether a barrier reports completion for a token. -/
def Bar.passed (x : Bar) (token : Nat) : Bool := x.phase != token || x.broken

/-- The wait of R158; completing, it acquires the block (R115). -/
def execAbwait (h : Hdr) (b : ABody) : State → Host.Outcome State Fault Refusal :=
  barrierOp (.abwait h b) h b (fun _ => true) fun e p s =>
    let x := s.bar p
    if x.passed ((e.u b.al).toNat % 65536) then
      let (owner, σ) := s.blockOf p 64 e.cid
      .ok (e.status b (x.word true) (s.acquire e.f.core e.cid e.h owner σ))
    else e.hold .barrier s

def execAbtest (h : Hdr) (b : ABody) : State → Host.Outcome State Fault Refusal :=
  barrierOp (.abtest h b) h b (fun _ => true) fun e p s =>
    let x := s.bar p
    let pass := x.passed ((e.u b.al).toNat % 65536)
    let (owner, σ) := s.blockOf p 64 e.cid
    .ok (e.status b (x.word pass) (if pass then e.edge (s.acquire e.f.core e.cid e.h owner σ) else s))

/-! ## Flights (R162 to R164, R317) -/

/-- The flight an instruction names: its Alcove offset in the allocation. NT outside its list traps. -/
def Env.flight (e : Env) (b : ABody) : Except FaultCode Nat :=
  let va := e.u64 b.asrc
  if !canonical va then .error .nonCanonical
  else if !inAlcove va then .error .aperture
  else
    let off := va.toNat - alcoveBase.toNat
    if e.alcove.2 < off + 16 then .error .alcoveRange
    else if off % 64 != 0 then .error .misaligned
    else
      let nt := Mem.readN (e.s.core e.f.core).alcove (e.alcove.1 + off + 8) 1 % 64
      if !([1, 2, 4, 8, 16, 32] : List Nat).contains nt then .error .illegalOpcode
      else if e.alcove.2 < off + 16 + 4 * nt then .error .alcoveRange
      else .ok off

/-- The flight's tread of a position: its byte in the Alcove and the expected phase. -/
def Env.tread (e : Env) (s : State) (off pos : Nat) : Nat × Nat :=
  let at_ := e.alcove.1 + off
  let nt := Mem.readN (s.core e.f.core).alcove (at_ + 8) 1 % 64
  (at_ + 16 + 4 * (pos % nt), pos / nt % 2)

/-- A tread word: FULL, PHASE, HOLDER and USER. -/
def treadWord (full phase holder user : Nat) : Nat := full + 2 * phase + 256 * holder + 65536 * user

/-- The flight signature, created empty (R113). -/
def Crew.flightSig (c : Crew) (off : Nat) : SigBits := (lookup c.flights off).getD 0

def Env.flightSig (e : Env) (s : State) (off : Nat) : SigBits :=
  match s.ctx e.cid with
  | some c => match c.crew e.bind.crew with
    | some k => k.flightSig off
    | none => 0
  | none => 0

def Env.alcoveWord (e : Env) (s : State) (a : Nat) : Nat := Mem.readN (s.core e.f.core).alcove a 4

def Env.setAlcoveWord (e : Env) (a x : Nat) (s : State) : State :=
  e.modCore s fun c => { c with alcove := Mem.writeN c.alcove a 4 x }

/-- FLACQ (R163): take a position, then wait for its tread. -/
def flacq (i : Instr) (h : Hdr) (b : ABody) (consumer : Bool) : State → Host.Outcome State Fault Refusal :=
  issueWith i h noTags fun e =>
    match e.flight b with
    | .error c => .bad c e.s
    | .ok off =>
      let ctr := e.alcove.1 + off + (if consumer then 4 else 0)
      let go (s : State) (k : Nat) : Perf :=
        let (t, ph) := e.tread s off k
        let w := e.alcoveWord s t
        if (w % 2 == 1) == consumer && w / 2 % 2 == ph then
          let s := e.setAlcoveWord t (treadWord (w % 2) ph e.f.slot (w / 65536)) s
          let σ := e.flightSig s off
          let s := e.modGroup s fun g => { g with resv := g.resv.map fun (r : Reservation) =>
            if r.flight == off && r.pos == k && r.consumer == consumer then { r with holder := e.f.slot } else r }
          let s := e.modFrame s fun fr => { fr with sig := fr.sig ||| σ }
          let s := e.modCore s fun c => { c with tex := c.tex.filter fun x => !(x.asid == e.asid && sigHit σ x.line) }
          .ok (e.later (.uni b.al.toNat (BitVec.ofNat 32 k) ::
            (if consumer && b.se then [.uni b.st.toNat (BitVec.ofNat 32 (w / 65536))] else [])) s)
        else e.hold (.tread k) s
      match e.sp.wait with
      | .tread k => go e.s k
      | _ =>
        if 2 ≤ e.group.resv.length then e.hold .stalled e.s
        else
          let k := e.alcoveWord e.s ctr
          let s := e.setAlcoveWord ctr (k + 1) e.s
          let s := e.modGroup s fun g => { g with resv := g.resv ++ [⟨off, k, consumer, 0xFF⟩] }
          go (e.modCrew s fun c => { c with flights := insert c.flights off (c.flightSig off) }) k

def execFlacqP (h : Hdr) (b : ABody) : State → Host.Outcome State Fault Refusal := flacq (.flacqP h b) h b false
def execFlacqC (h : Hdr) (b : ABody) : State → Host.Outcome State Fault Refusal := flacq (.flacqC h b) h b true

/-- Whether this group is the HOLDER of a position's tread (R163): its slot stands there, or the slot it had when it acquired the
tread by a reservation that it still holds (assumption 26). -/
def Env.holdsTread (e : Env) (s : State) (off pos : Nat) : Bool :=
  let t := (e.tread s off pos).1
  let holder := e.alcoveWord s t / 256 % 256
  holder == e.f.slot || (holder != 0xFF && e.group.resv.any fun r => r.flight == off && r.holder == holder && (e.tread s off r.pos).1 == t)

/-- The release of a tread (R163), with the group's signature (R113). USER is kept where none is given. The reservation of that position
and direction ends (R164). -/
def Env.release (e : Env) (off pos : Nat) (consumer : Bool) (user : Option Nat) (s : State) : State :=
  let (t, _) := e.tread s off pos
  let w := e.alcoveWord s t
  let ph := w / 2 % 2
  let s := e.modCrew s fun c => { c with flights := insert c.flights off (c.flightSig off ||| e.fr.sig) }
  let s := e.setAlcoveWord t
    (if consumer then treadWord 0 (1 - ph) 0xFF (w / 65536) else treadWord 1 ph 0xFF (user.getD (w / 65536))) s
  (e.modGroup s fun g =>
    { g with resv := g.resv.eraseP fun r => r.flight == off && r.pos == pos && r.consumer == consumer }).wake e.f.core Wait.isTread

/-- EXIT ends every reservation the group holds as a FLREL of the same direction would (R164); one whose tread the group no longer holds
changes no tread. -/
def Env.endReservations (e : Env) (s : State) : State :=
  let s := e.group.resv.foldl (fun s r => if e.holdsTread s r.flight r.pos then e.release r.flight r.pos r.consumer none s else s) s
  e.modGroup s fun g => { g with resv := [] }

/-- A position that the group has released already: it holds the tread for a later one (R163). -/
def Env.releasedPos (e : Env) (s : State) (off pos : Nat) : Bool :=
  let mine := e.group.resv.filter fun r => r.flight == off && r.holder != 0xFF && (e.tread s off r.pos).1 == (e.tread s off pos).1
  mine.all (fun r => r.pos != pos) && mine.any fun r => (r.pos + 2 ^ 32 - pos) % 2 ^ 32 < 2 ^ 31

/-- FLREL: a release of a position whose tread this group does not hold traps, and so does one of a position released already. -/
def flrel (i : Instr) (h : Hdr) (b : ABody) (consumer : Bool) : State → Host.Outcome State Fault Refusal :=
  issueWith i h noTags fun e =>
    match e.flight b with
    | .error c => .bad c e.s
    | .ok off =>
      let pos := (e.u b.al).toNat
      if !e.holdsTread e.s off pos || e.releasedPos e.s off pos then .bad .illegalOpcode e.s
      else e.withRelease e.s fun s =>
        .ok (e.release off pos consumer (if consumer then none else some (if b.se then (e.sp.ureg b.st.toNat).toNat % 65536 else 0)) s)

def execFlrelP (h : Hdr) (b : ABody) : State → Host.Outcome State Fault Refusal := flrel (.flrelP h b) h b false
def execFlrelC (h : Hdr) (b : ABody) : State → Host.Outcome State Fault Refusal := flrel (.flrelC h b) h b true

/-! ## The Banister (R318, R319) -/

/-- The subrectangle a value names, and the whole that R177 and R318 check: at offsets that are multiples of its size, within the context's
rectangle, the issuing core inside. -/
def subRect (rect : Rect) (v : W32) : Rect :=
  { x := rect.x + (v.extractLsb' 0 5).toNat, y := rect.y + (v.extractLsb' 5 4).toNat, w := 2 ^ (v.extractLsb' 9 3).toNat,
    h := 2 ^ (v.extractLsb' 12 3).toNat }

def subOk (rect : Rect) (v : W32) (core : Nat) : Bool :=
  let r := subRect rect v
  (r.x - rect.x) % r.w == 0 && (r.y - rect.y) % r.h == 0 && r.x + r.w ≤ rect.x + rect.w && r.y + r.h ≤ rect.y + rect.h && r.has core

def BanCore.empty : BanCore := ⟨0, 0, 0, 0, 0, 0, 0, 0, []⟩

/-- The fields that name the subrectangle: bits 31-15 are ignored. -/
def subKey (v : W32) : W32 := v &&& 0x7FFF

def Env.crewOn (e : Env) : Nat := e.ctx.rect.index e.f.core

def Env.banCore (e : Env) (s : State) (tag : Nat) : BanCore :=
  match s.ctx e.cid with
  | some c => match c.crew e.crewOn with
    | some k => (k.ban[tag]?).getD BanCore.empty
    | none => BanCore.empty
  | none => BanCore.empty

def Env.modBan (e : Env) (s : State) (tag : Nat) (f : BanCore → BanCore) : State :=
  s.modCrew e.cid e.crewOn fun c => { c with ban := c.ban.setIfInBounds tag (f ((c.ban[tag]?).getD BanCore.empty)) }

def Ctx.banPhaseOf (c : Ctx) (tag : Nat) : Nat := (c.banPhase[tag]?).getD 0

/-- Where an arrival goes: illegal, a stall, held for the next phase, or counted. -/
inductive Arrival where
  | illegal | stall | held | counted
  deriving DecidableEq, Repr

def BanCore.arrival (b : BanCore) (v : W32) (n : Nat) : Arrival :=
  if b.counted == 0 then .counted
  else if b.counted < b.n then (if b.sub == v && b.n == n then .counted else .illegal)
  else if b.held == 0 then .held
  else if b.heldSub != v || b.heldN != n then .illegal
  else if b.held < b.heldN then .held
  else .stall

/-- An arrival that has released is counted or held. -/
def Env.arrive (e : Env) (tag : Nat) (v : W32) (n : Nat) (edge held : Bool) (s : State) : State :=
  let σ := if edge then e.fr.sig else 0
  (e.modBan s tag fun b =>
    if held then { b with held := b.held + 1, heldSub := v, heldN := n, heldSig := b.heldSig ||| σ }
    else { b with counted := b.counted + 1, sub := v, n := n, sig := b.sig ||| σ }).push (.banisterPhaseRelease e.cid tag)

/-- The arrival forms: the checks of R318, the release with .edge, then the arrival; `k` goes on with whether it is held. -/
def Env.arrival (e : Env) (h : Hdr) (b : ABody) (k : Bool → State → Perf) : Perf :=
  let v := subKey (e.u b.al)
  let n := b.ai.toNat % 64
  let edge := h.sub.getLsbD 0
  if !subOk e.ctx.rect v e.f.core then .bad .illegalOpcode e.s
  else match (e.banCore e.s b.tg.toNat).arrival v n with
    | .illegal => .bad .illegalOpcode e.s
    | .stall => e.hold .stalled e.s
    | a =>
      let go (s : State) : Perf := k (a == .held) (e.arrive b.tg.toNat v n edge (a == .held) s)
      if edge then e.withRelease e.s go else go e.s

/-- A wait on a token that has passed; with .edge it acquires the union (R112). -/
def Env.banPass (e : Env) (h : Hdr) (tag : Nat) (s : State) : State :=
  if h.sub.getLsbD 0 then s.acquire e.f.core e.cid e.h e.cid ((e.ctx.banUnion[tag]?).getD 0) else s

/-- R319: arrives; the token is the phase in which the arrival is counted, and arrives with the count. -/
def execBana (h : Hdr) (b : ABody) : State → Host.Outcome State Fault Refusal :=
  issueWith (.bana h b) h noTags fun e =>
    e.arrival h b fun held s =>
      if !b.se then .ok s
      else
        let p := e.ctx.banPhaseOf b.tg.toNat
        if !held then .ok (e.later [.uni b.st.toNat (BitVec.ofNat 32 p)] s)
        else
          let id := e.group.nextId
          .ok (e.modBan (e.owe [.uni b.st.toNat (BitVec.ofNat 32 ((p + 1) % 65536))] s) b.tg.toNat fun x =>
            { x with tokens := x.tokens ++ [(e.h, id)] })

/-- R319: waits until the phase differs from the token. -/
def execBanw (h : Hdr) (b : ABody) : State → Host.Outcome State Fault Refusal :=
  issueWith (.banw h b) h noTags fun e =>
    let t := (e.u b.al).toNat % 65536
    if e.ctx.banPhaseOf b.tg.toNat != t then .ok (e.banPass h b.tg.toNat e.s)
    else e.hold (.banister b.tg.toNat (some t)) e.s

/-- R319: arrives, then waits on the token it received. -/
def execBan (h : Hdr) (b : ABody) : State → Host.Outcome State Fault Refusal :=
  issueWith (.ban h b) h noTags fun e =>
    match e.sp.wait with
    | .banister g none => e.hold (.banister g none) e.s
    | .banister _ (some t) =>
      if e.ctx.banPhaseOf b.tg.toNat != t then .ok (e.banPass h b.tg.toNat e.s) else e.hold (.banister b.tg.toNat (some t)) e.s
    | _ => e.arrival h b fun held s =>
        e.hold (.banister b.tg.toNat (if held then none else some (e.ctx.banPhaseOf b.tg.toNat))) s

/-- A phase is complete for a subrectangle when each of its cores has counted n arrivals that name it. -/
def Ctx.banReady (c : Ctx) (tag : Nat) (b : BanCore) : Bool :=
  b.counted == b.n && 0 < b.n && (subRect c.rect b.sub).cores.all fun k =>
    match c.crew (c.rect.index k) with
    | some x => let y := (x.ban[tag]?).getD BanCore.empty; y.counted == b.n && y.n == b.n && y.sub == b.sub
    | none => false

/-- Held arrivals count toward the phase that begins. -/
def BanCore.next (b : BanCore) : BanCore := ⟨b.held, b.heldSub, b.heldN, 0, 0, 0, b.heldSig, 0, []⟩

/-- A token that a held arrival was owed arrives. -/
def State.token (s : State) (cid h id : Nat) : State :=
  s.modGroup cid h fun g =>
    ({ g with results := g.results.map fun (r : Result) => if r.id == id then { r with due := some s.ac } else r }).commitDue s.ac

/-- R319: the phase advances and the release reaches every core: the groups bound there and those that have left their slots. -/
def execBanisterPhaseRelease (cid tag : Nat) (s : State) : Host.Outcome State Fault Refusal :=
  .next (match s.ctx cid with
    | none => s
    | some c =>
      match (c.crews.map fun k => (k.ban[tag]?).getD BanCore.empty).find? fun b => c.banReady tag b with
      | none => s
      | some b =>
        let sub := subRect c.rect b.sub
        let inSub (k : Crew) : Bool := sub.has k.core
        let p := (c.banPhaseOf tag + 1) % 65536
        let union := c.crews.foldl (fun σ k => if inSub k then σ ||| ((k.ban[tag]?).getD BanCore.empty).sig else σ) 0
        let tokens := c.crews.flatMap fun k => if inSub k then ((k.ban[tag]?).getD BanCore.empty).tokens else []
        let s := s.setCtx cid
          { c with
            banPhase := c.banPhase.setIfInBounds tag p,
            banUnion := c.banUnion.setIfInBounds tag (((c.banUnion[tag]?).getD 0) ||| union),
            crews := c.crews.map fun k =>
              if inSub k then { k with ban := k.ban.setIfInBounds tag ((k.ban[tag]?).getD BanCore.empty).next } else k }
        let s := tokens.foldl (fun s t => s.token cid t.1 t.2) s
        let counted (sp : Split) : Split := if sp.wait == .banister tag none then { sp with wait := .banister tag (some p) } else sp
        let s := s.modCtx cid fun c => sub.cores.foldl (fun c core => c.mapResident core fun g => g.mapSplits counted) c
        (s.wakeAll Wait.isBanister).push (.banisterPhaseRelease cid tag))

end Sys2Proof.Machine
end

