-- ==== Sys2Proof/Machine/Fetch.lean ====
section
/-! DEFINITION. Instruction fetch: fetch lines and their parity (R218, R221), the instruction cache (R224), the check of a
transfer (R219, R220), and the two steps that serve a waiting fetch or access: the line fill and the page walk (R28). -/

namespace Sys2Proof.Machine

/-! ## Fetch lines (R218, R221) -/

/-- Slot k of a line. -/
def slotBits (l : BitVec 512) (k : Nat) : BitVec 96 := l.extractLsb' (96 * k) 96

/-- The TGT bit of slot k: bit 27 + k of the line word. -/
def tgtBit (l : BitVec 512) (k : Nat) : Bool := l.getLsbD (480 + 27 + k)

/-- The XOR of the 16-bit words of bytes 0 to 59. -/
def lineParity (l : BitVec 512) : W16 := (List.range 30).foldl (fun x j => x ^^^ l.extractLsb' (16 * j) 16) 0

/-- PAR, bits 15 to 0 of the line word. -/
def linePar (l : BitVec 512) : W16 := l.extractLsb' 480 16

def Core.findLine (c : Core) (asid : Nat) (va : W64) : Option (BitVec 512) :=
  (c.icache.find? fun i => i.asid == asid && i.va == lineOf va).map (·.bits)

/-- The mark, beside the pages whose walk failed, of a line whose parity failed twice (R221). -/
def parityMark (va : W64) : Nat := 2 ^ 60 + va.toNat / 64

/-- The mark, in the same place, of a level page that a fetch of the texel unit has missed (R77). -/
def lodMark (page : Nat) : Nat := 2 ^ 61 + page

namespace Env

/-- A fault met by a fetch: a program fault is precise, a replayable one parks the split (R32). `u` is the unfinished mask
of a BRX. -/
def fetchFault (e : Env) (c : FaultCode) (va : W64) (u : Mask) (s : State) : Perf :=
  if c == .vfViolation then .stay (e.violate va u s)
  else if c.replayable then .stay (e.park .fetch 2 u [⟨0, lookupPage va, c, va⟩] s)
  else .trap { code := c, fva := va &&& 0x01FFFFFFFFFFFFFF } s

/-- The line of an address, where the instruction cache holds it; else the split waits or faults. A line read ahead of its issue (a follow-on's,
or a target of BRX) traps at the instruction that reads it, which performs nothing, with the address that was fetched (assumption 88). -/
def fetchLine (e : Env) (va : W64) (u : Mask) (s : State) : Except Perf (State × BitVec 512) :=
  match (s.core e.f.core).findLine e.asid va with
  | some l => .ok (s, l)
  | none =>
    if upperHalf va || inAlcove va then .error (e.fetchFault .aperture va u s)
    else if (lookup e.sp.badPages (parityMark va)).isSome then .error (.trap { code := .fetchParity, fva := if lineOf va == lineOf e.sp.pc then 0 else va &&& 0x01FFFFFFFFFFFFFF } s)
    else match lookup e.sp.badPages (lookupPage va) with
      | some c => .error (e.fetchFault c va u s)
      | none =>
        match e.lookupVa s .fetch .any va with
        | .miss page => .error (e.hold .fetch (e.requestWalk page s))
        | .fault c => .error (e.fetchFault c va u s)
        | .ok _ => .error (e.hold .fetch (s.push (.instructionLineFill e.f.core e.asid (lineOf va))))

/-- The check of a transfer to a PC, in the order of R219, then TGT (R220). -/
def checkTransfer (e : Env) (pc : W64) (u : Mask) (s : State) : Except Perf State :=
  if !canonical pc then .error (.bad .nonCanonical s)
  else if !pcFormed pc then .error (.bad .badTarget s)
  else match e.fetchLine pc u s with
    | .error p => .error p
    | .ok (s, l) => if tgtBit l (slotOf pc) then .ok s else .error (.bad .badTarget s)

end Env

/-- Note why a wait of a split failed. -/
def Split.note (key : Nat) (c : FaultCode) (sp : Split) : Split := { sp with badPages := insert sp.badPages key c }

/-- Note a failure for every split of an ASID on a core that waits for walks or fills. -/
def State.noteAll (s : State) (core asid key : Nat) (c : FaultCode) : State :=
  s.mapSplits core (fun b => b.asid == asid) fun sp => if sp.wait == .access || sp.wait == .fetch then sp.note key c else sp

/-- The function of an ASID, as a core's translation unit holds its entry. -/
def State.vfOn (s : State) (core asid : Nat) : Nat := match lookup (s.core core).asids asid with | some e => asidVf e | none => 0

/-- A page of TYPE memory only. -/
def Accept.memory : Accept := ⟨[0], some .aperture, false⟩

/-- A level page that a fetch can use (R77). -/
def State.usable (s : State) (core : Nat) (t : TlbEnt) (va : W64) : Bool :=
  leafType t.leaf == 0 && t.leaf.getLsbD 9 && t.leaf.getLsbD 4 &&
    s.inWindow (s.vfOn core t.asid) (t.pa va)

/-- R28: a walk in progress completes. A leaf is installed and completes every walk of its ASID that it covers; a fault
is met by the splits that wait. Where only fetches of the texel unit wait for a level page, one that they cannot use fills no TLB
entry (R77): it counts as a miss, or as TYPE withdrawn where it lies in a withdrawn range (R439). -/
def execPageWalk (core asid page : Nat) (s : State) : Host.Outcome State Fault Refusal :=
  .next (
    match (s.core core).misses.find? fun m => m.asid == asid && m.page == page with
    | none => s
    | some m =>
      let va := BitVec.ofNat 64 (page * 262144)
      let ends (s : State) (c : FaultCode) : State :=
        let s := s.modCore core fun c => { c with misses := c.misses.filter fun m => !(m.asid == asid && m.page == page) }
        let s := if m.quiet then s else s.noteAll core asid page c
        (s.noteAll core asid (lodMark page) c).wakeAccess core
      match s.walk (some core) asid va with
      | (s, .leaf t) =>
        if m.quiet && !s.usable core t va then
          ends s (if s.useLeaf (s.vfOn core asid) false t va .load .memory == .fault .withdrawn then .withdrawn else .notPresent)
        else (s.modCore core fun c =>
          { c.install t with misses := c.misses.filter fun m => !t.covers m.asid (BitVec.ofNat 64 (m.page * 262144)) }).wakeAccess core
      | (s, .fault c) => ends s c)

/-- 64 bytes of code at their home (R224). -/
def State.readCode (s : State) (pa : Nat) : State × BitVec 512 :=
  let (s, x) := s.readMem pa 64
  (s, BitVec.ofNat 512 x)

/-- R221, R224: a line is read at its home into the instruction cache. A line whose parity does not match is read once
more; a second mismatch traps at the fetch. The cache holds 1,024 lines. -/
def execInstructionLineFill (core asid : Nat) (va : W64) (s : State) : Host.Outcome State Fault Refusal :=
  .next (
    match (s.core core).findTlb asid va with
    | none => s.wakeAccess core
    | some t =>
      if leafType t.leaf != 0 then s.wakeAccess core
      else
        let (s, l) := s.readCode (t.pa va / 64 * 64)
        let (s, l) := if lineParity l == linePar l then (s, l) else s.readCode (t.pa va / 64 * 64)
        if lineParity l == linePar l then
          (s.modCore core fun c =>
            { c with icache := ((⟨asid, lineOf va, l⟩ : ILine) :: c.icache.filter fun i => !(i.asid == asid && i.va == lineOf va)).take 1024 }).wakeAccess core
        else (s.noteAll core asid (parityMark va) .fetchParity).wakeAccess core)

end Sys2Proof.Machine
end

