-- ==== Sys2Proof/Machine/Copy.lean ====
section
/-! DEFINITION. The copy engine: issue of a copy (R138, R139, R311 to R314), beats (R140 to R144), lattices (R145 to R148),
follow-ons (R149, R150), tags and their waits (R151 to R154, R315), faults (R155, R156) and completion (R154, R115). -/

namespace Sys2Proof.Machine

/-! ## Sequence ages and tags (R152, R153) -/

/-- a is older than b modulo 2^32. -/
def olderSeq (a b : Nat) : Bool :=
  let d := (b + 2 ^ 32 - a % 2 ^ 32) % 2 ^ 32
  1 ≤ d && d < 2 ^ 31

def Crew.tag (c : Crew) (n : Nat) : Option TagSt := c.tags[n]?

def Crew.modTag (c : Crew) (n : Nat) (f : TagSt → TagSt) : Crew := { c with tags := modNth c.tags n f }

/-- One more copy under a tag: its signature is cleared when its count was 0 (R139 step 4). -/
def TagSt.add (t : TagSt) (seq : Nat) : TagSt :=
  if t.count == 0 then ⟨1, seq, 0⟩ else { t with count := t.count + 1 }

/-- The oldest of a list of sequence numbers. -/
def oldestSeq : List Nat → Nat
  | [] => 0
  | x :: l => l.foldl (fun m y => if olderSeq y m then y else m) x

/-! ## Whether an engine may start work of a context (R166, R391) -/

/-- A context whose halt or save line has not reached the core. -/
def Ctx.worksOn (c : Ctx) (core : Nat) : Bool :=
  c.st == .running || ((c.st == .halting || c.st == .saving) && !c.arrived.contains core)

/-! ## Stop records of an engine (R393) -/

def StopRec.blank : StopRec :=
  { src := 0, code := none, subc := 0, precise := false, raiser := false, parked := false, waiting := false, woken := false, dx := 0, dy := 0,
    slot := 0, split := 0, handle := 0, pc := 0, moved := none, mask := 0, umask := 0, fva := 0, iseq := 0, nrec := 0, time := 0, info := 0, fsubc := 0 }

/-- The engine of a record, as SRC and place: a Binner or a Resolver is one a Hall. -/
def Ctx.engineOf (_ : Ctx) (src core : Nat) : Nat × Nat := (src, if src == 4 || src == 5 then hallOf core else core)

def Ctx.stopEngine (c : Ctx) (r : StopRec) : Nat × Nat := c.engineOf r.src (coreOf (c.rect.x + r.dx) (c.rect.y + r.dy))

/-- An engine meets a fault of a context: its stop record, one an engine, and the raise (R391 to R393). A violation kills the context when
its halt settles (R397). -/
def State.engineFault (s : State) (cid core src : Nat) (code : FaultCode) (subc fsubc : Byte) (seq : Nat) (fva : W64) : State :=
  match s.ctx cid with
  | none => s
  | some c =>
    let r : StopRec := { StopRec.blank with src := src, code := some code, subc := subc, fsubc := fsubc, raiser := c.raises, iseq := seq,
                                            fva := fva &&& 0x01FFFFFFFFFFFFFF, dx := coreX core - c.rect.x, dy := coreY core - c.rect.y }
    let dead := code == .vfViolation
    let x := c.engineOf src core
    (s.setCtx cid { c with stops := if c.stops.any fun q => q.src == src && c.stopEngine q == x then c.stops else c.stops ++ [r],
                           killAfter := c.killAfter || dead, offenders := if dead then x :: c.offenders else c.offenders }).raiseHalt cid code seq

/-- The core of a crew. -/
def Ctx.coreOfCrew (c : Ctx) (n : Nat) : Nat := ((c.crew n).map (·.core)).getD 0

/-! ## Engine access to memory: at the homes, never through an L1 (R52) -/

/-- The work whose writes to an Alcove a core-path read may miss until an edge covers them (R117). -/
structure Job where
  crew : Nat
  array : Bool
  seq : Nat
  tag : Nat
  deriving DecidableEq, Repr

/-- Who an engine acts for. -/
structure Agent where
  core : Nat
  cid : Nat
  vf : Nat
  asid : Nat
  sup : Bool
  alcBase : Nat
  alcSize : Nat
  job : Option Job
  deriving DecidableEq, Repr

/-- The words of an Alcove span that the agent is about to write, with what they hold. -/
def Agent.races (a : Agent) (c : Core) (off n : Nat) : List Raced :=
  match a.job with
  | none => []
  | some j =>
    let b := a.alcBase + off
    (List.range ((b + n + 3) / 4 - b / 4)).map fun i =>
      ⟨a.cid, j.crew, j.array, j.seq, j.tag, b / 4 + i, BitVec.ofNat 32 (Mem.readN c.alcove (4 * (b / 4 + i)) 4)⟩

def State.agent (s : State) (core cid crew : Nat) : Option Agent :=
  match s.ctx cid with
  | none => none
  | some c => match c.crew crew with
    | none => none
    | some k => some ⟨core, cid, s.ctxVf core c, c.asid, s.ctxSup core c, 1024 * k.alcBase, 1024 * k.alcSize, none⟩

/-- A fault of an engine access, with its address and kind. -/
structure EngFault where
  code : FaultCode
  va : W64
  kind : Kind
  deriving DecidableEq, Repr

/-- The translation of one engine access that stays within a line (R30). -/
def Agent.place (a : Agent) (k : Kind) (acc : Accept) (va : W64) (s : State) : State × TRes :=
  if !canonical va then (s, .fault .nonCanonical)
  else if upperHalf va && !acc.image then (s, .fault .aperture)
  else if !upperHalf va && inAlcove va then
    match acc.alcove with
    | some c => (s, .fault c)
    | none =>
      let off := va.toNat - alcoveBase.toNat
      (s, if off < a.alcSize then .ok (.alcove off) else .fault .alcoveRange)
  else s.xlate a.core a.asid a.vf a.sup k acc va

/-- `n` bytes at a place within a line. -/
def Agent.readAt (a : Agent) (p : Place) (n : Nat) (s : State) : State × Nat :=
  match p.cached, p with
  | some (pa, _, tier), _ =>
    let (s, x) := s.homeRead (pa / 128) tier
    (s, lineBytes x (pa % 128) n)
  | none, .atrium off => (s, Mem.readN s.atrium off n)
  | none, .host x => (s, Mem.readN s.host x n)
  | none, .peer port x => (s, Mem.readN s.peer (port * 2 ^ 47 + x) n)
  | none, .window vf off => s.readWindow vf off n
  | none, .alcove off => (s, Mem.readN (s.core a.core).alcove (a.alcBase + off) n)
  | none, _ => (s, 0)

/-- `n` bytes written to a place within a line. -/
def Agent.writeAt (a : Agent) (p : Place) (n x : Nat) (s : State) : State :=
  match p.cached, p with
  | some (pa, cmp, tier), _ => s.homeWrite (pa / 128) (rangeMask (pa % 128) n) (bytesAt (pa % 128) x) cmp tier
  | none, .atrium off => { s with atrium := Mem.writeN s.atrium off n x }
  | none, .host y => { s with host := Mem.writeN s.host y n x }
  | none, .peer port y => { s with peer := Mem.writeN s.peer (port * 2 ^ 47 + y) n x }
  | none, .window vf off => if n == 8 && off % 8 == 0 then s.push (.managementRegisterWrite vf off 8 (BitVec.ofNat 64 x)) else s
  | none, .alcove off => s.modCore a.core fun c =>
    { c with racing := c.racing ++ a.races c off n, alcove := Mem.writeN c.alcove (a.alcBase + off) n x }
  | none, _ => s

/-- A read of bytes that may span lines and pages: each line's part is translated on its own. -/
def Agent.readSpan (a : Agent) (acc : Accept) : Nat → W64 → Nat → State → State × Except EngFault Nat
  | 0, _, _, s => (s, .ok 0)
  | f + 1, va, n, s =>
    if n == 0 then (s, .ok 0)
    else
      let k := min n (128 - va.toNat % 128)
      match a.place .load acc va s with
      | (s, .fault c) => (s, .error ⟨c, va, .load⟩)
      | (s, .miss _) => (s, .error ⟨.notPresent, va, .load⟩)
      | (s, .ok p) =>
        let (s, x) := a.readAt p k s
        match Agent.readSpan a acc f (va + BitVec.ofNat 64 k) (n - k) s with
        | (s, .error x) => (s, .error x)
        | (s, .ok rest) => (s, .ok (x + rest * 2 ^ (8 * k)))

def Agent.read (a : Agent) (acc : Accept) (va : W64) (n : Nat) (s : State) : State × Except EngFault Nat :=
  a.readSpan acc (n / 128 + 2) va n s

/-- The line a place adds to a leaf signature (R99). -/
def placeSig (p : Place) : SigBits := match p with
  | .mem pa _ _ _ => sigOf (pa / 128)
  | .image cid off => sigOf (imagePa cid off / 128)
  | _ => 0

/-- The lines that n bytes from an address lie in. -/
def linesFrom (va : W64) (n : Nat) : List W64 :=
  let off := va.toNat % 128
  (List.range ((off + n + 127) / 128)).map fun i => va - BitVec.ofNat 64 off + BitVec.ofNat 64 (128 * i)

/-- The signature of destination lines as they translate now (R141). Nothing is cached and no fault is met: a line that does not translate
joins with the beat that is performed on it, before its bytes are credited (R148, assumption 29). -/
def Agent.destSig (a : Agent) (lines : List W64) (s : State) : SigBits :=
  lines.foldl (fun σ va => match (a.place .store .any va s).2 with
    | .ok p => σ ||| placeSig p
    | _ => σ) 0

/-! ## Issue (R139, R312) -/

/-- The follow-on of R150: one of its instructions, with plain header fields and no vector register. -/
def followOnOk (e : Env) (i : Instr) : Bool :=
  let plain (h : Hdr) : Bool := h.g == 7#3 && !h.gn && !h.s && h.nx == 0#2
  i.wellFormed && e.inRange i && match i with
    | .mma h _ => plain h
    | .ldwMem h _ => plain h
    | .ldwSmp h _ => plain h
    | .ldws h _ => plain h
    | .accz h _ => plain h
    | .edge h _ => plain h
    | .flt h _ => plain h
    | .blend h _ => plain h
    | _ => false

/-- The instruction of the next slot, fetched for a copy with FO. -/
def Env.followOn (e : Env) (s : State) : Except Perf (State × Instr) :=
  let pc := nextPc e.sp.pc
  match e.fetchLine pc 0 s with
  | .error p => .error p
  | .ok (s, l) =>
    match decode (slotBits l (slotOf pc)) with
    | .ok i => if followOnOk e i then .ok (s, i) else .error (.bad .illegalOpcode s)
    | .error _ => .error (.bad .illegalOpcode s)

/-- The uniform operands a follow-on names: a pair, or a single register in the low word (R165); an operand it does not name is 0. -/
def followVals (e : Env) (i : Instr) : Vector W64 3 :=
  let single (x : BitVec 6) : W64 := (e.u x).setWidth 64
  match i with
  | .mma _ b | .ldws _ b | .flt _ b => #v[e.u64 b.xsa, single b.xsb, 0]
  | .ldwMem _ b => #v[e.u64 b.xsa, single b.xsb, single b.xsc]
  | .ldwSmp _ b => #v[0, 0, single b.xsc]
  | .edge _ b => #v[e.u64 b.xsa, 0, 0]
  | .blend _ b => #v[e.u64 b.xsa, e.u64 b.xsb, 0]
  | _ => #v[0, 0, 0]

/-- A copy as its operands name it, before it has a sequence number. -/
structure CopyReq where
  kind : CopyKind
  store : Bool
  src : W64
  dst : W64
  len : Nat
  rop : Nat := 0
  rtype : Nat := 0
  valid : Nat := 0
  coords : Vector W32 6 := Vector.replicate 6 0
  statVec : Option (Nat × Nat) := none

/-- Whether n bytes at an Alcove aperture address lie within the allocation. -/
def Env.inAlloc (e : Env) (va : W64) (n : Nat) : Bool := va.toNat - alcoveBase.toNat + n ≤ e.alcove.2

/-- Steps 3 to 6 of R312 for one copy. `addrs` are the addresses it names; `need` those that must lie in the Alcove, with
their extents; `bar` those that must not. -/
def copyFaults (sup : Bool) (inAlloc : W64 → Nat → Bool) (addrs : List W64) (need : List W64) (extents : List (W64 × Nat)) (bar : List W64)
    (aligned : Bool) (barrier : Option W64) : Option FaultCode :=
  let all := addrs ++ barrier.toList
  if !all.all canonical then some .nonCanonical
  else if !need.all (fun a => !upperHalf a && inAlcove a) || bar.any (fun a => !upperHalf a && inAlcove a) ||
      addrs.any (fun a => upperHalf a && !sup) || (barrier.toList.any upperHalf) then some .aperture
  else if (extents.any fun x => !upperHalf x.1 && inAlcove x.1 && !inAlloc x.1 x.2) ||
      (barrier.toList.any fun a => inAlcove a && !inAlloc a 320) then some .alcoveRange
  else if !aligned || (barrier.toList.any fun a => a.toNat % 64 != 0) then some .misaligned
  else none

def Env.copyCheck (e : Env) (addrs : List W64) (need : List W64) (extents : List (W64 × Nat)) (bar : List W64) (aligned : Bool)
    (barrier : Option W64) : Option FaultCode :=
  copyFaults e.sup e.inAlloc addrs need extents bar aligned barrier

/-- LEN of CPY, CPYZ and CPYR. -/
def lenOk (n : Nat) : Bool := 4 ≤ n && n ≤ 2 ^ 24 && n % 4 == 0

/-- The record of a copy; its leaf signature takes the issuer's and the lines of its destination range (R114, R141). -/
def Env.copyRec (e : Env) (b : ABody) (r : CopyReq) (follow : Option Instr) (bphase seq : Nat) (s : State) : CopyRec :=
  { seq := seq, cid := e.cid, crew := e.bind.crew, home := e.group.crew, handle := e.h, slot := e.f.slot, split := e.f.split, kind := r.kind, store := r.store,
    tag := b.tg.toNat, st := .queued, follow := follow,
    fov := match follow with | some i => followVals e i | none => #v[0, 0, 0],
    followSeq := none, bar := if b.be then some (e.u64 b.ba) else none, bphase := bphase,
    statUni := if b.se && !b.sv then some b.st.toNat else none, statVec := r.statVec, rop := r.rop, rtype := r.rtype, src := r.src, dst := r.dst,
    len := r.len, done := 0, valid := r.valid, coords := r.coords, lattice := [],
    sig := e.fr.sig ||| (match s.agent e.f.core e.cid e.bind.crew with | some a => a.destSig (linesFrom r.dst r.len) s | none => 0), clamped := 32 < r.valid && r.kind == .cpyl,
    filled := false, overrun := false, replayed := false, fault := none, pages := [], wasParked := false,
    beat := none }

/-- Steps 4 and 5 of R139 for one copy: the tag's count, the record, and the status register owed. -/
def Env.enqueue (e : Env) (b : ABody) (follow : Option Instr) (bphase : Nat) (s : State) (r : CopyReq) : State :=
  let seq := (s.core e.f.core).ceSeq
  let s := e.modCore s fun c => { c with ceSeq := (c.ceSeq + 1) % 2 ^ 32, ce := c.ce ++ [e.copyRec b r follow bphase seq s] }
  let s := e.modCrew s fun c => c.modTag b.tg.toNat fun t => t.add seq
  let s := if b.se then
      e.modGroup s fun g => { g with owed := g.owed ++ [⟨e.f.split, b.sv, b.st.toNat, false, seq, g.nextId, none⟩] }
    else s
  s.push (if r.kind == .cpyt then .copyLatticeStart e.f.core seq else .copyBeat e.f.core seq)

/-- Issue of the copies of one instruction (R139). `check` gives steps 3 to 6 of R312. -/
def copyIssue (i : Instr) (h : Hdr) (b : ABody) (tags : Env → Bool) (reqs : Env → List CopyReq) (check : Env → Option FaultCode) :
    State → Host.Outcome State Fault Refusal :=
  issueWith i h tags fun e =>
    let rs := reqs e
    let full := 256 < (e.s.core e.f.core).ce.length + rs.length
    let go (s : State) (follow : Option Instr) : Perf :=
      match e.crew.bind (·.tag b.tg.toNat) with
      | none => .trap { code := .copyFault, subc := 0x11 } s
      | some t =>
        match check e with
        | some c => .bad c s
        | none =>
          match (if b.be then (e.barPlace (e.u64 b.ba) s).map fun (s, p) => (s, some p) else .ok (s, none)) with
          | .error p => p
          | .ok (s, p) =>
            if full || 65535 < t.count + rs.length then e.hold .stalled s
            else e.withRelease s fun s =>
              .ok (rs.foldl (e.enqueue b follow (match p with | some p => (s.bar p).phase | none => 0)) s)
    if b.fo then
      match e.followOn e.s with
      | .error p => p
      | .ok (s, f) => go s (some f)
    else go e.s none

/-- LEN: a register, or AI for .imm (R311). -/
def Env.copyLen (e : Env) (h : Hdr) (b : ABody) : Nat := if h.sub == 2#6 then b.ai.toNat else (e.u b.al).toNat

def Env.copyBar (e : Env) (b : ABody) : Option W64 := if b.be then some (e.u64 b.ba) else none

/-- R142. -/
def execCpy (h : Hdr) (b : ABody) : State → Host.Outcome State Fault Refusal :=
  copyIssue (.cpy h b) h b noTags
    (fun e => [{ kind := .cpy, store := false, src := e.u64 b.asrc, dst := e.u64 b.ad, len := e.copyLen h b }])
    fun e =>
      let (s, d, n) := (e.u64 b.asrc, e.u64 b.ad, e.copyLen h b)
      e.copyCheck [s, d] (if b.fo then [d] else []) [(s, n), (d, n)] [] (s.toNat % 4 == 0 && d.toNat % 4 == 0 && lenOk n) (e.copyBar b)

/-- R142. -/
def execCpyz (h : Hdr) (b : ABody) : State → Host.Outcome State Fault Refusal :=
  copyIssue (.cpyz h b) h b noTags
    (fun e => [{ kind := .cpyz, store := false, src := 0, dst := e.u64 b.ad, len := e.copyLen h b }])
    fun e =>
      let (d, n) := (e.u64 b.ad, e.copyLen h b)
      e.copyCheck [d] [] [(d, n)] [] (d.toNat % 4 == 0 && lenOk n) (e.copyBar b)

/-- R143. SUB holds ROP in bits 2-0 and RTYPE in bits 5-3. -/
def execCpyr (h : Hdr) (b : ABody) : State → Host.Outcome State Fault Refusal :=
  copyIssue (.cpyr h b) h b noTags
    (fun e => [{ kind := .cpyr, store := false, src := e.u64 b.asrc, dst := e.u64 b.ad, len := (e.u b.al).toNat,
                 rop := (h.sub.extractLsb' 0 3).toNat, rtype := (h.sub.extractLsb' 3 3).toNat }])
    fun e =>
      let (s, d, n) := (e.u64 b.asrc, e.u64 b.ad, (e.u b.al).toNat)
      e.copyCheck [s, d] [s] [(s, n)] [d] (s.toNat % 4 == 0 && d.toNat % 4 == 0 && lenOk n) (e.copyBar b)

/-- The Alcove offset of a lane of CPYL, under the index rule of R27. -/
def Env.cpylOff (e : Env) (b : ABody) (l : Nat) : Int :=
  let r := b.ai.extractLsb' 8 8
  let x := e.vl r l
  if (e.v r).tag == 1#4 then x.toInt else (x.toNat : Int)

/-- R144, R313: one copy a lane of g. -/
def execCpyl (h : Hdr) (b : ABody) : State → Host.Outcome State Fault Refusal :=
  let va := b.ai.extractLsb' 0 8
  let vo := b.ai.extractLsb' 8 8
  let vv := b.ai.extractLsb' 16 8
  copyIssue (.cpyl h b) h b
    (fun e => e.tagsOk [(va.toNat, anyTag), (va.toNat + 1, anyTag), (vo.toNat, indexTag), (vv.toNat, fun t => t == 2#4)])
    (fun e => (lanesOf (e.g h)).map fun l =>
      { kind := .cpyl, store := false, src := e.vl (va + 1) l ++ e.vl va l, dst := alcoveBase + BitVec.ofInt 64 (e.cpylOff b l), len := 32,
        valid := (e.vl vv l).toNat, statVec := if b.se then some (b.st.toNat, l) else none })
    fun e =>
      let ls := lanesOf (e.g h)
      let srcs := ls.map fun l => e.vl (va + 1) l ++ e.vl va l
      let offs := ls.map fun l => e.cpylOff b l
      match e.copyCheck srcs [] [] [] true (e.copyBar b) with
      | some .misaligned => if offs.any (fun o => o < 0 || ((e.alcove.2 : Nat) : Int) < o + 32) then some .alcoveRange else some .misaligned
      | some c => some c
      | none =>
        if offs.any (fun o => o < 0 || ((e.alcove.2 : Nat) : Int) < o + 32) then some .alcoveRange
        else if offs.any (fun o => o.toNat % 32 != 0) then some .misaligned
        else none

/-- The request of a lattice copy: SRC holds the lattice address of a load, DST that of a store (R165). -/
def Env.latReq (e : Env) (b : ABody) (store : Bool) : CopyReq :=
  { kind := .cpyt, store := store, src := if store then e.u64 b.ad else e.u64 b.ax, dst := if store then e.u64 b.ax else e.u64 b.ad, len := 0,
    coords := Vector.ofFn fun i => e.sp.ureg (b.al.toNat + i.val) }

def Env.latCheck (e : Env) (b : ABody) : Option FaultCode :=
  let (a, m) := (e.u64 b.ad, e.u64 b.ax)
  e.copyCheck [m, a] [a] [(a, 1)] [] (a.toNat % 16 == 0 && m.toNat % 64 == 0) (e.copyBar b)

/-- R145 to R148, R314. -/
def execCpytLd (h : Hdr) (b : ABody) : State → Host.Outcome State Fault Refusal :=
  copyIssue (.cpytLd h b) h b noTags (fun e => [e.latReq b false]) fun e => e.latCheck b

/-- R145 to R148, R314. -/
def execCpytSt (h : Hdr) (b : ABody) : State → Host.Outcome State Fault Refusal :=
  copyIssue (.cpytSt h b) h b noTags (fun e => [e.latReq b true]) fun e => e.latCheck b

/-! ## Lattices (R145 to R147) -/

structure Lattice where
  bits : Nat
  base : Nat
  ndim : Nat
  window : Bool
  esz : Nat
  fillk : Bool
  apitch : Nat
  pattern : Nat
  deriving DecidableEq, Repr

def latOf (l : List Byte) : Lattice :=
  let x := l.foldr (fun b n => b.toNat + 256 * n) 0
  { bits := x, base := x % 2 ^ 57, ndim := x / 2 ^ 64 % 8, window := x / 2 ^ 67 % 4 == 1, esz := x / 2 ^ 72 % 4, fillk := x / 2 ^ 74 % 2 == 1,
    apitch := x / 2 ^ 80 % 65536, pattern := x / 2 ^ 96 % 2 ^ 32 }

/-- A coordinate or extent register of a lattice copy. -/
def coord (c : Vector W32 6) (k : Nat) : Nat := ((c.toList[k]?).getD 0).toNat

namespace Lattice

def byte (t : Lattice) (k n : Nat) : Nat := t.bits / 2 ^ (8 * k) % 2 ^ (8 * n)
def ext (t : Lattice) (d : Nat) : Nat := t.byte (16 + 16 * d) 4
def span (t : Lattice) (d : Nat) : Nat := t.byte (20 + 16 * d) 2
def stride (t : Lattice) (d : Nat) : Nat := t.byte (24 + 16 * d) 8 % 2 ^ 48
def size (t : Lattice) : Nat := 2 ^ t.esz
def win (t : Lattice) (k : Nat) : Nat := t.byte (112 + k) 1 % 16

/-- The rows of a block walk, and the elements of a row. -/
def blockRows (t : Lattice) : Nat := t.span 1 * t.span 2 * t.span 3 * t.span 4 * t.span 5

def kh (t : Lattice) : Nat := t.win 0
def kw (t : Lattice) : Nat := t.win 1

/-- One output size of a window walk (R147). -/
def outSize (n p0 p1 dil k stride : Nat) : Int := Int.fdiv ((n + p0 + p1 : Nat) - (dil * (k - 1) : Nat) - 1) stride + 1

def oh (t : Lattice) : Int := outSize (t.ext 2) (t.win 4) (t.win 5) (t.win 8) t.kh (t.win 2)
def ow (t : Lattice) : Int := outSize (t.ext 1) (t.win 6) (t.win 7) (t.win 9) t.kw (t.win 3)

/-- Reserved bits are 0 and each field lies in its range (R145). -/
def fieldsOk (t : Lattice) : Bool :=
  t.bits / 2 ^ 57 % 2 ^ 7 == 0 && t.bits / 2 ^ 69 % 8 == 0 && t.bits / 2 ^ 67 % 4 ≤ 1 && t.bits / 2 ^ 75 % 32 == 0 && 1 ≤ t.ndim && t.ndim ≤ 6 &&
    t.apitch % 16 == 0 && 16 ≤ t.apitch && t.byte 122 2 == 0 && t.byte 124 68 == 0 && t.stride 0 == t.size &&
    (List.range 6).all (fun d =>
      t.byte (22 + 16 * d) 2 == 0 && t.byte (30 + 16 * d) 2 == 0 && 1 ≤ t.ext d && t.ext d ≤ 2 ^ 31 && 1 ≤ t.span d && t.span d ≤ 512 &&
        t.stride d % t.size == 0 && (d < t.ndim || (t.ext d == 1 && t.span d == 1 && t.stride d == 0)))

/-- The window geometry in range. -/
def winOk (t : Lattice) : Bool :=
  let inR (k lo hi : Nat) : Bool := t.byte (112 + k) 1 < 16 && lo ≤ t.win k && t.win k ≤ hi
  inR 0 1 15 && inR 1 1 15 && inR 2 1 8 && inR 3 1 8 && inR 4 0 14 && inR 5 0 14 && inR 6 0 14 && inR 7 0 14 && inR 8 1 8 && inR 9 1 8

/-- Elements of a row and rows of a walk: a block's, or the Kc and Mr that the instruction names. -/
def rowElems (t : Lattice) (c : Vector W32 6) : Nat := if t.window then (coord c 4) else t.span 0
def rows (t : Lattice) (c : Vector W32 6) : Nat := if t.window then (coord c 3) else t.blockRows

/-- The nominal length (R146, R147). -/
def nominal (t : Lattice) (c : Vector W32 6) : Nat := t.rows c * t.rowElems c * t.size

/-- Whether a copy through the lattice is sound: not malformed, with coordinates and extent in range (R145 to R147, R314). -/
def sound (t : Lattice) (store : Bool) (c : Vector W32 6) (room : Nat) : Bool :=
  t.fieldsOk && t.rowElems c * t.size ≤ t.apitch && t.rows c * t.apitch ≤ room &&
    if t.window then
      t.winOk && (t.ndim == 3 || t.ndim == 4) && (List.range 6).all (fun d => t.span d == 1) && 1 ≤ t.oh && 1 ≤ t.ow && !store &&
        1 ≤ (coord c 3) && (coord c 3) ≤ 256 && 1 ≤ (coord c 4) && (coord c 4) ≤ 256
    else
      t.byte 112 10 == 0 && t.nominal c ≤ 2 ^ 24 && (List.range 6).all fun d => d < t.ndim || coord c d == 0

/-- The coordinates of row q of a block walk, for dimensions 1 to 5. -/
def rowCoord (t : Lattice) (q d : Nat) : Nat :=
  q / ((List.range d).foldl (fun p k => if k == 0 then p else p * t.span k) 1) % t.span d

/-- The address that the formula of R146 gives element (q, e0) of a block walk, inside the array or not. -/
def rawAddr (t : Lattice) (c : Vector W32 6) (q e0 : Nat) : W64 :=
  let g (d : Nat) : Nat := coord c d + (if d == 0 then e0 else t.rowCoord q d)
  BitVec.ofNat 64 (t.base + ((List.range 6).map fun d => g d * t.stride d).foldl (· + ·) 0)

/-- The address of element (q, e0) of a block walk, where it lies inside the array. -/
def blockAddr (t : Lattice) (c : Vector W32 6) (q e0 : Nat) : Option W64 :=
  let g (d : Nat) : Nat := coord c d + (if d == 0 then e0 else t.rowCoord q d)
  if (List.range 6).all fun d => g d < t.ext d then some (t.rawAddr c q e0) else none

/-- The address of element (i, j) of a window walk, where it is valid (R147). -/
def windowAddr (t : Lattice) (c : Vector W32 6) (i j : Nat) : Option W64 :=
  let n := (coord c 0)
  let m := (coord c 1) + i
  let k := (coord c 2) + j
  let ch := t.ext 0
  let ow := t.ow.toNat
  let ih : Int := ((m / ow * t.win 2 : Nat) : Int) - (t.win 4 : Nat) + (k / (ch * t.kw) * t.win 8 : Nat)
  let iw : Int := ((m % ow * t.win 3 : Nat) : Int) - (t.win 6 : Nat) + (k / ch % t.kw * t.win 9 : Nat)
  if m < t.oh.toNat * ow && k < t.kh * t.kw * ch && n < t.ext 3 && 0 ≤ ih && ih < (t.ext 2 : Nat) && 0 ≤ iw && iw < (t.ext 1 : Nat) then
    some (BitVec.ofNat 64 (t.base + k % ch * t.stride 0 + iw.toNat * t.stride 1 + ih.toNat * t.stride 2 + n * t.stride 3))
  else none

/-- The lines of a block walk in memory, those of clipped elements too (R141). -/
def lines (t : Lattice) (c : Vector W32 6) : List W64 :=
  (List.range t.blockRows).flatMap fun q => linesFrom (t.rawAddr c q 0) (t.span 0 * t.size)

def elemAddr (t : Lattice) (c : Vector W32 6) (q e : Nat) : Option W64 := if t.window then t.windowAddr c q e else t.blockAddr c q e

/-- The bytes of a filled element. -/
def fill (t : Lattice) : Nat := if t.fillk then (if t.esz == 3 then t.pattern * (2 ^ 32 + 1) else t.pattern % 2 ^ (8 * t.size)) else 0

end Lattice

/-! ## Beats (R140) -/

def State.copyRec (s : State) (core seq : Nat) : Option CopyRec := (s.core core).ce.find? fun r => r.seq == seq

def State.modCopy (s : State) (core seq : Nat) (f : CopyRec → CopyRec) : State :=
  s.modCore core fun c => { c with ce := c.ce.map fun r => if r.seq == seq then f r else r }

/-- A copy is over, well or badly: COPY_COMPLETE finishes it. -/
def State.endCopy (s : State) (core seq : Nat) (fault : Option (Byte × Byte)) : State :=
  (s.modCopy core seq fun r => { r with st := .done, fault := fault }).push (.copyComplete core seq)

/-- The cause byte of a code of R30 in a status word: the code itself (R154). -/
def causeOf (c : FaultCode) : Byte := c.byte

/-- Where a copy's barrier lies now. -/
def Agent.barPlace (a : Agent) (va : W64) (s : State) : State × Except EngFault BarPlace :=
  if inAlcove va then (s, .ok (.alcove a.core (a.alcBase + (va.toNat - alcoveBase.toNat))))
  else match a.place .atomic .atrium va s with
    | (s, .ok (.atrium off)) => (s, .ok (.atrium off))
    | (s, .fault c) => (s, .error ⟨c, va, .atomic⟩)
    | (s, _) => (s, .error ⟨.aperture, va, .atomic⟩)

/-- The core whose CE a copy belongs to: its crew's, where a scratch place performs it late too (R167). -/
def Agent.coreOf (a : Agent) (r : CopyRec) (s : State) : Nat :=
  match s.ctx a.cid with
  | some c => c.coreOfCrew r.crew
  | none => a.core

/-- A fault that ends a copy: its barrier becomes BROKEN, and the context halts (R156). A barrier that does not translate at this moment, by a
fault of its own page or because the page is not present, stays as it is for good: the spec does not say what breaks it later (assumption 102). -/
def State.copyFatal (s : State) (a : Agent) (r : CopyRec) (cause fsubc : Byte) (va : W64) : State :=
  let s := match r.bar with
    | none => s
    | some b => match a.barPlace b s with
      | (s, .ok p) => s.setBar p { s.bar p with broken := true }
      | (s, .error _) => s
  (s.endCopy a.core r.seq (some (cause, fsubc))).engineFault a.cid (a.coreOf r s) 1 .copyFault cause fsubc r.seq va

/-- A fault met by a beat: a replayable one parks the copy (R155), a violation discards the context's copies (R156), any
other is fatal. -/
def State.copyFault (s : State) (a : Agent) (r : CopyRec) (f : EngFault) : State :=
  if f.code == .vfViolation then
    (s.modCore a.core fun c => { c with ce := c.ce.filter fun x => x.cid != a.cid }).engineFault a.cid (a.coreOf r s) 1 .vfViolation 0 0 r.seq f.va
  else if f.code.replayable then
    let s := match f.code with
      | .notPresent => s
      | _ => s.modCore a.core fun c => c.discard a.asid f.va
    let s := s.postFault a.core a.vf none 0 (faultRecord f.va a.asid f.code f.kind 3 a.core r.slot r.split 1 0)
    s.modCopy a.core r.seq fun x => { x with st := .parked, pages := [lookupPage f.va], wasParked := true }
  else s.copyFatal a r (causeOf f.code) 0 f.va

/-- What of the checks of R312 and R139 a copy record fails when it is resumed (R396): the cause, with the address. A barrier whose translation
fails in a way that a replay may mend is met again at the copy's next credit. -/
def Agent.recheck (a : Agent) (r : CopyRec) (tags : Nat) (s : State) : State × Option (Byte × W64) :=
  let four (x : W64) : Bool := x.toNat % 4 == 0
  let inAlloc (x : W64) (n : Nat) : Bool := x.toNat - alcoveBase.toNat + n ≤ a.alcSize
  let check := copyFaults a.sup inAlloc
  let found := match r.kind with
    | .cpy => check [r.src, r.dst] (if r.follow.isSome then [r.dst] else []) [(r.src, r.len), (r.dst, r.len)] [] (four r.src && four r.dst && lenOk r.len) r.bar
    | .cpyz => check [r.dst] [] [(r.dst, r.len)] [] (four r.dst && lenOk r.len) r.bar
    | .cpyr => check [r.src, r.dst] [r.src] [(r.src, r.len)] [r.dst] (four r.src && four r.dst && lenOk r.len) r.bar
    | .cpyl => check [r.src, r.dst] [r.dst] [(r.dst, 32)] [] (r.dst.toNat % 32 == 0) r.bar
    | .cpyt =>
      let (al, m) := if r.store then (r.src, r.dst) else (r.dst, r.src)
      check [m, al] [al] [(al, 1)] [] (al.toNat % 16 == 0 && m.toNat % 64 == 0) r.bar
  if tags ≤ r.tag then (s, some (0x11, 0))
  else match found, r.bar with
    | some c, _ => (s, some (causeOf c, 0))
    | none, none => (s, none)
    | none, some b => match a.barPlace b s with
      | (s, .error f) => (s, if f.code.replayable then none else some (causeOf f.code, f.va))
      | (s, .ok _) => (s, none)

/-- What a beat will do: its destination, bytes, and the value; `none` for clipped elements. -/
structure Beat where
  dst : Option W64
  n : Nat
  val : Nat
  filled : Bool

/-- The elements of a lattice lie in TYPE memory (R138). -/
def Accept.lattice : Accept := ⟨[0], some .aperture, false⟩

/-- The elements read into a beat, each by its row and its place in the row (R146, R147). -/
def Agent.readElems (a : Agent) (t : Lattice) (c : Vector W32 6) : List (Nat × Nat) → State → State × Except EngFault (Nat × Bool)
  | [], s => (s, .ok (0, false))
  | (q, e) :: l, s =>
    let go (s : State) (x : Nat) (fl : Bool) : State × Except EngFault (Nat × Bool) :=
      match Agent.readElems a t c l s with
      | (s, .ok (rest, fl')) => (s, .ok (x + rest * 2 ^ (8 * t.size), fl || fl'))
      | (s, .error x) => (s, .error x)
    match t.elemAddr c q e with
    | none => go s t.fill true
    | some va => match a.read Accept.lattice va t.size s with
      | (s, .ok x) => go s x false
      | (s, .error x) => (s, .error x)

def Accept.noAlc : Accept := ⟨[0, 1, 2], some .aperture, true⟩

/-- The bytes of row q of a store that lie inside the array, from byte k: how many more, contiguous in memory. -/
def Lattice.insideFrom (t : Lattice) (c : Vector W32 6) (q k : Nat) : Nat :=
  let e := k / t.size
  let c0 := (coord c 0)
  if (t.blockAddr c q e).isSome then min (t.span 0) (t.ext 0 - c0) * t.size - k else 0

/-- The next beat of a copy, with its source bytes read (R140). A lattice load's beat goes on over the rows that lie next to one another in the
Alcove (R450); a gap between rows ends it, and the rows of a store are beats of their own (assumption 29). -/
def Agent.beat (a : Agent) (r : CopyRec) (s : State) : State × Except EngFault Beat :=
  let upto (va : W64) (n : Nat) : Nat := min n (128 - va.toNat % 128)
  let d := r.dst + BitVec.ofNat 64 r.done
  match r.kind with
  | .cpy | .cpyr =>
    let n := upto d (r.len - r.done)
    match a.read .any (r.src + BitVec.ofNat 64 r.done) n s with
    | (s, .ok x) => (s, .ok ⟨some d, n, x, false⟩)
    | (s, .error f) => (s, .error f)
  | .cpyz => (s, .ok ⟨some d, upto d (r.len - r.done), 0, false⟩)
  | .cpyl =>
    let v := min r.valid 32
    match a.read .noAlc r.src v s with
    | (s, .ok x) => (s, .ok ⟨some r.dst, 32, x, v < 32⟩)
    | (s, .error f) => (s, .error f)
  | .cpyt =>
    let t := latOf r.lattice
    let row := t.rowElems r.coords * t.size
    let q := r.done / row
    let k := r.done % row
    if r.store then
      let inside := t.insideFrom r.coords q k
      let va := t.rawAddr r.coords q (k / t.size) + BitVec.ofNat 64 (k % t.size)
      if inside == 0 then (s, .ok ⟨none, upto va (row - k), 0, false⟩)
      else
        let n := upto va inside
        match a.read .any (r.src + BitVec.ofNat 64 (q * t.apitch + k)) n s with
        | (s, .ok x) => (s, .ok ⟨some va, n, x, false⟩)
        | (s, .error f) => (s, .error f)
    else
      let al := r.dst + BitVec.ofNat 64 (q * t.apitch + k)
      let n := upto al (if t.apitch == row then r.len - r.done else row - k)
      let at? (i : Nat) : Nat × Nat := ((r.done + i * t.size) / row, (r.done + i * t.size) % row / t.size)
      match a.readElems t r.coords ((List.range (n / t.size)).map at?) s with
      | (s, .ok (x, fl)) => (s, .ok ⟨some al, n, x, fl⟩)
      | (s, .error f) => (s, .error f)

/-- A credit of n bytes to a copy's barrier (R158, R160, R116). The leaf signature comes first: in the Alcove here, in the Atrium by the line
ORs that `sendSig` has sent. -/
def State.creditTo (s : State) (a : Agent) (r : CopyRec) (p : BarPlace) (n : Nat) : State :=
  let s := match p with
    | .alcove _ _ => s.orSig p 64 r.sig
    | .atrium _ => s
  let (x, ov) := (s.bar p).credit n r.bphase
  let s := (s.setBar p x).modCore a.core fun k => k.seen fun y => !y.array && y.seq == r.seq
  let s := if ov then s.modCopy a.core r.seq fun r => { r with overrun := true } else s
  if ov && x.trapov then s.engineFault a.cid (a.coreOf r s) 1 .barrierOverrun 0 0 r.seq 0 else s

/-- A beat of n bytes has been performed: it is counted and credited, and the next one follows. REPLAYED is set after any park of the copy, that
on the read of its lattice too, which is no beat (assumption 31). The last beat of a copy with a follow-on
is credited when the follow-on completes (R140, R141). -/
def State.beatDone (s : State) (a : Agent) (r : CopyRec) (n : Nat) (filled : Bool) (σ : SigBits) (bar : Option BarPlace) : State :=
  let last := r.len ≤ r.done + n
  let s := s.modCopy a.core r.seq fun x =>
    { x with done := x.done + n, sig := x.sig ||| σ, filled := x.filled || filled, replayed := x.replayed || x.wasParked, st := .running, beat := none }
  let s := match bar with
    | some p => if last && r.follow.isSome then s else s.creditTo a { r with sig := r.sig ||| σ } p n
    | none => s
  if last then
    if r.follow.isSome then s.push (.followOnIssue a.core r.seq) else s.endCopy a.core r.seq none
  else s.push (.copyBeat a.core r.seq)

/-- A place beside the cores, in which a late copy works on the saved Alcove (R167). -/
def lateCore : Nat := 4096

/-- A beat of n bytes has been performed. Where it is to credit a barrier in the Atrium, the leaf signature goes there first, and the beat
is counted once its line ORs have been acknowledged (R116). -/
def State.beatMade (s : State) (a : Agent) (r : CopyRec) (n : Nat) (filled : Bool) (σ : SigBits) (bar : Option BarPlace) : State :=
  match bar with
  | some (.atrium off) =>
    if a.core == lateCore || (r.len ≤ r.done + n && r.follow.isSome) then s.beatDone a r n filled σ bar
    else
      let s := s.modCopy a.core r.seq fun c => { c with st := .running, beat := some ⟨n, σ, bar, filled, true⟩ }
      (s.sendSig a.core a.cid r.handle a.asid (.copy r.seq) off 64 (r.sig ||| σ)).1
  | _ => s.beatDone a r n filled σ bar

/-- A beat of a reduction goes to its home, and is counted when it has been performed there. A late completion performs it at once
(R143, R167). -/
def State.sendReduction (s : State) (a : Agent) (r : CopyRec) (b : Beat) (va : W64) (pa : Nat) (cmp tier : Bool) (bar : Option BarPlace) : State :=
  let (ln, x, m) := (pa / 128, bytesAt (pa % 128) b.val, rangeMask (pa % 128) b.n)
  if a.core == lateCore then ((s.meet ln).homeReduce ln x m r.rop r.rtype cmp tier).beatDone a r b.n false (sigOf ln) bar
  else
    ((s.modCopy a.core r.seq fun c => { c with st := .running, beat := some ⟨b.n, sigOf ln, bar, false, false⟩ }).send fun id =>
      { id := id, core := a.core, cid := a.cid, h := r.handle, asid := a.asid, op := .reduce ln x m r.rop r.rtype cmp tier,
        page := some (lookupPage va), dst := .copy r.seq, lanes := 0, nak := false, again := false }).push (.l2Reduction s.nextReq)

/-- An operation of a beat has been performed at its home or bank, or has ended there without effect: then a reduction is tried again. -/
def State.sentBeat (s : State) (core seq : Nat) (performed : Bool) : State :=
  match s.copyRec core seq with
  | none => s
  | some r =>
    match r.beat, s.agent core r.cid r.crew with
    | some b, some a =>
      if b.signed then
        if s.reqs.any fun q => q.core == core && q.dst == .copy seq then s
        else if r.st == .done then s.push (.copyComplete core seq)
        else s.beatDone a r b.n b.filled b.sig b.bar
      else if performed then s.beatMade a r b.n false b.sig b.bar
      else (s.modCopy core seq fun r => { r with beat := none }).push (.copyBeat core seq)
    | _, _ => s

/-- A beat performed at its destination as one operation, once its barrier has been found (R140). -/
def State.performBeat (s : State) (a : Agent) (r : CopyRec) (b : Beat) (bar : Option BarPlace) : State :=
  let acc : Accept := match r.kind with
    | .cpyr => ⟨[0, 1, 2], some .aperture, true⟩
    | .cpyt => if r.store then Accept.lattice else .any
    | _ => .any
  match b.dst with
  | none => s.beatMade a r b.n b.filled 0 bar
  | some va =>
    match a.place .store acc va s with
    | (s, .fault c) => s.copyFault a r ⟨c, va, .store⟩
    | (s, .miss _) => s
    | (s, .ok p) =>
      if r.kind == .cpyr then
        match p with
        | .mem pa cmp tier _ => s.sendReduction a r b va pa cmp tier bar
        | _ => s.copyFatal a r 0x10 0 va
      else (({ a with job := some ⟨r.crew, false, r.seq, r.tag⟩ } : Agent).writeAt p b.n b.val s).beatMade a r b.n b.filled (placeSig p) bar

/-- Whether an event of the CE may act for a record now: that of a frozen core accepts no work (R397). -/
def State.copyActive (s : State) (core : Nat) (r : CopyRec) : Bool :=
  match s.ctx r.cid with
  | some c => c.worksOn core && s.coresOn && !(s.core core).frozen
  | none => false

/-- The lattice is read and checked when the CE starts the copy (R145, R314). -/
def State.startLattice (s : State) (core : Nat) (a : Agent) (r : CopyRec) : State :=
  let m := if r.store then r.dst else r.src
  let al := if r.store then r.src else r.dst
  match a.read ⟨[0], some .aperture, false⟩ m 192 s with
  | (s, .error f) => s.copyFault a r f
  | (s, .ok x) =>
    let bytes := (List.range 192).map fun k => BitVec.ofNat 8 (x / 2 ^ (8 * k))
    let t := latOf bytes
    if t.sound r.store r.coords (a.alcSize - (al.toNat - alcoveBase.toNat)) then
      let σ := if r.store then a.destSig (t.lines r.coords) s else 0
      (s.modCopy core r.seq fun y => { y with lattice := bytes, len := t.nominal r.coords, st := .running, sig := y.sig ||| σ }).push
        (.copyBeat core r.seq)
    else s.copyFatal a r 0x12 0 m

/-- R145: the CE starts a lattice copy. -/
def execCopyLatticeStart (core seq : Nat) (s : State) : Host.Outcome State Fault Refusal :=
  .next (match s.copyRec core seq with
    | none => s
    | some r =>
      if r.kind == .cpyt && r.lattice.isEmpty && r.st != .parked && r.st != .done && s.copyActive core r then
        match s.agent core r.cid r.crew with
        | some a => s.startLattice core a r
        | none => s
      else s)

/-- R140: one beat. Its source is read, its barrier found, its destination translated, and it is performed and counted. -/
def execCopyBeat (core seq : Nat) (s : State) : Host.Outcome State Fault Refusal :=
  .next (match s.copyRec core seq with
    | none => s
    | some r =>
      if (r.st == .queued || r.st == .running) && (r.kind != .cpyt || !r.lattice.isEmpty) && r.beat.isNone && r.done < r.len && s.copyActive core r then
        match s.agent core r.cid r.crew with
        | none => s
        | some a =>
          match a.beat r s with
          | (s, .error f) => s.copyFault a r f
          | (s, .ok b) =>
            match r.bar with
            | none => s.performBeat a r b none
            | some va =>
              match a.barPlace va s with
              | (s, .error f) => s.copyFault a r f
              | (s, .ok p) => s.performBeat a r b (some p)
      else s)

/-! ## Completion (R154, R115) -/

/-- A status word (R154). -/
def CopyRec.status (r : CopyRec) : W32 :=
  let (res, cause) := match r.fault with
    | some (c, _) => (1, c.toNat)
    | none => (0, 0)
  BitVec.ofNat 32 (res + 16 * r.clamped.toNat + 32 * r.filled.toNat + 64 * r.overrun.toNat + 128 * r.replayed.toNat + 256 * cause + 65536 * r.tag)

/-- The bytes of the last beat (R140): a beat ends at the end of a line of its destination. -/
def CopyRec.lastBeat (r : CopyRec) : Nat :=
  let ending (d n : Nat) : Nat := min n ((d + n - 1) % 128 + 1)
  if r.kind == .cpyt then
    let t := latOf r.lattice
    let row := t.rowElems r.coords * t.size
    if t.apitch == row then ending r.dst.toNat r.len else ending (r.dst.toNat + (t.rows r.coords - 1) * t.apitch) row
  else ending r.dst.toNat r.len

/-- What an engine writes to a register, under the tag that a later write has left there (R206). -/
def Owed.tagged (o : Owed) : RegWrite → RegWrite
  | .vec r m v t => .vec r m v (o.tag.getD t)
  | w => w

/-- A register an engine owed receives its value, at its place in the order of issue; reading it first acquires the signature. -/
def Group.pay (g : Group) (now : Nat) (engine : Bool) (seq : Nat) (σ : SigBits) (w : Owed → List RegWrite) : Group :=
  match g.owed.find? fun o => o.engine == engine && o.seq == seq with
  | none => g
  | some o =>
    let left := g.owed.filter fun x => !(x.engine == engine && x.seq == seq)
    let r : Result := ⟨o.id, o.split, false, some now, (w o).map o.tagged, false⟩
    ({ g with
      owed := left, results := (g.results.takeWhile fun x => x.id < o.id) ++ r :: (g.results.dropWhile fun x => x.id < o.id),
      statusSigs := ⟨o.split, o.isVec, o.reg, σ⟩ :: g.statusSigs } : Group).commitDue now

/-- The status register of a completed copy. -/
def State.writeStatus (s : State) (r : CopyRec) (σ : SigBits) : State :=
  s.modGroup r.cid r.handle fun g => g.pay s.ac false r.seq σ fun o =>
    match r.statVec with
    | some (reg, l) => [.vec reg (BitVec.twoPow 32 l) (Vector.replicate 32 r.status) 2#4]
    | none => [.uni o.reg r.status]

/-- The tag of a completed copy: its signature grows, and its count falls (R152, R154). -/
def Crew.tagDone (c : Crew) (r : CopyRec) (left : List Nat) : Crew :=
  c.modTag r.tag fun t => { t with count := t.count - 1, sig := t.sig ||| r.sig, oldest := oldestSeq left }

def Wait.isTags : Wait → Bool
  | .tags => true
  | .tagFirst _ => true
  | .stalled => true
  | _ => false

/-- The rest of a completion, once the last credit has been made: tag signature, status word, tag count (R154). -/
def State.finishCopy (s : State) (core : Nat) (r : CopyRec) : State :=
  let told := r.statUni.isSome || r.statVec.isSome || r.follow.isSome
  let s := s.modCore core fun c => ({ c with ce := c.ce.filter fun x => x.seq != r.seq } : Core).seen fun y => told && !y.array && y.seq == r.seq
  let left := ((s.core core).ce.filter fun x => x.cid == r.cid && x.crew == r.crew && x.tag == r.tag).map (·.seq)
  let s := s.modCrew r.cid r.crew fun c => c.tagDone r left
  let σ := match (s.ctx r.cid).bind (·.crew r.crew) with
    | some c => ((c.tag r.tag).map (·.sig)).getD 0
    | none => 0
  let s := s.writeStatus r σ
  let s := s.modCrew r.cid r.home fun c => { c with sig := c.sig ||| r.sig }
  (s.wake core Wait.isTags).pushAll [.crewCompletion r.cid r.home, .crewCompletion r.cid r.crew]

/-- The last credit of a copy with a follow-on, then its completion. -/
def State.lastCredit (s : State) (a : Agent) (r : CopyRec) (p : BarPlace) : State :=
  let s := s.creditTo a r p r.lastBeat
  s.finishCopy a.core ((s.copyRec a.core r.seq).getD r)

/-- R154: the copy completes. The last beat of a copy with a follow-on is credited here (R150). -/
def execCopyComplete (core seq : Nat) (s : State) : Host.Outcome State Fault Refusal :=
  .next (match s.copyRec core seq with
    | none => s
    | some r =>
      if r.st == .done then
        match r.follow, r.fault, r.bar, s.agent core r.cid r.crew with
        | some _, none, some va, some a =>
          match a.barPlace va s with
          | (s, .ok (.alcove c x)) => s.lastCredit a r (.alcove c x)
          | (s, .ok (.atrium off)) =>
            if r.beat.isNone && core != lateCore then
              (((s.modCopy core seq fun c => { c with beat := some ⟨r.lastBeat, 0, some (.atrium off), false, true⟩ }).sendSig core a.cid r.handle a.asid
                (.copy seq) off 64 r.sig)).1
            else if s.reqs.any fun q => q.core == core && q.dst == .copy seq then s
            else s.lastCredit a r (.atrium off)
          | (s, .error f) =>
            if f.code.replayable then s.copyFault a { r with st := .done } f
            else (s.copyFatal a r (causeOf f.code) 0 f.va)
        | _, _, _, _ => s.finishCopy core r
      else s)

/-! ## Copies that go on (R155, R166) -/

/-- The events that set a copy record going. -/
def copyEvents (core : Nat) (r : CopyRec) : List Instr :=
  match r.st with
  | .done => [.copyComplete core r.seq]
  | .followOn => []
  | _ =>
    if r.kind == .cpyt && r.lattice.isEmpty then [.copyLatticeStart core r.seq]
    else if r.len ≤ r.done && r.follow.isSome then [.followOnIssue core r.seq]
    else [.copyBeat core r.seq]

/-- A parked copy goes on where it stood: at its lattice, at its next beat, or, where its follow-on has completed, at its last credit. -/
def CopyRec.again (r : CopyRec) : CopyRec :=
  match r.st with
  | .parked =>
    { r with st := if r.followSeq.isSome then .done else if r.kind == .cpyt && r.lattice.isEmpty then .queued else .running, pages := [] }
  | _ => r

/-! ## Tag waits (R153, R315) -/

/-- The mask of a tag wait, without the tags that are not reserved. -/
def Env.tagMask (e : Env) (h : Hdr) (b : ABody) : List Nat :=
  let m : W64 := if h.sub == 1#6 then b.ai.setWidth 64 else e.u64 b.asrc
  let n := match e.crew with | some c => c.tags.length | none => 0
  (List.range 64).filter fun t => m.getLsbD t && t < n

def TagSt.empty : TagSt := { count := 0, oldest := 0, sig := 0 }

def Env.tagSt (e : Env) (t : Nat) : TagSt :=
  match e.crew with
  | some c => (c.tag t).getD TagSt.empty
  | none => TagSt.empty

/-- The signatures of tags that a wait reports are acquired, and what their copies wrote to the Alcove is visible (R115, R117). -/
def Env.acquireTags (e : Env) (l : List Nat) (s : State) : State :=
  (l.foldl (fun s t => s.acquire e.f.core e.cid e.h e.cid (e.tagSt t).sig) s).modCore e.f.core fun c =>
    c.seen fun x => x.cid == e.cid && x.crew == e.bind.crew && !x.array && l.contains x.tag

def Env.ready (e : Env) (t : Nat) : Bool := (e.tagSt t).count == 0

def maskOf64 (l : List Nat) : W64 := l.foldl (fun m i => m ||| BitVec.twoPow 64 i) 0

def execTwall (h : Hdr) (b : ABody) : State → Host.Outcome State Fault Refusal :=
  issueWith (.twall h b) h noTags fun e =>
    let m := e.tagMask h b
    if m.all e.ready then .ok (e.acquireTags m e.s) else e.hold .tags e.s

def execTwany (h : Hdr) (b : ABody) : State → Host.Outcome State Fault Refusal :=
  issueWith (.twany h b) h noTags fun e =>
    let m := e.tagMask h b
    let r := m.filter e.ready
    if m.isEmpty || !r.isEmpty then .ok (e.later (uniW true b.ad (maskOf64 r)) (e.acquireTags r e.s)) else e.hold .tags e.s

/-- R153: TFIRST chooses at issue, by the age of the oldest outstanding copy of each tag. -/
def execTfirst (h : Hdr) (b : ABody) : State → Host.Outcome State Fault Refusal :=
  issueWith (.tfirst h b) h noTags fun e =>
    let answer (t : Nat) (s : State) : Perf := .ok (e.later [.uni b.al.toNat (BitVec.ofNat 32 t)] s)
    match e.sp.wait with
    | .tagFirst t => if e.ready t then answer t (e.acquireTags [t] e.s) else e.hold (.tagFirst t) e.s
    | _ =>
      match (e.tagMask h b).filter fun t => !e.ready t with
      | [] => answer 64 e.s
      | t :: l => e.hold (.tagFirst (l.foldl (fun m u => if olderSeq (e.tagSt u).oldest (e.tagSt m).oldest then u else m) t)) e.s

def execTcnt (h : Hdr) (b : ABody) : State → Host.Outcome State Fault Refusal :=
  issueWith (.tcnt h b) h noTags fun e => .ok (e.later [.uni b.al.toNat (BitVec.ofNat 32 (e.tagSt b.tg.toNat).count)] e.s)

end Sys2Proof.Machine
end

