-- ==== Sys2Proof/Machine/Tile.lean ====
section
/-! DEFINITION. The Array's tiles and arithmetic: accumulators (R207, R320, R332), weights and scales (R200, R212, R213,
R327 to R329), segments and products (R214 to R217), post-operator programs (R338) and edge rows (R202, R339, R340). -/

namespace Sys2Proof.Machine

/-! ## Accumulators -/

/-- An accumulator at launch (R320). -/
def Acc.fresh : Acc :=
  { mode := .none, elems := [], status := 0, pre := .lin 0, post := Vector.replicate 8 0, raster := none, undef := none }

def Crew.acc (c : Crew) (n : Nat) : Acc := (c.accs[n]?).getD Acc.fresh
def Crew.setAcc (c : Crew) (n : Nat) (a : Acc) : Crew := { c with accs := c.accs.setIfInBounds n a }
def Crew.tile (c : Crew) (n : Nat) : Option TileData := (c.tiles[n]?).join
def Crew.setTile (c : Crew) (n : Nat) (t : Option TileData) : Crew := { c with tiles := c.tiles.setIfInBounds n t }

namespace Acc

/-- Columns: 64 of F32, 32 of I48 (R207). -/
def cols (a : Acc) : Nat := if a.mode == .i48 then 32 else 64

/-- Bytes of an element in an image (R332). -/
def size (a : Acc) : Nat := if a.mode == .i48 then 8 else 4

/-- A slot's reading: 32 bits of F32, or 48 bits with their sign extended. -/
def shape (a : Acc) (x : W64) : W64 := if a.mode == .i48 then (x.extractLsb' 0 48).signExtend 64 else x &&& 0xFFFFFFFF

/-- Element (i, n). One that the spec calls undefined is a free value. -/
def get (a : Acc) (i n : Nat) : W64 :=
  match lookup a.elems (a.cols * i + n), a.undef with
  | some x, _ => x
  | none, none => 0
  | none, some b => a.shape (Config.freeElement (b / 16) (2048 * (b % 16) + (a.cols * i + n)))

def put (a : Acc) (i n : Nat) (x : W64) : Acc :=
  let k := a.cols * i + n
  { a with elems := if x == 0 && a.undef.isNone then remove a.elems k else insert a.elems k x }

/-- An I48 element as an integer. -/
def int (a : Acc) (i n : Nat) : Int := (a.get i n).toInt

/-- Every element becomes undefined (R324); `b` is a drawn index. -/
def lost (a : Acc) (b : Nat) : Acc := { a with elems := [], undef := some b }

/-- Cleared in a mode (R331). -/
def cleared (a : Acc) (m : AccMode) : Acc := { a with mode := m, elems := [], status := 0, raster := none, undef := none }

def flag (a : Acc) (f : AccFlags) : Acc := { a with status := a.status ||| f.word }

def modeCode (a : Acc) : Nat := match a.mode with | .none => 0 | .f32 => 1 | .i48 => 2

/-- The accumulator image, as sparse bytes from offset 0 (R332). -/
def image (a : Acc) : Mem :=
  let put (m : Mem) (k : Nat) : Mem := Mem.writeN m (a.size * k) a.size (a.get (k / a.cols) (k % a.cols)).toNat
  let ks := if a.undef.isSome then List.range (32 * a.cols) else a.elems.map (·.1)
  Mem.writeN (Mem.writeN (ks.foldl put []) 8192 4 a.status.toNat) 8196 4 a.modeCode

/-- An accumulator loaded from an image of 8,256 bytes; none for a MODE other than 1 or 2. -/
def load (a : Acc) (x : Nat) : Option Acc :=
  let mode := x / 2 ^ (8 * 8196) % 2 ^ 32
  if mode == 1 || mode == 2 then
    let b := { a.cleared (if mode == 1 then .f32 else .i48) with status := BitVec.ofNat 32 (x / 2 ^ (8 * 8192) % 16) }
    some ((List.range (32 * b.cols)).foldl (fun b k =>
      b.put (k / b.cols) (k % b.cols) (b.shape (BitVec.ofNat 64 (x / 2 ^ (8 * b.size * k) % 2 ^ (8 * b.size))))) b)
  else none

end Acc

/-! ## Alignment (R213, R214) -/

/-- Aligned integers of a group or segment of 32, with their exponent. -/
structure Seg where
  special : Bool
  ints : List Int
  exp : Int
  loss : Bool
  deriving DecidableEq, Repr

/-- Encodings aligned into `w` bits under one exponent. An infinity or a NaN becomes 0 and does not count toward Loss: the pseudocode of R213
compares it with no number (assumption 104). -/
def align (f : Fmt) (w : Nat) (l : List Nat) : Seg :=
  let vs := l.map f.value
  let emax := vs.foldl (fun m v => match v with
    | .fin _ k e => if k == 0 then m else max m (Mag.log2 ⟨k, 1, e⟩)
    | _ => m) (-126 : Int)
  let x : Int := emax - (w - 2 : Nat)
  { special := vs.any fun v => match v with | .fin _ _ _ => false | _ => true
    ints := vs.map fun v => match v with
      | .fin n k e => signed n (Mag.roundAt ⟨k, 1, e⟩ x .rne n)
      | _ => 0
    exp := x
    loss := vs.any fun v => match v with
      | .fin _ k e => !Mag.exactAt ⟨k, 1, e⟩ x
      | _ => false }

/-- The bytes of one activation element, by AF: 0 E4M3, 1 E5M2, 2 BF16, 3 INT8 (R336). -/
def actBytes (af : Nat) : Nat := if af == 2 then 2 else 1

/-- A segment of 32 activation elements (R214). INT8 is never aligned. -/
def actSeg (af : Nat) (l : List Nat) : Seg :=
  match af with
  | 0 => align e4m3 8 l
  | 1 => align e5m2 8 l
  | 2 => align bf16 16 l
  | _ => { special := false, ints := l.map fun n => intOf 8 true n, exp := 0, loss := false }

/-- The 8 × R_k segments of a row of elements: positions past the row read as 0. -/
def actRow (af rk : Nat) (l : List Nat) : List Seg :=
  (List.range (8 * rk)).map fun g => actSeg af ((List.range 32).map fun j => (l[32 * g + j]?).getD 0)

/-! ## Stationary tiles (R212, R327, R328, R329) -/

namespace TileData

def weight (t : TileData) (k n : Nat) : Int := (lookup t.weights (8192 * n + k)).getD 0

def unitScale : Sys2Proof.Machine.Scale := ⟨false, false, 1, 0⟩

/-- The scale of segment g of column n: unity unless it has been set. -/
def scale (t : TileData) (g n : Nat) : Scale :=
  match lookup t.scales (256 * n + 32 * g / t.gsize) with
  | some s => s
  | none => match t.tag with
    | .mxfp4w => ⟨false, false, 1, -1⟩
    | _ => unitScale

/-- The weights of segment g of column n. -/
def column (t : TileData) (g n : Nat) : List Int := (List.range 32).map fun j => t.weight (32 * g + j) n

end TileData

/-- Weights for each macro (R212), by WF. -/
def perMacro (wf : Nat) : Nat :=
  match wf with
  | 0 => 80 | 1 => 64 | 2 => 48 | 3 => 32 | _ => 16

/-- The bytes of a packed column (R327). -/
def columnBytes (wf kt : Nat) : Nat :=
  match wf with
  | 0 => 4 * ((kt + 9) / 10)
  | 1 => kt / 2
  | 2 => kt / 2
  | 3 => kt
  | _ => 2 * kt

def tagOfWf (wf : Nat) : TileTag :=
  match wf with
  | 0 => .w3g | 1 => .w4g | 2 => .mxfp4w | 3 => .e4m3w | 4 => .bf16w | _ => .fxs

/-- Twice an E2M1 value (R196, R212). -/
def e2m1Twice (n : Nat) : Int :=
  let e := n / 2 % 4
  let f := n % 2
  signed (8 ≤ n) (if e == 0 then f else (2 + f) * 2 ^ (e - 1))

/-- Element k of a packed column, as its encoding (R200, R327). -/
def packed (wf k x : Nat) : Nat :=
  match wf with
  | 0 => x / 2 ^ (32 * (k / 10) + 3 * (k % 10)) % 8
  | 1 => x / 2 ^ (4 * k) % 16
  | 2 => x / 2 ^ (4 * k) % 16
  | 3 => x / 2 ^ (8 * k) % 256
  | _ => x / 2 ^ (16 * k) % 65536

/-- One column expanded: its integers, and for BF16 and E4M3 a scale for each group of 32. -/
def expandCol (wf kt x : Nat) : List Int × List Scale × Bool :=
  let es := (List.range kt).map fun k => packed wf k x
  let grouped (f : Fmt) (c : Nat) : List Int × List Scale × Bool :=
    let gs := (List.range (kt / 32)).map fun g => align f c ((List.range 32).map fun j => packed wf (32 * g + j) x)
    (gs.flatMap (·.ints), gs.map fun s => ⟨s.special, false, 1, s.exp⟩, gs.any (·.loss))
  match wf with
  | 0 => (es.map fun n => intOf 3 true n, [], false)
  | 1 => (es.map fun n => intOf 4 true n, [], false)
  | 2 => (es.map e2m1Twice, [], false)
  | 3 => grouped e4m3 8
  | 4 => grouped bf16 16
  | _ => (es.map fun n => intOf 16 true n, [], false)

/-- The keys and values of a list, from a key, without those equal to a default. -/
def keyed {α : Type} (keep : α → Bool) (at_ : Nat) (l : List α) : List (Nat × α) :=
  ((List.range l.length).zip l).filterMap fun p => if keep p.2 then some (at_ + p.1, p.2) else none

/-- The tile that packed columns give (R327). `cols` holds the Nt columns. -/
def packedTile (wf rk rn kt : Nat) (cols : List Nat) (desc : List LoadDesc) : TileData :=
  let xs := (List.range cols.length).zip (cols.map (expandCol wf kt))
  { tag := tagOfWf wf, rk := rk, rn := rn, kt := kt, nt := cols.length,
    weights := xs.flatMap fun (n, w, _, _) => keyed (· != 0) (8192 * n) w,
    gsize := 32, scales := xs.flatMap fun (n, _, g, _) => keyed (fun _ => true) (256 * n) g,
    loss := xs.any fun (_, _, _, l) => l, origin := none, desc := desc, resident := true, page := none }

/-- The raster sample tile of a block origin (R328). -/
def sampleTile (bx by_ rn : Nat) (desc : List LoadDesc) : TileData :=
  { tag := .fxs, rk := 1, rn := rn, kt := 32, nt := 16 * rn,
    weights := (List.range (16 * rn)).flatMap fun c =>
      [(8192 * c, ((256 * (bx + 4 * (c / 16) + c % 4) + 128 : Nat) : Int)), (8192 * c + 1, ((256 * (by_ + c % 16 / 4) + 128 : Nat) : Int)), (8192 * c + 2, 1)],
    gsize := 32, scales := [], loss := false, origin := some (bx, by_), desc := desc, resident := true, page := none }

/-- The scale an SC24 gives (R198): bits 31-8 of a binary32. -/
def sc24 (n : Nat) : Scale :=
  match fp32.value (256 * (n % 2 ^ 24)) with
  | .fin s m e => ⟨false, s, m, e⟩
  | _ => ⟨true, false, 0, 0⟩

/-- The scale an E8M0 gives to MXFP4 (R212). -/
def e8m0 (n : Nat) : Scale := if n == 255 then ⟨true, false, 0, 0⟩ else ⟨false, false, 1, (n : Int) - 128⟩

/-! ## Products (R215 to R217) -/

def dot : List Int → List Int → Int
  | a :: l, b :: m => a * b + dot l m
  | _, _ => 0

def rnd32 (v : Fv) : Nat := fp32.ofValue .ieee .rne v

/-- Steps 2 and 3 of R216 for one segment: the term, and what it flags. -/
def segTerm (sg : Seg) (c : List Int) (sc : Scale) : Nat × AccFlags :=
  if sg.special || sc.special then (0x7FC00000, { AccFlags.none with special := true })
  else
    let f := fp32.value (rnd32 (Fv.ofInt (dot sg.ints c)))
    let t := rnd32 (f.mul (.fin sc.neg sc.mant (sc.exp + sg.exp)))
    (t, { AccFlags.none with ovf := match fp32.value t with | .inf _ => true | _ => false })

/-- Step 4 of R216. -/
def accStep (x t : Nat) : Nat × AccFlags :=
  let a := fp32.value x
  let b := fp32.value t
  let y := rnd32 (a.add .rne b)
  (y, match a, b, fp32.value y with
    | .inf m, .inf n, _ => { AccFlags.none with nanout := m != n }
    | .fin _ _ _, .fin _ _ _, .inf _ => { AccFlags.none with ovf := true }
    | _, _, _ => AccFlags.none)

/-- One F32 output element over the segments of a row (R216). -/
def sumF32 (t : TileData) (n : Nat) (segs : List Seg) (x : Nat) : Nat × AccFlags :=
  ((List.range segs.length).zip segs).foldl (fun (x, f) (g, sg) =>
    let (u, f1) := segTerm sg (t.column g n) (t.scale g n)
    let (y, f2) := accStep x u
    (y, (f.or f1).or f2)) (x, AccFlags.none)

/-- An I48 sum modulo 2^48, and whether it wrapped. -/
def addI48 (x p : Int) : W64 × AccFlags :=
  let y := (BitVec.ofInt 48 (x + p)).signExtend 64
  (y, { AccFlags.none with ovf := y.toInt != x + p })

def sumI48 (t : TileData) (n : Nat) (segs : List Seg) (x : Int) : W64 × AccFlags :=
  addI48 x (((List.range segs.length).zip segs).foldl (fun p (g, sg) => p + dot sg.ints (t.column g n)) 0)

/-- Element (i, n) of an accumulator after one row of a product. -/
def Acc.product (a : Acc) (t : TileData) (segs : List Seg) (n i j : Nat) : Acc :=
  let lost := { AccFlags.none with aloss := t.loss || segs.any (·.loss) }
  match a.mode with
  | .i48 =>
    let (y, f) := sumI48 t n segs (a.int i j)
    (a.put i j y).flag (f.or lost)
  | _ =>
    let (y, f) := sumF32 t n segs (a.get i j).toNat
    (a.put i j (BitVec.ofNat 64 y)).flag (f.or lost)

/-- A row of integers against a column of an FXS tile, into an I48 element (R339, R342). -/
def Acc.addRow (a : Acc) (t : TileData) (row : List Int) (n i j : Nat) : Acc :=
  let p := ((List.range row.length).zip row).foldl (fun p (k, x) => if x == 0 then p else p + x * t.weight k n) 0
  let (y, f) := addI48 (a.int i j) p
  (a.put i j y).flag f

/-- The pairings of R207. -/
def pairs (af : Nat) (t : TileTag) (m : AccMode) : Bool :=
  match m with
  | .f32 => t != .fxs
  | .i48 => af == 3 && (t == .w3g || t == .w4g)
  | .none => false

/-! ## Edge rows and coverage (R202, R339, R340) -/

/-- A primitive record of 48 bytes (R339). -/
structure Prim where
  xs : List Int
  ys : List Int
  zs : List Nat
  id : Nat
  seq : Nat
  deriving DecidableEq, Repr

def primOf (x : Nat) : Prim :=
  let w (o : Nat) : Nat := x / 2 ^ (8 * o) % 2 ^ 32
  { xs := [w 0, w 8, w 16].map fun n => intOf 32 true n, ys := [w 4, w 12, w 20].map fun n => intOf 32 true n, zs := [w 24, w 28, w 32],
    id := w 36, seq := w 40 }

def nthInt (l : List Int) (i : Nat) : Int := (l[i % 3]?).getD 0

/-- The edge coefficients (a, b, c) of edge i (R202). -/
def Prim.edge (p : Prim) (i : Nat) : List Int :=
  let (x, y, x', y') := (nthInt p.xs i, nthInt p.ys i, nthInt p.xs (i + 1), nthInt p.ys (i + 1))
  [y - y', x' - x, x * y' - x' * y]

/-- Twice the signed area. -/
def Prim.area (p : Prim) : Int := ((List.range 3).map fun i => (p.edge i)[2]?.getD 0).foldl (· + ·) 0

/-- The three edge rows as formed (R339). -/
def Prim.rows (p : Prim) (two : Bool) : List (List Int) :=
  let far := (p.xs ++ p.ys).any fun v => 4194304 < v.natAbs
  if far || p.area == 0 || (p.area < 0 && !two) then List.replicate 3 [0, 0, -1]
  else (List.range 3).map fun i => (p.edge i).map fun v => if p.area < 0 then -v else v

/-- The top-left flag of a row. -/
def topLeft (row : List Int) : Bool :=
  match row with
  | a :: b :: _ => 0 < a || (a == 0 && 0 < b)
  | _ => false

def Raster.flag (r : Raster) (i : Nat) : Bool := (r.flags[i]?).getD false

/-- Whether sample j of primitive p of an accumulator is covered (R340). -/
def Acc.covered (a : Acc) (r : Raster) (p j : Nat) : Bool :=
  (List.range 3).all fun k =>
    let e := a.int (3 * p + k) j
    0 < e || (e == 0 && r.flag (3 * p + k))

/-- The mask of a primitive: bits Ns and above are 0 (R341). -/
def Acc.coverMask (a : Acc) (r : Raster) (p : Nat) : W32 := maskBy fun j => j < r.samples && a.covered r p j

/-! ## Post-operator programs (R338) -/

structure PostStep where
  op : Nat
  mode : Nat
  arg16 : Nat
  arg32 : Nat
  deriving DecidableEq, Repr

def postStep (x : W64) : PostStep :=
  ⟨(x.extractLsb' 0 8).toNat, (x.extractLsb' 8 8).toNat, (x.extractLsb' 16 16).toNat, (x.extractLsb' 32 32).toNat⟩

/-- The steps before END. -/
def program (p : Vector W64 8) : List PostStep := (p.toList.map postStep).takeWhile (·.op != 0)

def PostStep.lo (t : PostStep) : Fv := bf16.value (t.arg32 % 65536)
def PostStep.hi (t : PostStep) : Fv := bf16.value (t.arg32 / 65536)

/-- A step's own fields (R338). -/
def PostStep.ok (t : PostStep) : Bool :=
  match t.op with
  | 1 => t.mode ≤ 1
  | 2 => t.mode ≤ 1
  | 3 => t.lo.isNan || t.hi.isNan || t.lo.cmp t.hi ≤ 0
  | 4 => [1, 3, 5, 6, 7, 8, 9, 12, 13].contains t.mode && t.arg16 % 8 ≤ 4 && t.arg16 < 16
  | 5 => true
  | 6 => true
  | 7 => t.arg32 != 0
  | 8 => true
  | _ => false

/-- The places of the steps: CONVERT and MASK_AND last, EDGE_TL and BARY first, MASK_AND after EDGE_TL. -/
def placesOk : Nat → List PostStep → Bool
  | _, [] => true
  | i, t :: l =>
    (t.op != 4 || l.isEmpty) && (t.op != 8 || (l.isEmpty && i == 1)) && ((t.op != 5 && t.op != 6) || i == 0) &&
      (match l with | u :: _ => u.op != 8 || t.op == 5 | [] => true) && (t.op != 8 || i != 0) && placesOk (i + 1) l

def programOk (p : Vector W64 8) : Bool := (program p).all (·.ok) && placesOk 0 (program p)

/-- Whether a program reads raster state. -/
def usesRaster (p : Vector W64 8) : Bool := (program p).any fun t => t.op == 5 || t.op == 6
def endsMaskAnd (p : Vector W64 8) : Bool := (program p).any (·.op == 8)

/-- The output element size: that of CONVERT, else the accumulator's own (R333). -/
def outSize (a : Acc) (p : Vector W64 8) : Nat :=
  match (program p).find? (·.op == 4) with
  | some t => if t.mode == 1 || t.mode == 3 then 4 else if t.mode == 5 then 2 else 1
  | none => if endsMaskAnd p then 4 else a.size

/-- The larger or smaller of two values, -0 ordering below +0; a NaN gives the other operand (R56). -/
def fvLess (a b : Fv) : Bool :=
  let c := a.cmp b
  c < 0 || (c == 0 && match a, b with
    | .fin true 0 _, .fin false 0 _ => true
    | _, _ => false)

def fvMax (a b : Fv) : Fv := if a.isNan then b else if b.isNan then a else if fvLess a b then b else a
def fvMin (a b : Fv) : Fv := if a.isNan then b else if b.isNan then a else if fvLess b a then b else a

/-- A quotient of two exact values, rounded once (BARY, BLEND_W); 0 divided by anything is +0 or -0 by the signs. -/
def quotient (a : Fv) (neg : Bool) (num den : Nat) : Fv :=
  match a with
  | .fin n m e =>
    if m == 0 then .fin (n != neg) 0 0
    else fp32.value (fp32.round .ieee .rne (n != neg) ⟨m * den, num, e⟩)
  | .inf n => .inf (n != neg)
  | .nan => .nan

/-- The value after SCALE or BIAS by s. -/
def scaled (x s : Fv) : Fv := fp32.value (rnd32 (x.mul s))
def biased (x s : Fv) : Fv := fp32.value (rnd32 (x.add .rne s))

/-- The element a CONVERT writes. `free` is the LFSR value of an RS rounding, which the spec does not give. -/
def convertOut (t : PostStep) (free : W16) (x : Fv) : Nat :=
  let r := rndOf (BitVec.ofNat 3 (t.arg16 % 8)) free
  let sat := 8 ≤ t.arg16
  match t.mode with
  | 12 => toUnorm 255 x
  | 13 => srgbEncode x
  | ty =>
    if isFloatTy ty then (tyFmt ty).ofValue (if sat && ty != 3 then .sat else .ieee) r x
    else
      let (w, sgn) := elemInfo ty
      narrow w sgn false (x.toInt r (loOf w sgn) (hiOf w sgn))

end Sys2Proof.Machine
end

