-- ==== Sys2Proof/Machine/Raster.lean ====
section
/-! DEFINITION. The units of Array, Resolver and Binner operations (R325): what each reads, writes and changes, one row,
record, primitive or line at a time, with its faults (R324), and their checks (R326 to R348). -/

namespace Sys2Proof.Machine

/-! ## Operands (R323, R326) -/

/-- What a unit needs of its operation: the crew, and the uniform operand values. -/
structure XArg where
  crew : Crew
  va : W64
  vb : W64
  vc : W64

def low32 (x : W64) : Nat := x.toNat % 2 ^ 32

def XArg.alc (x : XArg) : Nat := 1024 * x.crew.alcSize

/-- Which addresses an operand accepts: memory or the Alcove, the Alcove alone, memory alone. -/
inductive XPlace where
  | either | alcove | memory
  deriving DecidableEq, Repr

/-- A check's answer: a fault code, with the address it concerns. -/
abbrev XBad := Option (FaultCode × W64)

def chk (b : Bool) (c : FaultCode) (va : W64) : Bool × FaultCode × W64 := (b, c, va)

/-- The first check that fails. -/
def firstBad : List (Bool × FaultCode × W64) → XBad
  | [] => none
  | (b, c, va) :: l => if b then some (c, va) else firstBad l

/-- The address checks of an operand of `n` bytes (R15, R324, R326). -/
def XArg.operand (x : XArg) (va : W64) (n : Nat) (p : XPlace) : List (Bool × FaultCode × W64) :=
  let ins := !upperHalf va && inAlcove va
  [chk (!canonical va) .nonCanonical va,
   chk (upperHalf va || (p == .alcove && !ins) || (p == .memory && ins)) .aperture va,
   chk (ins && x.alc < va.toNat - alcoveBase.toNat + n) .alcoveRange va]

/-- Shape of LDW.mem: WF, R_k, R_n, Kt, Nt (R326, R327). -/
structure LdwShape where
  wf : Nat
  rk : Nat
  rn : Nat
  kt : Nat
  nt : Nat

def ldwShape (b : XBody) (x : XArg) : LdwShape :=
  { wf := (b.xi.extractLsb' 0 3).toNat, rk := (b.xi.extractLsb' 3 5).toNat + 1, rn := (b.xi.extractLsb' 8 5).toNat + 1,
    kt := low32 x.vc % 65536, nt := low32 x.vc / 65536 }

/-- The block origin of LDW.smp (R328). -/
def smpOrigin (x : XArg) : Nat × Nat := (low32 x.vc % 64, low32 x.vc / 256 % 64)

/-- Accumulators of a stream of M rows against a tile of Nt columns. -/
def streamAccs (m nt w : Nat) : Nat := (m + 31) / 32 * ((nt + w - 1) / w)

/-- The scales of LDWS: entry size, group size, entries of a column (R329). -/
def ldwsShape (h : Hdr) (t : TileData) : Nat × Nat × Nat :=
  let g := if h.sub == 1#6 then 128 else 32
  (if t.tag == .mxfp4w then 1 else 4, g, (t.kt + g - 1) / g)

def XArg.tile (x : XArg) (b : XBody) : Option TileData := x.crew.tile b.xt.toNat
def XArg.acc (x : XArg) (b : XBody) : Acc := x.crew.acc b.xa.toNat

/-- K positions that an MMA or MMAG fetches (R335). -/
def fetched (p : PreOp) (kt : Nat) : Nat :=
  match p with
  | .lin kv => if kv == 0 then kt else min kt kv
  | .tr kv => if kv == 0 then kt else min kt kv
  | .win _ => kt

/-- The stationary tiles and accumulators an operation names (R322). -/
def xTiles (i : Instr) (x : XArg) : List Nat × List Nat :=
  let run (b : XBody) (n : Nat) : List Nat := (List.range n).map (b.xa.toNat + ·)
  let nt (b : XBody) : Nat := match x.tile b with | some t => t.nt | none => 1
  match i with
  | .ldwMem _ b | .ldwSmp _ b | .ldws _ b | .trel _ b => ([b.xt.toNat], [])
  | .mma _ b | .mmag _ b => ([b.xt.toNat], run b (streamAccs (b.xm.toNat + 1) (nt b) (x.acc b).cols))
  | .accz _ b => ([], run b ((b.xi.extractLsb' 0 4).toNat + 1))
  | .accld _ b | .accstRaw _ b | .accstPost _ b | .accrdEl _ b | .accrdSt _ b | .preopLin _ b | .preopTr _ b | .preopWin _ b
  | .postop _ b | .cvg _ b => ([], [b.xa.toNat])
  | .edge _ b => ([b.xt.toNat], run b ((b.xm.toNat + 10) / 10))
  | .blend _ b | .flt _ b => ([b.xt.toNat], run b (streamAccs (b.xm.toNat + 1) (nt b) 32))
  | .rslvLt _ b | .rslvLe _ b => ([b.xt.toNat], [b.xa.toNat])
  | _ => ([], [])

/-- Step 1 of R336 for A and P, whatever the tile: their alignment, and A's aperture. -/
def streamAddr (b : XBody) (x : XArg) (p : XPlace) : List (Bool × FaultCode × W64) :=
  let e := actBytes b.af.toNat
  chk (x.va.toNat % e != 0 || low32 x.vb % e != 0) .misaligned x.va :: x.operand x.va 0 p

/-- The checks of register values and addresses that no tile decides (R326 to R348). -/
def xPre (i : Instr) (x : XArg) : XBad :=
  match i with
  | .ldwMem _ b =>
    let d := ldwShape b x
    let ws := low32 x.vb
    firstBad ([chk (32 < d.rk * d.rn) .illegalOpcode 0, chk (d.kt % 32 != 0 || d.kt < 32 || 256 * d.rk < d.kt) .illegalOpcode 0,
               chk (d.nt < 1 || perMacro d.wf * d.rn < d.nt) .illegalOpcode 0] ++
              x.operand x.va ((d.nt - 1) * ws + columnBytes d.wf d.kt) .either ++ [chk (x.va.toNat % 4 != 0 || ws % 4 != 0) .misaligned x.va])
  | .ldwSmp _ b =>
    let (bx, by_) := smpOrigin x
    let rn := (b.xi.extractLsb' 8 5).toNat + 1
    firstBad [chk (bx % 4 != 0 || by_ % 4 != 0 || 64 < bx + 4 * rn || 64 < by_ + 4) .illegalOpcode 0]
  | .mma _ b => firstBad (streamAddr b x .alcove)
  | .accz _ b => firstBad [chk (15 < b.xa.toNat + (b.xi.extractLsb' 0 4).toNat) .illegalOpcode 0]
  | .accld _ _ => firstBad (x.operand x.va 8256 .either ++ [chk (x.va.toNat % 64 != 0) .misaligned x.va])
  | .accstRaw _ _ => firstBad (x.operand x.va 8256 .either ++ [chk (x.va.toNat % 64 != 0) .misaligned x.va])
  | .preopWin _ _ => firstBad (x.operand x.va 192 .memory ++ [chk (x.va.toNat % 64 != 0) .misaligned x.va])
  | .postop _ _ => firstBad (x.operand x.va 64 .memory ++ [chk (x.va.toNat % 64 != 0) .misaligned x.va])
  | .edge _ b =>
    firstBad ([chk (16 < b.xa.toNat + (b.xm.toNat + 10) / 10) .illegalOpcode 0] ++ x.operand x.va (48 * (b.xm.toNat + 1)) .alcove ++
              [chk (x.va.toNat % 16 != 0) .misaligned x.va])
  | .rslvLt _ b | .rslvLe _ b =>
    firstBad ([chk (63 < low32 x.vb) .illegalOpcode 0] ++ x.operand x.va (48 * (b.xm.toNat + 1)) .alcove ++
              [chk (x.va.toNat % 16 != 0) .misaligned x.va])
  | .rslvRd _ _ | .rslvLd _ _ =>
    firstBad ([chk (63 < low32 x.vb) .illegalOpcode 0] ++ x.operand x.va 12288 .memory ++ [chk (x.va.toNat % 64 != 0) .misaligned x.va])
  | .rslvClr _ _ => firstBad [chk (63 < low32 x.vb) .illegalOpcode 0]
  | .binfl _ _ =>
    firstBad ([chk (low32 x.vc % 65536 == 0) .illegalOpcode 0, chk (!canonical x.va) .nonCanonical x.va, chk (!canonical x.vb) .nonCanonical x.vb] ++
              x.operand x.va 0 .memory ++ x.operand x.vb 0 .memory ++
              [chk (x.va.toNat % 16 != 0) .misaligned x.va, chk (x.vb.toNat % 64 != 0) .misaligned x.vb])
  | _ => none

/-- The checks of MMA and MMAG that a pre-operator or a tile decides, in the order of R336. Under .win an MMAG has no A and no P. -/
def streamPost (b : XBody) (x : XArg) (mem : Bool) : XBad :=
  let m := b.xm.toNat + 1
  let a := x.acc b
  let win := match a.pre with | .win _ => true | _ => false
  (firstBad ((if mem && !win then streamAddr b x .memory else []) ++ [chk (win && !mem) .illegalOpcode 0])).or
    (match x.tile b with
    | none => some (.formatMismatch, 0)
    | some t =>
      let p := low32 x.vb
      let k := fetched a.pre t.kt
      let n := streamAccs m t.nt a.cols
      let ext := match a.pre with
        | .win _ => 0
        | .lin _ => (m - 1) * p + k * actBytes b.af.toNat
        | .tr _ => (k - 1) * p + m * actBytes b.af.toNat
      firstBad ((if mem then [] else x.operand x.va ext .alcove) ++
        [chk (!pairs b.af.toNat t.tag a.mode) .formatMismatch 0, chk (16 < b.xa.toNat + n) .illegalOpcode 0,
         chk ((List.range n).any fun j => (x.crew.acc (b.xa.toNat + j)).mode != a.mode) .formatMismatch 0]))

/-- The checks of FLT and BLEND (R342, R343). -/
def integerPost (b : XBody) (x : XArg) (more : List (Bool × FaultCode × W64)) : XBad :=
  match x.tile b with
  | none => some (.formatMismatch, 0)
  | some t =>
    let n := streamAccs (b.xm.toNat + 1) t.nt 32
    firstBad ([chk (t.tag != .fxs || t.origin.isSome) .formatMismatch 0,
               chk ((List.range (min n (16 - b.xa.toNat))).any fun j => (x.crew.acc (b.xa.toNat + j)).mode != .i48) .formatMismatch 0,
               chk (16 < b.xa.toNat + n) .illegalOpcode 0] ++ more)

/-- Whether a tile is a raster sample tile (R328). -/
def isSample (t : Option TileData) : Bool := match t with | some t => t.origin.isSome | none => false

/-- The checks that depend on tile state, once the hold has cleared (R322). -/
def xPost (i : Instr) (x : XArg) : XBad :=
  match i with
  | .ldws h b =>
    match x.tile b with
    | none => some (.formatMismatch, 0)
    | some t =>
      let (s, g, n) := ldwsShape h t
      firstBad ([chk (t.tag != .w3g && t.tag != .w4g && t.tag != .mxfp4w) .formatMismatch 0,
                 chk (if t.tag == .mxfp4w then g != 32 else t.kt % g != 0) .illegalOpcode 0] ++
                x.operand x.va ((t.nt - 1) * low32 x.vb + n * s) .either)
  | .mma _ b => streamPost b x false
  | .mmag _ b => streamPost b x true
  | .accstRaw _ b => firstBad [chk ((x.acc b).mode == .none) .formatMismatch 0]
  | .accstPost _ b =>
    let a := x.acc b
    let e := outSize a a.post
    firstBad ([chk (a.mode == .none || (usesRaster a.post && a.raster.isNone)) .formatMismatch 0,
               chk (!endsMaskAnd a.post && a.cols < (b.xi.extractLsb' 0 6).toNat + 1) .illegalOpcode 0] ++ x.operand x.va 0 .memory ++
              [chk (x.va.toNat % e != 0 || (!endsMaskAnd a.post && low32 x.vb % e != 0)) .misaligned x.va])
  | .edge _ b =>
    let n := (b.xm.toNat + 10) / 10
    firstBad [chk (!isSample (x.tile b) || (List.range n).any fun j => (x.crew.acc (b.xa.toNat + j)).mode != .i48) .formatMismatch 0]
  | .flt _ b =>
    integerPost b x (chk (low32 x.vb % 4 != 0) .misaligned x.va :: x.operand x.va (b.xm.toNat * low32 x.vb + 4) .alcove)
  | .blend _ b =>
    integerPost b x (x.operand x.va (4 * (b.xm.toNat + 1)) .alcove ++ x.operand x.vb (4 * (b.xm.toNat + 1)) .alcove)
  | .rslvLt _ b | .rslvLe _ b =>
    let a := x.acc b
    firstBad [chk (!isSample (x.tile b) || a.mode != .i48 || (match a.raster with | some r => r.prims != b.xm.toNat + 1 | none => true)) .formatMismatch 0]
  | _ => none

/-! ## Memory of a unit -/

inductive ArrErr where
  | fault (f : EngFault)
  | cause (c : Byte) (va : W64)
  deriving DecidableEq, Repr

/-- A unit's outcome: the lines it wrote, for the leaf signature, and the entries it updated. -/
abbrev Unit_ := State × Except ArrErr (SigBits × Nat)

/-- Go on with the value, or stop at the error. -/
def thenDo {α β : Type} (r : State × Except ArrErr α) (f : State → α → State × Except ArrErr β) : State × Except ArrErr β :=
  match r with
  | (s, .error e) => (s, .error e)
  | (s, .ok x) => f s x

/-- TYPE memory, or the Alcove; TYPE memory alone. -/
def Accept.either : Accept := ⟨[0], none, false⟩
def Accept.memoryOnly : Accept := ⟨[0], some .aperture, false⟩

def Agent.get (a : Agent) (acc : Accept) (va : W64) (n : Nat) (s : State) : State × Except ArrErr Nat :=
  match a.read acc va n s with
  | (s, .error f) => (s, .error (.fault f))
  | (s, .ok x) => (s, .ok x)

/-- The places of a span's lines, each translated on its own, with the bytes that lie in each. -/
def Agent.spanPlaces (a : Agent) (acc : Accept) : Nat → W64 → Nat → State → State × Except ArrErr (List (Place × Nat))
  | 0, _, _, s => (s, .ok [])
  | f + 1, va, n, s =>
    if n == 0 then (s, .ok [])
    else
      let k := min n (128 - va.toNat % 128)
      match a.place .store acc va s with
      | (s, .fault c) => (s, .error (.fault ⟨c, va, .store⟩))
      | (s, .miss _) => (s, .error (.fault ⟨.notPresent, va, .store⟩))
      | (s, .ok p) => thenDo (Agent.spanPlaces a acc f (va + BitVec.ofNat 64 k) (n - k) s) fun s l => (s, .ok ((p, k) :: l))

/-- Bytes written line by line, once every line of them has translated: what a fault stops has written nothing (R324). -/
def Agent.put (a : Agent) (acc : Accept) (va : W64) (n x : Nat) (s : State) : State × Except ArrErr SigBits :=
  thenDo (a.spanPlaces acc (n / 128 + 2) va n s) fun s l =>
    let r := l.foldl (fun (r : State × Nat × SigBits) (p : Place × Nat) =>
      (a.writeAt p.1 p.2 (r.2.1 % 2 ^ (8 * p.2)) r.1, r.2.1 / 2 ^ (8 * p.2), r.2.2 ||| placeSig p.1)) (s, x, 0)
    (r.1, .ok r.2.2)

/-- The elements of a list of addresses, of `e` bytes each. -/
def Agent.gather (a : Agent) (acc : Accept) (e : Nat) : List (Option W64 × Nat) → State → State × Except ArrErr (List Nat)
  | [], s => (s, .ok [])
  | (none, d) :: l, s => thenDo (Agent.gather a acc e l s) fun s xs => (s, .ok (d :: xs))
  | (some va, _) :: l, s => thenDo (a.get acc va e s) fun s x => thenDo (Agent.gather a acc e l s) fun s xs => (s, .ok (x :: xs))

def State.setCrew (s : State) (a : Agent) (crew : Nat) (f : Crew → Crew) : State := s.modCrew a.cid crew f

def off64 (n : Nat) : W64 := BitVec.ofNat 64 n

/-! ## Loads of tiles and accumulators -/

/-- The tile that LDW.mem reads (R327). -/
def Agent.loadTile (a : Agent) (b : XBody) (x : XArg) (d : List LoadDesc) (s : State) : State × Except ArrErr TileData :=
  let h := ldwShape b x
  let n := columnBytes h.wf h.kt
  thenDo (a.gather .either n ((List.range h.nt).map fun c => (some (x.va + off64 (c * low32 x.vb)), 0)) s) fun s cols =>
    (s, .ok (packedTile h.wf h.rk h.rn h.kt cols d))

/-- A tile with the scales that LDWS reads (R329). -/
def Agent.loadScales (a : Agent) (h : Hdr) (x : XArg) (t : TileData) (s : State) : State × Except ArrErr TileData :=
  let (sz, g, n) := ldwsShape h t
  thenDo (a.gather .either (n * sz) ((List.range t.nt).map fun c => (some (x.va + off64 (c * low32 x.vb)), 0)) s) fun s cols =>
    let one (x j : Nat) : Scale := if sz == 1 then e8m0 (x / 2 ^ (8 * j) % 256) else sc24 (x / 2 ^ (32 * j) % 2 ^ 24)
    (s, .ok { t with gsize := g, scales := ((List.range cols.length).zip cols).flatMap fun (c, x) => (List.range n).map fun j => (256 * c + j, one x j) })

/-- The tile that a load descriptor gives when it is replayed (R321). -/
def Agent.replay (a : Agent) (crew : Crew) : List LoadDesc → Option TileData → State → State × Except ArrErr (Option TileData)
  | [], t, s => (s, .ok t)
  | d :: l, t, s =>
    let x : XArg := ⟨crew, d.va, d.vb, d.vc⟩
    match d.instr, t with
    | .ldwMem _ b, _ => thenDo (a.loadTile b x [d] s) fun s t => Agent.replay a crew l (some t) s
    | .ldwSmp _ b, _ =>
      let (bx, by_) := smpOrigin x
      Agent.replay a crew l (some (sampleTile bx by_ ((b.xi.extractLsb' 8 5).toNat + 1) [d])) s
    | .ldws h _, some t => thenDo (a.loadScales h x t s) fun s u => Agent.replay a crew l (some { u with desc := t.desc ++ [d] }) s
    | _, _ => Agent.replay a crew l t s

/-! ## Products (R336) -/

/-- The lattice of a window pre-operator, where MMAG can use it. -/
def windowLattice (bytes : List Byte) (e : Nat) : Option Lattice :=
  let t := latOf bytes
  if t.fieldsOk && t.window && t.winOk && (t.ndim == 3 || t.ndim == 4) && (List.range 6).all (fun d => t.span d == 1) && 1 ≤ t.oh && 1 ≤ t.ow &&
      t.size == e then some t
  else none

/-- The elements of row i of a stream: those beyond the fetched positions read as 0. -/
def Agent.streamRow (a : Agent) (b : XBody) (x : XArg) (kt i : Nat) (mem : Bool) (s : State) : State × Except ArrErr (List Nat) :=
  let e := actBytes b.af.toNat
  let p := low32 x.vb
  let acc : Accept := if mem then .memoryOnly else .any
  match (x.acc b).pre with
  | .lin kv =>
    let k := fetched (.lin kv) kt
    thenDo (a.get acc (x.va + off64 (i * p)) (k * e) s) fun s v => (s, .ok ((List.range k).map fun j => v / 2 ^ (8 * e * j) % 2 ^ (8 * e)))
  | .tr kv => a.gather acc e ((List.range (fetched (.tr kv) kt)).map fun k => (some (x.va + off64 (k * p + i * e)), 0)) s
  | .win bytes =>
    match windowLattice bytes e with
    | none => (s, .error (.cause 0x12 x.va))
    | some t =>
      let c : Vector W32 6 := #v[x.va.extractLsb' 32 32, x.va.extractLsb' 0 32, x.vb.extractLsb' 0 32, 0, 0, 0]
      a.gather acc e ((List.range kt).map fun k => (t.windowAddr c i k, t.fill)) s

/-- Row i of MMA or MMAG. -/
def Agent.streamUnit (a : Agent) (crew : Nat) (b : XBody) (x : XArg) (mem : Bool) (i : Nat) (s : State) : Unit_ :=
  match x.tile b with
  | none => (s, .ok (0, 0))
  | some t =>
    thenDo (a.streamRow b x t.kt i mem s) fun s row =>
      let segs := actRow b.af.toNat t.rk row
      let w := (x.acc b).cols
      let cn := (t.nt + w - 1) / w
      (s.setCrew a crew fun c => (List.range t.nt).foldl (fun c n =>
        let k := b.xa.toNat + i / 32 * cn + n / w
        c.setAcc k ((c.acc k).product t segs n (i % 32) (n % w))) c, .ok (0, 0))

/-- A generated row against an FXS tile (R342). -/
def State.integerRow (s : State) (a : Agent) (crew : Nat) (b : XBody) (t : TileData) (i : Nat) (row : List Int) : State :=
  let cn := (t.nt + 31) / 32
  s.setCrew a crew fun c => (List.range t.nt).foldl (fun c n =>
    let k := b.xa.toNat + i / 32 * cn + n / 32
    c.setAcc k ((c.acc k).addRow t row n (i % 32) (n % 32))) c

/-- The row a point of FLT forms (R343). -/
def filterRow (rc : Nat) : List Int :=
  let u := min (rc % 65536) 2047
  let v := min (rc / 65536) 2047
  let du : Int := (u : Int) - 64
  let dv : Int := (v : Int) - 64
  let x0 := Int.fdiv du 128
  let y0 := Int.fdiv dv 128
  let fx := (du - 128 * x0)
  let fy := (dv - 128 * y0)
  let clamp (z : Int) : Nat := (clampInt 0 15 z).toNat
  let term (i2 j2 : Bool) (k : Nat) : Int :=
    if 16 * clamp (y0 + j2.toNat) + clamp (x0 + i2.toNat) == k then (if i2 then fx else 128 - fx) * (if j2 then fy else 128 - fy) else 0
  (List.range 256).map fun k => term false false k + term true false k + term false true k + term true true k

/-- The row a pixel of BLEND forms (R344). -/
def blendRow (src dst : Nat) : List Int :=
  let ch (x c : Nat) : Int := ((x / 2 ^ (8 * c) % 256 : Nat) : Int)
  let q := List.range 4
  q.map (ch src) ++ q.map (ch dst) ++ q.map (fun c => ch dst c * ch src 3) ++ q.map (fun c => ch src c * ch src 3) ++ [65025, 255]

/-- Primitive p of EDGE: three rows and the accumulator's raster state (R339). -/
def Agent.edgeUnit (a : Agent) (crew : Nat) (h : Hdr) (b : XBody) (x : XArg) (p : Nat) (s : State) : Unit_ :=
  match x.tile b with
  | none => (s, .ok (0, 0))
  | some t =>
    thenDo (a.get .any (x.va + off64 (48 * p)) 48 s) fun s v =>
      let rows := (primOf v).rows (h.sub == 1#6)
      let k := b.xa.toNat + p / 10
      let q := p % 10
      (s.setCrew a crew fun c =>
        let acc := (List.range 3).foldl (fun (acc : Acc) r =>
          (List.range t.nt).foldl (fun acc n => acc.addRow t ((rows[r]?).getD []) n (3 * q + r) n) acc) (c.acc k)
        let flags := (match acc.raster with | some r => if q == 0 then [] else r.flags | none => []) ++ rows.map topLeft
        c.setAcc k { acc with raster := some ⟨q + 1, t.nt, flags⟩ }, .ok (0, 0))

/-! ## Outputs (R332, R333, R338, R344) -/

/-- The FP32 that SCALE or BIAS uses for a column. -/
def Agent.scaleOf (a : Agent) (t : PostStep) (n : Nat) (s : State) : State × Except ArrErr Fv :=
  if t.mode == 0 then (s, .ok (fp32.value t.arg32))
  else
    let o := t.arg32 + 4 * n
    if a.alcSize < o + 4 then (s, .error (.cause 0x07 (alcoveBase + off64 o)))
    else (s, .ok (fp32.value (Mem.readN (s.core a.core).alcove (a.alcBase + o) 4)))

/-- A row's edge value in BARY; a row the tile does not have is not stated, and stands free. -/
def baryRow (acc : Acc) (free : Nat) (i n : Nat) : Int :=
  if i < 32 then acc.int i n else ((Config.freeElement free i).extractLsb' 0 48).toInt

/-- One step of a program on x; `exact` is true while x is still the exact element. -/
def Agent.postOne (a : Agent) (acc : Acc) (i n : Nat) (t : PostStep) (x : Fv) (s : State) : State × Except ArrErr Fv :=
  match t.op with
  | 1 => thenDo (a.scaleOf t n s) fun s v => (s, .ok (scaled x v))
  | 2 => thenDo (a.scaleOf t n s) fun s v => (s, .ok (biased x v))
  | 3 => (s, .ok (if x.isNan then t.lo else fvMin (fvMax x t.lo) t.hi))
  | 5 =>
    let e := acc.int i n
    let f := match acc.raster with | some r => r.flag i | none => false
    (s, .ok (Fv.ofInt (if 0 < e || (e == 0 && f) then 1 else 0)))
  | 6 =>
    let p := i / 3
    let k := i % 3
    let (d, s) := s.draw
    let row (j : Nat) : Int := baryRow acc d (3 * p + j) n
    let sum := row 0 + row 1 + row 2
    (s, .ok (if sum == 0 then .fin false 0 0 else quotient (Fv.ofInt (row ((k + 1) % 3))) (sum < 0) sum.natAbs 1))
  | 7 => (s, .ok (quotient x false t.arg32 1))
  | _ => (s, .ok x)

/-- The steps of a program on x. -/
def Agent.postAll (a : Agent) (acc : Acc) (i n : Nat) : List PostStep → Fv → State → State × Except ArrErr Fv
  | [], x, s => (s, .ok x)
  | t :: l, x, s => thenDo (a.postOne acc i n t x s) fun s x => Agent.postAll a acc i n l x s

/-- A value that is an integer. -/
def Fv.int? : Fv → Option Int
  | .fin n m e =>
    if 0 ≤ e then some (signed n (m * 2 ^ e.toNat))
    else if m % 2 ^ (-e).toNat == 0 then some (signed n (m / 2 ^ (-e).toNat)) else none
  | _ => none

/-- The bytes an element comes to: by CONVERT, else by the accumulator's own format. An I48 slot takes an exact integer, which EDGE_TL
gives and CLAMP keeps within its bounds; one that a step has rounded, or that CLAMP has made a fraction or an infinity, is not
stated without a CONVERT: its slot takes a free value (assumption 39). -/
def State.outValue (s : State) (acc : Acc) (x : Fv) : State × Nat :=
  let ps := program acc.post
  match ps.find? (·.op == 4) with
  | some t =>
    let (k, s) := s.draw
    (s, convertOut t ((Config.freeLane k 0).extractLsb' 0 16) x)
  | none =>
    if acc.mode == .i48 then
      match (if ps.all fun t => t.op == 5 || t.op == 3 then Fv.int? x else none) with
      | some y => (s, narrow 64 true false y)
      | none =>
        let (k, s) := s.draw
        (s, (Config.freeElement k 0).toNat)
    else (s, rnd32 x)

/-- Element (i, n) of ACCST.post as its output bytes. -/
def Agent.postElement (a : Agent) (acc : Acc) (i n : Nat) (s : State) : State × Except ArrErr Nat :=
  let x0 := if acc.mode == .i48 then Fv.ofInt (acc.int i n) else fp32.value (acc.get i n).toNat
  thenDo (a.postAll acc i n (program acc.post) x0 s) fun s v =>
    let (s, out) := s.outValue acc v
    (s, .ok out)

/-- The output bytes of consecutive elements of a row, from a list of columns. -/
def Agent.postElements (a : Agent) (acc : Acc) (i e : Nat) : List Nat → State → State × Except ArrErr Nat
  | [], s => (s, .ok 0)
  | n :: l, s =>
    thenDo (a.postElement acc i n s) fun s x =>
      thenDo (Agent.postElements a acc i e l s) fun s r => (s, .ok (x + 2 ^ (8 * e) * r))

/-- The parts of a line that consecutive items of `e` bytes from an address fill: the first item and how many (R325). -/
def lineRuns (va : W64) (e total : Nat) : List (Nat × Nat) :=
  let first := (128 - va.toNat % 128) / e
  (List.range ((va.toNat % 128 + e * total + 127) / 128)).map fun u =>
    let at_ := if u == 0 then 0 else first + 128 / e * (u - 1)
    (at_, min (if u == 0 then first else 128 / e) (total - at_))

/-- The units of ACCST.post: the row and the run of elements that lie in one line of memory (R325). A program that ends in MASK_AND writes
the words of one row. -/
def postUnits (b : XBody) (x : XArg) : List (Nat × Nat × Nat) :=
  let acc := x.acc b
  if endsMaskAnd acc.post then (lineRuns x.va 4 (match acc.raster with | some r => r.prims | none => 0)).map fun r => (0, r)
  else
    (List.range (b.xm.toNat + 1)).flatMap fun i =>
      (lineRuns (x.va + off64 (i * low32 x.vb)) (outSize acc acc.post) ((b.xi.extractLsb' 0 6).toNat + 1)).map fun r => (i, r)

/-- One line of ACCST.post. -/
def Agent.postUnit (a : Agent) (b : XBody) (x : XArg) (u : Nat) (s : State) : Unit_ :=
  let acc := x.acc b
  match (postUnits b x)[u]? with
  | none => (s, .ok (0, 0))
  | some (i, n, k) =>
    let ns := (List.range k).map (n + ·)
    if endsMaskAnd acc.post then
      match acc.raster with
      | none => (s, .ok (0, 0))
      | some r =>
        let w := ns.foldr (fun p y => (acc.coverMask r p).toNat + 2 ^ 32 * y) 0
        thenDo (a.put .memoryOnly (x.va + off64 (4 * n)) (4 * k) w s) fun s σ => (s, .ok (σ, 0))
    else
      let e := outSize acc acc.post
      thenDo (a.postElements acc i e ns s) fun s out =>
        thenDo (a.put .memoryOnly (x.va + off64 (i * low32 x.vb + n * e)) (k * e) out s) fun s σ => (s, .ok (σ, 0))

/-- The u-th piece of a span of `total` bytes at va, cut at lines: offset and length. -/
def pieceOf (va : W64) (total u : Nat) : Nat × Nat :=
  let first := 128 - va.toNat % 128
  let off := if u == 0 then 0 else first + 128 * (u - 1)
  (off, min (if u == 0 then first else 128) (total - off))

def pieces (va : W64) (total : Nat) : Nat := (va.toNat % 128 + total + 127) / 128

/-! ## The Resolver (R345 to R347, R416) -/

/-- An entry of a slot: depth in the low word, then ID, then SEQ. -/
abbrev Entry96 := BitVec 96

def State.slotEntries (s : State) (key : Nat) : List (Nat × Entry96) := (lookup s.resolver key).getD []

def State.setSlot (s : State) (key : Nat) (l : List (Nat × Entry96)) : State :=
  { s with resolver := if l.isEmpty then remove s.resolver key else insert s.resolver key l }

def setEntry (l : List (Nat × Entry96)) (k : Nat) (x : Entry96) : List (Nat × Entry96) := if x == 0 then remove l k else insert l k x

def entryAt (l : List (Nat × Entry96)) (k : Nat) : Entry96 := (lookup l k).getD 0

/-- Whether an RSLV of a context may use a slot (R416). -/
def State.slotGranted (s : State) (hall slot cid : Nat) : Bool :=
  let r := s.rsownOf hall slot
  rsV r && rsCv r && rsCid r == cid

/-- The depth of sample j of primitive p (R346): divided by the record's own Sa, with its sign (R339), exact before one rounding, -0
stored as +0. -/
def depthAt (acc : Acc) (p j : Nat) (r : Prim) : Option W32 :=
  let e (k : Nat) : Fv := Fv.ofInt (acc.int (3 * p + k) j)
  let z (k : Nat) : Fv := fp32.value ((r.zs[k]?).getD 0)
  match z 0, z 1, z 2 with
  | .fin _ _ _, .fin _ _ _, .fin _ _ _ =>
    match quotient (Fv.add .rne (Fv.add .rne ((e 1).mul (z 0)) ((e 2).mul (z 1))) ((e 0).mul (z 2))) (r.area < 0) r.area.natAbs 1 with
    | .fin n m x => some (if m == 0 then 0 else BitVec.ofNat 32 (rnd32 (.fin n m x)))
    | .inf n => some (f32Inf n)
    | .nan => none
  | _, _, _ => none

/-- Whether a candidate replaces an entry (R346). -/
def passes (le : Bool) (z : W32) (id seq : Nat) (e : Entry96) : Bool :=
  let d := fp32.value (e.extractLsb' 0 32).toNat
  let c := (fp32.value z.toNat).cmp d
  let eid := (e.extractLsb' 32 32).toNat
  let eseq := (e.extractLsb' 64 32).toNat
  d.isNan || c < 0 || (c == 0 && ((if le then eseq < seq else seq < eseq) || (seq == eseq && id < eid)))

/-- Primitive p of RSLV.lt or .le. -/
def Agent.resolveUnit (a : Agent) (b : XBody) (x : XArg) (le : Bool) (p : Nat) (s : State) : Unit_ :=
  let acc := x.acc b
  match (x.tile b).bind (·.origin), acc.raster with
  | some (bx, by_), some r =>
    thenDo (a.get .any (x.va + off64 (48 * p)) 48 s) fun s v =>
      let pr := primOf v
      let key := 64 * hallOf a.core + low32 x.vb
      let (l, n) := (List.range r.samples).foldl (fun (l, n) j =>
        let px := bx + 4 * (j / 16) + j % 4
        let py := by_ + j % 16 / 4
        if px < 32 && py < 32 && acc.covered r p j then
          match depthAt acc p j pr with
          | some z =>
            if passes le z pr.id pr.seq (entryAt l (32 * py + px)) then
              (setEntry l (32 * py + px) (BitVec.ofNat 96 (z.toNat + 2 ^ 32 * pr.id + 2 ^ 64 * pr.seq)), n + 1)
            else (l, n)
          | none => (l, n)
        else (l, n)) (s.slotEntries key, 0)
      (s.setSlot key l, .ok (0, n))
  | _, _ => (s, .ok (0, 0))

/-- The key of the slot an operation names. -/
def Agent.slotKey (a : Agent) (x : XArg) : Nat := 64 * hallOf a.core + low32 x.vb

/-- Entry u of RSLV.rd: the whole entry goes to memory as it stands (R347). -/
def Agent.slotOut (a : Agent) (x : XArg) (u : Nat) (s : State) : Unit_ :=
  thenDo (a.put .memoryOnly (x.va + off64 (12 * u)) 12 (entryAt (s.slotEntries (a.slotKey x)) u).toNat s) fun s σ => (s, .ok (σ, 0))

/-- Entry u of RSLV.ld: the whole entry comes from memory, and is one that was written (R345, R347). -/
def Agent.slotIn (a : Agent) (x : XArg) (u : Nat) (s : State) : Unit_ :=
  thenDo (a.get .memoryOnly (x.va + off64 (12 * u)) 12 s) fun s v =>
    (s.setSlot (a.slotKey x) (setEntry (s.slotEntries (a.slotKey x)) u (BitVec.ofNat 96 v)), .ok (0, 1))

def State.clearSlot (s : State) (core : Nat) (x : XArg) : State :=
  let e : Entry96 := BitVec.ofNat 96 (low32 x.va + 2 ^ 32 * (2 ^ 64 - 1))
  s.setSlot (64 * hallOf core + low32 x.vb) ((List.range 1024).map fun k => (k, e))

/-! ## The Binner (R407 to R414) -/

/-- A list-set header (R408). -/
structure ListSet where
  pooltop : Nat
  pcap : Nat
  pbase : Nat
  tw : Nat
  th : Nat
  full : Bool
  ok : Bool

def listSet (x : Nat) : ListSet :=
  let f (o n : Nat) : Nat := x / 2 ^ (8 * o) % 2 ^ (8 * n)
  { pooltop := f 0 4, pcap := f 4 4, pbase := f 8 8, tw := f 16 1, th := f 17 1, full := f 18 1 % 2 == 1,
    ok := 1 ≤ f 4 4 && f 4 4 ≤ 2 ^ 24 && f 8 8 < 2 ^ 57 && f 8 8 % 512 == 0 && 1 ≤ f 16 1 && f 16 1 ≤ 128 && 1 ≤ f 17 1 && f 17 1 ≤ 128 &&
      f 18 1 < 2 && f 19 1 == 0 && f 28 4 == 0 && f 32 8 < 2 ^ 57 && f 40 24 == 0 }

/-- Where a location of a list set lies: it must be TYPE Atrium (R348). -/
def Agent.listPlace (a : Agent) (va : W64) (s : State) : State × Except ArrErr Nat :=
  match a.place .atomic ⟨[1], some .aperture, false⟩ va s with
  | (s, .ok (.atrium off)) => (s, .ok off)
  | (s, .fault c) => (s, .error (.fault ⟨c, va, .atomic⟩))
  | (s, _) => (s, .error (.fault ⟨.aperture, va, .atomic⟩))

def State.atr (s : State) (off n : Nat) : Nat := Mem.readN s.atrium off n
def State.setAtr (s : State) (off n x : Nat) : State := { s with atrium := Mem.writeN s.atrium off n x }

/-- The signed coordinates of an input record, x then y. -/
def inputCoords (rc : Nat) : List Int := (List.range 6).map fun k => intOf 32 true (rc / 2 ^ (32 * k) % 2 ^ 32)

/-- The tiles of a record (R411 step 3), in the order of step 4. -/
def binTiles (h : ListSet) (rc : Nat) : List (Nat × Nat) :=
  let p := primOf rc
  let hit (t : Nat) (vs : List Int) : Bool :=
    let lo : Int := 8192 * (t : Int)
    vs.any (fun v => lo ≤ v) && vs.any fun v => v < lo + 8192
  (List.range h.th).flatMap fun ty => (List.range h.tw).filterMap fun tx => if hit tx p.xs && hit ty p.ys then some (tx, ty) else none

/-- The record of a tile (R411 step 5), as 48 bytes. -/
def tileRecord (rc tx ty : Nat) : Nat :=
  let cs := inputCoords rc
  let local_ := (List.range 6).foldl (fun n k =>
    n + 2 ^ (32 * k) * narrow 32 true false ((cs[k]?).getD 0 - 8192 * ((if k % 2 == 0 then tx else ty : Nat) : Int))) 0
  local_ + 2 ^ 192 * (rc / 2 ^ 192 % 2 ^ 160)

/-- What a step of a Binner came to: one more step done on a tile, with the lines written; the last tile done, or none to do; or the limit met. -/
inductive BinOut where
  | tile (b : Binning) (sig : SigBits)
  | binned (sig : SigBits)
  | full
  deriving DecidableEq, Repr

/-- Where the tile entries and the chunks of a list set stand (R408 to R410). -/
def tileAt (x : XArg) (h : ListSet) (t : Nat × Nat) : W64 := x.vb + off64 (64 + 16 * (t.2 * h.tw + t.1))
def chunkAt (h : ListSet) (c slot : Nat) : W64 := off64 (h.pbase + 512 * c + 48 * slot)

/-- What a step on one tile comes to. -/
inductive Append where
  | again (b : Binning)           -- its word is read, or has changed since
  | done (b : Binning)            -- the record is in its list
  | limit (b : Binning)           -- POOLTOP has met PCAP
  deriving DecidableEq, Repr

/-- A step of appending a primitive to a tile (R412): the tile word is read, with a chunk in hand and the record in its slot 0 where one is
needed; then comes the CAS, which fails where another binner has changed the word. -/
def Agent.appendTile (a : Agent) (x : XArg) (hoff : Nat) (t : Nat × Nat) (b : Binning) (s : State) :
    State × Except ArrErr (Append × SigBits) :=
  let h := listSet (s.atr hoff 64)
  thenDo (a.listPlace (tileAt x h t) s) fun s at_ =>
    let now := s.atr at_ 8
    let w := b.seen.getD now
    let tail := w % 2 ^ 32
    let fill := w / 2 ^ 32 % 16
    let fits := tail != 0xFFFFFFFF && fill < 10
    let r := tileRecord b.rc t.1 t.2
    let took (b : Binning) (word : Nat) (va : W64) : Append := .done { b with seen := none, done := ⟨at_, w, word, va⟩ :: b.done }
    let install (c : Nat) (b : Binning) (s : State) : State × Except ArrErr (Append × SigBits) :=
      thenDo (a.put .memoryOnly (chunkAt h c 0) 48 r s) fun s σ => (s, .ok (.again { b with seen := some w, hand := some c }, σ))
    match b.seen, fits, b.hand with
    | none, true, _ => (s, .ok (.again { b with seen := some w }, 0))
    | none, false, some c => install c b s
    | none, false, none =>
      let c := h.pooltop
      let s := s.setAtr hoff 4 ((c + 1) % 2 ^ 32)
      let b := { b with adds := b.adds ++ [c] }
      if h.pcap ≤ c then (s, .ok (.limit b, 0)) else install c b s
    | some _, true, _ =>
      if now != w then (s, .ok (.again { b with seen := none }, 0))
      else
        let n := tail + 2 ^ 32 * (fill + 1)
        thenDo (a.put .memoryOnly (chunkAt h tail fill) 48 r (s.setAtr at_ 8 n)) fun s σ => (s, .ok (took b n (chunkAt h tail fill), σ))
    | some _, false, hand =>
      if now != w then (s, .ok (.again { b with seen := none }, 0))
      else
        let c := hand.getD 0
        let n := c + 2 ^ 32
        let b := { b with hand := none }
        let s := s.setAtr at_ 8 n
        if tail == 0xFFFFFFFF then (s.setAtr (at_ + 8) 4 c, .ok (took b n (chunkAt h c 0), 0))
        else thenDo (a.put .memoryOnly (off64 (h.pbase + 512 * tail + 480)) 4 c s) fun s τ => (s, .ok (took b n (chunkAt h c 0), τ))

/-- Whether values are consecutive. -/
def consecutive : List Nat → Bool
  | x :: y :: l => y == x + 1 && consecutive (y :: l)
  | _ => true

/-- R413 step 1 for one tile: the word goes back to its snapshot; where it has changed, the record becomes void and VOIDS counts it. A record
whose page cannot be written any more does not become void and is not counted (assumption 42). -/
def Agent.undo (a : Agent) (hoff : Nat) (d : Appended) (s : State) : State :=
  if s.atr d.at_ 8 == d.word then s.setAtr d.at_ 8 d.snapshot
  else match a.put .memoryOnly d.va 4 0x7FFFFFFF s with
    | (s, .ok _) => s.setAtr (hoff + 24) 4 (min (s.atr (hoff + 24) 4 + 1) 0xFFFFFFFF)
    | (_, .error _) => s

/-- The rollback of a primitive (R413). POOLTOP goes back where every word did and the values taken from it follow one another. -/
def Agent.rollback (a : Agent) (x : XArg) (b : Binning) (s : State) : State :=
  match a.listPlace x.vb s with
  | (s, .error _) => s
  | (s, .ok hoff) =>
    let whole := b.done.all fun d => s.atr d.at_ 8 == d.word
    let s := b.done.foldl (fun s d => a.undo hoff d s) s
    match b.adds, b.adds.getLast? with
    | a0 :: _, some z => if whole && consecutive b.adds && s.atr hoff 4 == (z + 1) % 2 ^ 32 then s.setAtr hoff 4 a0 else s
    | _, _ => s

/-- The next step of a primitive; its last tile ends it, and the limit rolls it back with FULL set (R412, R413). A fault leaves the state
as it was before the step. -/
def Agent.binNext (a : Agent) (x : XArg) (hoff : Nat) (b : Binning) (s : State) : State × Except ArrErr BinOut :=
  match b.left with
  | [] => (s, .ok (.binned 0))
  | t :: l =>
    match a.appendTile x hoff t b s with
    | (_, .error e) => (s, .error e)
    | (s, .ok (.limit b, _)) => (a.rollback x b (s.setAtr (hoff + 18) 1 (s.atr (hoff + 18) 1 ||| 1)), .ok .full)
    | (s, .ok (.again b, σ)) => (s, .ok (.tile b σ))
    | (s, .ok (.done b, σ)) => (s, .ok (if l.isEmpty then .binned σ else .tile { b with left := l } σ))

/-- Record k of a BINFL (R411 to R414), from the start of a primitive or where it stands: the header is checked, FULL ends the submission
before a primitive, and one out of the coordinates' range or culled is binned nowhere. -/
def Agent.binTile (a : Agent) (x : XArg) (k : Nat) (under : Option Binning) (s : State) : State × Except ArrErr BinOut :=
  match a.listPlace x.vb s with
  | (s, .error e) => (s, .error e)
  | (s, .ok hoff) =>
    match under with
    | some b => a.binNext x hoff b s
    | none =>
      let h := listSet (s.atr hoff 64)
      if !h.ok then (s, .error (.cause 0x12 x.vb))
      else if h.full then (s, .ok .full)
      else
        match a.get .memoryOnly (x.va + off64 (64 * k)) 64 s with
        | (s, .error e) => (s, .error e)
        | (s, .ok rc) =>
          if (inputCoords rc).any fun v => v < -2097152 || 2097152 ≤ v then
            (s.setAtr (hoff + 20) 4 (min (s.atr (hoff + 20) 4 + 1) 0xFFFFFFFF), .ok (.binned 0))
          else if rc / 2 ^ 352 % 2 == 1 && (primOf rc).area ≤ 0 then (s, .ok (.binned 0))
          else a.binNext x hoff ⟨rc, binTiles h rc, [], [], none, none⟩ s

end Sys2Proof.Machine
end

