-- ==== Sys2Proof/Machine/Array.lean ====
section
/-! DEFINITION. The Array queue (R322 to R325): issue of an operation, its dispatch, its units, retirement and faults; the
follow-on of a copy (R149, R150); reloads (R321); and the X-format instructions (R326 to R348). -/

namespace Sys2Proof.Machine

/-! ## The per-tile interlock (R322) -/

def ArrOp.arg (o : ArrOp) (k : Crew) : XArg := ⟨k, o.va, o.vb, o.vc⟩

def meets (a b : List Nat × List Nat) : Bool := a.1.any b.1.contains || a.2.any b.2.contains

/-- The tiles an operation names (R322). How many accumulators a follow-on takes is known once the operations before it have retired:
until it starts it keeps every accumulator that it may come to name. -/
def ArrOp.tiles (o : ArrOp) (k : Crew) : List Nat × List Nat :=
  let t := xTiles o.instr (o.arg k)
  if o.follow.isSome && o.st == .queued then
    match o.instr with
    | .mma _ b | .flt _ b | .blend _ b => (t.1, (List.range (16 - b.xa.toNat)).map (b.xa.toNat + ·))
    | _ => t
  else t

/-- Whether an operation of a list names one of the tiles. -/
def interlocked (ops : List ArrOp) (cid crew : Nat) (k : Crew) (t : List Nat × List Nat) : Bool :=
  ops.any fun o => o.cid == cid && o.crew == crew && meets (o.tiles k) t

/-- The stationary tiles an instruction reads, whose contents must be resident (R321). -/
def readsTile : Instr → Option (BitVec 4)
  | .ldws _ b | .mma _ b | .mmag _ b | .edge _ b | .blend _ b | .flt _ b | .rslvLt _ b | .rslvLe _ b => some b.xt
  | _ => none

def absent (k : Crew) (t : Nat) : Bool := match k.tile t with | some d => !d.resident | none => false

/-- The leaf signatures that a held instruction has gathered (R115). -/
def Wait.heldSig : Wait → SigBits
  | .held _ σ => σ
  | _ => 0

/-- An operation on accumulators has retired: an instruction that it held gathers its leaf signature. -/
def Wait.gathers (accs : List Nat) (σ : SigBits) : Wait → Wait
  | .held l τ => if l.any accs.contains then .held l (τ ||| σ) else .held l τ
  | w => w

def Wait.isHeld : Wait → Bool
  | .stalled | .held _ _ => true
  | _ => false

/-- The interlock, for an instruction with the given tiles: hold; or, where it was held, acquire what it waited for (R115) and try
again; or go on. -/
def Env.interlock (e : Env) (k : Crew) (t : List Nat × List Nat) (go : State → Perf) : Perf :=
  let σ := e.sp.wait.heldSig
  if interlocked (e.s.core e.f.core).arr e.cid e.bind.crew k t then e.hold (.held t.2 σ) e.s
  else if σ != 0 then .stay (e.modSplit (e.s.acquire e.f.core e.cid e.h e.cid σ) fun sp => { sp with wait := .release })
  else go e.s

def badTrap (c : FaultCode) (va : W64) (s : State) : Perf := .trap { code := c, fva := va &&& 0x01FFFFFFFFFFFFFF } s

/-- Place an operation in the queue (R323); `res` is the result register of RSLV and BINFL. -/
def Env.queueOp (e : Env) (i : Instr) (x : XArg) (res : Option Nat) (s : State) : State :=
  let seq := (s.core e.f.core).arrSeq
  let op : ArrOp := { seq := seq, cid := e.cid, crew := e.bind.crew, home := e.group.crew, handle := e.h, slot := e.f.slot, split := e.f.split, instr := i,
                      va := x.va, vb := x.vb, vc := x.vc, sig := e.fr.sig, st := .queued, next := 0, page := none, follow := none,
                      resReg := res, updates := 0, bin := none }
  let s := e.modCore s fun c => { c with arrSeq := (c.arrSeq + 1) % 2 ^ 32, arr := c.arr ++ [op] }
  let s := match res with
    | some r => e.modGroup s fun (g : Group) => { g with owed := g.owed ++ [(⟨e.f.split, false, r, true, seq, g.nextId, none⟩ : Owed)] }
    | none => s
  s.push (.arrayOpDispatch e.f.core seq)

/-- Issue of an Array operation (R322 to R324, R114). -/
def arrayIssue (i : Instr) (h : Hdr) (b : XBody) (res : Option Nat) : State → Host.Outcome State Fault Refusal :=
  issueWith i h noTags fun e =>
    match e.crew with
    | none => .ok e.s
    | some k =>
      let x : XArg := ⟨k, e.u64 b.xsa, e.u64 b.xsb, e.u64 b.xsc⟩
      match xPre i x with
      | some (c, va) => badTrap c va e.s
      | none =>
        e.interlock k (xTiles i x) fun s =>
          match xPost i x with
          | some (c, va) => badTrap c va s
          | none => e.withRelease s fun s => .ok (e.queueOp i x res s)

/-! ## Queue book-keeping -/

def State.arrOp (s : State) (core seq : Nat) : Option ArrOp := (s.core core).arr.find? fun o => o.seq == seq

def State.modOp (s : State) (core seq : Nat) (f : ArrOp → ArrOp) : State :=
  s.modCore core fun c => { c with arr := c.arr.map fun o => if o.seq == seq then f o else o }

/-- The operations of a core that have not started are looked at again, and instructions held at issue try again. -/
def State.rearm (s : State) (core : Nat) : State :=
  (s.pushAll (((s.core core).arr.filter fun o => o.st == .queued).map fun o => .arrayOpDispatch core o.seq)).wake core Wait.isHeld

def State.opCrew (s : State) (o : ArrOp) : Option Crew := (s.ctx o.cid).bind (·.crew o.crew)

def isRslv : Instr → Bool
  | .rslvLt _ _ | .rslvLe _ _ | .rslvRd _ _ | .rslvLd _ _ | .rslvClr _ _ => true
  | _ => false

def isBinfl : Instr → Bool
  | .binfl _ _ => true
  | _ => false

/-- The SRC of a stop record (R393). -/
def opSrc (i : Instr) : Nat := if isBinfl i then 4 else if isRslv i then 5 else 2

/-- Whether the unit of an operation may act for it now: a frozen master accepts no work (R397). -/
def State.opActive (s : State) (core : Nat) (o : ArrOp) : Bool :=
  (match s.ctx o.cid with | some c => c.worksOn core && s.coresOn | none => false) &&
    !(if opSrc o.instr == 2 then (s.core core).frozen else (s.die (hallOf core)).frozen)

/-- A primitive under way of a Hall's Binner, of another core's submission: submissions of the Hall's cores interleave at primitive boundaries
(R348). -/
def State.binnerBusy (s : State) (core : Nat) : Bool :=
  s.cores.any fun x => x.1 != core && hallOf x.1 == hallOf core && x.2.arr.any fun o => o.bin.isSome

/-- The submissions of a Hall's other cores go on. -/
def State.binnersGo (s : State) (core : Nat) : State :=
  s.pushAll (s.cores.flatMap fun x => if x.1 == core || hallOf x.1 != hallOf core then []
    else (x.2.arr.filter fun o => isBinfl o.instr && o.st == .running).map fun o => .binnerPrimitive x.1 o.seq)

/-- Retirement (R322): those that waited on its accumulators gather the leaf signature (R115), the result register is written, a copy whose follow-on
this was completes (R150), and what waits goes on. -/
def State.retireOp (s : State) (core : Nat) (o : ArrOp) (result : Nat) : State :=
  let s := if isBinfl o.instr then s.binnersGo core else s
  let accs := match s.opCrew o with | some k => (o.tiles k).2 | none => []
  let s := s.modCore core fun c => ({ c with arr := c.arr.filter fun x => x.seq != o.seq } : Core).seen fun x => x.array && x.seq == o.seq
  let s := s.mapSplits core (fun b => b.cid == o.cid && b.crew == o.crew) fun sp => { sp with wait := sp.wait.gathers accs o.sig }
  let s := match o.resReg with
    | some r => s.modGroup o.cid o.handle fun g => g.pay s.ac true o.seq o.sig fun _ => [.uni r (BitVec.ofNat 32 result)]
    | none => s
  let s := match o.follow with
    | some c => s.endCopy core c none
    | none => s
  let s := s.modCrew o.cid o.home fun k => { k with sig := k.sig ||| o.sig }
  (s.rearm core).pushAll [.crewCompletion o.cid o.home, .crewCompletion o.cid o.crew]

/-- The result word of RSLV and BINFL (R345, R348). -/
def resultWord (code : Nat) (cause : Byte) (count : Nat) : Nat := code + 256 * cause.toNat + 65536 * min count 0xFFFF

/-- An operation ends badly (R324): its accumulators become undefined; ARRAY_FAULT, or COPY_FAULT with cause FOLLOW where it
is a follow-on (R150). -/
def State.failOp (s : State) (core : Nat) (o : ArrOp) (cause : Byte) (va : W64) : State :=
  let (d, s) := s.draw
  let accs := match s.opCrew o with | some k => (xTiles o.instr (o.arg k)).2 | none => []
  let s := s.modCrew o.cid o.crew fun k => (accs.zip (List.range accs.length)).foldl (fun k n => k.setAcc n.1 ((k.acc n.1).lost (16 * d + n.2))) k
  let count := if isBinfl o.instr then o.next else o.updates
  match o.follow with
  | some c =>
    let s := (s.modCore core fun c => { c with arr := c.arr.filter fun x => x.seq != o.seq }).rearm core
    match s.agent core o.cid o.crew, s.copyRec core c with
    | some a, some r => s.copyFatal a r 0x13 cause va
    | _, _ => s
  | none => (s.retireOp core o (resultWord 1 cause count)).engineFault o.cid core (opSrc o.instr) .arrayFault cause 0 o.seq va

/-- The cause of a code of R30 in an Array operation: a page of another TYPE is 0x10 (R324). -/
def arrCause (f : EngFault) : Byte :=
  if f.code == .aperture && !upperHalf f.va && !inAlcove f.va then 0x10 else f.code.byte

/-- The primitive under way is rolled back (R413): it is binned to none of its tiles. -/
def State.unbin (s : State) (core : Nat) (o : ArrOp) : State :=
  match o.bin, s.opCrew o, s.agent core o.cid o.crew with
  | some b, some k, some a => ((a.rollback (o.arg k) b s).modOp core o.seq fun x => { x with bin := none }).binnersGo core
  | _, _, _ => s

/-- The cores whose work a unit performs: an Array has its core's, a Binner and a Resolver the Hall's (R393). -/
def State.unitCores (s : State) (core src : Nat) : List Nat :=
  if src == 2 then [core] else (s.cores.map (·.1)).filter fun n => hallOf n == hallOf core

/-- A violation: the master discards the context's unperformed operations, each primitive of them under way rolled back (R324, R397). -/
def State.violateUnit (s : State) (cid core src seq : Nat) (va : W64) : State :=
  let one (s : State) (n : Nat) : State :=
    let gone (o : ArrOp) : Bool := o.cid == cid && opSrc o.instr == src
    (((s.core n).arr.filter gone).foldl (fun s o => s.unbin n o) s).modCore n fun c => { c with arr := c.arr.filter fun o => !gone o }
  ((s.unitCores core src).foldl one s).engineFault cid core src .vfViolation 0 0 seq va

def State.violateOp (s : State) (core : Nat) (o : ArrOp) (va : W64) : State := s.violateUnit o.cid core (opSrc o.instr) o.seq va

/-- What a unit's fault does (R324). -/
def State.unitFault (s : State) (core : Nat) (o : ArrOp) (e : ArrErr) : State :=
  match e with
  | .cause c va => (s.unbin core o).failOp core o c va
  | .fault f =>
    if f.code == .vfViolation then s.violateOp core o f.va
    else if f.code.replayable then
      match s.ctx o.cid with
      | none => s
      | some c =>
        let s := if f.code == .notPresent then s else s.modCore core fun k => k.discard c.asid f.va
        let s := s.postFault core (s.ctxVf core c) none 0 (faultRecord f.va c.asid f.code f.kind 4 core o.slot o.split 1 0)
        s.modOp core o.seq fun x => { x with st := .stalled, page := some (lookupPage f.va) }
    else (s.unbin core o).failOp core o (arrCause f) f.va

/-! ## Units -/

/-- How many units an operation has (R325). -/
def unitCount (i : Instr) (x : XArg) : Nat :=
  match i with
  | .mma _ b | .mmag _ b | .edge _ b | .flt _ b | .blend _ b | .rslvLt _ b | .rslvLe _ b => b.xm.toNat + 1
  | .accstRaw _ _ => pieces x.va 8256
  | .accstPost _ b => (postUnits b x).length
  | .rslvRd _ _ | .rslvLd _ _ => 1024
  | .binfl _ _ => low32 x.vc % 65536
  | _ => 1

/-- A change of the crew alone. -/
def crewUnit (s : State) (a : Agent) (crew : Nat) (f : Crew → Crew) : Unit_ := (s.setCrew a crew f, .ok (0, 0))

/-- LDW fills a tile whatever its state (R320); it stands last in load order. -/
def Crew.fill (k : Crew) (n : Nat) (t : TileData) : Crew :=
  { k.setTile n (some t) with tileOrder := k.tileOrder.filter (· != n) ++ [n] }

/-- Unit u of an operation. -/
def Agent.unit (a : Agent) (crew : Nat) (i : Instr) (x : XArg) (u : Nat) (s : State) : Unit_ :=
  let desc : LoadDesc := ⟨i, x.va, x.vb, x.vc⟩
  match i with
  | .ldwMem _ b => thenDo (a.loadTile b x [desc] s) fun s t => crewUnit s a crew fun k => k.fill b.xt.toNat t
  | .ldwSmp _ b =>
    let (bx, by_) := smpOrigin x
    crewUnit s a crew fun k => k.fill b.xt.toNat (sampleTile bx by_ ((b.xi.extractLsb' 8 5).toNat + 1) [desc])
  | .ldws h b =>
    match x.tile b with
    | none => (s, .ok (0, 0))
    | some t => thenDo (a.loadScales h x t s) fun s u => crewUnit s a crew fun k => k.setTile b.xt.toNat (some { u with desc := t.desc ++ [desc] })
  | .trel _ b =>
    crewUnit (s.modCore a.core fun c => { c with tilesIn := c.tilesIn.filter (· != (a.cid, crew, b.xt.toNat)) }) a crew fun k =>
      { k.setTile b.xt.toNat none with tileOrder := k.tileOrder.filter (· != b.xt.toNat) }
  | .mma _ b => a.streamUnit crew b x false u s
  | .mmag _ b => a.streamUnit crew b x true u s
  | .accz h b =>
    crewUnit s a crew fun k => (List.range ((b.xi.extractLsb' 0 4).toNat + 1)).foldl (fun k n =>
      k.setAcc (b.xa.toNat + n) ((k.acc (b.xa.toNat + n)).cleared (if h.sub == 1#6 then .i48 else .f32))) k
  | .accld _ b =>
    thenDo (a.get .either x.va 8256 s) fun s v =>
      match (x.acc b).load v with
      | none => (s, .error (.cause 0x15 x.va))
      | some c => crewUnit s a crew fun k => k.setAcc b.xa.toNat c
  | .accstRaw _ b =>
    let (o, n) := pieceOf x.va 8256 u
    thenDo (a.put .either (x.va + off64 o) n (Mem.readN (x.acc b).image o n) s) fun s σ => (s, .ok (σ, 0))
  | .accstPost _ b => a.postUnit b x u s
  | .preopLin _ b => crewUnit s a crew fun k => k.setAcc b.xa.toNat { k.acc b.xa.toNat with pre := .lin (b.xi.extractLsb' 0 14).toNat }
  | .preopTr _ b => crewUnit s a crew fun k => k.setAcc b.xa.toNat { k.acc b.xa.toNat with pre := .tr (b.xi.extractLsb' 0 14).toNat }
  | .preopWin _ b =>
    thenDo (a.get .memoryOnly x.va 192 s) fun s v =>
      crewUnit s a crew fun k => k.setAcc b.xa.toNat
        { k.acc b.xa.toNat with pre := .win ((List.range 192).map fun j => BitVec.ofNat 8 (v / 2 ^ (8 * j))) }
  | .postop _ b =>
    thenDo (a.get .memoryOnly x.va 64 s) fun s v =>
      let p : Vector W64 8 := Vector.ofFn fun j => BitVec.ofNat 64 (v / 2 ^ (64 * j.val))
      if programOk p then crewUnit s a crew fun k => k.setAcc b.xa.toNat { k.acc b.xa.toNat with post := p }
      else (s, .error (.cause 0x14 x.va))
  | .edge h b => a.edgeUnit crew h b x u s
  | .flt _ b =>
    match x.tile b with
    | none => (s, .ok (0, 0))
    | some t => thenDo (a.get .any (x.va + off64 (u * low32 x.vb)) 4 s) fun s v => (s.integerRow a crew b t u (filterRow v), .ok (0, 0))
  | .blend _ b =>
    match x.tile b with
    | none => (s, .ok (0, 0))
    | some t =>
      thenDo (a.get .any (x.va + off64 (4 * u)) 4 s) fun s src =>
        thenDo (a.get .any (x.vb + off64 (4 * u)) 4 s) fun s dst => (s.integerRow a crew b t u (blendRow src dst), .ok (0, 0))
  | .rslvLt _ b => a.resolveUnit b x false u s
  | .rslvLe _ b => a.resolveUnit b x true u s
  | .rslvRd _ _ => a.slotOut x u s
  | .rslvLd _ _ => a.slotIn x u s
  | .rslvClr _ _ => (s.clearSlot a.core x, .ok (0, 0))
  | _ => (s, .ok (0, 0))

/-- The next unit of a running operation: it stops between units (R325). -/
def State.runUnit (s : State) (core : Nat) (o : ArrOp) : State :=
  match s.opCrew o, s.agent core o.cid o.crew with
  | some k, some a =>
    let x := o.arg k
    if unitCount o.instr x ≤ o.next then s
    else
      match ({ a with job := some ⟨o.crew, true, o.seq, 0⟩ } : Agent).unit o.crew o.instr x o.next s with
      | (s, .error e) => s.unitFault core o e
      | (s, .ok (σ, n)) => s.modOp core o.seq fun o => { o with next := o.next + 1, sig := o.sig ||| σ, updates := o.updates + n }
  | _, _ => s

/-- The result of an operation that has done all its units (R345, R348). -/
def doneWord (o : ArrOp) : Nat :=
  match o.instr with
  | .rslvClr _ _ => resultWord 0 0 1024
  | .rslvRd _ _ => resultWord 0 0 0
  | .binfl _ _ => resultWord 0 0 o.next
  | _ => resultWord 0 0 o.updates

/-! ## Residency (R3, R321) -/

/-- Whether an operation that has started names a tile, or an accumulator, of a crew. -/
def State.accBusy (s : State) (core : Nat) (x : Nat × Nat × Nat) : Bool :=
  (s.core core).arr.any fun o => o.cid == x.1 && o.crew == x.2.1 && o.st != .queued && (s.opCrew o).any fun k => (o.tiles k).2.contains x.2.2

def State.tileBusy (s : State) (core : Nat) (x : Nat × Nat × Nat) : Bool :=
  (s.core core).arr.any fun o => o.cid == x.1 && o.crew == x.2.1 && o.st != .queued && (s.opCrew o).any fun k => (o.tiles k).1.contains x.2.2

/-- The tile that an LDW fills, with the macros it takes. -/
def fills (i : Instr) : Option (Nat × Nat) :=
  match i with
  | .ldwMem _ b => some (b.xt.toNat, ((b.xi.extractLsb' 3 5).toNat + 1) * ((b.xi.extractLsb' 8 5).toNat + 1))
  | .ldwSmp _ b => some (b.xt.toNat, (b.xi.extractLsb' 8 5).toNat + 1)
  | _ => none

/-- The macros that a resident tile takes, or an LDW that is filling it. -/
def State.macrosOf (s : State) (core : Nat) (x : Nat × Nat × Nat) : Nat :=
  let now := match ((s.ctx x.1).bind (·.crew x.2.1)).bind (·.tile x.2.2) with
    | some t => t.rk * t.rn
    | none => 0
  (s.core core).arr.foldl (fun m o => match fills o.instr with
    | some (t, n) => if o.cid == x.1 && o.crew == x.2.1 && o.st != .queued && t == x.2.2 then max m n else m
    | none => m) now

/-- An accumulator leaves the core for the image area of its context. What it holds stays the crew's. -/
def State.evictAcc (s : State) (core : Nat) (x : Nat × Nat × Nat) : State :=
  let s := s.modCore core fun c => { c with accsIn := c.accsIn.filter (· != x) }
  match s.ctx x.1, (s.ctx x.1).bind (·.crew x.2.1) with
  | some c, some k =>
    let at_ := imageAccs + 8320 * (16 * x.2.1 + x.2.2)
    (s.setCtx x.1 { c with image := Mem.place (Mem.clear c.image at_ 8256) at_ (k.acc x.2.2).image }).modCrew x.1 x.2.1 fun k =>
      { k with accOut := k.accOut.filter (· != x.2.2) ++ [x.2.2] }
  | _, _ => s

/-- A tile's contents are dropped; its load descriptor stays. -/
def State.dropTile (s : State) (core : Nat) (x : Nat × Nat × Nat) : State :=
  (s.modCore core fun c => { c with tilesIn := c.tilesIn.filter (· != x) }).modCrew x.1 x.2.1 fun k =>
    match k.tile x.2.2 with
    | some t => k.setTile x.2.2 (some { t with resident := false, weights := [], scales := [] })
    | none => k

/-- An accumulator comes into one of the core's 16, in the place of the one unused longest; none while every one is in use. -/
def State.bringAcc (core cid crew : Nat) (s : State) (n : Nat) : Option State :=
  let x := (cid, crew, n)
  let l := (s.core core).accsIn
  let room : Option State :=
    if l.contains x || l.length < 16 then some s
    else (l.reverse.find? fun y => !s.accBusy core y).map (s.evictAcc core)
  room.map fun s => (s.modCore core fun c => { c with accsIn := x :: c.accsIn.filter (· != x) }).modCrew cid crew fun k =>
    { k with accOut := k.accOut.filter (· != n) }

def State.bringAccs (core cid crew : Nat) (l : List Nat) (s : State) : Option State := l.foldlM (State.bringAcc core cid crew) s

/-- A tile takes `need` of the core's 32 macros; others leave, the one unused longest first. None while those in use leave too few. -/
def State.bringTile (core : Nat) (x : Nat × Nat × Nat) (need : Nat) : Nat → State → Option State
  | 0, _ => none
  | f + 1, s =>
    let l := (s.core core).tilesIn.filter (· != x)
    if (l.map (s.macrosOf core)).foldl (· + ·) 0 + need ≤ 32 then some (s.modCore core fun c => { c with tilesIn := x :: l })
    else match l.reverse.find? fun y => !s.tileBusy core y with
      | some y => State.bringTile core x need f (s.dropTile core y)
      | none => none

/-- A tile in use stands first. -/
def State.touchTile (s : State) (core : Nat) (x : Nat × Nat × Nat) : State :=
  s.modCore core fun c => { c with tilesIn := x :: c.tilesIn.filter (· != x) }

/-- The accumulators an operation names, and the macros that it fills, are there for it. -/
def State.bringFor (s : State) (core : Nat) (o : ArrOp) (k : Crew) : Option State :=
  let t := xTiles o.instr (o.arg k)
  let s' := match fills o.instr with
    | some (n, need) => State.bringTile core (o.cid, o.crew, n) need 64 s
    | none => some s
  s'.bind (State.bringAccs core o.cid o.crew t.2)

/-! ## Reloads (R321) -/

/-- A tile is reloaded by replaying its load descriptor, where it has macros; a fault of the replay is one of the operation that waits
for it. Where a VXM does, which is no queued operation, the tile keeps the page for which it waits until a MAPQ. -/
def State.reload (s : State) (cid crew tile : Nat) : State :=
  match (s.ctx cid).bind (·.crew crew) with
  | none => s
  | some k =>
    match k.tile tile, s.agent k.core cid crew with
    | some t, some a =>
      if s.tileBusy k.core (cid, crew, tile) || t.page.isSome then s
      else match State.bringTile k.core (cid, crew, tile) (t.rk * t.rn) 64 s with
      | none => s
      | some s =>
        match a.replay k t.desc none s with
        | (s, .ok (some u)) => (s.modCrew cid crew fun k => k.setTile tile (some u)).rearm k.core
        | (s, .ok none) => s
        | (s, .error e) =>
          let s := s.dropTile k.core (cid, crew, tile)
          match (s.core k.core).arr.find? fun o => o.cid == cid && o.crew == crew && (xTiles o.instr (o.arg k)).1.contains tile with
          | some o => s.unitFault k.core o e
          | none =>
            match e with
            | .fault f =>
              if f.code == .vfViolation then s.violateUnit cid k.core 2 0 f.va
              else if f.code.replayable then
                let s := s.postFault k.core a.vf none 0 (faultRecord f.va a.asid f.code f.kind 4 k.core 0 0 1 0)
                s.modCrew cid crew fun k => k.setTile tile ((k.tile tile).map fun t => { t with page := some (lookupPage f.va) })
              else s.engineFault cid k.core 2 .arrayFault (arrCause f) 0 0 f.va
            | .cause c va => s.engineFault cid k.core 2 .arrayFault c 0 0 va
    | _, _ => s

/-- R321. -/
def execTileReload (cid crew tile : Nat) (s : State) : Host.Outcome State Fault Refusal :=
  .next (match s.ctx cid, (s.ctx cid).bind (·.crew crew) with
    | some c, some k => if c.worksOn k.core || c.st == .restoring then s.reload cid crew tile else s
    | _, _ => s)

/-! ## Dispatch and retirement -/

/-- Whether an earlier operation keeps a queued one back: a tile in common, one Resolver slot, or an earlier BINFL (R322, R347,
R348). -/
def keptBack (earlier : List ArrOp) (k : Crew) (o : ArrOp) : Bool :=
  interlocked earlier o.cid o.crew k (o.tiles k) ||
    (isRslv o.instr && earlier.any fun q => isRslv q.instr && low32 q.vb == low32 o.vb) || (isBinfl o.instr && earlier.any fun q => isBinfl q.instr)

/-- The cause of a follow-on's failed check: a code of R30, or 0. -/
def issueCause (c : FaultCode) : Byte := if 5 ≤ c.byte.toNat && c.byte.toNat ≤ 12 then c.byte else 0

/-- R322: a queued operation clears the interlock and starts. What a follow-on's tiles must be is checked here; of the others it was at issue. A
submission to a Binner that is off is turned away where none of its work has begun (R386, R415). -/
def execArrayOpDispatch (core seq : Nat) (s : State) : Host.Outcome State Fault Refusal :=
  .next (match s.arrOp core seq with
    | none => s
    | some o =>
      match s.opCrew o, s.ctx o.cid with
      | some k, some c =>
        let earlier := (s.core core).arr.takeWhile fun q => q.seq != seq
        let x := o.arg k
        if o.st != .queued || !s.opActive core o || keptBack earlier k o then s
        else
          match (if o.follow.isSome then xPost o.instr x else none) with
          | some (code, va) => s.failOp core o (issueCause code) va
          | none =>
            if isRslv o.instr && !s.slotGranted (hallOf core) (low32 o.vb) o.cid then s.violateOp core o 0
            else if isBinfl o.instr && o.next == 0 && o.bin.isNone && (s.fn c.vf).dsr.getLsbD 5 then s.retireOp core o (resultWord 3 0 0)
            else
              let start (s : State) : State := match s.bringFor core o k with
                | none => s
                | some s => (s.modOp core seq fun o => { o with st := .running }).push
                    (if isBinfl o.instr then .binnerPrimitive core seq else .arrayOpRetire core seq)
              match readsTile o.instr with
              | some t => if absent k t.toNat then s.reload o.cid o.crew t.toNat else start (s.touchTile core (o.cid, o.crew, t.toNat))
              | none => start s
      | _, _ => s)

/-- R322: the next unit of a running operation is performed, and when none is left it retires. -/
def execArrayOpRetire (core seq : Nat) (s : State) : Host.Outcome State Fault Refusal :=
  .next (match s.arrOp core seq with
    | none => s
    | some o =>
      match s.opCrew o with
      | none => s
      | some k =>
        if o.st != .running || !s.opActive core o then s
        else
          let n := unitCount o.instr (o.arg k)
          let s := if isBinfl o.instr then s else s.runUnit core o
          match s.arrOp core seq with
          | some o =>
            if o.st != .running then s
            else if n ≤ o.next then s.retireOp core o (doneWord o)
            else s.push (.arrayOpRetire core seq)
          | none => s)

/-- One step of a Binner on its submission (R411 to R414): a record is read and its first tile's word, or the one under way goes on.
Between two steps the other Binner and programs may append (R414); another core's submission to this Binner waits for the end of the primitive
(R348). -/
def State.binStep (s : State) (core : Nat) (o : ArrOp) (k : Crew) (a : Agent) : State :=
  match a.binTile (o.arg k) o.next o.bin s with
  | (s, .error e) => s.unitFault core o e
  | (s, .ok (.tile b σ)) => (s.modOp core o.seq fun o => { o with bin := some b, sig := o.sig ||| σ }).push (.binnerPrimitive core o.seq)
  | (s, .ok (.binned σ)) =>
    ((s.modOp core o.seq fun o => { o with bin := none, sig := o.sig ||| σ, next := o.next + 1 }).binnersGo core).push
      (if unitCount o.instr (o.arg k) ≤ o.next + 1 then .arrayOpRetire core o.seq else .binnerPrimitive core o.seq)
  | (s, .ok .full) => s.retireOp core o (resultWord 2 0 o.next)

/-- The primitive that a Binner is binning is completed, where its context stops: a submission stops after a whole primitive (R325,
R425). One that cannot be completed is rolled back. -/
def State.wholePrimitive (core seq : Nat) : Nat → State → State
  | 0, s => s
  | f + 1, s =>
    match s.arrOp core seq with
    | none => s
    | some o =>
      match o.bin, s.opCrew o, s.agent core o.cid o.crew with
      | some _, some k, some a =>
        match a.binTile (o.arg k) o.next o.bin s with
        | (s, .error _) => s.unbin core o
        | (s, .ok (.tile b σ)) => State.wholePrimitive core seq f (s.modOp core seq fun o => { o with bin := some b, sig := o.sig ||| σ })
        | (s, .ok (.binned σ)) => (s.modOp core seq fun o => { o with bin := none, sig := o.sig ||| σ, next := o.next + 1 }).binnersGo core
        | (s, .ok .full) => s.retireOp core o (resultWord 2 0 o.next)
      | _, _, _ => s

/-- Every primitive under way of a context on a core is completed or rolled back. -/
def State.wholePrimitives (s : State) (cid core : Nat) : State :=
  ((s.core core).arr.filter fun o => o.cid == cid && o.bin.isSome).foldl (fun s o => State.wholePrimitive core o.seq 32770 s) s

/-- R411 to R414: the Binner takes a step on one record, or the submission ends with FULL. -/
def execBinnerPrimitive (core seq : Nat) (s : State) : Host.Outcome State Fault Refusal :=
  .next (match s.arrOp core seq with
    | none => s
    | some o =>
      match s.opCrew o, s.agent core o.cid o.crew with
      | some k, some a =>
        if o.st != .running || !s.opActive core o || !isBinfl o.instr then s
        else if unitCount o.instr (o.arg k) ≤ o.next then s.push (.arrayOpRetire core seq)
        else if o.bin.isNone && s.binnerBusy core then s
        else s.binStep core o k a
      | _, _ => s)

/-! ## Follow-ons (R150) -/

/-- R150: after the last beat the CE issues the follow-on to the Array. It makes the checks of an issue on the operands (R326); a failure ends
the copy with cause FOLLOW. -/
def execFollowOnIssue (core seq : Nat) (s : State) : Host.Outcome State Fault Refusal :=
  .next (match s.copyRec core seq with
    | none => s
    | some r =>
      match r.follow with
      | none => s
      | some i =>
        if (r.st == .queued || r.st == .running) && r.len ≤ r.done && 0 < r.len && s.copyActive core r then
          let n := (s.core core).arrSeq
          let op : ArrOp := { seq := n, cid := r.cid, crew := r.crew, home := r.home, handle := r.handle, slot := r.slot, split := r.split, instr := i,
                              va := r.fov[0], vb := r.fov[1], vc := r.fov[2], sig := r.sig, st := .queued, next := 0, page := none,
                              follow := some seq, resReg := none, updates := 0, bin := none }
          match (s.opCrew op).bind (fun k => xPre i (op.arg k)), s.agent core r.cid r.crew with
          | some (code, va), some a => s.copyFatal a r 0x13 (issueCause code) va
          | _, _ =>
          let s := s.modCore core fun c => { c with arrSeq := (c.arrSeq + 1) % 2 ^ 32, arr := c.arr ++ [op] }
          (s.modCopy core seq fun r => { r with st := .followOn, followSeq := some n }).push (.arrayOpDispatch core n)
        else s)

/-! ## The instructions -/

/-- R327. -/
def execLdwMem (h : Hdr) (b : XBody) : State → Host.Outcome State Fault Refusal := arrayIssue (.ldwMem h b) h b none
/-- R328. -/
def execLdwSmp (h : Hdr) (b : XBody) : State → Host.Outcome State Fault Refusal := arrayIssue (.ldwSmp h b) h b none
/-- R329. -/
def execLdws (h : Hdr) (b : XBody) : State → Host.Outcome State Fault Refusal := arrayIssue (.ldws h b) h b none
/-- R330. -/
def execTrel (h : Hdr) (b : XBody) : State → Host.Outcome State Fault Refusal := arrayIssue (.trel h b) h b none
/-- R336. -/
def execMma (h : Hdr) (b : XBody) : State → Host.Outcome State Fault Refusal := arrayIssue (.mma h b) h b none
/-- R336. -/
def execMmag (h : Hdr) (b : XBody) : State → Host.Outcome State Fault Refusal := arrayIssue (.mmag h b) h b none
/-- R331. -/
def execAccz (h : Hdr) (b : XBody) : State → Host.Outcome State Fault Refusal := arrayIssue (.accz h b) h b none
/-- R332. -/
def execAccld (h : Hdr) (b : XBody) : State → Host.Outcome State Fault Refusal := arrayIssue (.accld h b) h b none
/-- R332. -/
def execAccstRaw (h : Hdr) (b : XBody) : State → Host.Outcome State Fault Refusal := arrayIssue (.accstRaw h b) h b none
/-- R333. -/
def execAccstPost (h : Hdr) (b : XBody) : State → Host.Outcome State Fault Refusal := arrayIssue (.accstPost h b) h b none
/-- R335. -/
def execPreopLin (h : Hdr) (b : XBody) : State → Host.Outcome State Fault Refusal := arrayIssue (.preopLin h b) h b none
/-- R335. -/
def execPreopTr (h : Hdr) (b : XBody) : State → Host.Outcome State Fault Refusal := arrayIssue (.preopTr h b) h b none
/-- R335. -/
def execPreopWin (h : Hdr) (b : XBody) : State → Host.Outcome State Fault Refusal := arrayIssue (.preopWin h b) h b none
/-- R338. -/
def execPostop (h : Hdr) (b : XBody) : State → Host.Outcome State Fault Refusal := arrayIssue (.postop h b) h b none
/-- R339. -/
def execEdge (h : Hdr) (b : XBody) : State → Host.Outcome State Fault Refusal := arrayIssue (.edge h b) h b none
/-- R344. -/
def execBlend (h : Hdr) (b : XBody) : State → Host.Outcome State Fault Refusal := arrayIssue (.blend h b) h b none
/-- R343. -/
def execFlt (h : Hdr) (b : XBody) : State → Host.Outcome State Fault Refusal := arrayIssue (.flt h b) h b none
/-- R346. -/
def execRslvLt (h : Hdr) (b : XBody) : State → Host.Outcome State Fault Refusal := arrayIssue (.rslvLt h b) h b (some b.xsc.toNat)
/-- R346. -/
def execRslvLe (h : Hdr) (b : XBody) : State → Host.Outcome State Fault Refusal := arrayIssue (.rslvLe h b) h b (some b.xsc.toNat)
/-- R347. -/
def execRslvRd (h : Hdr) (b : XBody) : State → Host.Outcome State Fault Refusal := arrayIssue (.rslvRd h b) h b (some b.xsc.toNat)
/-- R347. -/
def execRslvLd (h : Hdr) (b : XBody) : State → Host.Outcome State Fault Refusal := arrayIssue (.rslvLd h b) h b (some b.xsc.toNat)
/-- R347. -/
def execRslvClr (h : Hdr) (b : XBody) : State → Host.Outcome State Fault Refusal := arrayIssue (.rslvClr h b) h b (some b.xsc.toNat)
/-- R348. -/
def execBinfl (h : Hdr) (b : XBody) : State → Host.Outcome State Fault Refusal := arrayIssue (.binfl h b) h b (some b.xsc.toNat)

/-- An instruction that reads an accumulator into registers: held by the interlock, and while the accumulator has no place, then
performed at once. -/
def accRead (i : Instr) (h : Hdr) (b : XBody) (body : Env → Crew → State → Perf) : State → Host.Outcome State Fault Refusal :=
  issueWith i h noTags fun e =>
    match e.crew with
    | none => .ok e.s
    | some k => e.interlock k ([], [b.xa.toNat]) fun s =>
      match State.bringAcc e.f.core e.cid e.bind.crew s b.xa.toNat with
      | some s => body e k s
      | none => e.hold .stalled s

/-- R334, SUB 0. -/
def execAccrdEl (h : Hdr) (b : XBody) : State → Host.Outcome State Fault Refusal :=
  accRead (.accrdEl h b) h b fun e k s =>
    let a := k.acc b.xa.toNat
    let r := (e.u b.xsa).toNat % 32
    let hf := (e.u b.xsa).toNat / 32 % 2
    match a.mode with
    | .none => .bad .formatMismatch s
    | .f32 => .ok (e.later [.vec b.xv.toNat (e.g h) (lanesBy fun l => (a.get r (32 * hf + l)).extractLsb' 0 32) 3#4] s)
    | .i48 =>
      if hf != 0 || e.group.vregs ≤ b.xv.toNat + 1 then .bad .illegalOpcode s
      else .ok (e.later [.vec b.xv.toNat (e.g h) (lanesBy fun l => (a.get r l).extractLsb' 0 32) 2#4,
                         .vec (b.xv.toNat + 1) (e.g h) (lanesBy fun l => (a.get r l).extractLsb' 32 32) 1#4] s)

/-- R334, SUB 1. -/
def execAccrdSt (h : Hdr) (b : XBody) : State → Host.Outcome State Fault Refusal :=
  accRead (.accrdSt h b) h b fun e k s =>
    let a := k.acc b.xa.toNat
    .ok (e.later [.uni b.xsa.toNat (BitVec.ofNat 32 (a.status.toNat % 16 + 256 * a.modeCode + 1024 * a.raster.isSome.toNat))] s)

/-- R341. -/
def execCvg (h : Hdr) (b : XBody) : State → Host.Outcome State Fault Refusal :=
  accRead (.cvg h b) h b fun e k s =>
    let a := k.acc b.xa.toNat
    match a.mode, a.raster with
    | .i48, some r => .ok (e.later [.vec b.xv.toNat (e.g h) (lanesBy fun p => if p < r.prims then a.coverMask r p else 0) 2#4] s)
    | _, _ => .bad .formatMismatch s

/-- The container tag that an activation format reads (R337). -/
def actTag (af : BitVec 4) : BitVec 4 :=
  match af.toNat with
  | 0 => 6#4 | 1 => 7#4 | 2 => 4#4 | _ => 8#4

/-- The row of a lane in VXM (R337). -/
def Env.laneRow (e : Env) (b : XBody) (kv l : Nat) : List Nat :=
  let n := actBytes b.af.toNat
  (List.range kv).map fun k => elem (8 * n) (k * n % 4 / n) (e.vl (b.xv + BitVec.ofNat 8 (k * n / 4)) l)

/-- The tile a lane of VXM names, under the index rule (R27). -/
def Env.laneTile (e : Env) (b : XBody) (l : Nat) : Nat := (e.vl (b.xi.extractLsb' 8 8) l).toNat

/-- The contents of the tiles that a VXM names: one that was dropped is read again through its load descriptor, in turn, since they need
not all have macros at once (R321). A tile whose replay faults is given by its number. -/
def Env.vxmTiles (e : Env) (k : Crew) : List Nat → State → State × Except Nat (List (Nat × TileData))
  | [], s => (s, .ok [])
  | t :: l, s =>
    let (s, r) : State × Except Nat TileData := match k.tile t, s.agent e.f.core e.cid e.bind.crew with
      | some d, some a =>
        if d.resident then (s, .ok d)
        else match a.replay k d.desc none s with
          | (s, .ok (some u)) => (s, .ok u)
          | (s, _) => (s, .error t)
      | _, _ => (s, .error t)
    match r with
    | .error t => (s, .error t)
    | .ok d => match e.vxmTiles k l s with
      | (s, .ok m) => (s, .ok (insert m t d))
      | (s, .error t) => (s, .error t)

/-- R337: the result of one row and column, from an accumulator value of +0. -/
def vxmElement (t : TileData) (segs : List Seg) (n : Nat) : W32 := BitVec.ofNat 32 (sumF32 t n segs 0).1

/-- R337. -/
def execVxm (h : Hdr) (b : XBody) : State → Host.Outcome State Fault Refusal :=
  let kv := 32 * ((b.xi.extractLsb' 16 3).toNat + 1)
  let nv := 4 * ((b.xi.extractLsb' 19 4).toNat + 1)
  let vt := b.xi.extractLsb' 8 8
  let vd := (b.xi.extractLsb' 0 8).toNat
  issueWith (.vxm h b) h
    (fun e => e.tagsOk ((vt.toNat, indexTag) :: (List.range (vxmRegs b)).map fun k => (b.xv.toNat + k, fun t => t == actTag b.af))) fun e =>
    match e.crew with
    | none => .ok e.s
    | some k =>
      let ls := lanesOf (e.g h)
      let ts := ls.map (e.laneTile b)
      if ts.any fun t => 15 < t then .bad .illegalOpcode e.s
      else
        e.interlock k (ts, []) fun s =>
          if ts.any fun t => match k.tile t with
              | none => true
              | some d => d.kt != kv || d.nt < nv || d.tag == .fxs then .bad .formatMismatch s
          else match e.vxmTiles k ts s with
            | (_, .error t) =>
              match e.hold .stalled s with
              | .stay s => .stay (s.reload e.cid e.bind.crew t)
              | p => p
            | (s, .ok tiles) =>
              let cell (n l : Nat) : W32 := match lookup tiles (e.laneTile b l) with
                | some t => vxmElement t (actRow b.af.toNat t.rk (e.laneRow b kv l)) n
                | none => 0
              .ok (e.later ((List.range nv).map fun n => .vec (vd + n) (e.g h) (lanesBy fun l => if (e.g h).getLsbD l then cell n l else 0) 3#4) s)

end Sys2Proof.Machine
end

