-- ==== Sys2Proof/Machine/Crypto.lean ====
section
/-! DEFINITION. The algorithms that the spec names for firmware, links and measurements (R441 to R444): SHA-384, ECDSA over P-384, and LMS with
LMS_SHA256_M32_H20 and LMOTS_SHA256_N32_W8 (RFC 8554). Their own standards give them; the byte forms of the keys are PRESUMED (assumption 69):
an ECDSA key is its x and y, 48 bytes each, an LMS key is that of RFC 8554, and every number is big-endian. -/

namespace Sys2Proof.Machine

/-! ## Bytes and words -/

/-- A big-endian number. -/
def beNat (l : List Byte) : Nat := l.foldl (fun n b => 256 * n + b.toNat) 0

/-- A number as `n` big-endian bytes. -/
def beBytes : Nat → Nat → List Byte
  | 0, _ => []
  | n + 1, x => beBytes n (x / 256) ++ [BitVec.ofNat 8 x]

/-- The `n` words of `k` bytes each that a list of bytes holds. -/
def beWords (k : Nat) : Nat → List Byte → List Nat
  | 0, _ => []
  | n + 1, l => beNat (l.take k) :: beWords k n (l.drop k)

/-! ## SHA-2, with words of `w` bits -/

/-- What tells SHA-256 from SHA-384: the word's width, the round constants, and the rotations of the four functions. -/
structure Sha where
  w : Nat
  k : List Nat
  big0 : Nat × Nat × Nat
  big1 : Nat × Nat × Nat
  small0 : Nat × Nat × Nat        -- two rotations and a shift
  small1 : Nat × Nat × Nat

def Sha.rotr (h : Sha) (x r : Nat) : Nat := x / 2 ^ r ||| (x * 2 ^ (h.w - r)) % 2 ^ h.w
def Sha.big (h : Sha) (r : Nat × Nat × Nat) (x : Nat) : Nat := h.rotr x r.1 ^^^ h.rotr x r.2.1 ^^^ h.rotr x r.2.2
def Sha.small (h : Sha) (r : Nat × Nat × Nat) (x : Nat) : Nat := h.rotr x r.1 ^^^ h.rotr x r.2.1 ^^^ (x / 2 ^ r.2.2)
def Sha.add (h : Sha) (l : List Nat) : Nat := l.foldl (· + ·) 0 % 2 ^ h.w

/-- The message schedule, newest word first. -/
def Sha.schedule (h : Sha) : Nat → List Nat → List Nat
  | 0, l => l
  | n + 1, l => Sha.schedule h n (h.add [h.small h.small1 (l.getD 1 0), l.getD 6 0, h.small h.small0 (l.getD 14 0), l.getD 15 0] :: l)

/-- One round: a constant and a word of the schedule. -/
def Sha.round (h : Sha) (s : List Nat) (kw : Nat × Nat) : List Nat :=
  match s with
  | [a, b, c, d, e, f, g, x] =>
    let t1 := h.add [x, h.big h.big1 e, (e &&& f) ^^^ ((2 ^ h.w - 1 - e) &&& g), kw.1, kw.2]
    let t2 := h.add [h.big h.big0 a, (a &&& b) ^^^ (a &&& c) ^^^ (b &&& c)]
    [h.add [t1, t2], a, b, c, h.add [d, t1], e, f, g]
  | _ => s

/-- One block of sixteen words. -/
def Sha.block (h : Sha) (s : List Nat) (m : List Nat) : List Nat :=
  let ws := (h.schedule (h.k.length - 16) m.reverse).reverse
  ((h.k.zip ws).foldl h.round s).zipWith (fun a b => (a + b) % 2 ^ h.w) s

/-- The blocks of a padded message. -/
def Sha.blocks (h : Sha) : Nat → List Nat → List Byte → List Nat
  | 0, s, _ => s
  | n + 1, s, l => Sha.blocks h n (h.block s (beWords (h.w / 8) 16 l)) (l.drop (2 * h.w))

/-- The digest's words of a message, from the initial values. -/
def Sha.digest (h : Sha) (s : List Nat) (m : List Byte) : List Nat :=
  let b := 2 * h.w
  let l := h.w / 4
  let pad := (2 * b - (m.length + 1 + l) % b) % b
  let all := m ++ 0x80#8 :: List.replicate pad 0 ++ beBytes l (8 * m.length)
  h.blocks (all.length / b) s all

def sha512K0 : List Nat :=
  [0x428a2f98d728ae22, 0x7137449123ef65cd, 0xb5c0fbcfec4d3b2f, 0xe9b5dba58189dbbc, 0x3956c25bf348b538,
   0x59f111f1b605d019, 0x923f82a4af194f9b, 0xab1c5ed5da6d8118, 0xd807aa98a3030242, 0x12835b0145706fbe,
   0x243185be4ee4b28c, 0x550c7dc3d5ffb4e2, 0x72be5d74f27b896f, 0x80deb1fe3b1696b1, 0x9bdc06a725c71235,
   0xc19bf174cf692694, 0xe49b69c19ef14ad2, 0xefbe4786384f25e3, 0x0fc19dc68b8cd5b5, 0x240ca1cc77ac9c65]

def sha512K1 : List Nat :=
  [0x2de92c6f592b0275, 0x4a7484aa6ea6e483, 0x5cb0a9dcbd41fbd4, 0x76f988da831153b5, 0x983e5152ee66dfab,
   0xa831c66d2db43210, 0xb00327c898fb213f, 0xbf597fc7beef0ee4, 0xc6e00bf33da88fc2, 0xd5a79147930aa725,
   0x06ca6351e003826f, 0x142929670a0e6e70, 0x27b70a8546d22ffc, 0x2e1b21385c26c926, 0x4d2c6dfc5ac42aed,
   0x53380d139d95b3df, 0x650a73548baf63de, 0x766a0abb3c77b2a8, 0x81c2c92e47edaee6, 0x92722c851482353b]

def sha512K2 : List Nat :=
  [0xa2bfe8a14cf10364, 0xa81a664bbc423001, 0xc24b8b70d0f89791, 0xc76c51a30654be30, 0xd192e819d6ef5218,
   0xd69906245565a910, 0xf40e35855771202a, 0x106aa07032bbd1b8, 0x19a4c116b8d2d0c8, 0x1e376c085141ab53,
   0x2748774cdf8eeb99, 0x34b0bcb5e19b48a8, 0x391c0cb3c5c95a63, 0x4ed8aa4ae3418acb, 0x5b9cca4f7763e373,
   0x682e6ff3d6b2b8a3, 0x748f82ee5defb2fc, 0x78a5636f43172f60, 0x84c87814a1f0ab72, 0x8cc702081a6439ec]

def sha512K3 : List Nat :=
  [0x90befffa23631e28, 0xa4506cebde82bde9, 0xbef9a3f7b2c67915, 0xc67178f2e372532b, 0xca273eceea26619c,
   0xd186b8c721c0c207, 0xeada7dd6cde0eb1e, 0xf57d4f7fee6ed178, 0x06f067aa72176fba, 0x0a637dc5a2c898a6,
   0x113f9804bef90dae, 0x1b710b35131c471b, 0x28db77f523047d84, 0x32caab7b40c72493, 0x3c9ebe0a15c9bebc,
   0x431d67c49c100d4c, 0x4cc5d4becb3e42b6, 0x597f299cfc657e2a, 0x5fcb6fab3ad6faec, 0x6c44198c4a475817]

def sha256K0 : List Nat :=
  [0x428a2f98, 0x71374491, 0xb5c0fbcf, 0xe9b5dba5, 0x3956c25b, 0x59f111f1, 0x923f82a4, 0xab1c5ed5,
   0xd807aa98, 0x12835b01, 0x243185be, 0x550c7dc3, 0x72be5d74, 0x80deb1fe, 0x9bdc06a7, 0xc19bf174,
   0xe49b69c1, 0xefbe4786, 0x0fc19dc6, 0x240ca1cc, 0x2de92c6f, 0x4a7484aa, 0x5cb0a9dc, 0x76f988da,
   0x983e5152, 0xa831c66d, 0xb00327c8, 0xbf597fc7, 0xc6e00bf3, 0xd5a79147, 0x06ca6351, 0x14292967]

def sha256K1 : List Nat :=
  [0x27b70a85, 0x2e1b2138, 0x4d2c6dfc, 0x53380d13, 0x650a7354, 0x766a0abb, 0x81c2c92e, 0x92722c85,
   0xa2bfe8a1, 0xa81a664b, 0xc24b8b70, 0xc76c51a3, 0xd192e819, 0xd6990624, 0xf40e3585, 0x106aa070,
   0x19a4c116, 0x1e376c08, 0x2748774c, 0x34b0bcb5, 0x391c0cb3, 0x4ed8aa4a, 0x5b9cca4f, 0x682e6ff3,
   0x748f82ee, 0x78a5636f, 0x84c87814, 0x8cc70208, 0x90befffa, 0xa4506ceb, 0xbef9a3f7, 0xc67178f2]

def sha512 : Sha := ⟨64, sha512K0 ++ sha512K1 ++ sha512K2 ++ sha512K3, (28, 34, 39), (14, 18, 41), (1, 8, 7), (19, 61, 6)⟩

def sha256 : Sha := ⟨32, sha256K0 ++ sha256K1, (2, 13, 22), (6, 11, 25), (7, 18, 3), (17, 19, 10)⟩

/-- SHA-384. -/
def sha384 (m : List Byte) : List Byte :=
  ((sha512.digest
    [0xcbbb9d5dc1059ed8, 0x629a292a367cd507, 0x9159015a3070dd17, 0x152fecd8f70e5939,
   0x67332667ffc00b31, 0x8eb44a8768581511, 0xdb0c2e0d64f98fa7, 0x47b5481dbefa4fa4] m).take 6).flatMap (beBytes 8)

/-- SHA-256. -/
def sha256Of (m : List Byte) : List Byte :=
  (sha256.digest [0x6a09e667, 0xbb67ae85, 0x3c6ef372, 0xa54ff53a, 0x510e527f, 0x9b05688c, 0x1f83d9ab, 0x5be0cd19] m).flatMap (beBytes 4)

/-! ## ECDSA over P-384 -/

def p384P : Nat := 2 ^ 384 - 2 ^ 128 - 2 ^ 96 + 2 ^ 32 - 1
def p384N : Nat := 0xffffffffffffffffffffffffffffffffffffffffffffffffc7634d81f4372ddf581a0db248b0a77aecec196accc52973
def p384B : Nat := 0xb3312fa7e23ee7e4988e056be3f82d19181d9c6efe8141120314088f5013875ac656398d8a2ed19d2a85c8edd3ec2aef
def p384G : Nat × Nat :=
  (0xaa87ca22be8b05378eb1c71ef320ad746e1d3b628ba79b9859f741e082542a385502f25dbf55296c3a545e3872760ab7,
   0x3617de4a96262c6f5d9e98bf9292dc29f8f41dbd289a147ce9da3113b5f0b8c00a60b1ce1d7e819d7a431d7c90ea0e5f)

/-- A power modulo m, over `f` bits of the exponent. -/
def powMod (m : Nat) : Nat → Nat → Nat → Nat
  | 0, _, _ => 1 % m
  | f + 1, b, e =>
    let r := powMod m f (b * b % m) (e / 2)
    if e % 2 == 1 then r * b % m else r

/-- The inverse modulo a prime. -/
def invMod (m x : Nat) : Nat := powMod m 384 (x % m) (m - 2)

/-- The sum of two points of the curve; none is the point at infinity. -/
def ecAdd (a b : Option (Nat × Nat)) : Option (Nat × Nat) :=
  match a, b with
  | none, q => q
  | q, none => q
  | some (x1, y1), some (x2, y2) =>
    if x1 == x2 && (y1 + y2) % p384P == 0 then none
    else
      let m := if x1 == x2 then (3 * x1 * x1 + p384P - 3) * invMod p384P (2 * y1) % p384P
        else (y2 + p384P - y1) * invMod p384P (x2 + p384P - x1) % p384P
      let x := (m * m + 2 * p384P - x1 - x2) % p384P
      some (x, (m * (x1 + p384P - x) + p384P - y1) % p384P)

/-- A multiple of a point, over `f` bits. -/
def ecMul : Nat → Nat → Option (Nat × Nat) → Option (Nat × Nat)
  | 0, _, _ => none
  | f + 1, k, q =>
    let r := ecMul f (k / 2) (ecAdd q q)
    if k % 2 == 1 then ecAdd r q else r

def onCurve (q : Nat × Nat) : Bool :=
  q.1 < p384P && q.2 < p384P && q.2 * q.2 % p384P == (q.1 * q.1 * q.1 + (p384P - 3) * q.1 + p384B) % p384P

/-- Whether a signature, r then s, verifies over a digest of 48 bytes. -/
def ecdsaDigestVerifies (key digest sig : List Byte) : Bool :=
  let q := (beNat (key.take 48), beNat (key.drop 48))
  let r := beNat (sig.take 48)
  let s := beNat (sig.drop 48)
  key.length == 96 && sig.length == 96 && onCurve q && 0 < r && r < p384N && 0 < s && s < p384N &&
    (let w := invMod p384N s
     match ecAdd (ecMul 384 (beNat digest * w % p384N) (some p384G)) (ecMul 384 (r * w % p384N) (some q)) with
     | some (x, _) => x % p384N == r
     | none => false)

/-! ## LMS (RFC 8554) -/

/-- A Winternitz chain from position `i`, `n` steps. -/
def lmsChain (id q : List Byte) (k : Nat) : Nat → Nat → List Byte → List Byte
  | 0, _, y => y
  | n + 1, i, y => lmsChain id q k n (i + 1) (sha256Of (id ++ q ++ beBytes 2 k ++ beBytes 1 i ++ y))

/-- The 34 digits of 8 bits: the hash, and its checksum. -/
def lmsDigits (h : List Byte) : List Nat :=
  let d := h.map (·.toNat)
  let c := (d.map (255 - ·)).foldl (· + ·) 0
  d ++ [c / 256, c % 256]

/-- The path of a leaf to the root: its siblings of 32 bytes each, lowest first. -/
def lmsRoot (id : List Byte) : Nat → Nat → List Byte → List Byte → List Byte
  | 0, _, t, _ => t
  | n + 1, node, t, path =>
    let s := path.take 32
    let both := if node % 2 == 1 then s ++ t else t ++ s
    lmsRoot id n (node / 2) (sha256Of (id ++ beBytes 4 (node / 2) ++ [0x83#8, 0x83#8] ++ both)) (path.drop 32)

/-- Whether an LMS signature over a message verifies under a key: type 8 with one-time type 4. -/
def lmsVerifies (key msg sig : List Byte) : Bool :=
  let id := (key.drop 8).take 16
  let q := sig.take 4
  let ots := sig.drop 4
  let c := (ots.drop 4).take 32
  let y := ots.drop 36
  let rest := ots.drop (36 + 34 * 32)
  key.length == 56 && beNat (key.take 4) == 8 && beNat ((key.drop 4).take 4) == 4 && sig.length == 4 + 36 + 34 * 32 + 4 + 20 * 32 &&
    beNat (ots.take 4) == 4 && beNat (rest.take 4) == 8 && beNat q < 2 ^ 20 &&
    (let h := sha256Of (id ++ q ++ [0x81#8, 0x81#8] ++ c ++ msg)
     let z := (lmsDigits h).zipIdx.flatMap fun (a, k) => lmsChain id q k (255 - a) a ((y.drop (32 * k)).take 32)
     let kc := sha256Of (id ++ q ++ [0x80#8, 0x80#8] ++ z)
     let leaf := 2 ^ 20 + beNat q
     let t := sha256Of (id ++ beBytes 4 leaf ++ [0x82#8, 0x82#8] ++ kc)
     lmsRoot id 20 leaf t (rest.drop 4) == key.drop 24)

end Sys2Proof.Machine
end

