-- ==== Sys2Proof/Machine/Control.lean ====
section
/-! DEFINITION. Control flow: merging, popping and ending (R174), and the C-format instructions (R263 to R273) with the
taken NX of R227. -/

namespace Sys2Proof.Machine

/-! ## Merge and pop (R174, R25) -/

def Split.fresh (pc : W64) (m : Mask) (u : Vector W32 64) (a : Vector Anchor 8) (now : Nat) : Split :=
  { pc := pc, mask := m, u := u, anchors := a, wait := .none, asleep := false, unfinished := none, badPages := [], sbit := true,
    readySince := now, promoted := false, trapinfo := 0, stop := none, raiser := false, stepped := false, barred := false, issued := none, read := none, streaming := false }

/-- R25: an anchor of two merging splits. -/
def Anchor.merge (a b : Anchor) : Anchor :=
  if a.st == .empty || b.st == .empty then Anchor.reset
  else if a.vbase != b.vbase then Anchor.reset
  else if a.st == .valid && b.st == .valid then { a with limit := if a.limit ≤ b.limit then a.limit else b.limit }
  else a.stale

/-- A register of the split's own, uniform or anchor, is owed to it (R174, R253). -/
def Group.owesUniform (g : Group) (k : Nat) : Bool :=
  (g.results.any fun r => r.split == k && r.writes.any fun w => match w with | .uni _ _ | .anchor _ _ => true | _ => false) ||
    g.owed.any fun o => o.split == k && !o.isVec

/-- A split that has an instruction ahead of it, of which nothing has been performed: it is ready, stalled at issue, fetching, or has yielded. -/
def Split.before? (sp : Split) : Bool :=
  match sp.wait with
  | .none | .yield _ => true
  | .stalled | .held _ _ | .fetch => sp.unfinished.isNone
  | _ => false

/-- R174 step 1: neither split is parked, waiting other than at JOIN, or owed a uniform result. -/
def Group.mergeable (g : Group) (k : Nat) (sp : Split) : Bool :=
  (sp.before? || sp.wait == .join) && sp.stop.isNone && !g.owesUniform k

/-- What is owed to split j is owed to split i: neither is owed a register of its own. -/
def Group.relabel (g : Group) (i j : Nat) : Group :=
  { g with results := g.results.map fun (r : Result) => if r.split == j then { r with split := i } else r,
           owed := g.owed.map fun (o : Owed) => if o.split == j then { o with split := i } else o,
           statusSigs := (g.statusSigs.filter fun x => x.isVec || x.split != j).map fun (x : StatusSig) => if x.split == j then { x with split := i } else x }

/-- Merge split j into split i, i below j. -/
def Group.mergeInto (g : Group) (i j : Nat) : Group :=
  match g.split i, g.split j with
  | some a, some b =>
    let both := a.wait == .join && b.wait == .join
    ((g.relabel i j).setSplit j none).setSplit i (some
      { a with mask := a.mask ||| b.mask, anchors := Vector.ofFn fun k => (a.anchors[k]).merge (b.anchors[k]), sbit := true,
               wait := if both then .join else .none, asleep := both, unfinished := none, badPages := [], read := none, issued := none, streaming := a.streaming && b.streaming,
               readySince := max a.readySince b.readySince, stepped := a.stepped && b.stepped })
  | _, _ => g

/-- A pair that merges, the lower first. -/
def Group.mergePair (g : Group) : Option (Nat × Nat) :=
  [(0, 1), (0, 2), (0, 3), (1, 2), (1, 3), (2, 3)].find? fun (i, j) =>
    match g.split i, g.split j with
    | some a, some b => a.pc == b.pc && g.mergeable i a && g.mergeable j b
    | _, _ => false

def Group.mergeAll : Nat → Group → Group
  | 0, g => g
  | n + 1, g => match g.mergePair with
    | some (i, j) => Group.mergeAll n (g.mergeInto i j)
    | none => g

/-- The split of a popped entry (R174 step 2). -/
def StackEntry.split (x : StackEntry) (now : Nat) : Split :=
  Split.fresh x.pc x.mask x.u
    (Vector.ofFn fun i => if x.emask.getLsbD i.val then Anchor.reset else ⟨.stale, x.vb[i], 0, 0, 0⟩) now

/-- R174 steps 1 and 2, repeated while they change anything; a group has 4 split numbers. -/
def Group.normalise (now : Nat) : Nat → Group → Group
  | 0, g => g
  | n + 1, g =>
    let g := g.mergeAll 3
    match g.freeSplit, g.stack with
    | some k, x :: rest => Group.normalise now n ({ g with stack := rest }.addSplit k (x.split now))
    | _, _ => g

/-- The JOIN that is released when every split waits at one (R174): the lowest PC. Splits with equal PCs merge first: one that is still
owed a uniform result is waited for. -/
def Group.joinWinner (g : Group) : Option Nat :=
  let live := (List.range 4).filterMap fun k => (g.split k).map fun sp => (k, sp)
  let blocked := live.any (fun (_, sp) => sp.wait != .join) || (!g.stack.isEmpty && g.freeSplit.isSome)
  if blocked then none
  else match live.foldl (fun (best : Option (Nat × Split)) x => match best with
      | some b => if x.2.pc < b.2.pc then some x else some b
      | none => some x) none with
    | some b => if live.any (fun x => x.1 != b.1 && x.2.pc == b.2.pc) then none else some b.1
    | none => none

/-- R174: the release of the lowest JOIN; the split passes its JOIN when it issues again. -/
def Group.releaseJoin (g : Group) : Group :=
  match g.joinWinner with
  | some k => g.modSplit k fun sp => { sp with wait := .none, asleep := false, unfinished := some 0, sbit := true }
  | none => g

/-- R174: splits merge and pop, and a JOIN that nothing holds is released. -/
def execJoinRelease (core slot : Nat) (s : State) : Host.Outcome State Fault Refusal :=
  .next (match lookup (s.core core).slots slot with
    | some b => match b.frame with
      | some h => s.modGroup b.cid h fun g => (Group.normalise s.ac 68 (g.commitDue s.ac)).releaseJoin
      | none => s
    | none => s)

/-! ## Branches -/

/-- BranchTarget (R229). -/
def branchTarget (pc : W64) (b : CBody) : W64 := (lineOf pc + (b.ofs.signExtend 64 <<< 6)) ||| b.slt.setWidth 64

namespace Env

/-- Whether sending `t` elsewhere splits the split. -/
def diverges (e : Env) (t : Mask) : Bool := t != 0 && e.sp.mask &&& ~~~t != 0

/-- The divergence of R172, after every check of the transfer: a divergence waits for uniform results that the split is
owed, since both parts copy its registers (R253; `Env.holds` keeps it from issuing before), and a full stack traps. -/
def diverge (e : Env) (t : Mask) (target : W64) (s : State) (also : Nat → State → State) : Perf :=
  if e.diverges t && e.group.owesUniform e.f.split then .stay (e.modSplit s fun sp => { sp with wait := .stalled })
  else if e.diverges t && e.group.freeSplit.isNone && 64 ≤ e.group.stack.length then .bad .divergenceDepth s
  else
    let holder := if e.diverges t then (e.group.freeSplit).getD e.f.split else e.f.split
    .moved (also holder (e.modSplit (e.modGroup s fun g => g.branch e.f.split t target) fun sp => { sp with stepped := true }))

/-- The check of a transfer. A target line whose parity failed twice lets the lanes go: FETCH_PARITY is met at the PC that is fetched, by the
split that arrives there (R221). -/
def checkTarget (e : Env) (target : W64) (s : State) : Except Perf (State × Option TrapInfo) :=
  match e.checkTransfer target 0 s with
  | .ok s => .ok (s, none)
  | .error (.trap t s) => if t.code == .fetchParity then .ok (s, some t) else .error (.trap t s)
  | .error p => .error p

/-- The fetch of split `k` traps. -/
def fetchTrap (e : Env) (bad : Option TrapInfo) (k : Nat) (s : State) : State :=
  match bad with
  | some t => { e with f := { e.f with split := k } }.take { t with fva := 0 } s
  | none => s

/-- A transfer of `t` to a PC, checked and then performed. -/
def transfer (e : Env) (t : Mask) (target : W64) (s : State) (also : Nat → State → State := fun _ s => s) : Perf :=
  match e.checkTarget target s with
  | .error p => p
  | .ok (s, bad) => e.diverge t target s fun k s => e.fetchTrap bad k (also k s)

end Env

/-- An instruction that accepts every NX: with NX = 01 the branch is checked before anything is performed (R220), then
the lanes of g go to the target. -/
def control (i : Instr) (h : Hdr) (b : CBody) (ready : Env → Bool) (wait : Env → State → State) (after : Env → State → State) :
    State → Host.Outcome State Fault Refusal :=
  issueWith i h noTags fun e =>
    if !ready e then .stay (wait e e.s)
    else if h.nx == 1#2 then
      match e.transfer (e.g h) (branchTarget e.sp.pc b) e.s with
      | .moved s => .moved (after e s)
      | p => p
    else .moved (after e (e.next h 1 e.s))

/-- R264. -/
def execBr (h : Hdr) (b : CBody) : State → Host.Outcome State Fault Refusal :=
  issueWith (.br h b) h noTags fun e => e.transfer (e.g h) (branchTarget e.sp.pc b) e.s

/-! ## BRX (R265) -/

/-- A lane's index under the tag rule of R27. -/
def Env.laneIndex (e : Env) (r : BitVec 8) (l : Nat) : Int :=
  let x := e.vl r l
  if (e.v r).tag == 1#4 then x.toInt else (x.toNat : Int)

/-- One read of the table, as SLD makes it. -/
def Env.tableRead (e : Env) (va : W64) (n : Nat) (g : Mask) (s : State) : Except Perf (State × Nat) :=
  match e.early .any n n (.va va) with
  | some c => .error (.trap { code := c, fva := va &&& 0x01FFFFFFFFFFFFFF } s)
  | none =>
    let fault (c : FaultCode) (s : State) : Perf :=
      if c == .vfViolation then .stay (e.violate va g s)
      else if c.replayable then .stay (e.park .load 1 g [⟨0, lookupPage va, c, va⟩] s)
      else .trap { code := c, umask := g, fva := va &&& 0x01FFFFFFFFFFFFFF } s
    match lookup e.sp.badPages (lookupPage va) with
    | some c => .error (fault c s)
    | none =>
      match e.lookupVa s .load .any va with
      | .miss page => .error (e.hold .access (e.requestWalk page s))
      | .fault c => .error (fault c s)
      | .ok (.atrium off) =>
        if s.reqs.any fun r => r.core == e.f.core && r.op.row == some (off / 64) then .error (e.hold .access s)
        else .ok (s, Mem.readN s.atrium off n)
      | .ok p =>
        match e.loadAt .drop 0 va n p s with
        | (s, some x) => .ok (s, x)
        | (s, none) => .error (e.hold .access s)

/-- One table entry and its target, checked: the target's PC. -/
def Env.tableEntry (e : Env) (base : W64) (g : Mask) (idx : Nat) (s : State) : Except Perf (State × W64) :=
  match e.tableRead (base + BitVec.ofNat 64 (16 * idx)) 8 g s with
  | .error p => .error p
  | .ok (s, pc) =>
    match e.tableRead (base + BitVec.ofNat 64 (16 * idx + 8)) 2 g s with
    | .error p => .error p
    | .ok (s, lbl) =>
      let pc := BitVec.ofNat 64 pc
      match e.checkTransfer pc g s with
      | .error p => .error p
      | .ok s =>
        match e.fetchLine pc g s with
        | .error p => .error p
        | .ok (s, l) =>
          let w := slotBits l (slotOf pc)
          if w.extractLsb' 88 8 == 0x22#8 && (w.extractLsb' 40 12).toNat == lbl then .ok (s, pc)
          else .error (.bad .badTarget s)

/-- The targets of the distinct indices, ascending. -/
def Env.tableEntries (e : Env) (base : W64) (g : Mask) : List Nat → State → Except Perf (State × List (Nat × W64))
  | [], s => .ok (s, [])
  | i :: l, s =>
    match e.tableEntry base g i s with
    | .error p => .error p
    | .ok (s, pc) =>
      match Env.tableEntries e base g l s with
      | .error p => .error p
      | .ok (s, rest) => .ok (s, (i, pc) :: rest)

/-- The lanes of g by target, in the order of the lowest index of each. -/
def targetSets (idx : Nat → Nat) (g : Mask) (targets : List (Nat × W64)) : List (W64 × Mask) :=
  targets.foldl (fun sets (i, pc) =>
    let m := maskBy fun l => g.getLsbD l && idx l == i
    if sets.any fun t => t.1 == pc then sets.map fun t => if t.1 == pc then (pc, t.2 ||| m) else t
    else sets ++ [(pc, m)]) []

/-- Distinct numbers of a list, ascending. -/
def distinctAsc (l : List Nat) : List Nat := (l.foldl (fun (m : List (Nat × Unit)) i => insert m i ()) []).map (·.1)

/-- The movement of BRX once every check has passed. -/
def Group.brx (g : Group) (k : Nat) (keep : Mask) (sets : List (W64 × Mask)) : Group :=
  let (g, rest) :=
    if keep == 0 then
      match sets with
      | [] => (g, [])
      | (pc, m) :: rest => (g.modSplit k fun sp => { sp.arrive pc with mask := m }, rest)
    else (g.modSplit k fun sp => { sp.arrive (nextPc sp.pc) with mask := keep }, sets)
  rest.foldl (fun g (pc, m) => g.divergeTo k m pc) g

def execBrx (h : Hdr) (b : CBody) : State → Host.Outcome State Fault Refusal :=
  issueWith (.brx h b) h (fun e => e.tagsOk [(b.cv.toNat, indexTag)]) fun e =>
    let g := e.g h
    let base := e.u64 b.ca
    let idx (l : Nat) : Int := e.laneIndex b.cv l
    if base.toNat % 16 != 0 then .bad .misaligned e.s
    else if (lanesOf g).any fun l => idx l < 0 || ((b.cx.toNat : Nat) : Int) ≤ idx l then .bad .badTarget e.s
    else
      match e.tableEntries base g (distinctAsc ((lanesOf g).map fun l => (idx l).toNat)) e.s with
      | .error p => p
      | .ok (s, targets) =>
        let sets := targetSets (fun l => (idx l).toNat) g targets
        let keep := e.sp.mask &&& ~~~g
        let others := if keep == 0 then sets.length - 1 else sets.length
        if 0 < others && e.group.owesUniform e.f.split then .stay (e.modSplit s fun sp => { sp with wait := .stalled })
        else if 64 < e.group.stack.length + (others - e.group.freeSplits) then .bad .divergenceDepth s
        else .moved (e.modSplit (e.modGroup s fun gr => gr.brx e.f.split keep sets) fun sp => { sp with stepped := true })

/-! ## The rest of the C format -/

/-- R266. -/
def execPad (h : Hdr) (b : CBody) : State → Host.Outcome State Fault Refusal :=
  control (.pad h b) h b (fun _ => true) (fun _ s => s) fun _ s => s

/-- A pair written to the split that holds the taken lanes, as a variable-latency result. -/
def Env.laterFor (e : Env) (k : Nat) (ws : List RegWrite) (s : State) : State :=
  { e with f := { e.f with split := k } }.later ws s

/-- R267: the link is the PC of the slot after the CALL. -/
def execCall (h : Hdr) (b : CBody) : State → Host.Outcome State Fault Refusal :=
  issueWith (.call h b) h noTags fun e =>
    e.transfer (e.g h) (branchTarget e.sp.pc b) e.s fun k s => e.laterFor k (uniW true b.ca (nextPc e.sp.pc)) s

/-- R267. -/
def execRet (h : Hdr) (b : CBody) : State → Host.Outcome State Fault Refusal :=
  issueWith (.ret h b) h noTags fun e => e.transfer (e.g h) (e.u64 b.ca) e.s

/-- R269: a split alone in its group passes at once; any other waits until JOIN_RELEASE lets it pass. -/
def execJoin (h : Hdr) (b : CBody) : State → Host.Outcome State Fault Refusal :=
  control (.join h b) h b
    (fun e => e.sp.unfinished == some 0 ||
      (e.group.stack.isEmpty && (List.range 4).all fun k => k == e.f.split || (e.group.split k).isNone))
    (fun e s => (e.modSplit s fun sp => { sp with wait := .join, asleep := true }).push (.joinRelease e.f.core e.f.slot))
    fun _ s => s

/-- R268. A divergence copies the new count into both parts. -/
def execLoop (h : Hdr) (b : CBody) : State → Host.Outcome State Fault Refusal :=
  issueWith (.loop h b) h noTags fun e =>
    let wide := b.cx.getLsbD 0
    let n : W64 := if wide then e.u64 b.ca - 1 else (e.u b.ca - 1).setWidth 64
    let ws := uniW wide b.ca n
    if n == 0 then .ok (e.later ws e.s)
    else
      let g := e.g h
      match e.checkTarget (branchTarget e.sp.pc b) e.s with
      | .error p => p
      | .ok (s, bad) =>
        match e.diverge g (branchTarget e.sp.pc b) s (fun _ s => s) with
        | .moved _ =>
          if e.diverges g then e.diverge g (branchTarget e.sp.pc b) (e.modGroup s fun gr => gr.writes e.f.split ws) (e.fetchTrap bad)
          else e.diverge g (branchTarget e.sp.pc b) s fun k s => e.fetchTrap bad k (e.laterFor k ws s)
        | p => p

/-- R270: the lanes of g retire; the lanes outside g continue. -/
def execExit (h : Hdr) (b : CBody) : State → Host.Outcome State Fault Refusal :=
  issueWith (.exit h b) h noTags fun e => .moved (e.retire (e.g h) (e.modSplit e.s (Split.advance 1)))

/-- R271: the split is not ready until another split has been chosen, or 16 ac have passed. -/
def execYield (h : Hdr) (b : CBody) : State → Host.Outcome State Fault Refusal :=
  control (.yield h b) h b (fun _ => true) (fun _ s => s) fun e s =>
    e.modSplit s fun sp => { sp with wait := .yield s.ac, asleep := true }

/-- R272. -/
def execNop (h : Hdr) (b : CBody) : State → Host.Outcome State Fault Refusal :=
  control (.nop h b) h b (fun _ => true) (fun _ s => s) fun _ s => s

/-- BKPT and TRAP count as performed: the fault's stop record holds the sequential successor (R273, R394). -/
def Env.debugTrap (e : Env) (c : FaultCode) (b : CBody) : Perf :=
  .moved (e.take { code := c, info := b.lbl } (e.modSplit e.s (Split.advance 1)))

/-- R273, R362: DEBUG.BKPTNOP makes BKPT a NOP. -/
def execBkpt (h : Hdr) (b : CBody) : State → Host.Outcome State Fault Refusal :=
  issueWith (.bkpt h b) h noTags fun e => if e.ctx.bkptNop then .ok e.s else e.debugTrap .bkpt b

/-- R238: an opcode that is not assigned traps, precisely. -/
def execUnassignedOpcode (_w : BitVec 96) (s : State) : Host.Outcome State Fault Refusal :=
  .next (match Env.of s s.focus with
    | none => s
    | some e => e.take (faultOf .illegalOpcode) s)

/-- R273. -/
def execTrap (h : Hdr) (b : CBody) : State → Host.Outcome State Fault Refusal :=
  issueWith (.trap h b) h noTags fun e => e.debugTrap .trap b

end Sys2Proof.Machine
end

