-- ==== Sys2Proof/Machine/Event.lean ====
section
/-! DEFINITION. Events (R382, R383, R387): the record, its ring, what happens when the ring is full, and EVPOP (R364). -/

namespace Sys2Proof.Machine

/-! ## Records (R382) -/

/-- The event types of R382. -/
inductive EvType where
  | halt | frameLow | migrationDone | residencyRequest | pageMapped | fault | linkRetrained | dieReset | dieWithdrawn
  | launchRefused | placeRequest | health
  deriving DecidableEq, Repr

def EvType.code : EvType → Nat
  | .halt => 1 | .frameLow => 2 | .migrationDone => 3 | .residencyRequest => 4 | .pageMapped => 5 | .fault => 6 | .linkRetrained => 7
  | .dieReset => 8 | .dieWithdrawn => 9 | .launchRefused => 10 | .placeRequest => 11 | .health => 12

/-- The events that a full ring may discard (R383). -/
def EvType.droppable : EvType → Bool
  | .frameLow | .residencyRequest | .pageMapped => true
  | _ => false

/-- The type of a held record. -/
def evCode (r : BitVec 512) : Nat := (r.extractLsb' 0 16).toNat

/-- Whether events of a type go to the host event ring: HALT, FAULT and die events with DSR.ERR = 1 (R386), and placement
requests (R375). -/
def Fn.toHost (f : Fn) (code : Nat) : Bool :=
  code == 11 || (f.dsr.getLsbD 6 && (code == 1 || code == 6 || code == 8 || code == 9))

/-- A record; `body` is bytes 16 to 63. -/
def eventRecord (t : EvType) (vf : Nat) (eseq : W32) (time : W64) (body : Nat) : BitVec 512 :=
  BitVec.ofNat 512 (t.code + 2 ^ 16 * vf + 2 ^ 32 * eseq.toNat + 2 ^ 64 * time.toNat + 2 ^ 128 * body)

/-! ## The rings -/

/-- Write a record to the host event ring (R387); false when it is disabled or full. -/
def State.toHostRing (s : State) (vf : Nat) (r : BitVec 512) : State × Bool :=
  let f := s.fn vf
  if !s.hostLink || ringFull f.herb f.heTail f.heHead then (s, false)
  else
    let at_ := ringBase f.herb + 64 * (f.heTail.toNat % 2 ^ ringLog f.herb)
    ({ s with host := Mem.writeN s.host at_ 64 r.toNat }.modFn vf fun f => { f with heTail := f.heTail + 1 }, true)

/-- Write a record to the function's privileged queue, or to the host event ring where it has none (R382). -/
def State.ringPost (s : State) (vf : Nat) (r : BitVec 512) : State × Bool :=
  if (s.fn vf).toHost (evCode r) then s.toHostRing vf r
  else match s.privQueue vf with
    | (s, none) => s.toHostRing vf r
    | (s, some (n, q)) =>
      if 2 ^ q.logn ≤ (q.etail - q.head).toNat then (s, false)
      else
        let s := s.writeMem (q.ring + 64 * (q.etail.toNat % 2 ^ q.logn)) 64 r.toNat
        let s := s.writeMem (s.queueAt n + 20) 4 (q.etail + 1).toNat
        ((s.wakeAll (· == .event)).push (.handlerLaunchStart vf), true)

/-- The same; while a home that the write needs is in reset there is no room (R431). -/
def State.toRing (s : State) (vf : Nat) (r : BitVec 512) : State × Bool :=
  let t := s.ringPost vf r
  if t.1.homeHeld && !s.homeHeld then (s, false) else t

/-- The function that a context's HALT event goes to: that of a violation to the physical function's (R397). -/
def Ctx.haltRing (c : Ctx) : Nat := if c.first == some .vfViolation then 0 else c.vf

/-- Two records go to the same ring. -/
def Fn.sameRing (f : Fn) (a b : BitVec 512) : Bool := f.toHost (evCode a) == f.toHost (evCode b)

/-- Post an event about function `about` to function vf's ring (R382, R383). The device numbers it, and holds it while the ring
is full or older events for that ring are held. Beyond the 256 that the Porter holds an event is discarded where it may be; any other stands
with its producer, which waits with it (assumption 90). The producers that have more to do are asked first (`eventsBlocked`, `unlessFull`). -/
def State.postEventOn (s : State) (t : EvType) (vf about die body : Nat) : State :=
  let f := s.fn vf
  let r := eventRecord t about f.eseq (s.counter die) body
  let s := s.modFn vf fun f => { f with eseq := f.eseq + 1 }
  let hold (s : State) : State :=
    s.modFn vf fun f =>
      if f.heldEv.length < 256 then { f with heldEv := f.heldEv ++ [r] }
      else if t.droppable then { f with evdrop := f.evdrop + 1 }
      else { f with waitEv := f.waitEv ++ [r] }
  if (f.heldEv ++ f.waitEv).any fun q => f.sameRing q r then hold s
  else match s.toRing vf r with
    | (s, true) => s
    | (s, false) => hold s

def State.postEvent (s : State) (t : EvType) (vf die body : Nat) : State := s.postEventOn t vf vf die body

/-- Whether the producer of an event that is never discarded waits (R383): the Porter holds as many as it can. -/
def State.eventsBlocked (s : State) (vf : Nat) : Bool := 256 ≤ (s.fn vf).heldEv.length

/-- A Porter that would post an event beyond those it can hold waits instead: nothing of its step is done (R383). -/
def State.unlessFull (s : State) (vf : Nat) (t : State) : State :=
  if s.eventsBlocked vf && (s.fn vf).waitEv.length < (t.fn vf).waitEv.length then s else t

/-- Post what is held, in order, as far as each ring has room; `stuck` are records that found no room. -/
def State.postHeld (vf : Nat) : List (BitVec 512) → List (BitVec 512) → State → State
  | [], stuck, s => s.modFn vf fun f => { f with heldEv := stuck.take 256, waitEv := stuck.drop 256 }
  | r :: l, stuck, s =>
    if stuck.any fun q => (s.fn vf).sameRing q r then State.postHeld vf l (stuck ++ [r]) s
    else match s.toRing vf r with
      | (s, true) => State.postHeld vf l stuck s
      | (s, false) => State.postHeld vf l (stuck ++ [r]) s

/-- R383: held events are posted once their ring has room; the halts, migrations and Porters that waited for it go on. -/
def execEventHeldPost (vf : Nat) (s : State) : Host.Outcome State Fault Refusal :=
  .next (
    let s := State.postHeld vf ((s.fn vf).heldEv ++ (s.fn vf).waitEv) [] s
    let mine (st : CtxSt) : List (Nat × Ctx) := s.ctxs.filter fun c => (c.2.vf == vf || c.2.haltRing == vf) && c.2.st == st
    s.pushAll ((mine .halting).map (.contextHalted ·.1) ++ (mine .saving).map (.preemptSaveComplete ·.1) ++
      (mine .saved).map (.contextRestore ·.1 .fromRecord) ++
      [.migrationInvalidationDone 0, .migrationInvalidationDone 1, .porterRecordSelect 0, .porterRecordSelect 1, .handlerLaunchStart vf]))

/-! ## EVPOP (R364) -/

/-- Take the oldest record of a function's privileged queue, and how many are left: one operation at the entry's home. -/
def State.popEvent (s : State) (vf : Nat) : State × Option (Nat × Nat) :=
  match s.privQueue vf with
  | (s, none) => (s, none)
  | (s, some (n, q)) =>
    if q.head == q.etail then (s, none)
    else
      let (s, r) := s.readMem (q.ring + 64 * (q.head.toNat % 2 ^ q.logn)) 64
      let s := s.writeMem (s.queueAt n + 16) 4 (q.head + 1).toNat
      ((s.push (.eventHeldPost vf)), some (r, min (q.etail - (q.head + 1)).toNat 0xFFFF))

/-- A is checked before the queue is touched; a popped record is stored as a core-path store, and the core is swept. -/
def evpop (i : Instr) (h : Hdr) (b : TBody) (wait : Bool) : State → Host.Outcome State Fault Refusal :=
  issueWith i h noTags fun e =>
    let va := e.u64 b.tsa
    let acc : Accept := ⟨[0], some .aperture, false⟩
    match e.early acc 64 64 (.va va) with
    | some c => .trap { code := c, fva := va &&& 0x01FFFFFFFFFFFFFF } e.s
    | none =>
      match e.translate e.s .store acc va with
      | (s, .fault c) => e.issueFault .store c va s
      | (s, .miss page) => e.hold .access (e.requestWalk page s)
      | (s, .ok p) =>
        match s.popEvent e.vf with
        | (s, none) => if wait then e.hold .event s else .ok (e.later [.uni b.tsb.toNat 0] s)
        | (s, some (r, left)) =>
          let s := (e.storeAt va 64 r p s).sweep e.f.core e.cid e.h e.asid
          .ok (e.later [.uni b.tsb.toNat (BitVec.ofNat 32 (2 ^ 31 + left))] s)

def execEvpop (h : Hdr) (b : TBody) : State → Host.Outcome State Fault Refusal := evpop (.evpop h b) h b false
def execEvpopWait (h : Hdr) (b : TBody) : State → Host.Outcome State Fault Refusal := evpop (.evpopWait h b) h b true

end Sys2Proof.Machine
end

