-- ==== Sys2Proof/Machine/Frame.lean ====
section
/-! DEFINITION. Task frames: the pool (R180, R181), binding and unbinding a group slot (R183, R184, R194), readiness, the
end of a group (R107, R270) and the events that drive them. -/

namespace Sys2Proof.Machine

/-! ## A group that starts (R182) -/

def blankSplits : Vector (Option Split) 4 := Vector.replicate 4 none

/-- A group with no lanes: registers zero with tag RAW. -/
def Group.blank (role : Role) (vregs uregs crew num : Nat) : Group :=
  { role := role, vregs := vregs, uregs := uregs, v := [], p := Vector.replicate 7 0, lfsr := Vector.replicate 32 0, splits := blankSplits,
    stack := [], results := [], owed := [], statusSigs := [], nextId := 0, exit := .live, resv := [], crew := crew, num := num,
    preferEvict := false, away := [], reordered := none, tgtChecked := false }

def anchorsEmpty : Vector Anchor 8 := Vector.replicate 8 Anchor.reset

/-- A group at its entry: s0:s1 hold the argument, everything else is zero. -/
def Group.start (role : Role) (vregs uregs crew num : Nat) (pc : W64) (mask : Mask) (arg : W64) (now : Nat) : Group :=
  let u := ((Vector.replicate 64 (0 : W32)).setIfInBounds 0 (arg.extractLsb' 0 32)).setIfInBounds 1 (arg.extractLsb' 32 32)
  (Group.blank role vregs uregs crew num).setSplit 0 (some (Split.fresh pc mask u anchorsEmpty now))

/-! ## The pool (R180, R181) -/

def noHandle : Nat := 0xFFFFFFFF
def noLink : W32 := 0xFFFFFFFF
def linkPending : W32 := 0xFFFFFFFE
def noFut : W64 := BitVec.allOnes 64

/-- The lowest frame index that is free. -/
def Ctx.freeHandle (c : Ctx) : Nat := ((List.range (c.frames.length + 1)).find? fun h => (lookup c.frames h).isNone).getD 0

/-- Frames of a crew's pool that are free. -/
def Ctx.freeFrames (c : Ctx) (crew : Nat) : Nat := c.blk.frames - ((c.crew crew).map (·.frames)).getD 0

/-- The place of an await block in the Atrium of a Hall: blocks are handed out downwards from the end of its 32 MiB (assumption 44). -/
def blockAt (hall k : Nat) : Nat := 33554432 * (hall + 1) - 320 * (k + 1)

/-- Whether an await block is some frame's: a continuation keeps its spawner's, so that it outlives the spawner's frame. -/
def State.blockUsed (s : State) (off : Nat) : Bool := s.ctxs.any fun c => c.2.frames.any fun f => f.2.awb.toNat == off

/-- The first await block of a Hall that is no frame's. -/
def State.freeBlock (s : State) (hall : Nat) : Nat :=
  let n := (s.ctxs.map fun c => c.2.frames.length).foldl (· + ·) 0
  blockAt hall (((List.range (n + 1)).find? fun k => !s.blockUsed (blockAt hall k)).getD 0)

/-- The Hall of a crew's core. -/
def Ctx.hallOfCrew (c : Ctx) (crew : Nat) : Nat := hallOf (((c.crew crew).map (·.core)).getD 0)

/-- A frame taken from the pool. It has a fresh await block unless it is given one. -/
def State.newFrame (s : State) (cid crew : Nat) (f : Nat → Frame) (fresh : Bool) : State × Nat :=
  match s.ctx cid with
  | none => (s, 0)
  | some c =>
    let h := c.freeHandle
    let awb := s.freeBlock (c.hallOfCrew crew)
    let s := s.setCtx cid ({ c with frames := insert c.frames h (if fresh then { f h with awb := BitVec.ofNat 64 awb } else f h) }.modCrew crew
      fun k => { k with frames := k.frames + 1 })
    (if fresh then { s with atrium := Mem.clear s.atrium awb 320, sigOwner := insert s.sigOwner awb cid } else s, h)

/-- A frame that has just been taken, before it is bound. -/
def Frame.new (parent : Option Nat) (kind : FrameKind) (st : FrameSt) (pc : W64) (mask : Mask) (core slot : Nat) (g : Group) : Frame :=
  { parent := parent, pc := pc, plane := Vector.replicate 32 0, mask := mask, kind := kind, st := st, pin := false, rem := 0,
    links := Vector.replicate 4 noLink, futs := Vector.replicate 4 noFut, futOffs := Vector.replicate 4 0, awb := 0, regs := 0, core := core, slot := slot, sig := 0, acq := [],
    acqAll := false, lent := [], group := g }

/-- R181: a frame is freed when it is complete and no child frame names it as PARENT; its parent may be freed with it. -/
def Ctx.tryFree : Nat → Ctx → Nat → Ctx
  | 0, c, _ => c
  | n + 1, c, h =>
    match lookup c.frames h with
    | none => c
    | some fr =>
      if fr.st != .complete || c.frames.any (fun x => x.2.parent == some h) then c
      else
        let c := { c with frames := remove c.frames h }.modCrew fr.group.crew fun k => { k with frames := k.frames - 1, frameLow := false }
        match fr.parent with
        | some p => Ctx.tryFree n c p
        | none => c

/-- The same, after which a SPAWN that stalled for frames tries again. -/
def State.tryFree (s : State) (cid h : Nat) : State := (s.modCtx cid fun c => c.tryFree (c.frames.length + 1) h).wakeAll (· == .stalled)

/-! ## Slots -/

/-- The crew of a context on a core, while its reservations hold. -/
def Ctx.crewOn (c : Ctx) (core : Nat) : Option (Nat × Crew) :=
  if c.rect.has core then
    match c.crew (c.rect.index core) with
    | some k => if k.released || k.st == .waiting || k.st == .reserved then none else some (c.rect.index core, k)
    | none => none
  else none

/-- A core's slots that no launch has reserved. -/
def State.unreserved (s : State) (core : Nat) : List Nat := (List.range 48).filter fun k => (lookup (s.core core).slots k).isNone

/-- The free group slots in which a context's frames may be bound on a core: its own, then those that are nobody's (R183, R465). -/
def State.freeSlots (s : State) (core cid : Nat) : List Nat :=
  let own := ((s.core core).slots.filter fun b => b.2.cid == cid && b.2.commit && b.2.frame.isNone).map (·.1)
  match (s.ctx cid).bind (·.crewOn core) with
  | some _ => own ++ s.unreserved core
  | none => own

/-- A core's whole deque, top first: the entries on chip, then those spilled (R183). -/
def Core.entries (c : Core) : List FRef := c.deque ++ c.spilled

/-- The 16 newest entries stay on chip. -/
def Core.setEntries (c : Core) (l : List FRef) : Core := { c with deque := l.take 16, spilled := l.drop 16 }

/-- Frames of a context that wait for a slot on a core. -/
def State.queuedOn (s : State) (core cid : Nat) : Nat :=
  (((s.core core).ready ++ (s.core core).entries).filter fun x => x.cid == cid).length

/-- Free slots of a core look for the frames of a context that wait there. -/
def State.offer (s : State) (core cid : Nat) : State :=
  s.pushAll (((s.freeSlots core cid).take (s.queuedOn core cid)).map fun k => .slotBind core k none)

def FrameKind.code : FrameKind → Nat
  | .launch => 0 | .child => 1 | .continuation => 2 | .dependent => 3

def FrameSt.code : FrameSt → Nat
  | .running => 0 | .inDeque => 1 | .ready => 2 | .awaiting => 3 | .waitTable => 4 | .gallery => 5 | .complete => 6

/-- STATE of a frame's header. A frame in a slot all of whose splits sleep stands in the wait table where one of them has an entry there,
and awaits where all of them await or its EXIT does. -/
def Frame.state (f : Frame) : FrameSt :=
  let splits := (List.range 4).filterMap f.group.split
  match f.st with
  | .running =>
    if f.group.exit == .awaiting then .awaiting
    else if splits.isEmpty || splits.any (fun sp => !sp.asleep) then .running
    else if splits.any fun sp => sp.wait == .future none then .waitTable
    else if splits.all fun sp => sp.wait == .await then .awaiting
    else .running
  | st => st

/-- KIND, STATE, PIN and REM: bytes 40 to 43 of the header (R180). -/
def Frame.kindWord (f : Frame) : Nat := f.kind.code + 4 * f.state.code + 32 * f.pin.toNat + 64 * f.rem

/-- A change of a frame's STATE or REM while its context is halted or saved is made in the image too (R385). -/
def State.noteFrame (s : State) (cid h : Nat) : State :=
  s.modCtx cid fun c => match lookup c.frames h with
    | some fr => if c.image.isEmpty then c else { c with image := Mem.writeN c.image (imageFrames + 384 * h + 40) 4 fr.kindWord }
    | none => c

/-- A frame becomes ready on its core (R183). That of a context whose crew does not stand there, being saved, becomes ready in the image
and is queued at the restore (R385). -/
def State.readyFrame (s : State) (cid h : Nat) : State :=
  match s.frame cid h with
  | none => s
  | some fr =>
    let s := (s.modFrame cid h fun fr => { fr with st := .ready }).noteFrame cid h
    let x : FRef := ⟨cid, h⟩
    if (s.core fr.core).ready.contains x || !((s.ctx cid).any fun c => (c.crewOn fr.core).isSome) then s
    else (s.modCore fr.core fun c => { c with ready := c.ready ++ [x] }).offer fr.core cid

/-- The variable-latency results whose values have arrived for a slot's group are written before it leaves the slot. -/
def State.flushResults (s : State) (core slot cid h : Nat) : State :=
  let ids := s.todo.filterMap fun i => match i with
    | .variableResultWrite c k id => if c == core && k == slot then some id else none
    | _ => none
  let s := { s with todo := s.todo.filter fun i => match i with
    | .variableResultWrite c k _ => !(c == core && k == slot)
    | _ => true }
  s.modGroup cid h fun g =>
    ({ g with results := g.results.map fun (r : Result) => if ids.contains r.id then { r with due := some s.ac } else r } : Group).commitDue s.ac

/-- The PC a frame resumes at, for its header (R180). -/
def Group.resumePc (g : Group) : W64 := (((List.range 4).filterMap fun k => (g.split k).map (·.pc)).head?).getD 0

/-- Crews that wait for resources on a core try again, a restore that waits too. -/
def State.retryReservations (s : State) (core : Nat) : State :=
  let waiting := s.ctxs.filter fun c => c.2.placed && c.2.rect.has core && (c.2.st == .placing || c.2.st == .running) &&
    (c.2.crew (c.2.rect.index core)).any fun k => k.st == .waiting
  let saved := s.ctxs.filter fun c => c.2.st == .saved && !c.2.reqOpen
  s.pushAll ((waiting.map fun c => .resourceReservation c.1 core) ++ saved.map fun c => .contextRestore c.1 .fromRecord)

/-- A group leaves its slot. Its wait-table entries are given up: the waits are decided again when it is bound. A slot that no launch has
reserved is free for reservations again (R376). -/
def State.unbind (s : State) (core slot : Nat) : State :=
  match lookup (s.core core).slots slot with
  | none => s
  | some b =>
    match b.frame with
    | none => s
    | some h =>
      let s := s.flushResults core slot b.cid h
      let s := s.modCore core fun c =>
        { c with slots := if b.extra then remove c.slots slot else insert c.slots slot { b with frame := none },
                 waits := c.waits.filter fun w => w.slot != slot }
      let s := s.modFrame b.cid h fun fr => { fr with pc := fr.group.resumePc }
      if b.extra then s.retryReservations core else s

/-- Whether a wait is looked at again whenever the split may issue. -/
def Wait.retries : Wait → Bool
  | .parked p => p.woken
  | .join | .reorder => false
  | _ => true

/-- What a frame acquires before its first instruction on a core: the signatures of its edges, and for a dependent frame
those of the futures it names, which its FUT fields still hold (R102, R106, R109). -/
def State.bindAcquires (s : State) (core cid h : Nat) (fr : Frame) : State :=
  let s := fr.acq.foldl (fun s σ => s.acquire core cid h cid σ) s
  let s := if fr.kind == .dependent then
      (fr.futs.toList.zip fr.futOffs.toList).foldl (fun s (f : W64 × Nat) =>
        if f.1 == noFut then s
        else
          let (owner, σ) := s.blockOf (.atrium f.2) 64 cid
          s.acquire core cid h owner σ) s
    else s
  match s.ctx cid with
  | some c => if fr.acqAll then s.sweep core cid h c.asid else s
  | none => s

/-- The image offset of a frame's register lines: at most 266 lines (R169). -/
def regsOf (h : Nat) : Nat := imageRegs + 40960 * h

/-- The record of a slot for a frame that is about to be bound in it: the slot's own, or the one that the Porter writes for a slot that no
launch has reserved, in which R465 has frames of a crew bound (assumption 76). -/
def State.slotFor (s : State) (core slot cid : Nat) (fr : Frame) : Option Bind :=
  match lookup (s.core core).slots slot, s.ctx cid with
  | some b, _ => some b
  | none, some c => (c.crewOn core).map fun (n, k) =>
      { commit := true, entry := 0, prio := c.prio, cid := cid, asid := c.asid, group := fr.group.num, tagb := k.tagBase, alcb := k.alcBase, alcn := k.alcSize,
        crew := n, frame := none, shown := 0, regs := 0, extra := true }
  | none, none => none

/-- A frame is bound in a slot (R183): it acquires, and its splits go on. On another core than before, every anchor is stale
(R106), and no register line of it is left in that core's cache. -/
def State.bindFrame (s : State) (core slot cid h : Nat) : State :=
  match s.frame cid h with
  | none => s
  | some fr => match s.slotFor core slot cid fr with
  | none => s
  | some b =>
    let s := s.bindAcquires core cid h fr
    let moved := fr.core != core
    let stepping := (s.ctx cid).any fun c => c.stepping
    let s := s.modFrame cid h fun f =>
      { f with
        core := core, slot := slot, st := .running, acq := [], acqAll := false, regs := regsOf h,
        futs := if fr.kind == .dependent && f.rem == 0 then Vector.replicate 4 noFut else f.futs,
        lent := if b.crew == fr.group.crew || f.lent.contains b.crew then f.lent else f.lent ++ [b.crew],
        group := { f.group with splits := mapEach f.group.splits fun o => o.map fun sp =>
          let sp := if moved then sp.stale else sp
          { sp with asleep := !sp.wait.retries, readySince := s.ac, promoted := false, barred := stepping } } }
    let s := if moved then s.modCore fr.core fun c => { c with regLines := c.regLines.filter fun l => !(l.cid == cid && l.handle == h) } else s
    let s := s.modCore core fun c => { c with slots := insert c.slots slot { b with frame := some h, shown := h, regs := regsOf h } }
    if fr.group.exit != .live then s.push (.awaitComplete core slot) else s

/-- A group slot's Env without an issuing split: for what a group does once its lanes have ended. -/
def Env.ofSlot (s : State) (core slot : Nat) : Option Env :=
  match lookup (s.core core).slots slot with
  | none => none
  | some b =>
    match b.frame, s.ctx b.cid with
    | some h, some c =>
      match lookup c.frames h with
      | some fr => some ⟨s, ⟨core, slot, 0⟩, b, b.cid, h, c, fr, Split.fresh 0 0 (Vector.replicate 64 0) anchorsEmpty 0⟩
      | none => none
    | _, _ => none

/-! ## Stealing and SLOT_BIND (R183, R184) -/

/-- R184: a deque entry that may be stolen. A frame that descends from a launch frame by continuation only has no parent. -/
def State.stealable (s : State) (core : Nat) (x : FRef) : Bool :=
  match s.frame x.cid x.handle with
  | none => false
  | some fr =>
    let c := s.core core
    !fr.pin && fr.parent.isSome && fr.group.resv.isEmpty && c.ce.all (fun r => !(r.cid == x.cid && r.handle == x.handle)) &&
      c.arr.all fun o => !(o.cid == x.cid && o.handle == x.handle)

/-- The slot number of a frame that has not been bound yet: no group slot has it. -/
def unboundSlot : Nat := 63

/-- A dependent frame that has not run yet: one that has run and was evicted is bound again on its core (R189, R194). -/
def State.freshDependent (s : State) (x : FRef) : Bool := (s.frame x.cid x.handle).any fun fr => fr.kind == .dependent && fr.slot == unboundSlot

/-- An element taken out of a list: the first that satisfies p. -/
def takeFirst {α : Type} (p : α → Bool) : List α → Option (α × List α)
  | [] => none
  | x :: l => if p x then some (x, l) else (takeFirst p l).map fun (y, r) => (y, x :: r)

/-- What an idle core may take of a victim: the oldest entry of its deque that may be stolen, else a dependent frame that is ready there, has
not run yet and may be stolen (R184, R189). -/
def State.takeStolen (s : State) (v : Nat) (may : FRef → Bool) : Option (State × FRef) :=
  let ok (x : FRef) : Bool := may x && s.stealable v x
  match takeFirst ok (s.core v).entries.reverse with
  | some (x, l) => some (s.modCore v fun c => c.setEntries l.reverse, x)
  | none =>
    (takeFirst (fun x => ok x && s.freshDependent x) (s.core v).ready).map fun (x, l) =>
      (s.modCore v fun c => { c with ready := l }, x)

/-- R183: what a free slot binds of the frames that may be bound in it: a ready frame, the deque's top, or what it may take of a victim
when the core is idle. -/
def State.chooseFrame (s : State) (core : Nat) (may : FRef → Bool) (victim : Option Nat) : Option (State × FRef) :=
  let c := s.core core
  match takeFirst may c.ready with
  | some (x, l) => some (s.modCore core fun c => { c with ready := l }, x)
  | none =>
    match takeFirst may c.entries with
    | some (x, l) => some (s.modCore core fun c => c.setEntries l, x)
    | none =>
      match victim with
      | some v =>
        if (c.slots.all fun b => b.2.frame.isNone) && v != core then
          s.takeStolen v fun x => may x && (s.ctx x.cid).any fun k => k.rect.has core && k.rect.has v
        else none
      | none => none

/-- R183: a free slot binds a frame of a running context: a slot that a launch reserved binds frames of its own context. -/
def execSlotBind (core slot : Nat) (victim : Option Nat) (s : State) : Host.Outcome State Fault Refusal :=
  let runs (x : FRef) : Bool := (s.ctx x.cid).any fun c => c.st == .running && (c.crewOn core).isSome
  let take (may : FRef → Bool) : State :=
    match s.chooseFrame core (fun x => may x && runs x) victim with
    | some (s, x) => s.bindFrame core slot x.cid x.handle
    | none => s
  .next (match lookup (s.core core).slots slot with
    | none => if slot < 48 then take fun _ => true else s
    | some b => if b.frame.isSome || !b.commit then s else take fun x => x.cid == b.cid)

/-- An idle core of the context's rectangle, with a free slot, for a continuation of another core (R183). -/
def State.thief (s : State) (core cid : Nat) : Option (Nat × Nat) :=
  match s.ctx cid with
  | none => none
  | some c =>
    let idle (n : Nat) : Bool :=
      n != core && (s.core n).ready.isEmpty && (s.core n).entries.isEmpty && ((s.core n).slots.all fun b => b.2.frame.isNone)
    (c.rect.cores.filter idle).findSome? fun n => ((s.freeSlots n cid).head?).map fun k => (n, k)

/-- An idle core looks for a continuation to steal. -/
def State.offerSteal (s : State) (core cid : Nat) : State :=
  match s.thief core cid with
  | some (n, k) => s.push (.slotBind n k (some core))
  | none => s

/-! ## The end of a group (R107, R270) -/

/-- PENDING of an await block. -/
def State.pending (s : State) (awb : Nat) : Nat := Mem.readN s.atrium awb 4

def State.setPending (s : State) (awb n : Nat) : State := { s with atrium := Mem.writeN s.atrium awb 4 n }

/-- AWAIT completes: the await block is read and cleared, and what it held is acquired (R107). -/
def State.takeAwait (s : State) (core cid h awb : Nat) : State :=
  let (owner, σ) := s.blockOf (.atrium awb) 64 cid
  { s.acquire core cid h owner σ with atrium := Mem.clear s.atrium (awb + 64) 256 }

/-- The last step of a group's end: its frame is complete, its slot is free, and its crew may be complete. -/
def State.completeFrame (s : State) (core slot cid h : Nat) : State :=
  match s.frame cid h with
  | none => s
  | some fr =>
    let s := s.modCrew cid fr.group.crew fun k => { k with sig := k.sig ||| fr.sig }
    let s := s.unbind core slot
    let s := s.modFrame cid h fun f => { f with st := .complete, mask := 0, group := { f.group with exit := .complete } }
    let arrived : List (Nat × Frame) := match s.ctx cid with
      | none => []
      | some c => c.frames.filter fun x => x.2.group.crew == fr.group.crew && x.2.group.reordered.isSome
    (s.tryFree cid h).pushAll
      (.slotBind core slot none :: (arrived.map fun x => .reorderRendezvous x.2.core x.2.slot) ++
        (fr.group.crew :: fr.lent).map fun k => .crewCompletion cid k)

/-- The await-side merge: the signature goes into the parent's await block, then the parent's count is decremented (R107). -/
def State.awaitMerge (s : State) (core cid h : Nat) (fr : Frame) (asid : Nat) : State :=
  match fr.parent.bind (s.frame cid ·) with
  | none => s
  | some p =>
    let (s, ors) := s.sendSig core cid h asid .drop p.awb.toNat 64 fr.sig
    (s.send fun id => { id := id, core := core, cid := cid, h := h, asid := asid, op := .awaitDec p.awb.toNat, page := none, dst := .drop, lanes := 0,
                        nak := false, again := false, after := ors }).push (.awaitPendingDecrement s.nextReq)

/-- Steps 2 to 4 of R270, once steps 1 to 3 of R101 have nothing left to wait for: the flight reservations end as by an FLREL (R164),
then the merge and the end of the frame. -/
def Env.finishGroup (e : Env) (s : State) : State :=
  match s.frame e.cid e.h with
  | none => s
  | some fr =>
    if s.released e.f.core e.asid fr.sig then (({ e with fr := fr }.endReservations s).awaitMerge e.f.core e.cid e.h fr e.asid).completeFrame e.f.core e.f.slot e.cid e.h
    else s.sendRegistrations e.f.core e.cid e.h e.asid fr.sig

/-- R107, R270: the implicit AWAIT of a group whose lanes have ended, then its release, its reservations and its merge. -/
def execAwaitComplete (core slot : Nat) (s : State) : Host.Outcome State Fault Refusal :=
  .next (match Env.ofSlot s core slot with
    | none => s
    | some e =>
      match e.group.exit with
      | .awaiting =>
        if s.pending e.fr.awb.toNat != 0 then s
        else
          let s := s.takeAwait core e.cid e.h e.fr.awb.toNat
          e.finishGroup (e.modGroup s fun g => { g with exit := .releasing })
      | .releasing => e.finishGroup s
      | _ => s)

/-- A frame out of its slot that AWAIT has put to sleep: it was evicted while awaiting, or left for the Gallery with a split in AWAIT
(R187, R194). -/
def Frame.awaits (fr : Frame) : Bool :=
  fr.st == .awaiting || (fr.st == .gallery && (fr.group.exit == .awaiting || (List.range 4).any fun k => (fr.group.split k).any fun sp => sp.wait == .await))

/-- R107: a child's decrement reaches the bank. At zero, AWAITs of the frame complete; a group out of its slot becomes ready. -/
def execAwaitPendingDecrement (id : Nat) (s : State) : Host.Outcome State Fault Refusal :=
  .next (match s.req id with
    | none => s
    | some r =>
      match r.op with
      | .awaitDec off =>
        if !s.mayServe r then (if s.destState r == .withdrawn then s.answered r else s)
        else
          let n := s.pending off - 1
          let s := (s.answered r).setPending off n
          if n != 0 then s
          else
            match s.ctx r.cid with
            | none => s
            | some c =>
              c.frames.foldl (fun s (h, fr) =>
                if fr.awb.toNat != off || fr.st == .complete then s
                else if fr.awaits then s.readyFrame r.cid h
                else if fr.st == .running then
                  let s := s.wake fr.core (· == .await)
                  if fr.group.exit == .awaiting then s.push (.awaitComplete fr.core fr.slot) else s
                else s) s
      | _ => s)

/-! ## Eviction (R194) -/

def Wait.inGallery : Wait → Bool
  | .future (some _) => true
  | _ => false

/-- A split that leaves its group's slot free for others. -/
def Split.evictable (sp : Split) (now : Nat) (inTable : Bool) : Bool :=
  match sp.wait with
  | .await | .join => sp.asleep
  | .future _ => sp.asleep && !inTable
  | .parked p => !p.woken && 4096 < now - p.since
  | _ => false

/-- R194: the group may be evicted: every split waits as R194 lists, or at a JOIN for one that does, nothing is under way for it, and a frame of its context
wants a slot of the core. -/
def State.canEvict (s : State) (core slot : Nat) (b : Bind) (h : Nat) (fr : Frame) : Bool :=
  let c := s.core core
  let waiting (k : Nat) : Bool := match fr.group.split k with
    | none => true
    | some sp => sp.stop.isNone && sp.evictable s.ac (c.waits.any fun w => w.slot == slot && w.split == k)
  let joins := (List.range 4).any (fun k => (fr.group.split k).isSome) && (List.range 4).all fun k => (fr.group.split k).all fun sp => sp.wait == .join
  (List.range 4).all waiting && !joins && (fr.group.exit == .live || (fr.group.exit == .awaiting && s.pending fr.awb.toNat != 0)) && fr.group.reordered.isNone &&
    s.reqs.all (fun r => !(r.core == core && r.cid == b.cid && r.h == h)) &&
    ((c.ready ++ c.entries).any fun x => x.cid == b.cid) && ((s.ctx b.cid).any fun c => c.st == .running)

/-- The group leaves its slot; it is bound again on this core once it is runnable. -/
def State.evictGroup (s : State) (core slot : Nat) : State :=
  match lookup (s.core core).slots slot with
  | none => s
  | some b =>
    match b.frame with
    | none => s
    | some h =>
      match s.frame b.cid h with
      | none => s
      | some fr =>
        if s.canEvict core slot b h fr then
          let inGallery := (List.range 4).any fun k => (fr.group.split k).any fun sp => sp.wait.inGallery
          ((s.unbind core slot).modFrame b.cid h fun f => { f with st := if inGallery then .gallery else .awaiting }).push (.slotBind core slot none)
        else s

def execGroupEvict (core slot : Nat) (s : State) : Host.Outcome State Fault Refusal := .next (s.evictGroup core slot)

/-- R194: a group parked for more than 4,096 ac is evicted where a frame wants its slot. -/
def execParkEvictionTimeout (core slot : Nat) (s : State) : Host.Outcome State Fault Refusal := .next (s.evictGroup core slot)

end Sys2Proof.Machine
end

