-- ==== Sys2Proof/Machine/Task.lean ====
section
/-! DEFINITION. The T-format instructions of the task graph: spawning (R353, R354, R182, R189), awaiting (R355), futures
(R351, R356 to R359, R186 to R188) and their bank operations, reorder points (R360, R190 to R192) and TIME (R361). -/

namespace Sys2Proof.Machine

/-! ## The state word of a future (R186) -/

/-- The 16 bytes of a state word. -/
def State.futWord (s : State) (off : Nat) : Nat := Mem.readN s.atrium off 16

def futValue (w : Nat) : Nat := w % 2 ^ 64
def futState (w : Nat) : Nat := w / 2 ^ 64 % 4
def futWaiters (w : Nat) : Nat := w / 2 ^ 66 % 2 ^ 14
def futHead (w : Nat) : Nat := w / 2 ^ 96 % 2 ^ 32

/-- A state word. -/
def futMake (value st waiters rcore rslot reng head : Nat) : Nat :=
  value + 2 ^ 64 * st + 2 ^ 66 * waiters + 2 ^ 80 * (rcore % 512) + 2 ^ 89 * (rslot % 64) + 2 ^ 95 * reng + 2 ^ 96 * head

def State.setFut (s : State) (off w : Nat) : State := { s with atrium := Mem.writeN s.atrium off 16 w }

/-! ## Spawning (R353, R182) -/

/-- The check of an entry PC: its form, then its slot. The TGT bit is checked at the child's first issue. -/
def entryFault (pcs : List W64) : Option FaultCode :=
  if pcs.any fun pc => !canonical pc then some .nonCanonical
  else if pcs.any fun pc => !pcFormed pc then some .badTarget
  else none

/-- The distinct entries in the order of their lowest lane, with the lanes that name each. -/
def entrySets (pc : Nat → W64) : List Nat → List (W64 × List Nat)
  | ls => ls.foldl (fun acc l =>
      if acc.any fun x => x.1 == pc l then acc.map fun x => if x.1 == pc l then (x.1, x.2 ++ [l]) else x
      else acc ++ [(pc l, [l])]) []

/-- PLANE: the parent lane of each child lane. -/
def planeOf (ls : List Nat) : Vector (BitVec 5) 32 := Vector.ofFn fun i => BitVec.ofNat 5 ((ls[i.val]?).getD 0)

/-- R181: too few frames: nothing is performed, the split stalls, and the crew's first such stall posts FRAME_LOW. -/
def Env.frameStall (e : Env) (s : State) : Perf :=
  match e.ctx.crew e.group.crew with
  | none => e.hold .stalled s
  | some k =>
    if k.frameLow then e.hold .stalled s
    else
      let s := s.modCrew e.cid e.group.crew fun k => { k with frameLow := true }
      e.hold .stalled (s.postEvent .frameLow e.vf (hallOf e.f.core) (e.cid + 2 ^ 32 * e.group.crew))

/-- A child frame: its lanes stand for lanes of the spawning group, and it receives Σ of the spawning frame, which its first core
acquires (R99, R105). -/
def Env.child (e : Env) (kind : FrameKind) (st : FrameSt) (pc : W64) (mask : Mask) (ls : List Nat) (pin : Bool) (arg : W64) (s : State) :
    State × Nat :=
  let g := Group.start e.group.role e.group.vregs e.group.uregs e.group.crew e.group.num pc mask arg s.ac
  s.newFrame e.cid e.group.crew
    (fun _ => { Frame.new (some e.h) kind st pc mask e.f.core unboundSlot g with plane := planeOf ls, pin := pin, sig := e.fr.sig, acq := [e.fr.sig] }) true

/-- The children of a spawn, in order. -/
def Env.children (e : Env) (arg : W64) : List (W64 × List Nat) → State → State × List Nat
  | [], s => (s, [])
  | (pc, ls) :: l, s =>
    let (s, h) := e.child .child .ready pc (maskOf (List.range ls.length)) ls false arg s
    let (s, hs) := e.children arg l s
    (s, h :: hs)

/-- A handle word of an overflow list (R180, R187) whose frame is renamed. -/
def renamed (h n word : Nat) : Nat := if word % 2 ^ 30 == h && word != noHandle && word != linkPending.toNat then n + 2 ^ 30 * (word / 2 ^ 30) else word

/-- The overflow lists follow a frame that is renamed: the HEADs, the LINKs and the lists a Porter has still to walk. -/
def State.renameLists (s : State) (cid h n : Nat) : State :=
  let one (x : Nat × Nat) : Nat × Nat := if x.1 == cid then (x.1, renamed h n x.2) else x
  let s := s.gallery.foldl (fun s (x : Nat × Nat × Nat) =>
    let w := s.futWord x.1
    if x.2.1 == cid && futHead w == x.2.2 then s.setFut x.1 (w - 2 ^ 96 * futHead w + 2 ^ 96 * renamed h n (futHead w)) else s) s
  let s := { s with
    gallery := s.gallery.map fun (x : Nat × Nat × Nat) => (x.1, one x.2),
    porters := mapEach s.porters fun (p : Porter) => { p with wake := p.wake.map (List.map one), wakePend := p.wakePend.map (List.map one) } }
  s.modCtx cid fun c => { c with frames := c.frames.map fun (x : Nat × Frame) =>
    (x.1, { x.2 with links := mapEach x.2.links fun (l : W32) => BitVec.ofNat 32 (renamed h n l.toNat) }) }

/-- The image bytes of register lines that have been evicted go to the place of the frame's new handle (R53, R169). -/
def Ctx.moveLines (c : Ctx) (h n : Nat) (away : List Nat) : Ctx :=
  { c with image := away.foldl (fun m k =>
      Mem.place (Mem.clear m (regsOf n + 128 * k) 128) (regsOf n + 128 * k) (Mem.slice m (regsOf h + 128 * k) 128)) c.image }

/-- What names a frame by its handle, renamed: copies and operations in the engines' queues, its register lines, tokens owed and the
overflow lists. -/
def State.rename (s : State) (core cid h n : Nat) : State :=
  let away := match s.frame cid h with
    | some fr => fr.group.away
    | none => []
  let s := (s.renameLists cid h n).modCtx cid fun c => c.moveLines h n away
  let s := s.modCore core fun c =>
    { c with
      regLines := c.regLines.map fun l => if l.cid == cid && l.handle == h then { l with handle := n } else l,
      ce := c.ce.map fun (r : CopyRec) => if r.cid == cid && r.handle == h then { r with handle := n } else r,
      arr := c.arr.map fun (o : ArrOp) => if o.cid == cid && o.handle == h then { o with handle := n } else o }
  s.modCtx cid fun c =>
    { c with crews := c.crews.map fun (k : Crew) => { k with ban := mapEach k.ban fun (b : BanCore) =>
      { b with tokens := b.tokens.map fun (t : Nat × Nat) => if t.1 == h then (n, t.2) else t } } }

/-- Steps 3 to 5 of R182: what is left of the spawning frame becomes a continuation frame on top of the core's deque. It keeps
the spawning frame's parent, await block and signature, and the allocations it has run on (R184); the spawning frame itself is complete. -/
def Env.continue (e : Env) (pin : Bool) (s : State) : State :=
  let s := s.unbind e.f.core e.f.slot
  match s.frame e.cid e.h with
  | none => s
  | some fr =>
    let cont : Frame := { fr with kind := .continuation, st := .inDeque, pin := pin, acq := [fr.sig] }
    let (s, n) := s.newFrame e.cid e.group.crew (fun _ => cont) false
    let s := (s.rename e.f.core e.cid e.h n).modFrame e.cid e.h fun f =>
      { f with st := .complete, mask := 0, group := { Group.blank f.group.role f.group.vregs f.group.uregs f.group.crew f.group.num with exit := .complete } }
    s.modCore e.f.core fun c => c.setEntries (⟨e.cid, n⟩ :: c.entries)

/-- SPAWN once its entries are checked. -/
def Env.spawn (e : Env) (h : Hdr) (sets : List (W64 × List Nat)) (arg : W64) (pin : Bool) : Perf :=
  if e.ctx.freeFrames e.group.crew < sets.length + 1 then e.frameStall e.s
  else e.withRelease e.s fun s =>
    let awb := e.fr.awb.toNat
    let s := s.setPending awb (s.pending awb + sets.length)
    let (s, hs) := e.children arg sets s
    let s := e.continue pin (e.edge (e.next h 1 s))
    match hs with
    | [] => .moved s
    | first :: rest =>
      let s := s.bindFrame e.f.core e.f.slot e.cid first
      let s := rest.foldl (fun s h => s.readyFrame e.cid h) s
      .moved ((s.offer e.f.core e.cid).offerSteal e.f.core e.cid)

/-- Both forms. -/
def spawn (i : Instr) (h : Hdr) (b : TBody) (tags : Env → Bool) (pc : Env → Nat → W64) : State → Host.Outcome State Fault Refusal :=
  issueWith i h tags fun e =>
    let ls := lanesOf (e.g h)
    match entryFault (ls.map (pc e)) with
    | some .nonCanonical =>
      .trap { code := .nonCanonical, fva := (((ls.map (pc e)).find? fun p => !canonical p).getD 0) &&& 0x01FFFFFFFFFFFFFF } e.s
    | some c => .bad c e.s
    | none => e.spawn h (entrySets (pc e) ls) (e.u64 b.tsb) (b.topt.getLsbD 1)

def execSpawn (h : Hdr) (b : TBody) : State → Host.Outcome State Fault Refusal :=
  spawn (.spawn h b) h b noTags fun e _ => e.u64 b.tsa

def execSpawnLane (h : Hdr) (b : TBody) : State → Host.Outcome State Fault Refusal :=
  spawn (.spawnLane h b) h b (fun e => e.tagsOk [(b.tv.toNat, anyTag), (b.tv.toNat + 1, anyTag)])
    fun e l => e.vl (b.tv + 1) l ++ e.vl b.tv l

/-! ## Futures: operands (R351) -/

/-- The checks of R351, in order, and the future's Atrium offset; an operation of this core on its row is waited for. -/
def Env.future (e : Env) (va : W64) (s : State) : Except Perf (State × Nat) :=
  if !canonical va then .error (badTrap .nonCanonical va s)
  else if va.toNat % 64 != 0 then .error (badTrap .misaligned va s)
  else if upperHalf va || inAlcove va then .error (badTrap .aperture va s)
  else match e.translate s .atomic .atrium va with
    | (s, .fault c) => .error (e.issueFault .atomic c va s)
    | (s, .ok (.atrium off)) =>
      if s.reqs.any fun r => r.core == e.f.core && r.op.row == some (off / 64) then .error (e.again s) else .ok (s, off)
    | (s, _) => .error (badTrap .aperture va s)

/-- R356. -/
def execFnew (h : Hdr) (b : TBody) : State → Host.Outcome State Fault Refusal :=
  issueWith (.fnew h b) h noTags fun e =>
    match e.future (e.u64 b.tsa) e.s with
    | .error p => p
    | .ok (s, off) =>
      let w := s.futWord off
      if futState w == 0 && (futWaiters w != 0 || futHead w != noHandle) then .ok (e.later [.uni b.tsb.toNat 1] s)
      else
        let s := s.setFut off (futMake 0 0 0 0 0 0 noHandle)
        .ok (e.later [.uni b.tsb.toNat 0]
          { s with atrium := Mem.clear s.atrium (off + 64) 256, sigOwner := remove s.sigOwner off })

/-- R357: release, the OR into the block, then the state change; the split is held until the bank answers. -/
def fres (i : Instr) (h : Hdr) (b : TBody) (faulted : Bool) : State → Host.Outcome State Fault Refusal :=
  issueWith i h noTags fun e =>
    let send : Perf :=
      match e.future (e.u64 b.tsa) e.s with
      | .error p => p
      | .ok (s, off) =>
        e.withRelease s fun s =>
          let value := if h.sub == 1#6 then b.ti.setWidth 64 else e.u64 b.tsb
          let (s, ors) := s.sendSig e.f.core e.cid e.h e.asid .drop off 64 e.fr.sig
          let s' := (e.request (.resolve off value faulted e.f.core e.f.slot false) (.split e.f) 0 s (after := ors)).push (.futureResolutionOp s.nextReq)
          e.hold (.request s.nextReq) s'
    match e.sp.wait with
    | .request id => if (e.s.req id).isSome then e.hold (.request id) e.s else .ok e.s
    | _ => send

def execFres (h : Hdr) (b : TBody) : State → Host.Outcome State Fault Refusal := fres (.fres h b) h b false
def execFflt (h : Hdr) (b : TBody) : State → Host.Outcome State Fault Refusal := fres (.fflt h b) h b true

/-- The results of FWAIT and FPOLL for a state word, and the acquire of a resolution (R358, R109). -/
def Env.futResult (e : Env) (b : TBody) (off w : Nat) (s : State) : Perf :=
  let st := min (futState w) 2
  let s := if st == 0 then s
    else
      let (owner, σ) := s.blockOf (.atrium off) 64 e.cid
      e.edge (s.acquire e.f.core e.cid e.h owner σ)
  .ok (e.later (uniW true b.tsb (if st == 0 then 0 else BitVec.ofNat 64 (futValue w)) ++ [.uni b.tsc.toNat (BitVec.ofNat 32 st)]) s)

/-- FPOLL: one bank read. -/
def execFpoll (h : Hdr) (b : TBody) : State → Host.Outcome State Fault Refusal :=
  issueWith (.fpoll h b) h noTags fun e =>
    match e.future (e.u64 b.tsa) e.s with
    | .error p => p
    | .ok (s, off) => e.futResult b off (s.futWord off) s

/-- A link of the frame that names no future. -/
def Frame.freeLink (fr : Frame) : Option Nat := (List.range 4).find? fun i => (fr.futs.toList[i]?).getD 0 == noFut

/-- A future a frame waits on, by a link. -/
def Frame.setFut (fr : Frame) (i : Nat) (va : W64) (off : Nat) : Frame :=
  { fr with futs := fr.futs.setIfInBounds i va, futOffs := fr.futOffs.setIfInBounds i off }

/-- A Gallery registration of the issuing split (R187): LINK pending, the future's address, then the bank operation. -/
def Env.toGallery (e : Env) (va : W64) (off i : Nat) (s : State) : State :=
  let s := e.modFrame s fun fr => { fr.setFut i va off with links := fr.links.setIfInBounds i linkPending }
  let s' := (e.request (.galleryReg off i) (.frame e.cid e.h) 0 s).push (.galleryRegistrationOp s.nextReq)
  e.modSplit s' fun sp => { sp with wait := .request s.nextReq, asleep := true }

/-- A registration of FWAIT (R187): in the wait table where it has room, else in the Gallery, by the first link that no other split of the
group uses. -/
def Env.register (e : Env) (va : W64) (off : Nat) (s : State) : Perf :=
  if (s.core e.f.core).waits.length < 32 then
    let s := e.modCore s fun c => { c with waits := c.waits ++ [⟨off, va, e.asid, e.f.slot, e.f.split⟩] }
    let s' := (e.request (.waitReg off) (.split e.f) 0 s).push (.waitRegistrationOp s.nextReq)
    e.hold (.request s.nextReq) s'
  else match e.fr.freeLink with
    | some i => .stay (e.toGallery va off i s)
    | none => e.hold .stalled s

/-- Whether the split still stands in the wait table, or in the overflow list by a link. -/
def Env.registered (e : Env) (off : Nat) : Option Nat → Bool
  | none => (e.s.core e.f.core).waits.any fun w => w.slot == e.f.slot && w.split == e.f.split
  | some i => (e.fr.futs.toList[i]?).getD noFut != noFut && e.fr.futOffs.toList[i]? == some off

/-- FWAIT: a bank operation decides it against the resolution. A split that was woken reads the word again, and registers
again where it reads EMPTY (R358, R359). -/
def execFwait (h : Hdr) (b : TBody) : State → Host.Outcome State Fault Refusal :=
  issueWith (.fwait h b) h noTags fun e =>
    match e.sp.wait with
    | .request id => if (e.s.req id).isSome then e.hold (.request id) e.s else .stay (e.modSplit e.s fun sp => { sp with wait := .none })
    | .resolved off x => e.futResult b off x e.s
    | w =>
      match e.future (e.u64 b.tsa) e.s with
      | .error p => p
      | .ok (s, off) =>
        match w with
        | .future l =>
          if e.registered off l then e.hold (.future l) s
          else if futState (s.futWord off) != 0 then e.futResult b off (s.futWord off) s
          else e.register (e.u64 b.tsa) off s
        | _ => e.register (e.u64 b.tsa) off s

/-! ## Bank operations on futures (R187, R188) -/

/-- A split's wait is replaced, and it tries again. -/
def State.awaken (s : State) (f : Focus) (w : Wait) : State :=
  match Env.of s f with
  | some e => e.modSplit s fun sp => { sp with wait := w, asleep := false }
  | none => s

/-- R187: the wait-table registration at the bank. -/
def execWaitRegistrationOp (id : Nat) (s : State) : Host.Outcome State Fault Refusal :=
  .next (match s.req id with
    | none => s
    | some r =>
      match r.op, r.dst with
      | .waitReg off, .split f =>
        if !s.mayServe r then s
        else
          let w := s.futWord off
          let s := s.answered r
          if futState w == 0 then
            let w' := w - 2 ^ 66 * futWaiters w + 2 ^ 66 * min (futWaiters w + 1) 0x3FFF
            match Env.of s f with
            | some e => e.modSplit (s.setFut off w') fun sp => { sp with wait := .future none, asleep := true }
            | none => s.setFut off w'
          else
            (s.modCore r.core fun c => { c with waits := c.waits.filter fun x => !(x.slot == f.slot && x.split == f.split) }).awaken f (.resolved off w)
      | _, _ => s)

/-- The split of a group that waits for an operation. -/
def Group.splitOf (g : Group) (id : Nat) : Option Nat := (List.range 4).find? fun k => (g.split k).any fun sp => sp.wait == .request id

/-- A swap into the overflow list: HEAD takes the frame's handle, and the frame's link the old HEAD. -/
def State.enlist (s : State) (off cid h i : Nat) : State :=
  let w := s.futWord off
  let word := h + 2 ^ 30 * i
  let s := s.setFut off (w - 2 ^ 96 * futHead w + 2 ^ 96 * word)
  { s.modFrame cid h fun fr => { fr with links := fr.links.setIfInBounds i (BitVec.ofNat 32 (futHead w)) } with
    gallery := (off, cid, word) :: s.gallery }

/-- A dependent frame's future needs no waiting any more (R189). -/
def State.lessRem (s : State) (cid h : Nat) : State :=
  let s := (s.modFrame cid h fun fr => { fr with rem := fr.rem - 1 }).noteFrame cid h
  match s.frame cid h with
  | some fr => if fr.rem == 0 then s.readyFrame cid h else s
  | none => s

/-- A frame whose split has entered the Gallery leaves its slot, once no answer is on its way to another of its splits (R187). It becomes ready at once where
another of its splits is not waiting for a future or an AWAIT: that split is owed its issue (R193, R194). -/
def State.leaveForGallery (s : State) (cid h : Nat) : State :=
  match s.frame cid h with
  | none => s
  | some fr =>
    if fr.st != .running || s.reqs.any fun r => r.cid == cid && r.h == h && r.dst.focus.isSome then s
    else
      let awake := (List.range 4).any fun k => (fr.group.split k).any fun sp => match sp.wait with
        | .future _ | .await | .join => !sp.asleep
        | .parked p => p.woken
        | _ => true
      let s := ((s.unbind fr.core fr.slot).modFrame cid h fun f => { f with st := .gallery }).push (.slotBind fr.core fr.slot none)
      if awake then s.readyFrame cid h else s

/-- R187: the Gallery registration at the bank, for FWAIT and for a dependent frame. -/
def execGalleryRegistrationOp (id : Nat) (s : State) : Host.Outcome State Fault Refusal :=
  .next (match s.req id with
    | none => s
    | some r =>
      match r.op, r.dst with
      | .galleryReg off i, .frame cid h =>
        if !s.mayServe r then s
        else match s.frame cid h with
          | none => s.answered r
          | some fr =>
            let w := s.futWord off
            let s := s.answered r
            if 0 < fr.rem then
              if futState w == 0 then s.enlist off cid h i else s.lessRem cid h
            else
              match fr.group.splitOf id with
              | none => s
              | some k =>
                if futState w == 0 then
                  let s := (s.enlist off cid h i).modSplit cid h k fun sp => { sp with wait := .future (some i), asleep := true }
                  s.leaveForGallery cid h
                else
                  (s.modFrame cid h fun f => { f with futs := f.futs.setIfInBounds i noFut }).modSplit cid h k fun sp =>
                    { sp with wait := .resolved off w, asleep := false }
      | _, _ => s)

/-- R188: the state change, with the notice and the post of the list's head. `false` when the word was resolved already. -/
def State.resolveFuture (s : State) (off : Nat) (value : W64) (faulted : Bool) (rcore rslot : Nat) (eng : Bool) (asid : Nat) : State × Bool :=
  let w := s.futWord off
  if futState w != 0 then (s, false)
  else
    let s := s.setFut off (futMake value.toNat (if faulted then 2 else 1) 0 rcore rslot eng.toNat noHandle)
    let s := if futWaiters w == 0 then s
      else
        let id := s.nextReq
        ({ s with nextReq := id + 1, notices := s.notices ++ [(⟨id, off, asid, []⟩ : Notice)] } : State).pushAll
          ((s.cores.filter fun (c : Nat × Core) => !c.2.waits.isEmpty).map fun c => .resolutionNoticeReceive id c.1)
    let list := (s.gallery.filter fun x => x.1 == off).map (·.2)
    let s := { s with gallery := s.gallery.filter fun x => x.1 != off }
    if futHead w == noHandle then (s, true)
    else
      let hall := off / 33554432 % 2
      ((s.modPorter hall fun p => { p with wakePend := p.wakePend ++ [list] }).push (.wakeQueuePost hall), true)

/-- R188, R357: the resolution at the bank. FRES or FFLT that meets a resolved word takes DOUBLE_RESOLVE. -/
def execFutureResolutionOp (id : Nat) (s : State) : Host.Outcome State Fault Refusal :=
  .next (match s.req id with
    | none => s
    | some r =>
      match r.op with
      | .resolve off value faulted rcore rslot eng =>
        if !s.mayServe r then s
        else
          let s := s.answered r
          match s.resolveFuture off value faulted rcore rslot eng r.asid with
          | (s, ok) =>
            match r.dst with
            | .split f =>
              match Env.of s f with
              | none => s
              | some e =>
                if ok then e.modSplit s fun sp => { sp with asleep := false }
                else e.take (faultOf .doubleResolve) (e.modSplit s fun sp => { sp with wait := .none, asleep := false })
            | _ => s
      | _ => s)

/-- R188: a core wakes and frees every wait-table entry that matches. -/
def execResolutionNoticeReceive (id core : Nat) (s : State) : Host.Outcome State Fault Refusal :=
  .next (match s.notices.find? fun n => n.id == id with
    | none => s
    | some n =>
      let hit (w : WaitEnt) : Bool := w.future == n.future && w.asid == n.asid
      let s := ((s.core core).waits.filter hit).foldl (fun s w =>
        match Env.of s ⟨core, w.slot, w.split⟩ with
        | some e => e.modSplit s fun sp => { sp with asleep := false }
        | none => s) s
      let s := s.modCore core fun c => { c with waits := c.waits.filter fun w => !hit w }
      let reached := core :: n.reached
      let left := s.cores.any fun c => !reached.contains c.1 && c.2.waits.any hit
      { s with notices := if left then s.notices.map fun (m : Notice) => if m.id == id then { m with reached := reached } else m
                          else s.notices.filter fun m => m.id != id })

/-! ## The Porter's wake queue (R385) -/

/-- R385: posts enter the wake queue while it has room. -/
def execWakeQueuePost (hall : Nat) (s : State) : Host.Outcome State Fault Refusal :=
  .next (
    let p := s.porter hall
    match p.wakePend with
    | [] => s
    | x :: l => if 4096 ≤ p.wake.length then s
      else (s.modPorter hall fun p => { p with wake := p.wake ++ [x], wakePend := l }).push (.wakeQueueHead hall))

/-- One frame of a list: a dependent frame has one future less to wait for; a Gallery frame becomes ready, and the split that
registered by that link tries again. A killed context's frame is skipped. -/
def State.wakeFrame (s : State) (cid word : Nat) : State :=
  let h := word % 2 ^ 30
  let i := word / 2 ^ 30
  match s.ctx cid with
  | none => s
  | some c =>
    if c.st == .killed then s
    else match lookup c.frames h with
      | none => s
      | some fr =>
        if 0 < fr.rem then s.lessRem cid h
        else
          let w : Wait := .future (some i)
          let s := s.modFrame cid h fun f => { f with futs := f.futs.setIfInBounds i noFut }
          let s := s.modGroup cid h fun g =>
            { g with splits := mapEach g.splits fun o => o.map fun (sp : Split) => if sp.wait == w then { sp with asleep := false } else sp }
          if fr.st == .gallery || fr.st == .awaiting then s.readyFrame cid h else s

/-- R385, R188: the Porter walks the list of the oldest head. -/
def execWakeQueueHead (hall : Nat) (s : State) : Host.Outcome State Fault Refusal :=
  .next (
    match (s.porter hall).wake with
    | [] => s
    | list :: l =>
      let s := s.modPorter hall fun p => { p with wake := l }
      let s := list.foldl (fun s x => s.wakeFrame x.1 x.2) s
      s.pushAll [.wakeQueuePost hall, .wakeQueueHead hall])

/-- R188: a wait-table waiter whose slot is needed moves to the Gallery; the bank decides the new registration as a new race. A waiter that
stands in the Gallery already leaves its slot, where an answer kept it there (R187). -/
def execWaiterToGallery (core slot split : Nat) (s : State) : Host.Outcome State Fault Refusal :=
  .next (match Env.of s ⟨core, slot, split⟩ with
    | none => s
    | some e =>
      match e.sp.wait, (s.core core).waits.find? (fun w => w.slot == slot && w.split == split), e.fr.freeLink with
      | .future (some _), _, _ => s.leaveForGallery e.cid e.h
      | .future none, some w, some i =>
        if e.sp.asleep then
          e.toGallery w.va w.future i (e.modCore s fun c => { c with waits := c.waits.filter fun x => !(x.slot == slot && x.split == split) })
        else s
      | _, _, _ => s)

/-! ## SPAWNC (R354, R189) -/

/-- The Atrium offsets of futures checked in order (R351). -/
def Env.futures (e : Env) : List W64 → State → Except Perf (State × List Nat)
  | [], s => .ok (s, [])
  | va :: l, s =>
    match e.future va s with
    | .error p => .error p
    | .ok (s, off) =>
      match Env.futures e l s with
      | .error p => .error p
      | .ok (s, rest) => .ok (s, off :: rest)

def execSpawnc (h : Hdr) (b : TBody) : State → Host.Outcome State Fault Refusal :=
  issueWith (.spawnc h b) h noTags fun e =>
    let n := (b.topt.extractLsb' 0 2).toNat + 1
    let pc := e.u64 b.tsa
    match entryFault [pc] with
    | some c => badTrap c (if c == .nonCanonical then pc else 0) e.s
    | none =>
      match e.futures ((List.range n).map fun i => e.sp.upair (b.tsc.toNat + 2 * i)) e.s with
      | .error p => p
      | .ok (s, offs) =>
        if e.ctx.freeFrames e.group.crew < 1 then e.frameStall s
        else e.withRelease s fun s =>
          let awb := e.fr.awb.toNat
          let s := s.setPending awb (s.pending awb + 1)
          let (s, d) := e.child .dependent .gallery pc (e.g h) (List.range 32) (b.topt.getLsbD 2) (e.u64 b.tsb) s
          let s := s.modFrame e.cid d fun fr =>
            { fr with rem := n,
                      links := Vector.ofFn fun i => if i.val < n then linkPending else noLink,
                      futs := Vector.ofFn fun i => if i.val < n then e.sp.upair (b.tsc.toNat + 2 * i.val) else noFut,
                      futOffs := Vector.ofFn fun i => (offs[i.val]?).getD 0 }
          .ok ((offs.zip (List.range n)).foldl (fun s x =>
            (e.request (.galleryReg x.1 x.2) (.frame e.cid d) 0 s).push (.galleryRegistrationOp s.nextReq)) s)

/-! ## AWAIT (R355, R107) -/

def execAwait (h : Hdr) (b : TBody) : State → Host.Outcome State Fault Refusal :=
  issueWith (.await h b) h noTags fun e =>
    let awb := e.fr.awb.toNat
    if e.s.pending awb == 0 then .ok (e.s.takeAwait e.f.core e.cid e.h awb) else e.hold .await e.s

/-! ## REORDER (R360, R190 to R192) -/

/-- The declaration of `.live` (R360). -/
def liveV (b : TBody) : Nat := (b.ti.extractLsb' 0 8).toNat
def liveU (b : TBody) : Option Nat := if b.ti.getLsbD 14 then some (b.ti.extractLsb' 8 6).toNat else none

/-- A lane before the deal: its key, its participant's place in slot order, and its number. -/
structure Lane where
  key : Nat
  part : Nat
  lane : Nat

/-- Insert by key; equal keys keep their order. -/
def insertLane (x : Lane) : List Lane → List Lane
  | [] => [x]
  | y :: l => if x.key < y.key then x :: y :: l else y :: insertLane x l

/-- The lanes in the order of their keys, stable. -/
def sortLanes (l : List Lane) : List Lane := l.foldl (fun acc x => insertLane x acc) []

/-- What a participant's group becomes when it is dealt lanes: `src` the groups before, by place; `n` and `k` the declaration;
`low` the uniform registers of the lowest slot; `d` the free value drawn for it. Lanes whose register has unequal tags leave it with a
free one; tag 15 comes only from an image (R204). -/
def Group.dealt (g : Group) (src : Nat → Group) (ls : List Lane) (pc : W64) (n : Nat) (k : Option Nat) (low : Vector W32 64) (d now : Nat) : Group :=
  let count := ls.length
  let at_ (i : Nat) : Option Lane := ls[i]?
  let freeAt (i : Nat) : W32 := Config.freeLane d i
  let vec (r : Nat) : VReg :=
    if r ≤ n then
      let tags := ls.map fun x => ((src x.part).vreg r).tag
      let tag := match tags with
        | [] => 0
        | t :: l => if l.all (· == t) then t else BitVec.ofNat 4 ((freeAt (8192 + r)).toNat % 15)
      ⟨tag, lanesBy fun i => match at_ i with | some x => lane ((src x.part).vreg r).lanes x.lane | none => freeAt (32 * r + i)⟩
    else ⟨0, lanesBy fun i => freeAt (32 * r + i)⟩
  let u : Vector W32 64 := Vector.ofFn fun j => match k with
    | some m => if j.val ≤ m then (low.toList[j.val]?).getD 0 else freeAt (8448 + j.val)
    | none => freeAt (8448 + j.val)
  let p : Vector Mask 7 := Vector.ofFn fun q =>
    maskBy fun i => match at_ i with
      | some x => ((src x.part).pred q.val).getLsbD x.lane
      | none => (freeAt (8512 + q.val)).getLsbD i
  let lfsr : Vector W16 32 := Vector.ofFn fun i => match at_ i.val with
    | some x => ((src x.part).lfsr.toList[x.lane]?).getD 0
    | none => (freeAt (8519 + i.val)).setWidth 16
  let sp : Split := { Split.fresh pc (maskOf (List.range count)) u anchorsEmpty now with unfinished := some 0 }
  { g with
    v := (List.range g.vregs).map fun r => (r, vec r), p := p, lfsr := lfsr,
    splits := if count == 0 then blankSplits else blankSplits.setIfInBounds 0 (some sp), stack := [], reordered := none, away := [] }

/-- A participant of a rendezvous: its frame's handle and the frame. -/
abbrev Part := Nat × Frame

/-- Participants in the order of their slots. -/
def insertPart (x : Part) : List Part → List Part
  | [] => [x]
  | y :: l => if x.2.slot < y.2.slot then x :: y :: l else y :: insertPart x l

/-- The REORDER of participants that have all arrived (R191, R192). -/
def State.deal (s : State) (core cid asid : Nat) (b : TBody) (parts : List Part) : State :=
  let parts := parts.map fun (x : Part) => (x.1, { x.2 with group := x.2.group.commitAll })
  let src (j : Nat) : Group := match parts[j]? with | some x => x.2.group | none => Group.blank .general 0 0 0 0
  let split0 (g : Group) : Option Split := ((List.range 4).filterMap g.split).head?
  let lanes := sortLanes ((parts.zip (List.range parts.length)).flatMap fun (x, j) =>
    match split0 x.2.group with
    | some sp => (lanesOf sp.mask).map fun l => ⟨(lane (x.2.group.vreg b.tv.toNat).lanes l).toNat, j, l⟩
    | none => [])
  let union := parts.foldl (fun σ x => σ ||| x.2.sig) 0
  let low := match (split0 (src 0)) with | some sp => sp.u | none => Vector.replicate 64 0
  let d := s.freeCtr
  let s := { s with freeCtr := d + parts.length }
  let s := s.modCore core fun c => { c with tex := c.tex.filter fun t => !(t.asid == asid && sigHit union t.line) }
  (parts.zip (List.range parts.length)).foldl (fun s (x, j) =>
    let mine := (lanes.drop (32 * j)).take 32
    let pc := match split0 x.2.group with | some sp => sp.pc | none => 0
    let g := x.2.group.dealt src mine pc (liveV b) (liveU b) low (d + j) s.ac
    let g := if mine.isEmpty then { g with exit := .awaiting } else g
    let s := s.modFrame cid x.1 fun fr => { fr with sig := fr.sig ||| union, mask := maskOf (List.range mine.length), group := g }
    if mine.isEmpty then s.push (.awaitComplete x.2.core x.2.slot) else s) s

/-- The launch frames of a crew that are not complete: every frame without a parent. R190 does not say whether the continuation frame of a
launch frame is one; here it is (assumption 103). -/
def Ctx.participants (c : Ctx) (crew : Nat) : List Part :=
  (c.frames.filter fun x => x.2.parent.isNone && x.2.group.crew == crew && x.2.st != .complete).foldl (fun l x => insertPart x l) []

/-- R190, R191: once every participant has arrived the lanes are dealt. -/
def execReorderRendezvous (core slot : Nat) (s : State) : Host.Outcome State Fault Refusal :=
  .next (match lookup (s.core core).slots slot with
    | none => s
    | some b =>
      match s.ctx b.cid with
      | none => s
      | some c =>
        let parts := c.participants b.crew
        match parts with
        | [] => s
        | x :: _ =>
          match x.2.group.reordered with
          | none => s
          | some body => if parts.all fun y => y.2.group.reordered.isSome then s.deal core b.cid c.asid body parts else s)

/-- The PC of a group's split. -/
def Group.pcs (g : Group) : List W64 := (List.range 4).filterMap fun k => (g.split k).map (·.pc)

/-- A guard that excludes live lanes traps, one that excludes them all too (R190, R360). -/
def execReorder (h : Hdr) (b : TBody) : State → Host.Outcome State Fault Refusal :=
  issueAny (.reorder h b) h (fun e => e.tagsOk [(b.tv.toNat, anyTag)]) fun e =>
    if e.sp.unfinished == some 0 then .ok e.s
    else if e.group.reordered.isSome then e.hold .reorder e.s
    else
      let awb := e.fr.awb.toNat
      if e.s.pending awb != 0 then e.hold .await e.s
      else
        let s := e.s.takeAwait e.f.core e.cid e.h awb
        if (List.range 4).any (fun k => k != e.f.split && (e.group.split k).isSome) || !e.group.stack.isEmpty || e.g h != e.sp.mask then
          .bad .reorderDiverged s
        else
          let launch := e.fr.parent.isNone
          let others := (e.ctx.participants e.group.crew).filter fun x => x.1 != e.h
          if launch && others.any (fun x => match x.2.group.reordered with
              | some b' => b'.ti != b.ti || !x.2.group.pcs.contains e.sp.pc
              | none => false) then .bad .reorderDiverged s
          else e.withRelease s fun s =>
            let s := e.modGroup s fun g => { g with reordered := some b }
            if launch then e.hold .reorder (s.push (.reorderRendezvous e.f.core e.f.slot))
            else match s.frame e.cid e.h with
              | some fr => .stay (s.deal e.f.core e.cid e.asid b [(e.h, fr)])
              | none => .stay s

/-! ## TIME (R361) -/

def execTime (h : Hdr) (b : TBody) : State → Host.Outcome State Fault Refusal :=
  issueWith (.time h b) h noTags fun e =>
    let die := hallOf e.f.core
    .ok (e.later (uniW true b.tsa (e.s.counter die) ++ [.uni b.tsb.toNat (BitVec.ofNat 32 die)]) e.s)

end Sys2Proof.Machine
end

