-- ==== Sys2Proof/Machine/Lines.lean ====
section
/-! DEFINITION. Register lines (R169) and the register cache of a core (R53, R170): a line's bytes, its eviction to the home of its image
address and its fill from there. -/

namespace Sys2Proof.Machine

/-! ## The bytes of a line (R169) -/

def lanesNum (v : Lanes) : Nat := v.toList.foldr (fun x n => x.toNat + 2 ^ 32 * n) 0
def numLanes (n : Nat) : Lanes := lanesBy fun l => BitVec.ofNat 32 (n / 2 ^ (32 * l))

/-- How many lines a group has: vector, uniform of four splits, tags, control. -/
def Group.lineCount (g : Group) : Nat := g.ctlLine + 1

/-- The 32 registers of a split's uniform line. -/
def Split.uniLine (sp : Split) (uregs j : Nat) : Nat :=
  (List.range 32).foldr (fun i n => (if 32 * j + i < uregs then (sp.ureg (32 * j + i)).toNat else 0) + 2 ^ 32 * n) 0

def Group.tagNum (g : Group) : Nat := (List.range g.vregs).foldl (fun n r => n + (g.vreg r).tag.toNat * 16 ^ r) 0

def Group.ctlNum (g : Group) : Nat :=
  (List.range 7).foldr (fun p n => (g.pred p).toNat + 2 ^ 32 * n) 0 + 2 ^ 224 * g.stack.length +
    2 ^ 256 * (List.range 32).foldr (fun l n => ((g.lfsr.toList[l]?).getD 0).toNat + 2 ^ 16 * n) 0

/-- A line as a number of 128 bytes. -/
def Group.line (g : Group) (k : Nat) : Nat :=
  if k < g.vregs then lanesNum (g.vreg k).lanes
  else if k < g.tagLine then
    match g.split ((k - g.vregs) / g.uniPer) with
    | some sp => sp.uniLine g.uregs ((k - g.vregs) % g.uniPer)
    | none => 0
  else if k == g.tagLine then g.tagNum
  else g.ctlNum

/-- The group with a line as its bytes say. The depth byte is not read: the stack is not in a register line. -/
def Group.setLine (g : Group) (k x : Nat) : Group :=
  if k < g.vregs then { g with v := insert g.v k ⟨(g.vreg k).tag, numLanes x⟩ }
  else if k < g.tagLine then
    let j := (k - g.vregs) % g.uniPer
    g.modSplit ((k - g.vregs) / g.uniPer) fun sp =>
      { sp with u := Vector.ofFn fun i => if i.val / 32 == j && i.val < g.uregs then BitVec.ofNat 32 (x / 2 ^ (32 * (i.val % 32))) else sp.ureg i.val }
  else if k == g.tagLine then
    { g with v := (List.range g.vregs).map fun r => (r, ⟨BitVec.ofNat 4 (x / 16 ^ r), (g.vreg r).lanes⟩) }
  else
    { g with p := Vector.ofFn fun p => BitVec.ofNat 32 (x / 2 ^ (32 * p.val)),
             lfsr := Vector.ofFn fun l => BitVec.ofNat 16 (x / 2 ^ (256 + 16 * l.val)) }

/-- Every line of a group at its place, from the image offset of its frame's lines. -/
def Group.putLines (g : Group) (at_ : Nat) (m : Mem) : Mem :=
  (List.range g.lineCount).foldl (fun m k => Mem.writeN m (at_ + 128 * k) 128 (g.line k)) m

/-- The group as some of its lines say. -/
def Group.readLines (g : Group) (at_ : Nat) (m : Mem) (ks : List Nat) : Group :=
  ks.foldl (fun g k => g.setLine k (Mem.readN m (at_ + 128 * k) 128)) g

/-- The registers of a group read back from all its lines (R396). -/
def Group.getLines (g : Group) (at_ : Nat) (m : Mem) : Group := { g.readLines at_ m (List.range g.lineCount) with away := [] }

/-! ## Replacement (R170) -/

/-- A group whose lines are evicted first: parked, awaiting, in the Gallery, pre-empted or halted, or hinted (R170, R368). -/
def State.linesGo (s : State) (l : RegLine) : Bool :=
  match s.ctx l.cid with
  | none => true
  | some c =>
    c.st != .running || match lookup c.frames l.handle with
      | none => true
      | some fr =>
        fr.st != .running || fr.group.preferEvict || (List.range 4).all fun k => match fr.group.split k with
          | none => true
          | some sp => match sp.wait with
            | .await | .parked _ | .future (some _) => sp.asleep
            | _ => false

/-- Whether a write of a result goes to a line: a vector register has its tag in the tag line. -/
def Group.writesLine (g : Group) (split k : Nat) : RegWrite → Bool
  | .vec r _ _ _ => r == k || k == g.tagLine
  | .tag _ _ => k == g.tagLine
  | .uni r _ => g.uniLine split r == k
  | .pred _ _ _ => k == g.ctlLine
  | .anchor _ _ => false

/-- The lines that an instruction under way will write: it has issued and waits for its accesses (R170). -/
def Group.underWayLines (g : Group) (k : Nat) : List Nat :=
  match g.split k with
  | none => []
  | some sp => match sp.wait == .access && sp.unfinished.isSome, sp.issued with
    | true, some (_, w) => match decode w with
      | .ok i =>
        let r := regUse i
        r.vw ++ (if r.vw.isEmpty then [] else [g.tagLine]) ++ r.uw.map (g.uniLine k) ++ if r.pw.isEmpty then [] else [g.ctlLine]
      | .error _ => []
    | _, _ => []

/-- A line that a result in flight, an instruction under way or an engine will write stays (R170). -/
def State.pinned (s : State) (l : RegLine) : Bool :=
  match s.frame l.cid l.handle with
  | none => false
  | some fr =>
    let g := fr.group
    g.results.any (fun r => r.writes.any (g.writesLine r.split l.idx)) || (List.range 4).any (fun k => (g.underWayLines k).contains l.idx) ||
      g.owed.any fun o => if o.isVec then o.reg == l.idx || l.idx == g.tagLine else g.uniLine o.split o.reg == l.idx

/-- A line leaves the cache: its bytes go to the home of its image address (R53). The image of a halted or saved context has them already. -/
def State.evictLine (s : State) (core : Nat) (l : RegLine) : State :=
  let s := s.modCore core fun c => { c with regLines := c.regLines.filter (· != l) }
  match s.ctx l.cid with
  | none => s
  | some c =>
    match lookup c.frames l.handle with
    | none => s
    | some fr =>
      if c.st == .halted || c.st == .saved then s
      else
        (s.homeWrite (imageLn l.cid (regsOf l.handle) + l.idx) (BitVec.allOnes 128) (BitVec.ofNat 1024 (fr.group.line l.idx)) false false).modGroup l.cid l.handle
          fun g => { g with away := if g.away.contains l.idx then g.away else l.idx :: g.away }

/-- Room for one more line: the cache holds 4,096, most recently used first. Where every line is pinned there is none. -/
def State.roomForLine (s : State) (core : Nat) : Option State :=
  let lines := (s.core core).regLines
  if lines.length < 4096 then some s
  else
    let old := lines.reverse
    match old.find? fun l => s.linesGo l && !s.pinned l with
    | some l => some (s.evictLine core l)
    | none => (old.find? fun l => !s.pinned l).map fun l => s.evictLine core l

/-- Lines that have been evicted are read from their homes. -/
def State.fetchLines (s : State) (cid h : Nat) (p : Nat → Bool) : State :=
  match s.frame cid h with
  | none => s
  | some fr => (fr.group.away.filter p).foldl (fun s k =>
      let (s, x) := s.homeRead (imageLn cid (regsOf h) + k) false
      s.modGroup cid h fun g => { g.setLine k x.toNat with away := g.away.filter (· != k) }) s

/-- Every evicted line of a context is read from its home, as the image is written anew. -/
def State.fetchAll (s : State) (cid : Nat) : State :=
  match s.ctx cid with
  | none => s
  | some c => c.frames.foldl (fun s x => if x.2.group.away.isEmpty then s else s.fetchLines cid x.1 fun _ => true) s

/-- R170, R53: a missing register line is read from the home of its image address. -/
def execRegisterLineFill (core : Nat) (line : RegLine) (s : State) : Host.Outcome State Fault Refusal :=
  .next (
    if (s.core core).regLines.contains line then s
    else match s.roomForLine core with
      | none => s
      | some s =>
        ((s.fetchLines line.cid line.handle (· == line.idx)).modCore core fun c => { c with regLines := line :: c.regLines }).wakeAccess core)

end Sys2Proof.Machine
end

