-- ==== Sys2Proof/Machine/Fabric.lean ====
section
/-! DEFINITION. The steps of the memory system behind the cores: operations arriving at the homes and the banks (R54 to R58,
R103), forwards (R50), memory controllers (R60 to R63), flits returned with NAK (R430, R431), and the writing of results (R241,
R243) and held fault records (R33). -/

namespace Sys2Proof.Machine

/-! ## Delivery (R430, R431, R439) -/

/-- An operation arrives: not while its die is in reset; at a withdrawn die it ends without effect, and its issuer meets the
withdrawn range when it tries again (R431, R439). -/
def State.serve (s : State) (id : Nat) (act : Req → State → State) : State :=
  match s.req id with
  | none => s
  | some r =>
    if s.mayServe r then (act r s).answered r
    else if s.destState r == .withdrawn then s.answered r
    else s

def State.modReq (s : State) (id : Nat) (f : Req → Req) : State := { s with reqs := s.reqs.map fun (r : Req) => if r.id == id then f r else r }

/-- The loads that wait for an answer take their bytes from it; those the L1 held at their issue keep the value they had (R49). -/
def State.giveLoads (s : State) (id : Nat) (x : Line) : State :=
  (s.loadsOf id).foldl (fun s q => match q.op with
    | .load _ off n y m => (s.answer q (lineBytes (mergeBytes m y x) off n)).answered q
    | _ => s) s

/-- A read that finds its home withdrawn ends, and the loads that wait for it try again (R431, R439). -/
def State.endRead (s : State) (r : Req) : State := ((s.loadsOf r.id).foldl State.answered s).answered r

/-- R54: a read at the home, for an L1 or as a prefetch. Its answer is on its way to the core until the next turn of the same number; answers
for a line reach a core in the order of their reads (R430). Meanwhile others may write the line, so that the core may see older bytes
than it has seen (R95, R131). -/
def execL2Read (id : Nat) (s : State) : Host.Outcome State Fault Refusal :=
  .next (match s.req id with
    | none => s
    | some r => match r.op with
      | .read core asid ln vunit toL1 cmp tier low =>
        if s.mayServe r then
          let (s, x) := s.homeReadBy core asid ln tier
          (s.modReq id fun r => { r with op := .fill core asid ln vunit toL1 cmp tier low x }).push (.l2Read id)
        else if s.destState r == .withdrawn then s.endRead r
        else s
      | .fill core asid ln vunit toL1 cmp tier low x =>
        if s.mayServe r then
          let s := if toL1 then s.fillL1 core r.cid r.h asid ln vunit x cmp tier low else s
          (s.giveLoads id x).answered r
        else s
      | .prefetch ln tier => s.serve id fun _ s => (s.homeRead ln tier).1
      | _ => s)

/-- R103, R50: a registration: the home records the owner with the line's dirty mask, and the line becomes DR. -/
def execL2Registration (id : Nat) (s : State) : Host.Outcome State Fault Refusal :=
  .next (s.serve id fun r s => match r.op with
    | .register core asid ln =>
      match findL1 (s.core core).l1 asid ln with
      | some x =>
        if x.st == .c then s
        else
          let s := s.homeRegister core asid ln x.dirty x.tier
          s.modCore core fun c => { c with l1 := c.l1.map fun (y : L1Line) =>
            if y.asid == asid && y.line == ln then { y with st := .dr, reg := y.dirty } else y }
      | none => s
    | _ => s)

/-- R49, R54: a write-back merges its dirty bytes and removes its owner. -/
def execL2WritebackMerge (id : Nat) (s : State) : Host.Outcome State Fault Refusal :=
  .next (s.serve id fun r s => match r.op with
    | .writeback core _ l => s.mergeBack core l
    | _ => s)

/-- R55, R56: an atomic at the home; the old value goes back. -/
def execL2Atomic (id : Nat) (s : State) : Host.Outcome State Fault Refusal :=
  .next (s.serve id fun r s => match r.op with
    | .atomic ln off wide op ty a b cmp tier =>
      let (s, old) := s.homeAtomic ln off wide op ty a b cmp tier
      s.answer r old.toNat
    | _ => s)

/-- What an operation of a copy's beat leaves, once it is no longer in flight: the beat goes on. -/
def State.copyAnswered (s : State) (r : Req) (performed : Bool) : State :=
  match r.dst with
  | .copy seq => if (s.req r.id).isSome then s else s.sentBeat r.core seq performed
  | _ => s

/-- R56, R140: a reduction carried by a copy; its beat is counted once it has been performed. -/
def execL2Reduction (id : Nat) (s : State) : Host.Outcome State Fault Refusal :=
  .next (match s.req id with
    | none => s
    | some r =>
      let t := s.serve id fun r s => match r.op with
        | .reduce ln x m op ty cmp tier => s.homeReduce ln x m op ty cmp tier
        | _ => s
      t.copyAnswered r (s.mayServe r))

/-- R58: one operation of an Atrium bank. -/
def State.bankOperation (s : State) (id : Nat) : State :=
  s.serve id fun r s => match r.op with
    | .bankLoad off n => s.answer r (Mem.readN s.atrium off n)
    | .bankStore off bytes => { s with atrium := Mem.writeBytes s.atrium off bytes }
    | .bankAtomic off wide op ty a b =>
      let n := if wide then 8 else 4
      let old := Mem.readN s.atrium off n
      { s with atrium := Mem.writeN s.atrium off n (alu op ty (8 * n) old (a.toNat % 2 ^ (8 * n)) (b.toNat % 2 ^ (8 * n))) }.answer r old
    | .bankLine off op ty x => { s with atrium := Mem.writeN s.atrium off 64 (aluWords op ty 16 (Mem.readN s.atrium off 64) x.toNat) }
    | _ => s

/-- A line OR of a copy's signature lets its beat be counted once the last of them has been performed (R116). -/
def execAtriumBankOperation (id : Nat) (s : State) : Host.Outcome State Fault Refusal :=
  .next (match s.req id with
    | none => s
    | some r => (s.bankOperation id).copyAnswered r (s.mayServe r))

/-- R50: a forward reaches a core: a DR line is written back and becomes clean; any other answers with no data. -/
def execL1ForwardRequest (core asid line : Nat) (s : State) : Host.Outcome State Fault Refusal :=
  .next (match findL1 (s.core core).l1 asid line with
    | some x => if x.st == .dr then s.forward line core asid else s
    | none => s)

/-- R63: a request reaches a memory controller: a read fills the line at its home, a write is the eviction of the line. -/
def execMemoryControllerRequest (line : Nat) (write : Bool) (s : State) : Host.Outcome State Fault Refusal :=
  .next (
    if (s.region (128 * line)).isNone || s.homeState line != .good then s
    else if write then s.evictL2 line
    else match lookup s.l2 line with
      | some _ => s
      | none => (s.allocate line (match s.region (128 * line) with | some r => 2 ≤ r | none => false)).1)

/-! ## NAK (R430, R431) -/

/-- CAGE: 8,192 fc of 1 / 1.88 GHz, and the microsecond after which a request is sent again (R430, R431). -/
def ageLimit : Nat := 8192 * 25 * 232792560
def resendAfter : Nat := 1000 * unitsPerNs

/-- R430: a flit that cannot be delivered is returned at its age limit, and counted. -/
def execFlitAgeLimit (id : Nat) (s : State) : Host.Outcome State Fault Refusal :=
  .next (match s.req id with
    | none => s
    | some r =>
      if r.nak || s.destState r != .inReset || s.time - r.sent < ageLimit then s
      else
        let i := hallOf r.core
        let d := s.die i
        { s.modReq id fun r => { r with nak := true, again := true, sent := s.time } with dies := s.dies.setIfInBounds i { d with cnak := d.cnak + 1 } })

/-- R431: the source sends a returned request again, a microsecond after it came back. -/
def execNakResend (id : Nat) (s : State) : Host.Outcome State Fault Refusal :=
  .next (match s.req id with
    | none => s
    | some r => if r.nak && resendAfter ≤ s.time - r.sent then (s.modReq id fun r => { r with nak := false, sent := s.time }).push r.event else s)

/-! ## Results (R241, R243) -/

/-- Results of a slot's group are written; splits that wait at a JOIN for one of them look again (R174). -/
def State.writeResults (s : State) (core slot : Nat) (f : Group → Group) : State :=
  match lookup (s.core core).slots slot with
  | none => s
  | some b => match b.frame with
    | some h => (s.modGroup b.cid h f).rejoin b.cid h core slot
    | none => s

/-- R243: a variable-latency result is written. -/
def execVariableResultWrite (core slot id : Nat) (s : State) : Host.Outcome State Fault Refusal :=
  .next (s.writeResults core slot fun g =>
    ({ g with results := g.results.map fun (r : Result) => if r.id == id && !r.fixed && r.due.isNone then { r with due := some s.ac } else r } : Group).commitDue s.ac)

/-- R241: a fixed-latency result is written once its ac has come. -/
def execFixedLatencyResultWrite (core slot id : Nat) (s : State) : Host.Outcome State Fault Refusal :=
  .next (s.writeResults core slot fun g =>
    if g.results.any fun r => r.id == id && r.fixed then g.commitDue s.ac else g)

/-! ## Fault records (R33) -/

/-- A split none of whose records is held any more is record-pending no longer. -/
def State.recordPosted (s : State) (r : FaultRec) (left : List FaultRec) : State :=
  match r.owner with
  | none => s
  | some x =>
    if left.any fun q => q.owner == some x && q.split == r.split then s
    else s.modSplit x.cid x.handle r.split fun sp => match sp.wait with
      | .parked p => { sp with wait := .parked { p with pending := false } }
      | _ => sp

/-- Post what a core holds, oldest first, until a destination has no room. -/
def State.postFaults (core : Nat) : List FaultRec → State → State
  | [], s => s.modCore core fun c => { c with held := [] }
  | r :: l, s => match s.deliverFault core r with
    | (s, true) => State.postFaults core l (s.recordPosted r l)
    | (s, false) => s.modCore core fun c => { c with held := r :: l }

def execFaultRecordHeldPost (core : Nat) (s : State) : Host.Outcome State Fault Refusal :=
  .next (State.postFaults core (s.core core).held s)

end Sys2Proof.Machine
end

