-- ==== Sys2Proof/Machine/Maint.lean ====
section
/-! DEFINITION. Translation maintenance: TLBINV (R35, R37, R38, R365) and MAPQ (R34, R366), for strands, host commands, the
migration engines and the Porter. -/

namespace Sys2Proof.Machine

/-! ## Scope and recipients -/

/-- Whether an operation covers an address space: named, or one of its function's (R365). -/
def State.scopeHas (s : State) (m : MaintOp) (asid : Nat) : Bool :=
  if m.scope == 2 then m.vf == 0 || asidVf (s.asidEntry none asid).2 == m.vf else asid == m.asid

/-- Whether it covers some of `n` bytes from an address. -/
def MaintOp.overlaps (m : MaintOp) (lo n : Nat) : Bool := m.scope != 0 || m.ranges.any fun r => lo < r.2 && r.1 < lo + n

def MaintOp.hasPage (m : MaintOp) (page : Nat) : Bool := m.overlaps (page * 262144) 262144

/-- What a failed walk has left for a page of the range. -/
def MaintOp.hasNote (m : MaintOp) (key : Nat) : Bool := m.hasPage (if 2 ^ 61 ≤ key then key - 2 ^ 61 else key)

/-- The die of a recipient: cores by their number, then the Binner and Resolver of Hall A and Hall B, the migration engines of
Annex N and Annex S, and the DaxLink inbound path (R37). -/
def dieOfRecipient (r : Nat) : Nat := if r < 384 then hallOf r else if r < 386 then r - 384 else if r < 388 then r - 384 else 2

/-- Recipients: a core that holds nothing has nothing to invalidate and is left out; a withdrawn die is none (R38). -/
def State.recipients (s : State) : List Nat :=
  ((s.cores.map fun (c : Nat × Core) => c.1) ++ [384, 385, 386, 387, 388]).filter fun r => (s.die (dieOfRecipient r)).st != DieSt.withdrawn

/-- The broadcast of an operation. -/
def State.broadcast (s : State) (m : MaintOp) : State :=
  s.pushAll (m.left.map fun r => if m.inv then .tlbinvReceive m.id r else .mapqNoticeReceive m.id r)

def State.maint (s : State) (id : Nat) : Option MaintOp := s.maints.find? fun m => m.id == id

def State.modMaint (s : State) (id : Nat) (f : MaintOp → MaintOp) : State :=
  { s with maints := s.maints.map fun (m : MaintOp) => if m.id == id then f m else m }

/-- TLBINVs of one ASID: with DSR.SHOOT = 0 one broadcast may serve both (R386). -/
def MaintOp.merges (m x : MaintOp) : Bool := m.inv && x.inv && m.scope ≤ 1 && x.scope ≤ 1 && m.asid == x.asid

/-- Whether an operation waits for a broadcast that has begun: with DSR.SHOOT = 1 for any of its function, which are broadcast one at a time;
with DSR.SHOOT = 0 for one of its ASID, after which those that have gathered are broadcast as one (R386). -/
def State.maintWaits (s : State) (m : MaintOp) : Bool :=
  s.maints.any fun x => x.started && (if (s.fn m.vf).dsr.getLsbD 4 then x.vf == m.vf else m.merges x)

/-- The broadcast of an operation begins, of those with it that wait and that it may serve. -/
def State.beginMaint (s : State) (m : MaintOp) : State :=
  let r := s.recipients
  let one (x : MaintOp) : Bool := (s.fn x.vf).dsr.getLsbD 4
  let with_ := if one m then [] else s.maints.filter fun x => x.id != m.id && !x.started && x.joined.isNone && m.merges x && !one x
  let m := { m with started := true, left := r, unacked := r, ranges := m.ranges ++ with_.flatMap (·.ranges),
                    scope := with_.foldl (fun n x => max n x.scope) m.scope }
  ({ s with maints := s.maints.map fun (x : MaintOp) =>
      if x.id == m.id then m else if with_.any fun y => y.id == x.id then { x with joined := some m.id } else x } : State).broadcast m

/-- An operation is taken up: it is broadcast at once, or waits for a broadcast. -/
def State.startMaint (s : State) (inv : Bool) (scope asid lo hi vf : Nat) (owner : MaintFor) : State × Nat :=
  let id := s.nextReq
  let m : MaintOp := { id := id, inv := inv, scope := scope, asid := asid, ranges := [(lo, hi)], vf := vf, owner := owner, left := [],
                       unacked := [], drain := [], started := false, joined := none }
  let s' := { s with nextReq := id + 1, maints := s.maints ++ [m] }
  (if s.maintWaits m then s' else s'.beginMaint m, id)

/-! ## Completion -/

/-- A host command is done: STATUS is written, then HEAD advances (R388). -/
def State.finishCommand (s : State) (vf status : Nat) : State :=
  let f := s.fn vf
  let at_ := ringBase f.hcrb + 32 * (f.hcHead.toNat % 2 ^ ringLog f.hcrb)
  { s with host := Mem.writeN s.host (at_ + 16) 4 status }.modFn vf fun f => { f with hcHead := f.hcHead + 1, cmdBusy := false }

/-- The owner of a complete operation goes on. -/
def State.maintDone (s : State) (m : MaintOp) : State :=
  match m.owner with
  | .split _ => s.wakeAll (· == .maintain m.id)
  | .host vf => if (s.fn vf).cmdBusy then s.finishCommand vf 1 else s
  | .migration a => s.push (.migrationInvalidationDone a)
  | .porter => s

/-- A broadcast is complete: the operations it has served are, and those that waited for it begin, in the order of their arrival. -/
def State.endMaint (s : State) (m : MaintOp) : State :=
  let done (x : MaintOp) : Bool := x.id == m.id || x.joined == some m.id
  let served := s.maints.filter done
  let s := served.foldl State.maintDone { s with maints := s.maints.filter fun x => !done x }
  (s.maints.filter fun x => !x.started && x.joined.isNone).foldl (fun s x => match s.maint x.id with
    | some y => if y.started || y.joined.isSome || s.maintWaits y then s else s.beginMaint y
    | none => s) s

/-! ## At a recipient of TLBINV (R37) -/

/-- The group of every frame whose last binding was on a core: bound, evicted, in the deque or in the Gallery. -/
def State.mapResident (s : State) (core : Nat) (p : Ctx → Bool) (f : Group → Group) : State :=
  { s with ctxs := s.ctxs.map fun x => if p x.2 then (x.1, x.2.mapResident core f) else x }

/-- What a core forgets. -/
def Core.invalidate (c : Core) (m : MaintOp) (has : Nat → Bool) : Core :=
  let keep (asid lo n : Nat) : Bool := !(has asid && m.overlaps lo n)
  { c with
    tlb1 := c.tlb1.filter fun t => keep t.asid (t.vbase * 2 ^ t.size) (2 ^ t.size),
    tlb2 := c.tlb2.filter fun t => keep t.asid (t.vbase * 2 ^ t.size) (2 ^ t.size),
    walks := c.walks.filter fun w => let n := if w.level == 2 then 2 ^ 31 else 2 ^ 44
                                     keep w.asid (w.tag * n) n,
    asids := if m.scope == 0 then c.asids else c.asids.filter fun a => !has a.1,
    tex := c.tex.filter fun t => keep t.asid (t.vunit * 262144) 262144,
    icache := [], filter := [] }

/-- An anchor of a translation that the operation covers (R25, R37): its VBASE, or a byte it serves, lies in the range. An EMPTY one names no
address and stays EMPTY (assumption 84). -/
def MaintOp.staleAnchor (m : MaintOp) (a : Anchor) : Anchor :=
  if a.st != .empty && m.overlaps a.vbase.toNat (max 1 a.limit.toNat) then a.stale else a

/-- Step (b) of R37 for a group: the anchors of its splits, and those that an ANCHOR under way has still to write (R39, R40). -/
def MaintOp.staleGroup (m : MaintOp) (g : Group) : Group :=
  let g := g.mapSplits fun (sp : Split) =>
    { sp with anchors := mapEach sp.anchors m.staleAnchor, badPages := sp.badPages.filter fun p => !m.hasNote p.1 }
  { g with results := g.results.map fun (r : Result) => { r with writes := r.writes.map fun w => match w with
      | .anchor k a => .anchor k (m.staleAnchor a)
      | w => w } }

/-- The operations of a core that were translated through what the operation covers (R37, R38). -/
def State.translated (s : State) (m : MaintOp) (core : Nat) : List Nat :=
  (s.reqs.filter fun r => r.core == core && s.scopeHas m r.asid && r.page.any m.hasPage).map (·.id)

/-- Steps (a) and (b), and the write-backs of step (c) (R37, R50). -/
def State.invalidate (s : State) (m : MaintOp) (core : Nat) : State :=
  let has := s.scopeHas m
  let lines := (s.core core).l1.filter fun x => has x.asid && m.hasPage x.vunit
  let s := lines.foldl (fun s x => s.evictL1 core 0 noHandle x.asid x.line) s
  let s := s.modCore core fun c => c.invalidate m has
  s.mapResident core (fun c => has c.asid) m.staleGroup

/-- R37 (a), (b): the invalidation reaches a recipient. -/
def execTlbinvReceive (op rcp : Nat) (s : State) : Host.Outcome State Fault Refusal :=
  .next (match s.maint op with
    | none => s
    | some m =>
      if !m.inv || !m.started || !m.left.contains rcp then s
      else
        let s := if rcp < 384 then s.invalidate m rcp else s
        let d := s.translated m rcp
        (s.modMaint op fun m => { m with left := m.left.filter (· != rcp), drain := insert m.drain rcp d }).push (.tlbinvDrainAck op rcp))

/-- Whether an access translated before step (a) is still in flight at a recipient (R38). -/
def State.draining (s : State) (m : MaintOp) (rcp : Nat) : Bool :=
  (s.die (dieOfRecipient rcp)).st == .good && ((lookup m.drain rcp).getD []).any fun id => (s.req id).isSome

/-- The clean lines that fills under way at step (a) have brought since (R50). -/
def State.dropFilled (s : State) (m : MaintOp) (core : Nat) : State :=
  let has := s.scopeHas m
  if core < 384 then
    s.modCore core fun c => { c with l1 := c.l1.filter fun x => !(has x.asid && m.hasPage x.vunit && x.st == .c),
                                     tex := c.tex.filter fun t => !(has t.asid && m.hasPage t.vunit) }
  else s

/-- R37 (c), (d), R38: once nothing translated before is in flight, the recipient acknowledges. -/
def execTlbinvDrainAck (op rcp : Nat) (s : State) : Host.Outcome State Fault Refusal :=
  .next (match s.maint op with
    | none => s
    | some m =>
      if !m.inv || m.left.contains rcp || !m.unacked.contains rcp then s
      else if s.draining m rcp then s
      else
        let s := s.dropFilled m rcp
        let left := m.unacked.filter (· != rcp)
        let s := s.modMaint op fun m => { m with unacked := left }
        if left.isEmpty then s.push (.tlbinvComplete op) else s)

/-- R37 step 5. -/
def execTlbinvComplete (op : Nat) (s : State) : Host.Outcome State Fault Refusal :=
  .next (match s.maint op with
    | none => s
    | some m => if m.inv && m.started && m.unacked.isEmpty then s.endMaint m else s)

/-! ## At a recipient of MAPQ (R366) -/

/-- A parked split whose pages the notice covers replays, which acts as an S bit (R245); a wake during a halt is kept in its state (R392). A split whose walk has
failed on such a page and that has not parked yet walks again: the notice came after the faulting translation (R34). -/
def MaintOp.wakeSplit (m : MaintOp) (sp : Split) : Split :=
  match sp.wait with
  | .parked p => if p.pages.any m.hasPage then { sp with wait := .parked { p with woken := true }, asleep := false, sbit := true } else sp
  | _ => { sp with badPages := sp.badPages.filter fun p => !m.hasNote p.1 }

/-- Frames of a core that are out of their slots with a parked split that has been woken become runnable (R194). -/
def State.readyWoken (s : State) (core : Nat) (has : Nat → Bool) : State :=
  (s.ctxs.filter fun c => has c.2.asid).foldl (fun s c =>
    c.2.frames.foldl (fun s (h, fr) =>
      let woken := (List.range 4).any fun k => (fr.group.split k).any fun sp => match sp.wait with
        | .parked p => p.woken
        | _ => false
      if fr.core == core && (fr.st == .awaiting || fr.st == .gallery) && woken then s.readyFrame c.1 h else s) s) s

/-- Whether a reload of one of a crew's tiles waits for a page; and the tiles that wait for none of these pages any more. -/
def Crew.waitsTile (k : Crew) (p : Nat → Bool) : Bool := (List.range 16).any fun n => (k.tile n).any fun t => t.page.any p
def Crew.pageIn (k : Crew) (p : Nat → Bool) : Crew :=
  { k with tiles := mapEach k.tiles fun o => o.map fun (t : TileData) => { t with page := t.page.filter fun q => !p q } }

/-- A copy of a covered page goes on from its beat; an Array stream from its unit; a VXM whose tile is covered tries again (R155, R324). -/
def State.wakeEngines (s : State) (m : MaintOp) (core : Nat) (has : Nat → Bool) : State :=
  let asidOf (s : State) (cid : Nat) : Bool := match s.ctx cid with | some c => has c.asid | none => false
  let copies := (s.core core).ce.filter fun r => r.st == .parked && asidOf s r.cid && r.pages.any m.hasPage
  let ops := (s.core core).arr.filter fun o => o.st == .stalled && asidOf s o.cid && (match o.page with | some p => m.hasPage p | none => false)
  let s := copies.foldl (fun s r =>
    (s.modCopy core r.seq CopyRec.again).pushAll (copyEvents core r.again)) s
  let s := ops.foldl (fun s o => (s.modOp core o.seq fun x => { x with st := .queued, page := none }).push (.arrayOpDispatch core o.seq)) s
  let waits (x : Nat × Ctx) : Bool := has x.2.asid && x.2.crews.any fun k => k.core == core && k.waitsTile m.hasPage
  (s.ctxs.filter waits).foldl (fun s x => (s.modCtx x.1 fun c => { c with crews := c.crews.map fun k => if k.core == core then k.pageIn m.hasPage else k }).rearm core) s

/-- R366: a notice reaches a recipient. -/
def execMapqNoticeReceive (op rcp : Nat) (s : State) : Host.Outcome State Fault Refusal :=
  .next (match s.maint op with
    | none => s
    | some m =>
      if m.inv || !m.started || !m.left.contains rcp then s
      else
        let has := s.scopeHas m
        let s := if rcp < 384 then
            let s := s.mapResident rcp (fun c => has c.asid) fun g => g.mapSplits m.wakeSplit
            ((s.readyWoken rcp has).wakeEngines m rcp has).modCore rcp fun c => { c with filter := [] }
          else s
        let left := m.left.filter (· != rcp)
        let s := s.modMaint op fun m => { m with left := left }
        if left.isEmpty then s.push (.mapqComplete op) else s)

/-- R366: every recipient has acted. -/
def execMapqComplete (op : Nat) (s : State) : Host.Outcome State Fault Refusal :=
  .next (match s.maint op with
    | none => s
    | some m => if !m.inv && m.started && m.left.isEmpty then s.endMaint m else s)

/-! ## The instructions (R365, R366) -/

/-- R35: every dirty line of the core that the write signature covers goes home, and becomes clean. -/
def Env.writeBack (e : Env) (s : State) : State :=
  let lines := (s.core e.f.core).l1.filter fun x => sigHit e.fr.sig x.line && x.st != .c
  lines.foldl (fun s x =>
    (s.sendBack e.f.core e.cid e.h x).modCore e.f.core fun c =>
      { c with l1 := putL1 c.l1 { x with st := .c, dirty := 0, reg := 0 } }) s

/-- The operands of a form: the scope, the ASID, the base and the page count. -/
structure MaintArgs where
  scope : Nat
  asid : Nat
  base : W64
  count : Nat

def Env.maintArgs (e : Env) (b : TBody) : MaintArgs :=
  { scope := (b.topt.extractLsb' 0 2).toNat, asid := (e.u b.tsb).toNat % 8192, base := e.u64 b.tsa, count := (e.u b.tsc).toNat }

/-- The range of a scope-0 form, clipped at the end of the lower half. -/
def MaintArgs.range (a : MaintArgs) : Nat × Nat :=
  let lo := a.base.toNat / 262144 * 262144
  (lo, min (lo + a.count * 262144) (2 ^ 56))

/-- The checks, the write-back, then the operation, which the split waits for. -/
def maintain (i : Instr) (h : Hdr) (b : TBody) (inv : Bool) : State → Host.Outcome State Fault Refusal :=
  issueWith i h noTags fun e =>
    let a := e.maintArgs b
    match e.sp.wait with
    | .maintain id => if (e.s.maint id).isSome then e.hold (.maintain id) e.s else .ok e.s
    | _ =>
      if a.scope == 0 && !canonical a.base then badTrap .nonCanonical a.base e.s
      else if a.scope == 0 && upperHalf a.base then badTrap .aperture a.base e.s
      else
        let (s, t) := if a.scope == 2 then (e.s, 0) else e.s.asidEntry none a.asid
        if a.scope != 2 && e.vf != 0 && asidVf t != e.vf then .stay (e.violate 0 0 s)
        else
          let s := e.writeBack s
          if s.inFlight e.f.core e.asid || s.reqs.any (fun r => r.core == e.f.core && r.cid == e.cid && r.h == e.h) then e.hold .access s
          else if a.scope == 0 && a.count == 0 then .ok s
          else
            let (s, id) := s.startMaint inv a.scope a.asid a.range.1 a.range.2 e.vf (.split e.f)
            e.hold (.maintain id) s

def execTlbinvRange (h : Hdr) (b : TBody) : State → Host.Outcome State Fault Refusal := maintain (.tlbinvRange h b) h b true
def execTlbinvAsid (h : Hdr) (b : TBody) : State → Host.Outcome State Fault Refusal := maintain (.tlbinvAsid h b) h b true
def execTlbinvFn (h : Hdr) (b : TBody) : State → Host.Outcome State Fault Refusal := maintain (.tlbinvFn h b) h b true
def execMapqRange (h : Hdr) (b : TBody) : State → Host.Outcome State Fault Refusal := maintain (.mapqRange h b) h b false
def execMapqAsid (h : Hdr) (b : TBody) : State → Host.Outcome State Fault Refusal := maintain (.mapqAsid h b) h b false
def execMapqFn (h : Hdr) (b : TBody) : State → Host.Outcome State Fault Refusal := maintain (.mapqFn h b) h b false

end Sys2Proof.Machine
end

