-- ==== Sys2Proof/Machine/Sched.lean ====
section
/-! DEFINITION. The Porters: queues and records (R369 to R374), placement and reservation (R175 to R178, R375, R376), the start
of groups (R44, R110, R182), completion (R111, R380, R381), handler launches (R384) and the time windows of shares and budgets
(R373, R377). -/

namespace Sys2Proof.Machine

/-! ## Records and blocks (R175, R371) -/

/-- Bits lo to lo + n - 1 of a number. -/
def bitsOf (x lo n : Nat) : Nat := x / 2 ^ lo % 2 ^ n

/-- The record in 128 bytes. -/
def launchRec (x : Nat) : LaunchRec :=
  { kind := bitsOf x 0 8, fixed := bitsOf x 8 1 == 1, cls := bitsOf x 9 1 == 1, asid := bitsOf x 16 13, seq := BitVec.ofNat 32 (bitsOf x 32 32),
    lblk := BitVec.ofNat 64 (bitsOf x 64 57), x0 := bitsOf x 128 5, y0 := bitsOf x 136 4, w := bitsOf x 144 5 + 1, h := bitsOf x 152 4 + 1,
    arg := BitVec.ofNat 64 (bitsOf x 192 64), crec := BitVec.ofNat 64 (bitsOf x 256 57), cfut := BitVec.ofNat 64 (bitsOf x 320 57),
    lfut := BitVec.ofNat 64 (bitsOf x 384 57) }

/-- The reserved bits of a record: first bit and width. -/
def recReserved : List (Nat × Nat) :=
  [(10, 6), (29, 3), (121, 7), (133, 3), (140, 4), (149, 3), (156, 4), (160, 32), (313, 7), (377, 7), (441, 7), (448, 576)]

/-- Check 1 of R374. -/
def recordOk (x : Nat) : Bool :=
  let r := launchRec x
  (r.kind == 1 || r.kind == 2) && recReserved.all (fun p => bitsOf x p.1 p.2 == 0) && r.crec.toNat % 32 == 0 && r.cfut.toNat % 64 == 0 &&
    r.lfut.toNat % 64 == 0

def blockEntry (x k : Nat) : Entry :=
  let b := 128 + 128 * k
  { pc := BitVec.ofNat 64 (bitsOf x b 57), vregs := bitsOf x (b + 64) 8 + 1, uregs := bitsOf x (b + 72) 6 + 1, groups := bitsOf x (b + 80) 6 }

/-- The launch block in 64 bytes. -/
def launchBlock (x : Nat) : LaunchBlock :=
  { alcove := bitsOf x 0 10, tags := bitsOf x 16 7, roles := bitsOf x 24 1 == 1, gang := bitsOf x 25 1 == 1, frames := bitsOf x 32 16,
    entries := #v[blockEntry x 0, blockEntry x 1, blockEntry x 2] }

/-- The entries in use. -/
def LaunchBlock.used (b : LaunchBlock) : List (Nat × Entry) :=
  if b.roles then [(0, b.entries[0]), (1, b.entries[1]), (2, b.entries[2])] else [(0, b.entries[0])]

/-- Groups of one crew. -/
def LaunchBlock.groups (b : LaunchBlock) : Nat := (b.used.map fun e => e.2.groups).foldl (· + ·) 0

def blockReserved : List (Nat × Nat) := [(10, 6), (23, 1), (26, 6), (48, 16), (64, 64)]
def entryReserved : List (Nat × Nat) := [(57, 7), (78, 2), (86, 2), (88, 40)]

/-- The checks of R175 with cause BLOCK. -/
def blockOk (x : Nat) : Bool :=
  let b := launchBlock x
  blockReserved.all (fun p => bitsOf x p.1 p.2 == 0) &&
    b.used.all (fun e => pcFormed e.2.pc && entryReserved.all fun p => bitsOf x (128 + 128 * e.1 + p.1) p.2 == 0) &&
    b.groups != 0 && b.groups ≤ b.frames

/-- The checks with cause CAPACITY. -/
def LaunchBlock.fits (b : LaunchBlock) : Bool := b.alcove ≤ 512 && b.tags ≤ 64 && b.groups ≤ 48

/-! ## The Porter's own accesses -/

/-- A Porter's access to one aligned piece of memory under an ASID. -/
def State.porterXlate (s : State) (vf asid : Nat) (sup : Bool) (k : Kind) (acc : Accept) (va : W64) : State × TRes :=
  if !canonical va then (s, .fault .nonCanonical)
  else if upperHalf va || inAlcove va then (s, .fault .aperture)
  else match s.walk none asid va with
    | (s, .fault c) => (s, .fault c)
    | (s, .leaf t) => (s, s.useLeaf vf sup t va k acc)

/-- Who a Porter's access acts for. -/
def porterAgent (vf asid : Nat) (sup : Bool) : Agent := ⟨0, 0, vf, asid, sup, 0, 0, none⟩

/-- The summary and crew records of a completion area (R380). -/
structure CompRec where
  seq : W32
  crew : Nat
  status : Nat
  cause : Nat
  cid : Nat
  count : Nat

/-- Write a record: bytes 4 to 31, then SEQ. `inl` is the fault where it cannot be written, `inr` its line's signature. -/
def State.writeRecord (s : State) (vf asid die : Nat) (sup : Bool) (va : W64) (r : CompRec) : State × Except FaultCode SigBits :=
  match s.porterXlate vf asid sup .store ⟨[0, 1, 2], none, false⟩ va with
  | (s, .ok p) =>
    let x := r.seq.toNat + 2 ^ 32 * r.crew + 2 ^ 64 * r.status + 2 ^ 72 * r.cause + 2 ^ 80 * r.cid + 2 ^ 96 * r.count +
      2 ^ 128 * (s.counter die).toNat
    ((porterAgent vf asid sup).writeAt p 32 x s, .ok (placeSig p))
  | (s, .fault c) => (s, .error c)
  | (s, .miss _) => (s, .error .notPresent)

/-- The body of a HALT event; the issue sequence of the first cause, for which R382 names no bytes, stands in bytes 24 to 27 (R392;
assumption 91). -/
def haltBody (cid code nstop seq : Nat) : Nat := cid + 2 ^ 16 * code + 2 ^ 32 * nstop + 2 ^ 64 * seq

/-- R381: a fault on a future or on CREC posts a HALT event where its code is 0x05 or above. -/
def State.recordFault (s : State) (vf die cid : Nat) (c : FaultCode) : State :=
  if c.replayable then s else s.postEvent .halt vf die (haltBody cid c.byte.toNat 0 0)

/-! ## Cores that may be used (R177) -/

def State.rectGood (s : State) (r : Rect) : Bool :=
  1 ≤ r.w && 1 ≤ r.h && r.x + r.w ≤ 32 && r.y + r.h ≤ 12 && r.cores.all fun n => (s.die (hallOf n)).st == .good

/-- Every origin of a shape, row by row. -/
def originsOf (w h : Nat) : List Rect := (List.range (12 + 1 - h)).flatMap fun y => (List.range (32 + 1 - w)).map fun x => ⟨x, y, w, h⟩

/-! ## Free resources of a core -/

/-- The crews that hold resources on a core. -/
def State.holders (s : State) (core : Nat) : List (Ctx × Crew) :=
  s.ctxs.flatMap fun c => (c.2.crews.filter fun k => k.core == core && k.st != .waiting && !k.released).map fun k => (c.2, k)

/-- The lowest base at which `n` units are free below a bound, given the ranges in use. For an Alcove allocation R44 names no base among the
free ones: taking the lowest is the model's choice (assumption 99). -/
def firstFit (bound n : Nat) (used : List (Nat × Nat)) : Option Nat :=
  (0 :: used.map fun u => u.1 + u.2).foldl (fun best b =>
    if b + n ≤ bound && used.all (fun u => b + n ≤ u.1 || u.1 + u.2 ≤ b || u.2 == 0 || n == 0) then
      match best with
      | some a => if a ≤ b then some a else some b
      | none => some b
    else best) none

/-- What a crew of a block would take on a core now: slots, an Alcove base and a tag base. -/
def State.room (s : State) (core : Nat) (b : LaunchBlock) : Option (List Nat × Nat × Nat) :=
  let hs := s.holders core
  let free := s.unreserved core
  if free.length < b.groups then none
  else match firstFit 512 b.alcove (hs.map fun x => (x.2.alcBase, x.2.alcSize)), firstFit 64 b.tags (hs.map fun x => (x.2.tagBase, x.1.blk.tags)) with
    | some a, some t => some (free.take b.groups, a, t)
    | _, _ => none

/-! ## Choosing a record (R373) -/

/-- The queues a Porter serves (R369), once its Hall has authenticated (R443). The Porter of a Hall that remains serves both halves (R439);
with no Hall left every launch is still refused (R443). -/
def State.queuesOf (s : State) (hall : Nat) : List Nat :=
  if (s.die 0).st == .withdrawn && (s.die 1).st == .withdrawn then (if hall == 0 then List.range 256 else [])
  else if (s.die hall).st != .good || !(s.die hall).auth then []
  else if (s.die (1 - hall)).st == .withdrawn then List.range 256
  else (List.range 128).map (· + 128 * hall)

structure Pick where
  q : Nat
  vf : Nat
  prio : Nat
  ring : Nat
  logn : Nat
  head : W32

/-- An eligible queue. -/
def State.eligible (s : State) (q : Nat) : State × Option Pick :=
  match s.queue q with
  | (s, e) =>
    let f := s.fn e.vf
    let held := s.porters.toList.any fun p => p.held.any fun h => h.q == q
    (s, if e.enabled && !e.priv && !held && (lookup s.doorbells q).getD 0 != e.head && f.weight != 0 && !f.frozen then
        some ⟨q, e.vf, min e.prio f.ceil.toNat, e.ring, e.logn, e.head⟩ else none)

/-- Whether the first is taken before the second: its priority, then its function's served time by weight; the list is in queue
order, and a tie keeps the earlier. -/
def State.before (s : State) (a b : Pick) : Bool :=
  if a.prio != b.prio then b.prio < a.prio
  else
    let fa := s.fn a.vf
    let fb := s.fn b.vf
    fa.served * fb.weight.toNat < fb.served * fa.weight.toNat

def State.selectFrom : List Nat → Option Pick → State → State × Option Pick
  | [], best, s => (s, best)
  | q :: l, best, s =>
    match s.eligible q with
    | (s, none) => State.selectFrom l best s
    | (s, some p) => State.selectFrom l (match best with | none => some p | some b => if s.before p b then some p else best) s

/-! ## Refusal and admission (R374, R375) -/

/-- A launch is refused with a cause: LAUNCH_REFUSED, and for causes 3 to 5 the summary record. -/
def State.refuse (s : State) (hall q vf : Nat) (sup : Bool) (r : LaunchRec) (cause : Nat) : State :=
  let s := if 3 ≤ cause && r.crec != 0 then
      (s.writeRecord vf r.asid hall sup r.crec ⟨r.seq, 0xFFFFFFFF, 3, cause, 0, 0⟩).1
    else s
  s.postEvent .launchRefused vf hall (min q 0xFF + 2 ^ 8 * cause + 2 ^ 32 * r.seq.toNat)

def freshRec (n : Nat) : Nat := (n - 1) % 65535 + 1

/-- The next context id that no context has. -/
def State.freshCid (s : State) : Nat :=
  (((List.range (s.ctxs.length + 1)).map fun i => freshRec (s.nextCid + i)).find? fun c => (s.ctx c).isNone).getD 1

/-- A context at its admission (R375). -/
def Ctx.admitted (cid vf : Nat) (sup : Bool) (prio q : Nat) (r : LaunchRec) (b : LaunchBlock) (handler : Bool) : Ctx :=
  { cid := cid, vf := vf, asid := r.asid, sup := sup, prio := prio, rcd := r, blk := b, queue := q, rect := ⟨0, 0, r.w, r.h⟩, st := .placing,
    settled := false, first := none, firstSeq := 0, heldRaise := none, killAfter := false, offenders := [], step := false, bkptNop := false,
    stepping := false, crews := [], frames := [], banPhase := Vector.replicate 8 0, banUnion := Vector.replicate 8 0,
    stops := [], image := [], hseq := 0, arrived := [], settledAt := [], copies := [], ops := [], late := [], queued := [], slotsSaved := [],
    alcoves := [], saveStop := false, placed := false, summary := false, waiters := [], reqOpen := false, restoreTo := none,
    handler := handler, byOther := false }

/-- A checked launch is admitted: it is held, and it is placed by the Porter, or by the host where DSR.SCHED = 1. A handler
launch, which no queue names, is placed by the Porter. -/
def State.enrol (s : State) (hall q vf prio : Nat) (sup : Bool) (r : LaunchRec) (b : LaunchBlock) (handler : Bool) : State :=
  let cid := s.freshCid
  let host := (s.fn vf).dsr.getLsbD 0 && !handler
  let s := { s with nextCid := freshRec (cid + 1), ctxs := insert s.ctxs cid { Ctx.admitted cid vf sup prio q r b handler with reqOpen := host } }
  let s := s.modPorter hall fun p => { p with held := p.held ++ [⟨q, vf, prio, r, some cid⟩] }
  if host then s.postEvent .placeRequest vf hall (q + 2 ^ 32 * r.seq.toNat + 2 ^ 64 * r.w + 2 ^ 80 * r.h)
  else s.push (.contextPlacement q .fromRecord)

/-- A launch block where the Porter can read one. -/
def State.readBlock (s : State) (vf : Nat) (sup : Bool) (r : LaunchRec) : State × Option Nat :=
  if r.lblk.toNat % 64 != 0 then (s, none)
  else match s.porterXlate vf r.asid sup .load ⟨[0], some .aperture, false⟩ r.lblk with
    | (s, .ok (.mem pa _ _ _)) =>
      let (s, x) := s.readMem pa 64
      (s, some x)
    | (s, _) => (s, none)

/-- Check 4 of R374. -/
def State.shapeOk (s : State) (r : LaunchRec) : Bool :=
  r.h ≤ 12 && (if r.fixed then s.rectGood ⟨r.x0, r.y0, r.w, r.h⟩ else (originsOf r.w r.h).any s.rectGood)

/-- With no Hall left every launch is refused with cause 4 (R443). The checks of R374 from the second on, then admission, MARK or refusal. `need` is what a handler launch adds to check 2. -/
def State.launch (s : State) (hall q vf prio : Nat) (x : Nat) (handler : Bool) (need : W64 → LaunchRec → Bool) : State × Bool :=
  let r := launchRec x
  if (s.die 0).st == .withdrawn && (s.die 1).st == .withdrawn then (s.refuse hall q vf false r 4, false)
  else if !recordOk x then (s.refuse hall q vf false r 1, false)
  else
    let (s, a) := s.asidEntry none r.asid
    let sup := asidSup a
    if !(s.astb.getLsbD 0 && a.getLsbD 0 && asidVf a == vf && need a r) then (s.refuse hall q vf sup r 2, false)
    else if r.kind == 2 then
      (if r.crec == 0 then s else (s.writeRecord vf r.asid hall sup r.crec ⟨r.seq, 0xFFFFFFFF, 0, 0, 0, 0⟩).1, true)
    else match s.readBlock vf sup r with
      | (s, none) => (s.refuse hall q vf sup r 3, false)
      | (s, some x) =>
        if !blockOk x then (s.refuse hall q vf sup r 3, false)
        else if !s.shapeOk r then (s.refuse hall q vf sup r 4, false)
        else if !(launchBlock x).fits then (s.refuse hall q vf sup r 5, false)
        else (s.enrol hall q vf prio sup r (launchBlock x) handler, true)

/-- R373, R374: the Porter takes the next record. -/
def execPorterRecordSelect (hall : Nat) (s : State) : Host.Outcome State Fault Refusal :=
  .next (
    if !s.qtb.getLsbD 0 then s
    else match State.selectFrom (s.queuesOf hall) none s with
      | (s, none) => s
      | (s, some p) =>
        let (s, x) := s.readMem (p.ring + 128 * (p.head.toNat % 2 ^ p.logn)) 128
        let t := (s.writeMem (s.queueAt p.q + 16) 4 (p.head + 1).toNat).launch hall p.q p.vf p.prio x false fun _ _ => true
        s.unlessFull p.vf (t.1.push (.porterRecordSelect hall)))

/-! ## Placement (R375, R377) -/

def Crew.fresh (core alcove tags : Nat) : Crew :=
  { core := core, st := .waiting, alcBase := 0, alcSize := alcove, tagBase := 0, tags := List.replicate tags TagSt.empty,
    accs := Vector.replicate 16 Acc.fresh, accOut := [], tiles := Vector.replicate 16 none, tileOrder := [],
    ban := Vector.replicate 8 BanCore.empty, flights := [], sig := 0, frames := 0, frameLow := false, status := 0, released := false }

/-- The launch stands at an origin, and its reservations begin. -/
def State.place (s : State) (cid : Nat) (r : Rect) : State :=
  match s.ctx cid with
  | none => s
  | some c =>
    let crews := r.cores.map fun n => Crew.fresh n c.blk.alcove c.blk.tags
    (s.setCtx cid { c with rect := r, crews := crews, placed := true, reqOpen := false }).pushAll
      (r.cores.map fun n => .resourceReservation cid n)

/-- The Porter's default origin for a launch that does not fix one: the first where every crew fits now, else the first good one; a core
that R397 has frozen is passed over where another origin has none. -/
def State.pickOrigin (s : State) (c : Ctx) : Option Rect :=
  let good := (originsOf c.rcd.w c.rcd.h).filter s.rectGood
  let good := match good.filter fun r => r.cores.all fun n => !(s.core n).frozen with
    | [] => good
    | l => l
  (good.find? fun r => r.cores.all fun n => (s.room n c.blk).isSome) <|> good.head?

/-- The held context of a queue that has no place yet. -/
def State.heldCtx (s : State) (q : Nat) : Option Ctx :=
  (s.porters.toList.flatMap fun p => p.held.filter fun h => h.q == q).findSome? fun h => h.cid.bind s.ctx

/-- R375: the origin of an admitted launch. In host-assisted mode only a PLACE names it; in hardware mode the record does, or the
Porter by its policy, which `origin` may carry. -/
def execContextPlacement (q : Nat) (origin : Origin) (s : State) : Host.Outcome State Fault Refusal :=
  .next (match s.heldCtx q with
    | none => s
    | some c =>
      if c.placed || c.st != .placing then s
      else
        let fixed : Rect := ⟨c.rcd.x0, c.rcd.y0, c.rcd.w, c.rcd.h⟩
        match origin with
        | .fromRecord =>
          if c.reqOpen then s
          else if c.rcd.fixed then s.place c.cid fixed
          else match s.pickOrigin c with
            | some r => s.place c.cid r
            | none => s
        | .at x y =>
          let r : Rect := ⟨x, y, c.rcd.w, c.rcd.h⟩
          if c.reqOpen || !s.rectGood r || (c.rcd.fixed && r != fixed) then s else s.place c.cid r)

/-! ## Reservation and commit (R376, R378) -/

/-- The bind records of a crew, in the order of the entries (R176): entry number and group number. -/
def LaunchBlock.groupEntries (b : LaunchBlock) : List (Nat × Nat) :=
  let es := b.used.flatMap fun e => List.replicate e.2.groups e.1
  es.zip (List.range es.length)

def Ctx.bindRecord (c : Ctx) (k : Crew) (crew : Nat) (e : Nat × Nat) : Bind :=
  { commit := false, entry := e.1, prio := c.prio, cid := c.cid, asid := c.asid, group := e.2, tagb := k.tagBase, alcb := k.alcBase, alcn := k.alcSize,
    crew := crew, frame := none, shown := 0, regs := 0, extra := false }

/-- Reserve a crew's resources on its core. -/
def State.reserve (s : State) (c : Ctx) (crew : Nat) (k : Crew) (slots : List Nat) (a t : Nat) : State :=
  let k := { k with st := .reserved, alcBase := a, tagBase := t }
  let s := s.modCrew c.cid crew fun _ => k
  (slots.zip c.blk.groupEntries).foldl (fun s x => s.modCore k.core fun y => { y with slots := insert y.slots x.1 (c.bindRecord k crew x.2) }) s

/-- COMMIT is set in a crew's records. -/
def State.commitCrew (s : State) (cid crew : Nat) : State :=
  match s.ctx cid with
  | none => s
  | some c =>
    match c.crew crew with
    | none => s
    | some k =>
      let mine (b : Bind) : Bool := b.cid == cid && b.crew == crew
      let s := s.modCrew cid crew fun k => { k with st := .committed }
      (s.modCore k.core fun y => { y with slots := y.slots.map fun (x : Nat × Bind) => (x.1, if mine x.2 then { x.2 with commit := true } else x.2) }).push
        (.groupStart cid k.core)

/-- What the Porter holds for a context is given up; its queue may be served again. -/
def State.unhold (s : State) (cid : Nat) : State :=
  if s.porters.toList.any fun p => p.held.any fun h => h.cid == some cid then
    { s with porters := mapEach s.porters fun (p : Porter) => { p with held := p.held.filter fun h => h.cid != some cid } }.pushAll
      [.porterRecordSelect 0, .porterRecordSelect 1]
  else s

/-- Crews whose reservations are complete commit: with GANG = 1 only when all are. The record commits with its last crew. -/
def State.commitReady (s : State) (cid : Nat) : State :=
  match s.ctx cid with
  | none => s
  | some c =>
    let ready := (List.range c.crews.length).filter fun n => (c.crew n).any fun k => k.st == .reserved
    if ready.isEmpty || (c.blk.gang && ready.length < c.crews.length) then s
    else
      let s := s.modCtx cid fun c => if c.st == .placing then { c with st := .running } else c
      let s := ready.foldl (fun s n => s.commitCrew cid n) s
      match s.ctx cid with
      | some c => if c.crews.all fun k => k.st != .waiting then s.unhold cid else s
      | none => s

/-- R376: the reservation of a crew on one core, where its resources are free. -/
def execResourceReservation (cid core : Nat) (s : State) : Host.Outcome State Fault Refusal :=
  .next (match s.ctx cid with
    | none => s
    | some c =>
      if !(c.st == .placing || c.st == .running) || !c.placed || !c.rect.has core || (s.die (hallOf core)).st != .good then s
      else
        let n := c.rect.index core
        match c.crew n with
        | none => s
        | some k =>
          if k.st != .waiting then s
          else match s.room core c.blk with
            | none => s
            | some (slots, a, t) => (s.reserve c n k slots a t).commitReady cid)

/-! ## The start of groups (R376, R44, R182) -/

def roleOf (roles : Bool) (entry : Nat) : Role :=
  if !roles then .general else match entry with | 0 => .copy | 1 => .matrix | _ => .vector

/-- A launch frame starts in its slot. -/
def State.startGroup (s : State) (cid : Nat) (c : Ctx) (core slot : Nat) (b : Bind) : State :=
  match c.blk.entries.toList[b.entry]? with
  | none => s
  | some e =>
    let g := Group.start (roleOf c.blk.roles b.entry) e.vregs e.uregs b.crew b.group e.pc (BitVec.allOnes 32) c.rcd.arg s.ac
    let (s, h) := s.newFrame cid b.crew (fun h => { Frame.new none .launch .running e.pc (BitVec.allOnes 32) core slot g with regs := regsOf h }) true
    s.modCore core fun y => { y with slots := insert y.slots slot { b with frame := some h, shown := h, regs := regsOf h } }

/-- The ASID sweep of a launch (R102, R104, R110): of every core of its rectangle before its first group, so that a continuation may be stolen to any
of them; of a crew's own core again before the crew's groups. -/
def State.launchSweep (s : State) (c : Ctx) (core : Nat) : State :=
  let first := c.crews.all fun k => k.st == .waiting || k.st == .reserved || k.st == .committed
  (if first then c.rect.cores else [core]).foldl (fun s n => s.sweep n c.cid noHandle c.asid) s

/-- R376: a core starts a committed crew: the ASID sweep, the Alcove zeroed, then its groups. -/
def execGroupStart (cid core : Nat) (s : State) : Host.Outcome State Fault Refusal :=
  .next (match s.ctx cid with
    | none => s
    | some c =>
      let n := c.rect.index core
      match c.crew n with
      | none => s
      | some k =>
        if c.st != .running || k.st != .committed || k.core != core then s
        else
          let s := s.launchSweep c core
          let s := s.modCore core fun y => { y with alcove := Mem.clear y.alcove (1024 * k.alcBase) (1024 * k.alcSize) }
          let s := s.modCrew cid n fun k => { k with st := .running }
          ((s.core core).slots.filter fun (x : Nat × Bind) => x.2.cid == cid && x.2.crew == n).foldl
            (fun s x => s.startGroup cid c core x.1 x.2) s)

/-! ## Completion (R111, R184, R380, R381) -/

/-- R381: a future that the Porter resolves: the signature is ORed into its block by four operations of its bank, and the state change, which
goes behind them, leaves a word that is resolved already as it stands (R58, R108, R188). -/
def State.porterResolve (s : State) (c : Ctx) (die core : Nat) (va : W64) (status cause : Nat) (σ : SigBits) : State :=
  match s.porterXlate c.vf c.asid c.sup .atomic ⟨[1], some .aperture, false⟩ va with
  | (s, .ok (.atrium off)) =>
    let (s, ors) := s.sendSig core c.cid noHandle c.asid .drop off 64 σ
    (s.send fun id => { id := id, page := none, core := core, cid := c.cid, h := noHandle, asid := c.asid,
                        op := .resolve off (BitVec.ofNat 64 (status + 256 * cause)) (status != 0) core 0 true, dst := .drop, lanes := 0,
                        nak := false, again := false, after := ors }).push (.futureResolutionOp s.nextReq)
  | (s, .fault x) => s.recordFault c.vf die c.cid x
  | (s, _) => s

/-- The engines and frames of a crew are done (R111). -/
def State.crewDone (s : State) (c : Ctx) (crew : Nat) : Bool :=
  c.frames.all (fun x => x.2.group.crew != crew || x.2.st == .complete) && c.late.all (fun r => r.home != crew) &&
    c.rect.cores.all fun n =>
      (s.core n).ce.all (fun r => !(r.cid == c.cid && r.home == crew)) && (s.core n).arr.all fun o => !(o.cid == c.cid && o.home == crew)

/-- A crew's allocation is still used by frames or engine work of other crews (R184). -/
def State.crewLent (s : State) (c : Ctx) (crew : Nat) (core : Nat) : Bool :=
  c.frames.any (fun x => x.2.st != .complete && x.2.lent.contains crew) || (s.core core).ce.any (fun r => r.cid == c.cid && r.crew == crew) ||
    (s.core core).arr.any fun o => o.cid == c.cid && o.crew == crew

/-- Free a crew's slots, Alcove and tags. -/
def State.releaseCrew (s : State) (cid crew : Nat) : State :=
  match (s.ctx cid).bind (·.crew crew) with
  | none => s
  | some k =>
    let s := s.modCrew cid crew fun k => { k with released := true }
    let s := (s.modCore k.core fun y =>
      { y with slots := y.slots.filter (fun x => !(x.2.cid == cid && x.2.crew == crew)), accsIn := y.accsIn.filter (fun x => !(x.1 == cid && x.2.1 == crew)),
               tilesIn := y.tilesIn.filter (fun x => !(x.1 == cid && x.2.1 == crew)),
               racing := y.racing.filter fun x => !(x.cid == cid && x.crew == crew) }).retryReservations k.core
    let waiting := (s.core k.core).ready ++ (s.core k.core).entries
    s.pushAll (((s.unreserved k.core).take waiting.length).map fun n => .slotBind k.core n none)

/-- Write a crew's record and resolve its future; its flight signatures end with it (R113). -/
def State.recordCrew (s : State) (cid crew status cause : Nat) : State :=
  match s.ctx cid with
  | none => s
  | some c =>
    match c.crew crew with
    | none => s
    | some k =>
      let die := hallOf k.core
      let (s, σ) := if c.rcd.crec == 0 then (s, (0 : SigBits))
        else match s.writeRecord c.vf c.asid die c.sup (c.rcd.crec + BitVec.ofNat 64 (32 * (crew + 1))) ⟨c.rcd.seq, crew, status, cause, cid, 0⟩ with
          | (s, .ok σ) => (s, σ)
          | (s, .error x) => (s.recordFault c.vf die cid x, 0)
      let s := if c.rcd.cfut == 0 then s
        else s.porterResolve c die k.core (c.rcd.cfut + BitVec.ofNat 64 (320 * crew)) status cause (k.sig ||| σ)
      s.modCrew cid crew fun k => { k with st := .complete, status := status, flights := [] }

/-- The lines of a completion area, as a signature. -/
def Ctx.areaSig (s : State) (c : Ctx) : State × SigBits :=
  if c.rcd.crec == 0 then (s, 0)
  else (List.range (c.crews.length + 1)).foldl (fun (x : State × SigBits) n =>
    match x.1.porterXlate c.vf c.asid c.sup .store ⟨[0, 1, 2], none, false⟩ (c.rcd.crec + BitVec.ofNat 64 (32 * n)) with
    | (s, .ok p) => (s, x.2 ||| placeSig p)
    | (s, _) => (s, x.2)) (s, 0)

/-- What names a context elsewhere goes with it. -/
def State.dropCtx (s : State) (cid : Nat) : State :=
  let s := { s with
    ctxs := remove s.ctxs cid, gallery := s.gallery.filter fun x => x.2.1 != cid, sigOwner := s.sigOwner.filter fun x => x.2 != cid,
    cores := s.cores.map fun (x : Nat × Core) => (x.1, { x.2 with
      regLines := x.2.regLines.filter fun l => l.cid != cid,
      ready := x.2.ready.filter fun f => f.cid != cid }.setEntries (x.2.entries.filter fun f => f.cid != cid)) }
  s.wakeAll (· == .haltc cid)

/-- R381: when every crew record is written, the summary is, then LFUT is resolved; the context is over. -/
def State.finishLaunch (s : State) (cid core status cause : Nat) : State :=
  match s.ctx cid with
  | none => s
  | some c =>
    if c.summary || !c.crews.all (fun k => k.st == .complete) then s
    else
      let die := hallOf core
      let count := (c.crews.filter fun k => k.status == 0).length
      let s := if c.rcd.crec == 0 then s
        else match s.writeRecord c.vf c.asid die c.sup c.rcd.crec ⟨c.rcd.seq, 0xFFFFFFFF, status, cause, cid, count⟩ with
          | (s, .ok _) => s
          | (s, .error x) => s.recordFault c.vf die cid x
      let s := if c.rcd.lfut == 0 then s
        else
          let (s, lines) := c.areaSig s
          s.porterResolve c die core c.rcd.lfut status cause (c.crews.foldl (fun σ k => σ ||| k.sig) lines)
      s.modCtx cid fun c => { c with summary := true }

/-- A context whose summary is written and whose resources are all free is gone; a handler launch may start again. -/
def State.closeCtx (s : State) (cid : Nat) : State :=
  match s.ctx cid with
  | none => s
  | some c =>
    if !c.summary || !c.crews.all (·.released) then s
    else
      let s := (s.unhold cid).dropCtx cid
      if c.handler then (s.modFn c.vf fun f => { f with handler := none }).push (.handlerLaunchStart c.vf) else s

/-- R111: a crew that has nothing left to do is complete; a crew that had lent its core frees it once it may (R184). -/
def execCrewCompletion (cid crew : Nat) (s : State) : Host.Outcome State Fault Refusal :=
  .next (match s.ctx cid with
    | none => s
    | some c =>
      match c.crew crew with
      | none => s
      | some k =>
        if c.st != .running then s
        else
          let s := if k.st == .running && s.crewDone c crew then (s.recordCrew cid crew 0 0).finishLaunch cid k.core 0 0 else s
          match s.ctx cid with
          | none => s
          | some c =>
            match c.crew crew with
            | none => s
            | some k =>
              if k.st == .complete && !k.released && !s.crewLent c crew k.core then (s.releaseCrew cid crew).closeCtx cid else s)

/-! ## Handler launches (R384) -/

/-- The queue number under which a handler launch is held: no queue has it. -/
def handlerQueue (vf : Nat) : Nat := 256 + vf

/-- A function's privileged ring holds an event. -/
def State.ringWaits (s : State) (vf : Nat) : State × Bool :=
  match s.privQueue vf with
  | (s, some (_, q)) => (s, q.head != q.etail)
  | (s, none) => (s, false)

/-- R384: the Porter starts a function's handler. A refused launch is not tried again until EVHL or EVHA is written. A record that
cannot be read has no fields to trust: its cause is BAD_RECORD, or ASID where its address space is not as R384 asks. -/
def execHandlerLaunchStart (vf : Nat) (s : State) : Host.Outcome State Fault Refusal :=
  .next (s.unlessFull vf <|
    let f := s.fn vf
    let hall := if (s.die 0).st == .good then 0 else 1
    if f.evhl == 0 || f.handlerOff || f.handler.isSome || f.frozen || (s.die hall).st != .good || !(s.die hall).auth then s
    else match s.ringWaits vf with
      | (s, false) => s
      | (s, true) =>
        let asid := f.evha.toNat
        let (s, a) := s.asidEntry none asid
        let off (s : State) (cause : Nat) (r : LaunchRec) : State :=
          (s.refuse hall 0xFF vf (asidSup a) r cause).modFn vf fun f => { f with handlerOff := true }
        if !(s.astb.getLsbD 0 && a.getLsbD 0 && asidSup a && asidVf a == vf) then off s 2 (launchRec 0)
        else if f.evhl.toNat % 128 != 0 then off s 1 (launchRec 0)
        else match s.porterXlate vf asid true .load ⟨[0], some .aperture, false⟩ f.evhl with
          | (s, .ok (.mem pa _ _ _)) =>
            let (s, x) := s.readMem pa 128
            let cid := s.freshCid
            match s.launch hall (handlerQueue vf) vf f.ceil.toNat x true (fun a r => r.asid == asid && asidSup a) with
            | (s, true) => s.modFn vf fun f => { f with handler := if (s.ctx cid).isSome then some cid else none }
            | (s, false) => s.modFn vf fun f => { f with handlerOff := true }
          | (s, _) => off s 1 (launchRec 0))

/-! ## Windows of time (R373, R377) -/

/-- Group slots a function's contexts hold, bound or reserved. -/
def State.slotsHeld (s : State) (vf : Nat) : Nat :=
  (s.cores.map fun (c : Nat × Core) => (c.2.slots.filter fun b => (s.ctx b.2.cid).any fun x => x.vf == vf).length).foldl (· + ·) 0

/-- Contexts of a function that stand pre-empted for other functions' work. -/
def State.preempted (s : State) (vf : Nat) : Nat := (s.ctxs.filter fun c => c.2.vf == vf && c.2.st == .saved && c.2.byOther).length

/-- Time that has passed is charged for the slots held and for the contexts pre-empted. -/
def State.charge (s : State) (u : Nat) : State :=
  { s with fns := Vector.ofFn fun i =>
    let f := s.fns[i]
    { f with served := f.served + u * s.slotsHeld i.val, spent := f.spent + u * s.preempted i.val } }

/-- The windows of served time and of pre-emption budgets: 1 ms and 16 ms. -/
def shareWindow : Nat := 1000000 * unitsPerNs
def budgetWindow : Nat := 16000000 * unitsPerNs

/-- When the latest window began, of windows one after another from a start. -/
def windowStart (start len now : Nat) : Nat := start + (now - start) / len * len

/-- R373: once a window is over, the served times restart at 0 at the start of the next; what is held since then is charged. -/
def State.restartShares (s : State) : State :=
  if s.shareStart + shareWindow ≤ s.time then
    let now := windowStart s.shareStart shareWindow s.time
    { s with shareStart := now, fns := Vector.ofFn fun i => { s.fns[i] with served := (s.time - now) * s.slotsHeld i.val } }
  else s

/-- R377: the same for the pre-emption budgets. -/
def State.restartBudgets (s : State) : State :=
  if s.budgetStart + budgetWindow ≤ s.time then
    let now := windowStart s.budgetStart budgetWindow s.time
    { s with budgetStart := now, fns := Vector.ofFn fun i => { s.fns[i] with spent := (s.time - now) * s.preempted i.val } }
  else s

def execShareWindowRestart (s : State) : Host.Outcome State Fault Refusal := .next s.restartShares
def execPreemptBudgetWindow (s : State) : Host.Outcome State Fault Refusal := .next s.restartBudgets

end Sys2Proof.Machine
end

