-- ==== Sys2Proof/Machine/Image.lean ====
section
/-! DEFINITION. Context images as bytes (R399): register lines (R169), frames (R180), stop records (R393), copy and engine records
(R165, R399), divergence stacks (R173), accumulators (R332) and the header. What sections 3, 4, 8, 10 and 11 hold the spec says, not their
bytes: the layout is the model's, and what they hold is restored from State (assumption 52). -/

namespace Sys2Proof.Machine

/-- Write items in turn. -/
def writeAll {α : Type} (f : Mem → α → Mem) (m : Mem) (l : List α) : Mem := l.foldl f m

/-! ## Frames (R180) -/

/-- Values of given widths in bytes, one after another. -/
def pack : List (Nat × Nat) → Nat
  | [] => 0
  | (n, x) :: l => x % 2 ^ (8 * n) + 2 ^ (8 * n) * pack l

/-- The resume PC: of a frame in its slot, where its group stands; of any other, the one it left with. -/
def Frame.resumePc (f : Frame) : W64 :=
  if f.st == .running && !((List.range 4).filterMap f.group.split).isEmpty then f.group.resumePc else f.pc

def Frame.header (f : Frame) (h : Nat) : Nat :=
  let plane := f.plane.toList.foldr (fun (x : BitVec 5) n => x.toNat + 32 * n) 0
  pack ([(4, f.parent.getD noHandle), (4, h), (8, f.resumePc.toNat % 2 ^ 57), (20, plane), (4, f.mask.toNat),
         (4, f.kindWord), (4, 0)] ++ f.links.toList.map (fun x => (4, x.toNat)) ++
        f.futs.toList.map (fun x => (8, x.toNat)) ++
        [(8, f.awb.toNat), (8, regsOf h), (4, coreX f.core + 32 * coreY f.core + 512 * f.slot), (12, 0)])

/-! ## Stop records (R393) -/

/-- The byte of a code, 0 for none (R389). -/
def codeNum (c : Option FaultCode) : Nat :=
  match c with
  | some c => c.byte.toNat
  | none => 0

def StopRec.word (r : StopRec) : Nat :=
  pack [(1, r.src), (1, codeNum r.code), (1, r.subc.toNat),
        (1, r.precise.toNat + 2 * r.raiser.toNat + 4 * r.parked.toNat + 8 * r.waiting.toNat + 16 * r.woken.toNat), (2, r.dx + 32 * r.dy),
        (1, r.slot + 64 * r.split), (1, 0), (8, (r.moved.getD r.pc).toNat), (4, r.mask.toNat), (4, r.umask.toNat), (8, r.fva.toNat % 2 ^ 57), (4, r.iseq),
        (4, r.nrec), (8, r.time.toNat), (2, r.info.toNat), (1, r.fsubc.toNat), (13, 0)]

/-- Their order in section 0. -/
def StopRec.key (r : StopRec) (w : Nat) : Nat := (((r.dx + w * r.dy) * 8 + r.src) * 64 + r.slot) * 4 + r.split

def insertStop (w : Nat) (r : StopRec) : List StopRec → List StopRec
  | [] => [r]
  | x :: l => if r.key w < x.key w then r :: x :: l else x :: insertStop w r l

def sortStops (w : Nat) (l : List StopRec) : List StopRec := l.foldl (fun acc r => insertStop w r acc) []

/-! ## Copy and engine records (R165, R399) -/

def CopyKind.code : CopyKind → Nat
  | .cpy => 0 | .cpyz => 1 | .cpyr => 2 | .cpyl => 3 | .cpyt => 4

def instrBits (i : Instr) : Nat := ((encode i).map (·.toNat)).getD 0

def CopyRec.word (r : CopyRec) : Nat :=
  let st := match r.st with | .queued => 0 | .running | .done => 1 | .parked => 2 | .followOn => 3
  let sreg := match r.statVec, r.statUni with
    | some (v, _), _ => v
    | none, some u => u
    | none, none => 0
  let slane := match r.statVec with | some (_, l) => l | none => 0
  pack ([(1, r.kind.code), (1, r.tag), (1, st),
         (1, r.follow.isSome.toNat + 2 * r.bar.isSome.toNat + 4 * r.statVec.isSome.toNat + 8 * r.statUni.isSome.toNat + 16 * r.rop), (1, sreg),
         (1, slane), (1, r.rtype), (1, 16 * r.clamped.toNat + 32 * r.filled.toNat + 64 * r.overrun.toNat + 128 * r.replayed.toNat),
         (8, r.src.toNat % 2 ^ 57), (8, r.dst.toNat % 2 ^ 57), (4, r.len), (4, r.done), (8, (r.bar.getD 0).toNat % 2 ^ 57), (2, r.bphase),
         (1, r.valid), (1, 0), (4, r.seq), (12, (r.follow.map instrBits).getD 0), (4, 0)] ++ r.coords.toList.map (fun x => (4, x.toNat)) ++
        [(8, 0)] ++ r.fov.toList.map (fun x => (8, x.toNat)) ++ [(8, 0)])

def ArrOp.word (o : ArrOp) : Nat :=
  pack [(12, instrBits o.instr), (4, o.seq), (8, o.va.toNat), (8, o.vb.toNat), (8, o.vc.toNat), (4, o.next), (1, opSrc o.instr),
        (1, o.follow.isSome.toNat), (2, 0), (4, o.follow.getD 0), (12, 0)]

/-! ## The image -/

def imageStops : Nat := 0x1000
def imageCopies : Nat := 0x01000000
def imageOps : Nat := 0x02000000

/-- Put numbered items at their places. -/
def putEach {α : Type} (base size : Nat) (word : α → Nat) (m : Mem) (l : List α) : Mem :=
  writeAll (fun m (x : α × Nat) => Mem.writeN m (base + size * x.2) size (word x.1)) m (l.zip (List.range l.length))

/-! ## Sections whose layout is the model's (assumption 52) -/

def imageLoads : Nat := 0x1A000000
def imageDeques : Nat := 0x1B000000
def imageSlots : Nat := 0x1D000000
def imageStacks : Nat := 0x90000000

/-- Bytes of a core's part of sections 8 and 10, of a group slot's part of section 4, and of a Resolver slot in section 11. -/
def loadBytes : Nat := 16384
def dequeBytes : Nat := 65536
def stackBytes : Nat := 32768
def slotBytes : Nat := 16384

/-- A copy tag: count, ready bit, oldest sequence, signature (R152). -/
def TagSt.word (t : TagSt) : Nat := pack [(2, t.count), (1, (t.count == 0).toNat), (1, 0), (4, t.oldest), (256, t.sig.toNat)]

/-- A banister tag: phase, counts, subrectangles and signatures of what is counted and held (R319). -/
def BanCore.word (b : BanCore) (phase : Nat) : Nat :=
  pack [(2, phase), (2, b.counted), (2, b.n), (2, b.held), (2, b.heldN), (6, 0), (4, b.sub.toNat), (4, b.heldSub.toNat), (8, 0),
        (256, b.sig.toNat), (256, b.heldSig.toNat)]

/-- The waits of a core's frames for futures: each is a registration in the Gallery, its handle with the link and its future's address (R359). -/
def Ctx.regsOn (c : Ctx) (core : Nat) : List (Nat × Nat) :=
  c.frames.flatMap fun (x : Nat × Frame) =>
    if x.2.core != core || x.2.st == .complete then []
    else (List.range 4).filterMap fun i => if x.2.futs.toList[i]?.getD noFut == noFut then none else some (x.1 + 2 ^ 30 * i, (x.2.futs.toList[i]?.getD 0).toNat)

/-- The entries of a core's wait table for a context's splits, as registrations (R359): those of a halted context stay in the table itself. -/
def State.waitsOn (s : State) (c : Ctx) (core : Nat) : List (Nat × Nat) :=
  (s.core core).waits.filterMap fun w => match lookup (s.core core).slots w.slot with
    | some b => if b.cid == c.cid then b.frame.map fun h => (h, w.va.toNat) else none
    | none => none

/-- Bytes of a core's part of section 3: room for the flights and the registrations of every core of the context, with the four splits of 48 slots. -/
def Ctx.coreBytes (c : Ctx) : Nat :=
  0x6000 + 264 * (c.crews.foldl (fun n k => max n k.flights.length) 0) +
    16 * (192 + c.crews.foldl (fun n (k : Crew) => max n (c.regsOn k.core).length) 0)

/-- A crew's part of section 3: 64 tags from byte 0, 8 banister tags from 0x4800, how many flights and registrations follow at 0x5FF8; the
flights' signatures from 0x6000 (R113), then the registrations. -/
def Crew.putState (k : Crew) (phases : List Nat) (regs : List (Nat × Nat)) (at_ : Nat) (m : Mem) : Mem :=
  let m := putEach at_ 264 TagSt.word m k.tags
  let m := putEach (at_ + 0x4800) 544 (fun x => BanCore.word x.1 x.2) m (k.ban.toList.zip phases)
  let m := Mem.writeN m (at_ + 0x5FF8) 8 (pack [(4, k.flights.length), (4, regs.length)])
  let m := putEach (at_ + 0x6000) 264 (fun x => pack [(8, x.1), (256, x.2.toNat)]) m k.flights
  putEach (at_ + 0x6000 + 264 * k.flights.length) 16 (fun x => pack [(8, x.1), (8, x.2)]) m regs

/-- The 64 bytes behind an accumulator's image: the pre-operator and its K limit, the raster state, and the steps of the post-operator program
that still fit. A lattice and the rest of a program are kept in State alone. -/
def Acc.tail (a : Acc) : Nat :=
  let pre : Nat × Nat := match a.pre with | .lin kv => (0, kv) | .tr kv => (1, kv) | .win _ => (2, 0)
  let (some_, prims, samples, flags) : Nat × Nat × Nat × Nat := match a.raster with
    | some r => (1, r.prims, r.samples, r.flags.foldr (fun b n => b.toNat + 2 * n) 0)
    | none => (0, 0, 0, 0)
  pack ([(1, pre.1), (1, some_), (2, pre.2), (4, prims), (4, samples), (8, flags)] ++ (a.post.toList.take 5).map fun x => (8, x.toNat))

/-- A wait of a split, for section 4: a number for its kind, then what it holds. -/
def Wait.word : Wait → Nat × Nat
  | .none => (0, 0) | .await => (1, 0) | .future l => (2, l.getD 4) | .resolved off w => (3, w + 2 ^ 96 * off) | .tags => (4, 0)
  | .tagFirst t => (5, t) | .barrier => (6, 0) | .tread p => (7, p) | .banister t k => (8, t + 256 * ((k.map (· + 1)).getD 0))
  | .join => (9, 0) | .reorder => (10, 0) | .event => (11, 0) | .yield _ => (12, 0) | .request _ => (13, 0) | .maintain _ => (14, 0)
  | .haltc c => (15, c) | .access => (16, 0) | .fetch => (17, 0) | .release => (18, 0) | .stalled => (19, 0) | .held _ _ => (20, 0) | .parked _ => (21, 0)

/-- A split: PC, masks, wait and anchors. -/
def Split.word (sp : Split) : Nat :=
  pack ([(8, sp.pc.toNat), (4, sp.mask.toNat), (4, match sp.unfinished with | some u => u.toNat | none => 0), (1, sp.wait.word.1), (7, 0),
         (16, sp.wait.word.2), (4, sp.trapinfo.toNat), (20, 0)] ++ sp.anchors.toList.map fun a => (8, a.vbase.toNat))

/-- A divergence-stack entry (R173). -/
def StackEntry.word (x : StackEntry) : Nat :=
  pack ([(8, x.pc.toNat % 2 ^ 57), (4, x.mask.toNat), (1, x.emask.toNat), (3, 0)] ++ x.vb.toList.map (fun v => (8, v.toNat)) ++ [(48, 0)] ++
        x.u.toList.map fun v => (4, v.toNat))

/-- The parts of section 4: a frame in a slot has that of its slot, 48 a core; any other live frame has one after these. -/
def Ctx.slotParts (c : Ctx) : List (Nat × Nat) :=
  let bound (x : Nat × Frame) : Bool := x.2.st == .running
  let out := c.frames.filter fun x => !bound x && x.2.st != .complete
  ((c.frames.filter bound).map fun x => (x.1, 48 * c.rect.index x.2.core + x.2.slot)) ++
    (out.zip (List.range out.length)).map fun x => (x.1.1, 48 * c.crews.length + x.2)

/-- How many parts section 4 has. -/
def Ctx.partCount (c : Ctx) : Nat := c.slotParts.foldl (fun n x => max n (x.2 + 1)) (48 * c.crews.length)

/-- Where the divergence stack of a part begins: after its splits, which have 1,024 bytes each. -/
def stackBase (n : Nat) : Nat := imageStacks + stackBytes * n + 4096

/-- The splits of a group and its stack: the entry at depth d lies at the stack base + 384 × (d − 1); the top is the deepest. -/
def Group.putStack (g : Group) (n : Nat) (m : Mem) : Mem :=
  let m := writeAll (fun m k => match g.split k with
    | some sp => Mem.writeN m (imageStacks + stackBytes * n + 1024 * k) 128 sp.word
    | none => m) m (List.range 4)
  writeAll (fun m (x : StackEntry × Nat) => Mem.writeN m (stackBase n + 384 * x.2) 384 x.1.word) m (g.stack.reverse.zip (List.range g.stack.length))

/-- A load descriptor: the instruction, then its operands (R325). -/
def LoadDesc.word (d : LoadDesc) : Nat := pack [(12, instrBits d.instr), (4, 0), (8, d.va.toNat), (8, d.vb.toNat), (8, d.vc.toNat), (24, 0)]

/-- The load descriptors of a crew's filled tiles, in load order. -/
def Crew.loads (k : Crew) : List LoadDesc := k.tileOrder.flatMap fun t => match k.tile t with
  | some t => t.desc
  | none => []

/-- A list of handles, after its length. -/
def handleList (l : List Nat) : Nat := pack ((4, l.length) :: l.map fun h => (4, h))

/-- CTXRD selector 1. -/
def Ctx.cause (c : Ctx) : Nat := codeNum c.first + 2 ^ 32 * c.firstSeq

/-- The core whose Hall's Porter placed the context: its first. -/
def Ctx.die (c : Ctx) : Nat := hallOf (coreOf c.rect.x c.rect.y)

/-- Where section 3 begins: behind section 4. -/
def Ctx.imageCore (c : Ctx) : Nat := imageStacks + stackBytes * c.partCount

/-- The entries of SECT. -/
def Ctx.sections (c : Ctx) : List (Nat × Nat × Nat) :=
  let top := c.frames.foldl (fun n x => max n (x.1 + 1)) 0
  let n := c.crews.length
  [(0, imageStops, 64 * c.stops.length), (1, imageCopies, 128 * c.copies.length), (2, imageOps, 64 * c.ops.length), (3, c.imageCore, c.coreBytes * n),
   (4, imageStacks, stackBytes * c.partCount), (5, imageFrames, 384 * top), (6, imageRegs, 40960 * top), (7, imageAccs, 8320 * 16 * n), (8, imageLoads, loadBytes * n),
   (9, imageAlcoves, 1024 * c.blk.alcove * n), (10, imageDeques, dequeBytes * n), (11, imageSlots, slotBytes * c.slotsSaved.length)]

def Ctx.image0 (c : Ctx) (waits : Nat → List (Nat × Nat)) (st : Nat) (now : W64) : Mem :=
  let head := pack [(4, 1), (2, c.cid), (2, c.asid), (1, c.vf), (1, st), (1, c.rcd.cls.toNat), (1, 0), (4, c.rect.word.toNat), (8, c.cause),
                    (4, c.stops.length), (4, c.hseq), (8, now.toNat)]
  let m := Mem.writeN [] 0 40 head
  let m := writeAll (fun m (x : Nat × Nat × Nat) => Mem.writeN (Mem.writeN m (64 + 16 * x.1) 8 x.2.1) (72 + 16 * x.1) 8 x.2.2) m c.sections
  let m := putEach imageStops 64 StopRec.word m c.stops
  let m := putEach imageCopies 128 CopyRec.word m c.copies
  let m := putEach imageOps 64 ArrOp.word m c.ops
  let m := writeAll (fun m (x : Nat × Frame) =>
    Mem.writeN (Mem.writeN m (imageFrames + 384 * x.1) 128 (x.2.header x.1)) (imageFrames + 384 * x.1 + 128) 256 x.2.sig.toNat) m c.frames
  let m := writeAll (fun m (x : Nat × Frame) => x.2.group.putLines (regsOf x.1) m) m c.frames
  let m := writeAll (fun m (x : Nat × Nat) => match lookup c.frames x.1 with
    | some fr => fr.group.putStack x.2 m
    | none => m) m c.slotParts
  let m := writeAll (fun m (x : Crew × Nat) =>
    let m := writeAll (fun m n =>
      let at_ := imageAccs + 8320 * (16 * x.2 + n)
      Mem.writeN (Mem.place m at_ (x.1.acc n).image) (at_ + 8256) 64 (x.1.acc n).tail) m (List.range 16)
    let m := x.1.putState c.banPhase.toList (c.regsOn x.1.core ++ waits x.1.core) (c.imageCore + c.coreBytes * x.2) m
    putEach (imageLoads + loadBytes * x.2) 64 LoadDesc.word m x.1.loads) m (c.crews.zip (List.range c.crews.length))
  let m := writeAll (fun m (x : Nat × List Nat × List Nat) => Mem.writeN m (imageDeques + dequeBytes * x.1) (4 + 4 * x.2.1.length) (handleList x.2.1)) m c.queued
  putEach imageSlots slotBytes (fun (x : Nat × Bool × List (Nat × BitVec 96)) =>
    x.2.2.foldl (fun n y => n + 2 ^ (64 + 96 * y.1) * y.2.toNat) (pack [(4, x.1), (4, x.2.1.toNat)])) m c.slotsSaved

/-- The handles of a context in the deque of each of its cores: of a halted context, what the core has spilled of it (R183). -/
def State.dequesOf (s : State) (c : Ctx) : List (Nat × List Nat × List Nat) :=
  if !c.queued.isEmpty then c.queued
  else (List.range c.rect.cores.length).map fun n =>
    (n, ((s.core ((c.rect.cores[n]?).getD 0)).spilled.filter fun x => x.cid == c.cid).map (·.handle), [])

/-- The image is written, with STATE 3 or 4 in its header. -/
def State.materialise (s : State) (cid st : Nat) : State :=
  let s := s.fetchAll cid
  match s.ctx cid with
  | none => s
  | some c =>
    let c := { c with stops := sortStops c.rect.w c.stops }
    s.setCtx cid { c with image := { c with queued := s.dequesOf c }.image0 (s.waitsOn c) st (s.counter c.die) }

end Sys2Proof.Machine
end

