-- ==== Sys2Proof/Machine/Halt.lean ====
section
/-! DEFINITION. Halts (R391 to R394), the kill and the resume (R363, R396, R397), single steps (R406), HALTC, CTXRD and CTXWR (R362,
R363), pre-emption, late completions and restores (R167, R400 to R403, R425), frozen masters (R397), and evictions of accumulators
(R321). -/

namespace Sys2Proof.Machine

/-! ## What a core does when it stops work of a context -/

/-- A split whose access has been answered in every lane has performed its instruction: it stands at the next one (R391 step 4, R394). -/
def State.endAccess (s : State) (f : Focus) : State :=
  match Env.of s f with
  | some e => match e.sp.wait == .access && e.sp.unfinished == some 0, e.sp.issued with
    | true, some (_, w) => e.next (unpackHdr w) 1 s
    | _, _ => s
  | none => s

/-- Results in flight of the context's groups on a core reach their registers (R391 step 4). -/
def State.settleResults (s : State) (cid core : Nat) : State :=
  (s.core core).slots.foldl (fun s (x : Nat × Bind) =>
    match x.2.frame with
    | some h =>
      if x.2.cid == cid then
        let s := (List.range 4).foldl (fun s k => s.endAccess ⟨core, x.1, k⟩) s
        (s.flushResults core x.1 cid h).modGroup cid h Group.commitAll
      else s
    | none => s) s

/-- The engines of a core give up the context's work: its records go to the image, but those of an engine that met its violation (R397). Its
register lines stay in the cache, evictable (R170). -/
def State.takeEngines (s : State) (cid core : Nat) : State :=
  let s := s.wholePrimitives cid core
  let c := s.core core
  let ce := c.ce.filter fun r => r.cid == cid
  let arr := c.arr.filter fun o => o.cid == cid
  let s := s.modCore core fun c =>
    { c with ce := c.ce.filter (fun r => r.cid != cid), arr := c.arr.filter fun o => o.cid != cid }
  (s.modCtx cid fun c =>
    { c with copies := c.copies ++ (if c.offenders.contains (c.engineOf 1 core) then [] else ce),
             ops := c.ops ++ arr.filter fun o => !c.offenders.contains (c.engineOf (opSrc o.instr) core) }).rearm core

/-! ## Stop records (R393, R394) -/

/-- Waits that a stop record marks WAITING (R394). -/
def Wait.waiting : Wait → Bool
  | .await | .future _ | .resolved _ _ | .tags | .tagFirst _ | .barrier | .tread _ | .banister _ _ | .join | .reorder | .event => true
  | _ => false

/-- Waits of an instruction that has issued and whose operation completes by itself (R367, R394). -/
def Wait.issued : Wait → Bool
  | .request _ | .maintain _ | .haltc _ => true
  | _ => false

/-- The stop record of one split. One that has issued its instruction of a single step carries CODE 0x21 beside what it waits for or is parked
on; any other fault is taken before the instruction waits (R394, R406). -/
def State.splitStop (s : State) (c : Ctx) (core slot k h : Nat) (sp : Split) : StopRec :=
  let r : StopRec := { StopRec.blank with dx := coreX core - c.rect.x, dy := coreY core - c.rect.y, slot := slot, split := k, handle := h, mask := sp.mask,
                                          pc := if sp.wait.issued then nextPc sp.pc else sp.pc, waiting := sp.wait.waiting,
                                          time := s.counter (hallOf core) }
  let r : StopRec := match sp.wait with
    | .parked p => { r with code := some p.code, precise := true, parked := true, woken := p.woken, umask := p.umask, fva := p.fva }
    | _ => r
  match sp.stop with
  | none => r
  | some t =>
    if t.code == .step then { r with code := some t.code, precise := t.precise }
    else { r with code := some t.code, subc := t.subc, precise := t.precise, raiser := sp.raiser, umask := t.umask, fva := t.fva, info := t.info,
                  pc := sp.pc, waiting := false, parked := false, woken := false }

/-- The stop records of the splits bound on a core. -/
def State.splitStops (s : State) (c : Ctx) (core : Nat) : List StopRec :=
  (s.core core).slots.flatMap fun (x : Nat × Bind) =>
    match x.2.frame with
    | some h =>
      if x.2.cid == c.cid then
        match lookup c.frames h with
        | some fr => (List.range 4).filterMap fun k => (fr.group.split k).map fun sp => s.splitStop c core x.1 k h sp
        | none => []
      else []
    | none => []

/-- The stop record of an engine that held work, `new`: one of a fault it met gets its count and its time, or there is a new one. -/
def engineStop (l : List StopRec) (same : StopRec → Bool) (new : StopRec) : List StopRec :=
  let mine (r : StopRec) : Bool := r.src == new.src && same r
  if l.any mine then l.map fun (r : StopRec) => if mine r then { r with nrec := new.nrec, time := new.time } else r
  else if new.nrec == 0 then l
  else l ++ [new]

/-- A split whose instruction the gather and texel unit performs, with lanes still to perform. -/
def Split.inTexel (sp : Split) : Bool := sp.wait == .access && sp.unfinished.isSome && match sp.issued with
  | some (_, w) => match decode w with
    | .ok (.ldlod _ _) | .ok (.txg _ _) | .ok (.resq _ _) => true
    | _ => false
  | none => false

/-- The count and the time of an engine's record that a fault has made outside a halt: while saving or saved, or late (R393, R403). -/
def Ctx.countStop (c : Ctx) (now : Nat → W64) (r : StopRec) : StopRec :=
  let x := c.stopEngine r
  if r.src == 0 || r.time != 0 then r
  else
    { r with nrec := (c.copies.filter fun q => r.src == 1 && c.coreOfCrew q.crew == x.2).length +
               (c.ops.filter fun o => c.engineOf (opSrc o.instr) (c.coreOfCrew o.crew) == x).length,
             time := now (hallOf (coreOf (c.rect.x + r.dx) (c.rect.y + r.dy))) }

def State.countStops (s : State) (cid : Nat) : State :=
  s.modCtx cid fun c => { c with stops := c.stops.map (c.countStop s.counter) }

/-- Whether a core's gather and texel unit held work of a context. -/
def State.texelHeld (s : State) (c : Ctx) (core : Nat) : Bool :=
  (s.core core).slots.any fun (x : Nat × Bind) => x.2.cid == c.cid && match x.2.frame.bind (lookup c.frames ·) with
    | some fr => (List.range 4).any fun k => (fr.group.split k).any Split.inTexel
    | none => false

/-- The stop records of a core's CE, its Array and its gather and texel unit, which writes no engine records. -/
def State.coreStops (s : State) (c : Ctx) (core : Nat) : List StopRec :=
  let dx := coreX core - c.rect.x
  let dy := coreY core - c.rect.y
  let now := s.counter (hallOf core)
  let nc := (c.copies.filter fun r => c.coreOfCrew r.crew == core).length
  let na := (c.ops.filter fun o => c.coreOfCrew o.crew == core && opSrc o.instr == 2).length
  let here : StopRec := { StopRec.blank with dx := dx, dy := dy, time := now }
  let same (r : StopRec) : Bool := r.dx == dx && r.dy == dy
  let l := engineStop (c.stops ++ s.splitStops c core) same { here with src := 1, nrec := nc }
  let l := engineStop l same { here with src := 2, nrec := na }
  if s.texelHeld c core then l ++ [{ here with src := 3 }] else l

/-- The stop records of the Binners and the Resolvers, one a unit: the record of an operation that faulted gets the count and the time, else it
stands at the first core of the Hall whose work the unit held (assumption 65). -/
def State.hallStops (s : State) (c : Ctx) : List StopRec :=
  [(0, 4), (0, 5), (1, 4), (1, 5)].foldl (fun l (x : Nat × Nat) =>
    let held := c.ops.filter fun o => hallOf (c.coreOfCrew o.crew) == x.1 && opSrc o.instr == x.2
    let core := match held with
      | [] => 0
      | o :: _ => c.coreOfCrew o.crew
    engineStop l (fun r => hallOf (coreOf (c.rect.x + r.dx) (c.rect.y + r.dy)) == x.1)
      { StopRec.blank with src := x.2, nrec := held.length, time := s.counter x.1, dx := coreX core - c.rect.x, dy := coreY core - c.rect.y }) c.stops

/-! ## The halt (R391) -/

/-- R391 step 2: the line reaches a core. -/
def execHaltLineArrival (cid core : Nat) (s : State) : Host.Outcome State Fault Refusal :=
  .next (match s.ctx cid with
    | none => s
    | some c =>
      if c.st != .halting || !c.rect.has core || c.arrived.contains core then s
      else (s.setCtx cid { c with arrived := core :: c.arrived }).push (.haltSettle cid core))

/-- A release of everything that the context's strands have written on a core: their lines are registered (R101, R123). -/
def State.registerAll (s : State) (cid core : Nat) : State :=
  match s.ctx cid with
  | none => s
  | some c =>
    let σ := c.frames.foldl (fun σ x => σ ||| x.2.sig) 0
    (s.unregistered core c.asid σ).foldl (fun s (x : L1Line) =>
      ((s.flushBacks core x.line).homeRegister core c.asid x.line x.dirty x.tier).modCore core fun y =>
        { y with l1 := y.l1.map fun (z : L1Line) => if z.asid == x.asid && z.line == x.line then { z with st := .dr, reg := z.dirty } else z }) s

/-- Accesses of a context that a core has issued are still under way. -/
def State.busyOn (s : State) (cid core : Nat) : Bool := s.reqs.any fun r => r.core == core && r.cid == cid

/-- R391 steps 4 and 5: once its accesses are performed a core writes what it holds of the context, releases and is settled. -/
def execHaltSettle (cid core : Nat) (s : State) : Host.Outcome State Fault Refusal :=
  .next (match s.ctx cid with
    | none => s
    | some c =>
      if c.st != .halting || !c.arrived.contains core || c.settledAt.contains core || s.busyOn cid core then s
      else
        let s := ((s.settleResults cid core).takeEngines cid core).registerAll cid core
        match s.ctx cid with
        | none => s
        | some c =>
          let c := { c with stops := s.coreStops c core, settledAt := core :: c.settledAt }
          let s := s.setCtx cid c
          if c.rect.cores.all c.settledAt.contains then s.push (.contextHalted cid) else s)

/-! ## The kill (R363, R397) -/

/-- STATUS and CAUSE of the records of a killed context. -/
def Ctx.verdict (c : Ctx) : Nat × Nat :=
  match c.first with
  | some .haltRequest | some .step | none => (2, 0)
  | some f => (1, f.byte.toNat)

/-- The crews of a context that was never placed have cores by its rectangle at the origin. -/
def Ctx.withCrews (c : Ctx) : Ctx := if c.placed then c else { c with crews := c.rect.cores.map fun n => Crew.fresh n c.blk.alcove c.blk.tags }

/-- Free what a context holds on the cores. -/
def State.freeCores (s : State) (cid : Nat) : State :=
  let mine (x : Nat × Bind) : Bool := x.2.cid == cid
  let held := s.cores.filter fun (x : Nat × Core) => x.2.slots.any mine
  let s := { s with cores := s.cores.map fun (x : Nat × Core) => (x.1, { x.2 with
    waits := x.2.waits.filter fun w => !((lookup x.2.slots w.slot).any fun b => b.cid == cid),
    slots := x.2.slots.filter fun b => !mine b, regLines := x.2.regLines.filter fun l => l.cid != cid,
    ce := x.2.ce.filter fun r => r.cid != cid, arr := x.2.arr.filter fun o => o.cid != cid,
    deque := (x.2.entries.filter fun f => f.cid != cid).take 16, spilled := (x.2.entries.filter fun f => f.cid != cid).drop 16, ready := x.2.ready.filter (fun f => f.cid != cid),
    accsIn := x.2.accsIn.filter (fun x => x.1 != cid), tilesIn := x.2.tilesIn.filter fun x => x.1 != cid }) }
  held.foldl (fun s (x : Nat × Core) => s.rearm x.1) s

/-- The commands and hosts that wait on a context look again. -/
def State.wakeHaltc (s : State) (cid : Nat) : State := s.wakeAll (· == .haltc cid)

/-- Kill a context in STATE 3 or 4. -/
def State.kill (s : State) (cid : Nat) : State :=
  match s.ctx cid with
  | none => s
  | some c =>
    let (status, cause) := c.verdict
    let c := c.withCrews
    let c := { c with crews := (c.crews.zip (List.range c.crews.length)).map fun (x : Crew × Nat) =>
      { x.1 with sig := (c.frames.filter fun f => f.2.group.crew == x.2).foldl (fun σ f => σ ||| f.2.sig) x.1.sig } }
    let s := s.setCtx cid c
    let open_ := (List.range c.crews.length).filter fun n => (c.crew n).any fun k => k.st != .complete
    let s := open_.foldl (fun s n => s.recordCrew cid n status cause) s
    let s := s.finishLaunch cid (coreOf c.rect.x c.rect.y) status cause
    let cores := c.rect.cores
    let s := s.freeCores cid
    let s := s.modCtx cid fun c =>
      { c with st := .killed, settled := false, frames := [], copies := [], ops := [], late := [], queued := [], alcoves := [], slotsSaved := [],
               stops := c.stops.map fun (r : StopRec) => { r with parked := false }, reqOpen := false, killAfter := false,
               crews := c.crews.map fun (k : Crew) => { k with released := true } }
    let s := (cores.foldl (fun s n => s.retryReservations n) (s.unhold cid)).wakeHaltc cid
    if c.handler then (s.modFn c.vf fun f => { f with handler := none }).push (.handlerLaunchStart c.vf) else s

/-- The HALT event of a context: that of a violation goes to the physical function's queue, naming the offender (R397). -/
def State.postHalt (s : State) (cid : Nat) : State :=
  match s.ctx cid with
  | none => s
  | some c => s.postEventOn .halt c.haltRing c.vf c.die (haltBody cid (codeNum c.first) c.stops.length c.firstSeq)

/-- R391 step 6: the context is halted; a violation or HALTC.kill then kills it. -/
def execContextHalted (cid : Nat) (s : State) : Host.Outcome State Fault Refusal :=
  .next (match s.ctx cid with
    | none => s
    | some c =>
      if c.st != .halting || !c.rect.cores.all c.settledAt.contains || s.eventsBlocked c.haltRing then s
      else
        let s := s.setCtx cid { c with st := .halted, settled := true, hseq := c.hseq + 1, stops := s.hallStops c }
        let s := (s.materialise cid 3).postHalt cid
        (if c.killAfter then s.kill cid else s).wakeHaltc cid)

/-! ## The resume (R396, R363) -/

/-- An accumulator as the image's section gives it; one that the handler left alone stays as it is. -/
def Acc.reloaded (a : Acc) (m : Mem) (at_ : Nat) : Acc :=
  let part := Mem.slice m at_ 8256
  if part == a.image then a
  else match a.load (Mem.readN part 0 8256) with
    | some b => { b with pre := a.pre, post := a.post, raster := none }
    | none => a

/-- A split goes on at its stop record's PC: at the one that a handler has written over it, which ends its wait. A parked split stays
parked, or replays what it has left where it is woken, at either (R396). TFIRST chooses again (R315). A split without a record, of a context that
a fault stopped while it was being saved or restored, goes on where it stood (R403). -/
def Ctx.resumeSplit (c : Ctx) (stepping : Bool) (now h k : Nat) (sp : Split) : Split :=
  let moved := (c.stops.find? fun r => r.src == 0 && r.handle == h && r.split == k).bind fun (r : StopRec) => r.moved.map fun pc => (pc, r.pc)
  let sp := match sp.wait, sp.stop with
    | .parked p, none => { sp with stop := some { code := p.code } }
    | .tagFirst _, _ => { sp with wait := .tags }
    | _, _ => sp
  let sp := match sp.wait, moved with
    | _, none => Split.resume k sp.pc sp
    | .parked _, some (pc, _) => Split.resume k pc sp
    | _, some (pc, _) => Split.resume k pc (sp.goto pc)
  { sp with asleep := !sp.wait.retries, readySince := now, promoted := false, barred := stepping && sp.wait != .none }

/-- What a handler may have written into the image (R396): register lines, accumulators and the PCs of split records. -/
def Ctx.absorb (c : Ctx) : Ctx :=
  let pcAt (i : Nat) : W64 := BitVec.ofNat 64 (Mem.readN c.image (imageStops + 64 * i + 8) 8)
  { c with frames := c.frames.map fun x =>
             (x.1, if x.2.st == .complete then x.2 else { x.2 with group := x.2.group.getLines (regsOf x.1) c.image }),
           crews := (c.crews.zip (List.range c.crews.length)).map fun (x : Crew × Nat) =>
             { x.1 with accs := Vector.ofFn fun n => (x.1.acc n.val).reloaded c.image (imageAccs + 8320 * (16 * x.2 + n.val)) },
           stops := (c.stops.zip (List.range c.stops.length)).map fun (x : StopRec × Nat) =>
             if x.1.src == 0 && pcAt x.2 != x.1.pc then { x.1 with moved := some (pcAt x.2) } else x.1 }

/-- The image as it stands, lines of it that a handler's core still owns included (R53, R54, R123). -/
def State.absorb (s : State) (cid : Nat) : State := (s.recallImage cid).modCtx cid Ctx.absorb

/-- The splits of the frames at a resume. A resume is no transfer: the TGT bit of an entry at which a group was stopped is not checked
(R396). -/
def Ctx.resumeFrames (c : Ctx) (now : Nat) : Ctx :=
  let one (x : Nat × Frame) : Frame :=
    let g := x.2.group
    { x.2 with group := { g with tgtChecked := g.tgtChecked || c.stops.any fun r => r.src == 0 && r.handle == x.1,
                                 splits := Vector.ofFn fun k => (g.split k.val).map fun sp => c.resumeSplit c.step now x.1 k.val sp } }
  { c with frames := c.frames.map fun x => (x.1, if x.2.st == .complete then x.2 else one x) }

/-- A copy record goes back to its crew's CE. One that fails the checks of an issue now completes with FAULT and raises COPY_FAULT (R396); one
whose follow-on the Array has taken does nothing any more. -/
def State.returnCopy (s : State) (c : Ctx) (r : CopyRec) : State :=
  let r := r.again
  let n := c.coreOfCrew r.crew
  let s := s.modCore n fun y => { y with ce := y.ce ++ [r] }
  match s.agent n c.cid r.crew with
  | none => s
  | some a =>
    if r.st == .followOn then s
    else match a.recheck r c.blk.tags s with
      | (s, some (cause, va)) => s.copyFatal a r cause 0 va
      | (s, none) => s.pushAll (copyEvents n r)

/-- The records of the image go back to the engines of their crews' cores, in their order (R166, R325). -/
def State.returnEngines (s : State) (cid : Nat) : State :=
  match s.ctx cid with
  | none => s
  | some c =>
    let s := s.setCtx cid { c with copies := [], ops := [] }
    let s := c.copies.foldl (fun s r => s.returnCopy c r) s
    c.ops.foldl (fun s o =>
      let n := c.coreOfCrew o.crew
      (s.modCore n fun y => { y with arr := y.arr ++ [{ o with st := .queued, page := none }] }).push (.arrayOpDispatch n o.seq)) s

/-- What the groups bound on a core wait for is looked at again, and its free slots look for frames. -/
def State.restartCore (s : State) (cid core : Nat) : State :=
  (s.pushAll ((s.core core).slots.flatMap fun (x : Nat × Bind) =>
    if x.2.cid == cid && x.2.frame.isSome then [.joinRelease core x.1, .reorderRendezvous core x.1, .awaitComplete core x.1] else [])).offer core cid

/-- Work of a context that had not begun: its place, its reservations, its groups' start. -/
def Ctx.pendingWork (c : Ctx) : List Instr :=
  if !c.placed then [.contextPlacement c.queue .fromRecord]
  else c.crews.filterMap fun (k : Crew) => match k.st with
    | .waiting | .reserved => some (.resourceReservation c.cid k.core)
    | .committed => some (.groupStart c.cid k.core)
    | _ => none

/-- Resume a halted context (R363): its cores acquire, its engine records and its splits go on. -/
def State.resume (s0 : State) (cid : Nat) : State :=
  let s := s0.absorb cid
  match s.ctx cid with
  | none => s
  | some c =>
    let begun := c.crews.any fun k => k.st == .running || k.st == .committed || k.st == .complete
    let d := c.resumeFrames s.ac
    let s := s.setCtx cid { d with st := if begun then .running else .placing, settled := false, first := none, firstSeq := 0, stops := [], arrived := [],
                                   settledAt := [], stepping := c.step, saveStop := false }
    let s := c.rect.cores.foldl (fun s n => s.sweep n cid noHandle c.asid) s
    let s := s.returnEngines cid
    let s := c.rect.cores.foldl (fun s n => s.restartCore cid n) s
    ((s.pushAll c.pendingWork).commitReady cid).pushAll ((List.range c.crews.length).map fun n => .crewCompletion cid n)

/-! ## Single steps (R406) -/

/-- Held at issue: such a split is not ready (R193). -/
def Split.stalls (sp : Split) : Bool := sp.asleep && match sp.wait with
  | .stalled | .held _ _ => true
  | _ => false

/-- Splits of the context that may still issue their one instruction. -/
def Split.mayStep (sp : Split) : Bool :=
  !sp.barred && !sp.stepped && !sp.wait.waiting && !sp.stalls && (match sp.wait with | .parked _ => false | _ => true)

/-- CODE 0x21 for a split that has issued. -/
def Split.stepEnd (sp : Split) : Split :=
  if sp.barred || sp.stop.isSome || (sp.stalls && !sp.stepped) then sp else { sp with stop := some { code := .step, precise := false } }

def Ctx.boundSplits (s : State) (c : Ctx) : List Split :=
  c.rect.cores.flatMap fun n => (s.core n).slots.flatMap fun (x : Nat × Bind) =>
    match x.2.frame.bind (lookup c.frames ·) with
    | some fr => if x.2.cid == c.cid then (List.range 4).filterMap fr.group.split else []
    | none => []

/-- The step is over: every ready split has issued one instruction. -/
def State.stepHalt (s : State) (cid : Nat) : State :=
  match s.ctx cid with
  | none => s
  | some c =>
    if c.st != .running || !c.stepping || (c.boundSplits s).any (·.mayStep) then s
    else
      let s := c.rect.cores.foldl (fun s n => s.mapSplits n (fun b => b.cid == cid) Split.stepEnd) s
      (s.modCtx cid fun c => { c with stepping := false }).raiseHalt cid .step 0

def execStepHalt (cid : Nat) (s : State) : Host.Outcome State Fault Refusal := .next (s.stepHalt cid)

/-! ## HALTC (R363) -/

/-- What a command gives in the target's state: a result, or a wait. -/
inductive Haltc where
  | done (code : Nat) (s : State)
  | wait (s : State)

/-- One command: 0 .halt, 1 .resume, 2 .kill. -/
def State.haltc (s : State) (cid cmd : Nat) : Haltc :=
  match s.ctx cid with
  | none => .done 2 s
  | some c =>
    match cmd, c.st with
    | 0, .halted => .done 0 s
    | 0, .running | 0, .placing | 0, .saving => .wait (s.raiseHalt cid .haltRequest 0)
    | 0, .halting => .wait s
    | 0, _ => .done 1 s
    | 1, .halted => .done 0 (s.resume cid)
    | 1, _ => .done 1 s
    | _, .killed => .done 0 s
    | _, .halted | _, .saved => .done 0 (s.kill cid)
    | _, .restoring => .wait s
    | _, .none => .done 2 s
    | _, _ => .wait ((s.raiseHalt cid .haltRequest 0).modCtx cid fun c => { c with killAfter := true })

/-- The host of a function, among those that wait. -/
def hostFocus (vf : Nat) : Focus := ⟨1024, vf, 0⟩

/-- Whether a waiter still waits: its context runs and its split stands at its HALTC; a host's command stands until it is served. -/
def State.stillWaits (s : State) (cid : Nat) (f : Focus) : Bool :=
  (f.core == 1024 && (s.fn f.slot).hcHead != (s.fn f.slot).hcTail) || match Env.of s f with
    | some e => e.ctx.st == .running && e.sp.wait == .haltc cid
    | none => false

/-- Commands on one context are carried out in their order of arrival. -/
def State.haltcFor (s : State) (cid cmd : Nat) (me : Focus) : Haltc :=
  match s.ctx cid with
  | none => .done 2 s
  | some c =>
    let l := c.waiters.filter fun f => f == me || s.stillWaits cid f
    let l := if l.contains me then l else l ++ [me]
    let s := s.setCtx cid { c with waiters := l }
    if l.head? != some me then .wait s
    else match s.haltc cid cmd with
      | .wait s => .wait s
      | .done x s => .done x ((s.modCtx cid fun c => { c with waiters := c.waiters.filter (· != me) }).wakeHaltc cid)

/-- Whether a function reaches a context: its own; the physical function every one (R362). -/
def State.reaches (s : State) (vf cid : Nat) : Bool :=
  match s.ctx cid with
  | some c => vf == 0 || c.vf == vf
  | none => false

def haltcOp (i : Instr) (h : Hdr) (b : TBody) (cmd : Nat) : State → Host.Outcome State Fault Refusal :=
  issueWith i h noTags fun e =>
    let cid := (e.u b.tsa).toNat % 65536
    let answer (x : Nat) (s : State) : Perf := .ok (e.later [.uni b.tsb.toNat (BitVec.ofNat 32 x)] s)
    let go (s : State) : Perf :=
      match s.haltcFor cid cmd e.f with
      | .done x s => answer x s
      | .wait s => e.hold (.haltc cid) s
    if !e.s.reaches e.vf cid then answer 2 e.s
    else if cid == e.cid then answer 1 e.s
    else if cmd == 1 then e.withRelease e.s go
    else go e.s

def execHaltcHalt (h : Hdr) (b : TBody) : State → Host.Outcome State Fault Refusal := haltcOp (.haltcHalt h b) h b 0
def execHaltcResume (h : Hdr) (b : TBody) : State → Host.Outcome State Fault Refusal := haltcOp (.haltcResume h b) h b 1
def execHaltcKill (h : Hdr) (b : TBody) : State → Host.Outcome State Fault Refusal := haltcOp (.haltcKill h b) h b 2

/-! ## CTXRD and CTXWR (R362) -/

/-- STATE. -/
def CtxSt.code : CtxSt → Nat
  | .none => 0 | .running | .saving | .placing => 1 | .halting => 2 | .halted => 3 | .saved => 4 | .restoring => 5 | .killed => 6

/-- A field of a context. -/
def Ctx.field (c : Ctx) (sel : Nat) : Nat :=
  match sel with
  | 0 => c.st.code + 8 * c.settled.toNat + 65536 * c.stops.length
  | 1 => c.cause
  | 2 => c.rect.word.toNat + 2 ^ 32 * c.asid + 2 ^ 45 * c.vf
  | 3 => c.imageSize
  | 4 => c.prio
  | _ => c.step.toNat + 2 * c.bkptNop.toNat

def execCtxrd (h : Hdr) (b : TBody) : State → Host.Outcome State Fault Refusal :=
  issueWith (.ctxrd h b) h noTags fun e =>
    let cid := (e.u b.tsa).toNat % 65536
    let sel := (b.ti.extractLsb' 0 8).toNat
    match e.s.ctx cid with
    | none => .ok (e.later (uniW true b.tsb 0) e.s)
    | some c =>
      if !e.s.reaches e.vf cid then .ok (e.later (uniW true b.tsb 0) e.s)
      else
        let stopped := sel == 0 && ((c.st == .halted && c.settled) || c.st == .saved)
        let s := if stopped then e.s.sweep e.f.core e.cid e.h e.asid else e.s
        .ok (e.later (uniW true b.tsb (BitVec.ofNat 64 (c.field sel))) s)

/-- PRIO takes at most the function's ceiling; DEBUG is written only in STATE 3 or 4. A bound context's records take its new
priority. -/
def Ctx.put (c : Ctx) (ceil sel : Nat) (x : W64) : Ctx :=
  if sel == 4 then { c with prio := min (x.toNat % 8) ceil }
  else if c.st == .halted || c.st == .saved then { c with step := x.getLsbD 0, bkptNop := x.getLsbD 1 }
  else c

def execCtxwr (h : Hdr) (b : TBody) : State → Host.Outcome State Fault Refusal :=
  issueWith (.ctxwr h b) h noTags fun e =>
    let cid := (e.u b.tsa).toNat % 65536
    match e.s.ctx cid with
    | none => .ok e.s
    | some c =>
      if !e.s.reaches e.vf cid then .ok e.s
      else
        let d := c.put (e.s.fn c.vf).ceil.toNat (b.ti.extractLsb' 0 8).toNat (e.u64 b.tsb)
        let s := e.s.setCtx cid d
        .ok (d.rect.cores.foldl (fun s n =>
          if (s.core n).slots.any fun x => x.2.cid == cid then
            s.modCore n fun y => { y with slots := y.slots.map fun (x : Nat × Bind) => (x.1, if x.2.cid == cid then { x.2 with prio := d.prio } else x.2) }
          else s) s)

/-! ## Frozen masters (R397) -/

/-- Halt every context of a list with first cause MASTER_FROZEN. -/
def State.haltAll (s : State) (cids : List Nat) : State := cids.foldl (fun s cid => s.raiseHalt cid .masterFrozen 0) s

/-- R397: a breach of the Corridor protocol freezes the master: it does no more work until its die is reset. The HALT event names
no context. Numbers from 384 on are the masters beside the cores: the raster units of the two Halls, then the migration engines of the
two Annexes. -/
def execCorridorProtocolBreach (core : Nat) (s : State) : Host.Outcome State Fault Refusal :=
  .next (
    if 384 ≤ core then
      let i := core - 384
      if 4 ≤ i || (s.die i).frozen then s
      else
        let s := { s with dies := s.dies.setIfInBounds i { s.die i with frozen := true } }
        let held (c : Ctx) : Bool := i < 2 && c.placed && c.rect.cores.any fun n =>
          hallOf n == i && (s.core n).arr.any fun o => o.cid == c.cid && opSrc o.instr != 2
        (s.postEventOn .halt 0 0 i (haltBody 0xFFFF 0x22 0 0)).haltAll ((s.ctxs.filter fun c => held c.2).map (·.1))
    else if (s.core core).frozen then s
    else
      let s := s.modCore core fun c => { c with frozen := true }
      let there := (s.ctxs.filter fun c => c.2.placed && c.2.rect.has core &&
        ((s.core core).slots.any (fun x => x.2.cid == c.1) || (s.core core).ce.any (fun r => r.cid == c.1) || (s.core core).arr.any fun o => o.cid == c.1)).map (·.1)
      (s.postEventOn .halt 0 0 (hallOf core) (haltBody 0xFFFF 0x22 0 0)).haltAll there)

/-! ## Pre-emption (R377, R401) -/

/-- A wait-table entry becomes a Gallery registration; one whose future is resolved reads its word again later (R359, R401). -/
def State.waitToGallery (s : State) (cid core : Nat) (w : WaitEnt) : State :=
  match Env.of s ⟨core, w.slot, w.split⟩ with
  | none => s
  | some e =>
    if e.cid != cid then s
    else
      let s := s.modCore core fun c => { c with waits := c.waits.filter fun x => x != w }
      if futState (s.futWord w.future) != 0 then s
      else match e.fr.freeLink with
        | none => s
        | some i =>
          let s := e.modFrame s fun fr => fr.setFut i w.va w.future
          (s.enlist w.future cid e.h i).modSplit cid e.h w.split fun sp => { sp with wait := .future (some i) }

/-- R122 step 1: a core's dirty lines of an ASID go home and stay clean. Older write-backs of them that are under way arrive before (R430). -/
def State.cleanCore (s : State) (core asid : Nat) : State :=
  ((s.core core).l1.filter fun x => x.asid == asid && x.st != .c).foldl (fun s (x : L1Line) =>
    ((s.flushBacks core x.line).mergeBack core x).modCore core fun c => { c with l1 := putL1 c.l1 { x with st := .c, dirty := 0, reg := 0 } }) s

/-- A Resolver slot that the context holds goes to section 11, and CV is cleared (R425). -/
def State.saveSlots (s : State) (c : Ctx) : State :=
  let mine := s.rsown.filter fun x => rsV x.2 && rsCv x.2 && rsCid x.2 == c.cid
  if !c.rcd.cls then s
  else
    let s := s.modCtx c.cid fun c => { c with slotsSaved := mine.map fun x => (x.1 % 64, x.1 / 64 == c.die, s.slotEntries x.1) }
    { s with rsown := s.rsown.map fun (x : Nat × W32) => (x.1, if mine.any (fun y => y.1 == x.1) then x.2 &&& 0xFFFFFF7F else x.2) }

/-- What a core holds of a context is saved, and freed (R401 steps 2 to 6). A crew that still waits for its resources holds none there. -/
def State.saveCore (s : State) (cid core : Nat) : State :=
  let s := (s.settleResults cid core).takeEngines cid core
  let s := (s.core core).waits.foldl (fun s w => s.waitToGallery cid core w) s
  match s.ctx cid with
  | none => s
  | some c =>
    let n := c.rect.index core
    let s := s.cleanCore core c.asid
    let y := s.core core
    let mine (l : List FRef) : List Nat := (l.filter fun f => f.cid == cid).map (·.handle)
    let part := match c.crew n with
      | some k => if k.holdsAlcove then Mem.slice y.alcove (1024 * k.alcBase) (1024 * k.alcSize) else []
      | none => []
    let bound := if c.st == .halted then [] else ((s.splitStops c core).filter fun r => match r.code with | some x => !x.replayable | none => false)
    let s := s.modCtx cid fun c =>
      { c with queued := c.queued ++ [(n, mine y.entries, mine y.ready)], alcoves := insert c.alcoves n part, stops := c.stops ++ bound }
    let s := s.modCrew cid n fun k =>
      { k with released := k.released || k.st != .waiting, tiles := mapEach k.tiles fun o => o.map fun (t : TileData) => { t with resident := false, weights := [], scales := [], page := none } }
    s.modCore core fun c =>
      { c.setEntries (c.entries.filter fun f => f.cid != cid) with
               slots := c.slots.filter fun (x : Nat × Bind) => x.2.cid != cid,
               ready := c.ready.filter (fun f => f.cid != cid), accsIn := c.accsIn.filter (fun x => x.1 != cid),
               tilesIn := c.tilesIn.filter fun x => x.1 != cid }

/-- The save of a context that nothing of is under way: STATE 4. -/
def State.save (s : State) (cid : Nat) : State :=
  match s.ctx cid with
  | none => s
  | some c =>
    let held := c.st == .halted
    let s := if held then s.absorb cid else s
    let s := s.saveSlots c
    let s := c.rect.cores.foldl (fun s n => s.saveCore cid n) s
    let c := (s.ctx cid).getD c
    let s := s.modCtx cid fun c => { c with st := .saved, settled := false, hseq := c.hseq + 1, saveStop := c.saveStop || held, arrived := [], settledAt := [] }
    let s := (if held then s else s.countStops cid).materialise cid (if c.saveStop || held then 3 else 4)
    let s := if c.saveStop && !held then s.postHalt cid else s
    let s := if c.killAfter then s.kill cid else s
    (c.rect.cores.foldl (fun s n => s.retryReservations n) s).wakeHaltc cid

/-- R377: a held record that cannot be placed: a crew of it finds no room on its core (R376), where the context given holds some. -/
def State.lacksRoom (s : State) (h : HeldRec) (rect : Rect) : Bool :=
  match h.cid.bind s.ctx with
  | none => false
  | some w => w.placed && w.crews.any fun k => k.st == .waiting && rect.has k.core && (s.room k.core w.blk).isNone

/-- R377: whether the Porter may pre-empt a context for a held record: the record cannot be placed, is of higher priority, and the context's
function has budget left. PBUD counts microseconds. -/
def State.mayPreempt (s : State) (c : Ctx) (q : Nat) : Bool :=
  let f := s.fn c.vf
  (s.porters.toList.any fun p => p.held.any fun h => h.q == q && c.prio < h.prio && h.cid != some c.cid && s.lacksRoom h c.rect) &&
    f.spent < f.pbud.toNat * 1000 * unitsPerNs && c.placed && (c.st == .running || c.st == .halted) && c.crews.any fun k => !k.released && k.st != .waiting

/-- R401 step 1: a running context gets its save line; a halted one is saved as it stands (R403). -/
def State.preempt (s : State) (cid for_ : Nat) : State :=
  match s.ctx cid with
  | none => s
  | some c =>
    if !s.mayPreempt c for_ then s
    else
      let other := s.porters.toList.any fun p => p.held.any fun h => h.q == for_ && h.vf != c.vf
      let c := { c with byOther := other }
      if c.st == .halted then (s.setCtx cid c).save cid
      else (s.setCtx cid { c with st := .saving, arrived := [], settledAt := [] }).pushAll (c.rect.cores.map fun n => .saveLineArrival cid n [])

def execPreempt (cid for_ : Nat) (s : State) : Host.Outcome State Fault Refusal := .next (s.preempt cid for_)

/-- R401 steps 2 and 3: the save line reaches a core. `late` are the copies that the CE lets complete late (R167). -/
def execSaveLineArrival (cid core : Nat) (late : List Nat) (s : State) : Host.Outcome State Fault Refusal :=
  .next (match s.ctx cid with
    | none => s
    | some c =>
      if c.st != .saving || !c.rect.has core || c.arrived.contains core then s
      else
        let pick (r : CopyRec) : Bool := r.cid == cid && late.contains r.seq && r.st != .followOn && r.follow.isNone && r.beat.isNone
        let l := (s.core core).ce.filter pick
        let s := s.setCtx cid { c with arrived := core :: c.arrived, late := c.late ++ l }
        (s.modCore core fun y => { y with ce := y.ce.filter fun r => !pick r }).push (.preemptSaveComplete cid))

/-- R401 steps 4 to 6, once every core has stopped and nothing of the context is in flight. -/
def execPreemptSaveComplete (cid : Nat) (s : State) : Host.Outcome State Fault Refusal :=
  .next (match s.ctx cid with
    | none => s
    | some c =>
      if c.st != .saving || !c.rect.cores.all c.arrived.contains || s.reqs.any (fun r => r.cid == cid) || (c.saveStop && s.eventsBlocked c.haltRing) then s
      else (s.save cid).pushAll (c.late.map fun r => .crewCompletion cid r.home))

/-! ## Late completions (R167) -/

/-- Beats of the copy in the scratch place until it stops. -/
def State.lateBeats (a : Agent) (seq : Nat) : Nat → State → State
  | 0, s => s
  | n + 1, s =>
    match s.copyRec a.core seq with
    | none => s
    | some r =>
      if r.st == .queued && r.kind == .cpyt && r.lattice.isEmpty then State.lateBeats a seq n (s.startLattice a.core a r)
      else if (r.st == .queued || r.st == .running) && r.done < r.len then
        match a.beat r s with
        | (s, .error f) => s.copyFault a r f
        | (s, .ok b) =>
          match r.bar with
          | none => State.lateBeats a seq n (s.performBeat a r b none)
          | some va => match a.barPlace va s with
            | (s, .error f) => s.copyFault a r f
            | (s, .ok p) => State.lateBeats a seq n (s.performBeat a r b (some p))
      else s

/-- The copy's completion against the saved image: its tag, its status word, its signature (R154). -/
def State.lateFinish (s : State) (cid : Nat) (r : CopyRec) : State :=
  let s := s.modCtx cid fun c => { c with late := c.late.filter fun x => !(x.seq == r.seq && x.crew == r.crew) }
  match s.ctx cid with
  | none => s
  | some c =>
    let left := ((c.copies ++ c.late).filter fun x => x.crew == r.crew && x.tag == r.tag).map (·.seq)
    let s := s.modCrew cid r.crew fun k => k.tagDone r left
    let σ := match (s.ctx cid).bind (·.crew r.crew) with
      | some k => ((k.tag r.tag).map (·.sig)).getD 0
      | none => 0
    (s.writeStatus r σ).modCrew cid r.home fun k => { k with sig := k.sig ||| r.sig }

/-- A copy of a saved context is performed to its end. A replayable fault leaves it for another attempt. A fatal fault makes the header's STATE 3
and posts the HALT event; a violation is followed by the kill (R392, R403). While that event could not be held the copy waits (R383). -/
def State.lateCopy (s0 : State) (cid seq : Nat) : State :=
  let s := s0
  match s.ctx cid with
  | none => s
  | some c =>
    match c.st == .saved, c.late.find? fun r => r.seq == seq with
    | true, some r =>
      match c.crew r.crew with
      | none => s
      | some k =>
        let held := c.first.isSome
        let a : Agent := ⟨lateCore, cid, c.vf, c.asid, c.sup, 0, 1024 * k.alcSize, none⟩
        let work : Core := { Core.empty with alcove := (lookup c.alcoves r.crew).getD [], ce := [r.again] }
        let s := State.lateBeats a seq (r.len + 192) (s.setCore lateCore work)
        let now := s.core lateCore
        let s := { s with cores := remove s.cores lateCore }
        let s := s.modCtx cid fun c => { c with alcoves := insert c.alcoves r.crew now.alcove }
        let s : State := match now.ce.find? fun x => x.seq == seq with
          | none => s.modCtx cid fun c => { c with late := c.late.filter fun x => !(x.seq == seq && x.crew == r.crew) }
          | some x =>
            let s := s.modCtx cid fun c => { c with late := c.late.map fun (y : CopyRec) => if y.seq == seq && y.crew == r.crew then x else y }
            if x.st == .done then s.lateFinish cid x else s
        let s := (s.countStops cid).materialise cid (if (s.ctx cid).any fun c => c.saveStop then 3 else 4)
        let s := if !held && ((s.ctx cid).any fun c => c.first.isSome) then s.postHalt cid else s
        let s := if (s.ctx cid).any fun c => c.killAfter then s.kill cid else s
        s0.unlessFull 0 (s0.unlessFull c.vf (s.push (.contextRestore cid .fromRecord)))
    | _, _ => s

def execCopyLateCompletion (cid seq : Nat) (s : State) : Host.Outcome State Fault Refusal := .next (s.lateCopy cid seq)

/-! ## Restore (R400) -/

/-- What a restore finds on each core of a rectangle; none when some core has no room. -/
def State.restoreRoom (s : State) (c : Ctx) (r : Rect) : Option (List (Nat × List Nat × Nat × Nat)) :=
  let lent (n : Nat) : Bool :=
    c.frames.any (fun x => x.2.st != .complete && x.2.lent.contains n) || c.copies.any (fun r => r.crew == n) || c.ops.any fun o => o.crew == n
  let need := (List.range c.crews.length).filter fun n => (c.crew n).any fun k => k.st != .waiting && (k.st != .complete || lent n)
  need.foldr (fun n acc => match acc, r.cores[n]? with
    | some l, some core => (s.room core c.blk).map fun x => (n, x.1, x.2.1, x.2.2) :: l
    | _, _ => none) (some [])

/-- R425: the saved Resolver slots are free and granted in the Halls that stand as they stood. -/
def State.slotsReady (s : State) (c : Ctx) (r : Rect) : Bool :=
  let home := hallOf (coreOf r.x r.y)
  c.slotsSaved.all fun x =>
    let w := s.rsownOf (if x.2.1 then home else 1 - home) x.1
    rsV w && rsVf w == c.vf && !rsCv w

def State.returnSlots (s : State) (c : Ctx) (r : Rect) : State :=
  let home := hallOf (coreOf r.x r.y)
  let s := c.slotsSaved.foldl (fun s x =>
    let key := 64 * (if x.2.1 then home else 1 - home) + x.1
    let w := (lookup s.rsown key).getD 0
    { s.setSlot key x.2.2 with rsown := insert s.rsown key ((w &&& 0xFF00007F) ||| 0x80 ||| BitVec.ofNat 32 (256 * c.cid)) }) s
  s.modCtx c.cid fun c => { c with slotsSaved := [] }

/-- A core's number after the rectangle moves (R385). -/
def shiftCore (a b : Rect) (n : Nat) : Nat := coreOf (coreX n - a.x + b.x) (coreY n - a.y + b.y)

/-- The new number of a record: `l` are the old numbers in the order of issue, `d` is the number the new core gives out next. -/
def renumbered (l : List Nat) (d n : Nat) : Nat :=
  match l.findIdx? (· == n) with
  | some i => (d + i) % 2 ^ 32
  | none => n

/-- The records of a crew take the numbers after the newest one of its new core, in their saved order (R153); registers that they owe and
the tags' oldest copies follow. -/
def State.shiftSeqs (s : State) (cid n core : Nat) : State :=
  match s.ctx cid with
  | none => s
  | some c =>
    let y := s.core core
    let cs := c.copies.filter fun r => r.crew == n
    let os := c.ops.filter fun o => o.crew == n
    let fc := renumbered (cs.map (·.seq)) y.ceSeq
    let fo := renumbered (os.map (·.seq)) y.arrSeq
    let hs := cs.map (·.handle) ++ os.map (·.handle)
    let owed (o : Owed) : Owed := { o with seq := if o.engine then fo o.seq else fc o.seq }
    let s := s.modCore core fun y => { y with ceSeq := (y.ceSeq + cs.length) % 2 ^ 32, arrSeq := (y.arrSeq + os.length) % 2 ^ 32 }
    (s.modCtx cid fun c =>
      { c with copies := c.copies.map fun (r : CopyRec) => if r.crew == n then { r with seq := fc r.seq, followSeq := r.followSeq.map fo } else r,
               ops := c.ops.map fun (o : ArrOp) => if o.crew == n then { o with seq := fo o.seq, follow := o.follow.map fc } else o,
               frames := c.frames.map fun (x : Nat × Frame) =>
                 (x.1, if hs.contains x.1 then { x.2 with group := { x.2.group with owed := x.2.group.owed.map owed } } else x.2) }).modCrew cid n
      fun k => { k with tags := k.tags.map fun (t : TagSt) => { t with oldest := fc t.oldest } }

/-- R400 steps 1 and 2: every split arrives by a restore (R245); the cores that held the context give up its register lines, which the image has; then the rectangle, and each crew's
reservations and bind records on its new core. -/
def State.restorePlace (s : State) (cid : Nat) (r : Rect) (room : List (Nat × List Nat × Nat × Nat)) : State :=
  match s.ctx cid with
  | none => s
  | some c =>
    let old := c.rect
    let again (sp : Split) : Split := match sp.wait with
      | .tagFirst _ => { sp.stale with wait := .tags, sbit := true }
      | _ => { sp.stale with sbit := true }
    let moved (x : Nat × Frame) : Nat × Frame := (x.1, { x.2 with core := shiftCore old r x.2.core, group := x.2.group.mapSplits again })
    let s := { s with cores := s.cores.map fun (x : Nat × Core) => (x.1, { x.2 with regLines := x.2.regLines.filter fun l => l.cid != cid }) }
    let s := s.setCtx cid { c with rect := r, st := .restoring, reqOpen := false, restoreTo := none, frames := c.frames.map moved,
                                   crews := c.crews.map fun (k : Crew) => { k with core := shiftCore old r k.core } }
    room.foldl (fun s x =>
      match s.ctx cid with
      | none => s
      | some c => match c.crew x.1 with
        | none => s
        | some k =>
          let was := k.st
          let s := (s.reserve c x.1 { k with released := false } x.2.1 x.2.2.1 x.2.2.2).modCrew cid x.1 fun k => { k with st := was }
          (s.modCore k.core fun y => { y with slots := y.slots.map fun (b : Nat × Bind) =>
            (b.1, if b.2.cid == cid then { b.2 with commit := was != .reserved } else b.2) }).shiftSeqs cid x.1 k.core) s

/-- Frames that were bound in a crew's slots are bound in its new ones, in their order. -/
def State.rebind (s : State) (cid : Nat) (core : Nat) : State :=
  match s.ctx cid with
  | none => s
  | some c =>
    let bound := (c.frames.filter fun x => x.2.st == .running && x.2.core == core).map (·.1)
    let slots := s.freeSlots core cid
    let s := (slots.zip bound).foldl (fun s x => s.bindFrame core x.1 cid x.2) s
    (bound.drop slots.length).foldl (fun s h =>
      (s.modFrame cid h fun f => { f with st := .ready }).modCore core fun y => { y with ready := y.ready ++ [⟨cid, h⟩] }) s

/-- The frames that wait on a core after a restore: those that did at the save, then those that have become ready since (R359, R385). -/
def Ctx.readyAgain (c : Ctx) (core : Nat) (old : List Nat) : List Nat :=
  old ++ ((c.frames.filter fun x => x.2.st == .ready && x.2.core == core && !old.contains x.1).map (·.1))

/-- R400 step 3 for one core, and what its slots and queues held, where a crew of the context has its resources. -/
def State.restoreCore (s : State) (cid core : Nat) : State :=
  match s.ctx cid with
  | none => s
  | some c =>
    let n := c.rect.index core
    match c.crew n with
    | none => s
    | some k =>
      if k.released || k.st == .waiting then s
      else
        let part := (lookup c.alcoves n).getD []
        let s := s.modCore core fun y =>
          ({ y with alcove := Mem.place (Mem.clear y.alcove (1024 * k.alcBase) (1024 * k.alcSize)) (1024 * k.alcBase) part } : Core).seen
            fun x => x.cid == cid && x.crew == n
        let s := k.tileOrder.foldl (fun s t => s.reload cid n t) s
        let (d, r) := ((c.queued.find? fun x => x.1 == n).map (·.2)).getD ([], [])
        let s := s.modCore core fun y =>
          { y.setEntries (y.entries ++ d.map (FRef.mk cid)) with
            ready := y.ready ++ ((c.readyAgain core r).map (FRef.mk cid)).filter fun x => !y.ready.contains x }
        s.rebind cid core

/-- The end of a restore: every core of the rectangle makes the ASID sweep; the engine records go on and groups issue, unless the header's STATE
was 3 (R400 steps 4 to 6, R403). A raise that was held acts now (R392). -/
def State.restoreEnd (s0 : State) (cid : Nat) : State :=
  let s := s0
  match s.ctx cid with
  | none => s
  | some c =>
    let s := if c.saveStop then s.absorb cid else s
    let s := c.rect.cores.foldl (fun s n => s.sweep n cid noHandle c.asid) s
    let s := c.rect.cores.foldl (fun s n => s.restoreCore cid n) s
    let raised := (s.ctx cid).bind (·.heldRaise)
    let s := s.modCtx cid fun c => { c with queued := [], alcoves := [], byOther := false, heldRaise := none, arrived := [], settledAt := [] }
    let s :=
      if c.saveStop then
        let s := (s.modCtx cid fun c => { c with st := .halted, settled := true, saveStop := false }).materialise cid 3
        if c.killAfter then s.kill cid else s
      else
        let s := (s.modCtx cid fun c => { c with st := .running }).returnEngines cid
        let s := c.rect.cores.foldl (fun s n => s.restartCore cid n) s
        let s := (s.pushAll c.pendingWork).pushAll ((List.range c.crews.length).map fun n => .crewCompletion cid n)
        match raised with
        | some (f, seq) => s.raiseHalt cid f seq
        | none => s
    s.wakeHaltc cid

/-- The Porter's default place of a restore: where it was, or the first that has room. -/
def State.restoreOrigin (s : State) (c : Ctx) : Option Rect :=
  let fits (r : Rect) : Bool := s.rectGood r && (s.restoreRoom c r).isSome && s.slotsReady c r
  if fits c.rect then some c.rect else (originsOf c.rect.w c.rect.h).find? fits

/-- R400: a saved context is restored. It waits for its late completions; in host-assisted mode a PLACE names its origin. -/
def execContextRestore (cid : Nat) (origin : Origin) (s : State) : Host.Outcome State Fault Refusal :=
  .next (match s.ctx cid with
    | none => s
    | some c =>
      let host := (s.fn c.vf).dsr.getLsbD 0 && !c.handler
      let start (r : Rect) : State :=
        match s.rectGood r && s.slotsReady c r, s.restoreRoom c r with
        | true, some room => ((s.restorePlace cid r room).returnSlots c r).push (.contextRestore cid .fromRecord)
        | _, _ => s
      match c.st, origin with
      | .restoring, _ => s.restoreEnd cid
      | .saved, .fromRecord =>
        if !c.late.isEmpty || c.reqOpen then s
        else if let some (x, y) := c.restoreTo then start ⟨x, y, c.rect.w, c.rect.h⟩
        else if host then
          s.unlessFull c.vf ((s.setCtx cid { c with reqOpen := true }).postEvent .placeRequest c.vf c.die
            (0xFF + 2 ^ 8 + 2 ^ 32 * cid + 2 ^ 64 * c.rect.w + 2 ^ 80 * c.rect.h))
        else match s.restoreOrigin c with
          | some r => start r
          | none => s
      | .saved, .at x y => if !c.late.isEmpty || host then s else start ⟨x, y, c.rect.w, c.rect.h⟩
      | _, _ => s)

/-! ## Other steps that only a policy begins -/

/-- R379: a split ready for 1,024 ac or more without issuing is promoted. -/
def execIssuePromotion (core slot split : Nat) (s : State) : Host.Outcome State Fault Refusal :=
  .next (match Env.of s ⟨core, slot, split⟩ with
    | none => s
    | some e =>
      if !e.sp.asleep && e.sp.wait == .none && 1024 ≤ s.ac - e.sp.readySince then e.modSplit s fun sp => { sp with promoted := true } else s)

/-- R271: a yield is over after 16 ac. -/
def execYieldExpiry (core slot split : Nat) (s : State) : Host.Outcome State Fault Refusal :=
  .next (match Env.of s ⟨core, slot, split⟩ with
    | none => s
    | some e =>
      match e.sp.wait with
      | .yield since => if 16 ≤ s.ac - since then e.modSplit s fun sp => { sp with wait := .none, asleep := false } else s
      | _ => s)

/-- R321: a resident accumulator with no operation in flight goes to the image area; its contents stay the crew's. -/
def execAccumulatorEvict (cid crew acc : Nat) (s : State) : Host.Outcome State Fault Refusal :=
  .next (match (s.ctx cid).bind (·.crew crew) with
    | none => s
    | some k =>
      let busy := (s.core k.core).arr.any fun o => o.cid == cid && o.crew == crew && (o.tiles k).2.contains acc
      if busy || !(s.core k.core).accsIn.contains (cid, crew, acc) then s else s.evictAcc k.core (cid, crew, acc))

/-- A hint performs nothing on its lanes: its guard reads pt (R239). -/
def hintHdr : Hdr := ⟨0, false, 7, false, 0⟩

/-- R368: three hints set preferences that change no result. A split that polls is passed over as after a YIELD (R271). -/
def execHint (h : BitVec 10) (s : State) : Host.Outcome State Fault Refusal :=
  issueWith (.hint h) hintHdr noTags (fun e =>
    let s := e.next hintHdr 1 e.s
    .moved (
      if h == 1#10 then e.modGroup s fun g => { g with preferEvict := true }
      else if h == 2#10 then e.modSplit s fun sp => { sp with wait := .yield s.ac, asleep := true }
      else if h == 3#10 then e.modSplit s fun sp => { sp with streaming := true }
      else s)) s

end Sys2Proof.Machine
end

