-- ==== Sys2Proof/Machine/Package.lean ====
section
/-! DEFINITION. The units of the package: reset, withdrawal and health (R38, R59, R426, R427, R431, R438 to R440, R445, R446). -/

namespace Sys2Proof.Machine

/-! ## Units (R426) -/

/-- The unit of a die, named by its top die: Hall A with Undercroft A, Hall B with Undercroft B, Annex N, Annex S. -/
def unitOf (die : Nat) : Nat := if die < 4 then die else die - 4

def unitDies (u : Nat) : List Nat := if u < 2 then [u, u + 4] else [u]

def State.modDie (s : State) (i : Nat) (f : Die → Die) : State := { s with dies := s.dies.setIfInBounds i (f (s.die i)) }

def State.modUnit (s : State) (u : Nat) (f : Die → Die) : State := (unitDies u).foldl (fun s i => s.modDie i f) s

/-! ## Health (R445) -/

/-- The health report of a die. -/
def healthBody (die level reason : Nat) (d : Die) : Nat :=
  die + 2 ^ 8 * level + 2 ^ 16 * reason + 2 ^ 32 * d.ce.toNat + 2 ^ 64 * (d.temp % 65536)

/-- Device events go to the physical function (R382). -/
def State.postHealth (s : State) (die level reason : Nat) : State := s.postEvent .health 0 die (healthBody die level reason (s.die die))

/-! ## The loss of a unit -/

/-- A context that stands on cores: it is placed and not saved or killed. -/
def Ctx.onCores (c : Ctx) : Bool := c.placed && c.st != .saved && c.st != .killed

/-- Contexts with a core in a Hall. -/
def State.ctxsOn (s : State) (hall : Nat) : List Nat :=
  (s.ctxs.filter fun c => c.2.onCores && c.2.rect.cores.any fun n => hallOf n == hall).map (·.1)

/-- What has waited for a home in reset goes on: events, splits, and the events that Porters hold (R431). -/
def State.homesBack (s : State) : State :=
  let l := s.waitHomes ++ ((List.range 64).filter fun f => !(s.fn f).heldEv.isEmpty).map .eventHeldPost
  ({ s with waitHomes := [], homeHeld := false }.pushAll l).wakeAll (· == Wait.access)

/-- The halt and the kill of a context whose cores, or some of them, are lost (R431, R439): nothing of the lost cores settles, and the
others release what they hold. A context that has halted before keeps its first cause. The kill waits where a home that it writes to is in reset. -/
def State.killLost (s : State) (cid : Nat) : State :=
  match s.ctx cid with
  | none => s
  | some c =>
    let s := (c.rect.cores.filter fun n => (s.die (hallOf n)).st == .good).foldl (fun s n => (s.settleResults cid n).registerAll cid n) s
    let s := s.modCtx cid fun c => { c with first := some (c.first.getD .masterFrozen) }
    let t := ((s.modCtx cid fun c => { c with st := .halted, settled := true, hseq := c.hseq + 1 }).postHalt cid).kill cid
    if t.homeHeld && !s.homeHeld then
      { s.modCtx cid fun c => { c with st := .halting, arrived := c.rect.cores, settledAt := c.rect.cores, killAfter := true } with
        waitHomes := s.waitHomes ++ [.contextHalted cid] }
    else t

/-- Reads and registrations that the cores of a Hall have sent have nowhere to return to. -/
def State.dropReads (s : State) (hall : Nat) : State :=
  let gone (r : Req) : Bool := hallOf r.core == hall && (match r.op with
    | .read _ _ _ _ _ _ _ _ | .fill _ _ _ _ _ _ _ _ _ | .load _ _ _ _ _ | .prefetch _ _ | .register _ _ _ => true
    | _ => false)
  { s with reqs := s.reqs.filter fun r => !gone r }

/-- A Hall pair loses its cores' work. -/
def State.loseHall (s : State) (u : Nat) : State :=
  if u < 2 then (((s.ctxsOn u).foldl (fun s cid => s.killLost cid) s).dropReads u) else s

/-- The acknowledgements of a unit are given at once (R38). -/
def State.ackUnit (s : State) (u : Nat) : State :=
  s.pushAll (s.maints.flatMap fun m => ((m.left ++ m.unacked).filter fun r => dieOfRecipient r == u).flatMap fun r =>
    if m.inv then [.tlbinvReceive m.id r, .tlbinvDrainAck m.id r] else [.mapqNoticeReceive m.id r])

/-- The lines an Undercroft holds. -/
def State.dropL2 (s : State) (u : Nat) : State := { s with l2 := s.l2.filter fun x => s.homeUnit x.1 != u }

/-- Operations that wait for a die look again. -/
def State.resend (s : State) : State :=
  { s with reqs := s.reqs.map fun (r : Req) => { r with nak := false } }.pushAll (s.reqs.map Req.event)

/-! ## Reset (R427, R431) -/

/-- DCTL.RESET of a die resets its unit; a withdrawn unit stays withdrawn. -/
def State.resetUnit (s : State) (die : Nat) : State :=
  let u := unitOf die
  if 6 ≤ die || (s.die u).st != .good then s
  else
    let s := s.modUnit u fun d => { d with st := .inReset, resetBit := true, resetAt := s.time }
    ((s.postEvent .dieReset 0 u u).loseHall u).ackUnit u

def execDctlReset (die : Nat) (s : State) : Host.Outcome State Fault Refusal := .next (if s.hostLink then s.resetUnit die else s)

/-- What a reset leaves of a core: its caches are empty, and its masters may work again (R397, R431, R472). R472 and R81 say nothing of
the recent-entry filter at power-on and at a reset: it starts empty and keeps its keys over a reset of its Hall pair (assumption 86). -/
def Core.afterReset (c : Core) : Core :=
  { Core.empty with filter := c.filter, fbUnreach := c.fbUnreach, frSeq := c.frSeq, held := c.held, ceSeq := c.ceSeq, arrSeq := c.arrSeq }

/-- A Hall pair comes back: the Atrium is zero, the L2, the TLBs and the caches are empty. -/
def State.renewHall (s : State) (u : Nat) : State :=
  let lo := u * 33554432
  let inHalf (off : Nat) : Bool := lo ≤ off && off < lo + 33554432
  let s := s.dropL2 u
  { s with crofts := s.crofts.setIfInBounds u { (s.crofts[u]?).getD Undercroft.reset with metaLines := [] },
           atrium := Mem.clear s.atrium lo 33554432, sigOwner := s.sigOwner.filter fun x => !inHalf x.1,
           gallery := s.gallery.filter fun x => !inHalf x.1,
           cores := s.cores.map fun (x : Nat × Core) => if hallOf x.1 == u then (x.1, x.2.afterReset) else x }

/-- R431 steps 3 and 5: a reset completes. -/
def execDieResetComplete (die : Nat) (s : State) : Host.Outcome State Fault Refusal :=
  .next (
    let u := unitOf die
    if 6 ≤ die || (s.die u).st != .inReset then s
    else
      let s := s.modUnit u fun d => { d with st := .good, resetBit := false, start := s.time, frozen := false }
      let s := if u < 2 then s.renewHall u else s
      let s := (s.homesBack.resend.postEvent .dieReset 0 u (u + 2 ^ 8)).pushAll [.porterRecordSelect 0, .porterRecordSelect 1]
      (if u < 2 then (allCores.filter fun n => hallOf n == u).foldl (fun s n => s.retryReservations n) s else s).pushAll
        [.migrationInvalidationDone 0, .migrationInvalidationDone 1])

/-! ## Authentication (R443) -/

/-- The two dies of a link: the five Corridor links of R426, then the bonds of the Undercrofts. -/
def linkDies (link : Nat) : Option (Nat × Nat) :=
  [(0, 1), (0, 2), (0, 3), (1, 2), (1, 3), (4, 0), (5, 1)][link]?

/-- Every link of a die to a good neighbour has passed. -/
def State.linked (s : State) (die : Nat) : Bool :=
  (List.range 7).all fun l => match linkDies l with
    | some (a, b) =>
      !(a == die || b == die) || s.links.contains l || (s.die (if a == die then b else a)).st == .withdrawn
    | none => true

/-- AUTH of every die (R427). -/
def State.setAuth (s : State) : State :=
  (List.range 6).foldl (fun s i => s.modDie i fun d => { d with auth := d.running && d.st != .withdrawn && s.linked i }) s

/-! ## Withdrawal (R438 to R440) -/

/-- What the Porter of a lost Hall holds goes to the other one, which serves all queues. -/
def State.inherit (s : State) (u : Nat) : State :=
  let p := s.porter u
  (s.modPorter (1 - u) fun q =>
    { q with held := q.held ++ p.held, wake := q.wake ++ p.wake, wakePend := q.wakePend ++ p.wakePend, faults := q.faults ++ p.faults }).modPorter u
    fun _ => Porter.reset

/-- A unit is withdrawn, for a reason of R445. -/
def State.withdrawUnit (s : State) (die reason : Nat) : State :=
  let u := unitOf die
  if 6 ≤ die || (s.die u).st == .withdrawn then s
  else
    let s := if u < 2 then s.dropL2 u else s
    let s := (s.modUnit u fun d => { d with st := .withdrawn }).homesBack
    let s := (s.postEvent .dieWithdrawn 0 u u).postHealth u 2 reason
    let s := (s.loseHall u).ackUnit u
    let s := if u < 2 then s.inherit u else s
    (if s.powered then s.setAuth else s).resend.pushAll [.porterRecordSelect 0, .porterRecordSelect 1]

def execDctlWithdraw (die : Nat) (s : State) : Host.Outcome State Fault Refusal :=
  .next (if s.hostLink then (if 6 ≤ die then s else s.modUnit (unitOf die) fun d => { d with withdrawBit := true }).withdrawUnit die 2 else s)

/-- R431: how long a reset may last: 50 ms. -/
def resetLimit : Nat := 50000000 * unitsPerNs

/-- R431: a reset that has lasted 50 ms withdraws the unit. -/
def State.resetExpiry (s : State) (die : Nat) : State :=
  let d := s.die (unitOf die)
  if d.st == .inReset && resetLimit ≤ s.time - d.resetAt then s.withdrawUnit die 2 else s

def execDieResetTimeout (die : Nat) (s : State) : Host.Outcome State Fault Refusal := .next (s.resetExpiry die)

/-! ## Soft errors and reports (R446) -/

/-- Correctable errors of the last hour, of at most 1,001 that are kept. -/
def Die.recent (d : Die) (now : Nat) : Nat := (d.ceTimes.filter fun t => now < t + 3600000000000 * unitsPerNs).length

/-- R446: a corrected error is counted; the count saturates. -/
def execCorrectableSoftError (die : Nat) (s : State) : Host.Outcome State Fault Refusal :=
  .next (if 6 ≤ die then s
    else s.modDie die fun d =>
      { d with ce := if d.ce == BitVec.allOnes 32 then d.ce else d.ce + 1, ceTimes := (s.time :: d.ceTimes).take 1001 })

/-- R446: an uncorrectable error resets its unit; the data reaches no access. -/
def execUncorrectableSoftError (die : Nat) (s : State) : Host.Outcome State Fault Refusal :=
  .next (if 6 ≤ die then s else (s.resetUnit die).postHealth die 2 3)

/-- R446: the time between two periodic reports of a die: 10 s. -/
def reportPeriod : Nat := 10000000000 * unitsPerNs

/-- R446: a periodic report: DEGRADED once more than 1,000 errors came in an hour. -/
def State.reportHealth (s : State) (die : Nat) : State :=
  if 1000 < (s.die die).recent s.time then s.postHealth die 1 4 else s.postHealth die 0 0

/-- The reports of a die that have fallen due, `n` of them. -/
def State.reports (die : Nat) : Nat → State → State
  | 0, s => s
  | n + 1, s => State.reports die n ((s.modDie die fun d => { d with reportAt := d.reportAt + reportPeriod }).reportHealth die)

/-- R446: a die that is not withdrawn reports every 10 s. -/
def State.reportDue (s : State) (die : Nat) : State :=
  if 6 ≤ die || (s.die (unitOf die)).st == .withdrawn then s
  else State.reports die ((s.time - (s.die die).reportAt) / reportPeriod) s

def execPeriodicHealthReport (die : Nat) (s : State) : Host.Outcome State Fault Refusal := .next (s.reportDue die)

/-- What the dies do as time passes: their reports (R446), and the withdrawal of a unit whose reset has lasted 50 ms (R431). -/
def State.diesPass (s : State) : State :=
  (List.range 6).foldl (fun s i => (s.resetExpiry i).reportDue i) s

end Sys2Proof.Machine
end

