-- ==== Sys2Proof/Machine/Migrate.lean ====
section
/-! DEFINITION. Migration (R66 to R69), the hot lists (R64, R65), the free-frame rings (R69), and what the Porters do by their firmware:
page-fault service and feedback draining (R33, R34, R84, R386). -/

namespace Sys2Proof.Machine

/-! ## Accesses of the migration engine and the controllers -/

/-- Traffic that no sketch counts (R63). -/
def State.uncounted {α : Type} (s : State) (f : State → State × α) : State × α :=
  let (t, x) := f s
  ({ t with sketches := s.sketches }, x)

def State.readQuiet (s : State) (pa n : Nat) : State × Nat := s.uncounted fun s => s.readMem pa n

def State.writeQuiet (s : State) (pa n x : Nat) : State := (s.uncounted fun s => (s.writeMem pa n x, ())).1

/-! ## Hot lists (R64, R65) -/

/-- The order of a hot list: estimates falling, then pages rising. -/
def hotBefore (a b : Nat × Bool × Nat) : Bool := b.2.2 < a.2.2 || (a.2.2 == b.2.2 && a.1 < b.1)

def insertHot (x : Nat × Bool × Nat) : List (Nat × Bool × Nat) → List (Nat × Bool × Nat)
  | [] => [x]
  | y :: l => if hotBefore x y then x :: y :: l else y :: insertHot x l

def Sketch.hotList (k : Sketch) : List (Nat × Bool × Nat) := k.table.foldl (fun l x => insertHot x l) []

def hotEntry (x : Nat × Bool × Nat) : Nat := x.1 + 2 ^ 34 * x.2.1.toNat + 2 ^ 48 * x.2.2

/-- The die of a controller. -/
def dieOfController (c : Nat) : Nat := if c < 6 then 0 else if c < 12 then 1 else c - 10

/-- One controller's slot of the hot-list area for an interval that ended at a time: the entries, then the header. -/
def State.writeHotList (s : State) (base c now : Nat) (k : Sketch) : State :=
  let at_ := base + 1024 * c
  let l := k.hotList.take 64
  let s := (l.zip (List.range l.length)).foldl (fun s x => s.writeMem (at_ + 16 + 8 * x.2) 8 (hotEntry x.1)) s
  s.writeMem at_ 16 ((k.seq + 1).toNat + 2 ^ 32 * l.length + 2 ^ 64 * (({ s with time := now } : State).counter (dieOfController c)).toNat)

def hotBase (s : State) : Nat := (s.hotbuf.extractLsb' 14 38).toNat * 16384

/-- A sketch at the start of an interval. -/
def Sketch.again (k : Sketch) : Sketch := { Sketch.reset with seq := k.seq + 1 }

/-- The sampling interval: IVL µs, where 0 acts as 1 and values above 1,000 act as 1,000. -/
def State.interval (s : State) : Nat := min (max (s.hotctl.extractLsb' 8 10).toNat 1) 1000 * 1000 * unitsPerNs

/-- Whether the sampling interval is over. -/
def State.intervalOver (s : State) : Bool := s.hotStart + s.interval ≤ s.time

/-- R64, R65: the controllers write their lists of an interval that ended at a time, and begin again. -/
def State.hotLists (s : State) (now : Nat) : State :=
  let live (c : Nat) : Bool := (s.die (dieOfController c)).st == .good && (s.region (hotBase s + 1024 * c)).isSome
  let old := s.sketches.toList
  let s' := (List.range 14).foldl (fun s' c => match old[c]? with
    | some k => if live c then s'.writeHotList (hotBase s) c now k else s'
    | none => s') s
  { s' with sketches := mapEach s.sketches Sketch.again }

/-! ## Leaves (R67) -/

/-- The leaf of an address in an address space: where its entry lies, the entry, and whether it maps 2 GiB. -/
def State.findLeaf (s : State) (asid : Nat) (va : W64) : State × Option (Nat × W64 × Bool) :=
  match s.asidEntry none asid with
  | (s, a) =>
    let vf := asidVf a
    if !a.getLsbD 0 || va.toNat ≥ 2 ^ 56 then (s, none)
    else match s.nodeEntry vf (asidRoot a) (va.extractLsb' 44 13).toNat with
      | (s, .error _) => (s, none)
      | (s, .ok e3) =>
        if e3.getLsbD 1 then (s, none)
        else match s.nodeEntry vf (nextNode e3) (va.extractLsb' 31 13).toNat with
          | (s, .error _) => (s, none)
          | (s, .ok e2) =>
            if e2.getLsbD 1 then
              (s, if leafType e2 == 1 then none else some (nextNode e3 + 8 * (va.extractLsb' 31 13).toNat, e2, true))
            else match s.nodeEntry vf (nextNode e2) (va.extractLsb' 18 13).toNat with
              | (s, .error _) => (s, none)
              | (s, .ok e1) =>
                (s, if e1.getLsbD 1 then some (nextNode e2 + 8 * (va.extractLsb' 18 13).toNat, e1, false) else none)

def MigCmd.size (m : MigCmd) : Nat := if m.big then 2 ^ 31 else 2 ^ 18

/-- The frame of a leaf of either size. -/
def frameOf (big : Bool) (e : W64) : Nat := if big then leafFrame e / 2 ^ 31 * 2 ^ 31 else leafFrame e

/-- Every piece of a frame lies in a function's windows and in no withdrawn range. -/
def State.frameOk (s : State) (vf pa n : Nat) : Bool :=
  pa % n == 0 && (List.range (n / 262144)).all fun k => s.inWindow vf (pa + 262144 * k) && !s.withdrawnAt (pa + 262144 * k)

/-- The homes of a frame take accesses: each 2 MiB has one home die, and a near-tier region one (R43). -/
def State.homesUp (s : State) (pa n : Nat) : Bool :=
  (List.range (n / 2097152 + 1)).all fun k => s.homeState ((pa + 2097152 * k) / 128) != .inReset

/-- The leaf with WR = 0. -/
def guarded (e : W64) : W64 := e &&& ~~~0x20

/-- The leaf with its new frame and tier. -/
def movedLeaf (e : W64) (dst : Nat) (far : Bool) : W64 :=
  (e &&& ~~~0x000FFFFFFFFC0100) ||| BitVec.ofNat 64 (dst / 262144 * 262144) ||| (if far then 0x100 else 0)

/-- A frame copied line by line through the homes. The spec gives the copies no CMP attribute: they carry 0 (assumption 79). -/
def State.copyLines (src dst : Nat) (far : Bool) : Nat → State → State
  | 0, s => s
  | n + 1, s =>
    let s := State.copyLines src dst far n s
    let (s, x) := s.homeRead (src + n) false
    s.homeWrite (dst + n) (BitVec.allOnes 128) x false far

/-! ## Free-frame rings (R69) -/

def ffLog (r : W64) : Nat := (r.extractLsb' 0 4).toNat
def ffBase (r : W64) : Nat := (r.extractLsb' 12 40).toNat * 4096

def State.freeRing (s : State) (ring : Nat) : W64 := (s.freeRings[ring]?).getD 0

/-- A ring that the Porter may use: enabled, in populated memory, with a Porter to use it. -/
def State.ringUp (s : State) (ring : Nat) : Bool :=
  ffLog (s.freeRing ring) != 0 && (s.region (ffBase (s.freeRing ring))).isSome && ((s.die 0).st == .good || (s.die 1).st == .good)

/-- The Porter as a producer: false while the ring is full. -/
def State.giveFrame (s : State) (ring frame : Nat) : State × Bool :=
  if !s.ringUp ring then (s, false)
  else
    let b := ffBase (s.freeRing ring)
    let n := 2 ^ ffLog (s.freeRing ring)
    let (s, x) := s.readMem b 8
    let put : W32 := BitVec.ofNat 32 x
    let take : W32 := BitVec.ofNat 32 (x / 2 ^ 32)
    if n ≤ (put - take).toNat then (s, false)
    else ((s.writeMem b 4 (put + 1).toNat).writeMem (b + 64 + 8 * (put.toNat % n)) 8 (frame + 1), true)

/-- A frame goes back to its ring, or is kept while the ring is full. -/
def State.returnFrame (s : State) (x : Nat × Nat) : State :=
  match s.giveFrame x.1 x.2 with
  | (s, true) => s
  | (s, false) => { s with keptFrames := s.keptFrames ++ [x] }

/-- R69: the Porter takes the entry at TAKE, or waits for a reservation to be filled. -/
def execFreeFrameTake (ring : Nat) (s : State) : Host.Outcome State Fault Refusal :=
  .next (
    if !s.ringUp ring then s
    else
      let b := ffBase (s.freeRing ring)
      let n := 2 ^ ffLog (s.freeRing ring)
      let (s, take) := s.readMem (b + 4) 4
      let at_ := b + 64 + 8 * (take % n)
      let (s, e) := s.readMem at_ 8
      if e % 2 == 0 then s
      else
        let s := (s.writeMem at_ 8 0).writeMem (b + 4) 4 ((take + 1) % 2 ^ 32)
        { s with taken := s.taken ++ [(ring, bitsOf e 18 34 * 262144)] })

/-! ## The engine (R66, R67) -/

def State.annex (s : State) (a : Nat) : Annex := (s.annexes[a]?).getD Annex.reset

def State.modAnnex (s : State) (a : Nat) (f : Annex → Annex) : State := { s with annexes := s.annexes.setIfInBounds a (f (s.annex a)) }

def Annex.pending (x : Annex) : Bool := x.mgrb.extractLsb' 0 4 != 0#4 && x.mghd != x.mgtl

/-- A command of the ring. -/
def migCmd (x at_ : Nat) : MigCmd :=
  { va := BitVec.ofNat 64 (bitsOf x 0 57), asid := bitsOf x 64 13, big := bitsOf x 80 1 == 1, dst := bitsOf x 128 64, token := BitVec.ofNat 32 (bitsOf x 224 32),
    badFrame := false, at_ := some at_ }

/-- The next command of an engine: one from each ring in turn while both hold some. LOGN = 0 disables the engine (R66). -/
def State.nextMove (s : State) (a : Nat) : State × Option MigCmd :=
  let x := s.annex a
  if x.mgrb.extractLsb' 0 4 == 0#4 then (s, none)
  else match x.porter with
  | m :: rest =>
    if x.pending && x.turn then fromRing s x
    else (s.modAnnex a fun x => { x with porter := rest, turn := true }, some m)
  | [] => if x.pending then fromRing s x else (s, none)
where
  fromRing (s : State) (x : Annex) : State × Option MigCmd :=
    let at_ := (x.mgrb.extractLsb' 12 40).toNat * 4096 + 32 * (x.mghd.toNat % 2 ^ (x.mgrb.extractLsb' 0 4).toNat)
    let (s, c) := s.readQuiet at_ 32
    (s.modAnnex a fun x => { x with turn := false }, some (migCmd c at_))

/-- The function a command's events go to. -/
def State.moveVf (s : State) (m : MigCmd) : Nat :=
  let a := (s.asidEntry none m.asid).2
  if a.getLsbD 0 then asidVf a else 0

/-- A move ends with a STATUS: 1 DONE, 2 NOT_LEAF, 3 BAD_DEST, 4 ABORTED, 5 BAD_TYPE. The Porter gets back the old frame, or the
frame that was not used; a bad one it discards. -/
def State.endMove (s : State) (a : Nat) (m : MigCmd) (status old : Nat) : State :=
  let vf := s.moveVf m
  let s := match m.at_ with
    | some p => (s.writeQuiet (p + 24) 4 status).modAnnex a fun x => { x with mghd := x.mghd + 1 }
    | none =>
      if status == 1 then match s.region old with
        | some r => s.returnFrame (r, old)
        | none => s
      else if status == 3 then s
      else match s.region m.dst with
        | some r => { s with taken := s.taken ++ [(r, m.dst)] }
        | none => s
  let s := s.modAnnex a fun x => { x with cur := none, stage := .idle }
  (s.postEvent .migrationDone vf (2 + a) (2 + a + 2 ^ 32 * status + 2 ^ 64 * m.token.toNat)).push (.migrationCommand a)

/-- A broadcast over the page of a move. -/
def State.sweepPage (s : State) (a : Nat) (m : MigCmd) (inv : Bool) : State :=
  let lo := m.va.toNat / m.size * m.size
  (s.startMaint inv 0 m.asid lo (lo + m.size) (s.moveVf m) (.migration a)).1

/-- R67 steps 1 to 3: the engine takes a command and write-protects its page. -/
def execMigrationCommand (a : Nat) (s : State) : Host.Outcome State Fault Refusal :=
  .next (
    let x := s.annex a
    if 2 ≤ a || x.cur.isSome || (s.die (2 + a)).st != .good || (s.die (2 + a)).frozen then s
    else match s.nextMove a with
      | (_, none) => s
      | (s', some m) =>
        if s'.eventsBlocked (s'.moveVf m) then s
        else match s'.uncounted fun s => s.findLeaf m.asid m.va with
          | (s, none) => s.endMove a m 2 0
          | (s, some (at_, e, big)) =>
            if big != m.big then s.endMove a m 2 0
            else if leafType e != 0 then s.endMove a m 5 0
            else if m.badFrame || !s.frameOk (s.moveVf m) m.dst m.size then s.endMove a m 3 0
            else
              let s := s.writeQuiet at_ 8 (guarded e).toNat
              (s.modAnnex a fun x => { x with cur := some (m, e, at_), stage := .guarded }).sweepPage a m true)

/-- R67 steps 4 to 8, each when the broadcast before it is complete. -/
def execMigrationInvalidationDone (a : Nat) (s : State) : Host.Outcome State Fault Refusal :=
  .next (
    let x := s.annex a
    match x.cur with
    | none => s.push (.migrationCommand a)
    | some (m, e, at_) =>
      let old := frameOf m.big e
      if (s.die (2 + a)).st != .good || (s.die (2 + a)).frozen || (s.maints.any fun o => o.owner == .migration a) || !s.homesUp old m.size || !s.homesUp m.dst m.size then s
      else match x.stage with
        | .guarded =>
          let far := match s.region m.dst with | some r => 2 ≤ r | none => false
          let s := (s.uncounted fun s => (State.copyLines (old / 128) (m.dst / 128) far (m.size / 128) s, ())).1
          let (s, now) := s.readQuiet at_ 8
          if now == (guarded e).toNat then
            ((s.writeQuiet at_ 8 (movedLeaf e m.dst far).toNat).modAnnex a fun x => { x with stage := .copied }).sweepPage a m true
          else (s.modAnnex a fun x => { x with stage := .undone }).sweepPage a m true
        | .copied => (s.modAnnex a fun x => { x with stage := .waking true }).sweepPage a m false
        | .undone => (s.modAnnex a fun x => { x with stage := .waking false }).sweepPage a m false
        | .waking done => if s.eventsBlocked (s.moveVf m) then s else s.endMove a m (if done then 1 else 4) old
        | .idle => s)

/-! ## The Porter's moves (R69) -/

def migWindow (x : Nat) : Option MigWindow :=
  let w : MigWindow := ⟨bitsOf x 0 13, bitsOf x 64 57, bitsOf x 16 32⟩
  if bitsOf x 13 3 != 0 || bitsOf x 48 16 != 0 || bitsOf x 121 7 != 0 || w.len == 0 || 2 ^ 56 ≤ w.lo || w.lo % 2097152 != 0 then none else some w

/-- The windows, read at their home. -/
def State.readWindows (s : State) : State :=
  if s.mgwt.getLsbD 0 then
    let (s, x) := s.readMem ((s.mgwt.extractLsb' 7 45).toNat * 128) 128
    { s with windows := (List.range 8).filterMap fun k => migWindow (bitsOf x (128 * k) 128) }
  else { s with windows := [] }

/-- R69: once an interval the Porter reads the windows and gives back the frames it keeps. -/
def State.porterInterval (s : State) : State :=
  if (s.die 0).st == .good || (s.die 1).st == .good then
    s.keptFrames.foldl (fun s x => s.returnFrame x) { s.readWindows with keptFrames := [] }
  else s

/-- Sampling intervals that are over, oldest first: each ends with its hot lists. -/
def State.endIntervals : Nat → State → State
  | 0, s => s
  | n + 1, s =>
    let now := s.hotStart + s.interval
    State.endIntervals n { (if s.hotctl.getLsbD 0 then s.hotLists now else s) with hotStart := now }

/-- R64, R65, R69: the end of the sampling intervals that are over; it waits for a home that is in reset (R431). -/
def State.closeIntervals (s : State) : State :=
  if s.intervalOver then
    let t := (State.endIntervals ((s.time - s.hotStart) / s.interval) s).porterInterval
    if t.homeHeld && !s.homeHeld then s else t
  else s

def execHotlistIntervalEnd (s : State) : Host.Outcome State Fault Refusal := .next s.closeIntervals

/-- The pages of the hot lists as they stand in memory. -/
def State.hotPages (s : State) : State × List Nat :=
  (List.range 14).foldl (fun (x : State × List Nat) c =>
    let at_ := hotBase x.1 + 1024 * c
    let (s, n) := x.1.readMem (at_ + 4) 1
    (List.range n).foldl (fun (y : State × List Nat) k =>
      let (s, e) := y.1.readMem (at_ + 16 + 8 * k) 8
      (s, y.2 ++ [e % 2 ^ 34])) (s, x.2)) (s, [])

/-- One pick of the firmware becomes a command, where it may: its function is in hardware mode, its page lies in a window, a valid
leaf maps it to a page of a hot list, and a frame has been taken for it. -/
def State.pickMove (s : State) (a : Nat) (hot : List Nat) (p : MigPick) : State :=
  let va := p.va.toNat / 262144 * 262144
  let vf := asidVf (s.asidEntry none p.asid).2
  match s.taken.find? fun x => x.1 == p.ring, s.findLeaf p.asid (BitVec.ofNat 64 va) with
  | some x, (s, some (_, e, false)) =>
    if (s.fn vf).dsr.getLsbD 3 || !(s.windows.any fun w => w.asid == p.asid && w.lo ≤ va && va < w.lo + 2097152 * w.len) ||
        !hot.contains (leafFrame e / 262144) then s
    else
      let m : MigCmd := { va := BitVec.ofNat 64 va, asid := p.asid, big := false, dst := x.2, token := BitVec.allOnes 32, badFrame := !((s.region x.2).any fun r => decide (2 ≤ r) == decide (2 ≤ p.ring)),
                          at_ := none }
      ({ s with taken := s.taken.erase x }.modAnnex a fun y => { y with porter := y.porter ++ [m] }).push (.migrationCommand a)
  | _, _ => s

/-- R69: the Porter moves pages of its choice, within the windows of the interval. -/
def execPorterMigrationSelect (a : Nat) (picks : List MigPick) (s : State) : Host.Outcome State Fault Refusal :=
  .next (
    if 2 ≤ a || (s.die (2 + a)).st != .good || !((s.die 0).st == .good || (s.die 1).st == .good) then s
    else
      if !s.mgwt.getLsbD 0 || picks.isEmpty then s
      else
        let (s, hot) := s.hotPages
        picks.foldl (fun s p => s.pickMove a hot p) s)

/-! ## The page-fault service in hardware mode (R34, R386) -/

/-- The Porter ends its oldest record: it maps the page and wakes the split, or hands the record to the function. -/
def execPorterFaultService (hall : Nat) (map : Option PteWrite) (s : State) : Host.Outcome State Fault Refusal :=
  .next (match (s.porter hall).faults with
    | [] => s
    | r :: rest =>
      let x := r.bits.toNat
      let va := bitsOf x 0 57
      let asid := bitsOf x 64 13
      let took (s : State) : State := s.modPorter hall fun p => { p with faults := rest }
      if (s.die hall).st != .good then s
      else match map with
        | some w =>
          if !s.inWindow r.vf w.pa || w.pa % 8 != 0 then s
          else
            let s := (took s).writeMem w.pa 8 w.value.toNat
            let lo := va / 262144 * 262144
            (s.startMaint false 0 asid lo (lo + 262144) r.vf .porter).1.postEvent .pageMapped r.vf hall (va + 2 ^ 64 * asid)
        | none => if s.eventsBlocked r.vf then s else (took s).postEvent .fault r.vf hall x)

/-! ## Feedback rings in hardware mode (R84) -/

/-- Complete entries from HEAD on: each becomes an event. -/
def State.drainRing (vf asid : Nat) (sup : Bool) (ring base logn : Nat) : Nat → State → State
  | 0, s => s
  | n + 1, s =>
    let h := Mem.readN s.atrium (ring + 4) 4
    match s.porterXlate vf asid sup .load ⟨[1], some .aperture, false⟩ (BitVec.ofNat 64 (base + 16 * (h % 2 ^ logn))) with
    | (s, .ok (.atrium off)) =>
      let x := Mem.readN s.atrium off 16
      if bitsOf x 96 32 != h then s
      else
        let s := { s with atrium := Mem.writeN s.atrium (ring + 4) 4 ((h + 1) % 2 ^ 32) }
        State.drainRing vf asid sup ring base logn n (s.postEvent .residencyRequest vf (if off < 33554432 then 0 else 1) x)
    | (s, _) => s

/-- R84: the Porter is the consumer of a function's feedback rings. It drains by SEQ and HEAD alone, a ring whose EN is 0 too: the spec does not
say otherwise (assumption 101). -/
def execFeedbackDrain (asid : Nat) (ring : W64) (s : State) : Host.Outcome State Fault Refusal :=
  .next (
    let (s, a) := s.asidEntry none asid
    let vf := asidVf a
    if !a.getLsbD 0 || (s.fn vf).dsr.getLsbD 2 || !(s.fbRings.any fun x => x.1 == asid && x.2 == ring) then s
    else match s.porterXlate vf asid (asidSup a) .store ⟨[1], some .aperture, false⟩ ring with
      | (s, .ok (.atrium off)) =>
        let x := Mem.readN s.atrium off 24
        let logn := bitsOf x 112 8
        if logn < 4 || 16 < logn then s
        else State.drainRing vf asid (asidSup a) off (bitsOf x 128 57) logn (2 ^ logn) s
      | (s, _) => s)

end Sys2Proof.Machine
end

