-- ==== Sys2Proof/Machine/Boot.lean ====
section
/-! DEFINITION. Boot, authentication, attestation, power, thermal and clock (R441 to R444, R447, R448). -/

namespace Sys2Proof.Machine

/-! ## Firmware images (R441, R442) -/

/-- A little-endian number. -/
def leNat : List Byte → Nat
  | [] => 0
  | b :: l => b.toNat + 256 * leNat l

def bytesFrom (l : List Byte) (off n : Nat) : List Byte := (l.drop off).take n

def imageLen (img : List Byte) : Nat := leNat (bytesFrom img 16 4)
def imageSvn (img : List Byte) : Nat := leNat (bytesFrom img 8 8)

/-- SHA-384 over the header and the payload. -/
def imageDigest (img : List Byte) : List Byte := sha384 (img.take (64 + imageLen img))

/-- The header of an image of die type `t`: every field in range, every reserved byte 0. -/
def headerOk (t : Nat) (img : List Byte) : Bool :=
  leNat (bytesFrom img 0 4) == 0x54573936 && leNat (bytesFrom img 4 1) == t && leNat (bytesFrom img 5 3) == 0 && imageSvn img ≤ 63 &&
    imageLen img % 64 == 0 && imageLen img ≤ 33554432 && leNat (bytesFrom img 20 44) == 0 && 64 + imageLen img + 96 ≤ img.length

/-- R442: both signatures verify, and the version is not below the floor. -/
def imageAccepted (t floor : Nat) (img : List Byte) : Bool :=
  let n := 64 + imageLen img
  headerOk t img && ecdsaDigestVerifies Config.rootEcdsa (imageDigest img) (bytesFrom img n 96) &&
    lmsVerifies Config.rootLms (imageDigest img) (img.drop (n + 96)) && floor ≤ imageSvn img

/-- The die type of a die: 0 Hall, 1 Undercroft, 2 Annex. -/
def dieType (die : Nat) : Nat := if die < 2 then 0 else if die < 4 then 2 else 1

/-! ## Power-on (R432, R441, R472) -/

/-- The device with power newly applied: what is fused, what the board attaches and what lies outside it stays. -/
def State.powerUp (s : State) : State :=
  { State.reset with
    agenda := s.agenda, todo := [], focus := s.focus, ac := s.ac, time := s.time, hotStart := s.time, shareStart := s.time, budgetStart := s.time, freeCtr := s.freeCtr, powered := true, host := s.host, peer := s.peer,
    svnFloor := s.svnFloor, answers := s.answers, variant := s.variant, powerCap := s.variant.tdp,
    dies := mapEach s.dies fun (d : Die) => { Die.reset d.far with cxl0 := d.cxl0, cxl1 := d.cxl1, start := s.time, reportAt := s.time, cdeflAt := s.time } }

/-- The leading Annex (R441): Annex N, or Annex S where N has failed its verification or is lost. -/
def State.leader (s : State) : Option Nat := [2, 3].find? fun i => (s.die i).running && (s.die i).st != .withdrawn

/-- The root of trust of the leading Annex verifies the image of each die type, an Annex its own; a die whose image is rejected, or that no Annex
verifies, does not run, and its unit is withdrawn. -/
def State.bootDie (images : List (List Byte)) (s : State) (die : Nat) : State :=
  let t := dieType die
  let img := (images[t]?).getD []
  if (t == 2 || s.leader.isSome) && imageAccepted t ((s.svnFloor[t]?).getD 0) img then
    { s.modDie die (fun d => { d with digest := some (imageDigest img), running := true }) with svnSeen := s.svnSeen.setIfInBounds t (some (imageSvn img)) }
  else s.withdrawUnit die 1

/-- Measurement blocks 1 to 7 as a boot finds them (R444): the digests in die-id order, zero for a withdrawn die, then the fused floors. -/
def State.measure (s : State) : State :=
  { s with measured := ((List.range 6).flatMap fun i => if (s.die i).st == .withdrawn then List.replicate 48 0 else ((s.die i).digest).getD (List.replicate 48 0)) ++
      s.svnFloor.toList.map (BitVec.ofNat 8) }

/-- Whether every good unit has authenticated: the boot is over (R442, R443). -/
def State.booted (s : State) : Bool := (List.range 6).all fun i => (s.die i).st == .withdrawn || (s.die i).auth

/-- R441: power is applied; Annex N leads where it passes, else Annex S. A missing image is rejected. -/
def execPowerOn (images : List (List Byte)) (s : State) : Host.Outcome State Fault Refusal :=
  .next (([2, 3, 0, 1, 4, 5].foldl (State.bootDie images) s.powerUp).setAuth.measure)

/-! ## Mutual authentication (R443) -/

/-- One direction: two nonces of 48 bytes, a certificate that verifies, and a signature under the key it certifies. -/
def halfOk (a : AuthHalf) (link : Nat) : Bool :=
  a.nonceA.length == 48 && a.nonceB.length == 48 && Config.certVerifies a.cert &&
    ecdsaDigestVerifies (Config.certifiedKey a.cert) (sha384 (a.nonceA ++ a.nonceB ++ [BitVec.ofNat 8 link])) a.sig

/-- R443: the two dies of a link authenticate each other. A die that fails a check is withdrawn with its unit.
Requests that waited for a die to pass are sent again. The measurements follow until the boot is over (R444; assumption 96). -/
def execLinkAuthentication (link : Nat) (msg : AuthMsg) (s : State) : Host.Outcome State Fault Refusal :=
  .next (match linkDies link with
    | none => s
    | some (a, b) =>
      if !s.powered || (s.die a).st == .withdrawn || (s.die b).st == .withdrawn then s
      else
        let s := if halfOk msg.there link then s else s.withdrawUnit a 1
        let s := if halfOk msg.back link then s else s.withdrawUnit b 1
        let s := if halfOk msg.there link && halfOk msg.back link && !s.links.contains link then { s with links := link :: s.links } else s
        let s := if s.booted then s else s.setAuth.measure
        s.setAuth.homesBack.resend.pushAll [.porterRecordSelect 0, .porterRecordSelect 1])

/-- R442: after a boot in which every good unit has authenticated, the floors rise to the accepted versions. -/
def execSvnFloorRaise (s : State) : Host.Outcome State Fault Refusal :=
  .next (
    if s.powered && s.booted then
      { s with svnFloor := Vector.ofFn fun t => max s.svnFloor[t] (s.svnSeen[t].getD 0) }
    else s)

/-! ## Attestation (R444): the response codes of DSP0274 are assumed -/

/-- An answer of the leading Annex, where there is one. -/
def State.spdm (s : State) (code : Byte) (body : List Byte) : State :=
  if s.powered && s.leader.isSome then { s with answers := s.answers ++ [.spdm code body] } else s

/-- The certificate chain of the leading Annex. -/
def State.chain (s : State) : List Byte := Config.certChain (s.leader.getD 2)

def execSpdmGetVersion (_req : List Byte) (s : State) : Host.Outcome State Fault Refusal := .next (s.spdm 0x04 [0x12])

def execSpdmGetCapabilities (_req : List Byte) (s : State) : Host.Outcome State Fault Refusal := .next (s.spdm 0x61 Config.spdmCapabilities)

/-- SHA-384 and ECDSA over P-384 only. -/
def execSpdmNegotiateAlgorithms (_req : List Byte) (s : State) : Host.Outcome State Fault Refusal := .next (s.spdm 0x63 [0x80, 0x02])

def execSpdmGetDigests (_req : List Byte) (s : State) : Host.Outcome State Fault Refusal := .next (s.spdm 0x01 (sha384 s.chain))

def execSpdmGetCertificate (_req : List Byte) (s : State) : Host.Outcome State Fault Refusal := .next (s.spdm 0x02 s.chain)

/-- A signature over the request and the certificate chain's digest. -/
def execSpdmChallenge (req : List Byte) (s : State) : Host.Outcome State Fault Refusal :=
  .next (s.spdm 0x03 (Config.ecdsaSign (req ++ sha384 s.chain)))

/-- Blocks 1 to 7, and block 8: an LMS signature over them. -/
def execSpdmGetMeasurements (_req : List Byte) (s : State) : Host.Outcome State Fault Refusal :=
  .next (s.spdm 0x60 (s.measured ++ Config.lmsSign s.measured))

/-! ## Power, thermal and clock (R447, R448) -/

/-- A junction above 105 °C, in 1/16 °C. -/
def Die.hot (d : Die) : Bool := 1680 < d.temp

/-- R448: a junction temperature of a die: above 105 °C it forces 470 MHz and posts a THERMAL report; above 115 °C it also asserts the board's
thermal trip and removes core power. -/
def State.junction (s : State) (die temp : Nat) : State :=
  if 6 ≤ die then s
  else
    let s := s.modDie die fun d => { d with temp := temp }
    let s := if 1680 < temp then ({ s with step := 10 }).postHealth die 1 5 else s
    if 1840 < temp then { s with thermalTrip := true, coresOn := false } else s

def execThermalThrottle (die temp : Nat) (s : State) : Host.Outcome State Fault Refusal := .next (s.junction die temp)

def execThermalTrip (die temp : Nat) (s : State) : Host.Outcome State Fault Refusal := .next (s.junction die temp)

/-- R447: 400 W to the variant's thermal design power, in steps of 10 W; no other value is taken. -/
def execPldmSetPowerCap (watts : Nat) (s : State) : Host.Outcome State Fault Refusal :=
  .next (if 400 ≤ watts && watts ≤ s.variant.tdp && watts % 10 == 0 then { s with powerCap := watts } else s)

/-- R447: 470 to 940 MHz, in steps of 47 MHz; the clock never exceeds its ceiling. -/
def execPldmSetClockCeiling (mhz : Nat) (s : State) : Host.Outcome State Fault Refusal :=
  .next (if 470 ≤ mhz && mhz ≤ 940 && mhz % 47 == 0 then { s with clockCeil := mhz, step := min s.step (mhz / 47) } else s)

def execPldmReadTemperature (die : Nat) (s : State) : Host.Outcome State Fault Refusal :=
  .next (
    let (k, s) := s.draw
    { s with answers := s.answers ++ [.temperature die (s.die die).temp (Config.hbmTemperature k)] })

def execPldmReadPackagePower (s : State) : Host.Outcome State Fault Refusal := .next { s with answers := s.answers ++ [.power s.packagePower] }

/-- R447: with the package power averaged over 1 ms, in mW, the clock takes the highest step that the cap, the ceiling and the temperatures
allow, of 470 MHz and up. How the power follows the step the spec does not say: the highest step within the cap is a free value
(assumption 97). -/
def execClockStepChange (power : Nat) (s : State) : Host.Outcome State Fault Refusal :=
  .next (
    let top := s.clockCeil / 47
    let s := { s with packagePower := power }
    if s.dies.toList.any Die.hot then { s with step := 10 }
    else { s with step := max 10 (min top (Config.capStep s.powerCap power s.step)) })

end Sys2Proof.Machine
end

