-- ==== Sys2Proof/Machine/Host.lean ====
section
/-! DEFINITION. The host's side: management registers (R428, with the field maps of their own rules), doorbells (R370, R397), host
commands (R388), BAR2 and peer accesses (R434 to R436), link retraining (R437) and function-level resets (R434). -/

namespace Sys2Proof.Machine

/-! ## Fields -/

/-- Bits lo to lo + n - 1 of a register, the others 0. -/
def keep (lo n : Nat) (x : W64) : W64 := x &&& BitVec.ofNat 64 ((2 ^ n - 1) * 2 ^ lo)

def hi32 (x : W64) : W32 := x.extractLsb' 32 32
def lo32 (x : W64) : W32 := x.extractLsb' 0 32

/-! ## Violations of a function (R397, R398) -/

/-- A function is frozen: its running contexts halt, and the event names it. -/
def State.freezeFn (s : State) (vf : Nat) : State :=
  let s := s.modFn vf fun f => { f with frozen := true, fcode := 0x0C }
  let mine := s.ctxs.filter fun c => c.2.vf == vf && c.2.st != .halted && c.2.st != .saved && c.2.st != .killed
  (s.postEventOn .halt 0 vf 0 (haltBody 0xFFFF 0x0C 0 0)).haltAll (mine.map (·.1))

/-! ## What a register write sets going -/

/-- Fault records that cores hold leave for where they now go (R33, R386). -/
def State.repostFaults (s : State) : State :=
  (s.cores.filter fun c => !c.2.held.isEmpty).foldl (fun s c => State.postFaults c.1 (s.core c.1).held s) s

def selects : List Instr := [.porterRecordSelect 0, .porterRecordSelect 1]

/-- Saved contexts may find a place. -/
def State.retryRestores (s : State) : State :=
  s.pushAll ((s.ctxs.filter fun c => c.2.st == .saved && !c.2.reqOpen).map fun c => .contextRestore c.1 .fromRecord)

/-! ## Registers -/

/-- R17: not while any context is in STATE 1 to 5. -/
def State.writeAstb (s : State) (x : W64) : State :=
  if s.ctxs.any fun c => c.2.st != .none && c.2.st != .killed then s else { s with astb := keep 0 1 x ||| keep 16 36 x }

/-- R64: K above 64 is stored as 64; every sketch and table is cleared, and a new interval begins. -/
def State.writeHotctl (s : State) (x : W64) : State :=
  let k := min (x.extractLsb' 1 7).toNat 64
  { s with hotctl := keep 0 1 x ||| BitVec.ofNat 64 (2 * k) ||| keep 8 10 x, hotStart := s.time, sketches := mapEach s.sketches fun (k : Sketch) => { Sketch.reset with seq := k.seq } }

def State.writeMgtl (s : State) (a : Nat) (x : W64) : State := (s.modAnnex a fun y => { y with mgtl := lo32 x }).push (.migrationCommand a)

/-- R427: a write to DCTL. -/
def State.writeDctl (s : State) (die : Nat) (x : W64) : State :=
  let s := if x.getLsbD 1 && die < 6 then (s.modUnit (unitOf die) fun d => { d with withdrawBit := true }).withdrawUnit die 2 else s
  if x.getLsbD 0 then s.resetUnit die else s

/-- R386: held fault records go to their new destination, and the filters are emptied (R81). -/
def State.writeDsr (s : State) (f : Nat) (x : W64) : State :=
  let s := s.modFn f fun r => { r with dsr := x.extractLsb' 0 7 }
  ({ s with cores := s.cores.map fun (c : Nat × Core) => (c.1, { c.2 with filter := [] }) }).repostFaults

/-- R398: FROZEN is cleared by writing 1. -/
def State.writeVfrz (s : State) (f : Nat) (x : W64) : State :=
  if x.getLsbD 0 then ((s.modFn f fun r => { r with frozen := false }).pushAll selects).push (.handlerLaunchStart f) else s

/-- R384. -/
def State.writeEvhl (s : State) (f : Nat) (evha : Bool) (x : W64) : State :=
  (s.modFn f fun r => if evha then { r with evha := x.extractLsb' 0 13, handlerOff := false } else { r with evhl := keep 0 57 x, handlerOff := false }).push
    (.handlerLaunchStart f)

/-- R387: only HEAD changes. -/
def State.writeRingHead (s : State) (f : Nat) (events : Bool) (x : W64) : State :=
  if events then (s.modFn f fun r => { r with heHead := hi32 x }).push (.eventHeldPost f)
  else (s.modFn f fun r => { r with hfHead := hi32 x }).repostFaults

/-- R387: only TAIL changes. -/
def State.writeCmdTail (s : State) (f : Nat) (x : W64) : State := s.modFn f fun r => { r with hcTail := lo32 x }

def setSparse (l : List (Nat × W32)) (k : Nat) (x : W32) : List (Nat × W32) := if x == 0 then remove l k else insert l k x

/-- R416: who may write which fields of a Resolver-slot register. -/
def State.writeRsown (s : State) (by_ : Writer) (hall slot : Nat) (x : W64) : State :=
  if 2 ≤ hall || 64 ≤ slot then s
  else
    let old := s.rsownOf hall slot
    let put (r : W32) : State := { s with rsown := setSparse s.rsown (64 * hall + slot) r }.retryRestores
    let part (vf : Nat) : State := if rsV old && rsVf old == vf then put ((old &&& 0x7F) ||| (lo32 x &&& 0x00FFFF80)) else s
    match by_ with
    | .physical => put (lo32 x &&& 0x00FFFFFF)
    | .supervisor vf => part vf
    | .hostOf vf => part vf
    | .other => s

/-- R432: the pair changes as a whole, at the write of DTOFF. -/
def State.writeDtrate (s : State) (die : Nat) (x : W64) : State := s.modDie die fun d => { d with heldRate := some (lo32 x) }

def State.writeDtoff (s : State) (die : Nat) (x : W64) : State :=
  s.modDie die fun d => { d with dtoff := x, dtrate := d.heldRate.getD d.dtrate, heldRate := none }

/-- R370, R397: a doorbell of a function's own queue; any other is a violation. A frozen function's writes are ignored, and the
doorbell of a privileged queue (R382). -/
def State.writeDoorbell (s : State) (vf q : Nat) (x : W64) : State :=
  let (s, e) := s.queue q
  if 256 ≤ q || (s.fn vf).frozen then s
  else if e.vf != vf then s.freezeFn vf
  else if e.priv then s
  else { s with doorbells := setSparse s.doorbells q (lo32 x) }.pushAll selects

/-- LOGN in bits 4-0, BASE in bits 51-6 (R387). -/
def ringWord (x : W64) : W64 := keep 0 5 x ||| keep 6 46 x

/-- A write to one of the registers that every window has. -/
def State.writeOwn (s : State) (vf off : Nat) (x : W64) : State :=
  if off == 0x10 then s.writeEvhl vf false x
  else if off == 0x18 then s.modFn vf fun f => { f with evdrop := x }
  else if off == 0x20 then (s.modFn vf fun f => { f with hfrb := ringWord x }).repostFaults
  else if off == 0x28 then s.writeRingHead vf false x
  else if off == 0x30 then (s.modFn vf fun f => { f with herb := ringWord x }).push (.eventHeldPost vf)
  else if off == 0x38 then s.writeRingHead vf true x
  else if off == 0x40 then s.modFn vf fun f => { f with hcrb := ringWord x }
  else if off == 0x48 then s.writeCmdTail vf x
  else if off == 0x90 then s.writeEvhl vf true x
  else if 0x1000 ≤ off && off < 0x1800 then s.writeDoorbell vf ((off - 0x1000) / 8) x
  else if 0x2000 ≤ off && off < 0x2400 then s.writeRsown (.hostOf vf) ((off - 0x2000) / 0x200) ((off - 0x2000) % 0x200 / 8) x
  else if vf == 0 && 0x40000 ≤ off && off < 0x40000 + 0x800 * 384 && (off - 0x40000) % 0x800 == 0x600 then
    s.modCore ((off - 0x40000) / 0x800) fun c => { c with fbUnreach := x }
  else s

/-- A write to an Annex's registers. -/
def State.writeAnnex (s : State) (a k : Nat) (x : W64) : State :=
  if k == 0 then (s.modAnnex a fun y => { y with mgrb := keep 0 4 x ||| keep 12 40 x }).push (.migrationCommand a)
  else if k == 1 then s.writeMgtl a x
  else if k == 3 then s.modDie (2 + a) fun d => { d with peer := x.extractLsb' 0 8 }
  else s

/-- A write to a die's registers. -/
def State.writeDie (s : State) (die k : Nat) (x : W64) : State :=
  if k == 1 then s.writeDctl die x
  else if k == 2 then s.writeDtoff die x
  else if k == 3 then s.writeDtrate die x
  else if k == 4 then s.modDie die fun d => { d with cdefl := x, cdeflAt := s.time }
  else if k == 5 then s.modDie die fun d => { d with cnak := x }
  else s

/-- A write to a counter of an Undercroft. -/
def Undercroft.put (u : Undercroft) (k : Nat) (x : W64) : Undercroft :=
  if k == 0 then { u with cmpwb := x } else if k == 1 then { u with rawwb := x } else if k == 2 then { u with saved := x } else { u with mdBad := x }

/-- A write to one of the registers of the physical function's window alone. -/
def State.writePf (s : State) (off : Nat) (x : W64) : State :=
  if off == 0x10000 then s.writeAstb x
  else if off == 0x10008 then { s with qtb := keep 0 1 x ||| keep 16 36 x }.pushAll selects
  else if off == 0x10010 then s.writeHotctl x
  else if off == 0x10018 then { s with hotbuf := keep 14 38 x }
  else if off == 0x10020 then { s with mgwt := keep 0 1 x ||| keep 7 45 x }
  else if 0x10028 ≤ off && off < 0x10048 then { s with freeRings := s.freeRings.setIfInBounds ((off - 0x10028) / 8) (keep 0 4 x ||| keep 12 40 x) }
  else if 0x10100 ≤ off && off < 0x10180 then s.writeAnnex ((off - 0x10100) / 0x40) ((off - 0x10100) % 0x40 / 8) x
  else if 0x10200 ≤ off && off < 0x10380 then s.writeDie ((off - 0x10200) / 0x40) ((off - 0x10200) % 0x40 / 8) x
  else if 0x10400 ≤ off && off < 0x10600 then
    (s.modFn ((off - 0x10400) / 8) fun f => { f with weight := x.extractLsb' 0 8, ceil := x.extractLsb' 8 3, pbud := x.extractLsb' 16 16 }).pushAll selects
  else if 0x10600 ≤ off && off < 0x10800 then s.writeVfrz ((off - 0x10600) / 8) x
  else if 0x10800 ≤ off && off < 0x11800 then
    s.modFn ((off - 0x10800) / 0x40) fun f => { f with vfw := f.vfw.setIfInBounds ((off - 0x10800) % 0x40 / 8) (keep 0 52 x) }
  else if 0x11800 ≤ off && off < 0x11A00 then s.writeDsr ((off - 0x11800) / 8) x
  else if 0x12000 ≤ off && off < 0x12400 then s.writeRsown .physical ((off - 0x12000) / 0x200) ((off - 0x12000) % 0x200 / 8) x
  else if 0x13000 ≤ off && off < 0x13040 then
    let u := (off - 0x13000) / 0x20
    { s with crofts := s.crofts.setIfInBounds u (((s.crofts[u]?).getD Undercroft.reset).put ((off - 0x13000) % 0x20 / 8) x) }
  else s

/-- R428: a write to a function's window. Only aligned accesses of 8 bytes reach a register; a write past the window is a violation
of the function (R397). -/
def State.writeRegister (s : State) (vf off size : Nat) (x : W64) : State :=
  if 0x100000 ≤ off then s.freezeFn vf
  else if size != 8 || off % 8 != 0 then s
  else if vf == 0 && 0x10000 ≤ off && off < 0x40000 then s.writePf off x
  else s.writeOwn vf off x

/-- A write that reaches the host port (R429, R443). -/
def State.onLink (s : State) (f : State → State) : Host.Outcome State Fault Refusal := .next (if s.hostLink then f s else s)

def execManagementRegisterWrite (vf off size : Nat) (val : W64) (s : State) : Host.Outcome State Fault Refusal := s.onLink (·.writeRegister vf off size val)
def execAstbWrite (val : W64) (s : State) : Host.Outcome State Fault Refusal := s.onLink (·.writeAstb val)
def execHotctlWrite (val : W64) (s : State) : Host.Outcome State Fault Refusal := s.onLink (·.writeHotctl val)
def execMgtlWrite (annex : Nat) (val : W64) (s : State) : Host.Outcome State Fault Refusal := s.onLink (·.writeMgtl annex val)
def execDsrWrite (f : Nat) (val : W64) (s : State) : Host.Outcome State Fault Refusal := s.onLink (·.writeDsr f val)
def execVfrzClear (f : Nat) (val : W64) (s : State) : Host.Outcome State Fault Refusal := s.onLink (·.writeVfrz f val)
def execEvhlWrite (f : Nat) (evha : Bool) (val : W64) (s : State) : Host.Outcome State Fault Refusal := s.onLink (·.writeEvhl f evha val)
def execHostRingHeadWrite (f : Nat) (events : Bool) (val : W64) (s : State) : Host.Outcome State Fault Refusal := s.onLink (·.writeRingHead f events val)
def execHcrbTailWrite (f : Nat) (val : W64) (s : State) : Host.Outcome State Fault Refusal := s.onLink (·.writeCmdTail f val)
def execRsownWrite (by_ : Writer) (hall slot : Nat) (val : W64) (s : State) : Host.Outcome State Fault Refusal := s.onLink (·.writeRsown by_ hall slot val)
def execDtrateWrite (die : Nat) (val : W64) (s : State) : Host.Outcome State Fault Refusal := s.onLink (·.writeDtrate die val)
def execDtoffWrite (die : Nat) (val : W64) (s : State) : Host.Outcome State Fault Refusal := s.onLink (·.writeDtoff die val)

/-- R432: the effective rate is latched for the next read of DTRATE. -/
def execDtoffRead (die : Nat) (s : State) : Host.Outcome State Fault Refusal := s.onLink fun s => s.modDie die fun d => { d with latched := some d.dtrate }

def execDoorbellWrite (vf q : Nat) (val : W64) (s : State) : Host.Outcome State Fault Refusal := s.onLink (·.writeDoorbell vf q val)

/-! ## Host commands (R388) -/

/-- The command at HEAD, where there is one to perform: commands of a frozen function are ignored, and they are performed one at a
time. -/
def State.command (s : State) (vf : Nat) : Option Nat :=
  let f := s.fn vf
  if !s.hostLink || f.frozen || f.cmdBusy || ringLog f.hcrb == 0 || f.hcHead == f.hcTail then none
  else some (Mem.readN s.host (ringBase f.hcrb + 32 * (f.hcHead.toNat % 2 ^ ringLog f.hcrb)) 32)

/-- TLBINV and MAPQ. A base that R365 refuses completes with BAD_COMMAND. -/
def State.cmdMaint (s : State) (vf x : Nat) (inv : Bool) : State :=
  let sc := bitsOf x 8 2
  let base := BitVec.ofNat 64 (bitsOf x 64 64)
  let args : MaintArgs := ⟨sc, bitsOf x 16 13, base, bitsOf x 32 32⟩
  if sc == 3 then s.finishCommand vf 5
  else
    let (s, a) := if sc == 2 then (s, 0) else s.asidEntry none args.asid
    if sc != 2 && vf != 0 && asidVf a != vf then s.finishCommand vf 3
    else if sc == 0 && (!canonical base || upperHalf base) then s.finishCommand vf 5
    else if sc == 0 && args.count == 0 then s.finishCommand vf 1
    else ((s.modFn vf fun f => { f with cmdBusy := true }).startMaint inv sc args.asid args.range.1 args.range.2 vf (.host vf)).1

def State.cmdHaltc (s : State) (vf x : Nat) : State :=
  let sc := bitsOf x 8 2
  let cid := bitsOf x 32 16
  if sc == 3 then s.finishCommand vf 5
  else if !s.reaches vf cid then s.finishCommand vf 3
  else match s.haltcFor cid sc (hostFocus vf) with
    | .done r s => s.finishCommand vf (r + 1)
    | .wait s => s

/-- PLACE answers the open request it names (R375, R400). -/
def State.cmdPlace (s : State) (vf x : Nat) : State :=
  let key := bitsOf x 32 32
  let x0 := bitsOf x 72 5
  let y0 := bitsOf x 80 4
  let mine (c : Ctx) : Bool := vf == 0 || c.vf == vf
  if bitsOf x 88 1 == 1 then
    match s.ctx (key % 65536) with
    | none => s.finishCommand vf 4
    | some c =>
      if !mine c then s.finishCommand vf 3
      else if c.st != .saved || !c.reqOpen || !s.rectGood ⟨x0, y0, c.rect.w, c.rect.h⟩ then s.finishCommand vf 4
      else ((s.setCtx c.cid { c with reqOpen := false, restoreTo := some (x0, y0) }).push (.contextRestore c.cid .fromRecord)).finishCommand vf 1
  else
    match s.heldCtx (bitsOf x 64 8) with
    | none => s.finishCommand vf 4
    | some c =>
      let r : Rect := ⟨x0, y0, c.rcd.w, c.rcd.h⟩
      if !mine c || !c.reqOpen || c.placed || c.st != .placing || c.rcd.seq.toNat != key || !s.rectGood r then s.finishCommand vf 4
      else (s.place c.cid r).finishCommand vf 1

/-- One pending command of a function, where it is of a kind that `want` takes. -/
def State.serveCommand (s : State) (vf : Nat) (want : Nat → Nat → Bool) : State :=
  match s.command vf with
  | none => s
  | some x =>
    let op := bitsOf x 0 8
    if !want op (bitsOf x 8 2) then s
    else if op == 1 then s.cmdMaint vf x true
    else if op == 2 then s.cmdMaint vf x false
    else if op == 3 then s.cmdHaltc vf x
    else if op == 4 then s.cmdPlace vf x
    else s.finishCommand vf 5

def execHostCmdTlbinv (vf : Nat) (s : State) : Host.Outcome State Fault Refusal := .next (s.serveCommand vf fun op _ => op == 1)
def execHostCmdMapq (vf : Nat) (s : State) : Host.Outcome State Fault Refusal := .next (s.serveCommand vf fun op _ => op == 2)
def execHostCmdHaltcHalt (vf : Nat) (s : State) : Host.Outcome State Fault Refusal := .next (s.serveCommand vf fun op sc => op == 3 && sc == 0)
def execHostCmdHaltcResume (vf : Nat) (s : State) : Host.Outcome State Fault Refusal := .next (s.serveCommand vf fun op sc => op == 3 && sc == 1)
def execHostCmdHaltcKill (vf : Nat) (s : State) : Host.Outcome State Fault Refusal := .next (s.serveCommand vf fun op sc => op == 3 && sc == 2)
def execHostCmdPlace (vf : Nat) (s : State) : Host.Outcome State Fault Refusal := .next (s.serveCommand vf fun op _ => op == 4)

/-! ## BAR2, peers and links (R434 to R437) -/

/-- The physical address of an offset in a virtual function's BAR2, with the bytes left of its window. -/
def windowAt : List W64 → Nat → Option (Nat × Nat)
  | [], _ => none
  | w :: l, off =>
    match vfwRange w with
    | none => windowAt l off
    | some (b, n) => if off < n then some (b + off, n - off) else windowAt l (off - n)

def accSize : HostAccess → Nat
  | .read n => n
  | .write l => l.length
  | .atomic _ _ wide _ _ => if wide then 8 else 4

/-- Bytes that are populated and not withdrawn; an atomic is aligned. -/
def State.reachable (s : State) (pa : Nat) (acc : HostAccess) : Bool :=
  (match acc with | .atomic _ _ _ _ _ => pa % accSize acc == 0 | _ => true) &&
    (List.range (accSize acc)).all fun i => (s.region (pa + i)).isSome && !s.withdrawnAt (pa + i)

/-- An access from outside, performed at the homes (R434, R436): one whose home is in reset is held like any other (R431). An atomic is of any
type of R56. -/
def State.outside (s : State) (pa : Nat) (acc : HostAccess) : State :=
  match acc with
  | .read n =>
    let (s, x) := s.readMem pa n
    { s with answers := s.answers ++ [.bar ((List.range n).map fun i => BitVec.ofNat 8 (x / 2 ^ (8 * i)))] }
  | .write l => s.writeMem pa l.length (leNat l)
  | .atomic op ty wide a b =>
    let (s, old) := (s.meet (pa / 128)).homeAtomic (pa / 128) (pa % 128) wide op ty a b false false
    { s with answers := s.answers ++ [.bar ((List.range (accSize acc)).map fun i => BitVec.ofNat 8 (old.toNat / 2 ^ (8 * i)))] }

/-- R434: an access through BAR2: the physical function's covers the physical addresses, another's its windows in order. -/
def execHostBar2Access (vf off : Nat) (acc : HostAccess) (s : State) : Host.Outcome State Fault Refusal :=
  .next (
    let at_ := if vf == 0 then some (off, 2 ^ 52 - off) else windowAt (s.fn vf).vfw.toList off
    match at_ with
    | some (pa, left) => if s.hostLink && accSize acc ≤ left && s.reachable pa acc then s.outside pa acc else s
    | none => s)

/-- R436: an inbound peer access; one on a port that is not enabled, or outside the populated regions, is refused. -/
def execPeerInboundAccess (port pa : Nat) (acc : HostAccess) (s : State) : Host.Outcome State Fault Refusal :=
  .next (
    let d := s.die (2 + port / 8)
    if 16 ≤ port || d.st != .good then s
    else if !d.peer.getLsbD (port % 8) || (List.range (accSize acc)).any (fun i => (s.region (pa + i)).isNone) then
      { s with answers := s.answers ++ [.refusedPeer port] }
    else if s.reachable pa acc then s.outside pa acc else s)

/-- R437: a link goes on with fewer lanes; port 0 is the host link. -/
def execLinkRetrained (port lanes : Nat) (s : State) : Host.Outcome State Fault Refusal :=
  .next (s.postEvent .linkRetrained 0 (if port ≤ 8 then 2 else 3) (port % 256 + 2 ^ 8 * (lanes % 256)))

/-! ## Function-level reset (R434) -/

/-- LOGN is 0 in every queue entry of a function, and its doorbells are 0. -/
def State.stopQueues (s : State) (f : Nat) : State :=
  (List.range 256).foldl (fun s q =>
    let (s, e) := s.queue q
    if e.vf == f then
      { (if e.logn == 0 then s else s.writeMem (s.queueAt q + 8) 1 (e / 2 ^ 64 % 256 / 16 * 16)) with doorbells := remove s.doorbells q }
    else s) s

/-- HALTC.kill of a context, without a wait (R363). -/
def State.killSoon (s : State) (cid : Nat) : State :=
  match s.ctx cid with
  | none => s
  | some c => match c.st with
    | .killed => s
    | .halted | .saved => s.kill cid
    | _ => (s.raiseHalt cid .haltRequest 0).modCtx cid fun c => { c with killAfter := true }

/-- The registers of a function at reset; its windows, VFS and the device's own accounts of it stay. -/
def Fn.levelReset (f : Fn) : Fn :=
  { Fn.reset with weight := f.weight, ceil := f.ceil, pbud := f.pbud, vfw := f.vfw, eseq := f.eseq, heldEv := f.heldEv, waitEv := f.waitEv, handler := f.handler,
                  served := f.served, spent := f.spent }

def execFunctionLevelReset (f : Nat) (s : State) : Host.Outcome State Fault Refusal :=
  .next (
    if f == 0 || 64 ≤ f || !s.hostLink then s
    else
      let s := (s.ctxs.filter fun c => c.2.vf == f).foldl (fun s c => s.killSoon c.1) s
      let s := s.stopQueues f
      let s := { s with maints := s.maints.map fun (m : MaintOp) => if m.owner == MaintFor.host f then { m with owner := .porter } else m }
      s.modFn f Fn.levelReset)

end Sys2Proof.Machine
end

