-- ==== Sys2Proof/Machine/Lod.lean ====
section
/-! DEFINITION. Level-of-detail fetches (R71 to R83): descriptors, level geometry, the residency map, the fetch, the
feedback ring, and the instructions LDLOD, TXG and RESQ (R308 to R310). -/

namespace Sys2Proof.Machine

/-! ## Descriptors and geometry (R71 to R73) -/

/-- A resource descriptor: the fields of its 64 bytes. -/
structure Lod where
  bits : BitVec 512
  base : Nat
  map : W64
  rid : Nat
  wm1 : Nat
  hm1 : Nat
  nl : Nat
  tail : Nat
  esz : Nat
  ltw : Nat
  lth : Nat
  const : Nat
  ring : W64
  deriving DecidableEq, Repr

def lodOf (x : BitVec 512) : Lod :=
  let f (lo n : Nat) : Nat := (x.extractLsb' lo n).toNat
  { bits := x, base := f 0 57, map := BitVec.ofNat 64 (f 64 57), rid := f 128 24, wm1 := f 160 14, hm1 := f 176 14, nl := f 192 4,
    tail := f 196 4, esz := f 200 3, ltw := f 208 5, lth := f 216 5, const := f 256 128, ring := BitVec.ofNat 64 (f 384 57) }

namespace Lod

def width (d : Lod) (j : Nat) : Nat := max 1 ((d.wm1 + 1) / 2 ^ j)
def height (d : Lod) (j : Nat) : Nat := max 1 ((d.hm1 + 1) / 2 ^ j)
def tilesX (d : Lod) (j : Nat) : Nat := (d.width j + 2 ^ d.ltw - 1) / 2 ^ d.ltw
def tilesY (d : Lod) (j : Nat) : Nat := (d.height j + 2 ^ d.lth - 1) / 2 ^ d.lth

def levelBase (d : Lod) : Nat → Nat
  | 0 => d.base
  | j + 1 => levelBase d j + 0x40000 * d.tilesX j * d.tilesY j

/-- A BASE that is not 256 KiB aligned is used as it stands, since R72 does not call its descriptor ill formed; the part of a texel past
its line's end then reads zeros (assumption 85). -/
def address (d : Lod) (j x y : Nat) : W64 :=
  BitVec.ofNat 64 (d.levelBase j + 0x40000 * (y / 2 ^ d.lth * d.tilesX j + x / 2 ^ d.ltw) +
    (y % 2 ^ d.lth * 2 ^ d.ltw + x % 2 ^ d.ltw) * 2 ^ d.esz)

/-- R72: every reserved bit is 0, a tile fills a page, the tail begins within the levels, and the tile counts fit. R71 gives ESZ the range 0
to 4, which the list of R72 does not repeat: 5 to 7 is not well formed here (assumption 85). -/
def wellFormed (d : Lod) : Bool :=
  let zero (lo n : Nat) : Bool := (d.bits.extractLsb' lo n).toNat == 0
  zero 57 7 && zero 121 7 && zero 152 8 && zero 174 2 && zero 190 2 && zero 203 5 && zero 213 3 && zero 221 3 && zero 224 32 &&
    zero 441 7 && zero 448 64 && 1 ≤ d.nl && d.esz ≤ 4 && d.ltw + d.lth + d.esz == 18 && d.tail + 1 ≤ d.nl &&
    d.tilesX 0 ≤ 4096 && d.tilesY 0 ≤ 4096

end Lod

/-! ## Reads of the gather and texel unit -/

/-- A texel through the texel cache (R52): 512 lines of clean data. -/
def Env.texel (e : Env) (va : W64) (pa n : Nat) (tier : Bool) (s : State) : State × Nat :=
  match (s.core e.f.core).tex.find? fun t => t.asid == e.asid && t.line == pa / 128 with
  | some t => (s, lineBytes t.data (pa % 128) n)
  | none =>
    let (s, x) := s.homeRead (pa / 128) tier
    (s.modCore e.f.core fun c => { c with tex := ((⟨e.asid, pa / 128, lookupPage va, x⟩ : TexLine) :: c.tex).take 512 },
      lineBytes x (pa % 128) n)

/-! ## Feedback (R80 to R82) -/

/-- Whether a translation reaches a writable Atrium page, with the Atrium offset. -/
def atriumOff : TRes → Option Nat
  | .ok (.atrium off) => some off
  | _ => none

/-- A translation of a lower-half address outside the Alcove. -/
def Env.translateLow (e : Env) (s : State) (k : Kind) (acc : Accept) (va : W64) : State × TRes :=
  if canonical va && !upperHalf va && !inAlcove va then e.translate s k acc va else (s, .fault .aperture)

/-- R80: one reserve operation for a key that the filter does not hold (assumption 21). A header that cannot be reached counts in
FB_UNREACH (R82). A RING that is not 64-byte aligned names the row it lies in (assumption 85). -/
def Env.feedback (e : Env) (d : Lod) (l x0 y0 status : Nat) (s : State) : State :=
  let key : FbKey := ⟨e.asid, d.rid, l, x0 / 2 ^ l / 2 ^ d.ltw, y0 / 2 ^ l / 2 ^ d.lth⟩
  if (s.core e.f.core).filter.contains key then s
  else
    match e.translateLow s .store .atrium d.ring with
    | (s, r) => match atriumOff r with
      | some off =>
        let s := if s.fbRings.contains (e.asid, d.ring) then s else { s with fbRings := s.fbRings ++ [(e.asid, d.ring)] }
        (e.request (.fbReserve (off / 64 * 64) key status) .drop 0 s).push (.feedbackReserve s.nextReq)
      | none => e.modCore s fun c => { c with fbUnreach := c.fbUnreach + 1 }

/-! ## The fetch (R77) -/

/-- What a fetch gives a lane: a texel, its status and the granted level; a fault on the map's page; or nothing yet, while a walk is
under way that it needs (R29). -/
inductive Fetch where
  | got (s : State) (texel status level : Nat)
  | bad (va : W64) (c : FaultCode)
  | wait (s : State)

/-- The lookup of the texel unit: the TLB, then the walk, which joins the miss table (R29). With `quiet` a walk that has missed is
answered by the mark it left, and fills no TLB entry (R77). -/
def Env.texLookup (e : Env) (quiet : Bool) (va : W64) (s : State) : State × TRes :=
  let page := lookupPage va
  if !canonical va then (s, .fault .nonCanonical)
  else if upperHalf va || inAlcove va then (s, .fault .aperture)
  else match (s.core e.f.core).findTlb e.asid va with
    | some t => (s, s.useLeaf e.vf e.sup t va .load .memory)
    | none => match lookup e.sp.badPages (if quiet then lodMark page else page) with
      | some c => (s, .fault c)
      | none => (e.requestWalk page s quiet, .miss page)

/-- The loop over levels from g: `fuel` levels are left at most. -/
def Env.lodLevels (e : Env) (d : Lod) (l x0 y0 : Nat) (read log : Bool) : Nat → Nat → Bool → State → Fetch
  | 0, _, _, s => .got s (d.const % 2 ^ (8 * 2 ^ d.esz)) 4 15
  | fuel + 1, g, descended, s =>
    let const := d.const % 2 ^ (8 * 2 ^ d.esz)
    let fb (s : State) (st : Nat) : State := if log then e.feedback d l x0 y0 st s else s
    let va := d.address g (x0 / 2 ^ g) (y0 / 2 ^ g)
    let (s, r) := e.texLookup true va s
    match r with
    | .miss _ => .wait s
    | .fault .withdrawn => .got s const 5 15
    | .ok (.mem pa _ tier true) =>
      let (s, t) := if read then e.texel va pa (2 ^ d.esz) tier s else (s, 0)
      let st := if l < g && d.tail ≤ g then 3 else if descended then 2 else if l < g then 1 else 0
      .got (if st == 0 then s else fb s st) t st g
    | _ =>
      if d.tail ≤ g then .got (fb s 4) const 4 15
      else Env.lodLevels e d l x0 y0 read log fuel (g + 1) true s

/-- A line that the unit has read for the instruction under way, by the virtual line it lies in (R76). -/
def Env.kept (e : Env) (va : W64) (s : State) : Option Line :=
  (((s.frame e.cid e.h).bind (·.group.split e.f.split)).bind (·.read)).bind fun o => lookup o.maps (va.toNat / 128)

def Env.keep (e : Env) (va : W64) (x : Line) (s : State) : State :=
  e.modSplit s fun sp => { sp with read := sp.read.map fun o => { o with maps := insert o.maps (va.toNat / 128) x } }

/-- LodFetch for a well-formed descriptor. The lanes of one instruction that name a map line share one read of it, those that go on after a
walk included (R76): the byte they go by may then be older than their lookup of the level (R87). -/
def Env.lodFetch (e : Env) (d : Lod) (l x0 y0 : Nat) (read log : Bool) (s : State) : Fetch :=
  let l := min l (d.nl - 1)
  let x0 := min x0 d.wm1
  let y0 := min y0 d.hm1
  let va := d.map + BitVec.ofNat 64 (y0 / 2 ^ d.lth * d.tilesX 0 + x0 / 2 ^ d.ltw)
  let go (x : Line) (s : State) : Fetch :=
    let m := lineBytes x (va.toNat % 128) 1
    e.lodLevels d l x0 y0 read log 16 (max l (if d.tail ≤ m then d.tail else m)) false s
  match e.kept va s with
  | some x => go x s
  | none =>
    match e.texLookup false va s with
    | (s, .miss _) => .wait s
    | (s, .fault .withdrawn) => .got s (d.const % 2 ^ (8 * 2 ^ d.esz)) 5 15
    | (_, .fault c) => .bad va c
    | (s, .ok (.mem pa _ tier _)) =>
      let (s, x) := s.homeRead (pa / 128) tier
      go x (e.keep va x s)
    | (_, _) => .bad va .aperture

/-! ## The instructions -/

/-- A descriptor, as an instruction meets it. -/
inductive LodRead where
  | desc (s : State) (d : Lod)
  | withdrawn (s : State)
  | stop (p : Perf)

/-- The descriptor's address checked and its 64 bytes read at their home (R71, R72). A replayable fault parks the split
with all of g unfinished. The instruction reads them once. -/
def Env.lodRead (e : Env) (va : W64) (u : Mask) (s : State) : LodRead :=
  match e.early .memory 64 64 (.va va) with
  | some c => .stop (.trap { code := c, fva := va &&& 0x01FFFFFFFFFFFFFF } s)
  | none =>
    match e.kept va s with
    | some x => .desc s (lodOf (BitVec.ofNat 512 (lineBytes x (va.toNat % 128) 64)))
    | none =>
    match e.texLookup false va s with
    | (s, .miss _) => .stop (.stay (e.modSplit s fun sp => { sp with unfinished := some u, wait := .access, asleep := true }))
    | (s, .ok (.mem pa _ tier _)) =>
      let (s, x) := s.homeRead (pa / 128) tier
      .desc (e.keep va x s) (lodOf (BitVec.ofNat 512 (lineBytes x (va.toNat % 128) 64)))
    | (s, .fault .withdrawn) => .withdrawn s
    | (s, .fault c) =>
      let s := e.arrived s
      .stop (if c == .vfViolation then .stay (e.violate va u s)
        else if c.replayable then .stay (e.park .load 5 u ((lanesOf u).map fun l => ⟨l, lookupPage va, c, va⟩) s)
        else .trap { code := c, umask := u, fva := va &&& 0x01FFFFFFFFFFFFFF } s)
    | (s, _) => .stop (.bad .aperture s)

/-- What a lane of a texel instruction comes to. -/
inductive LodLane where
  | done (s : State) (ws : List W32)
  | bad (va : W64) (c : FaultCode)
  | wait (s : State)

/-- The lanes of a fetch, each on its own (R31): `lane` gives the words of a lane's result registers. -/
def Env.lodLanes (e : Env) (u : Mask) (lane : Nat → State → LodLane)
    (finish : List (Nat × List W32) → State → State) (s : State) : Perf :=
  let go (p : Progress) (l : Nat) : Progress :=
    if p.violated then { p with pending := p.pending ++ [l] }
    else match lane l p.s with
      | .done s ws => { p with s := s, vals := p.vals ++ [(l, ws)] }
      | .wait s => { p with s := s, pending := p.pending ++ [l] }
      | .bad va c => { p with bad := p.bad ++ [⟨l, lookupPage va, c, va⟩], violated := c == .vfViolation }
  e.conclude .load 5 finish ((lanesOf u).foldl go ⟨s, [], [], [], false⟩)

def Env.unfinished (e : Env) (g : Mask) : Mask := (e.sp.unfinished.getD g) &&& g

/-- A coordinate: a negative I32 reads as 0 (R308). -/
def Env.coord (e : Env) (r l : Nat) : Nat :=
  let v := e.group.vreg r
  let x := Machine.lane v.lanes l
  if v.tag == 1#4 && x.getLsbD 31 then 0 else x.toNat

/-- The descriptor address: s[MS] plus IMM. -/
def Env.lodAddr (e : Env) (b : MBody) : W64 := e.u64 b.ms + b.imm.signExtend 64

/-- The tags of an integer coordinate block. -/
def coordTags (b : MBody) : List (Nat × (BitVec 4 → Bool)) := (List.range 3).map fun j => (b.mx.toNat + j, indexTag)

/-- The data span and the status of a texel load. -/
def lodWrites (md n : Nat) (tags : Nat → BitVec 4) (st : Nat) (vals : List (Nat × List W32)) : List RegWrite :=
  let col (j : Nat) : Lanes := lanesBy fun l => match lookup vals l with
    | some ws => (ws[j]?).getD 0
    | none => 0
  let m := maskOf (vals.map (·.1))
  ((List.range n).map fun j => .vec (md + j) m (col j) (tags j)) ++ [.vec st m (col n) 2#4]

/-- R308. -/
def execLdlod (h : Hdr) (b : MBody) : State → Host.Outcome State Fault Refusal :=
  issueWith (.ldlod h b) h (fun e => e.tagsOk (coordTags b)) fun e =>
    let u := e.unfinished (e.g h)
    let n := szBytes b.sz.toNat
    let k := n / 4
    let fin (vals : List (Nat × List W32)) (s : State) : State := e.gather (lodWrites b.md.toNat k (fun _ => b.mop) b.mc.toNat vals) s
    match e.lodRead (e.lodAddr b) u (e.opens (lodWrites b.md.toNat k (fun _ => b.mop) b.mc.toNat []) e.s) with
    | .stop p => p
    | .withdrawn s => e.lodLanes u (fun _ s => .done s (List.replicate k 0 ++ [5])) fin s
    | .desc s d =>
      if !d.wellFormed || n < 2 ^ d.esz then .bad .lodDescriptor s
      else e.lodLanes u (fun l s =>
        match e.lodFetch d (min 15 (e.coord (b.mx.toNat + 2) l)) (e.coord b.mx.toNat l) (e.coord (b.mx.toNat + 1) l) true true s with
        | .got s t st _ => .done s (wordsOf (max 4 n) false t ++ [BitVec.ofNat 32 st])
        | .wait s => .wait s
        | .bad va c => .bad va c) fin s

/-- The address modes of TXG (R309): 0 clamp, 1 wrap, 2 mirror. -/
def wrapCoord (mode : Nat) (c : Int) (n : Nat) : Nat :=
  match mode with
  | 0 => (clampInt 0 ((n : Int) - 1) c).toNat
  | 1 => (Int.emod c n).toNat
  | _ =>
    let m := (Int.emod c (2 * n : Nat)).toNat
    if n ≤ m then 2 * n - 1 - m else m

/-- The footprint of one coordinate at level L: floor(u × 2^-L - 0.5), clamped, and the fraction. -/
def footprint (u : W32) (l : Nat) : Int × W32 :=
  let half : Fv := .fin true 1 (-1)
  let su := fp32.value (fp32.ofValue .ieee .rne (((fp32.value u.toNat).mul (.fin false 1 (-(l : Int)))).add .rne half))
  let x := su.toInt .rd (-1073741824) 1073741824
  (x, if su.isNan then 0 else BitVec.ofNat 32 (fp32.ofValue .ieee .rne (su.add .rne (Fv.ofInt x).neg)))

/-- The fetches of a lane for its texels k = i + 2 j: their words with the largest status, the first fault, or a wait. -/
def Env.txgFetches (e : Env) (d : Lod) (l : Nat) (xs ys : Nat → Nat) (read log : Bool) :
    List Nat → State → List W32 → Nat → LodLane × Nat
  | [], s, ts, m => (.done s ts, m)
  | k :: rest, s, ts, m =>
    match e.lodFetch d l (xs (k % 2) * 2 ^ l) (ys (k / 2) * 2 ^ l) read log s with
    | .bad va c => (.bad va c, m)
    | .wait s => (.wait s, m)
    | .got s t st _ => Env.txgFetches e d l xs ys read log rest s (ts ++ [BitVec.ofNat 32 t]) (max st m)

/-- TxgLane (R309). The four fetches are made, and log their feedback, once every walk they need is over. -/
def Env.txgLane (e : Env) (d : Lod) (mode : Nat) (u v lam : W32) (s : State) : LodLane :=
  let l := ((fp32.value lam.toNat).toInt .rne 0 ((d.nl : Int) - 1)).toNat
  let (xa, fx) := footprint u l
  let (ya, fy) := footprint v l
  let xs (i : Nat) : Nat := wrapCoord mode (xa + i) (d.width l)
  let ys (j : Nat) : Nat := wrapCoord mode (ya + j) (d.height l)
  match e.txgFetches d l xs ys false false [0, 1, 2, 3] s [] 0 with
  | (.wait s, _) => .wait s
  | (.bad va c, _) => .bad va c
  | (.done _ _, _) => match e.txgFetches d l xs ys true true [0, 1, 2, 3] s [] 0 with
    | (.done s ts, st) => .done s (ts ++ [fx, fy, BitVec.ofNat 32 st])
    | (r, _) => r

/-- R309. Under a withdrawn descriptor the texels are 0 with status 5, and the weights, which no descriptor gives, are free values. -/
def execTxg (h : Hdr) (b : MBody) : State → Host.Outcome State Fault Refusal :=
  issueWith (.txg h b) h (fun e => e.tagsOk ((List.range 3).map fun j => (b.mx.toNat + j, fun t => t == 3#4))) fun e =>
    let u := e.unfinished (e.g h)
    let at_ (j l : Nat) : W32 := lane (e.group.vreg (b.mx.toNat + j)).lanes l
    let fin (vals : List (Nat × List W32)) (s : State) : State :=
      e.gather (lodWrites b.md.toNat 6 (fun j => if j < 4 then b.mop else 3#4) b.mc.toNat vals) s
    match e.lodRead (e.lodAddr b) u (e.opens (lodWrites b.md.toNat 6 (fun j => if j < 4 then b.mop else 3#4) b.mc.toNat []) e.s) with
    | .stop p => p
    | .withdrawn s =>
      let (k, s) := s.draw
      e.lodLanes u (fun l s => .done s [0, 0, 0, 0, Config.freeLane k l, Config.freeLane k (32 + l), 5]) fin s
    | .desc s d =>
      if !d.wellFormed || 2 < d.esz then .bad .lodDescriptor s
      else e.lodLanes u (fun l s => e.txgLane d b.mp.toNat (at_ 0 l) (at_ 1 l) (at_ 2 l) s) fin s

/-- RESQ, with feedback or without (R310). -/
def resq (i : Instr) (h : Hdr) (b : MBody) (log : Bool) : State → Host.Outcome State Fault Refusal :=
  issueWith i h (fun e => e.tagsOk (coordTags b)) fun e =>
    let u := e.unfinished (e.g h)
    let fin (vals : List (Nat × List W32)) (s : State) : State := e.gather (laneWrites b.md.toNat 2#4 vals 1) s
    match e.lodRead (e.lodAddr b) u (e.opens (laneWrites b.md.toNat 2#4 [] 1) e.s) with
    | .stop p => p
    | .withdrawn s => e.lodLanes u (fun _ s => .done s [0xF5]) fin s
    | .desc s d =>
      if !d.wellFormed then .bad .lodDescriptor s
      else e.lodLanes u (fun l s =>
        match e.lodFetch d (min 15 (e.coord (b.mx.toNat + 2) l)) (e.coord b.mx.toNat l) (e.coord (b.mx.toNat + 1) l) false log s with
        | .got s _ st g => .done s [BitVec.ofNat 32 (st + 16 * g)]
        | .wait s => .wait s
        | .bad va c => .bad va c) fin s

def execResq (h : Hdr) (b : MBody) : State → Host.Outcome State Fault Refusal := resq (.resq h b) h b false
def execResqFb (h : Hdr) (b : MBody) : State → Host.Outcome State Fault Refusal := resq (.resqFb h b) h b true

/-! ## The feedback ring's own steps (R80, R82) -/

/-- A 16-byte ring entry (R83). -/
def fbEntry (key : FbKey) (status core index : Nat) : Nat :=
  key.rid + 2 ^ 24 * key.level + 2 ^ 28 * status + 2 ^ 32 * key.tx + 2 ^ 44 * key.ty + 2 ^ 64 * key.asid + 2 ^ 80 * coreX core +
    2 ^ 85 * coreY core + 2 ^ 96 * index

/-- The FLAGS bits set in a header row. -/
def State.fbFlag (s : State) (off bits : Nat) : State :=
  { s with atrium := Mem.writeN s.atrium (off + 12) 1 (Mem.readN s.atrium (off + 12) 1 ||| bits) }

/-- R82: the reserve operation, one operation at the header's bank. A header whose Hall has been withdrawn meanwhile is unreachable (R431, R439). -/
def execFeedbackReserve (id : Nat) (s : State) : Host.Outcome State Fault Refusal :=
  .next (match s.req id with
    | none => s
    | some r => match r.op with
      | .fbReserve off key status =>
        if s.destState r == .withdrawn then (s.answered r).modCore r.core fun c => { c with fbUnreach := c.fbUnreach + 1 }
        else if !s.mayServe r then s
        else
        let s := s.answered r
        let a := s.atrium
        let tail := Mem.readN a off 4
        let logn := Mem.readN a (off + 14) 1
        if Mem.readN a (off + 12) 1 % 2 == 0 then s
        else if logn < 4 || 16 < logn then s.fbFlag off 4
        else if 2 ^ logn ≤ (tail + 2 ^ 32 - Mem.readN a (off + 4) 4) % 2 ^ 32 then
          { s with atrium := Mem.writeN a (off + 8) 4 (min (Mem.readN a (off + 8) 4 + 1) 0xFFFFFFFF) }.fbFlag off 2
        else
          let s := { s with atrium := Mem.writeN a off 4 (tail + 1) }
          (s.send fun n => { r with id := n, op := .fbWrite off tail key status logn (BitVec.ofNat 64 (Mem.readN a (off + 16) 8 % 2 ^ 57)) }).push
            (.feedbackEntryWrite s.nextReq)
      | _ => s)

/-- R80 step 4, R82: the entry is written to its slot with one bank store; a slot that cannot be reached sets LOST. A ring BASE that is
not aligned as R82 has it names the 16-byte unit each slot's address lies in (assumption 85). A key that the filter holds already, by a
second reservation that was under way with the first, is inserted again and takes a place more (assumption 21). -/
def execFeedbackEntryWrite (id : Nat) (s : State) : Host.Outcome State Fault Refusal :=
  .next (match s.req id with
    | none => s
    | some r => match r.op with
      | .fbWrite off index key status logn base =>
        let va := base + BitVec.ofNat 64 (16 * (index % 2 ^ logn))
        let (u, t) := match s.ctx r.cid with
          | some c => if canonical va && !upperHalf va && !inAlcove va then
              s.xlate r.core r.asid (s.ctxVf r.core c) (s.ctxSup r.core c) .store .atrium va
            else (s, TRes.fault .aperture)
          | none => (s, TRes.fault .aperture)
        if r.nak || (atriumOff t).any fun a => s.openSt (a / 33554432 % 2) == .inReset then s
        else
        let s := u.answered r
        match atriumOff t with
        | some a =>
          { s with atrium := Mem.writeN s.atrium (a / 16 * 16) 16 (fbEntry key status r.core index) }.modCore r.core fun c =>
            { c with filter := (key :: c.filter).take 64 }
        | none => s.fbFlag off 4
      | _ => s)

end Sys2Proof.Machine
end

