-- ==== Sys2Proof/Machine/Uniform.lean ====
section
/-! DEFINITION. The uniform instructions that reach no memory (R252 to R260, R262). Each is performed once per split when
its guarded set is not empty, and its result is written after the latency of R241. -/

namespace Sys2Proof.Machine

/-- A uniform operand: a pair for W = 1, else the register in the low half (R254). -/
def Env.uw (e : Env) (wide : Bool) (r : BitVec 6) : W64 := if wide then e.u64 r else (e.u r).setWidth 64

/-- The second operand: SB or IMM, extended by its sign unless N is set (R254). -/
def Env.opB (e : Env) (h : Hdr) (b : UBody) : W64 :=
  if b.is then (if h.sub.getLsbD 1 then b.imm.setWidth 64 else b.imm.signExtend 64)
  else e.uw (h.sub.getLsbD 0) b.sb

/-- The second operand of a shift or of SLEA: a single register or IMM (R255, R258). -/
def Env.opB32 (e : Env) (b : UBody) : W32 := if b.is then b.imm else e.u b.sb

/-- The w bits of an operand as a number. -/
def lowBits (wide : Bool) (x : W64) : Nat := if wide then x.toNat else x.toNat % 2 ^ 32

/-- A uniform result of latency L, a pair for `wide` (R241). -/
def uniform (i : Instr) (h : Hdr) (lat : Nat) (wide : Bool) (d : BitVec 6) (val : Env → W64) :
    State → Host.Outcome State Fault Refusal :=
  issueWith i h noTags fun e => .ok (e.fixed lat (uniW wide d (val e)) e.s)

/-- An operation on exact integers: A, B and C signed or unsigned by N, the exact result wrapped or clamped (R255). -/
def arith (i : Instr) (h : Hdr) (b : UBody) (lat : Nat) (f : Int → Int → Int → Int) :
    State → Host.Outcome State Fault Refusal :=
  let wide := h.sub.getLsbD 0
  let sgn := !h.sub.getLsbD 1
  uniform i h lat wide b.sd fun e =>
    uNarrow wide sgn (h.sub.getLsbD 2)
      (f (uInt wide sgn (e.uw wide b.sa)) (uInt wide sgn (e.opB h b)) (uInt wide sgn (e.uw wide b.sc)))

/-- An operation on bits. -/
def bitwise (i : Instr) (h : Hdr) (b : UBody) (f : W64 → W64 → W64) : State → Host.Outcome State Fault Refusal :=
  uniform i h 2 (h.sub.getLsbD 0) b.sd fun e => f (e.uw (h.sub.getLsbD 0) b.sa) (e.opB h b)

/-- A shift: the count is 32 bits even for a pair (R255). -/
def shift (i : Instr) (h : Hdr) (b : UBody) (f : Nat → Nat → Nat → Nat) : State → Host.Outcome State Fault Refusal :=
  let wide := h.sub.getLsbD 0
  uniform i h 2 wide b.sd fun e => BitVec.ofNat 64 (f (uWidth wide) (e.opB32 b).toNat (lowBits wide (e.uw wide b.sa)))

/-- R255: D := A. -/
def execSmov (h : Hdr) (b : UBody) : State → Host.Outcome State Fault Refusal :=
  uniform (.smov h b) h 2 (h.sub.getLsbD 0) b.sd fun e => e.uw (h.sub.getLsbD 0) b.sa

/-- R255: IMM, extended by its sign (SUB 1) or with zeros (SUB 3) into a pair. -/
def execSmovi (h : Hdr) (b : UBody) : State → Host.Outcome State Fault Refusal :=
  uniform (.smovi h b) h 2 (h.sub.getLsbD 0) b.sd fun _ =>
    if h.sub.getLsbD 1 then b.imm.setWidth 64 else b.imm.signExtend 64

/-- R255: A + B. -/
def execSadd (h : Hdr) (b : UBody) : State → Host.Outcome State Fault Refusal :=
  arith (.sadd h b) h b 2 fun x y _ => x + y

/-- R255: A - B. -/
def execSsub (h : Hdr) (b : UBody) : State → Host.Outcome State Fault Refusal :=
  arith (.ssub h b) h b 2 fun x y _ => x - y

/-- R255: the low half of A × B, or the clamped product. -/
def execSmul (h : Hdr) (b : UBody) : State → Host.Outcome State Fault Refusal :=
  arith (.smul h b) h b 4 fun x y _ => x * y

/-- R255: bits 2w - 1 to w of the exact product. -/
def execSmulh (h : Hdr) (b : UBody) : State → Host.Outcome State Fault Refusal :=
  arith (.smulh h b) h b 4 fun x y _ => Int.ediv (x * y) (2 ^ uWidth (h.sub.getLsbD 0) : Nat)

/-- R255: A × B + C, exact, then wrapped or clamped once. -/
def execSmad (h : Hdr) (b : UBody) : State → Host.Outcome State Fault Refusal :=
  arith (.smad h b) h b 4 fun x y z => x * y + z

/-- R255. -/
def execSand (h : Hdr) (b : UBody) : State → Host.Outcome State Fault Refusal :=
  bitwise (.sand h b) h b (· &&& ·)

/-- R255. -/
def execSor (h : Hdr) (b : UBody) : State → Host.Outcome State Fault Refusal :=
  bitwise (.sor h b) h b (· ||| ·)

/-- R255. -/
def execSxor (h : Hdr) (b : UBody) : State → Host.Outcome State Fault Refusal :=
  bitwise (.sxor h b) h b (· ^^^ ·)

/-- R255: 0 for counts of w or more. -/
def execSshl (h : Hdr) (b : UBody) : State → Host.Outcome State Fault Refusal :=
  shift (.sshl h b) h b shl

/-- R255: 0 for counts of w or more. -/
def execSshr (h : Hdr) (b : UBody) : State → Host.Outcome State Fault Refusal :=
  shift (.sshr h b) h b shr

/-- R255: copies of the sign for counts of w or more. -/
def execSsra (h : Hdr) (b : UBody) : State → Host.Outcome State Fault Refusal :=
  shift (.ssra h b) h b sra

/-- R255. -/
def execSmin (h : Hdr) (b : UBody) : State → Host.Outcome State Fault Refusal :=
  arith (.smin h b) h b 2 fun x y _ => minInt x y

/-- R255. -/
def execSmax (h : Hdr) (b : UBody) : State → Host.Outcome State Fault Refusal :=
  arith (.smax h b) h b 2 fun x y _ => maxInt x y

/-- R255: always 32 bits, in SD. -/
def execSpopc (h : Hdr) (b : UBody) : State → Host.Outcome State Fault Refusal :=
  uniform (.spopc h b) h 2 false b.sd fun e =>
    BitVec.ofNat 64 (popcount 64 (lowBits (h.sub.getLsbD 0) (e.uw (h.sub.getLsbD 0) b.sa)))

/-- R255: w for 0; always 32 bits, in SD. -/
def execSclz (h : Hdr) (b : UBody) : State → Host.Outcome State Fault Refusal :=
  uniform (.sclz h b) h 2 false b.sd fun e =>
    BitVec.ofNat 64 (clz (uWidth (h.sub.getLsbD 0)) (lowBits (h.sub.getLsbD 0) (e.uw (h.sub.getLsbD 0) b.sa)))

/-- The condition of SCMP (R256). -/
def Env.scmp (e : Env) (h : Hdr) (b : UBody) : Bool :=
  let wide := h.sub.getLsbD 0
  let sgn := !h.sub.getLsbD 1
  condInt b.x8.toNat (uInt wide sgn (e.uw wide b.sa)) (uInt wide sgn (e.opB h b))

/-- R256: D := 1 or 0, and the bits of p[PS] in g. -/
def execScmp (h : Hdr) (b : UBody) : State → Host.Outcome State Fault Refusal :=
  issueWith (.scmp h b) h noTags fun e =>
    let c := e.scmp h b
    .ok (e.fixed 2 [.uni b.sd.toNat (if c then 1 else 0), .pred b.ps.toNat (e.g h) (if c then BitVec.allOnes 32 else 0)] e.s)

/-- The condition of SSEL (R257). -/
def Env.ssel (e : Env) (h : Hdr) (b : UBody) : Bool :=
  match h.sub.toNat / 8 with
  | 0 => e.u b.sc != 0
  | 1 => e.p b.ps &&& e.g h != 0
  | _ => e.g h &&& ~~~(e.p b.ps) == 0

/-- R257: A where the condition holds, else B. -/
def execSsel (h : Hdr) (b : UBody) : State → Host.Outcome State Fault Refusal :=
  uniform (.ssel h b) h 2 (h.sub.getLsbD 0) b.sd fun e =>
    if e.ssel h b then e.uw (h.sub.getLsbD 0) b.sa else e.opB h b

/-- R258. -/
def execSbfx (h : Hdr) (b : UBody) : State → Host.Outcome State Fault Refusal :=
  uniform (.sbfx h b) h 2 (h.sub.getLsbD 0) b.sd fun e =>
    BitVec.ofNat 64 (bitfield (uWidth (h.sub.getLsbD 0)) (!h.sub.getLsbD 1) b.x8.toNat (b.imm.extractLsb' 0 7).toNat
      (lowBits (h.sub.getLsbD 0) (e.uw (h.sub.getLsbD 0) b.sa)))

/-- R258. -/
def execSbfi (h : Hdr) (b : UBody) : State → Host.Outcome State Fault Refusal :=
  uniform (.sbfi h b) h 2 (h.sub.getLsbD 0) b.sd fun e =>
    BitVec.ofNat 64 (insertField b.x8.toNat (b.imm.extractLsb' 0 7).toNat (e.uw (h.sub.getLsbD 0) b.sa).toNat
      (lowBits (h.sub.getLsbD 0) (e.uw (h.sub.getLsbD 0) b.sc)))

/-- R258: A + (Ext64(B) << X8). -/
def execSlea (h : Hdr) (b : UBody) : State → Host.Outcome State Fault Refusal :=
  uniform (.slea h b) h 2 true b.sd fun e =>
    let k := e.opB32 b
    e.u64 b.sa + ((if h.subIs 2 then k.setWidth 64 else k.signExtend 64) <<< b.x8.toNat)

/-- The tag-ready bitmap (R152): a bit of a tag outside the reservation reads 1. -/
def Crew.trb (c : Crew) : W64 := BitVec.ofFnLE fun (i : Fin 64) =>
  match getNth c.tags i.val with
  | some t => t.count == 0
  | none => true

/-- A special register (R247), for a lane where it is per lane. -/
def Env.special (e : Env) (x : Nat) (l : Nat) : W64 :=
  match x with
  | 0x00 => BitVec.ofNat 64 l
  | 0x01 => BitVec.ofNat 64 e.bind.group
  | 0x02 => BitVec.ofNat 64 e.bind.crew
  | 0x03 => BitVec.ofNat 64 (coreX e.f.core)
  | 0x04 => BitVec.ofNat 64 (coreY e.f.core)
  | 0x05 => e.ctx.rect.word.setWidth 64
  | 0x06 => BitVec.ofNat 64 e.f.split
  | 0x07 => match e.crew with
    | some c => c.trb
    | none => BitVec.allOnes 64
  | 0x08 => e.s.counter (hallOf e.f.core)
  | 0x09 => e.sp.trapinfo.setWidth 64
  | 0x0A => BitVec.ofNat 64 e.ctx.asid
  | 0x0B => BitVec.ofNat 64 e.cid
  | 0x0C => e.sp.mask.setWidth 64
  | 0x0D => BitVec.ofNat 64 e.h
  | 0x0E => ((e.group.lfsr[l]?).getD 0).setWidth 64
  | _ => BitVec.ofNat 64 (hallOf e.f.core)

/-- The lowest-numbered lane of a mask. -/
def lowestLane (m : Mask) : Nat := (lanesOf m).headD 0

/-- R259: a special register into a uniform register or pair; sr.time is variable-latency. -/
def execSrd (h : Hdr) (b : UBody) : State → Host.Outcome State Fault Refusal :=
  issueWith (.srd h b) h noTags fun e =>
    let w := uniW (wideSr b.x8) b.sd (e.special b.x8.toNat (lowestLane (e.g h)))
    .ok (if b.x8 == 8#8 then e.later w e.s else e.fixed 2 w e.s)

/-- R259: a special register into each lane of g, with tag N32; variable-latency. -/
def execSrdV (h : Hdr) (b : UBody) : State → Host.Outcome State Fault Refusal :=
  issueWith (.srdV h b) h noTags fun e =>
    .ok (e.later [.vec (b.imm.extractLsb' 0 8).toNat (e.g h) (lanesBy fun l => (e.special b.x8.toNat l).setWidth 32) 2#4] e.s)

/-- The LFSR of the lanes of a mask set (R209, R260). -/
def Group.setLfsr (g : Group) (m : Mask) (val : Nat → W16) : Group :=
  { g with lfsr := Vector.ofFn fun i => if m.getLsbD i.val then val i.val else g.lfsr[i] }

/-- R260: each lane of g takes bits 15-0 of A. -/
def execSwr (h : Hdr) (b : UBody) : State → Host.Outcome State Fault Refusal :=
  issueWith (.swr h b) h noTags fun e =>
    .ok (e.modGroup e.s fun gr => gr.setLfsr (e.g h) fun _ => (e.u b.sa).setWidth 16)

/-- R260: each lane of g takes bits 15-0 of its own lane of a .n32 register. -/
def execSwrV (h : Hdr) (b : UBody) : State → Host.Outcome State Fault Refusal :=
  let r := (b.imm.extractLsb' 0 8).toNat
  issueWith (.swrV h b) h (fun e => e.tagsOk [(r, tyAccepts 2)]) fun e =>
    .ok (e.modGroup e.s fun gr => gr.setLfsr (e.g h) fun l => (lane (e.group.vreg r).lanes l).setWidth 16)

/-- R262: D := p[PS] AND g. -/
def execSballot (h : Hdr) (b : UBody) : State → Host.Outcome State Fault Refusal :=
  uniform (.sballot h b) h 2 false b.sd fun e => (e.p b.ps &&& e.g h).setWidth 64

end Sys2Proof.Machine
end

