-- ==== Sys2Proof/Machine/Vector.lean ====
section
/-! DEFINITION. The vector instructions (R274 to R298): what each lane of g receives, its tag, and its latency (R241). A
read is checked against its suffix (R204); only the lanes of g are written (R274, R275). -/

namespace Sys2Proof.Machine

/-- The second operand of a lane: VB, or IMM in every lane (R274). -/
def Env.vb (e : Env) (b : VBody) (l : Nat) : W32 := if b.ib then b.imm else e.vl b.vb l

/-- A vector result of latency L in the lanes of g. -/
def Env.vres (e : Env) (h : Hdr) (lat : Nat) (d : BitVec 8) (tag : BitVec 4) (f : Nat → W32) (s : State) : State :=
  e.fixed lat [.vec d.toNat (e.g h) (lanesBy f) tag] s

/-- A predicate result in the lanes of g; 7 discards it (R274). -/
def Env.predW (e : Env) (h : Hdr) (pd : BitVec 3) (f : Nat → Bool) : RegWrite := .pred pd.toNat (e.g h) (maskBy f)

/-- Both sources of a V form are read as TY (R274). -/
def tagsAB (b : VBody) (ok : BitVec 4 → Bool) (e : Env) : Bool :=
  e.tagsOk ((b.va.toNat, ok) :: if b.ib then [] else [(b.vb.toNat, ok)])

def tagA (b : VBody) (ok : BitVec 4 → Bool) (e : Env) : Bool := e.tagsOk [(b.va.toNat, ok)]

/-- A two-source form whose operands and result carry TY. -/
def lanewise (i : Instr) (h : Hdr) (b : VBody) (lat : Nat) (f : W32 → W32 → W32) :
    State → Host.Outcome State Fault Refusal :=
  issueWith i h (tagsAB b (tyAccepts b.ty.toNat)) fun e =>
    .ok (e.vres h lat b.vd (tyTag b.ty.toNat) (fun l => f (e.vl b.va l) (e.vb b l)) e.s)

/-- An integer form on each element (R277). -/
def intLanes (i : Instr) (h : Hdr) (b : VBody) (lat : Nat) (sat : Bool) (f : Int → Int → Int) :
    State → Host.Outcome State Fault Refusal :=
  lanewise i h b lat (elementwise b.ty.toNat sat f)

/-- A bitwise form: tag-agnostic, its result RAW (R205). -/
def bitLanes (i : Instr) (h : Hdr) (b : VBody) (f : W32 → W32 → W32) : State → Host.Outcome State Fault Refusal :=
  issueWith i h (tagsAB b anyTag) fun e => .ok (e.vres h 4 b.vd 0 (fun l => f (e.vl b.va l) (e.vb b l)) e.s)

/-- A one-source form read as TY, its result with a given tag. -/
def oneLane (i : Instr) (h : Hdr) (b : VBody) (lat : Nat) (tag : BitVec 4) (f : W32 → W32) :
    State → Host.Outcome State Fault Refusal :=
  issueWith i h (tagA b (tyAccepts b.ty.toNat)) fun e => .ok (e.vres h lat b.vd tag (fun l => f (e.vl b.va l)) e.s)

/-- A shift by bits 31-0 of VB, read under the index rule, or of IMM (R278). -/
def shiftLanes (i : Instr) (h : Hdr) (b : VBody) (f : Nat → Nat → Nat → Nat) : State → Host.Outcome State Fault Refusal :=
  issueWith i h (fun e => e.tagsOk ((b.va.toNat, tyAccepts b.ty.toNat) :: if b.ib then [] else [(b.vb.toNat, indexTag)]))
    fun e => .ok (e.vres h 4 b.vd (tyTag b.ty.toNat)
      (fun l => BitVec.ofNat 32 (f 32 (e.vb b l).toNat (e.vl b.va l).toNat)) e.s)

/-! ## Rounding with the LFSR (R209) -/

/-- The LFSR of a lane after n steps. -/
def lfsrAfter (l : Nat) (s : W16) (n : Nat) : W16 := n.repeat (lfsrStep l) s

def Env.lfsr (e : Env) (l : Nat) : W16 := (e.group.lfsr[l]?).getD 0

/-- The mode for the k-th element that a lane rounds. -/
def Env.rnd (e : Env) (rm : BitVec 3) (l k : Nat) : Rnd := rndOf rm (lfsrAfter l (e.lfsr l) (k + 1))

/-- Under RS the LFSR of each lane of a mask steps once for each of n elements. -/
def Env.stepped (e : Env) (m : Mask) (rm : BitVec 3) (n : Nat) (s : State) : State :=
  if rm == 4#3 then e.modGroup s fun g => g.setLfsr m fun l => lfsrAfter l (e.lfsr l) n else s

/-- A floating-point operation on each element of a container of suffix `ty`, with its element index. -/
def floatElems (ty : Nat) (f : Nat → Nat → Nat → Nat → Nat) (a b c : W32) : W32 :=
  let w := tyWidth ty
  container w ((List.range (32 / w)).map fun i => f i (elem w i a) (elem w i b) (elem w i c))

/-- The operands of R281 after the negations that SUB names: bit 1 a, bit 0 b, bit 2 c. -/
def negated (f : Fmt) (sub : BitVec 6) (a b c : Nat) : Fv × Fv × Fv :=
  ((f.value a).negIf (sub.getLsbD 1), (f.value b).negIf (sub.getLsbD 0), (f.value c).negIf (sub.getLsbD 2))

/-- a + b, a × b and a × b + c, computed exactly and rounded once (R281, R286). -/
def faddElem (f : Fmt) (sub : BitVec 6) (r : Rnd) (a b : Nat) : Nat :=
  let (x, y, _) := negated f sub a b 0
  f.ofValue .ieee r (x.add r y)
def fmulElem (f : Fmt) (sub : BitVec 6) (r : Rnd) (a b : Nat) : Nat :=
  let (x, y, _) := negated f sub a b 0
  f.ofValue .ieee r (x.mul y)
def fmaElem (f : Fmt) (sub : BitVec 6) (r : Rnd) (a b c : Nat) : Nat :=
  let (x, y, z) := negated f sub a b c
  f.ofValue .ieee r ((x.mul y).add r z)

/-- A rounding two-source form of the V format: `n` elements a lane step the LFSR. -/
def floatLanes (i : Instr) (h : Hdr) (b : VBody) (f : Rnd → Nat → Nat → Nat) : State → Host.Outcome State Fault Refusal :=
  let ty := b.ty.toNat
  issueWith i h (tagsAB b (tyAccepts ty)) fun e =>
    .ok (e.stepped (e.g h) b.rm (32 / tyWidth ty) (e.vres h 6 b.vd (tyTag ty)
      (fun l => floatElems ty (fun k x y _ => f (e.rnd b.rm l k) x y) (e.vl b.va l) (e.vb b l) 0) e.s))

/-- A rounding one-source FP32 form. -/
def floatOne (i : Instr) (h : Hdr) (b : VBody) (lat : Nat) (f : Rnd → Nat → Nat) : State → Host.Outcome State Fault Refusal :=
  issueWith i h (tagA b (tyAccepts 3)) fun e =>
    .ok (e.stepped (e.g h) b.rm 1 (e.vres h lat b.vd 3
      (fun l => BitVec.ofNat 32 (f (e.rnd b.rm l 0) (e.vl b.va l).toNat)) e.s))

def tags3 (b : V3Body) (oka okb okc : BitVec 4 → Bool) (e : Env) : Bool :=
  e.tagsOk [(b.va.toNat, oka), (b.vb.toNat, okb), (b.vc.toNat, okc)]

/-- A rounding three-source form. -/
def floatThree (i : Instr) (h : Hdr) (b : V3Body) (f : Rnd → Nat → Nat → Nat → Nat) :
    State → Host.Outcome State Fault Refusal :=
  let ty := b.ty.toNat
  let ok := tyAccepts ty
  issueWith i h (tags3 b ok ok ok) fun e =>
    .ok (e.stepped (e.g h) b.rm (32 / tyWidth ty) (e.vres h 6 b.vd (tyTag ty)
      (fun l => floatElems ty (fun k x y z => f (e.rnd b.rm l k) x y z) (e.vl b.va l) (e.vl b.vb l) (e.vl b.vc l)) e.s))

/-! ## Integer, bitwise and move forms -/

/-- R277: a + b. -/
def execVadd (h : Hdr) (b : VBody) : State → Host.Outcome State Fault Refusal :=
  intLanes (.vadd h b) h b 4 b.sat (· + ·)

/-- R277: a - b. -/
def execVsub (h : Hdr) (b : VBody) : State → Host.Outcome State Fault Refusal :=
  intLanes (.vsub h b) h b 4 b.sat (· - ·)

/-- R277: the low bits of a × b, or the clamped product. -/
def execVmul (h : Hdr) (b : VBody) : State → Host.Outcome State Fault Refusal :=
  intLanes (.vmul h b) h b 6 b.sat (· * ·)

/-- R277: bits 63-32 of the exact product. -/
def execVmulh (h : Hdr) (b : VBody) : State → Host.Outcome State Fault Refusal :=
  intLanes (.vmulh h b) h b 6 false fun x y => Int.ediv (x * y) (2 ^ 32 : Nat)

/-- R277. -/
def execVmin (h : Hdr) (b : VBody) : State → Host.Outcome State Fault Refusal :=
  intLanes (.vmin h b) h b 4 false minInt

/-- R277. -/
def execVmax (h : Hdr) (b : VBody) : State → Host.Outcome State Fault Refusal :=
  intLanes (.vmax h b) h b 4 false maxInt

/-- R277: the most negative value stays itself, or becomes the maximum under .sat. -/
def execVabs (h : Hdr) (b : VBody) : State → Host.Outcome State Fault Refusal :=
  oneLane (.vabs h b) h b 4 (tyTag b.ty.toNat) fun a => elementwise b.ty.toNat b.sat (fun x _ => (x.natAbs : Int)) a a

/-- R277. -/
def execVand (h : Hdr) (b : VBody) : State → Host.Outcome State Fault Refusal :=
  bitLanes (.vand h b) h b (· &&& ·)

/-- R277. -/
def execVor (h : Hdr) (b : VBody) : State → Host.Outcome State Fault Refusal :=
  bitLanes (.vor h b) h b (· ||| ·)

/-- R277. -/
def execVxor (h : Hdr) (b : VBody) : State → Host.Outcome State Fault Refusal :=
  bitLanes (.vxor h b) h b (· ^^^ ·)

/-- R277. -/
def execVnot (h : Hdr) (b : VBody) : State → Host.Outcome State Fault Refusal :=
  issueWith (.vnot h b) h (tagA b anyTag) fun e => .ok (e.vres h 4 b.vd 0 (fun l => ~~~(e.vl b.va l)) e.s)

/-- R278: 0 for k of 32 or more. -/
def execVshl (h : Hdr) (b : VBody) : State → Host.Outcome State Fault Refusal :=
  shiftLanes (.vshl h b) h b shl

/-- R278: logical; 0 for k of 32 or more. -/
def execVshr (h : Hdr) (b : VBody) : State → Host.Outcome State Fault Refusal :=
  shiftLanes (.vshr h b) h b shr

/-- R278: arithmetic; copies of the sign for k of 32 or more. -/
def execVsra (h : Hdr) (b : VBody) : State → Host.Outcome State Fault Refusal :=
  shiftLanes (.vsra h b) h b sra

/-- R277: tag N32. -/
def execVpopc (h : Hdr) (b : VBody) : State → Host.Outcome State Fault Refusal :=
  oneLane (.vpopc h b) h b 4 2 fun a => BitVec.ofNat 32 (popcount 32 a.toNat)

/-- R277: 32 for zero; tag N32. -/
def execVclz (h : Hdr) (b : VBody) : State → Host.Outcome State Fault Refusal :=
  oneLane (.vclz h b) h b 4 2 fun a => BitVec.ofNat 32 (clz 32 a.toNat)

/-- R279: sign-extended for .i32. -/
def execVbfx (h : Hdr) (b : VBody) : State → Host.Outcome State Fault Refusal :=
  oneLane (.vbfx h b) h b 4 (tyTag b.ty.toNat) fun a =>
    BitVec.ofNat 32 (bitfield 32 (b.ty == 1#4) (b.imm.extractLsb' 0 8).toNat (b.imm.extractLsb' 8 8).toNat a.toNat)

/-- R279: a lane with len 0 or a field beyond bit 31 receives c. -/
def execVbfi (h : Hdr) (b : V3Body) : State → Host.Outcome State Fault Refusal :=
  issueWith (.vbfi h b) h (tags3 b (tyAccepts b.ty.toNat) indexTag (tyAccepts b.ty.toNat)) fun e =>
    .ok (e.vres h 4 b.vd (tyTag b.ty.toNat) (fun l =>
      let pos := ((e.vl b.vb l).extractLsb' 0 5).toNat
      let len := ((e.vl b.vb l).extractLsb' 8 6).toNat
      if len == 0 || 32 < pos + len then e.vl b.vc l
      else BitVec.ofNat 32 (insertField pos len (e.vl b.va l).toNat (e.vl b.vc l).toNat)) e.s)

/-- The .v result of a comparison (R280): all ones where the condition holds, tag N32. -/
def Env.cmpW (e : Env) (h : Hdr) (b : VBody) (c : Nat → Bool) : List RegWrite :=
  e.predW h b.pd c ::
    if h.subIs 1 then [.vec b.vd.toNat (e.g h) (lanesBy fun l => if c l then BitVec.allOnes 32 else 0) 2#4] else []

/-- R280. -/
def execVcmp (h : Hdr) (b : VBody) : State → Host.Outcome State Fault Refusal :=
  issueWith (.vcmp h b) h (tagsAB b (tyAccepts b.ty.toNat)) fun e =>
    let sgn := b.ty == 1#4
    .ok (e.fixed 4 (e.cmpW h b fun l =>
      condInt b.cc.toNat (intOf 32 sgn (e.vl b.va l).toNat) (intOf 32 sgn (e.vb b l).toNat)) e.s)

/-- R277: the tag of VA. -/
def execVmov (h : Hdr) (b : VBody) : State → Host.Outcome State Fault Refusal :=
  issueWith (.vmov h b) h (tagA b anyTag) fun e => .ok (e.vres h 4 b.vd (e.v b.va).tag (fun l => e.vl b.va l) e.s)

/-- R277: tag RAW. -/
def execVmovi (h : Hdr) (b : VBody) : State → Host.Outcome State Fault Refusal :=
  issueWith (.vmovi h b) h noTags fun e => .ok (e.vres h 4 b.vd 0 (fun _ => b.imm) e.s)

/-- R277: a × b + c, exact, then wrapped or clamped once. -/
def execVmad (h : Hdr) (b : V3Body) : State → Host.Outcome State Fault Refusal :=
  let ty := b.ty.toNat
  issueWith (.vmad h b) h (tags3 b (tyAccepts ty) (tyAccepts ty) (tyAccepts ty)) fun e =>
    .ok (e.vres h 6 b.vd (tyTag ty) (fun l => elementwise ty b.sat
      (fun x y => x * y + intOf 32 (elemInfo ty).2 (e.vl b.vc l).toNat) (e.vl b.va l) (e.vl b.vb l)) e.s)

/-- R277: a where p[PS] is 1, else b; the tag of both where they agree, else RAW (R205). -/
def execVsel (h : Hdr) (b : V3Body) : State → Host.Outcome State Fault Refusal :=
  issueWith (.vsel h b) h (fun e => e.tagsOk [(b.va.toNat, anyTag), (b.vb.toNat, anyTag)]) fun e =>
    let tag := if (e.v b.va).tag == (e.v b.vb).tag then (e.v b.va).tag else 0
    .ok (e.vres h 4 b.vd tag (fun l => if (e.p b.ps).getLsbD l then e.vl b.va l else e.vl b.vb l) e.s)

/-! ## FP32 forms -/

/-- R281. -/
def execVfadd (h : Hdr) (b : VBody) : State → Host.Outcome State Fault Refusal :=
  floatLanes (.vfadd h b) h b (faddElem fp32 h.sub)

/-- R281. -/
def execVfmul (h : Hdr) (b : VBody) : State → Host.Outcome State Fault Refusal :=
  floatLanes (.vfmul h b) h b (fmulElem fp32 h.sub)

/-- R281: one rounding. -/
def execVfma (h : Hdr) (b : V3Body) : State → Host.Outcome State Fault Refusal :=
  floatThree (.vfma h b) h b (fmaElem fp32 h.sub)

/-- The ordering of R56 on each element. -/
def minMaxLanes (i : Instr) (h : Hdr) (b : VBody) (max : Bool) : State → Host.Outcome State Fault Refusal :=
  let ty := b.ty.toNat
  lanewise i h b 6 fun x y => floatElems ty (fun _ p q _ => (tyFmt ty).minMax max p q) x y 0

/-- R281. -/
def execVfmin (h : Hdr) (b : VBody) : State → Host.Outcome State Fault Refusal :=
  minMaxLanes (.vfmin h b) h b false

/-- R281. -/
def execVfmax (h : Hdr) (b : VBody) : State → Host.Outcome State Fault Refusal :=
  minMaxLanes (.vfmax h b) h b true

/-- R285: 1 / a. -/
def execVfrcp (h : Hdr) (b : VBody) : State → Host.Outcome State Fault Refusal :=
  oneLane (.vfrcp h b) h b 16 3 vfrcp

/-- R285: 1 / √a. -/
def execVfrsq (h : Hdr) (b : VBody) : State → Host.Outcome State Fault Refusal :=
  oneLane (.vfrsq h b) h b 16 3 vfrsq

/-- R285: 2^a. -/
def execVfexp2 (h : Hdr) (b : VBody) : State → Host.Outcome State Fault Refusal :=
  oneLane (.vfexp2 h b) h b 16 3 vfexp2

/-- R285: log2 a. -/
def execVflog2 (h : Hdr) (b : VBody) : State → Host.Outcome State Fault Refusal :=
  oneLane (.vflog2 h b) h b 16 3 vflog2

/-- R285: sine of a turns. -/
def execVfsin (h : Hdr) (b : VBody) : State → Host.Outcome State Fault Refusal :=
  oneLane (.vfsin h b) h b 16 3 (vftrig false)

/-- R285: cosine of a turns. -/
def execVfcos (h : Hdr) (b : VBody) : State → Host.Outcome State Fault Refusal :=
  oneLane (.vfcos h b) h b 16 3 (vftrig true)

/-- R281: correctly rounded. -/
def execVfsqrt (h : Hdr) (b : VBody) : State → Host.Outcome State Fault Refusal :=
  floatOne (.vfsqrt h b) h b 16 fun r a => fp32.sqrt r (fp32.value a)

/-- R282. -/
def execVfcmp (h : Hdr) (b : VBody) : State → Host.Outcome State Fault Refusal :=
  issueWith (.vfcmp h b) h (tagsAB b (tyAccepts 3)) fun e =>
    .ok (e.fixed 6 (e.cmpW h b fun l => condF32 b.cc.toNat (e.vl b.va l) (e.vb b l)) e.s)

/-- R283: the class bit with tag N32, and p[PD] where it is in the mask. -/
def execVfclass (h : Hdr) (b : VBody) : State → Host.Outcome State Fault Refusal :=
  issueWith (.vfclass h b) h (tagA b (tyAccepts 3)) fun e =>
    .ok (e.fixed 6 [.vec b.vd.toNat (e.g h) (lanesBy fun l => BitVec.twoPow 32 (f32Class (e.vl b.va l))) 2#4,
      e.predW h b.pd fun l => (b.imm.extractLsb' 0 9).getLsbD (f32Class (e.vl b.va l))] e.s)

/-- R284. -/
def execVfrnd (h : Hdr) (b : VBody) : State → Host.Outcome State Fault Refusal :=
  floatOne (.vfrnd h b) h b 6 fp32.integral

/-- R284: a - Floor(a), rounded toward zero. -/
def execVffrc (h : Hdr) (b : VBody) : State → Host.Outcome State Fault Refusal :=
  oneLane (.vffrc h b) h b 6 3 fun a => BitVec.ofNat 32 (fp32.fraction a.toNat)

/-! ## Packed floating-point forms -/

/-- R286. -/
def execVpadd (h : Hdr) (b : VBody) : State → Host.Outcome State Fault Refusal :=
  floatLanes (.vpadd h b) h b (faddElem (tyFmt b.ty.toNat) h.sub)

/-- R286. -/
def execVpmul (h : Hdr) (b : VBody) : State → Host.Outcome State Fault Refusal :=
  floatLanes (.vpmul h b) h b (fmulElem (tyFmt b.ty.toNat) h.sub)

/-- R286. -/
def execVpmin (h : Hdr) (b : VBody) : State → Host.Outcome State Fault Refusal :=
  minMaxLanes (.vpmin h b) h b false

/-- R286. -/
def execVpmax (h : Hdr) (b : VBody) : State → Host.Outcome State Fault Refusal :=
  minMaxLanes (.vpmax h b) h b true

/-- R286. -/
def execVpfma (h : Hdr) (b : V3Body) : State → Host.Outcome State Fault Refusal :=
  floatThree (.vpfma h b) h b (fmaElem (tyFmt b.ty.toNat) h.sub)

/-! ## Conversions and tags -/

/-- One element of VCVT (R287). -/
def cvtElem (src dst : Nat) (sat : Bool) (r : Rnd) (i n : Nat) : Nat :=
  if src == dst then copyElem src n
  else if src == 12 || src == 13 then (if i < 3 then channelOut dst i (fp32.value (channelIn src i n).toNat) else n)
  else convertElem src dst sat r n

/-- R287: CC is the source suffix, TY the destination. -/
def execVcvt (h : Hdr) (b : VBody) : State → Host.Outcome State Fault Refusal :=
  let src := b.cc.toNat
  let dst := b.ty.toNat
  let w := tyWidth src
  issueWith (.vcvt h b) h (tagA b (tyAccepts src)) fun e =>
    let s := e.vres h 6 b.vd (tyTag dst) (fun l => container w ((List.range (32 / w)).map fun k =>
      cvtElem src dst b.sat (e.rnd b.rm l k) k (elem w k (e.vl b.va l)))) e.s
    .ok (if cvtRounds src dst then e.stepped (e.g h) b.rm (32 / w) s else s)

/-- The four channels of RGB10A2 from four values, and one channel decoded (R199, R288, R289). -/
def rgb10a2 (v : Nat → Fv) : W32 :=
  BitVec.ofNat 32 (toUnorm 1023 (v 0) + 1024 * toUnorm 1023 (v 1) + 1048576 * toUnorm 1023 (v 2) + 1073741824 * toUnorm 3 (v 3))
def rgb10a2In (i : Nat) (c : W32) : W32 :=
  if i < 3 then fromUnorm 1023 (c.toNat / 1024 ^ i % 1024) else fromUnorm 3 (c.toNat / 1073741824)

/-- One container of VPACK (R288): `at_ k` is the source element for destination element k, `r k` its rounding. -/
def packLane (src dst : Nat) (sat : Bool) (r : Nat → Rnd) (at_ : Nat → Nat) : W32 :=
  if dst == 15 then rgb10a2 fun k => fp32.value (at_ k)
  else
    let w := tyWidth dst
    container w ((List.range (32 / w)).map fun k =>
      if dst == 12 || dst == 13 then channelOut dst k (fp32.value (at_ k)) else convertElem src dst sat (r k) (at_ k))

/-- R288: ratio 2 takes VA then VB, ratio 4 takes VA to VA + 3. -/
def execVpack (h : Hdr) (b : VBody) : State → Host.Outcome State Fault Refusal :=
  let src := b.cc.toNat
  let dst := b.ty.toNat
  let four := packPair4 src dst
  let n := 32 / tyWidth src
  issueWith (.vpack h b) h (fun e => e.tagsOk ((if four then span b.va 4 else b.va.toNat :: (if b.ib then [] else [b.vb.toNat])).map fun r => (r, tyAccepts src)))
    fun e =>
      let at_ l k :=
        if four then (lane (e.group.vreg (b.va.toNat + k)).lanes l).toNat
        else if k < n then elem (tyWidth src) k (e.vl b.va l) else elem (tyWidth src) (k - n) (e.vb b l)
      let s := e.vres h 6 b.vd (tyTag dst) (fun l => packLane src dst b.sat (e.rnd b.rm l) (at_ l)) e.s
      .ok (if packRounds src dst then e.stepped (e.g h) b.rm (32 / tyWidth dst) s else s)

/-- One container of VUNPK (R289): part k of the source. -/
def unpackLane (src dst k : Nat) (c : W32) : W32 :=
  if src == 15 then rgb10a2In k c
  else if src == 12 || src == 13 then channelIn src k (elem 8 k c)
  else
    let w := tyWidth dst
    let n := 32 / w
    container w ((List.range n).map fun j => convertElem src dst false .rne (elem (tyWidth src) (k * n + j) c))

/-- R289. -/
def execVunpk (h : Hdr) (b : VBody) : State → Host.Outcome State Fault Refusal :=
  let src := b.cc.toNat
  let dst := b.ty.toNat
  issueWith (.vunpk h b) h (tagA b (tyAccepts src)) fun e =>
    .ok (e.vres h 6 b.vd (tyTag dst) (fun l => unpackLane src dst (b.imm.toNat % 4) (e.vl b.va l)) e.s)

/-- R290: the tag only, whatever it was. -/
def execVtag (h : Hdr) (b : VBody) : State → Host.Outcome State Fault Refusal :=
  issueWith (.vtag h b) h noTags fun e => .ok (e.fixed 2 [.tag b.vd.toNat (tyTag b.ty.toNat)] e.s)

/-! ## Lane operations (R291) -/

/-- The source lane of VSHFL for lane l and distance d, where it is a lane (R292). -/
def shuffleFrom (mode l d : Nat) : Nat :=
  match mode with
  | 0 => d
  | 1 => if d ≤ l then l - d else 32
  | 2 => l + d
  | _ => l ^^^ d

/-- R292: an absent source lane gives the lane its own value and clears p[PD]. -/
def execVshfl (h : Hdr) (b : VBody) : State → Host.Outcome State Fault Refusal :=
  issueWith (.vshfl h b) h (fun e => e.tagsOk ((b.va.toNat, anyTag) :: if b.ib then [] else [(b.vb.toNat, indexTag)])) fun e =>
    let from_ l := shuffleFrom b.cc.toNat l ((e.vb b l).extractLsb' 0 5).toNat
    let ok l := (e.g h).getLsbD (from_ l)
    .ok (e.fixed 6 [.vec b.vd.toNat (e.g h) (lanesBy fun l => e.vl b.va (if ok l then from_ l else l)) (e.v b.va).tag,
      e.predW h b.pd ok] e.s)

/-- R293: 0 where the source lane is not in g. -/
def execVbcast (h : Hdr) (b : VBody) : State → Host.Outcome State Fault Refusal :=
  issueWith (.vbcast h b) h (tagA b anyTag) fun e =>
    let src := if h.subIs 1 then lowestLane (e.g h) else (b.imm.extractLsb' 0 5).toNat
    let ok := (e.g h).getLsbD src
    .ok (e.fixed 6 [.vec b.vd.toNat (e.g h) (lanesBy fun _ => if ok then e.vl b.va src else 0) (e.v b.va).tag,
      e.predW h b.pd fun _ => ok] e.s)

/-- The identity of a reduction (R294): operations 0 add, 1 min, 2 max, 3 and, 4 or, 5 xor. -/
def redIdentity (op ty : Nat) : Nat :=
  if ty == 3 then (match op with | 0 => 0x80000000 | 1 => 0x7F800000 | _ => 0xFF800000)
  else match op with
    | 1 => if ty == 1 then 0x7FFFFFFF else 0xFFFFFFFF
    | 2 => if ty == 1 then 0x80000000 else 0
    | 3 => 0xFFFFFFFF
    | _ => 0

/-- One step of a reduction on containers, for every operation but the integer addition. -/
def redStep (op ty : Nat) (r : Rnd) (a b : W32) : W32 :=
  if ty == 3 then
    BitVec.ofNat 32 (match op with
      | 0 => faddElem fp32 0 r a.toNat b.toNat
      | 1 => fp32.minMax false a.toNat b.toNat
      | _ => fp32.minMax true a.toNat b.toNat)
  else match op with
    | 1 => elementwise ty false minInt a b
    | 2 => elementwise ty false maxInt a b
    | 3 => a &&& b
    | 4 => a ||| b
    | 5 => a ^^^ b
    | _ => a + b

/-- One level of the tree: neighbours combined, the first of them numbered n. -/
def pairUp (f : Nat → W32 → W32 → W32) (n : Nat) : List W32 → List W32
  | a :: b :: l => f n a b :: pairUp f (n + 1) l
  | l => l

/-- The fixed binary tree of R294, level by level. -/
def reduceTree (f : Nat → W32 → W32 → W32) : Nat → Nat → List W32 → W32
  | 0, _, l => l.headD 0
  | k + 1, n, l => reduceTree f k (n + l.length / 2) (pairUp f n l)

/-- The lanes of g, and the identity in every other lane. -/
def Env.redLanes (e : Env) (h : Hdr) (b : VBody) (op ty : Nat) : List W32 :=
  (List.range 32).map fun l => if (e.g h).getLsbD l then e.vl b.va l else BitVec.ofNat 32 (redIdentity op ty)

/-- VRED's result (R294): an integer sum is the exact total, wrapped or clamped. -/
def Env.reduce (e : Env) (h : Hdr) (b : VBody) : W32 :=
  let op := (b.cc.extractLsb' 0 3).toNat
  let ty := b.ty.toNat
  if op == 0 && ty != 3 then
    let sgn := ty == 1
    BitVec.ofNat 32 (narrow 32 sgn b.sat (((lanesOf (e.g h)).map fun l => intOf 32 sgn (e.vl b.va l).toNat).foldl (· + ·) 0))
  else
    let low := lowestLane (e.g h)
    reduceTree (fun n => redStep op ty (rndOf b.rm (lfsrAfter low (e.lfsr low) (n + 1)))) 5 0 (e.redLanes h b op ty)

/-- R294: into the lanes of g, or once into a uniform register. -/
def execVred (h : Hdr) (b : VBody) : State → Host.Outcome State Fault Refusal :=
  let ty := b.ty.toNat
  issueWith (.vred h b) h (tagA b (tyAccepts ty)) fun e =>
    let x := e.reduce h b
    let s := if b.cc.getLsbD 3 then e.fixed 12 [.uni b.vd.toNat x] e.s else e.vres h 12 b.vd (tyTag ty) (fun _ => x) e.s
    .ok (if redRounds b.cc b.ty then e.stepped (BitVec.twoPow 32 (lowestLane (e.g h))) b.rm 31 s else s)

/-- VSCAN over the lanes of g in ascending order (R295): the running value, and what each lane receives. The integer
addition runs on exact sums. -/
def Env.scan (e : Env) (h : Hdr) (b : VBody) : List Nat → Int → W32 → Lanes → Lanes
  | [], _, _, d => d
  | l :: rest, sum, run, d =>
    let op := (b.cc.extractLsb' 0 3).toNat
    let ty := b.ty.toNat
    let a := e.vl b.va l
    let excl := b.cc.getLsbD 3
    if op == 0 && ty != 3 then
      let sum' := sum + intOf 32 (ty == 1) a.toNat
      e.scan h b rest sum' run
        (d.setIfInBounds l (BitVec.ofNat 32 (narrow 32 (ty == 1) b.sat (if excl then sum else sum'))))
    else
      let run' := redStep op ty (e.rnd b.rm l 0) run a
      e.scan h b rest sum run' (d.setIfInBounds l (if excl then run else run'))

/-- R295: an inclusive or exclusive prefix. -/
def execVscan (h : Hdr) (b : VBody) : State → Host.Outcome State Fault Refusal :=
  let ty := b.ty.toNat
  issueWith (.vscan h b) h (tagA b (tyAccepts ty)) fun e =>
    let d := e.scan h b (lanesOf (e.g h)) 0 (BitVec.ofNat 32 (redIdentity (b.cc.extractLsb' 0 3).toNat ty)) VReg.zero.lanes
    let s := e.vres h 12 b.vd (tyTag ty) (lane d) e.s
    .ok (if redRounds b.cc b.ty then e.stepped (e.g h) b.rm 1 s else s)

/-- R296: the lanes of g whose value is not 0. -/
def execVballot (h : Hdr) (b : VBody) : State → Host.Outcome State Fault Refusal :=
  issueWith (.vballot h b) h (tagA b (tyAccepts b.ty.toNat)) fun e =>
    let t l := if b.ty == 3#4 then (e.vl b.va l).setWidth 31 != 0 else e.vl b.va l != 0
    .ok (e.fixed 6 [.uni b.vd.toNat (e.g h &&& maskBy t), e.predW h b.pd t] e.s)

/-! ## Dot products and interpolation -/

/-- The products of corresponding elements, as exact integers. -/
def dotInt (ty : Nat) (a b : W32) : Int :=
  let (w, sgn) := elemInfo ty
  ((List.range (32 / w)).map fun k => intOf w sgn (elem w k a) * intOf w sgn (elem w k b)).foldl (· + ·) 0

/-- The exact sum of c and the products, rounded once (R297). -/
def dotFloat (ty : Nat) (r : Rnd) (a b c : W32) : W32 :=
  let w := tyWidth ty
  let f := tyFmt ty
  BitVec.ofNat 32 (fp32.ofValue .ieee r (Fv.sum r (fp32.value c.toNat ::
    (List.range (32 / w)).map fun k => (f.value (elem w k a)).mul (f.value (elem w k b)))))

/-- VDOT4 and VDOT2: integer rows accumulate in .i32, floating-point rows in .f32 (R297). -/
def dotLanes (i : Instr) (h : Hdr) (b : V3Body) : State → Host.Outcome State Fault Refusal :=
  let ty := b.ty.toNat
  if isFloatTy ty then
    issueWith i h (tags3 b (tyAccepts ty) (tyAccepts ty) (tyAccepts 3)) fun e =>
      .ok (e.stepped (e.g h) b.rm 1 (e.vres h 8 b.vd 3
        (fun l => dotFloat ty (e.rnd b.rm l 0) (e.vl b.va l) (e.vl b.vb l) (e.vl b.vc l)) e.s))
  else
    issueWith i h (tags3 b (tyAccepts ty) (tyAccepts ty) (tyAccepts 1)) fun e =>
      .ok (e.vres h 8 b.vd 1 (fun l => BitVec.ofNat 32 (narrow 32 true b.sat
        (dotInt ty (e.vl b.va l) (e.vl b.vb l) + intOf 32 true (e.vl b.vc l).toNat))) e.s)

/-- R297. -/
def execVdot4 (h : Hdr) (b : V3Body) : State → Host.Outcome State Fault Refusal :=
  dotLanes (.vdot4 h b) h b

/-- R297. -/
def execVdot2 (h : Hdr) (b : V3Body) : State → Host.Outcome State Fault Refusal :=
  dotLanes (.vdot2 h b) h b

/-- a + c × (b - a), unbounded, rounded once; an exact zero takes the sign of the mode (R298). -/
def lerpElem (f : Fmt) (r : Rnd) (a b c : Nat) : Nat :=
  let x := f.value a
  match x.add r ((f.value c).mul ((f.value b).add r x.neg)) with
  | .fin _ 0 _ => f.sign r.zeroNeg 0
  | v => f.ofValue .ieee r v

/-- R298. -/
def execVlerp (h : Hdr) (b : V3Body) : State → Host.Outcome State Fault Refusal :=
  floatThree (.vlerp h b) h b (lerpElem (tyFmt b.ty.toNat))

end Sys2Proof.Machine
end

