-- ==== Sys2Proof/Machine/Dispatch.lean ====
section
/-! DEFINITION. The meaning of every step: one arm per constructor, each one direct call. -/

namespace Sys2Proof.Machine

def exec (i : Instr) (s : State) : Host.Outcome State Fault Refusal :=
  match i with
  | .smov h b => Sys2Proof.Machine.execSmov h b s
  | .smovi h b => Sys2Proof.Machine.execSmovi h b s
  | .sadd h b => Sys2Proof.Machine.execSadd h b s
  | .ssub h b => Sys2Proof.Machine.execSsub h b s
  | .smul h b => Sys2Proof.Machine.execSmul h b s
  | .smulh h b => Sys2Proof.Machine.execSmulh h b s
  | .smad h b => Sys2Proof.Machine.execSmad h b s
  | .sand h b => Sys2Proof.Machine.execSand h b s
  | .sor h b => Sys2Proof.Machine.execSor h b s
  | .sxor h b => Sys2Proof.Machine.execSxor h b s
  | .sshl h b => Sys2Proof.Machine.execSshl h b s
  | .sshr h b => Sys2Proof.Machine.execSshr h b s
  | .ssra h b => Sys2Proof.Machine.execSsra h b s
  | .smin h b => Sys2Proof.Machine.execSmin h b s
  | .smax h b => Sys2Proof.Machine.execSmax h b s
  | .scmp h b => Sys2Proof.Machine.execScmp h b s
  | .ssel h b => Sys2Proof.Machine.execSsel h b s
  | .spopc h b => Sys2Proof.Machine.execSpopc h b s
  | .sclz h b => Sys2Proof.Machine.execSclz h b s
  | .sbfx h b => Sys2Proof.Machine.execSbfx h b s
  | .sbfi h b => Sys2Proof.Machine.execSbfi h b s
  | .slea h b => Sys2Proof.Machine.execSlea h b s
  | .srd h b => Sys2Proof.Machine.execSrd h b s
  | .srdV h b => Sys2Proof.Machine.execSrdV h b s
  | .swr h b => Sys2Proof.Machine.execSwr h b s
  | .swrV h b => Sys2Proof.Machine.execSwrV h b s
  | .sld h b => Sys2Proof.Machine.execSld h b s
  | .sst h b => Sys2Proof.Machine.execSst h b s
  | .sballot h b => Sys2Proof.Machine.execSballot h b s
  | .anchor h b => Sys2Proof.Machine.execAnchor h b s
  | .br h b => Sys2Proof.Machine.execBr h b s
  | .brx h b => Sys2Proof.Machine.execBrx h b s
  | .pad h b => Sys2Proof.Machine.execPad h b s
  | .call h b => Sys2Proof.Machine.execCall h b s
  | .ret h b => Sys2Proof.Machine.execRet h b s
  | .join h b => Sys2Proof.Machine.execJoin h b s
  | .loop h b => Sys2Proof.Machine.execLoop h b s
  | .exit h b => Sys2Proof.Machine.execExit h b s
  | .yield h b => Sys2Proof.Machine.execYield h b s
  | .nop h b => Sys2Proof.Machine.execNop h b s
  | .bkpt h b => Sys2Proof.Machine.execBkpt h b s
  | .trap h b => Sys2Proof.Machine.execTrap h b s
  | .vadd h b => Sys2Proof.Machine.execVadd h b s
  | .vsub h b => Sys2Proof.Machine.execVsub h b s
  | .vmul h b => Sys2Proof.Machine.execVmul h b s
  | .vmulh h b => Sys2Proof.Machine.execVmulh h b s
  | .vmin h b => Sys2Proof.Machine.execVmin h b s
  | .vmax h b => Sys2Proof.Machine.execVmax h b s
  | .vabs h b => Sys2Proof.Machine.execVabs h b s
  | .vand h b => Sys2Proof.Machine.execVand h b s
  | .vor h b => Sys2Proof.Machine.execVor h b s
  | .vxor h b => Sys2Proof.Machine.execVxor h b s
  | .vnot h b => Sys2Proof.Machine.execVnot h b s
  | .vshl h b => Sys2Proof.Machine.execVshl h b s
  | .vshr h b => Sys2Proof.Machine.execVshr h b s
  | .vsra h b => Sys2Proof.Machine.execVsra h b s
  | .vpopc h b => Sys2Proof.Machine.execVpopc h b s
  | .vclz h b => Sys2Proof.Machine.execVclz h b s
  | .vbfx h b => Sys2Proof.Machine.execVbfx h b s
  | .vcmp h b => Sys2Proof.Machine.execVcmp h b s
  | .vmov h b => Sys2Proof.Machine.execVmov h b s
  | .vmovi h b => Sys2Proof.Machine.execVmovi h b s
  | .vfadd h b => Sys2Proof.Machine.execVfadd h b s
  | .vfmul h b => Sys2Proof.Machine.execVfmul h b s
  | .vfmin h b => Sys2Proof.Machine.execVfmin h b s
  | .vfmax h b => Sys2Proof.Machine.execVfmax h b s
  | .vfrcp h b => Sys2Proof.Machine.execVfrcp h b s
  | .vfrsq h b => Sys2Proof.Machine.execVfrsq h b s
  | .vfsqrt h b => Sys2Proof.Machine.execVfsqrt h b s
  | .vfexp2 h b => Sys2Proof.Machine.execVfexp2 h b s
  | .vflog2 h b => Sys2Proof.Machine.execVflog2 h b s
  | .vfsin h b => Sys2Proof.Machine.execVfsin h b s
  | .vfcos h b => Sys2Proof.Machine.execVfcos h b s
  | .vfcmp h b => Sys2Proof.Machine.execVfcmp h b s
  | .vfclass h b => Sys2Proof.Machine.execVfclass h b s
  | .vfrnd h b => Sys2Proof.Machine.execVfrnd h b s
  | .vffrc h b => Sys2Proof.Machine.execVffrc h b s
  | .vpadd h b => Sys2Proof.Machine.execVpadd h b s
  | .vpmul h b => Sys2Proof.Machine.execVpmul h b s
  | .vpmin h b => Sys2Proof.Machine.execVpmin h b s
  | .vpmax h b => Sys2Proof.Machine.execVpmax h b s
  | .vcvt h b => Sys2Proof.Machine.execVcvt h b s
  | .vpack h b => Sys2Proof.Machine.execVpack h b s
  | .vunpk h b => Sys2Proof.Machine.execVunpk h b s
  | .vtag h b => Sys2Proof.Machine.execVtag h b s
  | .vshfl h b => Sys2Proof.Machine.execVshfl h b s
  | .vbcast h b => Sys2Proof.Machine.execVbcast h b s
  | .vred h b => Sys2Proof.Machine.execVred h b s
  | .vscan h b => Sys2Proof.Machine.execVscan h b s
  | .vballot h b => Sys2Proof.Machine.execVballot h b s
  | .vmad h b => Sys2Proof.Machine.execVmad h b s
  | .vbfi h b => Sys2Proof.Machine.execVbfi h b s
  | .vsel h b => Sys2Proof.Machine.execVsel h b s
  | .vfma h b => Sys2Proof.Machine.execVfma h b s
  | .vpfma h b => Sys2Proof.Machine.execVpfma h b s
  | .vlerp h b => Sys2Proof.Machine.execVlerp h b s
  | .vdot4 h b => Sys2Proof.Machine.execVdot4 h b s
  | .vdot2 h b => Sys2Proof.Machine.execVdot2 h b s
  | .ld h b => Sys2Proof.Machine.execLd h b s
  | .st h b => Sys2Proof.Machine.execSt h b s
  | .ldx h b => Sys2Proof.Machine.execLdx h b s
  | .stx h b => Sys2Proof.Machine.execStx h b s
  | .lda h b => Sys2Proof.Machine.execLda h b s
  | .sta h b => Sys2Proof.Machine.execSta h b s
  | .ldat h b => Sys2Proof.Machine.execLdat h b s
  | .stat h b => Sys2Proof.Machine.execStat h b s
  | .atom h b => Sys2Proof.Machine.execAtom h b s
  | .atomNr h b => Sys2Proof.Machine.execAtomNr h b s
  | .atoma h b => Sys2Proof.Machine.execAtoma h b s
  | .ldlod h b => Sys2Proof.Machine.execLdlod h b s
  | .txg h b => Sys2Proof.Machine.execTxg h b s
  | .resq h b => Sys2Proof.Machine.execResq h b s
  | .resqFb h b => Sys2Proof.Machine.execResqFb h b s
  | .prefL1 h b => Sys2Proof.Machine.execPrefL1 h b s
  | .prefL2 h b => Sys2Proof.Machine.execPrefL2 h b s
  | .cpy h b => Sys2Proof.Machine.execCpy h b s
  | .cpyz h b => Sys2Proof.Machine.execCpyz h b s
  | .cpyr h b => Sys2Proof.Machine.execCpyr h b s
  | .cpyl h b => Sys2Proof.Machine.execCpyl h b s
  | .cpytLd h b => Sys2Proof.Machine.execCpytLd h b s
  | .cpytSt h b => Sys2Proof.Machine.execCpytSt h b s
  | .twany h b => Sys2Proof.Machine.execTwany h b s
  | .twall h b => Sys2Proof.Machine.execTwall h b s
  | .tfirst h b => Sys2Proof.Machine.execTfirst h b s
  | .tcnt h b => Sys2Proof.Machine.execTcnt h b s
  | .abinit h b => Sys2Proof.Machine.execAbinit h b s
  | .abexp h b => Sys2Proof.Machine.execAbexp h b s
  | .abarr h b => Sys2Proof.Machine.execAbarr h b s
  | .abwait h b => Sys2Proof.Machine.execAbwait h b s
  | .abtest h b => Sys2Proof.Machine.execAbtest h b s
  | .flacqP h b => Sys2Proof.Machine.execFlacqP h b s
  | .flacqC h b => Sys2Proof.Machine.execFlacqC h b s
  | .flrelP h b => Sys2Proof.Machine.execFlrelP h b s
  | .flrelC h b => Sys2Proof.Machine.execFlrelC h b s
  | .ban h b => Sys2Proof.Machine.execBan h b s
  | .bana h b => Sys2Proof.Machine.execBana h b s
  | .banw h b => Sys2Proof.Machine.execBanw h b s
  | .ldwMem h b => Sys2Proof.Machine.execLdwMem h b s
  | .ldwSmp h b => Sys2Proof.Machine.execLdwSmp h b s
  | .ldws h b => Sys2Proof.Machine.execLdws h b s
  | .trel h b => Sys2Proof.Machine.execTrel h b s
  | .mma h b => Sys2Proof.Machine.execMma h b s
  | .mmag h b => Sys2Proof.Machine.execMmag h b s
  | .vxm h b => Sys2Proof.Machine.execVxm h b s
  | .accz h b => Sys2Proof.Machine.execAccz h b s
  | .accld h b => Sys2Proof.Machine.execAccld h b s
  | .accstRaw h b => Sys2Proof.Machine.execAccstRaw h b s
  | .accstPost h b => Sys2Proof.Machine.execAccstPost h b s
  | .accrdEl h b => Sys2Proof.Machine.execAccrdEl h b s
  | .accrdSt h b => Sys2Proof.Machine.execAccrdSt h b s
  | .preopLin h b => Sys2Proof.Machine.execPreopLin h b s
  | .preopTr h b => Sys2Proof.Machine.execPreopTr h b s
  | .preopWin h b => Sys2Proof.Machine.execPreopWin h b s
  | .postop h b => Sys2Proof.Machine.execPostop h b s
  | .edge h b => Sys2Proof.Machine.execEdge h b s
  | .cvg h b => Sys2Proof.Machine.execCvg h b s
  | .blend h b => Sys2Proof.Machine.execBlend h b s
  | .flt h b => Sys2Proof.Machine.execFlt h b s
  | .rslvLt h b => Sys2Proof.Machine.execRslvLt h b s
  | .rslvLe h b => Sys2Proof.Machine.execRslvLe h b s
  | .rslvRd h b => Sys2Proof.Machine.execRslvRd h b s
  | .rslvLd h b => Sys2Proof.Machine.execRslvLd h b s
  | .rslvClr h b => Sys2Proof.Machine.execRslvClr h b s
  | .binfl h b => Sys2Proof.Machine.execBinfl h b s
  | .spawn h b => Sys2Proof.Machine.execSpawn h b s
  | .spawnLane h b => Sys2Proof.Machine.execSpawnLane h b s
  | .spawnc h b => Sys2Proof.Machine.execSpawnc h b s
  | .await h b => Sys2Proof.Machine.execAwait h b s
  | .fnew h b => Sys2Proof.Machine.execFnew h b s
  | .fres h b => Sys2Proof.Machine.execFres h b s
  | .fflt h b => Sys2Proof.Machine.execFflt h b s
  | .fwait h b => Sys2Proof.Machine.execFwait h b s
  | .fpoll h b => Sys2Proof.Machine.execFpoll h b s
  | .reorder h b => Sys2Proof.Machine.execReorder h b s
  | .time h b => Sys2Proof.Machine.execTime h b s
  | .ctxrd h b => Sys2Proof.Machine.execCtxrd h b s
  | .ctxwr h b => Sys2Proof.Machine.execCtxwr h b s
  | .evpop h b => Sys2Proof.Machine.execEvpop h b s
  | .evpopWait h b => Sys2Proof.Machine.execEvpopWait h b s
  | .tlbinvRange h b => Sys2Proof.Machine.execTlbinvRange h b s
  | .tlbinvAsid h b => Sys2Proof.Machine.execTlbinvAsid h b s
  | .tlbinvFn h b => Sys2Proof.Machine.execTlbinvFn h b s
  | .mapqRange h b => Sys2Proof.Machine.execMapqRange h b s
  | .mapqAsid h b => Sys2Proof.Machine.execMapqAsid h b s
  | .mapqFn h b => Sys2Proof.Machine.execMapqFn h b s
  | .haltcHalt h b => Sys2Proof.Machine.execHaltcHalt h b s
  | .haltcResume h b => Sys2Proof.Machine.execHaltcResume h b s
  | .haltcKill h b => Sys2Proof.Machine.execHaltcKill h b s
  | .hint h => Sys2Proof.Machine.execHint h s
  | .joinRelease core slot => Sys2Proof.Machine.execJoinRelease core slot s
  | .reorderRendezvous core slot => Sys2Proof.Machine.execReorderRendezvous core slot s
  | .registerLineFill core line => Sys2Proof.Machine.execRegisterLineFill core line s
  | .variableResultWrite core slot id => Sys2Proof.Machine.execVariableResultWrite core slot id s
  | .instructionLineFill core asid va => Sys2Proof.Machine.execInstructionLineFill core asid va s
  | .pageWalk core asid page => Sys2Proof.Machine.execPageWalk core asid page s
  | .tlbinvReceive op rcp => Sys2Proof.Machine.execTlbinvReceive op rcp s
  | .tlbinvDrainAck op rcp => Sys2Proof.Machine.execTlbinvDrainAck op rcp s
  | .tlbinvComplete op => Sys2Proof.Machine.execTlbinvComplete op s
  | .mapqNoticeReceive op rcp => Sys2Proof.Machine.execMapqNoticeReceive op rcp s
  | .mapqComplete op => Sys2Proof.Machine.execMapqComplete op s
  | .l2Registration id => Sys2Proof.Machine.execL2Registration id s
  | .l2WritebackMerge id => Sys2Proof.Machine.execL2WritebackMerge id s
  | .l2Read id => Sys2Proof.Machine.execL2Read id s
  | .l2Atomic id => Sys2Proof.Machine.execL2Atomic id s
  | .l2Reduction id => Sys2Proof.Machine.execL2Reduction id s
  | .atriumBankOperation id => Sys2Proof.Machine.execAtriumBankOperation id s
  | .waitRegistrationOp id => Sys2Proof.Machine.execWaitRegistrationOp id s
  | .galleryRegistrationOp id => Sys2Proof.Machine.execGalleryRegistrationOp id s
  | .futureResolutionOp id => Sys2Proof.Machine.execFutureResolutionOp id s
  | .resolutionNoticeReceive id core => Sys2Proof.Machine.execResolutionNoticeReceive id core s
  | .wakeQueuePost hall => Sys2Proof.Machine.execWakeQueuePost hall s
  | .wakeQueueHead hall => Sys2Proof.Machine.execWakeQueueHead hall s
  | .awaitPendingDecrement id => Sys2Proof.Machine.execAwaitPendingDecrement id s
  | .awaitComplete core slot => Sys2Proof.Machine.execAwaitComplete core slot s
  | .slotBind core slot victim => Sys2Proof.Machine.execSlotBind core slot victim s
  | .copyBeat core seq => Sys2Proof.Machine.execCopyBeat core seq s
  | .copyLatticeStart core seq => Sys2Proof.Machine.execCopyLatticeStart core seq s
  | .followOnIssue core seq => Sys2Proof.Machine.execFollowOnIssue core seq s
  | .copyComplete core seq => Sys2Proof.Machine.execCopyComplete core seq s
  | .banisterPhaseRelease cid tag => Sys2Proof.Machine.execBanisterPhaseRelease cid tag s
  | .arrayOpDispatch core seq => Sys2Proof.Machine.execArrayOpDispatch core seq s
  | .arrayOpRetire core seq => Sys2Proof.Machine.execArrayOpRetire core seq s
  | .binnerPrimitive core seq => Sys2Proof.Machine.execBinnerPrimitive core seq s
  | .feedbackReserve id => Sys2Proof.Machine.execFeedbackReserve id s
  | .feedbackEntryWrite id => Sys2Proof.Machine.execFeedbackEntryWrite id s
  | .migrationCommand annex => Sys2Proof.Machine.execMigrationCommand annex s
  | .migrationInvalidationDone annex => Sys2Proof.Machine.execMigrationInvalidationDone annex s
  | .porterRecordSelect hall => Sys2Proof.Machine.execPorterRecordSelect hall s
  | .contextPlacement q origin => Sys2Proof.Machine.execContextPlacement q origin s
  | .resourceReservation cid core => Sys2Proof.Machine.execResourceReservation cid core s
  | .groupStart cid core => Sys2Proof.Machine.execGroupStart cid core s
  | .saveLineArrival cid core late => Sys2Proof.Machine.execSaveLineArrival cid core late s
  | .preemptSaveComplete cid => Sys2Proof.Machine.execPreemptSaveComplete cid s
  | .contextRestore cid origin => Sys2Proof.Machine.execContextRestore cid origin s
  | .crewCompletion cid crew => Sys2Proof.Machine.execCrewCompletion cid crew s
  | .eventHeldPost vf => Sys2Proof.Machine.execEventHeldPost vf s
  | .handlerLaunchStart vf => Sys2Proof.Machine.execHandlerLaunchStart vf s
  | .haltLineArrival cid core => Sys2Proof.Machine.execHaltLineArrival cid core s
  | .haltSettle cid core => Sys2Proof.Machine.execHaltSettle cid core s
  | .contextHalted cid => Sys2Proof.Machine.execContextHalted cid s
  | .managementRegisterWrite vf off size val => Sys2Proof.Machine.execManagementRegisterWrite vf off size val s
  | .fixedLatencyResultWrite core slot id => Sys2Proof.Machine.execFixedLatencyResultWrite core slot id s
  | .unassignedOpcode w => Sys2Proof.Machine.execUnassignedOpcode w s
  | .astbWrite val => Sys2Proof.Machine.execAstbWrite val s
  | .hotctlWrite val => Sys2Proof.Machine.execHotctlWrite val s
  | .mgtlWrite annex val => Sys2Proof.Machine.execMgtlWrite annex val s
  | .dctlReset die => Sys2Proof.Machine.execDctlReset die s
  | .dctlWithdraw die => Sys2Proof.Machine.execDctlWithdraw die s
  | .dsrWrite f val => Sys2Proof.Machine.execDsrWrite f val s
  | .vfrzClear f val => Sys2Proof.Machine.execVfrzClear f val s
  | .evhlWrite f evha val => Sys2Proof.Machine.execEvhlWrite f evha val s
  | .hostRingHeadWrite f events val => Sys2Proof.Machine.execHostRingHeadWrite f events val s
  | .hcrbTailWrite f val => Sys2Proof.Machine.execHcrbTailWrite f val s
  | .rsownWrite by_ hall slot val => Sys2Proof.Machine.execRsownWrite by_ hall slot val s
  | .dtrateWrite die val => Sys2Proof.Machine.execDtrateWrite die val s
  | .dtoffWrite die val => Sys2Proof.Machine.execDtoffWrite die val s
  | .dtoffRead die => Sys2Proof.Machine.execDtoffRead die s
  | .hostBar2Access vf off acc => Sys2Proof.Machine.execHostBar2Access vf off acc s
  | .peerInboundAccess port pa acc => Sys2Proof.Machine.execPeerInboundAccess port pa acc s
  | .linkRetrained port lanes => Sys2Proof.Machine.execLinkRetrained port lanes s
  | .functionLevelReset f => Sys2Proof.Machine.execFunctionLevelReset f s
  | .powerOn images => Sys2Proof.Machine.execPowerOn images s
  | .linkAuthentication link msg => Sys2Proof.Machine.execLinkAuthentication link msg s
  | .svnFloorRaise => Sys2Proof.Machine.execSvnFloorRaise s
  | .spdmGetVersion req => Sys2Proof.Machine.execSpdmGetVersion req s
  | .spdmGetCapabilities req => Sys2Proof.Machine.execSpdmGetCapabilities req s
  | .spdmNegotiateAlgorithms req => Sys2Proof.Machine.execSpdmNegotiateAlgorithms req s
  | .spdmGetDigests req => Sys2Proof.Machine.execSpdmGetDigests req s
  | .spdmGetCertificate req => Sys2Proof.Machine.execSpdmGetCertificate req s
  | .spdmChallenge req => Sys2Proof.Machine.execSpdmChallenge req s
  | .spdmGetMeasurements req => Sys2Proof.Machine.execSpdmGetMeasurements req s
  | .periodicHealthReport die => Sys2Proof.Machine.execPeriodicHealthReport die s
  | .correctableSoftError die => Sys2Proof.Machine.execCorrectableSoftError die s
  | .uncorrectableSoftError die => Sys2Proof.Machine.execUncorrectableSoftError die s
  | .thermalThrottle die temp => Sys2Proof.Machine.execThermalThrottle die temp s
  | .thermalTrip die temp => Sys2Proof.Machine.execThermalTrip die temp s
  | .pldmSetPowerCap watts => Sys2Proof.Machine.execPldmSetPowerCap watts s
  | .pldmSetClockCeiling mhz => Sys2Proof.Machine.execPldmSetClockCeiling mhz s
  | .pldmReadTemperature die => Sys2Proof.Machine.execPldmReadTemperature die s
  | .pldmReadPackagePower => Sys2Proof.Machine.execPldmReadPackagePower s
  | .clockStepChange power => Sys2Proof.Machine.execClockStepChange power s
  | .shareWindowRestart => Sys2Proof.Machine.execShareWindowRestart s
  | .preemptBudgetWindow => Sys2Proof.Machine.execPreemptBudgetWindow s
  | .doorbellWrite vf q val => Sys2Proof.Machine.execDoorbellWrite vf q val s
  | .corridorProtocolBreach core => Sys2Proof.Machine.execCorridorProtocolBreach core s
  | .preempt cid for_ => Sys2Proof.Machine.execPreempt cid for_ s
  | .freeFrameTake ring => Sys2Proof.Machine.execFreeFrameTake ring s
  | .porterMigrationSelect annex picks => Sys2Proof.Machine.execPorterMigrationSelect annex picks s
  | .feedbackDrain asid ring => Sys2Proof.Machine.execFeedbackDrain asid ring s
  | .flitAgeLimit id => Sys2Proof.Machine.execFlitAgeLimit id s
  | .nakResend id => Sys2Proof.Machine.execNakResend id s
  | .dieResetTimeout die => Sys2Proof.Machine.execDieResetTimeout die s
  | .dieResetComplete die => Sys2Proof.Machine.execDieResetComplete die s
  | .hostCmdTlbinv vf => Sys2Proof.Machine.execHostCmdTlbinv vf s
  | .hostCmdMapq vf => Sys2Proof.Machine.execHostCmdMapq vf s
  | .hostCmdHaltcHalt vf => Sys2Proof.Machine.execHostCmdHaltcHalt vf s
  | .hostCmdHaltcResume vf => Sys2Proof.Machine.execHostCmdHaltcResume vf s
  | .hostCmdHaltcKill vf => Sys2Proof.Machine.execHostCmdHaltcKill vf s
  | .hostCmdPlace vf => Sys2Proof.Machine.execHostCmdPlace vf s
  | .hotlistIntervalEnd => Sys2Proof.Machine.execHotlistIntervalEnd s
  | .l1ForwardRequest core asid line => Sys2Proof.Machine.execL1ForwardRequest core asid line s
  | .parkEvictionTimeout core slot => Sys2Proof.Machine.execParkEvictionTimeout core slot s
  | .issuePromotion core slot split => Sys2Proof.Machine.execIssuePromotion core slot split s
  | .yieldExpiry core slot split => Sys2Proof.Machine.execYieldExpiry core slot split s
  | .tileReload cid crew tile => Sys2Proof.Machine.execTileReload cid crew tile s
  | .accumulatorEvict cid crew acc => Sys2Proof.Machine.execAccumulatorEvict cid crew acc s
  | .waiterToGallery core slot split => Sys2Proof.Machine.execWaiterToGallery core slot split s
  | .groupEvict core slot => Sys2Proof.Machine.execGroupEvict core slot s
  | .porterFaultService hall map => Sys2Proof.Machine.execPorterFaultService hall map s
  | .copyLateCompletion cid seq => Sys2Proof.Machine.execCopyLateCompletion cid seq s
  | .memoryControllerRequest line write => Sys2Proof.Machine.execMemoryControllerRequest line write s
  | .faultRecordHeldPost core => Sys2Proof.Machine.execFaultRecordHeldPost core s
  | .stepHalt cid => Sys2Proof.Machine.execStepHalt cid s

end Sys2Proof.Machine
end

