-- ==== Sys2Proof/Machine/Issue.lean ====
section
/-! DEFINITION. Issue (R193, R238, R240 to R245, R379): whether a split may issue, its fetch and its decoding, what holds it, what an
issue leaves behind, which split issues next, and how time is charged (R373, R377). -/

namespace Sys2Proof.Machine

/-! ## Which splits may issue (R193, R391, R397, R401, R406) -/

/-- A yield is over after 16 ac (R271). -/
def Split.yielded (sp : Split) (now : Nat) : Bool :=
  match sp.wait with
  | .yield since => 16 ≤ now - since
  | _ => false

/-- The context issues on a core: it runs, or its halt or save line has not reached the core yet. -/
def Ctx.issues (c : Ctx) (core : Nat) : Bool :=
  match c.st with
  | .running => true
  | .halting | .saving => !c.arrived.contains core
  | _ => false

/-- The core does work and the split is one that may try its instruction. -/
def Env.works (e : Env) (s : State) : Bool :=
  e.ctx.issues e.f.core && !(s.core e.f.core).frozen && (s.die (hallOf e.f.core)).st == .good && (!e.sp.asleep || e.sp.yielded s.ac) && e.sp.stop.isNone &&
    !(e.ctx.stepping && (e.sp.barred || e.sp.stepped))

/-! ## Before an issue decision (R174, R241) -/

/-- Results that are due are written; then splits merge and pop, unless the context makes a single step. -/
def Group.settle (g : Group) (now : Nat) (stepping : Bool) : Group :=
  let g := g.commitDue now
  if stepping then g else Group.normalise now 68 g

/-- The ASID table entry of a context that issues is cached by its core (R18). -/
def State.cacheAsid (s : State) (core asid : Nat) : State :=
  if (lookup (s.core core).asids asid).isSome || !s.astb.getLsbD 0 then s
  else
    let t := (s.asidEntry (some core) asid).1
    if t.homeHeld && !s.homeHeld then s else t

def State.prepare (s : State) (f : Focus) : State :=
  match Env.of s f with
  | none => s
  | some e =>
    let s := s.cacheAsid f.core e.asid
    let s := e.modGroup s fun g => g.settle s.ac e.ctx.stepping
    if e.sp.yielded s.ac then e.modSplit s fun sp => { sp with wait := .none, asleep := false } else s

/-! ## Fetch and decoding (R218 to R221, R238) -/

/-- The instruction of a slot; what R238 makes ILLEGAL_OPCODE is one instruction that traps. -/
def instrOf (w : BitVec 96) : Instr :=
  match decode w with
  | .ok i => i
  | .error _ => .unassignedOpcode w

/-- The line at the split's PC. A PC that R219 refuses traps (R396); the entry of a new group is a transfer (R220). -/
def Env.fetch (e : Env) (s : State) : Except Perf (State × BitVec 512) :=
  if !canonical e.sp.pc || !pcFormed e.sp.pc then .error (.bad .badTarget s)
  else match e.fetchLine e.sp.pc 0 s with
    | .error p => .error p
    | .ok (s, l) => if e.group.tgtChecked || tgtBit l (slotOf e.sp.pc) then .ok (s, l) else .error (.bad .badTarget s)

/-- The S bit of an instruction; a hint ignores its own (R239). -/
def sBit (w : BitVec 96) : Bool := w.getLsbD 81 && w.extractLsb' 92 4 != 15#4

/-! ## What holds an instruction (R170, R243 to R245) -/

/-- A register of an instruction, by kind. -/
def RegUse.names (r : RegUse) : RegWrite → Bool
  | .vec k _ _ _ | .tag k _ => r.vr.contains k || r.vw.contains k
  | .uni k _ => r.ur.contains k || r.uw.contains k
  | .pred k _ _ => r.pr.contains k || r.pw.contains k
  | .anchor k _ => r.ar.contains k || r.aw.contains k

def RegUse.reads (r : RegUse) : RegWrite → Bool
  | .vec k _ _ _ | .tag k _ => r.vr.contains k
  | .uni k _ => r.ur.contains k
  | .pred k _ _ => r.pr.contains k
  | .anchor k _ => r.ar.contains k

def RegUse.namesReg (r : RegUse) (isVec : Bool) (k : Nat) : Bool :=
  if isVec then r.vr.contains k || r.vw.contains k else r.ur.contains k || r.uw.contains k

/-- The scoreboard: a variable-latency result of the split is outstanding on a register the instruction names (R243). -/
def Group.scoreboard (g : Group) (k : Nat) (r : RegUse) : Bool :=
  (g.results.any fun x => x.split == k && !x.fixed && x.writes.any r.names) || g.owed.any fun o => o.split == k && r.namesReg o.isVec o.reg

/-- A result of the split that S waits for: all but copy status words (R244). -/
def Group.outstanding (g : Group) (k : Nat) : Bool := (g.results.any fun x => x.split == k) || g.owed.any fun o => o.split == k && o.engine

/-- Whether the split's next attempt is a new issue: what is stalled has not issued (R193), nor has an instruction at whose fetch it parked. -/
def Split.fresh? (sp : Split) : Bool := sp.unfinished.isNone && match sp.wait with
  | .none | .stalled | .held _ _ => true
  | .parked _ => sp.issued.isNone
  | _ => false

/-- The instruction that a wait goes on with; a replay after a fault fetches it again (R32). -/
def Split.underWay (sp : Split) : Option (BitVec 96) :=
  match sp.wait, sp.issued with
  | .none, _ | .fetch, _ | .parked _, _ => none
  | _, some (pc, w) => if pc == sp.pc then some w else none
  | _, none => none

/-- Whether it arrives at its instruction by a wake, from a JOIN too, or by a replay (R245). -/
def Split.woke (sp : Split) : Bool :=
  match sp.wait with
  | .parked _ | .maintain _ | .haltc _ => true
  | .none => sp.unfinished.isSome
  | w => w.waiting

/-- The register lines an instruction names (R169, R170). -/
def Env.linesOf (e : Env) (i : Instr) (r : RegUse) : List RegLine :=
  let g := e.group
  let line (k : Nat) : RegLine := ⟨e.cid, e.h, k⟩
  let vs := (r.vr ++ r.vw).map line
  let us := (r.ur ++ r.uw).map fun k => line (g.uniLine e.f.split k)
  let tags := if vs.isEmpty then [] else [line g.tagLine]
  let ps := if (r.pr ++ r.pw).all (· == 7) && !usesLfsr i then [] else [line g.ctlLine]
  (vs ++ us ++ tags ++ ps).eraseDups

/-! ## Readers that come early (R242) -/

/-- Whether a stall lets each result that is not due be written before its reader. -/
def State.lateDraws (reads : Result → Bool) : List Result → State → State × List Result
  | [], s => (s, [])
  | r :: l, s =>
    let due := match r.due with | some d => s.ac < d | none => false
    let (s, now) := if due && reads r then
        let (k, s) := s.draw
        (s, Config.lateReader k)
      else (s, false)
    let (s, l) := State.lateDraws reads l s
    (s, (if now then { r with due := some s.ac } else r) :: l)

def Env.lateReaders (e : Env) (r : RegUse) (s : State) : State :=
  let reads (x : Result) : Bool := x.fixed && x.writes.any fun w => r.reads w && (match w with
    | .uni _ _ | .anchor _ _ => x.split == e.f.split
    | _ => true)
  if e.group.results.any reads then
    let (s, l) := State.lateDraws reads e.group.results s
    e.modGroup s fun g => ({ g with results := l } : Group).commitDue s.ac
  else s

/-- The first read of a status or result register acquires what came with it (R115, R323). -/
def Env.readStatus (e : Env) (r : RegUse) (s : State) : State :=
  let mine (x : StatusSig) : Bool := (x.isVec || x.split == e.f.split) && (if x.isVec then r.vr.contains x.reg else r.ur.contains x.reg)
  let hit := e.group.statusSigs.filter mine
  if hit.isEmpty then s
  else
    let s := hit.foldl (fun s x => s.acquire e.f.core e.cid e.h e.cid x.sig) s
    e.modGroup s fun g => { g with statusSigs := g.statusSigs.filter fun x => !mine x }

/-- The lines an issue uses are the latest used of the cache (R170). -/
def Env.touch (e : Env) (lines : List RegLine) (s : State) : State :=
  e.modCore s fun c => { c with regLines := lines ++ c.regLines.filter fun l => !lines.contains l }

/-! ## The gate -/

/-- The outcome of an issue decision. -/
inductive Gate where
  | held                        -- the split is not ready
  | busy (s : State)            -- a fetch or a fill has begun for it, or its fetch has faulted
  | go (i : Instr) (s : State)  -- it issues

/-- The operands an instruction reads, as they stand: it goes on with them until it is over (R240). -/
def Env.readOperands (e : Env) (r : RegUse) (s : State) : State :=
  e.modGroup s fun g => g.modSplit e.f.split fun sp =>
    { sp with read := some ⟨r.vr.map fun k => (k, g.vreg k), g.p, sp.u, []⟩ }

/-- The state an instruction issues in: what its first attempt does is done. -/
def Env.begun (e : Env) (w : BitVec 96) (r : RegUse) (lines : List RegLine) (s : State) : State :=
  let s := e.modGroup s fun g => ({ g with tgtChecked := true } : Group).modSplit e.f.split fun sp => { sp with issued := some (sp.pc, w) }
  e.readOperands r (e.touch lines (e.readStatus r (e.lateReaders r s)))

/-- Whether an instruction of the C format diverges its split, both parts of which copy its uniform registers (R172, R253). BRX with every lane
taken is stalled once its table has shown more than one target. -/
def Env.copiesUniform (e : Env) (i : Instr) : Bool :=
  match i with
  | .br h _ | .call h _ | .ret h _ => e.diverges (e.g h)
  | .loop h b => e.diverges (e.g h) && (if b.cx.getLsbD 0 then e.u64 b.ca != 1 else e.u b.ca != 1)
  | .brx h _ => e.diverges (e.g h) || (e.g h != 0 && e.sp.wait == .stalled)
  | .pad h _ | .yield h _ | .nop h _ => h.nx == 1#2 && e.diverges (e.g h)
  | .join h _ => h.nx == 1#2 && e.diverges (e.g h) && e.sp.unfinished == some 0
  | _ => false

/-- Whether the scoreboard or an S bit holds an instruction, or the wait for what both parts of a divergence copy, which is as an S bit's (R253). -/
def Env.holds (e : Env) (w : BitVec 96) (r : RegUse) : Bool :=
  (if e.sp.fresh? then e.group.scoreboard e.f.split r || ((e.sp.sbit || e.sp.woke || sBit w) && e.group.outstanding e.f.split)
   else e.sp.woke && e.group.outstanding e.f.split) ||
    (e.group.owesUniform e.f.split && e.legal (instrOf w) && e.copiesUniform (instrOf w))

/-- What an instruction reads and writes: ACCRD of an I48 accumulator writes vD + 1 too (R334), and a copy reads its follow-on's uniform operands
(R150, R240). -/
def Env.uses (e : Env) (i : Instr) (s : State) : RegUse :=
  let r := regUse i
  let r := match i with
    | .accrdEl _ b => if e.crew.any (fun k => (k.acc b.xa.toNat).mode == .i48) && b.xv.toNat + 1 < e.group.vregs then { r with vw := r.vw ++ [b.xv.toNat + 1] } else r
    | _ => r
  if slotsOf i != 2 then r
  else match (s.core e.f.core).findLine e.asid (nextPc e.sp.pc) with
    | some l => { r with ur := r.ur ++ (regUse (instrOf (slotBits l (slotOf (nextPc e.sp.pc))))).ur.filter (· < e.group.uregs) }
    | none => r

/-- The decision for an instruction that has been fetched. -/
def Env.gate (e : Env) (w : BitVec 96) (s : State) : Gate :=
  let i := instrOf w
  let r := if e.legal i then e.uses i s else {}
  if e.holds w r then .held
  else
    let lines := e.linesOf i r
    let missing := lines.filter fun l => !(s.core e.f.core).regLines.contains l
    if !missing.isEmpty then .busy (s.pushAll (missing.map fun l => .registerLineFill e.f.core l))
    else if e.sp.fresh? then .go i (e.begun w r lines s)
    else if e.sp.read.isNone then .go i (e.readOperands r s)
    else .go i s

/-- What a fetch that gave no line leaves. -/
def Env.fetchEnd (e : Env) : Perf → State
  | .ok s | .moved s | .stay s => s
  | .trap t s => e.take t s

/-- The decision for a split. One that has merged into another leaves the decision to that one. -/
def State.gate (s0 : State) (f : Focus) : Gate :=
  let s := s0.prepare f
  match Env.of s f with
  | none => if (Env.of s0 f).isSome then .busy s else .held
  | some e =>
    if !e.works s then .held
    else match e.sp.underWay with
      | some w => e.gate w s
      | none => match e.fetch s with
        | .error p => .busy (e.fetchEnd p)
        | .ok (s, l) => e.gate (slotBits l (slotOf e.sp.pc)) s

def Gate.isHeld : Gate → Bool
  | .held => true
  | _ => false

/-- The splits of groups that are bound. -/
def State.bound (s : State) : List Env :=
  s.cores.flatMap fun (c : Nat × Core) => c.2.slots.flatMap fun (b : Nat × Bind) => (List.range 4).filterMap fun k => Env.of s ⟨c.1, b.1, k⟩

/-- The splits that may try. -/
def State.candidates (s : State) : List Env := if s.coresOn then s.bound.filter (·.works s) else []

/-! ## After an issue (R271, R379, R406) -/

/-- An issue slot of the device: each core has 8, and group slot k is served by k mod 8 (R379). -/
def issueSlot (f : Focus) : Nat := 8 * f.core + f.slot % 8

/-- The highest priority of the splits of an issue slot that are ready at an issue decision, given that of the one chosen (R271). -/
def State.readyPrio (s : State) (f : Focus) (prio : Nat) : Nat :=
  (s.candidates.filter fun x => issueSlot x.f == issueSlot f && prio < x.ctx.prio && !(s.gate x.f).isHeld).foldl (fun p x => max p x.ctx.prio) prio

/-- The other splits of an issue slot that had yielded are ready again: a split of equal or higher priority, `prio` the highest, has been ready
(R271). -/
def State.unyield (s : State) (f : Focus) (prio : Nat) : State :=
  (s.core f.core).slots.foldl (fun s (x : Nat × Bind) =>
    match x.1 % 8 == f.slot % 8 && (s.ctx x.2.cid).any (fun c => c.prio ≤ prio), x.2.frame.bind (s.frame x.2.cid ·) with
    | true, some fr =>
      (List.range 4).foldl (fun s k => match fr.group.split k with
        | some sp => match sp.wait with
          | .yield _ => if x.1 == f.slot && k == f.split then s
              else s.modSplit x.2.cid (x.2.frame.getD 0) k fun sp => { sp with wait := .none, asleep := false }
          | _ => s
        | none => s) s
    | _, _ => s) s

/-- In a single step the splits that an instruction moved have had their one (R406). -/
def Group.markStepped (old g : Group) : Group :=
  let mark (k : Nat) : Option Split :=
    match old.split k, g.split k with
    | some a, some b => some (if a.pc == b.pc && a.mask == b.mask && a.stepped == b.stepped then b else { b with stepped := true })
    | none, some b => some { b with stepped := true }
    | _, none => none
  { g with splits := Vector.ofFn fun k => mark k.val }

/-- A group that would be evictable but for its entries in the wait table. -/
def State.tabled (s : State) (b : Bind) : Bool :=
  match b.frame.bind (s.frame b.cid ·) with
  | some fr => (List.range 4).all fun k => match fr.group.split k with
    | none => true
    | some sp => sp.stop.isNone && sp.evictable s.ac false
  | none => false

/-- R183, R194: frames of a core that can run but find no slot are stolen by an idle core, or make others leave theirs: a group that may be evicted, else one that moves from
the wait table to the Gallery. -/
def State.makeWay (s : State) (n : Nat) (c : Core) : State :=
  let runs (x : FRef) : Bool := (s.ctx x.cid).any fun k => k.st == .running && (s.freeSlots n x.cid).isEmpty
  let taken : Option (Nat × Nat) := match (c.entries.reverse ++ c.ready.filter s.freshDependent).find? fun x => runs x && s.stealable n x with
    | some x => s.thief n x.cid
    | none => none
  match (c.ready ++ c.entries).find? runs, taken with
  | none, _ => s
  | some _, some (m, k) => s.push (.slotBind m k (some n))
  | some x, none =>
    match c.slots.find? fun b => b.2.frame.any fun h => (s.frame b.2.cid h).any fun fr => s.canEvict n b.1 b.2 h fr with
    | some b => s.evictGroup n b.1
    | none =>
      match c.waits.find? fun w => (lookup c.slots w.slot).any fun b => b.cid == x.cid && s.tabled b with
      | some w => match execWaiterToGallery n w.slot w.split s with
        | .next t => t
        | _ => s
      | none => s

def State.makeWays (s : State) : State :=
  s.cores.foldl (fun s (c : Nat × Core) => if c.2.ready.isEmpty && c.2.entries.isEmpty then s else s.makeWay c.1 c.2) s

/-- The instructions that end a strand of their frame whenever they are performed (R88). FWAIT, FPOLL and ABTEST do once they observe what they look for:
`Env.edge`. -/
def endsStrand : Instr → Bool
  | .spawn _ _ | .spawnLane _ _ | .spawnc _ _ | .await _ _ | .exit _ _ | .fres _ _ | .fflt _ _ => true
  | .cpy _ _ | .cpyz _ _ | .cpyr _ _ | .cpyl _ _ | .cpytLd _ _ | .cpytSt _ _ | .twany _ _ | .twall _ _ | .tfirst _ _ => true
  | .abwait _ _ | .abarr _ _ | .flacqP _ _ | .flacqC _ _ | .flrelP _ _ | .flrelC _ _ | .reorder _ _ => true
  | .ban h _ | .bana h _ | .banw h _ => h.sub.getLsbD 0
  | .ldwMem _ _ | .ldwSmp _ _ | .ldws _ _ | .trel _ _ | .mma _ _ | .mmag _ _ | .accz _ _ | .accld _ _ | .accstRaw _ _ | .accstPost _ _ => true
  | .preopLin _ _ | .preopTr _ _ | .preopWin _ _ | .postop _ _ | .edge _ _ | .blend _ _ | .flt _ _ => true
  | .rslvLt _ _ | .rslvLe _ _ | .rslvRd _ _ | .rslvLd _ _ | .rslvClr _ _ | .binfl _ _ => true
  | _ => false

/-- Whether an instruction that has been performed was an edge event: none is with an empty guarded set (R352). -/
def Env.wasEdge (e : Env) (i : Instr) : Bool :=
  endsStrand i && match e.sp.issued with
    | some (_, w) => e.g (unpackHdr w) != 0
    | none => true

/-- A split number that an issue has freed takes the top of the stack, also where every other split sleeps (R174). -/
def Env.pop (e : Env) (s : State) : State :=
  e.modGroup s fun g => if !g.stack.isEmpty && g.freeSplit.isSome then Group.normalise s.ac 68 g else g

/-- What every issue leaves behind: the issue slot has issued in this ac; the split loses its age and its promotion; an edge event ends a
HINT #3, that of a spawn in the continuation; a release that waited for the split's access looks again (R101, R121); a split number that is
free is taken from the stack; a single step may be over; frames that wait for a slot may get one. -/
def State.issued (s : State) (e : Env) (i : Instr) : State :=
  let s := { s.unyield e.f (e.s.readyPrio e.f e.ctx.prio) with issuedNow := issueSlot e.f :: s.issuedNow }
  let s := e.modSplit s fun sp => { sp with readySince := s.ac, promoted := false, streaming := sp.streaming && !(e.wasEdge i && sp.pc != e.sp.pc) }
  let s := if e.sp.owesAccess && !((Env.of s e.f).any fun x => x.sp.owesAccess) then s.wakeRelease e.f.core else s
  (if e.ctx.stepping then (e.modGroup s e.group.markStepped).stepHalt e.cid else e.pop s).makeWays

/-! ## Which split issues next (R379) -/

/-- R379: promoted, then by priority, then by age; a split is promoted after 1,024 ac. -/
def State.precedes (s : State) (a b : Env) : Bool :=
  let up (e : Env) : Bool := e.sp.promoted || 1024 ≤ s.ac - e.sp.readySince
  if up a != up b then up a
  else if !up a && a.ctx.prio != b.ctx.prio then b.ctx.prio < a.ctx.prio
  else a.sp.readySince < b.sp.readySince

/-- The first of the splits in the order of R379 that something holds no longer. -/
def State.firstOf (s : State) : Nat → List Env → Option Focus
  | 0, _ => none
  | n + 1, l =>
    match l.foldl (fun (best : Option Env) e => match best with
        | none => some e
        | some b => if s.precedes e b then some e else some b) none with
    | none => none
    | some e => if (s.gate e.f).isHeld then s.firstOf n (l.filter fun x => x.f != e.f) else some e.f

/-- The split that issues next in this ac when the agenda names none: each issue slot chooses one (R379). -/
def State.pick (s : State) : Option Focus :=
  let l := s.candidates.filter fun e => !s.issuedNow.contains (issueSlot e.f)
  s.firstOf l.length l

/-- An instruction for a unit that the issue slots of a core share: any but the U, V and V3 formats and hints (R379). -/
def sharedUnit (i : Instr) : Bool :=
  match encode i with
  | some w =>
    let opc := (w.extractLsb' 88 8).toNat
    (0x20 ≤ opc && opc < 0x30) || (0x70 ≤ opc && opc < 0xF0)
  | none => false

/-- Whether a split may be the next of its issue slot: it has not issued in this ac, and every split before it in the order of R379 is
held, or names a shared unit, which may have turned it away. -/
def State.mayIssue (s : State) (e : Env) : Bool :=
  !s.issuedNow.contains (issueSlot e.f) &&
    (s.candidates.filter fun x => issueSlot x.f == issueSlot e.f && x.f != e.f && s.precedes x e).all fun x => match s.gate x.f with
      | .held | .busy _ => true
      | .go i _ => sharedUnit i

/-- A turn of the agenda issues a split whose turn it may be; one that is not there or not ready is decided by the gate. -/
def State.turnDue (s : State) (f : Focus) : Bool :=
  match Env.of s f with
  | some e => !s.coresOn || s.mayIssue e
  | none => true

/-- Splits that have yielded and are ready again since no other split of their issue slot is (R271). -/
def State.yielders (s : State) : List Env :=
  if s.coresOn then s.bound.filter fun e => !s.issuedNow.contains (issueSlot e.f) && match e.sp.wait with
    | .yield since => since < s.ac
    | _ => false
  else []

def State.endYields (s : State) : State :=
  s.yielders.foldl (fun s e => e.modSplit s fun sp => { sp with wait := .none, asleep := false }) s

/-- A split that is not ready has no age (R379). -/
def State.ageless (s : State) : State :=
  s.bound.foldl (fun s e =>
    if (s.candidates.any fun x => x.f == e.f) && !(s.gate e.f).isHeld then s else e.modSplit s fun sp => { sp with readySince := s.ac }) s

/-! ## Homes in reset (R431, R443) -/

/-- Whether what has been done has met a home in reset. -/
def State.metReset (s t : State) : Bool := t.homeHeld && !s.homeHeld

/-- An event that has met a home in reset has done nothing: it happens once the die is back (R431). -/
def heldEvent (s : State) (i : Instr) : Host.Outcome State Fault Refusal → Host.Outcome State Fault Refusal
  | .next t => .next (if s.metReset t then { s with waitHomes := s.waitHomes ++ [i] } else t)
  | .fault f => .fault f
  | .refused r => .refused r

/-- An instruction that has met one is performed again then. -/
def Env.heldIssue (e : Env) (s : State) : State := e.modSplit s fun sp => { sp with wait := .access, asleep := true }

/-- Work that meets one is left for later. -/
def State.unlessMet (s : State) : Host.Outcome State Fault Refusal → Option (Host.Outcome State Fault Refusal)
  | .next t => if s.metReset t then none else some (.next t)
  | o => some o

/-! ## When nothing issues -/

/-- A host command that can make progress: a HALTC that waits for its context cannot. -/
def State.commandMoves (s : State) (vf : Nat) : Bool :=
  match s.command vf with
  | none => false
  | some x =>
    if bitsOf x 0 8 != 3 then true
    else match s.ctx (bitsOf x 32 16) with
      | none => true
      | some c => !c.waiters.contains (hostFocus vf) || !(c.st == .halting || c.st == .saving || c.st == .restoring)

/-- A Porter with a fault record that it can pass on (R34). -/
def State.faultWaits (s : State) : Option Nat :=
  [0, 1].find? fun h => match (s.porter h).faults with
    | r :: _ => (s.die h).st == .good && !s.eventsBlocked r.vf
    | [] => false

/-- A feedback ring from which the Porter would take an entry (R84). -/
def State.ringDrains (s : State) : Option (Nat × W64) :=
  s.fbRings.find? fun r => match execFeedbackDrain r.1 r.2 s with
    | .next t => t.atrium != s.atrium && !s.metReset t
    | _ => false

/-- Whether splits of a group that waits at JOINs merge or pop now, or one of the JOINs is held by nothing any more (R174). -/
def Group.joinMoves (g : Group) (now : Nat) : Bool :=
  let n := Group.normalise now 68 (g.commitDue now)
  g.joining && (n.joinWinner.isSome || n.stack.length != g.stack.length || n.freeSplits != g.freeSplits)

/-- A group of a running context for which a JOIN_RELEASE does something. -/
def State.joinDue (s : State) : Option (Nat × Nat) :=
  s.cores.findSome? fun (c : Nat × Core) => c.2.slots.findSome? fun (b : Nat × Bind) =>
    match s.ctx b.2.cid, b.2.frame.bind (s.frame b.2.cid ·) with
    | some x, some fr => if x.st == .running && fr.group.joinMoves s.ac then some (c.1, b.1) else none
    | _, _ => none

/-- A bound group with a split in the Gallery that no answer keeps in its slot any more (R187). -/
def State.galleryDue (s : State) : Option FRef :=
  s.cores.findSome? fun (c : Nat × Core) => c.2.slots.findSome? fun (b : Nat × Bind) =>
    match s.ctx b.2.cid, b.2.frame with
    | some x, some h => (s.frame b.2.cid h).bind fun fr =>
        let swapped := (List.range 4).any fun k => (fr.group.split k).any fun sp => sp.asleep && sp.wait.inGallery
        if x.st == .running && swapped && !(s.reqs.any fun r => r.cid == b.2.cid && r.h == h && r.dst.focus.isSome) then some ⟨b.2.cid, h⟩ else none
    | _, _ => none

/-- Work that waits on nothing: a host command is performed, the Porter passes on a fault record, a JOIN is released, or a group leaves its slot
for the Gallery. -/
def State.service (s : State) : Option (Host.Outcome State Fault Refusal) :=
  ((List.range 64).find? s.commandMoves).bind (fun vf => s.unlessMet (.next (s.serveCommand vf fun _ _ => true))) <|>
    s.faultWaits.bind (fun h => s.unlessMet (execPorterFaultService h none s)) <|>
    s.joinDue.map (fun x => execJoinRelease x.1 x.2 s) <|>
    s.galleryDue.map fun x => .next (s.leaveForGallery x.cid x.handle)

/-- Feedback rings are drained; then resets complete; else only time passes. -/
def State.idle (s : State) : Host.Outcome State Fault Refusal :=
  match s.ringDrains with
  | some (asid, ring) => execFeedbackDrain asid ring s
  | none => match (List.range 4).find? fun i => (s.die i).st == .inReset with
    | some i => execDieResetComplete i s
    | none => .next s.makeWays

/-! ## Time (R373, R377) -/

/-- `n` ac pass: the counters run, held slots and pre-emptions are charged, and what is over then ends: the windows of R373 and R377 and
the sampling intervals of R64. The dies report, and a reset that has lasted too long ends (R446, R431). Splits that are not ready stay without age. -/
def State.pass (s : State) (n : Nat) : State :=
  if n == 0 then s
  else { ((s.tick n).charge (n * unitsPerAc s.step)).restartShares.restartBudgets.closeIntervals.diesPass.ageless with issuedNow := [] }

end Sys2Proof.Machine
end

