-- ==== Sys2Proof/Machine/Load.lean ====
section
/-! DEFINITION. An instruction placed where the next step takes it: at the PC of the split that issues next, or, where no split does, in
a context that the model loads as a launch would leave it (assumption 30). -/

namespace Sys2Proof.Machine

/-- A context of one crew on core 0 whose one group starts at address 0, as a launch of a supervisor leaves it (R44, R176, R182). -/
def State.loadContext (s : State) : State :=
  let cid := s.freshCid
  let entry : Entry := ⟨0, 256, 64, 1⟩
  let blk : LaunchBlock := { alcove := 512, tags := 64, roles := false, gang := false, frames := 64, entries := #v[entry, entry, entry] }
  let g := Group.start .general 256 64 0 0 0 (BitVec.allOnes 32) 0 s.ac
  let fr := { Frame.new none .launch .running 0 (BitVec.allOnes 32) 0 0 g with regs := regsOf 0, awb := BitVec.ofNat 64 (blockAt 0 0) }
  let c := { Ctx.admitted cid 0 true 0 0 (launchRec 0) blk false with
    rect := ⟨0, 0, 1, 1⟩, st := .running, placed := true, crews := [{ Crew.fresh 0 512 64 with st := .running, frames := 1 }], frames := [(0, fr)] }
  let b : Bind := { c.bindRecord (Crew.fresh 0 512 64) 0 (0, 0) with commit := true, frame := some 0, shown := 0, regs := regsOf 0 }
  { s with ctxs := insert s.ctxs cid c, nextCid := freshRec (cid + 1) }.modCore 0 fun k => { k with slots := insert k.slots 0 b }

/-- The line with a slot replaced, and that slot's TGT bit set. -/
def putSlot (l : BitVec 512) (k : Nat) (w : BitVec 96) : BitVec 512 :=
  (l &&& ~~~(((BitVec.allOnes 96).setWidth 512) <<< (96 * k))) ||| (w.setWidth 512 <<< (96 * k)) ||| BitVec.twoPow 512 (480 + 27 + k)

/-- The instruction stands in the cached line of the split's PC, and its register lines are present. -/
def State.putWord (s : State) (f : Focus) (w : BitVec 96) : State :=
  match Env.of s f with
  | none => s
  | some e =>
    let old := ((s.core f.core).findLine e.asid e.sp.pc).getD 0
    let l : ILine := ⟨e.asid, lineOf e.sp.pc, putSlot old (slotOf e.sp.pc) w⟩
    let i := instrOf w
    let lines := e.linesOf i (if e.legal i then regUse i else {})
    s.modCore f.core fun c =>
      { c with icache := l :: c.icache.filter (fun x => !(x.asid == e.asid && x.va == lineOf e.sp.pc)),
               regLines := lines ++ c.regLines.filter fun x => !lines.contains x }

/-- The split that issues next, with the context loaded where none does. -/
def State.loaded (s : State) : State × Focus :=
  match s.pick with
  | some f => (s, f)
  | none => ({ s.loadContext with coresOn := true, issuedNow := [] }, ⟨0, 0, 0⟩)

/-- The instruction is placed, and the very next turn issues it. -/
def State.loadWord (s : State) (nbits w : Nat) : State :=
  let (s, f) := s.loaded
  let s := s.putWord f (BitVec.ofNat 96 (w % 2 ^ nbits))
  { s with agenda := ⟨0, .issue f⟩ :: s.agenda }

end Sys2Proof.Machine
end

