-- ==== Sys2Proof/Machine/Step.lean ====
section
/-! DEFINITION. One step. -/

namespace Sys2Proof.Machine

/-- What is left to do after an instruction has issued at `s`; one that has met a home in reset waits (R431). -/
def finish (e : Env) (i : Instr) (s : State) : Host.Outcome State Fault Refusal → Host.Outcome State Fault Refusal
  | .next t => .next (if s.metReset t then e.heldIssue s else t.issued e i)
  | .fault r => .fault r
  | .refused r => .refused r

/-- The split at a focus issues, where it may. Without core power nothing issues any more (R448). The choice of R379 is `State.pick`'s, and
`act` holds the agenda to it. -/
def issueAt (f : Focus) (s : State) : Host.Outcome State Fault Refusal :=
  if !s.coresOn then .fault .unpowered
  else match s.gate f with
    | .held => .next s
    | .busy t => .next t
    | .go i t => match Env.of t f with
      | none => .next t
      | some e => finish e i { t with focus := f } (exec i { t with focus := f })

/-- A turn: a split issues, or something happens around the cores. Only a split brings an instruction of the opcode map. -/
def act (a : Act) (s : State) : Host.Outcome State Fault Refusal :=
  match a with
  | .issue f => if s.turnDue f then issueAt f s else .next s
  | .event i => if (encode i).isSome then .next s else heldEvent s i (exec i s)

/-- One step: the next turn of the agenda, after its time has passed; with none left, what is due; then commands and fault records;
then one issue of each issue slot in this ac; then a yield that nothing ready cuts short ends; then an ac passes, and after one in which
nothing issued, what only waits for its turn. -/
def step (s : State) : Host.Outcome State Fault Refusal :=
  match s.agenda with
  | t :: rest => act t.act ({ s with agenda := rest }.pass t.dt)
  | [] =>
    match s.todo with
    | i :: rest => heldEvent { s with todo := rest } i (exec i { s with todo := rest })
    | [] =>
      match s.service with
      | some o => o
      | none =>
        match s.pick with
        | some f => issueAt f s
        | none =>
          if !s.yielders.isEmpty then .next s.endYields
          else if s.issuedNow.isEmpty then (s.pass 1).idle
          else .next (s.pass 1)

/-- The state with an instruction where `step` takes its next one. -/
def State.withFetchWord (s : State) (nbits w : Nat) : State := s.loadWord nbits w

end Sys2Proof.Machine
end

