-- ==== Sys2Proof/Safety.lean ====
section
/-! DEFINITION. What counts as a safe state of the device, and the words that claims use: an instruction that performs at the
focus, what a uniform or a vector instruction owes, and what a family of instructions leaves alone. -/

namespace Sys2Proof

/-- Bit W, N and SAT of SUB (R254). -/
def Hdr.w (h : Hdr) : Bool := h.sub.getLsbD 0
def Hdr.n (h : Hdr) : Bool := h.sub.getLsbD 1
def Hdr.sat (h : Hdr) : Bool := h.sub.getLsbD 2

namespace Machine

/-- Every byte memory is in its canonical form: those of the device, of the host and of the peers, and the Alcove of every core
(assumption 1). -/
def State.memWf (s : State) : Bool := s.dram.wf && s.host.wf && s.peer.wf && s.atrium.wf && s.cores.all fun c => c.2.alcove.wf

/-- The split at the focus is e's, the instruction is legal for it (R238 step 2), and its guarded set is not empty (R226). -/
structure Performs (s : State) (e : Env) (i : Instr) (h : Hdr) : Prop where
  here : Env.of s s.focus = some e
  legal : e.legal i = true
  guarded : e.g h ≠ 0

/-- After an instruction of one slot whose results, owed from now, are written `lat` ac later (R227, R241). -/
def after (e : Env) (h : Hdr) (lat : Nat) (ws : List RegWrite) : State := e.next h 1 (e.fixed lat ws e.s)

/-- A uniform result: the single register takes x, or the pair takes y, as W selects (R228, R254). -/
def wrote (w : Bool) (d : BitVec 6) (x : W32) (y : W64) : List RegWrite :=
  if w then [.uni d.toNat (y.extractLsb' 0 32), .uni (d.toNat + 1) (y.extractLsb' 32 32)] else [.uni d.toNat x]

/-- The second operand, as 32 and as 64 bits (R254). -/
def Env.b32 (e : Env) (b : UBody) : W32 := if b.is then b.imm else e.u b.sb
def Env.b64 (e : Env) (h : Hdr) (b : UBody) : W64 :=
  if b.is then (if h.n then b.imm.setWidth 64 else b.imm.signExtend 64) else e.u64 b.sb

/-- The integer value of a word, unsigned for n. -/
def asInt {k : Nat} (n : Bool) (x : BitVec k) : Int := if n then (x.toNat : Int) else x.toInt

/-- An exact integer clamped to the signed or unsigned range of k bits, and a wrapped one (R255). -/
def clamped (n : Bool) (k : Nat) (x : Int) : BitVec k :=
  BitVec.ofInt k (if n then max 0 (min (2 ^ k - 1) x) else max (-(2 ^ (k - 1))) (min (2 ^ (k - 1) - 1) x))

/-- A vector result in the lanes of g, with its tag, written `lat` ac after the issue (R203, R274). -/
def vector (e : Env) (h : Hdr) (lat : Nat) (d : BitVec 8) (tag : BitVec 4) (x : Nat → W32) : State :=
  after e h lat [.vec d.toNat (e.g h) (lanesBy x) tag]

/-- A vector result of a form that rounds n elements in each lane of g, which step the lane's LFSR under RS (R209, R276). -/
def rounded (e : Env) (h : Hdr) (rm : BitVec 3) (n lat : Nat) (d : BitVec 8) (tag : BitVec 4) (x : Nat → W32) : State :=
  e.next h 1 (e.stepped (e.g h) rm n (e.fixed lat [.vec d.toNat (e.g h) (lanesBy x) tag] e.s))

/-- The rational value of a number that is finite. -/
def Fv.rat : Fv → ℚ
  | .fin n m q => (signed n m : ℚ) * 2 ^ q
  | _ => 0

/-- The value of an FP32 number, and that it is finite (R196). -/
def f32Rat (x : W32) : ℚ := (fp32.value x.toNat).rat
def f32Finite (x : W32) : Prop := ∃ n m q, fp32.value x.toNat = .fin n m q

/-- An FP32 number lies within n units in the last place of a real value, those below 2^-126 being of 2^-149 (R285). -/
def ulps (n : ℕ) (x : W32) (y : ℝ) : Prop := f32Finite x ∧
  ∃ k : ℤ, (k = -126 ∨ (-126 < k ∧ (2 : ℝ) ^ k ≤ |y|)) ∧ |(f32Rat x : ℝ) - y| ≤ n * (2 : ℝ) ^ (k - 23)

/-- Element k of a container of w-bit elements (R203). -/
def part (w k : Nat) (x : W32) : BitVec w := x.extractLsb' (w * k) w

/-- The integer that orders the FP32 values which are no NaN, with -0 equal to +0 (R282). -/
def f32Rank (x : W32) : Int := if x.getLsbD 31 then -((x.extractLsb' 0 31).toNat : Int) else (x.extractLsb' 0 31).toNat

/-- The integer that orders the values of a format of w bits which are no NaN, with -0 below +0 (R56). -/
def rank {w : Nat} (x : BitVec w) : Int := if x.msb then -((x.toNat - 2 ^ (w - 1) : Nat) : Int) - 1 else x.toNat

/-- Node i of level k of the reduction tree of R294, over the leaves x: `op n` is the n-th combination made. -/
def treeAt (op : Nat → W32 → W32 → W32) (x : Nat → W32) : Nat → Nat → W32
  | 0, i => x i
  | k + 1, i => op (32 - 2 ^ (5 - k) + i) (treeAt op x k (2 * i)) (treeAt op x k (2 * i + 1))

/-! ## The typed operands -/

/-- The vector operands of an instruction with the tags that each accepts: the suffix that it is read under, the index rule, or any tag
but 15 (R203 to R205, R274, R300). -/
def operandTags (i : Instr) : List (Nat × (BitVec 4 → Bool)) :=
  let index (b : VBody) : List (Nat × (BitVec 4 → Bool)) := if b.ib then [] else [(b.vb.toNat, indexTag)]
  let ab (b : VBody) (ok : BitVec 4 → Bool) : List (Nat × (BitVec 4 → Bool)) := (b.va.toNat, ok) :: if b.ib then [] else [(b.vb.toNat, ok)]
  let abc (b : V3Body) (x y z : BitVec 4 → Bool) : List (Nat × (BitVec 4 → Bool)) := [(b.va.toNat, x), (b.vb.toNat, y), (b.vc.toNat, z)]
  match i with
  | .vadd _ b => ab b (tyAccepts b.ty.toNat)
  | .vsub _ b => ab b (tyAccepts b.ty.toNat)
  | .vmul _ b => ab b (tyAccepts b.ty.toNat)
  | .vmulh _ b => ab b (tyAccepts b.ty.toNat)
  | .vmin _ b => ab b (tyAccepts b.ty.toNat)
  | .vmax _ b => ab b (tyAccepts b.ty.toNat)
  | .vfmin _ b => ab b (tyAccepts b.ty.toNat)
  | .vfmax _ b => ab b (tyAccepts b.ty.toNat)
  | .vpmin _ b => ab b (tyAccepts b.ty.toNat)
  | .vpmax _ b => ab b (tyAccepts b.ty.toNat)
  | .vfadd _ b => ab b (tyAccepts b.ty.toNat)
  | .vfmul _ b => ab b (tyAccepts b.ty.toNat)
  | .vpadd _ b => ab b (tyAccepts b.ty.toNat)
  | .vpmul _ b => ab b (tyAccepts b.ty.toNat)
  | .vcmp _ b => ab b (tyAccepts b.ty.toNat)
  | .vfcmp _ b => ab b (tyAccepts 3)
  | .vand _ b => ab b anyTag
  | .vor _ b => ab b anyTag
  | .vxor _ b => ab b anyTag
  | .vabs _ b => [(b.va.toNat, tyAccepts b.ty.toNat)]
  | .vpopc _ b => [(b.va.toNat, tyAccepts b.ty.toNat)]
  | .vclz _ b => [(b.va.toNat, tyAccepts b.ty.toNat)]
  | .vbfx _ b => [(b.va.toNat, tyAccepts b.ty.toNat)]
  | .vfrcp _ b => [(b.va.toNat, tyAccepts b.ty.toNat)]
  | .vfrsq _ b => [(b.va.toNat, tyAccepts b.ty.toNat)]
  | .vfexp2 _ b => [(b.va.toNat, tyAccepts b.ty.toNat)]
  | .vflog2 _ b => [(b.va.toNat, tyAccepts b.ty.toNat)]
  | .vfsin _ b => [(b.va.toNat, tyAccepts b.ty.toNat)]
  | .vfcos _ b => [(b.va.toNat, tyAccepts b.ty.toNat)]
  | .vffrc _ b => [(b.va.toNat, tyAccepts b.ty.toNat)]
  | .vballot _ b => [(b.va.toNat, tyAccepts b.ty.toNat)]
  | .vred _ b => [(b.va.toNat, tyAccepts b.ty.toNat)]
  | .vscan _ b => [(b.va.toNat, tyAccepts b.ty.toNat)]
  | .vfsqrt _ b => [(b.va.toNat, tyAccepts 3)]
  | .vfrnd _ b => [(b.va.toNat, tyAccepts 3)]
  | .vfclass _ b => [(b.va.toNat, tyAccepts 3)]
  | .vcvt _ b => [(b.va.toNat, tyAccepts b.cc.toNat)]
  | .vunpk _ b => [(b.va.toNat, tyAccepts b.cc.toNat)]
  | .vnot _ b => [(b.va.toNat, anyTag)]
  | .vmov _ b => [(b.va.toNat, anyTag)]
  | .vbcast _ b => [(b.va.toNat, anyTag)]
  | .vshl _ b => (b.va.toNat, tyAccepts b.ty.toNat) :: index b
  | .vshr _ b => (b.va.toNat, tyAccepts b.ty.toNat) :: index b
  | .vsra _ b => (b.va.toNat, tyAccepts b.ty.toNat) :: index b
  | .vshfl _ b => (b.va.toNat, anyTag) :: index b
  | .vpack _ b => if packPair4 b.cc.toNat b.ty.toNat then (span b.va 4).map fun k => (k, tyAccepts b.cc.toNat) else ab b (tyAccepts b.cc.toNat)
  | .vfma _ b => abc b (tyAccepts b.ty.toNat) (tyAccepts b.ty.toNat) (tyAccepts b.ty.toNat)
  | .vpfma _ b => abc b (tyAccepts b.ty.toNat) (tyAccepts b.ty.toNat) (tyAccepts b.ty.toNat)
  | .vmad _ b => abc b (tyAccepts b.ty.toNat) (tyAccepts b.ty.toNat) (tyAccepts b.ty.toNat)
  | .vlerp _ b => abc b (tyAccepts b.ty.toNat) (tyAccepts b.ty.toNat) (tyAccepts b.ty.toNat)
  | .vbfi _ b => abc b (tyAccepts b.ty.toNat) indexTag (tyAccepts b.ty.toNat)
  | .vdot4 _ b => abc b (tyAccepts b.ty.toNat) (tyAccepts b.ty.toNat) (tyAccepts (if isFloatTy b.ty.toNat then 3 else 1))
  | .vdot2 _ b => abc b (tyAccepts b.ty.toNat) (tyAccepts b.ty.toNat) (tyAccepts (if isFloatTy b.ty.toNat then 3 else 1))
  | .vsel _ b => [(b.va.toNat, anyTag), (b.vb.toNat, anyTag)]
  | .swrV _ b => [((b.imm.extractLsb' 0 8).toNat, tyAccepts 2)]
  | .brx _ b => [(b.cv.toNat, indexTag)]
  | .ld _ b => offsetTags b
  | .prefL1 _ b => offsetTags b
  | .prefL2 _ b => offsetTags b
  | .st _ b => offsetTags b ++ (span b.md (szRegs b)).map fun k => (k, anyTag)
  | .stx _ b => (span b.md (b.mc.toNat + 1)).map fun k => (k, anyTag)
  | .sta _ b => (span b.md (b.mc.toNat + 1)).map fun k => (k, anyTag)
  | .stat _ b => (span b.md (b.mc.toNat + 1)).map fun k => (k, anyTag)
  | .atom _ b => offsetTags b ++ (atomOps b).map fun k => (k, atomAccepts b.mp.toNat)
  | .atomNr _ b => offsetTags b ++ (atomOps b).map fun k => (k, atomAccepts b.mp.toNat)
  | .atoma _ b => [(b.mc.toNat, anyTag)]
  | .ldlod _ b => (span b.mx 3).map fun k => (k, indexTag)
  | .resq _ b => (span b.mx 3).map fun k => (k, indexTag)
  | .resqFb _ b => (span b.mx 3).map fun k => (k, indexTag)
  | .txg _ b => (span b.mx 3).map fun k => (k, tyAccepts 3)
  | .cpyl _ b => [((b.ai.extractLsb' 0 8).toNat, anyTag), ((b.ai.extractLsb' 0 8).toNat + 1, anyTag), ((b.ai.extractLsb' 8 8).toNat, indexTag),
      ((b.ai.extractLsb' 16 8).toNat, tyAccepts 15)]
  | .spawnLane _ b => (span b.tv 2).map fun k => (k, anyTag)
  | .vxm _ b => ((b.xi.extractLsb' 8 8).toNat, indexTag) :: (span b.xv (vxmRegs b)).map fun k => (k, fun t => t == actTag b.af)
  | .reorder _ b => [(b.tv.toNat, anyTag)]
  | _ => []

/-! ## Transfers of control -/

/-- A transfer to a PC passes: the PC is canonical and well formed, and the instruction cache holds its line with TGT set (R219, R220, R224). -/
def Env.lands (e : Env) (pc : W64) : Prop :=
  canonical pc = true ∧ pcFormed pc = true ∧ ∃ l, (e.s.core e.f.core).findLine e.asid pc = some l ∧ tgtBit l (slotOf pc) = true

/-- The fault that a transfer to a PC meets, where the instruction cache holds the line of one that is well formed. -/
def Env.refuses (e : Env) (pc : W64) (c : FaultCode) : Prop :=
  (canonical pc = false ∧ c = .nonCanonical) ∨ (canonical pc = true ∧ pcFormed pc = false ∧ c = .badTarget) ∨
  (canonical pc = true ∧ pcFormed pc = true ∧ c = .badTarget ∧
    ∃ l, (e.s.core e.f.core).findLine e.asid pc = some l ∧ tgtBit l (slotOf pc) = false)

/-- A taken set can leave the split: where it diverges, nothing is owed to the split's own registers (R253), and a split number or a
stack entry is free (R172, R173). -/
def Env.canSend (e : Env) (t : Mask) : Prop :=
  e.diverges t = true → e.group.owesUniform e.f.split = false ∧ (e.group.freeSplit.isSome = true ∨ e.group.stack.length < 64)

/-- The split that holds the taken lanes afterwards. -/
def Env.holder (e : Env) (t : Mask) : Nat := if e.diverges t then e.group.freeSplit.getD e.f.split else e.f.split

/-- The taken set goes to the target, the rest to the next slot. -/
def sent (e : Env) (t : Mask) (target : W64) (s : State) : State :=
  e.modSplit (e.modGroup s fun g => g.branch e.f.split t target) fun sp => { sp with stepped := true }

/-- The lanes of the splits of a group and of its stack entries are disjoint sets, and none has retired (R168, R171 to R174). -/
def Frame.lanesApart (fr : Frame) : Prop :=
  let masks : List Mask := fr.group.stack.map (·.mask) ++ (List.range 4).filterMap fun k => (fr.group.split k).map (·.mask)
  masks.Pairwise (fun a b => a &&& b = 0) ∧ ∀ m ∈ masks, m &&& ~~~fr.mask = 0

/-! ## Accesses -/

/-- The units of an access that are still to do (R31). -/
def Env.left (e : Env) (todo : Mask) : List Nat := lanesOf ((e.sp.unfinished.getD todo) &&& todo)

/-- Every such unit passes the early checks of R30, no page that it names has failed a walk, and none has been sent before and is still
under way. -/
def Env.clear (e : Env) (todo : Mask) (acc : Accept) (n align : Nat) (addr : Nat → Addr) : Prop :=
  ∀ i ∈ e.left todo, e.early acc n align (addr i) = none ∧ lookup e.sp.badPages (lookupPage (e.vaOf (addr i))) = none ∧ e.sent e.s i = false

/-- The page in which a unit goes on, where it lies in two, translates too (R304). -/
def Env.goesOn (e : Env) (kind : Kind) (acc : Accept) (n : Nat) (va : W64) (s : State) : Bool :=
  match secondPage va n with
  | none => true
  | some va => (lookup e.sp.badPages (lookupPage va)).isNone && match e.lookupVa s kind acc va with
    | .ok _ => true
    | _ => false

/-- What the units come to in turn, where each translates and answers at once. -/
def Env.answered (e : Env) (kind : Kind) (acc : Accept) (n : Nat) (addr : Nat → Addr) (does : Nat → Place → State → Did) :
    List Nat → State → Option (State × List (Nat × List W32))
  | [], s => some (s, [])
  | i :: l, s => match e.lookupAddr s n kind acc (addr i), e.goesOn kind acc n (e.vaOf (addr i)) s with
    | .ok p, true => match does i p s with
      | .done s v => (Env.answered e kind acc n addr does l s).map fun r => (r.1, (i, v) :: r.2)
      | .pending _ => none
    | _, _ => none

/-- What a load at a place gives, where it answers at once. -/
def Env.loads (e : Env) (dst : ReqDst) (lanes : Mask) (va : W64) (n : Nat) (sgn : Bool) (p : Place) (s : State) : Did :=
  match e.loadAt dst lanes va n p s with
  | (s, some x) => .done s (wordsOf n sgn x)
  | (s, none) => .pending s

/-- What the lanes of a fetch come to in turn, where none meets a fault or waits for a walk (R29, R31, R308). -/
def fetchedLanes (lane : Nat → State → LodLane) : List Nat → State → Option (State × List (Nat × List W32))
  | [], s => some (s, [])
  | l :: rest, s => match lane l s with
    | .done s ws => (fetchedLanes lane rest s).map fun r => (r.1, (l, ws) :: r.2)
    | _ => none

/-- A translation serves a function: it is not withdrawn, and physical memory that it maps lies in the function's window and in a unit that has not
been withdrawn (R26, R42, R439). -/
def Env.serves (e : Env) (s : State) (x : TlbEnt) (va : W64) : Bool :=
  leafType x.leaf != 3 && (leafType x.leaf != 0 || (s.inWindow e.vf (x.pa va) && !s.withdrawnAt (x.pa va)))

/-- The anchor of a base and a length under a translation: VALID where that serves, else STALE (R25, R26). -/
def Env.anchorOf (e : Env) (s : State) (x : TlbEnt) (va : W64) (len : Nat) : Anchor :=
  if e.serves s x va then
    ⟨.valid, va, BitVec.ofNat 52 (x.pa va), BitVec.ofNat 32 (min len (2 ^ x.size - va.toNat % 2 ^ x.size)), attrOf x.leaf⟩
  else ⟨.stale, va, 0, 0, 0⟩

/-- The split waits at its instruction (R193). -/
def Env.waits (e : Env) (w : Wait) (s : State) : State := e.modSplit s fun sp => { sp with wait := w, asleep := true }

/-! ## Arrival barriers (R158, R160) -/

/-- What one operation on a barrier leaves, with k rejected as excess. -/
def Bar.rejects (x : Bar) (k : Nat) : Bar := if k = 0 then x else { x with excess := min (x.excess + k) (2 ^ 32 - 1), overrun := true }

/-- A phase that is satisfied completes. -/
def Bar.turns (x : Bar) : Bar :=
  if x.landed = x.owed ∧ x.arrived = x.quorum then { x with phase := (x.phase + 1) % 2 ^ 16, owed := 0, landed := 0, arrived := 0 } else x

/-- The four requests that OR a signature into the block of a barrier in the Atrium, a line each. -/
def Env.sigLines (e : Env) (s : State) (a : Nat) (σ : SigBits) : State :=
  (s.sendSig e.f.core e.cid e.h e.asid (.split e.f) a 64 σ).1

/-! ## What an instruction leaves alone -/

/-- The registers that an instruction writes, by kind (R169, R240). -/
def RegUse.puts (r : RegUse) : RegWrite → Bool
  | .vec k _ _ _ | .tag k _ => r.vw.contains k
  | .uni k _ => r.uw.contains k
  | .pred k _ _ => r.pw.contains k
  | .anchor k _ => r.aw.contains k

/-- The registers of the issuing group stand as they did: the vector registers and predicates, every other split, and the uniform
registers of the split itself; and of what is owed afterwards, all that was not owed before goes to registers the instruction writes. -/
def Env.keepsRegs (e : Env) (i : Instr) (t : State) : Prop := ∃ fr0 sp0 fr, e.s.frame e.cid e.h = some fr0 ∧
  fr0.group.split e.f.split = some sp0 ∧ t.frame e.cid e.h = some fr ∧
  fr.group.v = fr0.group.v ∧ fr.group.p = fr0.group.p ∧ (∀ k, k ≠ e.f.split → fr.group.split k = fr0.group.split k) ∧
  (∀ sp, fr.group.split e.f.split = some sp → sp.u = sp0.u) ∧
  ∀ x ∈ fr.group.results, ∀ z ∈ x.writes, (∃ y ∈ e.group.results, y.id = x.id ∧ y.split = x.split ∧ z ∈ y.writes) ∨
    (x.split = e.f.split ∧ (regUse i).puts z = true)

/-- No other context's frames, and no other frame of the issuing context, have changed. -/
def Env.keepsFrames (e : Env) (t : State) : Prop := ∀ c k, (c, k) ≠ (e.cid, e.h) → t.frame c k = e.s.frame c k

/-- No byte of an Alcove has changed. -/
def State.keepsAlcoves (s t : State) : Prop := ∀ c, (t.core c).alcove = (s.core c).alcove

/-- The memory of the host stands where the function's fault records go to the Porter: a split that parks posts one (R33). -/
def Env.keepsHost (e : Env) (t : State) : Prop := (e.s.fn e.vf).dsr.getLsbD 1 = false → t.host = e.s.host

end Machine

end Sys2Proof
end

