-- ==== Sys2Proof/Certificates/Slice0/Obligations.lean ====
section
/-! DEFINITION. The statements about the model, in the words of Safety.lean. -/

section

open Sys2Proof Sys2Proof.Machine

/-- R255, R241: without SAT, SADD and SSUB wrap modulo 2^w and are written 2 ac after the issue; SMUL and SMAD give the low w bits, 4 ac
after it. R255: with SAT the exact result is clamped to the signed or unsigned w-bit range that N selects. R255, R241: moves, the logic forms,
the shifts (0, or copies of the sign, for counts of w or more), the minimum and the maximum; SMULH gives bits 2w - 1 to w of the exact product. -/
def Obligations.UniformArithmetic : Prop :=
  (∀ (s : State) (e : Env) (h : Hdr) (b : UBody), h.sat = false →
    (Performs s e (.sadd h b) h → exec (.sadd h b) s = .next (after e h 2 (wrote h.w b.sd (e.u b.sa + e.b32 b) (e.u64 b.sa + e.b64 h b)))) ∧
    (Performs s e (.ssub h b) h → exec (.ssub h b) s = .next (after e h 2 (wrote h.w b.sd (e.u b.sa - e.b32 b) (e.u64 b.sa - e.b64 h b)))) ∧
    (Performs s e (.smul h b) h → exec (.smul h b) s = .next (after e h 4 (wrote h.w b.sd (e.u b.sa * e.b32 b) (e.u64 b.sa * e.b64 h b)))) ∧
    (Performs s e (.smad h b) h → exec (.smad h b) s =
      .next (after e h 4 (wrote h.w b.sd (e.u b.sa * e.b32 b + e.u b.sc) (e.u64 b.sa * e.b64 h b + e.u64 b.sc))))) ∧
  (∀ (s : State) (e : Env) (h : Hdr) (b : UBody), h.sat = true →
    let x (f : Int → Int → Int → Int) : W32 := clamped h.n 32 (f (asInt h.n (e.u b.sa)) (asInt h.n (e.b32 b)) (asInt h.n (e.u b.sc)))
    let y (f : Int → Int → Int → Int) : W64 := clamped h.n 64 (f (asInt h.n (e.u64 b.sa)) (asInt h.n (e.b64 h b)) (asInt h.n (e.u64 b.sc)))
    let r (f : Int → Int → Int → Int) : List RegWrite := wrote h.w b.sd (x f) (y f)
    (Performs s e (.sadd h b) h → exec (.sadd h b) s = .next (after e h 2 (r fun p q _ => p + q))) ∧
    (Performs s e (.ssub h b) h → exec (.ssub h b) s = .next (after e h 2 (r fun p q _ => p - q))) ∧
    (Performs s e (.smul h b) h → exec (.smul h b) s = .next (after e h 4 (r fun p q _ => p * q))) ∧
    (Performs s e (.smad h b) h → exec (.smad h b) s = .next (after e h 4 (r fun p q t => p * q + t)))) ∧
  (∀ (s : State) (e : Env) (h : Hdr) (b : UBody),
    (Performs s e (.smov h b) h → exec (.smov h b) s = .next (after e h 2 (wrote h.w b.sd (e.u b.sa) (e.u64 b.sa)))) ∧
    (Performs s e (.smovi h b) h → exec (.smovi h b) s =
      .next (after e h 2 (wrote h.w b.sd b.imm (if h.n then b.imm.setWidth 64 else b.imm.signExtend 64)))) ∧
    (Performs s e (.sand h b) h → exec (.sand h b) s = .next (after e h 2 (wrote h.w b.sd (e.u b.sa &&& e.b32 b) (e.u64 b.sa &&& e.b64 h b)))) ∧
    (Performs s e (.sor h b) h → exec (.sor h b) s = .next (after e h 2 (wrote h.w b.sd (e.u b.sa ||| e.b32 b) (e.u64 b.sa ||| e.b64 h b)))) ∧
    (Performs s e (.sxor h b) h → exec (.sxor h b) s = .next (after e h 2 (wrote h.w b.sd (e.u b.sa ^^^ e.b32 b) (e.u64 b.sa ^^^ e.b64 h b)))) ∧
    (Performs s e (.sshl h b) h → exec (.sshl h b) s = .next (after e h 2 (wrote h.w b.sd (e.u b.sa <<< e.b32 b) (e.u64 b.sa <<< e.b32 b)))) ∧
    (Performs s e (.sshr h b) h → exec (.sshr h b) s = .next (after e h 2 (wrote h.w b.sd (e.u b.sa >>> e.b32 b) (e.u64 b.sa >>> e.b32 b)))) ∧
    (Performs s e (.ssra h b) h → exec (.ssra h b) s =
      .next (after e h 2 (wrote h.w b.sd ((e.u b.sa).sshiftRight' (e.b32 b)) ((e.u64 b.sa).sshiftRight' (e.b32 b))))) ∧
    (Performs s e (.smin h b) h → exec (.smin h b) s = .next (after e h 2 (wrote h.w b.sd
      (if asInt h.n (e.u b.sa) ≤ asInt h.n (e.b32 b) then e.u b.sa else e.b32 b)
      (if asInt h.n (e.u64 b.sa) ≤ asInt h.n (e.b64 h b) then e.u64 b.sa else e.b64 h b)))) ∧
    (Performs s e (.smax h b) h → exec (.smax h b) s = .next (after e h 2 (wrote h.w b.sd
      (if asInt h.n (e.u b.sa) ≤ asInt h.n (e.b32 b) then e.b32 b else e.u b.sa)
      (if asInt h.n (e.u64 b.sa) ≤ asInt h.n (e.b64 h b) then e.b64 h b else e.u64 b.sa)))) ∧
    (Performs s e (.smulh h b) h → exec (.smulh h b) s = .next (after e h 4 (wrote h.w b.sd
      ((BitVec.ofInt 64 (asInt h.n (e.u b.sa) * asInt h.n (e.b32 b))).extractLsb' 32 32)
      ((BitVec.ofInt 128 (asInt h.n (e.u64 b.sa) * asInt h.n (e.b64 h b))).extractLsb' 64 64)))))

/-- R255, R256, R257, R258: counts, comparison, selection, bit fields and SLEA. -/
def Obligations.UniformCountsCompareFields : Prop :=
  ∀ (s : State) (e : Env) (h : Hdr) (b : UBody),
    let bits (x : W32) (y : W64) (i : Nat) : Bool := if h.w then y.getLsbD i else x.getLsbD i
    let k : Nat := if h.w then 64 else 32
    let len : Nat := (b.imm.extractLsb' 0 7).toNat
    let pos : Nat := b.x8.toNat
    (Performs s e (.spopc h b) h → exec (.spopc h b) s = .next (after e h 2
      [.uni b.sd.toNat (BitVec.ofNat 32 ((List.range k).countP (bits (e.u b.sa) (e.u64 b.sa))))])) ∧
    (Performs s e (.sclz h b) h → ∃ n ≤ k, exec (.sclz h b) s = .next (after e h 2 [.uni b.sd.toNat (BitVec.ofNat 32 n)]) ∧
      (∀ i < k, k - n ≤ i → bits (e.u b.sa) (e.u64 b.sa) i = false) ∧ (n < k → bits (e.u b.sa) (e.u64 b.sa) (k - 1 - n) = true)) ∧
    (Performs s e (.scmp h b) h → ∃ c : Bool,
      exec (.scmp h b) s = .next (after e h 2
        [.uni b.sd.toNat (if c then 1 else 0), .pred b.ps.toNat (e.g h) (if c then BitVec.allOnes 32 else 0)]) ∧
      let x : Int := if h.w then asInt h.n (e.u64 b.sa) else asInt h.n (e.u b.sa)
      let y : Int := if h.w then asInt h.n (e.b64 h b) else asInt h.n (e.b32 b)
      (b.x8 = 0 → (c ↔ x = y)) ∧ (b.x8 = 1 → (c ↔ x ≠ y)) ∧ (b.x8 = 2 → (c ↔ x < y)) ∧ (b.x8 = 3 → (c ↔ x ≤ y)) ∧
      (b.x8 = 4 → (c ↔ x > y)) ∧ (b.x8 = 5 → (c ↔ x ≥ y))) ∧
    (Performs s e (.ssel h b) h → ∃ c : Bool,
      exec (.ssel h b) s = .next (after e h 2
        (wrote h.w b.sd (if c then e.u b.sa else e.b32 b) (if c then e.u64 b.sa else e.b64 h b))) ∧
      (h.sub.toNat < 2 → (c ↔ e.u b.sc ≠ 0)) ∧
      (h.sub.toNat / 2 = 4 → (c ↔ ∃ l < 32, (e.g h).getLsbD l ∧ (e.p b.ps).getLsbD l)) ∧
      (h.sub.toNat / 2 = 8 → (c ↔ ∀ l < 32, (e.g h).getLsbD l → (e.p b.ps).getLsbD l))) ∧
    (Performs s e (.sbfx h b) h → ∃ (x : W32) (y : W64), exec (.sbfx h b) s = .next (after e h 2 (wrote h.w b.sd x y)) ∧
      ∀ i < k, bits x y i = (bits (e.u b.sa) (e.u64 b.sa) (pos + min i (len - 1)) && (i < len || !h.n))) ∧
    (Performs s e (.sbfi h b) h → ∃ (x : W32) (y : W64), exec (.sbfi h b) s = .next (after e h 2 (wrote h.w b.sd x y)) ∧
      ∀ i < k, bits x y i =
        if pos ≤ i ∧ i < pos + len then bits (e.u b.sa) (e.u64 b.sa) (i - pos) else bits (e.u b.sc) (e.u64 b.sc) i) ∧
    (Performs s e (.slea h b) h → exec (.slea h b) s = .next (after e h 2 (wrote true b.sd 0
      (e.u64 b.sa + (if h.n then (e.b32 b).setWidth 64 else (e.b32 b).signExtend 64) <<< pos))))

/-- R259, R260, R262, R241: special registers and ballots. A read of sr.time and a read into a vector register are of variable latency;
SWR gives every lane of g the low half of a word, and steps nothing else. R247, R152, R177: what each number reads. -/
def Obligations.UniformSpecialRegisters : Prop :=
  ∀ (s : State) (e : Env) (h : Hdr) (b : UBody),
    (∀ l, e.special 0 l = BitVec.ofNat 64 l ∧ e.special 1 l = BitVec.ofNat 64 e.bind.group ∧ e.special 2 l = BitVec.ofNat 64 e.bind.crew ∧
      e.special 3 l = BitVec.ofNat 64 (e.f.core % 32) ∧ e.special 4 l = BitVec.ofNat 64 (e.f.core / 32) ∧
      e.special 5 l = (BitVec.ofNat 32 (e.ctx.rect.x + 2 ^ 5 * e.ctx.rect.y + 2 ^ 9 * (e.ctx.rect.w % 32) + 2 ^ 15 * e.ctx.rect.h)).setWidth 64 ∧
      e.special 6 l = BitVec.ofNat 64 e.f.split ∧ e.special 9 l = e.sp.trapinfo.setWidth 64 ∧ e.special 10 l = BitVec.ofNat 64 e.ctx.asid ∧
      e.special 11 l = BitVec.ofNat 64 e.cid ∧ e.special 12 l = e.sp.mask.setWidth 64 ∧ e.special 13 l = BitVec.ofNat 64 e.h ∧
      (∀ i : Fin 32, l = i → e.special 14 l = (e.group.lfsr[i]).setWidth 64) ∧
      e.special 15 l = (if e.f.core % 32 < 16 then 0 else 1) ∧
      (∀ k, e.crew = some k → ∀ t < 64, (e.special 7 l).getLsbD t = match k.tags[t]? with
        | some x => x.count = 0
        | none => true)) ∧
    (Performs s e (.srd h b) h → b.x8 ≠ 8 → ∃ l < 32, (e.g h).getLsbD l = true ∧ (∀ k < l, (e.g h).getLsbD k = false) ∧
      exec (.srd h b) s = .next (after e h 2 (wrote (b.x8 = 7) b.sd ((e.special b.x8.toNat l).setWidth 32) (e.special 7 l)))) ∧
    (Performs s e (.srd h b) h → b.x8 = 8 → exec (.srd h b) s = .next (e.next h 1 (e.later
      (wrote true b.sd 0 (s.counter (hallOf e.f.core))) s))) ∧
    (Performs s e (.srdV h b) h → exec (.srdV h b) s = .next (e.next h 1 (e.later
      [.vec (b.imm.toNat % 256) (e.g h) (lanesBy fun l => (e.special b.x8.toNat l).setWidth 32) 2#4] s))) ∧
    (Performs s e (.swr h b) h → exec (.swr h b) s = .next (e.next h 1 (s.modGroup e.cid e.h fun gr =>
      { gr with lfsr := Vector.ofFn fun i => if (e.g h).getLsbD i then (e.u b.sa).setWidth 16 else gr.lfsr[i] }))) ∧
    (Performs s e (.swrV h b) h → (let t := (e.group.vreg (b.imm.toNat % 256)).tag; t = 2#4 ∨ t = 14#4) →
      exec (.swrV h b) s = .next (e.next h 1 (s.modGroup e.cid e.h fun gr =>
        { gr with lfsr := Vector.ofFn fun i =>
            if (e.g h).getLsbD i then (lane (e.group.vreg (b.imm.toNat % 256)).lanes i).setWidth 16 else gr.lfsr[i] }))) ∧
    (Performs s e (.sballot h b) h → exec (.sballot h b) s = .next (after e h 2 [.uni b.sd.toNat (e.p b.ps &&& e.g h)]))

/-- R277, R203, R241: the integer forms act on each element of the suffix TY. The result carries TY's tag, and an element is the exact
result wrapped at the element width, or clamped to the element's range under SAT. -/
def Obligations.VectorIntegers : Prop :=
  ∀ (s : State) (e : Env) (h : Hdr) (b : VBody),
    let w : Nat := tyWidth b.ty.toNat
    let n : Bool := b.ty = 2 ∨ b.ty = 9 ∨ b.ty = 14
    let int (x : W32) (k : Nat) : Int := asInt n (part w k x)
    let fit (sat : Bool) (x : Int) : BitVec w := if sat then clamped n w x else BitVec.ofInt w x
    let gives (i : Instr) (lat : Nat) (sat : Bool) (f : Int → Int → Int) : Prop :=
      Performs s e i h → tagsAB b (tyAccepts b.ty.toNat) e = true → ∃ x : Nat → W32,
        exec i s = .next (vector e h lat b.vd (tyTag b.ty.toNat) x) ∧
        ∀ l k, k < 32 / w → part w k (x l) = fit sat (f (int (e.vl b.va l) k) (int (e.vb b l) k))
    gives (.vadd h b) 4 b.sat (fun p q => p + q) ∧ gives (.vsub h b) 4 b.sat (fun p q => p - q) ∧
    gives (.vmul h b) 6 b.sat (fun p q => p * q) ∧ gives (.vmulh h b) 6 false (fun p q => Int.fdiv (p * q) (2 ^ 32)) ∧
    gives (.vmin h b) 4 false min ∧ gives (.vmax h b) 4 false max ∧
    (Performs s e (.vabs h b) h → tagA b (tyAccepts b.ty.toNat) e = true → ∃ x : Nat → W32,
      exec (.vabs h b) s = .next (vector e h 4 b.vd (tyTag b.ty.toNat) x) ∧
      ∀ l k, k < 32 / w → part w k (x l) = fit b.sat |int (e.vl b.va l) k|) ∧
    ∀ c : V3Body, c.ty = b.ty →
      Performs s e (.vmad h c) h → tags3 c (tyAccepts c.ty.toNat) (tyAccepts c.ty.toNat) (tyAccepts c.ty.toNat) e = true →
        exec (.vmad h c) s = .next (vector e h 6 c.vd (tyTag c.ty.toNat) fun l =>
          if c.sat then clamped n 32 (asInt n (e.vl c.va l) * asInt n (e.vl c.vb l) + asInt n (e.vl c.vc l))
          else e.vl c.va l * e.vl c.vb l + e.vl c.vc l)

/-- R277, R278, R279, R205, R290: the logic forms are tag-agnostic and give RAW; a move keeps the tag of VA; a shift by 32 or more gives
0, or copies of the sign; counts carry N32; VTAG writes the tag alone, whatever it was. R291, R292, R293: a shuffle and a broadcast read only the lanes of g, and the predicate says where the source lane is one of them; the
result carries the tag of VA. -/
def Obligations.VectorBits : Prop :=
  ∀ (s : State) (e : Env) (h : Hdr) (b : VBody) (c : V3Body),
    (Performs s e (.vand h b) h → tagsAB b anyTag e = true →
      exec (.vand h b) s = .next (vector e h 4 b.vd 0 fun l => e.vl b.va l &&& e.vb b l)) ∧
    (Performs s e (.vor h b) h → tagsAB b anyTag e = true →
      exec (.vor h b) s = .next (vector e h 4 b.vd 0 fun l => e.vl b.va l ||| e.vb b l)) ∧
    (Performs s e (.vxor h b) h → tagsAB b anyTag e = true →
      exec (.vxor h b) s = .next (vector e h 4 b.vd 0 fun l => e.vl b.va l ^^^ e.vb b l)) ∧
    (Performs s e (.vnot h b) h → tagA b anyTag e = true →
      exec (.vnot h b) s = .next (vector e h 4 b.vd 0 fun l => ~~~(e.vl b.va l))) ∧
    (Performs s e (.vmov h b) h → tagA b anyTag e = true →
      exec (.vmov h b) s = .next (vector e h 4 b.vd (e.v b.va).tag fun l => e.vl b.va l)) ∧
    (Performs s e (.vmovi h b) h → exec (.vmovi h b) s = .next (vector e h 4 b.vd 0 fun _ => b.imm)) ∧
    (Performs s e (.vtag h b) h → exec (.vtag h b) s = .next (after e h 2 [.tag b.vd.toNat (tyTag b.ty.toNat)])) ∧
    (let shifts (i : Instr) (f : W32 → W32 → W32) : Prop :=
       Performs s e i h → tagA b (tyAccepts b.ty.toNat) e = true → (b.ib = true ∨ indexTag (e.v b.vb).tag = true) →
         exec i s = .next (vector e h 4 b.vd (tyTag b.ty.toNat) fun l => f (e.vl b.va l) (e.vb b l))
     shifts (.vshl h b) (fun x k => x <<< k) ∧ shifts (.vshr h b) (fun x k => x >>> k) ∧
     shifts (.vsra h b) (fun x k => x.sshiftRight' k)) ∧
    (Performs s e (.vpopc h b) h → tagA b (tyAccepts b.ty.toNat) e = true →
      exec (.vpopc h b) s = .next (vector e h 4 b.vd 2 fun l =>
        BitVec.ofNat 32 ((List.range 32).countP (e.vl b.va l).getLsbD))) ∧
    (Performs s e (.vclz h b) h → tagA b (tyAccepts b.ty.toNat) e = true → ∃ n : Nat → Nat,
      exec (.vclz h b) s = .next (vector e h 4 b.vd 2 fun l => BitVec.ofNat 32 (n l)) ∧
      ∀ l, n l ≤ 32 ∧ (∀ i < 32, 32 - n l ≤ i → (e.vl b.va l).getLsbD i = false) ∧
        (n l < 32 → (e.vl b.va l).getLsbD (31 - n l) = true)) ∧
    (Performs s e (.vbfx h b) h → tagA b (tyAccepts b.ty.toNat) e = true → ∃ x : Nat → W32,
      exec (.vbfx h b) s = .next (vector e h 4 b.vd (tyTag b.ty.toNat) x) ∧
      let pos : Nat := (b.imm.extractLsb' 0 8).toNat
      let len : Nat := (b.imm.extractLsb' 8 8).toNat
      ∀ l, ∀ i < 32, (x l).getLsbD i = ((e.vl b.va l).getLsbD (pos + min i (len - 1)) && (i < len || b.ty = 1))) ∧
    (Performs s e (.vbfi h c) h → tags3 c (tyAccepts c.ty.toNat) indexTag (tyAccepts c.ty.toNat) e = true → ∃ x : Nat → W32,
      exec (.vbfi h c) s = .next (vector e h 4 c.vd (tyTag c.ty.toNat) x) ∧
      ∀ l, let pos : Nat := ((e.vl c.vb l).extractLsb' 0 5).toNat
        let len : Nat := ((e.vl c.vb l).extractLsb' 8 6).toNat
        ∀ i < 32, (x l).getLsbD i =
          if pos ≤ i ∧ i < pos + len ∧ pos + len ≤ 32 then (e.vl c.va l).getLsbD (i - pos) else (e.vl c.vc l).getLsbD i) ∧
    (Performs s e (.vsel h c) h → anyTag (e.v c.va).tag = true → anyTag (e.v c.vb).tag = true →
      exec (.vsel h c) s = .next (vector e h 4 c.vd (if (e.v c.va).tag = (e.v c.vb).tag then (e.v c.va).tag else 0) fun l =>
        if (e.p c.ps).getLsbD l then e.vl c.va l else e.vl c.vb l)) ∧
    (Performs s e (.vshfl h b) h → anyTag (e.v b.va).tag = true → (b.ib = true ∨ indexTag (e.v b.vb).tag = true) →
      ∃ (ok : Nat → Bool) (from_ : Nat → Nat),
        exec (.vshfl h b) s = .next (after e h 6 [.vec b.vd.toNat (e.g h)
          (lanesBy fun l => if ok l then e.vl b.va (from_ l) else e.vl b.va l) (e.v b.va).tag, .pred b.pd.toNat (e.g h) (maskBy ok)]) ∧
        ∀ l < 32, let d : Int := ((e.vb b l).extractLsb' 0 5).toNat
          let n : Int := if b.cc = 0 then d else if b.cc = 1 then l - d else if b.cc = 2 then l + d
            else ((BitVec.ofNat 5 l ^^^ (e.vb b l).extractLsb' 0 5).toNat : Int)
          (ok l ↔ 0 ≤ n ∧ n ≤ 31 ∧ (e.g h).getLsbD n.toNat = true) ∧ (ok l → (from_ l : Int) = n)) ∧
    (Performs s e (.vbcast h b) h → anyTag (e.v b.va).tag = true → ∃ n : Nat,
      exec (.vbcast h b) s = .next (after e h 6 [.vec b.vd.toNat (e.g h)
        (lanesBy fun _ => if (e.g h).getLsbD n then e.vl b.va n else 0) (e.v b.va).tag,
        .pred b.pd.toNat (e.g h) (maskBy fun _ => (e.g h).getLsbD n)]) ∧
      (h.sub = 0 → n = (b.imm.extractLsb' 0 5).toNat) ∧
      (h.sub = 1 → (e.g h).getLsbD n = true ∧ ∀ k < n, (e.g h).getLsbD k = false))

/-- R280, R282, R283, R296: a comparison writes its predicate in the lanes of g, and with .v all ones or 0 with tag N32; of two values one
of which is a NaN only ne and unordered hold; each FP32 value has exactly one class; a ballot gives the lanes of g that pass. -/
def Obligations.VectorCompares : Prop :=
  ∀ (s : State) (e : Env) (h : Hdr) (b : VBody),
    let results (t : Nat → Bool) : List RegWrite :=
      .pred b.pd.toNat (e.g h) (maskBy t) ::
        if h.sub = 1 then [.vec b.vd.toNat (e.g h) (lanesBy fun l => if t l then BitVec.allOnes 32 else 0) 2] else []
    let nan (x : W32) : Prop := x.extractLsb' 23 8 = 255#8 ∧ x.extractLsb' 0 23 ≠ 0#23
    (Performs s e (.vcmp h b) h → tagsAB b (tyAccepts b.ty.toNat) e = true → ∃ t : Nat → Bool,
      exec (.vcmp h b) s = .next (after e h 4 (results t)) ∧
      ∀ l, let x : Int := asInt (b.ty ≠ 1) (e.vl b.va l)
        let y : Int := asInt (b.ty ≠ 1) (e.vb b l)
        (b.cc = 0 → (t l ↔ x = y)) ∧ (b.cc = 1 → (t l ↔ x ≠ y)) ∧ (b.cc = 2 → (t l ↔ x < y)) ∧ (b.cc = 3 → (t l ↔ x ≤ y)) ∧
        (b.cc = 4 → (t l ↔ x > y)) ∧ (b.cc = 5 → (t l ↔ x ≥ y))) ∧
    (Performs s e (.vfcmp h b) h → tagsAB b (tyAccepts 3) e = true → ∃ t : Nat → Bool,
      exec (.vfcmp h b) s = .next (after e h 6 (results t)) ∧
      ∀ l, ((nan (e.vl b.va l) ∨ nan (e.vb b l)) → (t l ↔ b.cc = 1 ∨ b.cc = 6)) ∧
        (¬ nan (e.vl b.va l) → ¬ nan (e.vb b l) →
          let x : Int := f32Rank (e.vl b.va l)
          let y : Int := f32Rank (e.vb b l)
          (b.cc = 0 → (t l ↔ x = y)) ∧ (b.cc = 1 → (t l ↔ x ≠ y)) ∧ (b.cc = 2 → (t l ↔ x < y)) ∧ (b.cc = 3 → (t l ↔ x ≤ y)) ∧
          (b.cc = 4 → (t l ↔ x > y)) ∧ (b.cc = 5 → (t l ↔ x ≥ y)) ∧ (b.cc = 6 → t l = false) ∧ (b.cc = 7 → t l = true))) ∧
    (Performs s e (.vfclass h b) h → tagA b (tyAccepts 3) e = true → ∃ c : Nat → Nat,
      exec (.vfclass h b) s = .next (after e h 6 [.vec b.vd.toNat (e.g h) (lanesBy fun l => BitVec.twoPow 32 (c l)) 2,
        .pred b.pd.toNat (e.g h) (maskBy fun l => b.imm.getLsbD (c l))]) ∧
      ∀ l, let neg : Bool := (e.vl b.va l).getLsbD 31
        let exp : BitVec 8 := (e.vl b.va l).extractLsb' 23 8
        let frac : BitVec 23 := (e.vl b.va l).extractLsb' 0 23
        c l ≤ 8 ∧ (c l = 8 ↔ nan (e.vl b.va l)) ∧ (c l = 0 ↔ exp = 255 ∧ frac = 0 ∧ neg) ∧
        (c l = 7 ↔ exp = 255 ∧ frac = 0 ∧ neg = false) ∧ (c l = 1 ↔ exp ≠ 255 ∧ exp ≠ 0 ∧ neg) ∧
        (c l = 6 ↔ exp ≠ 255 ∧ exp ≠ 0 ∧ neg = false) ∧ (c l = 2 ↔ exp = 0 ∧ frac ≠ 0 ∧ neg) ∧
        (c l = 5 ↔ exp = 0 ∧ frac ≠ 0 ∧ neg = false) ∧ (c l = 3 ↔ exp = 0 ∧ frac = 0 ∧ neg) ∧
        (c l = 4 ↔ exp = 0 ∧ frac = 0 ∧ neg = false)) ∧
    (Performs s e (.vballot h b) h → tagA b (tyAccepts b.ty.toNat) e = true → ∃ t : Nat → Bool,
      exec (.vballot h b) s = .next (after e h 6 [.uni b.vd.toNat (e.g h &&& maskBy t), .pred b.pd.toNat (e.g h) (maskBy t)]) ∧
      ∀ l, t l ↔ e.vl b.va l ≠ 0 ∧ (b.ty = 3 → e.vl b.va l ≠ 0x80000000#32))

/-- R281, R286, R298, R209: the floating-point sums, products and fused forms take each element, negate it as SUB says, compute exactly and
round once; under RS each element rounded steps the LFSR of its lane. -/
def Obligations.VectorFloats : Prop :=
  ∀ (s : State) (e : Env) (h : Hdr) (b : VBody) (c : V3Body),
    let neg (i : Nat) (v : Fv) : Fv := if h.sub.getLsbD i then v.neg else v
    let two (i : Instr) (f : Fmt) (n : Nat) (op : Rnd → Fv → Fv → Fv) : Prop :=
      Performs s e i h → tagsAB b (tyAccepts b.ty.toNat) e = true → ∃ x : Nat → W32,
        exec i s = .next (rounded e h b.rm n 6 b.vd (tyTag b.ty.toNat) x) ∧
        ∀ l, ∀ k < n, (part f.bits k (x l)).toNat = f.ofValue .ieee (e.rnd b.rm l k)
          (op (e.rnd b.rm l k) (neg 1 (f.value (part f.bits k (e.vl b.va l)).toNat)) (neg 0 (f.value (part f.bits k (e.vb b l)).toNat)))
    let three (i : Instr) (f : Fmt) (n : Nat) : Prop :=
      Performs s e i h → tags3 c (tyAccepts c.ty.toNat) (tyAccepts c.ty.toNat) (tyAccepts c.ty.toNat) e = true → ∃ x : Nat → W32,
        exec i s = .next (rounded e h c.rm n 6 c.vd (tyTag c.ty.toNat) x) ∧
        ∀ l, ∀ k < n, (part f.bits k (x l)).toNat = f.ofValue .ieee (e.rnd c.rm l k)
          (((neg 1 (f.value (part f.bits k (e.vl c.va l)).toNat)).mul (neg 0 (f.value (part f.bits k (e.vl c.vb l)).toNat))).add
            (e.rnd c.rm l k) (neg 2 (f.value (part f.bits k (e.vl c.vc l)).toNat)))
    two (.vfadd h b) fp32 1 (fun r p q => p.add r q) ∧ two (.vfmul h b) fp32 1 (fun _ p q => p.mul q) ∧ three (.vfma h c) fp32 1 ∧
    (b.ty = 4 → two (.vpadd h b) bf16 2 (fun r p q => p.add r q) ∧ two (.vpmul h b) bf16 2 (fun _ p q => p.mul q)) ∧
    (b.ty = 5 → two (.vpadd h b) fp16 2 (fun r p q => p.add r q) ∧ two (.vpmul h b) fp16 2 (fun _ p q => p.mul q)) ∧
    (c.ty = 4 → three (.vpfma h c) bf16 2) ∧ (c.ty = 5 → three (.vpfma h c) fp16 2)

/-- R281, R284, R209: VFSQRT, VFRND and VFFRC. The square root of a positive number is the exact root rounded in RM: its square, and those of its
neighbours and of the points between them, stand to the operand as the mode says; it is a NaN for a NaN and below -0; VFRND rounds to
an integral value in RM and keeps the sign, and zeros and infinities pass; VFFRC rounds a - Floor(a) toward zero, +0 where it is exactly 0,
and lies below 1. R281, R286, R56: the minimum and the maximum. -0 orders below +0; where one operand is a NaN the result is the other, and of two NaNs
it is the canonical NaN of the format. -/
def Obligations.VectorRootsMinMax : Prop :=
  (∀ (s : State) (e : Env) (h : Hdr) (b : VBody),
    (Performs s e (.vfsqrt h b) h → tagA b (tyAccepts 3) e = true →
      exec (.vfsqrt h b) s = .next (rounded e h b.rm 1 16 b.vd 3 fun l =>
        BitVec.ofNat 32 (fp32.sqrt (e.rnd b.rm l 0) (fp32.value (e.vl b.va l).toNat)))) ∧
    (∀ (r : Rnd) (n : Bool) (m : Nat) (q : Int), fp32.sqrt r .nan = 0x7FC00000 ∧ fp32.sqrt r (.inf n) = (if n then 0x7FC00000 else 0x7F800000) ∧
      fp32.sqrt r (.fin n 0 q) = (if n then 0x80000000 else 0) ∧ fp32.sqrt r (.fin true (m + 1) q) = 0x7FC00000) ∧
    (∀ (r : Rnd) (a x : W32), f32Finite a → 0 < f32Rat a → x = BitVec.ofNat 32 (fp32.sqrt r (fp32.value a.toNat)) →
      let v : ℚ := f32Rat a
      let z (d : W32) : ℚ := f32Rat (x + d)
      let floor (y : W32) : Prop := f32Rat y ^ 2 ≤ v ∧ v < f32Rat (y + 1) ^ 2
      f32Finite x ∧ 0 < z 0 ∧
      match r with
      | .rne => (z (-1) + z 0) ^ 2 < 4 * v ∧ 4 * v < (z 0 + z 1) ^ 2
      | .rz | .rd => floor x
      | .ru => z (-1) ^ 2 < v ∧ v ≤ z 0 ^ 2
      | .rs k => k < 65536 → ∃ y, floor y ∧
          x = if (f32Rat y + (65536 - k) / 65536 * (f32Rat (y + 1) - f32Rat y)) ^ 2 ≤ v then y + 1 else y) ∧
    (Performs s e (.vfrnd h b) h → tagA b (tyAccepts 3) e = true → ∃ x : Nat → W32,
      exec (.vfrnd h b) s = .next (rounded e h b.rm 1 6 b.vd 3 x) ∧
      ∀ l, let a : W32 := e.vl b.va l
        let r : Rnd := e.rnd b.rm l 0
        (fp32.value a.toNat = .nan → x l = 0x7FC00000) ∧ (∀ n, fp32.value a.toNat = .inf n → x l = a) ∧
        (∀ n m q, fp32.value a.toNat = .fin n m q →
          x l = BitVec.ofNat 32 (fp32.ofValue .ieee r (.fin n (Mag.roundAt ⟨m, 1, q⟩ 0 r n) 0)) ∧ (x l).getLsbD 31 = a.getLsbD 31)) ∧
    (Performs s e (.vffrc h b) h → tagA b (tyAccepts 3) e = true → ∃ x : Nat → W32,
      exec (.vffrc h b) s = .next (vector e h 6 b.vd 3 x) ∧
      ∀ l, let a : W32 := e.vl b.va l
        (fp32.value a.toNat = .nan → x l = 0x7FC00000) ∧ (∀ n, fp32.value a.toNat = .inf n → x l = 0x7FC00000) ∧
        (∀ n m q, fp32.value a.toNat = .fin n m q →
          let d : Fv := (Fv.fin n m q).add .rz (Fv.ofInt (signed n (Mag.roundAt ⟨m, 1, q⟩ 0 .rd n))).neg
          ((∃ n q, d = .fin n 0 q) → x l = 0) ∧ ((∀ n q, d ≠ .fin n 0 q) → x l = BitVec.ofNat 32 (fp32.ofValue .ieee .rz d)) ∧
          (x l).toNat < 0x3F800000))) ∧
  (∀ (s : State) (e : Env) (h : Hdr) (b : VBody),
    let gives (i : Instr) (f : Fmt) (n : Nat) (max : Bool) : Prop :=
      Performs s e i h → tagsAB b (tyAccepts b.ty.toNat) e = true → ∃ x : Nat → W32,
        exec i s = .next (vector e h 6 b.vd (tyTag b.ty.toNat) x) ∧
        ∀ l, ∀ k < n,
          let p : BitVec f.bits := part f.bits k (e.vl b.va l)
          let q : BitVec f.bits := part f.bits k (e.vb b l)
          part f.bits k (x l) =
            if (f.value p.toNat).isNan then (if (f.value q.toNat).isNan then BitVec.ofNat f.bits f.nan else q)
            else if (f.value q.toNat).isNan then p
            else if rank p < rank q then (if max then q else p) else (if max then p else q)
    gives (.vfmin h b) fp32 1 false ∧ gives (.vfmax h b) fp32 1 true ∧
    (b.ty = 4 → gives (.vpmin h b) bf16 2 false ∧ gives (.vpmax h b) bf16 2 true) ∧
    (b.ty = 5 → gives (.vpmin h b) fp16 2 false ∧ gives (.vpmax h b) fp16 2 true))

/-- R276, R285: the approximated functions are fixed functions of the operand, written 16 ac after the issue, with the special values of the
table; VFRCP is exact for the powers of two.
Where the spec leaves it open this rests on the model's choice, log entry 34. -/
def Obligations.VectorApproximations : Prop :=
  ∃ rcp rsq exp2 log2 sin cos : W32 → W32,
    (∀ (s : State) (e : Env) (h : Hdr) (b : VBody), tagA b (tyAccepts 3) e = true →
      let gives (i : Instr) (f : W32 → W32) : Prop :=
        Performs s e i h → exec i s = .next (vector e h 16 b.vd 3 fun l => f (e.vl b.va l))
      gives (.vfrcp h b) rcp ∧ gives (.vfrsq h b) rsq ∧ gives (.vfexp2 h b) exp2 ∧ gives (.vflog2 h b) log2 ∧
      gives (.vfsin h b) sin ∧ gives (.vfcos h b) cos) ∧
    (∀ x : W32, 0x7F800000 < (x.extractLsb' 0 31).toNat →
      rcp x = 0x7FC00000 ∧ rsq x = 0x7FC00000 ∧ exp2 x = 0x7FC00000 ∧ log2 x = 0x7FC00000 ∧ sin x = 0x7FC00000 ∧ cos x = 0x7FC00000) ∧
    (rcp 0 = 0x7F800000 ∧ rcp 0x80000000 = 0xFF800000 ∧ rcp 0x7F800000 = 0 ∧ rcp 0xFF800000 = 0x80000000) ∧
    (rsq 0 = 0x7F800000 ∧ rsq 0x80000000 = 0xFF800000 ∧ rsq 0x7F800000 = 0) ∧
    (∀ x : W32, 0x80000000 < x.toNat → rsq x = 0x7FC00000 ∧ log2 x = 0x7FC00000) ∧
    (∀ x : W32, 0x43000000 ≤ x.toNat → x.toNat ≤ 0x7F800000 → exp2 x = 0x7F800000) ∧
    (∀ x : W32, 0xC3160000 < x.toNat → x.toNat ≤ 0xFF800000 → exp2 x = 0) ∧
    (log2 0 = 0xFF800000 ∧ log2 0x80000000 = 0xFF800000 ∧ log2 0x3F800000 = 0 ∧ log2 0x7F800000 = 0x7F800000) ∧
    (∀ n : Bool, let z : W32 := if n then 0x80000000 else 0
      sin z = z ∧ sin (z + 0x7F800000) = 0x7FC00000 ∧ cos (z + 0x7F800000) = 0x7FC00000) ∧
    (∀ k < 253, rcp (BitVec.ofNat 32 ((k + 1) * 2 ^ 23)) = BitVec.ofNat 32 ((253 - k) * 2 ^ 23))

/-- R285: the bounds of the approximated functions. A result whose bound is in units in the last place lies within them of the function's value,
and is that value itself where the table says exact; VFLOG2 near 1, and VFSIN and VFCOS of every finite number of turns, lie within 2^-22.
Where the spec leaves it open this rests on the model's choice, log entry 34. -/
def Obligations.ApproximationBounds : Prop :=
  ∀ (s : State) (e : Env) (h : Hdr) (b : VBody), tagA b (tyAccepts 3) e = true →
    let gives (i : Instr) (meets : ℝ → W32 → Prop) : Prop := Performs s e i h → ∃ x : Nat → W32,
      exec i s = .next (vector e h 16 b.vd 3 x) ∧ ∀ l, f32Finite (e.vl b.va l) → meets (f32Rat (e.vl b.va l)) (x l)
    let is (x : W32) (y : ℝ) : Prop := f32Finite x ∧ (f32Rat x : ℝ) = y
    let near (x : W32) (y : ℝ) : Prop := f32Finite x ∧ |(f32Rat x : ℝ) - y| ≤ 2 ^ (-22 : ℤ)
    let turn (f : ℝ → ℝ) (a : ℝ) (x : W32) : Prop := near x (f (2 * Real.pi * a)) ∧ ∀ n : ℤ, 4 * a = n → is x (f (2 * Real.pi * a))
    gives (.vfrcp h b) (fun a x => ((2 : ℝ) ^ (-128 : ℤ) < |a| → ulps 1 x (1 / a)) ∧
      (∀ n : ℤ, -127 ≤ n → n ≤ 127 → |a| = (2 : ℝ) ^ n → is x (1 / a)) ∧
      (a ≠ 0 → |a| < (2 : ℝ) ^ (-128 : ℤ) → x = if 0 < a then 0x7F800000 else 0xFF800000)) ∧
    gives (.vfrsq h b) (fun a x => 0 < a → ulps 1 x (1 / Real.sqrt a) ∧ ∀ n : ℤ, a = (4 : ℝ) ^ n → is x (1 / Real.sqrt a)) ∧
    gives (.vfexp2 h b) (fun a x => -150 ≤ a → a < 128 → ulps 2 x ((2 : ℝ) ^ a) ∧ ∀ n : ℤ, -149 ≤ n → a = n → is x ((2 : ℝ) ^ a)) ∧
    gives (.vflog2 h b) (fun a x => 0 < a → (a < 1 / 2 ∨ 2 < a → ulps 2 x (Real.logb 2 a)) ∧ (1 / 2 ≤ a → a ≤ 2 → near x (Real.logb 2 a)) ∧
      ∀ n : ℤ, a = (2 : ℝ) ^ n → is x (Real.logb 2 a)) ∧
    gives (.vfsin h b) (turn Real.sin) ∧ gives (.vfcos h b) (turn Real.cos)

/-- R287, R210, R211: VCVT converts each element; a format copied to itself changes only a NaN; integers of one width keep their bits, or
are clamped under SAT; other integer targets round in RM and saturate; floating-point targets round once. -/
def Obligations.VectorConversions : Prop :=
  ∀ (s : State) (e : Env) (h : Hdr) (b : VBody),
    let src : Nat := b.cc.toNat
    let dst : Nat := b.ty.toNat
    let w : Nat := tyWidth dst
    Performs s e (.vcvt h b) h → tagA b (tyAccepts src) e = true → ∃ x : Nat → W32,
      exec (.vcvt h b) s = .next (if cvtRounds src dst then rounded e h b.rm (32 / w) 6 b.vd (tyTag dst) x
        else vector e h 6 b.vd (tyTag dst) x) ∧
      ∀ l k, k < 32 / w →
        let a : BitVec w := part w k (e.vl b.va l)
        let z : BitVec w := part w k (x l)
        (src = dst → z = if isFloatTy dst && ((tyFmt dst).value a.toNat).isNan then BitVec.ofNat w (tyFmt dst).nan else a) ∧
        ((src = 1 ∧ dst = 2) ∨ (src = 8 ∧ dst = 9) → z = if b.sat then clamped true w a.toInt else a) ∧
        ((src = 2 ∧ dst = 1) ∨ (src = 9 ∧ dst = 8) → z = if b.sat then clamped false w a.toNat else a) ∧
        (src ≠ dst → 3 ≤ dst → dst ≤ 7 →
          z.toNat = (tyFmt dst).ofValue (if b.sat ∧ dst ≠ 3 then .sat else .ieee) (e.rnd b.rm l k) (tyValue src a.toNat)) ∧
        (isFloatTy src → dst = 1 ∨ dst = 8 ∨ dst = 10 →
          z.toInt = (tyValue src a.toNat).toInt (e.rnd b.rm l k) (-(2 ^ (w - 1) : Int)) (2 ^ (w - 1) - 1)) ∧
        (src = 3 → dst = 11 → (fp32.value a.toNat = .nan → z = 0) ∧
          (∀ n, fp32.value a.toNat = .inf n → z.toInt = if n then -(2 ^ 31) else 2 ^ 31 - 1) ∧
          (∀ n m q, fp32.value a.toNat = .fin n m q → z.toInt = Fv.toInt (.fin n m (q + 8)) (e.rnd b.rm l k) (-(2 ^ 31)) (2 ^ 31 - 1))) ∧
        (isFloatTy src → dst = 2 ∨ dst = 9 →
          (z.toNat : Int) = (tyValue src a.toNat).toInt (e.rnd b.rm l k) 0 (2 ^ w - 1)) ∧
        (src = 12 → dst = 13 → z.toNat =
          if k = 3 then a.toNat else srgbEncode (fp32.value (fromUnorm 255 a.toNat).toNat)) ∧
        (src = 13 → dst = 12 → z.toNat =
          if k = 3 then a.toNat else toUnorm 255 (fp32.value (srgbDecode a.toNat).toNat))

/-- R288, R289: VPACK takes the elements of VA and VB, or of VA to VA + 3, in destination element order; VUNPK takes the part IMM names.
Each element converts as VCVT does, and the colours as R201 says. -/
def Obligations.VectorPacking : Prop :=
  ∀ (s : State) (e : Env) (h : Hdr) (b : VBody),
    let src : Nat := b.cc.toNat
    let dst : Nat := b.ty.toNat
    let ws : Nat := tyWidth src
    let wd : Nat := tyWidth dst
    (Performs s e (.vpack h b) h →
      (packPair4 src dst = true → ∀ k < 4, tyAccepts src (e.group.vreg (b.va.toNat + k)).tag = true) →
      (packPair4 src dst = false → tagsAB b (tyAccepts src) e = true) → ∃ x : Nat → W32,
      exec (.vpack h b) s = .next (if packRounds src dst then rounded e h b.rm (32 / wd) 6 b.vd (tyTag dst) x
        else vector e h 6 b.vd (tyTag dst) x) ∧
      ∀ l, let from_ (k : Nat) : Nat :=
          if packPair4 src dst then (lane (e.group.vreg (b.va.toNat + k)).lanes l).toNat
          else if k < 32 / ws then (part ws k (e.vl b.va l)).toNat else (part ws (k - 32 / ws) (e.vb b l)).toNat
        (dst ≠ 12 → dst ≠ 13 → dst ≠ 15 → ∀ k < 32 / wd,
          (part wd k (x l)).toNat = convertElem src dst b.sat (e.rnd b.rm l k) (from_ k)) ∧
        (dst = 12 → ∀ k < 4, (part 8 k (x l)).toNat = toUnorm 255 (fp32.value (from_ k))) ∧
        (dst = 13 → ∀ k < 4, (part 8 k (x l)).toNat =
          if k < 3 then srgbEncode (fp32.value (from_ k)) else toUnorm 255 (fp32.value (from_ k))) ∧
        (dst = 15 → (∀ k < 3, ((x l).extractLsb' (10 * k) 10).toNat = toUnorm 1023 (fp32.value (from_ k))) ∧
          ((x l).extractLsb' 30 2).toNat = toUnorm 3 (fp32.value (from_ 3)))) ∧
    (Performs s e (.vunpk h b) h → tagA b (tyAccepts src) e = true → ∃ x : Nat → W32,
      exec (.vunpk h b) s = .next (vector e h 6 b.vd (tyTag dst) x) ∧
      ∀ l, let c : W32 := e.vl b.va l
        let k : Nat := (b.imm.extractLsb' 0 2).toNat
        (src ≠ 12 → src ≠ 13 → src ≠ 15 → ∀ j < 32 / wd,
          (part wd j (x l)).toNat = convertElem src dst false .rne (part ws (k * (32 / wd) + j) c).toNat) ∧
        (src = 12 → x l = fromUnorm 255 (part 8 k c).toNat) ∧
        (src = 13 → x l = if k < 3 then srgbDecode (part 8 k c).toNat else fromUnorm 255 (part 8 k c).toNat) ∧
        (src = 15 → x l = if k < 3 then fromUnorm 1023 (c.extractLsb' (10 * k) 10).toNat else fromUnorm 3 (c.extractLsb' 30 2).toNat))

/-- R294, R295: VRED gives the exact integer total of the lanes of g, wrapped or clamped once, and for every other operation the fixed tree
over the lanes of g and the identity elsewhere; VSCAN gives each lane of g the combination of those below it, and of itself where the
form is inclusive. Only the f32 addition rounds, and under RS it steps the LFSRs as R294 and R295 say.
Where the spec leaves it open this rests on the model's choice, log entry 17. -/
def Obligations.VectorReductions : Prop :=
  ∀ (s : State) (e : Env) (h : Hdr) (b : VBody),
    let op : Nat := (b.cc.extractLsb' 0 3).toNat
    let ty : Nat := b.ty.toNat
    let fadd : Bool := op = 0 ∧ ty = 3
    let val (l : Nat) : Int := asInt (ty ≠ 1) (e.vl b.va l)
    let fit (x : Int) : W32 := if b.sat then clamped (ty ≠ 1) 32 x else BitVec.ofInt 32 x
    let I : W32 := BitVec.ofNat 32 (redIdentity op ty)
    (Performs s e (.vred h b) h → tagA b (tyAccepts ty) e = true → ∃ (x : W32) (low : Nat),
      (e.g h).getLsbD low = true ∧ (∀ k < low, (e.g h).getLsbD k = false) ∧
      (let t : State := e.fixed 12 [if b.cc.getLsbD 3 then .uni b.vd.toNat x
          else .vec b.vd.toNat (e.g h) (lanesBy fun _ => x) (tyTag ty)] e.s
       exec (.vred h b) s = .next (e.next h 1 (if fadd then e.stepped (BitVec.twoPow 32 low) b.rm 31 t else t))) ∧
      (op = 0 → ty ≠ 3 → x = fit (((List.range 32).map fun l => if (e.g h).getLsbD l then val l else 0).sum)) ∧
      (¬ (op = 0 ∧ ty ≠ 3) → x = treeAt (fun n => redStep op ty (rndOf b.rm (lfsrAfter low (e.lfsr low) (n + 1))))
        (fun l => if (e.g h).getLsbD l then e.vl b.va l else I) 5 0)) ∧
    (Performs s e (.vscan h b) h → tagA b (tyAccepts ty) e = true → ∃ x : Nat → W32,
      exec (.vscan h b) s = .next (if fadd then rounded e h b.rm 1 12 b.vd (tyTag ty) x else vector e h 12 b.vd (tyTag ty) x) ∧
      ∀ l < 32, (e.g h).getLsbD l = true →
        let seen : List Nat := (List.range 32).filter fun k => (e.g h).getLsbD k && (k < l || (k = l && !b.cc.getLsbD 3))
        x l = if op = 0 ∧ ty ≠ 3 then fit ((seen.map val).sum)
          else seen.foldl (fun run k => redStep op ty (e.rnd b.rm k 0) run (e.vl b.va k)) I)

/-- R297, R298: the dot products sum exactly the products of the elements and c; the integer rows wrap or clamp once, the others round once.
VLERP computes a + c × (b - a) exactly and rounds once, an exact zero taking the sign of the mode. -/
def Obligations.VectorDots : Prop :=
  ∀ (s : State) (e : Env) (h : Hdr) (b : V3Body),
    let ty : Nat := b.ty.toNat
    let w : Nat := tyWidth ty
    let dot (i : Instr) (n : Nat) : Prop :=
      Performs s e i h →
      (isFloatTy ty = false → tags3 b (tyAccepts ty) (tyAccepts ty) (tyAccepts 1) e = true →
        exec i s = .next (vector e h 8 b.vd 1 fun l =>
          let total : Int := ((List.range n).map fun k => asInt (ty = 9) (part w k (e.vl b.va l)) * asInt (ty = 9) (part w k (e.vl b.vb l))).sum
            + (e.vl b.vc l).toInt
          if b.sat then clamped false 32 total else BitVec.ofInt 32 total)) ∧
      (isFloatTy ty = true → tags3 b (tyAccepts ty) (tyAccepts ty) (tyAccepts 3) e = true →
        exec i s = .next (rounded e h b.rm 1 8 b.vd 3 fun l =>
          let r : Rnd := e.rnd b.rm l 0
          BitVec.ofNat 32 (fp32.ofValue .ieee r (Fv.sum r (fp32.value (e.vl b.vc l).toNat :: (List.range n).map fun k =>
            ((tyFmt ty).value (part w k (e.vl b.va l)).toNat).mul ((tyFmt ty).value (part w k (e.vl b.vb l)).toNat))))))
    dot (.vdot4 h b) 4 ∧ dot (.vdot2 h b) 2 ∧
    (Performs s e (.vlerp h b) h → tags3 b (tyAccepts ty) (tyAccepts ty) (tyAccepts ty) e = true → ∃ x : Nat → W32,
      exec (.vlerp h b) s = .next (rounded e h b.rm (32 / w) 6 b.vd (tyTag ty) x) ∧
      ∀ l k, k < 32 / w →
        let r : Rnd := e.rnd b.rm l k
        let p : Fv := (tyFmt ty).value (part w k (e.vl b.va l)).toNat
        let q : Fv := (tyFmt ty).value (part w k (e.vl b.vb l)).toNat
        let c : Fv := (tyFmt ty).value (part w k (e.vl b.vc l)).toNat
        let v : Fv := p.add r (c.mul (q.add r p.neg))
        ((∀ n x, v ≠ .fin n 0 x) → (part w k (x l)).toNat = (tyFmt ty).ofValue .ieee r v) ∧
        ((∃ n x, v = .fin n 0 x) → (part w k (x l)).toNat = if r = .rd then 2 ^ (w - 1) else 0))

/-! ## Issue and control -/

/-- R238, R390, R394: an instruction that its group may not issue is taken as ILLEGAL_OPCODE, whatever else is true of it; so is a word
whose opcode is not assigned. R350: the privileged forms are taken so in a context that is no supervisor; every other T-format instruction is
open to every context and role. R226: an instruction whose guarded set is empty performs nothing: the split goes on past its slots, and nothing
else changes, unless an operand's tag is not accepted; REORDER alone looks at the lanes that are left out. R204, R205: an instruction with a
vector operand whose tag is not accepted takes FORMAT_MISMATCH at its first issue, and performs nothing.
Where the spec leaves it open this rests on the model's choice, log entries 32, 35. -/
def Obligations.IllegalAndUnguarded : Prop :=
  (∀ (s : State) (e : Env), Env.of s s.focus = some e →
    (∀ (i : Instr) (w : BitVec 96), encode i = some w → e.legal i = false → exec i s = .next (e.take (faultOf .illegalOpcode) s)) ∧
    (∀ w : BitVec 96, exec (.unassignedOpcode w) s = .next (e.take (faultOf .illegalOpcode) s)) ∧
    (∀ (h : Hdr) (b : TBody), e.sup = false → ∀ i ∈ [.ctxrd h b, .ctxwr h b, .evpop h b, .evpopWait h b, .tlbinvRange h b, .tlbinvAsid h b,
      .tlbinvFn h b, .mapqRange h b, .mapqAsid h b, .mapqFn h b, .haltcHalt h b, .haltcResume h b, .haltcKill h b],
      exec i s = .next (e.take (faultOf .illegalOpcode) s)) ∧
    (∀ (i : Instr) (w : BitVec 96), encode i = some w → 0xD0 ≤ (w.extractLsb' 88 8).toNat → (w.extractLsb' 88 8).toNat < 0xF0 →
      privileged i = false → e.legal i = (i.wellFormed && e.inRange i))) ∧
  (∀ (s : State) (e : Env) (i : Instr) (w : BitVec 96), encode i = some w → Env.of s s.focus = some e → e.legal i = true →
    e.g (unpackHdr w) = 0 → (∀ u, i ≠ .unassignedOpcode u) → (∀ h b, i ≠ .reorder h b) →
    (exec i s = .next (e.modSplit s (Split.advance (slotsOf i))) ∨
      (exec i s = .next (e.take (faultOf .formatMismatch) s) ∧ e.tagsOk (operandTags i) = false ∧ e.sp.wait ≠ .access))) ∧
  (∀ (s : State) (e : Env) (i : Instr) (w : BitVec 96), encode i = some w → Env.of s s.focus = some e → e.legal i = true →
    e.sp.wait ≠ .access → e.tagsOk (operandTags i) = false → exec i s = .next (e.take (faultOf .formatMismatch) s))

/-- R390, R391, R392, R394: taking a fault in a running context keeps it for the split's stop record at the split's own PC, makes it the
first cause, and raises the halt line toward every core of the rectangle. R30, R31, R390: where a unit of a vector access fails an early check, nothing is performed: the fault of the lowest such lane is taken,
with the mask of the lanes that fail.
Where the spec leaves it open this rests on the model's choice, log entry 13. -/
def Obligations.FaultsTaken : Prop :=
  (∀ (s : State) (e : Env) (x : TrapInfo) (fr0 : Frame) (sp0 : Split), Env.of s s.focus = some e → e.ctx.st = .running →
    s.frame e.cid e.h = some fr0 → fr0.group.split e.f.split = some sp0 → ∃ c fr sp,
    (e.take x s).ctx e.cid = some c ∧ c.st = .halting ∧ c.first = some x.code ∧
    (e.take x s).frame e.cid e.h = some fr ∧ fr.group.split e.f.split = some sp ∧
    sp.stop = some x ∧ sp.raiser = true ∧ sp.pc = e.sp.pc ∧ sp.mask = e.sp.mask ∧ sp.u = sp0.u ∧ fr.group.v = fr0.group.v ∧
    (e.take x s).todo = s.todo ++ e.ctx.rect.cores.map (fun n => .haltLineArrival e.cid n) ∧
    (e.take x s).dram = s.dram ∧ (e.take x s).cores = s.cores) ∧
  (∀ (s : State) (e : Env) (h : Hdr) (b : MBody) (i : Nat) (c : FaultCode),
    let n : Nat := szBytes b.sz.toNat
    let bad : List Nat := (e.left (e.g h)).filter fun l => (e.early .any n n (e.laneAddr b l)).isSome
    let trap : TrapInfo := { code := c, umask := maskOf bad, fva := e.vaOf (e.laneAddr b i) &&& 0x01FFFFFFFFFFFFFF }
    bad.head? = some i → e.early .any n n (e.laneAddr b i) = some c →
      (Performs s e (.ld h b) h → e.tagsOk (offsetTags b) = true → exec (.ld h b) s = .next (e.take trap s)) ∧
      (Performs s e (.st h b) h → e.tagsOk (offsetTags b ++ dataTags b.md (szRegs b)) = true →
        exec (.st h b) s = .next (e.take trap s)) ∧
      (Performs s e (.atom h b) h → e.tagsOk (atomTags b) = true → exec (.atom h b) s = .next (e.take trap s)) ∧
      (Performs s e (.atomNr h b) h → e.tagsOk (atomTags b) = true → exec (.atomNr h b) s = .next (e.take trap s)))

/-- R264, R267, R227: BR, CALL and RET send the lanes of g to the target; CALL also writes the PC of its next slot to a pair, in the split
that holds those lanes. R266, R269, R271, R272, R227: PAD, NOP, YIELD and JOIN perform nothing but their NX: the lanes of g go on, or to the target of NX 01.
YIELD then waits; JOIN passes at once where its split is alone or released. -/
def Obligations.ControlForms : Prop :=
  (∀ (s : State) (e : Env) (h : Hdr) (b : CBody), e.canSend (e.g h) →
    (Performs s e (.br h b) h → e.lands (branchTarget e.sp.pc b) →
      exec (.br h b) s = .next (sent e (e.g h) (branchTarget e.sp.pc b) s)) ∧
    (Performs s e (.ret h b) h → e.lands (e.u64 b.ca) → exec (.ret h b) s = .next (sent e (e.g h) (e.u64 b.ca) s)) ∧
    (Performs s e (.call h b) h → e.lands (branchTarget e.sp.pc b) →
      exec (.call h b) s = .next (e.laterFor (e.holder (e.g h)) (wrote true b.ca 0 (nextPc e.sp.pc))
        (sent e (e.g h) (branchTarget e.sp.pc b) s)))) ∧
  (∀ (s : State) (e : Env) (h : Hdr) (b : CBody),
    let t : State := if h.nx = 1 then sent e (e.g h) (branchTarget e.sp.pc b) s else e.next h 1 s
    let alone : Prop := e.group.stack = [] ∧ ∀ k < 4, k ≠ e.f.split → e.group.split k = none
    (h.nx = 1 → e.lands (branchTarget e.sp.pc b) ∧ e.canSend (e.g h)) →
      (Performs s e (.pad h b) h → exec (.pad h b) s = .next t) ∧
      (Performs s e (.nop h b) h → exec (.nop h b) s = .next t) ∧
      (Performs s e (.yield h b) h → exec (.yield h b) s =
        .next (e.modSplit t fun sp => { sp with wait := .yield t.ac, asleep := true })) ∧
      (Performs s e (.join h b) h → (alone ∨ e.sp.unfinished = some 0) → exec (.join h b) s = .next t) ∧
      (Performs s e (.join h b) h → ¬ alone → e.sp.unfinished ≠ some 0 → exec (.join h b) s =
        .next ((e.modSplit s fun sp => { sp with wait := .join, asleep := true }).push (.joinRelease e.f.core e.f.slot))))

/-- R172, R173, R219: where a branch sends the lanes. All of them go to the target; else the taken set becomes the split of the lowest free
number with copies of the uniform and anchor registers, and the rest goes on at the next slot; with no number free the rest is pushed. R168, R171,
R174: no instruction of the C format, and no release of a JOIN, makes two splits or stack entries of a group share a lane, or brings a retired
lane back. -/
def Obligations.BranchDivides : Prop :=
  (∀ (s t : State) (e : Env) (h : Hdr) (b : CBody) (fr0 fr : Frame), Env.of s s.focus = some e → s.frame e.cid e.h = some fr0 → fr0.lanesApart →
    ∀ i ∈ [.br h b, .brx h b, .pad h b, .call h b, .ret h b, .join h b, .loop h b, .exit h b, .yield h b, .nop h b, .bkpt h b, .trap h b],
      exec i s = .next t → t.frame e.cid e.h = some fr → fr.lanesApart) ∧
  (∀ (s t : State) (core slot cid f : Nat) (fr0 fr : Frame), s.frame cid f = some fr0 → fr0.lanesApart →
    exec (.joinRelease core slot) s = .next t → t.frame cid f = some fr → fr.lanesApart) ∧
  ∀ (s : State) (e : Env) (t : Mask) (target : W64) (fr0 : Frame) (sp0 : Split), Env.of s s.focus = some e →
    s.frame e.cid e.h = some fr0 → fr0.group.split e.f.split = some sp0 → t ≠ 0 → t &&& ~~~e.sp.mask = 0 → ∃ fr,
    (sent e t target s).frame e.cid e.h = some fr ∧
    (e.diverges t = false → (∃ sp, fr.group.split e.f.split = some sp ∧ sp.pc = target ∧ sp.mask = e.sp.mask ∧ sp.u = sp0.u) ∧
      fr.group.stack = e.group.stack) ∧
    (∀ n, e.diverges t = true → e.group.freeSplit = some n → fr.group.stack = e.group.stack ∧
      (∃ sp, fr.group.split e.f.split = some sp ∧ sp.pc = nextPc e.sp.pc ∧ sp.mask = e.sp.mask &&& ~~~t ∧ sp.u = sp0.u) ∧
      (∃ sp, fr.group.split n = some sp ∧ sp.pc = target ∧ sp.mask = t ∧ sp.u = sp0.u ∧ sp.anchors = sp0.anchors) ∧
      (∀ k < n, e.group.split k ≠ none)) ∧
    (e.diverges t = true → e.group.freeSplit = none →
      (∃ sp, fr.group.split e.f.split = some sp ∧ sp.pc = target ∧ sp.mask = t ∧ sp.u = sp0.u) ∧
      ∃ x, fr.group.stack = x :: e.group.stack ∧ x.pc = nextPc e.sp.pc ∧ x.mask = e.sp.mask &&& ~~~t ∧ x.u = sp0.u)

/-- R219, R220, R227: a transfer (RET, BR, CALL, a LOOP that goes on, and PAD, NOP, YIELD and a JOIN that passes with NX 01) whose target is not
canonical, not well formed, or in a cached line whose slot has no TGT bit, performs and moves nothing. R273, R362, R394: BKPT and TRAP count as performed: the split stands at the next slot, and the fault carries the label. DEBUG.BKPTNOP
makes BKPT a NOP. -/
def Obligations.BadTargetsDebugTraps : Prop :=
  (∀ (s : State) (e : Env) (h : Hdr) (b : CBody) (c : FaultCode),
    let traps (i : Instr) (pc : W64) : Prop := Performs s e i h → e.refuses pc c → exec i s = .next (e.take (faultOf c) s)
    let target : W64 := branchTarget e.sp.pc b
    let passes : Prop := (e.group.stack = [] ∧ ∀ k < 4, k ≠ e.f.split → e.group.split k = none) ∨ e.sp.unfinished = some 0
    traps (.ret h b) (e.u64 b.ca) ∧ traps (.br h b) target ∧ traps (.call h b) target ∧
    ((if b.cx.getLsbD 0 then e.u64 b.ca ≠ 1 else e.u b.ca ≠ 1) → traps (.loop h b) target) ∧
    (h.nx = 1 → traps (.pad h b) target ∧ traps (.nop h b) target ∧ traps (.yield h b) target ∧ (passes → traps (.join h b) target))) ∧
  (∀ (s : State) (e : Env) (h : Hdr) (b : CBody),
    let t : State := e.modSplit s (Split.advance 1)
    (Performs s e (.trap h b) h → exec (.trap h b) s = .next (e.take { code := .trap, info := b.lbl } t)) ∧
    (Performs s e (.bkpt h b) h → e.ctx.bkptNop = false → exec (.bkpt h b) s = .next (e.take { code := .bkpt, info := b.lbl } t)) ∧
    (Performs s e (.bkpt h b) h → e.ctx.bkptNop = true → exec (.bkpt h b) s = .next (e.next h 1 s)))

/-- R268, R270, R168: LOOP counts down by one, ends at 0 and else sends the lanes of g to the target, every part with the new count; EXIT
retires the lanes of g, and a split with none left ends. -/
def Obligations.LoopsAndExits : Prop :=
  ∀ (s : State) (e : Env) (h : Hdr) (b : CBody),
    let w : Bool := b.cx.getLsbD 0
    let ws : List RegWrite := wrote w b.ca (e.u b.ca - 1) (e.u64 b.ca - 1)
    let ends : Prop := if w then e.u64 b.ca = 1 else e.u b.ca = 1
    let target : W64 := branchTarget e.sp.pc b
    (Performs s e (.loop h b) h → ends → exec (.loop h b) s = .next (e.next h 1 (e.later ws s))) ∧
    (Performs s e (.loop h b) h → ¬ ends → e.lands target → e.canSend (e.g h) →
      exec (.loop h b) s = .next (
        if e.diverges (e.g h) then sent e (e.g h) target (e.modGroup s fun g => g.writes e.f.split ws)
        else e.later ws (sent e (e.g h) target s))) ∧
    (Performs s e (.exit h b) h → ∃ t fr, exec (.exit h b) s = .next t ∧ t.frame e.cid e.h = some fr ∧
      fr.mask = e.fr.mask &&& ~~~e.g h ∧
      (e.sp.mask &&& ~~~e.g h = 0 → fr.group.split e.f.split = none) ∧
      (e.sp.mask &&& ~~~e.g h ≠ 0 → ∃ sp, fr.group.split e.f.split = some sp ∧ sp.pc = nextPc e.sp.pc ∧
        sp.mask = e.sp.mask &&& ~~~e.g h) ∧
      (fr.group.live = 0 → fr.group.stack = [] → e.group.exit = .live →
        fr.group.exit = .awaiting ∧ t.todo = s.todo ++ [.awaitComplete e.f.core e.f.slot]) ∧
      t.dram = s.dram ∧ t.cores = s.cores)

/-- R265, R174: BRX reads one table entry for each distinct index of g, checks them all, and then sends each set of lanes to its target; a
table that is not 16-byte aligned, or an index outside the table, moves nothing. -/
def Obligations.TableBranches : Prop :=
  ∀ (s : State) (e : Env) (h : Hdr) (b : CBody), Performs s e (.brx h b) h → indexTag (e.v b.cv).tag = true →
    let idx (l : Nat) : Int := e.laneIndex b.cv l
    let inside : Prop := ∀ l < 32, (e.g h).getLsbD l = true → 0 ≤ idx l ∧ idx l < b.cx.toNat
    (¬ (16 ∣ (e.u64 b.ca).toNat) → exec (.brx h b) s = .next (e.take (faultOf .misaligned) s)) ∧
    (16 ∣ (e.u64 b.ca).toNat → ¬ inside → exec (.brx h b) s = .next (e.take (faultOf .badTarget) s)) ∧
    (∀ t targets, 16 ∣ (e.u64 b.ca).toNat → inside →
      e.tableEntries (e.u64 b.ca) (e.g h) (distinctAsc ((lanesOf (e.g h)).map fun l => (idx l).toNat)) s = .ok (t, targets) →
      let sets : List (W64 × Mask) := targetSets (fun l => (idx l).toNat) (e.g h) targets
      let rest : Mask := e.sp.mask &&& ~~~e.g h
      let more : Nat := if rest = 0 then sets.length - 1 else sets.length
      (0 < more → e.group.owesUniform e.f.split = false) → e.group.stack.length + (more - e.group.freeSplits) ≤ 64 →
        exec (.brx h b) s = .next (e.modSplit (e.modGroup t fun g => g.brx e.f.split rest sets) fun sp => { sp with stepped := true }))

/-! ## Memory -/

/-- R300, R302, R261, R304, R31, R240: a load whose units all translate and answer at once owes the values of its registers, with the tag of
its form, as one result with whatever it received before, and the split goes on; so it does once the answers that were awaited have all come. The
result of a vector load takes its place among the results when the load issues (R206).
Where the spec leaves it open this rests on the model's choice, log entries 7, 8. -/
def Obligations.LoadsComplete : Prop :=
  ∀ (s : State) (e : Env) (h : Hdr) (u : UBody) (b : MBody) (t : State) (vs : List (Nat × List W32)),
    let owed (ws : List RegWrite) : State := e.next h 1 (e.arrived (if vs.isEmpty then t else e.gather ws t))
    let n : Nat := szBytes b.sz.toNat
    let k : Nat := szBytes h.sub.toNat
    let line (i : Instr) (acc : Accept) (align : Nat) : Prop :=
      Performs s e i h → e.clear (linesOf b) acc 128 align (e.lineAddr b) →
      e.answered .load acc 128 (e.lineAddr b) (e.loadLine b (e.g h)) (e.left (linesOf b))
        (e.opens ((List.range (b.mc.toNat + 1)).map fun j => .vec (b.md.toNat + j) 0 (lanesBy fun _ => 0) b.mop) s) = some (t, vs) →
        exec i s = .next (owed (vs.map fun v => .vec (b.md.toNat + v.1) (e.g h) (lanesBy fun l => (v.2[l]?).getD 0) b.mop))
    (Performs s e (.ld h b) h → e.tagsOk (offsetTags b) = true → e.clear (e.g h) .any n n (e.laneAddr b) →
      e.answered .load .any n (e.laneAddr b) (fun l => e.loads (.vecLane e.f b.md.toNat l n (b.sz = 1 ∨ b.sz = 3) (loadTag b))
        (BitVec.twoPow 32 l) (e.vaOf (e.laneAddr b l)) n (b.sz = 1 ∨ b.sz = 3)) (e.left (e.g h))
        (e.opens (laneWrites b.md.toNat (loadTag b) [] (max 1 (n / 4))) s) = some (t, vs) →
        exec (.ld h b) s = .next (owed (laneWrites b.md.toNat (loadTag b) vs (max 1 (n / 4))))) ∧
    (Performs s e (.sld h u) h → e.clear 1 .any k k (fun _ => .va (e.scalarAddr u)) →
      e.answered .load .any k (fun _ => .va (e.scalarAddr u)) (fun _ => e.loads (.uni e.f u.sd.toNat k (h.sub = 1 ∨ h.sub = 3)) 1
        (e.scalarAddr u) k (h.sub = 1 ∨ h.sub = 3)) (e.left 1) s = some (t, vs) → ∃ ws,
        exec (.sld h u) s = .next (owed ws) ∧
        ∀ v, vs = [(0, v)] → ws = ((v.zip (List.range 4)).map fun x => .uni (u.sd.toNat + x.2) x.1)) ∧
    line (.ldx h b) .noAlcove 128 ∧ line (.lda h b) .any 4 ∧ line (.ldat h b) .atrium 64

/-- R302, R261, R304, R31: a store whose units all translate stores each unit's bytes, and the split goes on.
Where the spec leaves it open this rests on the model's choice, log entries 7, 8. -/
def Obligations.StoresComplete : Prop :=
  ∀ (s : State) (e : Env) (h : Hdr) (u : UBody) (b : MBody) (t : State) (vs : List (Nat × List W32)),
    let n : Nat := szBytes b.sz.toNat
    let k : Nat := szBytes h.sub.toNat
    let x : Nat := if h.sub = 5 then (e.u64 u.sb).toNat else (e.u u.sb).toNat % 2 ^ (8 * k)
    let line (i : Instr) (acc : Accept) (align : Nat) : Prop :=
      Performs s e i h → e.tagsOk (dataTags b.md (b.mc.toNat + 1)) = true → e.clear (linesOf b) acc 128 align (e.lineAddr b) →
      e.answered .store acc 128 (e.lineAddr b) (fun j p s => .done (e.storeLine b (e.g h) j p s) []) (e.left (linesOf b)) s = some (t, vs) →
        exec i s = .next (e.next h 1 (e.arrived t))
    (Performs s e (.st h b) h → e.tagsOk (offsetTags b ++ dataTags b.md (szRegs b)) = true → e.clear (e.g h) .any n n (e.laneAddr b) →
      e.answered .store .any n (e.laneAddr b) (fun l p s => .done (e.storeAt (e.vaOf (e.laneAddr b l)) n (e.laneData b.md n l) p s) [])
        (e.left (e.g h)) s = some (t, vs) → exec (.st h b) s = .next (e.next h 1 (e.arrived t))) ∧
    (Performs s e (.sst h u) h → e.clear 1 .any k k (fun _ => .va (e.scalarAddr u)) →
      e.answered .store .any k (fun _ => .va (e.scalarAddr u)) (fun _ p s => .done (e.storeAt (e.scalarAddr u) k x p s) []) (e.left 1) s
        = some (t, vs) → exec (.sst h u) s = .next (e.next h 1 (e.arrived t))) ∧
    line (.stx h b) .noAlcove 128 ∧ line (.sta h b) .any 4 ∧ line (.stat h b) .atrium 64

/-- R305, R306, R31: an atomic whose units all translate, and answer at once or await nothing, completes; a form with a result owes the old
values. ATOMA sends one operation a row of 16 lanes that g touches.
Where the spec leaves it open this rests on the model's choice, log entries 7, 8, 16, 17. -/
def Obligations.AtomicsComplete : Prop :=
  ∀ (s : State) (e : Env) (h : Hdr) (b : MBody) (t : State) (vs : List (Nat × List W32)),
    let n : Nat := szBytes b.sz.toNat
    let k : Nat := n / 4
    let opnd (l j : Nat) : Nat := ofWords ((List.range k).map fun w => lane (e.group.vreg (b.mc.toNat + j * k + w)).lanes l)
    let atom (ret : Bool) (l : Nat) (p : Place) (s : State) : Did :=
      match e.atomicOn (if ret then .vecLane e.f b.md.toNat l n false (atomTag b.mp.toNat) else .drop) (BitVec.twoPow 32 l)
        (e.vaOf (e.laneAddr b l)) n b.mop.toNat b.mp.toNat (opnd l 0) (opnd l 1) p s with
      | (s, some x) => .done s (if ret then wordsOf n false x else [])
      | (s, none) => .pending s
    let rows : Mask := maskOf ((List.range 2).filter fun r => (e.g h).extractLsb' (16 * r) 16 != 0#16)
    let row (r : Nat) : Addr := .va (e.u64 b.ms + BitVec.ofInt 64 (b.imm.toInt + ((64 * r : Nat) : Int)))
    let operand (r : Nat) : Nat := ofWords ((List.range 16).map fun j =>
      if (e.g h).getLsbD (16 * r + j) then e.vl b.mc (16 * r + j) else identityOf b.mop.toNat b.mp.toNat)
    (Performs s e (.atom h b) h → e.tagsOk (atomTags b) = true → e.clear (e.g h) .any n n (e.laneAddr b) →
      e.answered .atomic .any n (e.laneAddr b) (atom true) (e.left (e.g h))
        (e.opens (laneWrites b.md.toNat (atomTag b.mp.toNat) [] k) s) = some (t, vs) → exec (.atom h b) s = .next (e.next h 1
        (e.arrived (if vs.isEmpty then t else e.gather (laneWrites b.md.toNat (atomTag b.mp.toNat) vs k) t)))) ∧
    (Performs s e (.atomNr h b) h → e.tagsOk (atomTags b) = true → e.clear (e.g h) .any n n (e.laneAddr b) →
      e.answered .atomic .any n (e.laneAddr b) (atom false) (e.left (e.g h)) s = some (t, vs) →
        exec (.atomNr h b) s = .next (e.next h 1 (e.arrived t))) ∧
    (Performs s e (.atoma h b) h → anyTag (e.v b.mc).tag = true → e.clear rows .atrium 64 64 row →
      e.answered .atomic .atrium 64 row (fun r p s => match p with
        | .atrium off => .done (e.bank (.bankLine off b.mop.toNat b.mp.toNat (BitVec.ofNat 512 (operand r))) .drop 0 s
            (some (lookupPage (e.vaOf (row r))))) []
        | _ => .done s []) (e.left rows) s = some (t, vs) → exec (.atoma h b) s = .next (e.next h 1 (e.arrived t)))

/-- R26, R307: ANCHOR owes an anchor with its base: VALID exactly where the TLB, or else the walk, maps the base for its function, with the physical
address of the base as FRAME, the leaf's bits as ATTR and a LIMIT that ends with the length or the translation; else STALE with LIMIT 0. It traps on
a base that is not canonical; a prefetch goes over the
lanes of g and writes no register. A prefetch changes no byte that memory holds, nor does ANCHOR, but that a set of a home slice that is full
gives a line up for the walk's. A lane that must wait for a walk holds the prefetch. R77, R78: what a fetch grants. The level is at least the one asked for, which is clamped to the levels there are, and at least the
one of the map's byte, which is clamped to the tail; with status 0 and 1 it is the greater of the two, and with 0 the one asked for itself. With 1
and 2 it is a coarser one below the tail, with 3 a coarser one of the tail; status 4 and 5 give the constant, and level 15.
Where the spec leaves it open this rests on the model's choice, log entry 20. -/
def Obligations.AnchorsPrefetchesGrants : Prop :=
  (∀ (s : State) (e : Env) (h : Hdr) (a : AnchorBody) (b : MBody),
    (Performs s e (.anchor h a) h → canonical (e.u64 a.n) = false → exec (.anchor h a) s = .next (e.take (faultOf .nonCanonical) s)) ∧
    (Performs s e (.anchor h a) h → canonical (e.u64 a.n) = true → ∃ (t : State) (x : Anchor),
      exec (.anchor h a) s = .next (e.next h 1 (e.later [.anchor a.k.toNat x] t)) ∧
      (let va : W64 := e.u64 a.n
       let len : Nat := if h.sub = 0 then (e.u a.m).toNat else a.len.toNat
       let high : Bool := inAlcove va || upperHalf va
       let held : Option TlbEnt := (s.core e.f.core).findTlb e.asid va
       (high = true → x = ⟨.stale, va, 0, 0, 0⟩ ∧ t = s) ∧
       (∀ y, high = false → held = some y → x = e.anchorOf s y va len ∧ t = s) ∧
       (∀ u y, high = false → held = none → s.walk (some e.f.core) e.asid va = (u, .leaf y) →
         x = e.anchorOf (u.modCore e.f.core fun c => c.install y) y va len ∧ t = u.modCore e.f.core fun c => c.install y) ∧
       (∀ u c, high = false → held = none → s.walk (some e.f.core) e.asid va = (u, .fault c) → x = ⟨.stale, va, 0, 0, 0⟩ ∧ t = u)) ∧
      t.host = s.host ∧ t.peer = s.peer ∧ t.atrium = s.atrium ∧ (s.l2.length < 8 → t.dram = s.dram ∧ t.ctxs = s.ctxs)) ∧
    (∀ i, i = .prefL1 h b ∨ i = .prefL2 h b → Performs s e i h → e.tagsOk (offsetTags b) = true →
      let waits (l : Nat) : Prop := e.early .any 1 1 (e.laneAddr b l) = none ∧
        lookup e.sp.badPages (lookupPage (e.vaOf (e.laneAddr b l))) = none ∧ ∃ page, e.lookupAddr s 1 .load .any (e.laneAddr b l) = .miss page
      ((∀ l ∈ e.left (e.g h), ¬ waits l) → ∃ t, exec i s = .next (e.next h 1 t) ∧
        t.dram = s.dram ∧ t.host = s.host ∧ t.peer = s.peer ∧ t.atrium = s.atrium ∧ t.ctxs = s.ctxs) ∧
      ((∃ l ∈ e.left (e.g h), waits l) → ∃ (t : State) (m : Mask), m ≠ 0 ∧ (∀ l, m.getLsbD l = true → l ∈ e.left (e.g h) ∧ waits l) ∧
        exec i s = .next (e.modSplit t fun sp => { sp with unfinished := some m, wait := .access, asleep := true }) ∧
        t.dram = s.dram ∧ t.host = s.host ∧ t.peer = s.peer ∧ t.atrium = s.atrium ∧ t.ctxs = s.ctxs))) ∧
  (∀ (e : Env) (d : Lod) (l x y : Nat) (read log : Bool) (s t : State) (texel st g : Nat),
    e.lodFetch d l x y read log s = .got t texel st g →
      let asked : Nat := min l (d.nl - 1)
      let va : W64 := d.map + BitVec.ofNat 64 (min y d.hm1 / 2 ^ d.lth * d.tilesX 0 + min x d.wm1 / 2 ^ d.ltw)
      let bounds (line : Line) : Prop :=
        let m : Nat := min (lineBytes line (va.toNat % 128) 1) d.tail
        (st < 4 → m ≤ g) ∧ (st ≤ 1 → g = max asked m)
      st ≤ 5 ∧ (st < 4 → asked ≤ g) ∧ (st = 0 → g = asked) ∧ (st = 1 ∨ st = 2 → asked < g ∧ g < d.tail) ∧ (st = 3 → asked < g ∧ d.tail ≤ g) ∧
      (∀ line, e.kept va s = some line → bounds line) ∧
      (∀ u pa cmp tier rm, e.kept va s = none → e.texLookup false va s = (u, .ok (.mem pa cmp tier rm)) →
        bounds (u.homeRead (pa / 128) tier).2) ∧
      (st = 4 ∨ st = 5 → texel = d.const % 2 ^ (8 * 2 ^ d.esz) ∧ g = 15))

/-- R308, R309, R310, R31: LDLOD, TXG and RESQ read the descriptor and then fetch for each lane left; where no lane faults or waits they owe the
texels, weights and status of their forms, and the split goes on. A descriptor that is not well formed traps.
Where the spec leaves it open this rests on the model's choice, log entries 20, 21, 22. -/
def Obligations.TexelLoads : Prop :=
  ∀ (s : State) (e : Env) (h : Hdr) (b : MBody) (t u : State) (d : Lod) (vs : List (Nat × List W32)),
    let lanes : Mask := e.unfinished (e.g h)
    let n : Nat := szBytes b.sz.toNat
    let at_ (j l : Nat) : W32 := lane (e.group.vreg (b.mx.toNat + j)).lanes l
    let fetch (read log : Bool) (l : Nat) (s : State) : Fetch :=
      e.lodFetch d (min 15 (e.coord (b.mx.toNat + 2) l)) (e.coord b.mx.toNat l) (e.coord (b.mx.toNat + 1) l) read log s
    let owed (ws : List RegWrite) : Host.Outcome State Fault Refusal :=
      .next (e.next h 1 (e.arrived (if vs.isEmpty then u else e.gather ws u)))
    let reads (ws : List RegWrite) : Prop := e.lodRead (e.lodAddr b) lanes (e.opens ws s) = .desc t d
    let resq (i : Instr) (log : Bool) : Prop :=
      Performs s e i h → e.tagsOk (coordTags b) = true → reads (laneWrites b.md.toNat 2 [] 1) →
        (d.wellFormed = false → exec i s = .next (e.take (faultOf .lodDescriptor) t)) ∧
        (d.wellFormed = true → fetchedLanes (fun l s => match fetch false log l s with
          | .got s _ st g => .done s [BitVec.ofNat 32 (st + 16 * g)]
          | .wait s => .wait s
          | .bad va c => .bad va c) (lanesOf lanes) t = some (u, vs) →
            exec i s = owed (laneWrites b.md.toNat 2 vs 1))
    resq (.resq h b) false ∧ resq (.resqFb h b) true ∧ (Performs s e (.ldlod h b) h → e.tagsOk (coordTags b) = true → reads (lodWrites b.md.toNat (n / 4) (fun _ => b.mop) b.mc.toNat []) →
        ((d.wellFormed = false ∨ n < 2 ^ d.esz) → exec (.ldlod h b) s = .next (e.take (faultOf .lodDescriptor) t)) ∧
        (d.wellFormed = true → 2 ^ d.esz ≤ n → fetchedLanes (fun l s => match fetch true true l s with
          | .got s x st _ => .done s (wordsOf (max 4 n) false x ++ [BitVec.ofNat 32 st])
          | .wait s => .wait s
          | .bad va c => .bad va c) (lanesOf lanes) t = some (u, vs) →
            exec (.ldlod h b) s = owed (lodWrites b.md.toNat (n / 4) (fun _ => b.mop) b.mc.toNat vs))) ∧
    (Performs s e (.txg h b) h → (∀ j < 3, (e.group.vreg (b.mx.toNat + j)).tag = 3) →
        reads (lodWrites b.md.toNat 6 (fun j => if j < 4 then b.mop else 3) b.mc.toNat []) →
        ((d.wellFormed = false ∨ 2 < d.esz) → exec (.txg h b) s = .next (e.take (faultOf .lodDescriptor) t)) ∧
        (d.wellFormed = true → d.esz ≤ 2 →
          fetchedLanes (fun l s => e.txgLane d b.mp.toNat (at_ 0 l) (at_ 1 l) (at_ 2 l) s) (lanesOf lanes) t = some (u, vs) →
            exec (.txg h b) s = owed (lodWrites b.md.toNat 6 (fun j => if j < 4 then b.mop else 3) b.mc.toNat vs)))

/-! ## Copies, tags, barriers, flights and the banister -/

/-- R138, R139, R149, R312 to R314: a copy that passes its checks, with room in the engine and in its tag's count and nothing left to
release, is queued with its operands: one record for each copy it names. A copy with a follow-on takes the next slot too.
Where the spec leaves it open this rests on the model's choice, log entry 31. -/
def Obligations.CopiesIssue : Prop :=
  ∀ (s : State) (e : Env) (h : Hdr) (b : ABody) (x : TagSt) (f : Option Instr) (t u : State) (p : Option BarPlace),
    let issues (i : Instr) (rs : List CopyReq) (check : Option FaultCode) : Prop :=
      Performs s e i h → e.crew.bind (·.tag b.tg.toNat) = some x → check = none →
      (if b.fo then ∃ j, f = some j ∧ e.followOn s = .ok (t, j) else f = none ∧ t = s) →
      (if b.be then ∃ q, p = some q ∧ e.barPlace (e.u64 b.ba) t = .ok (u, q) else p = none ∧ u = t) →
      (s.core e.f.core).ce.length + rs.length ≤ 256 → x.count + rs.length ≤ 65535 → e.releaseReady u = true →
        exec i s = .next (e.next h (if b.fo then 2 else 1) (rs.foldl (e.enqueue b f (match p with | some q => (u.bar q).phase | none => 0)) u))
    let src : W64 := e.u64 b.asrc
    let dst : W64 := e.u64 b.ad
    let len : Nat := e.copyLen h b
    let al : Bool := dst.toNat % 4 = 0
    let none6 : Vector W32 6 := Vector.replicate 6 0
    let cpyl : List Nat := lanesOf (e.g h)
    let va : BitVec 8 := b.ai.extractLsb' 0 8
    let from_ (l : Nat) : W64 := e.vl (va + 1) l ++ e.vl va l
    issues (.cpy h b) [{ kind := .cpy, store := false, src := src, dst := dst, len := len }]
      (e.copyCheck [src, dst] (if b.fo then [dst] else []) [(src, len), (dst, len)] [] (src.toNat % 4 = 0 ∧ al ∧ lenOk len) (e.copyBar b)) ∧
    issues (.cpyz h b) [{ kind := .cpyz, store := false, src := 0, dst := dst, len := len }]
      (e.copyCheck [dst] [] [(dst, len)] [] (al && lenOk len) (e.copyBar b)) ∧
    issues (.cpyr h b) [.mk .cpyr false src dst (e.u b.al).toNat (h.sub.extractLsb' 0 3).toNat (h.sub.extractLsb' 3 3).toNat 0 none6 none]
      (e.copyCheck [src, dst] [src] [(src, (e.u b.al).toNat)] [dst] (src.toNat % 4 = 0 ∧ al ∧ lenOk (e.u b.al).toNat) (e.copyBar b)) ∧
    (e.tagsOk [(va.toNat, anyTag), (va.toNat + 1, anyTag), ((b.ai.extractLsb' 8 8).toNat, indexTag),
        ((b.ai.extractLsb' 16 8).toNat, fun t => t == 2)] = true →
      (∀ l ∈ cpyl, 0 ≤ e.cpylOff b l ∧ e.cpylOff b l + 32 ≤ e.alcove.2 ∧ (e.cpylOff b l).toNat % 32 = 0) →
      issues (.cpyl h b) (cpyl.map fun l => .mk .cpyl false (from_ l) (alcoveBase + BitVec.ofInt 64 (e.cpylOff b l)) 32 0 0
          (e.vl (b.ai.extractLsb' 16 8) l).toNat none6 (if b.se then some (b.st.toNat, l) else none))
        (e.copyCheck (cpyl.map from_) [] [] [] true (e.copyBar b))) ∧
    issues (.cpytLd h b) [e.latReq b false] (e.latCheck b) ∧ issues (.cpytSt h b) [e.latReq b true] (e.latCheck b)

/-- R139, R152: what queueing a copy does. The engine gains the copy's record, last, with the next sequence number and nothing done; the
tag's count grows by one; its leaf signature holds that of the frame; a status register is owed where the copy names one; its first beat, or
the read of its lattice, is due. -/
def Obligations.CopyQueued : Prop :=
  ∀ (s t : State) (e : Env) (b : ABody) (f : Option Instr) (phase : Nat) (r : CopyReq) (c : Ctx) (k : Crew) (x : TagSt),
    Env.of s s.focus = some e → t.ctx e.cid = some c → c.crew e.bind.crew = some k → k.tag b.tg.toNat = some x →
    let seq : Nat := (t.core e.f.core).ceSeq
    let v : State := e.enqueue b f phase t r
    (∃ y, (v.core e.f.core).ce = (t.core e.f.core).ce ++ [y] ∧ y.seq = seq ∧ y.kind = r.kind ∧ y.src = r.src ∧ y.dst = r.dst ∧
      y.len = r.len ∧ y.done = 0 ∧ y.st = .queued ∧ y.tag = b.tg.toNat ∧ y.cid = e.cid ∧ y.follow = f ∧ y.bphase = phase ∧
      ∀ i, e.fr.sig.getLsbD i = true → y.sig.getLsbD i = true) ∧
    (v.core e.f.core).ceSeq = (seq + 1) % 2 ^ 32 ∧ (v.core e.f.core).alcove = (t.core e.f.core).alcove ∧ v.dram = t.dram ∧
    (∃ c' k' x', v.ctx e.cid = some c' ∧ c'.crew e.bind.crew = some k' ∧ k'.tag b.tg.toNat = some x' ∧ x'.count = x.count + 1 ∧
      (x.count = 0 → x'.sig = 0 ∧ x'.oldest = seq)) ∧
    (∀ fr, t.frame e.cid e.h = some fr → ∃ fr', v.frame e.cid e.h = some fr' ∧ fr'.group.owed =
      fr.group.owed ++ (if b.se then [⟨e.f.split, b.sv, b.st.toNat, false, seq, fr.group.nextId, none⟩] else [])) ∧
    v.todo = t.todo ++ [if r.kind = .cpyt then .copyLatticeStart e.f.core seq else .copyBeat e.f.core seq]

/-- R153, R315, R115: TWALL passes when no tag of its mask has a copy outstanding, TWANY when one has none, and TFIRST when the tag chosen
at issue has none: of the tags outstanding then, the one whose oldest copy has the smallest SEQ, by age. A wait that passes acquires the tags it
reports. Otherwise the split waits, a TFIRST for the tag it chose. TCNT reads the count. -/
def Obligations.TagWaits : Prop :=
  ∀ (s : State) (e : Env) (h : Hdr) (b : ABody),
    let m : List Nat := e.tagMask h b
    let done (t : Nat) : Bool := (e.tagSt t).count = 0
    (Performs s e (.twall h b) h → (∀ t ∈ m, done t = true) → exec (.twall h b) s = .next (e.next h 1 (e.acquireTags m s))) ∧
    (Performs s e (.twall h b) h → (∃ t ∈ m, done t = false) → exec (.twall h b) s = .next (e.waits .tags s)) ∧
    (Performs s e (.twany h b) h → (m = [] ∨ ∃ t ∈ m, done t = true) →
      exec (.twany h b) s = .next (e.next h 1 (e.later (wrote true b.ad 0 (maskOf64 (m.filter done))) (e.acquireTags (m.filter done) s)))) ∧
    (Performs s e (.twany h b) h → m ≠ [] → (∀ t ∈ m, done t = false) → exec (.twany h b) s = .next (e.waits .tags s)) ∧
    (∀ t, Performs s e (.tfirst h b) h → e.sp.wait = .tagFirst t → done t = true →
      exec (.tfirst h b) s = .next (e.next h 1 (e.later [.uni b.al.toNat (BitVec.ofNat 32 t)] (e.acquireTags [t] s)))) ∧
    (Performs s e (.tfirst h b) h → (∀ t, e.sp.wait ≠ .tagFirst t) → (∀ t ∈ m, done t = true) →
      exec (.tfirst h b) s = .next (e.next h 1 (e.later [.uni b.al.toNat 64] s))) ∧
    (∀ t, Performs s e (.tfirst h b) h → e.sp.wait = .tagFirst t → done t = false → exec (.tfirst h b) s = .next (e.waits (.tagFirst t) s)) ∧
    (Performs s e (.tfirst h b) h → (∀ t, e.sp.wait ≠ .tagFirst t) → (∃ t ∈ m, done t = false) → ∃ t ∈ m, done t = false ∧
      exec (.tfirst h b) s = .next (e.waits (.tagFirst t) s) ∧
      ∀ first : Nat, let age (u : Nat) : Nat := ((e.tagSt u).oldest + 2 ^ 32 - first) % 2 ^ 32
        first < 2 ^ 32 → (∀ u ∈ m, done u = false → (e.tagSt u).oldest < 2 ^ 32 ∧ age u < 2 ^ 31) → ∀ u ∈ m, done u = false → age t ≤ age u) ∧
    (Performs s e (.tcnt h b) h →
      exec (.tcnt h b) s = .next (e.next h 1 (e.later [.uni b.al.toNat (BitVec.ofNat 32 (e.tagSt b.tg.toNat).count)] s)))

/-- R157, R158, R160, R316, R116: the barrier forms, on a barrier that is placed. ABINIT sets its fields and clears its block; ABEXP adds to what
it is owed; ABARR counts an arrival, and the last one that was owed begins the next phase; a broken barrier changes no more. What would overrun is
counted as excess, and with TRAPOV the form takes BARRIER_OVERRUN after its operation. ABARR ORs the signature of the frame into the block first: in
the Atrium by four line ORs, for whose answers it waits. A credit of a copy adds what there is room for to what has landed, and nothing where it is
bound to another phase; the rest is excess, which its status word reports, and with TRAPOV the copy's context halts.
Where the spec leaves it open this rests on the model's choice, log entries 24, 25. -/
def Obligations.BarrierOperations : Prop :=
  ∀ (s : State) (e : Env) (h : Hdr) (b : ABody) (t : State) (p : BarPlace),
    e.barCheck (e.u64 b.ba) = none → e.barPlace (e.u64 b.ba) s = .ok (t, p) → t.memWf = true →
    let x : Bar := t.bar p
    let count : Nat := if h.sub.getLsbD 1 then (b.ai.extractLsb' 0 16).toNat else (e.u b.al).toNat % 65536
    let n : Nat := if h.sub.getLsbD 1 then b.ai.toNat else (e.u b.al).toNat
    (Performs s e (.abinit h b) h → count ≠ 0 → ∃ u, exec (.abinit h b) s = .next (e.next h 1 u) ∧
      u.bar p = ⟨0, 0, 0, count, 0, h.sub.getLsbD 0, false, false, 0⟩ ∧ u.bytesOf p 64 256 = 0) ∧
    (Performs s e (.abinit h b) h → count = 0 → exec (.abinit h b) s = .next (e.take (faultOf .illegalOpcode) s)) ∧
    (let extra : Nat := if x.broken then 0 else x.owed + n - (2 ^ 32 - 1)
     let y : Bar := if x.broken then x else { x.rejects extra with owed := min (x.owed + n) (2 ^ 32 - 1) }
     Performs s e (.abexp h b) h → ∃ u, u.bar p = y ∧
       exec (.abexp h b) s = if extra ≠ 0 ∧ x.trapov = true then .next (e.take (faultOf .barrierOverrun) u) else .next (e.next h 1 u)) ∧
    (let extra : Nat := if x.broken = false ∧ x.arrived = x.quorum then 1 else 0
     let y : Bar := if x.broken then x else Bar.turns { x.rejects extra with arrived := x.arrived + (1 - extra) }
     let arrives (σ : SigBits) : Prop := ∃ u w, u.bar p = y ∧ u.bytesOf p 64 256 = t.bytesOf p 64 256 ||| σ.toNat ∧
       w = BitVec.ofNat 32 (x.phase + 2 ^ 16 * y.overrun.toNat + 2 ^ 17 * y.broken.toNat) ∧
       exec (.abarr h b) s = if extra ≠ 0 ∧ x.trapov = true then .next (e.take (faultOf .barrierOverrun) u) else .next (e.next h 1 (e.status b w u))
     Performs s e (.abarr h b) h → x.arrived ≤ x.quorum →
       (∀ c a, p = .alcove c a → (∀ id, e.sp.wait ≠ .request id) → e.releaseReady t = true → arrives e.fr.sig) ∧
       (∀ a, p = .atrium a → (∀ id, e.sp.wait ≠ .request id) → e.releaseReady t = true → ∃ u, u = e.sigLines t a e.fr.sig ∧
         exec (.abarr h b) s = .next (e.waits (.request (t.nextReq + 3)) u) ∧
         u.reqs.map (·.op) = t.reqs.map (·.op) ++ (List.range 4).map (fun k => .bankLine (a + 64 + 64 * k) 4 4 (e.fr.sig.extractLsb' (512 * k) 512)) ∧
         u.todo = t.todo ++ (List.range 4).map (fun k => .atriumBankOperation (t.nextReq + k)) ∧ u.atrium = t.atrium) ∧
       (∀ a id, p = .atrium a → e.sp.wait = .request id →
         ((∃ k < 4, t.req (id - k) ≠ none) → exec (.abarr h b) s = .next (e.waits (.request id) t)) ∧
         ((∀ k < 4, t.req (id - k) = none) → arrives 0))) ∧
    (∀ (a : Agent) (r : CopyRec) (m : Nat), x.landed ≤ x.owed →
      let room : Nat := if r.bphase = x.phase then x.owed - x.landed else 0
      let extra : Nat := if x.broken then 0 else m - room
      let y : Bar := if x.broken then x else if r.bphase = x.phase then Bar.turns { x.rejects extra with landed := x.landed + min m room } else x.rejects extra
      let u : State := t.creditTo a r p m
      u.bar p = y ∧ (∀ c o, p = .alcove c o → u.bytesOf p 64 256 = t.bytesOf p 64 256 ||| r.sig.toNat) ∧
      (∀ z, extra ≠ 0 → t.copyRec a.core r.seq = some z → ∃ z', u.copyRec a.core r.seq = some z' ∧ z'.overrun = true) ∧
      (∀ c, extra ≠ 0 → x.trapov = true → t.ctx a.cid = some c → c.st = .running →
        ∃ c', u.ctx a.cid = some c' ∧ c'.st = .halting ∧ c'.first = some .barrierOverrun ∧ c'.firstSeq = r.seq)) ∧
    (Performs s e (.abwait h b) h → (x.phase ≠ (e.u b.al).toNat % 65536 ∨ x.broken = true) → ∃ w,
      exec (.abwait h b) s = .next (e.next h 1 (e.status b w (t.acquire e.f.core e.cid e.h (t.blockOf p 64 e.cid).1 (t.blockOf p 64 e.cid).2))) ∧
      w = BitVec.ofNat 32 (x.phase + 2 ^ 16 * x.overrun.toNat + 2 ^ 17 * x.broken.toNat + 2 ^ 18)) ∧
    (Performs s e (.abwait h b) h → x.phase = (e.u b.al).toNat % 65536 → x.broken = false →
      exec (.abwait h b) s = .next (e.waits .barrier t)) ∧
    (let extra : Bool := x.phase ≠ (e.u b.al).toNat % 65536 ∨ x.broken = true
     Performs s e (.abtest h b) h → ∃ w u, exec (.abtest h b) s = .next (e.next h 1 (e.status b w u)) ∧
      w = BitVec.ofNat 32 (x.phase + 2 ^ 16 * x.overrun.toNat + 2 ^ 17 * x.broken.toNat + 2 ^ 18 * extra.toNat) ∧
      (extra = false → u = t) ∧ u.dram = t.dram)

/-- R162, R163, R164, R317, R113: FLACQ takes the next position, and passes when its tread is free, empty for a producer and full for a
consumer, in the phase of that position; it then holds the tread. FLREL by the tread's holder passes it on, a producer's with the USER word that it
gives, or 0; by another group, or of a position released already, it traps. The
holder is the group whose slot the tread names, or whose slot it was when it took the tread by a reservation that it still has.
Where the spec leaves it open this rests on the model's choice, log entries 26, 77. -/
def Obligations.Flights : Prop :=
  ∀ (s : State) (e : Env) (h : Hdr) (b : ABody) (off : Nat), e.flight b = .ok off → s.memWf = true →
    let word (t : State) (a : Nat) : Nat := Mem.readN (t.core e.f.core).alcove a 4
    let forms (acq rel : Instr) (consumer : Bool) : Prop :=
      let ctr : Nat := e.alcove.1 + off + (if consumer then 4 else 0)
      let k : Nat := word s ctr
      let tr : Nat := (e.tread s off k).1
      let free : Prop := (word s tr % 2 = 1 ↔ consumer = true) ∧ word s tr / 2 % 2 = (e.tread s off k).2
      (Performs s e acq h → (∀ n, e.sp.wait ≠ .tread n) → e.group.resv.length < 2 → free → ∃ u fr,
        exec acq s = .next (e.next h 1 (e.later (.uni b.al.toNat (BitVec.ofNat 32 k) ::
          (if consumer && b.se then [.uni b.st.toNat (BitVec.ofNat 32 (word s tr / 65536))] else [])) u)) ∧
        word u ctr = (k + 1) % 2 ^ 32 ∧ word u tr / 256 % 256 = e.f.slot % 256 ∧ word u tr % 4 = word s tr % 4 ∧
        u.frame e.cid e.h = some fr ∧ ⟨off, k, consumer, e.f.slot⟩ ∈ fr.group.resv) ∧
      (Performs s e acq h → (∀ n, e.sp.wait ≠ .tread n) → e.group.resv.length < 2 → ¬ free → ∃ u,
        exec acq s = .next (e.waits (.tread k) u) ∧ word u ctr = (k + 1) % 2 ^ 32) ∧
      (Performs s e acq h → (∀ n, e.sp.wait ≠ .tread n) → 2 ≤ e.group.resv.length → exec acq s = .next (e.waits .stalled s)) ∧
      (let pos : Nat := (e.u b.al).toNat
       let at_ : Nat := (e.tread s off pos).1
       let holder : Nat := word s at_ / 256 % 256
       let holds : Prop := holder = e.f.slot ∨
         (holder ≠ 0xFF ∧ ∃ r ∈ e.group.resv, r.flight = off ∧ r.holder = holder ∧ (e.tread s off r.pos).1 = at_)
       let mine (r : Reservation) : Prop := r ∈ e.group.resv ∧ r.flight = off ∧ r.holder ≠ 0xFF ∧ (e.tread s off r.pos).1 = at_
       let released : Prop := (∃ r, mine r ∧ (r.pos + 2 ^ 32 - pos) % 2 ^ 32 < 2 ^ 31) ∧ ∀ r, mine r → r.pos ≠ pos
       (Performs s e rel h → e.releaseReady s = true → holds → ¬ released → ∃ u fr,
         exec rel s = .next (e.next h 1 u) ∧ (word u at_ % 2 = 1 ↔ consumer = false) ∧ word u at_ / 256 % 256 = 0xFF ∧
         word u at_ / 2 % 2 = (if consumer then 1 - word s at_ / 2 % 2 else word s at_ / 2 % 2) ∧
         word u at_ / 65536 = (if consumer then word s at_ / 65536 else if b.se then (e.sp.ureg b.st.toNat).toNat % 65536 else 0) ∧
         u.frame e.cid e.h = some fr ∧ fr.group.resv = e.group.resv.eraseP fun r => r.flight == off && r.pos == pos && r.consumer == consumer) ∧
       (Performs s e rel h → ¬ holds ∨ released → exec rel s = .next (e.take (faultOf .illegalOpcode) s)))
    forms (.flacqP h b) (.flrelP h b) false ∧ forms (.flacqC h b) (.flrelC h b) true

/-- R318, R319, R112: BANA counts an arrival of its core's crew and its token is the phase; BANW passes when the phase has moved past its
token; BAN arrives, waits on the token it received, and passes as BANW does. An arrival that comes when the core's count is full is held for the
next phase. An arrival for another subrectangle or number traps, and so does a subrectangle that is none of the rectangle's.
Where the spec leaves it open this rests on the model's choice, log entry 27. -/
def Obligations.Banisters : Prop :=
  ∀ (s : State) (e : Env) (h : Hdr) (b : ABody),
    let tag : Nat := b.tg.toNat
    let phase : Nat := e.ctx.banPhaseOf tag
    let v : W32 := subKey (e.u b.al)
    let n : Nat := b.ai.toNat % 64
    let edge : Bool := h.sub.getLsbD 0
    let counts : Prop := subOk e.ctx.rect v e.f.core = true ∧ (e.banCore s tag).arrival v n = .counted ∧ (edge = true → e.releaseReady s = true)
    (Performs s e (.bana h b) h → counts → exec (.bana h b) s = .next (e.next h 1
      (if b.se then e.later [.uni b.st.toNat (BitVec.ofNat 32 phase)] (e.arrive tag v n edge false s) else e.arrive tag v n edge false s))) ∧
    (∀ i, i = .bana h b ∨ i = .ban h b → Performs s e i h → (∀ g t, e.sp.wait ≠ .banister g t) →
      (subOk e.ctx.rect v e.f.core = false ∨ (e.banCore s tag).arrival v n = .illegal) → exec i s = .next (e.take (faultOf .illegalOpcode) s)) ∧
    (subOk e.ctx.rect v e.f.core = true ↔ ((e.u b.al).extractLsb' 0 5).toNat % 2 ^ ((e.u b.al).extractLsb' 9 3).toNat = 0 ∧
      ((e.u b.al).extractLsb' 5 4).toNat % 2 ^ ((e.u b.al).extractLsb' 12 3).toNat = 0 ∧
      ((e.u b.al).extractLsb' 0 5).toNat + 2 ^ ((e.u b.al).extractLsb' 9 3).toNat ≤ e.ctx.rect.w ∧
      ((e.u b.al).extractLsb' 5 4).toNat + 2 ^ ((e.u b.al).extractLsb' 12 3).toNat ≤ e.ctx.rect.h ∧ (subRect e.ctx.rect v).has e.f.core = true) ∧
    (let full : Prop := subOk e.ctx.rect v e.f.core = true ∧ (e.banCore s tag).arrival v n = .held ∧ (edge = true → e.releaseReady s = true)
     (Performs s e (.bana h b) h → full → b.se = false → exec (.bana h b) s = .next (e.next h 1 (e.arrive tag v n edge true s))) ∧
     (Performs s e (.ban h b) h → (∀ g t, e.sp.wait ≠ .banister g t) → full →
       exec (.ban h b) s = .next (e.waits (.banister tag none) (e.arrive tag v n edge true s)))) ∧
    (Performs s e (.banw h b) h → phase ≠ (e.u b.al).toNat % 65536 → exec (.banw h b) s = .next (e.next h 1 (e.banPass h tag s))) ∧
    (Performs s e (.banw h b) h → phase = (e.u b.al).toNat % 65536 →
      exec (.banw h b) s = .next (e.waits (.banister tag (some phase)) s)) ∧
    (Performs s e (.ban h b) h → (∀ g t, e.sp.wait ≠ .banister g t) → counts →
      exec (.ban h b) s = .next (e.waits (.banister tag (some phase)) (e.arrive tag v n edge false s))) ∧
    (∀ g t, Performs s e (.ban h b) h → e.sp.wait = .banister g (some t) → phase ≠ t →
      exec (.ban h b) s = .next (e.next h 1 (e.banPass h tag s)))

/-! ## The Array -/

/-- R322, R323, R324, R326: an Array operation whose operands pass its checks, which no queued operation with one of its tiles or
accumulators keeps back, joins the core's queue with its operands latched; its result register, where it has one, is owed to the
operation; the dispatch is due. A check that fails traps at the issue, and an interlock holds the split, which acquires what the operations
that held it leave before it goes on (R115).
Where the spec leaves it open this rests on the model's choice, log entries 19, 38, 39. -/
def Obligations.ArrayOperationsQueue : Prop :=
  ∀ (s : State) (e : Env) (h : Hdr) (b : XBody) (k : Crew), e.crew = some k →
    let x : XArg := ⟨k, e.u64 b.xsa, e.u64 b.xsb, e.u64 b.xsc⟩
    let c : Core := s.core e.f.core
    let forms (i : Instr) (res : Option Nat) : Prop :=
      let held : Prop := interlocked c.arr e.cid e.bind.crew k (xTiles i x) = true
      (Performs s e i h → xPre i x = none → ¬ held → e.sp.wait.heldSig = 0 → xPost i x = none →
        e.releaseReady s = true → ∃ t o, exec i s = .next (e.next h 1 t) ∧
          (t.core e.f.core).arr = c.arr ++ [o] ∧ (t.core e.f.core).arrSeq = (c.arrSeq + 1) % 2 ^ 32 ∧
          (o.instr, o.seq, o.cid, o.crew, o.va, o.vb, o.vc) = (i, c.arrSeq, e.cid, e.bind.crew, x.va, x.vb, x.vc) ∧
          o.st = .queued ∧ o.next = 0 ∧ o.sig = e.fr.sig ∧ o.resReg = res ∧ o.follow = none ∧
          (∃ fr, t.frame e.cid e.h = some fr ∧
            fr.group.owed = e.group.owed ++ (match res with | some r => [⟨e.f.split, false, r, true, c.arrSeq, e.group.nextId, none⟩] | none => [])) ∧
          t.todo = s.todo ++ [.arrayOpDispatch e.f.core c.arrSeq] ∧ t.dram = s.dram ∧ t.atrium = s.atrium) ∧
      (∀ code va, Performs s e i h → xPre i x = some (code, va) →
        exec i s = .next (e.take { code := code, fva := va &&& 0x01FFFFFFFFFFFFFF } s)) ∧
      (∀ code va, Performs s e i h → xPre i x = none → ¬ held → e.sp.wait.heldSig = 0 → xPost i x = some (code, va) →
        exec i s = .next (e.take { code := code, fva := va &&& 0x01FFFFFFFFFFFFFF } s)) ∧
      (Performs s e i h → xPre i x = none → held → exec i s = .next (e.waits (.held (xTiles i x).2 e.sp.wait.heldSig) s)) ∧
      (Performs s e i h → xPre i x = none → ¬ held → e.sp.wait.heldSig ≠ 0 → exec i s =
        .next (e.modSplit (s.acquire e.f.core e.cid e.h e.cid e.sp.wait.heldSig) fun sp => { sp with wait := .release }))
    forms (.ldwMem h b) none ∧ forms (.ldwSmp h b) none ∧ forms (.ldws h b) none ∧ forms (.trel h b) none ∧ forms (.mma h b) none ∧
    forms (.mmag h b) none ∧ forms (.accz h b) none ∧ forms (.accld h b) none ∧ forms (.accstRaw h b) none ∧ forms (.accstPost h b) none ∧
    forms (.preopLin h b) none ∧ forms (.preopTr h b) none ∧ forms (.preopWin h b) none ∧ forms (.postop h b) none ∧
    forms (.edge h b) none ∧ forms (.blend h b) none ∧ forms (.flt h b) none ∧
    forms (.rslvLt h b) (some b.xsc.toNat) ∧ forms (.rslvLe h b) (some b.xsc.toNat) ∧ forms (.rslvRd h b) (some b.xsc.toNat) ∧
    forms (.rslvLd h b) (some b.xsc.toNat) ∧ forms (.rslvClr h b) (some b.xsc.toNat) ∧ forms (.binfl h b) (some b.xsc.toNat)

/-- R334, R337, R341: an accumulator element read gives one element of row Sa mod 32 in each lane, as binary32, or as the two words of the
I48 value; the status read gives the flags, the mode and whether raster state is held; CVG gives the coverage masks of the primitives, 0
in the lanes above them; VXM gives the products of the lanes' own rows with the tiles the lanes name. An accumulator is read where it has, or gets,
one of the core's 16 places (R321).
Where the spec leaves it open this rests on the model's choice, log entry 43. -/
def Obligations.AccumulatorReads : Prop :=
  ∀ (s : State) (e : Env) (h : Hdr) (b : XBody) (k : Crew), e.crew = some k →
    let a : Acc := k.acc b.xa.toNat
    let row : Nat := (e.u b.xsa).toNat % 32
    let half : Nat := (e.u b.xsa).toNat / 32 % 2
    let free (ts : List Nat × List Nat) : Prop :=
      interlocked (s.core e.f.core).arr e.cid e.bind.crew k ts = false ∧ e.sp.wait.heldSig = 0
    let here (u : State) : Prop := State.bringAcc e.f.core e.cid e.bind.crew s b.xa.toNat = some u
    let cell (l : Nat) : W64 := a.get row (32 * half + l)
    (∀ u, Performs s e (.accrdEl h b) h → free ([], [b.xa.toNat]) → here u → a.mode = .f32 → exec (.accrdEl h b) s =
      .next (e.next h 1 (e.later [.vec b.xv.toNat (e.g h) (lanesBy fun l => (cell l).extractLsb' 0 32) 3#4] u))) ∧
    (∀ u, Performs s e (.accrdEl h b) h → free ([], [b.xa.toNat]) → here u → a.mode = .i48 → half = 0 → b.xv.toNat + 1 < e.group.vregs →
      exec (.accrdEl h b) s = .next (e.next h 1 (e.later
        [.vec b.xv.toNat (e.g h) (lanesBy fun l => (cell l).extractLsb' 0 32) 2#4,
          .vec (b.xv.toNat + 1) (e.g h) (lanesBy fun l => (cell l).extractLsb' 32 32) 1#4] u))) ∧
    (∀ u, Performs s e (.accrdEl h b) h → free ([], [b.xa.toNat]) → here u → a.mode = .i48 → half = 1 →
      exec (.accrdEl h b) s = .next (e.take (faultOf .illegalOpcode) u)) ∧
    (∀ u, Performs s e (.accrdEl h b) h → free ([], [b.xa.toNat]) → here u → a.mode = .none →
      exec (.accrdEl h b) s = .next (e.take (faultOf .formatMismatch) u)) ∧
    (∀ u, Performs s e (.accrdSt h b) h → free ([], [b.xa.toNat]) → here u → ∃ w, exec (.accrdSt h b) s =
      .next (e.next h 1 (e.later [.uni b.xsa.toNat w] u)) ∧ w.extractLsb' 0 4 = a.status.extractLsb' 0 4 ∧
        (w.extractLsb' 8 2).toNat = (match a.mode with | .none => 0 | .f32 => 1 | .i48 => 2) ∧ w.getLsbD 10 = a.raster.isSome) ∧
    (∀ u r, Performs s e (.cvg h b) h → free ([], [b.xa.toNat]) → here u → a.mode = .i48 → a.raster = some r → ∃ x, exec (.cvg h b) s =
      .next (e.next h 1 (e.later [.vec b.xv.toNat (e.g h) (lanesBy x) 2#4] u)) ∧ ∀ p, p < 32 →
        (r.prims ≤ p → x p = 0) ∧ (p < r.prims → ∀ j, j < 32 → ((x p).getLsbD j = true ↔ j < r.samples ∧
          ∀ q, q < 3 → 0 < a.int (3 * p + q) j ∨ a.int (3 * p + q) j = 0 ∧ r.flag (3 * p + q) = true))) ∧
    (∀ u, Performs s e (.cvg h b) h → free ([], [b.xa.toNat]) → here u → (a.mode ≠ .i48 ∨ a.raster = none) →
      exec (.cvg h b) s = .next (e.take (faultOf .formatMismatch) u)) ∧
    (let kv : Nat := 32 * ((b.xi.extractLsb' 16 3).toNat + 1)
     let nv : Nat := 4 * ((b.xi.extractLsb' 19 4).toNat + 1)
     let vt : BitVec 8 := b.xi.extractLsb' 8 8
     let names (l : Nat) : Nat := (e.vl vt l).toNat
     ∀ T : Nat → TileData, Performs s e (.vxm h b) h →
      e.tagsOk ((vt.toNat, indexTag) :: (List.range (vxmRegs b)).map fun i => (b.xv.toNat + i, fun t => t == actTag b.af)) = true →
      (∀ l ∈ lanesOf (e.g h), names l < 16 ∧ k.tile (names l) = some (T l) ∧ (T l).kt = kv ∧ nv ≤ (T l).nt ∧ (T l).tag ≠ .fxs ∧ (T l).resident = true) →
      free ((lanesOf (e.g h)).map names, []) → ∃ x : Nat → Nat → W32, exec (.vxm h b) s = .next (e.next h 1
        (e.later ((List.range nv).map fun n => .vec ((b.xi.extractLsb' 0 8).toNat + n) (e.g h) (lanesBy (x n)) 3#4) s)) ∧
        ∀ n l, l ∈ lanesOf (e.g h) → x n l = BitVec.ofNat 32 (sumF32 (T l) n (actRow b.af.toNat (T l).rk (e.laneRow b kv l)) 0).1)

/-- R322, R325, R331, R321, R150, R411, R414: a queued operation that nothing earlier keeps back starts where its accumulators and the macros it
fills find room, and one that something keeps back does not; ACCZ clears its accumulators in its mode and leaves the queue; an I48 product adds its exact sum modulo 2^48 to one element; the
Binner bins a record to its tiles in turn and then goes to the next, which waits where another core's primitive is under way in the Hall (R348), and stops
with code 2 where a list is full; a reload puts back the tile its descriptor gives; the
follow-on of a copy that has done its last beat joins the queue.
Where the spec leaves it open this rests on the model's choice, log entries 37, 42, 43. -/
def Obligations.ArrayWork : Prop :=
  (∀ (s : State) (core seq : Nat) (o : ArrOp) (k : Crew) (c : Ctx) (a : Agent),
    s.arrOp core seq = some o → s.opCrew o = some k → s.ctx o.cid = some c → s.opActive core o = true → s.agent core o.cid o.crew = some a →
    let earlier : List ArrOp := (s.core core).arr.takeWhile fun q => q.seq != seq
    let n : Nat := unitCount o.instr (o.arg k)
    (o.st = .queued → keptBack earlier k o = false → o.follow = none → isRslv o.instr = false → isBinfl o.instr = false →
      (∀ t, readsTile o.instr = some t → absent k t.toNat = false) →
      let used : State := match readsTile o.instr with | some t => s.touchTile core (o.cid, o.crew, t.toNat) | none => s
      (∀ u, used.bringFor core o k = some u → ∃ t, exec (.arrayOpDispatch core seq) s = .next t ∧
        t = (u.modOp core seq fun x => { x with st := .running }).push (.arrayOpRetire core seq) ∧
        t.arrOp core seq = some { o with st := .running } ∧ t.todo = s.todo ++ [.arrayOpRetire core seq]) ∧
      (used.bringFor core o k = none → exec (.arrayOpDispatch core seq) s = .next used) ∧
      ((xTiles o.instr (o.arg k)).2 = [] → fills o.instr = none → used.bringFor core o k = some used)) ∧
    (o.st = .queued → keptBack earlier k o = true → exec (.arrayOpDispatch core seq) s = .next s) ∧
    (∀ h b, o.instr = .accz h b → o.st = .running → o.next = 0 → o.follow = none → ∃ t k', exec (.arrayOpRetire core seq) s = .next t ∧
      t.arrOp core seq = none ∧ t.opCrew o = some k' ∧ k'.tiles = k.tiles ∧
      ∀ j, j < 16 → k'.acc j = if b.xa.toNat ≤ j ∧ j ≤ b.xa.toNat + (b.xi.extractLsb' 0 4).toNat
        then (k.acc j).cleared (if h.sub = 1 then .i48 else .f32) else k.acc j) ∧
    (∀ u r, isBinfl o.instr = true → o.st = .running → o.next < n → (o.bin = none → s.binnerBusy core = false) → a.binTile (o.arg k) o.next o.bin s = (u, .ok r) →
      exec (.binnerPrimitive core seq) s = .next (match r with
        | .tile d σ => (u.modOp core seq fun x => { x with bin := some d, sig := x.sig ||| σ }).push (.binnerPrimitive core seq)
        | .binned σ => ((u.modOp core seq fun x => { x with bin := none, sig := x.sig ||| σ, next := x.next + 1 }).binnersGo core).push
            (if n ≤ o.next + 1 then .arrayOpRetire core seq else .binnerPrimitive core seq)
        | .full => u.retireOp core o (2 + 65536 * min o.next 65535))) ∧
    (isBinfl o.instr = true → o.st = .running → o.next < n → o.bin = none → s.binnerBusy core = true →
      exec (.binnerPrimitive core seq) s = .next s) ∧
    (∀ tile t u v w, k.core = core → t.page = none → c.worksOn core = true → k.tile tile = some t → s.tileBusy core (o.cid, o.crew, tile) = false →
      State.bringTile core (o.cid, o.crew, tile) (t.rk * t.rn) 64 s = some w → a.replay k t.desc none w = (v, .ok (some u)) →
      exec (.tileReload o.cid o.crew tile) s = .next ((v.modCrew o.cid o.crew fun x => x.setTile tile (some u)).rearm core))) ∧
  (∀ (a : Acc) (t : TileData) (segs : List Seg) (n i j : Nat), a.mode = .i48 → j < 32 → rising a.elems = true →
    (a.product t segs n i j).get i j = (BitVec.ofInt 48 (a.int i j +
      (((List.range segs.length).zip segs).map fun x => dot x.2.ints (t.column x.1 n)).sum)).signExtend 64 ∧
    ∀ i' j', j' < 32 → (i' ≠ i ∨ j' ≠ j) → (a.product t segs n i j).get i' j' = a.get i' j') ∧
  (∀ (s : State) (core seq : Nat) (r : CopyRec) (i : Instr), s.copyRec core seq = some r → r.follow = some i →
    (r.st = .queued ∨ r.st = .running) → 0 < r.len → r.len ≤ r.done → s.copyActive core r = true →
    (∀ k, (s.ctx r.cid).bind (·.crew r.crew) = some k → xPre i ⟨k, r.fov[0], r.fov[1], r.fov[2]⟩ = none) →
    ∃ t o r', exec (.followOnIssue core seq) s = .next t ∧ (t.core core).arr = (s.core core).arr ++ [o] ∧ o.instr = i ∧ o.follow = some seq ∧
      o.seq = (s.core core).arrSeq ∧ (o.va, o.vb, o.vc) = (r.fov[0], r.fov[1], r.fov[2]) ∧
      t.copyRec core seq = some r' ∧ r'.st = .followOn ∧ t.todo = s.todo ++ [.arrayOpDispatch core o.seq])

/-- What the units of the Array and of the Resolver come to. R325, R345: a unit that has been performed is counted, and the last one retires the
operation with its result word. R214 to R217, R336: the rows of a stream are aligned by segments, and an F32 product takes each segment in turn,
rounded three times; the sticky flags record a loss and a special segment. R212, R213, R327: the weights and the scales that packed columns
expand to. R332: the accumulator image, and its reading back. R338: which programs are malformed, and the steps. R339, R342 to R344: edge rows,
filter rows and blend rows, and what they add. R345 to R347: which candidate replaces an entry, and what the forms leave in a slot. -/
def Obligations.ArrayResults : Prop :=
  let crewOf (s : State) (a : Agent) (crew : Nat) : Option Crew := (s.ctx a.cid).bind (·.crew crew)
  let finite (v : Fv) : Prop := ∃ n m q, v = .fin n m q
  (∀ (s v : State) (core seq : Nat) (o : ArrOp) (k : Crew) (a : Agent) (σ : SigBits) (m : Nat),
    s.arrOp core seq = some o → s.opCrew o = some k → s.agent core o.cid o.crew = some a → s.opActive core o = true → o.st = .running →
    isBinfl o.instr = false → o.next < unitCount o.instr (o.arg k) →
    ({ a with job := some ⟨o.crew, true, o.seq, 0⟩ } : Agent).unit o.crew o.instr (o.arg k) o.next s = (v, .ok (σ, m)) → v.arrOp core seq = some o →
    let f (x : ArrOp) : ArrOp := { x with next := x.next + 1, sig := x.sig ||| σ, updates := x.updates + m }
    let count : Nat := match o.instr with | .rslvClr _ _ => 1024 | .rslvRd _ _ => 0 | _ => o.updates + m
    exec (.arrayOpRetire core seq) s = .next (if unitCount o.instr (o.arg k) ≤ o.next + 1
      then (v.modOp core seq f).retireOp core (f o) (65536 * min count 65535) else (v.modOp core seq f).push (.arrayOpRetire core seq))) ∧
  (∀ (f : Fmt) (w : Nat) (l : List Nat), 2 ≤ w →
    let sg : Seg := align f w l
    let unit : ℚ := 2 ^ sg.exp
    sg.ints.length = l.length ∧ (sg.special = true ↔ ∃ n ∈ l, ¬ finite (f.value n)) ∧
    (∃ top : Int, sg.exp = top - ((w : Int) - 2) ∧ -126 ≤ top ∧ (-126 < top → ∃ n ∈ l, finite (f.value n) ∧ (2 : ℚ) ^ top ≤ |(f.value n).rat|) ∧
      ∀ n ∈ l, finite (f.value n) → |(f.value n).rat| < (2 : ℚ) ^ (top + 1)) ∧
    (∀ (i n : Nat) (q : Int), l[i]? = some n → sg.ints[i]? = some q → (¬ finite (f.value n) → q = 0) ∧
      (finite (f.value n) → 2 * |(q : ℚ) * unit - (f.value n).rat| ≤ unit ∧ (2 * |(q : ℚ) * unit - (f.value n).rat| = unit → q % 2 = 0))) ∧
    (sg.loss = true ↔ ∃ (i n : Nat) (q : Int), l[i]? = some n ∧ sg.ints[i]? = some q ∧ finite (f.value n) ∧ (q : ℚ) * unit ≠ (f.value n).rat)) ∧
  (∀ (a : Acc) (t : TileData) (segs : List Seg) (n i j : Nat), a.mode = .f32 → j < 64 → rising a.elems = true →
    (∃ x : Nat → Nat, x 0 = (a.get i j).toNat ∧ (a.product t segs n i j).get i j = BitVec.ofNat 64 (x segs.length) ∧
      ∀ g sg, segs[g]? = some sg →
        let sc : Scale := t.scale g n
        let p : Fv := fp32.value (fp32.ofValue .ieee .rne (Fv.ofInt ((sg.ints.zip (t.column g n)).map fun y => y.1 * y.2).sum))
        let term : Nat := if sg.special || sc.special then 0x7FC00000 else fp32.ofValue .ieee .rne (p.mul (.fin sc.neg sc.mant (sc.exp + sg.exp)))
        x (g + 1) = fp32.ofValue .ieee .rne ((fp32.value (x g)).add .rne (fp32.value term))) ∧
    (a.product t segs n i j).status.getLsbD 0 = (a.status.getLsbD 0 || t.loss || segs.any (·.loss)) ∧
    ((a.product t segs n i j).status.getLsbD 1 = true ↔ a.status.getLsbD 1 = true ∨
      ∃ g sg, segs[g]? = some sg ∧ (sg.special = true ∨ (t.scale g n).special = true)) ∧
    ∀ i' j', j' < 64 → (i' ≠ i ∨ j' ≠ j) → (a.product t segs n i j).get i' j' = a.get i' j') ∧
  (∀ (s u : State) (a : Agent) (crew i : Nat) (b : XBody) (x : XArg) (mem : Bool) (t : TileData) (row : List Nat) (c : Crew),
    x.tile b = some t → a.streamRow b x t.kt i mem s = (u, .ok row) → crewOf u a crew = some c →
    let w : Nat := (x.acc b).cols
    let place (n : Nat) : Nat := b.xa.toNat + i / 32 * ((t.nt + w - 1) / w) + n / w
    (∀ n, n < t.nt → place n < 16 ∧ (c.acc (place n)).mode = (x.acc b).mode ∧ rising (c.acc (place n)).elems = true) →
    ∃ v c', a.streamUnit crew b x mem i s = (v, .ok (0, 0)) ∧ crewOf v a crew = some c' ∧ ∀ n, n < t.nt →
      (c'.acc (place n)).get (i % 32) (n % w) =
        ((c.acc (place n)).product t (actRow b.af.toNat t.rk row) n (i % 32) (n % w)).get (i % 32) (n % w)) ∧
  (∀ (wf rk rn kt n k x : Nat) (cols : List Nat) (desc : List LoadDesc), kt ≤ 8192 → k < 8192 →
    let t : TileData := packedTile wf rk rn kt cols desc
    ((kt ≤ k ∨ cols.length ≤ n) → t.weight k n = 0) ∧
    (k < kt → cols[n]? = some x →
      (wf = 0 → t.weight k n = (BitVec.ofNat 3 (x / 2 ^ (32 * (k / 10) + 3 * (k % 10)))).toInt) ∧
      (wf = 1 → t.weight k n = (BitVec.ofNat 4 (x / 2 ^ (4 * k))).toInt) ∧
      (wf = 2 → t.weight k n = (if 8 ≤ x / 2 ^ (4 * k) % 16 then -1 else 1) * (([0, 1, 2, 3, 4, 6, 8, 12] : List Int)[x / 2 ^ (4 * k) % 8]?).getD 0) ∧
      (wf = 5 → t.weight k n = (BitVec.ofNat 16 (x / 2 ^ (16 * k))).toInt) ∧
      (wf < 3 ∨ wf = 5 → t.scale (k / 32) n = ⟨false, false, 1, if wf = 2 then -1 else 0⟩) ∧
      (kt % 32 = 0 → wf = 3 ∨ wf = 4 →
        let sg : Seg := if wf = 3 then align e4m3 8 ((List.range 32).map fun j => x / 2 ^ (8 * (32 * (k / 32) + j)) % 2 ^ 8)
          else align bf16 16 ((List.range 32).map fun j => x / 2 ^ (16 * (32 * (k / 32) + j)) % 2 ^ 16)
        sg.ints[k % 32]? = some (t.weight k n) ∧ t.scale (k / 32) n = ⟨sg.special, false, 1, sg.exp⟩ ∧ (sg.loss = true → t.loss = true)))) ∧
  (∀ a b : Acc, rising a.elems = true → (∀ x ∈ a.elems, x.1 < 32 * a.cols ∧ a.shape x.2 = x.2) →
    (∀ i n, i < 32 → n < a.cols → Mem.readN a.image (256 * i + a.size * n) a.size = (a.get i n).toNat) ∧
    Mem.readN a.image 8192 4 = a.status.toNat ∧ Mem.readN a.image 8196 4 = (match a.mode with | .none => 0 | .f32 => 1 | .i48 => 2) ∧
    (∀ p, 8200 ≤ p → Mem.read a.image p = 0) ∧ (a.mode = .none → b.load (Mem.readN a.image 0 8256) = none) ∧
    (a.mode ≠ .none → ∃ c, b.load (Mem.readN a.image 0 8256) = some c ∧ c.mode = a.mode ∧ c.raster = none ∧ c.status = a.status &&& 15 ∧
      c.pre = b.pre ∧ c.post = b.post ∧ ∀ i n, i < 32 → n < a.cols → c.get i n = a.get i n)) ∧
  (∀ p : Vector W64 8,
    let ps : List PostStep := program p
    programOk p = true ↔ ∀ i t, ps[i]? = some t → 1 ≤ t.op ∧ t.op ≤ 8 ∧ (t.op = 1 ∨ t.op = 2 → t.mode ≤ 1) ∧
      (t.op = 3 → t.lo.isNan = true ∨ t.hi.isNan = true ∨ t.lo.cmp t.hi ≤ 0) ∧ (t.op = 7 → t.arg32 ≠ 0) ∧
      (t.op = 4 → t.mode ∈ [1, 3, 5, 6, 7, 8, 9, 12, 13] ∧ t.arg16 % 8 ≤ 4 ∧ t.arg16 < 16 ∧ i + 1 = ps.length) ∧ (t.op = 5 ∨ t.op = 6 → i = 0) ∧
      (t.op = 8 → i + 1 = ps.length ∧ ∃ j u, i = j + 1 ∧ ps[j]? = some u ∧ u.op = 5)) ∧
  (∀ (a : Agent) (acc : Acc) (i n : Nat) (t : PostStep) (x : Fv) (s : State),
    let gives (y : Fv) : Prop := a.postOne acc i n t x s = (s, .ok y)
    (t.op = 1 → t.mode = 0 → gives (fp32.value (fp32.ofValue .ieee .rne (x.mul (fp32.value t.arg32))))) ∧
    (t.op = 2 → t.mode = 0 → gives (fp32.value (fp32.ofValue .ieee .rne (x.add .rne (fp32.value t.arg32))))) ∧
    (t.op = 3 → x = .nan → gives t.lo) ∧
    (t.op = 3 → finite x → finite t.lo → finite t.hi → ∃ y, gives y ∧ finite y ∧ y.rat = min (max x.rat t.lo.rat) t.hi.rat) ∧
    (t.op = 5 → ∀ r, acc.raster = some r → ∃ y, gives y ∧ finite y ∧
      y.rat = if 0 < acc.int i n ∨ (acc.int i n = 0 ∧ r.flag i = true) then 1 else 0)) ∧
  (∀ (p : Prim) (two : Bool) (x0 x1 x2 y0 y1 y2 : Int), p.xs = [x0, x1, x2] → p.ys = [y0, y1, y2] →
    let area : Int := (x1 - x0) * (y2 - y0) - (x2 - x0) * (y1 - y0)
    let rows : List (List Int) := [[y0 - y1, x1 - x0, x0 * y1 - x1 * y0], [y1 - y2, x2 - x1, x1 * y2 - x2 * y1], [y2 - y0, x0 - x2, x2 * y0 - x0 * y2]]
    let near : Prop := ∀ v ∈ [x0, x1, x2, y0, y1, y2], |v| ≤ 2 ^ 22
    p.area = area ∧ (near → 0 < area → p.rows two = rows) ∧ (near → area < 0 → two = true → p.rows two = rows.map (·.map fun v => -v)) ∧
    ((¬ near ∨ area = 0 ∨ (area < 0 ∧ two = false)) → p.rows two = [[0, 0, -1], [0, 0, -1], [0, 0, -1]]) ∧
    ∀ a b c : Int, topLeft [a, b, c] = true ↔ 0 < a ∨ (a = 0 ∧ 0 < b)) ∧
  (∀ (a : Acc) (t : TileData) (row : List Int) (n i j : Nat), a.mode = .i48 → j < 32 → rising a.elems = true →
    (a.addRow t row n i j).get i j = (BitVec.ofInt 48 (a.int i j +
      (((List.range row.length).zip row).map fun x => x.2 * t.weight x.1 n).sum)).signExtend 64 ∧
    ∀ i' j', j' < 32 → (i' ≠ i ∨ j' ≠ j) → (a.addRow t row n i j).get i' j' = a.get i' j') ∧
  (∀ (s : State) (a : Agent) (crew i : Nat) (b : XBody) (t : TileData) (row : List Int) (c : Crew), crewOf s a crew = some c →
    let place (n : Nat) : Nat := b.xa.toNat + i / 32 * ((t.nt + 31) / 32) + n / 32
    (∀ n, n < t.nt → place n < 16 ∧ (c.acc (place n)).mode = .i48 ∧ rising (c.acc (place n)).elems = true) →
    ∃ c', crewOf (s.integerRow a crew b t i row) a crew = some c' ∧ ∀ n, n < t.nt →
      (c'.acc (place n)).get (i % 32) (n % 32) = ((c.acc (place n)).addRow t row n (i % 32) (n % 32)).get (i % 32) (n % 32)) ∧
  (∀ rc : Nat, rc < 2 ^ 32 →
    let u : Int := ((min (rc % 2 ^ 16) 2047 : Nat) : Int) - 64
    let v : Int := ((min (rc / 2 ^ 16) 2047 : Nat) : Int) - 64
    let share (d : Int) (k : Nat) : Int := (if max 0 (min 15 (d / 128)) = k then 128 - d % 128 else 0) + if max 0 (min 15 (d / 128 + 1)) = k then d % 128 else 0
    (filterRow rc).length = 256 ∧ (filterRow rc).sum = 16384 ∧
    ∀ tx ty, tx < 16 → ty < 16 → (filterRow rc)[16 * ty + tx]? = some (share u tx * share v ty)) ∧
  (∀ src dst : W32,
    let of (x : W32) (c : Nat) : Int := (x.extractLsb' (8 * c) 8).toNat
    let row : List Int := blendRow src.toNat dst.toNat
    row.length = 18 ∧ row[16]? = some 65025 ∧ row[17]? = some 255 ∧ ∀ c, c < 4 → row[c]? = some (of src c) ∧ row[4 + c]? = some (of dst c) ∧
      row[8 + c]? = some (of dst c * of src 3) ∧ row[12 + c]? = some (of src c * of src 3)) ∧
  (∀ (le : Bool) (z : W32) (id seq : Nat) (x : Entry96), (z.extractLsb' 0 31).toNat ≤ 0x7F800000 →
    let d : W32 := x.extractLsb' 0 32
    let xid : Nat := (x.extractLsb' 32 32).toNat
    let xseq : Nat := (x.extractLsb' 64 32).toNat
    passes le z id seq x = true ↔ 0x7F800000 < (d.extractLsb' 0 31).toNat ∨ f32Rank z < f32Rank d ∨
      (f32Rank z = f32Rank d ∧ ((if le then xseq < seq else seq < xseq) ∨ (seq = xseq ∧ id < xid)))) ∧
  (∀ (acc : Acc) (p j : Nat) (r : Prim) (z0 z1 z2 : Nat), r.zs = [z0, z1, z2] →
    let all : Prop := finite (fp32.value z0) ∧ finite (fp32.value z1) ∧ finite (fp32.value z2)
    (¬ all → depthAt acc p j r = none) ∧
    (all → r.area ≠ 0 → ∃ w, depthAt acc p j r = some w ∧ w ≠ 0x80000000 ∧
      let z : ℚ := (acc.int (3 * p + 1) j * (fp32.value z0).rat + acc.int (3 * p + 2) j * (fp32.value z1).rat + acc.int (3 * p) j * (fp32.value z2).rat) / r.area
      (z = 0 → w = 0) ∧ (f32Finite w → ∀ y, f32Finite y → |f32Rat w - z| ≤ |f32Rat y - z|))) ∧
  (∀ (s u : State) (a : Agent) (b : XBody) (x : XArg) (le : Bool) (p y bx by_ : Nat) (r : Raster) (t : TileData),
    x.tile b = some t → t.origin = some (bx, by_) → (x.acc b).raster = some r → a.get .any (x.va + off64 (48 * p)) 48 s = (u, .ok y) →
    rising u.resolver = true → rising (u.slotEntries (a.slotKey x)) = true →
    let acc : Acc := x.acc b
    let pr : Prim := primOf y
    let old (k : Nat) : Entry96 := entryAt (u.slotEntries (a.slotKey x)) k
    let hit (j k : Nat) : Prop := j < r.samples ∧ bx + 4 * (j / 16) + j % 4 < 32 ∧ by_ + j % 16 / 4 < 32 ∧
      k = 32 * (by_ + j % 16 / 4) + (bx + 4 * (j / 16) + j % 4) ∧ acc.covered r p j = true
    let won (j : Nat) : Bool := bx + 4 * (j / 16) + j % 4 < 32 && by_ + j % 16 / 4 < 32 && acc.covered r p j && match depthAt acc p j pr with
      | some z => passes le z pr.id pr.seq (old (32 * (by_ + j % 16 / 4) + (bx + 4 * (j / 16) + j % 4)))
      | none => false
    ∃ v, a.resolveUnit b x le p s = (v, .ok (0, (List.range r.samples).countP won)) ∧ ∀ k,
      ((∀ j, ¬ hit j k) → entryAt (v.slotEntries (a.slotKey x)) k = old k) ∧
      (∀ j, hit j k → entryAt (v.slotEntries (a.slotKey x)) k = match depthAt acc p j pr with
        | some z => if passes le z pr.id pr.seq (old k) = true then BitVec.ofNat 96 (z.toNat + 2 ^ 32 * pr.id + 2 ^ 64 * pr.seq) else old k
        | none => old k)) ∧
  (∀ (s : State) (a : Agent) (x : XArg), rising s.resolver = true → rising (s.slotEntries (a.slotKey x)) = true →
    (∀ k, k < 1024 → entryAt ((s.clearSlot a.core x).slotEntries (a.slotKey x)) k = BitVec.ofNat 96 (low32 x.va + 2 ^ 32 * (2 ^ 64 - 1))) ∧
    (∀ u y k, a.get .memoryOnly (x.va + off64 (12 * k)) 12 s = (u, .ok y) → u.resolver = s.resolver → ∃ v, a.slotIn x k s = (v, .ok (0, 1)) ∧
      ∀ j, entryAt (v.slotEntries (a.slotKey x)) j = if j = k then BitVec.ofNat 96 y else entryAt (s.slotEntries (a.slotKey x)) j) ∧
    ∀ k, a.slotOut x k s = thenDo (a.put .memoryOnly (x.va + off64 (12 * k)) 12 (entryAt (s.slotEntries (a.slotKey x)) k).toNat s) fun u σ => (u, .ok (σ, 0)))

/-! ## The task graph -/

/-- R353, R182, R354, R189: SPAWN and SPAWN.lane start one child frame for each distinct entry, in the order of the lowest lane that names it:
the first runs in the slot of the spawning split, the others are ready, and what is left of the spawning frame becomes the
continuation on top of the deque; its await block owes one completion more for each child. SPAWNC adds a frame that waits for its futures
and registers it with each of them. A bad entry traps, and too few frames hold the split.
Where the spec leaves it open this rests on the model's choice, log entry 44. -/
def Obligations.Spawning : Prop :=
  ∀ (s : State) (e : Env) (h : Hdr) (b : TBody),
    let ls : List Nat := lanesOf (e.g h)
    let forms (i : Instr) (tagged : Prop) (pc : Nat → W64) (arg : W64) : Prop :=
      let sets : List (W64 × List Nat) := entrySets pc ls
      (Performs s e i h → tagged → (∀ l ∈ ls, canonical (pc l) = true ∧ pcFormed (pc l) = true) →
        sets.length + 1 ≤ e.ctx.freeFrames e.group.crew → e.releaseReady s = true → ∃ first rest t,
          let awb : Nat := e.fr.awb.toNat
          e.children arg sets (s.setPending awb (s.pending awb + sets.length)) = (t, first :: rest) ∧
          exec i s = .next (((rest.foldl (fun s k => s.readyFrame e.cid k)
            ((e.continue (b.topt.getLsbD 1) (e.edge (e.next h 1 t))).bindFrame e.f.core e.f.slot e.cid first)).offer e.f.core e.cid).offerSteal e.f.core e.cid)) ∧
      (Performs s e i h → tagged → (∀ l ∈ ls, canonical (pc l) = true) → (∃ l ∈ ls, pcFormed (pc l) = false) →
        exec i s = .next (e.take (faultOf .badTarget) s)) ∧
      (Performs s e i h → tagged → (∀ l ∈ ls, canonical (pc l) = true ∧ pcFormed (pc l) = true) →
        e.ctx.freeFrames e.group.crew < sets.length + 1 → ∀ k, e.ctx.crew e.group.crew = some k → exec i s = .next (e.waits .stalled
          (if k.frameLow then s else (s.modCrew e.cid e.group.crew fun k => { k with frameLow := true }).postEvent .frameLow e.vf
            (hallOf e.f.core) (e.cid + 2 ^ 32 * e.group.crew))))
    forms (.spawn h b) True (fun _ => e.u64 b.tsa) (e.u64 b.tsb) ∧
    forms (.spawnLane h b) (e.sp.wait ≠ .access → e.tagsOk [(b.tv.toNat, anyTag), (b.tv.toNat + 1, anyTag)] = true)
      (fun l => e.vl (b.tv + 1) l ++ e.vl b.tv l) (e.u64 b.tsb) ∧
    (∀ t offs, Performs s e (.spawnc h b) h → canonical (e.u64 b.tsa) = true → pcFormed (e.u64 b.tsa) = true →
      let n : Nat := (b.topt.extractLsb' 0 2).toNat + 1
      e.futures ((List.range n).map fun i => e.sp.upair (b.tsc.toNat + 2 * i)) s = .ok (t, offs) →
      1 ≤ e.ctx.freeFrames e.group.crew → e.releaseReady t = true → ∃ u, exec (.spawnc h b) s = .next (e.next h 1 u) ∧
        (∃ fr, u.frame e.cid e.ctx.freeHandle = some fr ∧ fr.rem = n ∧ fr.kind = .dependent ∧ fr.mask = e.g h ∧
          fr.group.pcs = [e.u64 b.tsa]) ∧
        u.reqs.length = t.reqs.length + n ∧ u.todo.length = t.todo.length + n)

/-- R356, R357, R358, R186, R187: FNEW makes an EMPTY future with a cleared block and answers 0, and 1 where someone waits for it; FRES and
FFLT send the four line ORs of the frame signature and then the resolution, which waits for them, hold the split until it is answered, and go on then; FPOLL reads the state and the value; FWAIT
registers, waits, and gives the state and the value of the resolution, which a split that was woken reads again.
Where the spec leaves it open this rests on the model's choice, log entry 44. -/
def Obligations.Futures : Prop :=
  ∀ (s t : State) (e : Env) (h : Hdr) (b : TBody) (off : Nat), e.future (e.u64 b.tsa) s = .ok (t, off) → t.memWf = true →
    let w : Nat := t.futWord off
    let gives (code : Nat) (v : W64) : List RegWrite := wrote true b.tsb 0 v ++ [.uni b.tsc.toNat (BitVec.ofNat 32 code)]
    let taken (u : State) (o : Nat) : State := e.edge (u.acquire e.f.core e.cid e.h (u.blockOf (.atrium o) 64 e.cid).1 (u.blockOf (.atrium o) 64 e.cid).2)
    let resolves (i : Instr) (faulted : Bool) : Prop :=
      (Performs s e i h → (∀ n, e.sp.wait ≠ .request n) → e.releaseReady t = true → ∃ u l r, exec i s = .next (e.waits (.request (t.nextReq + 4)) u) ∧
        u.reqs = t.reqs ++ l ++ [r] ∧ r.id = t.nextReq + 4 ∧ r.after = l.map (·.id) ∧
        l.map (fun q => (q.id, q.op)) = (List.range 4).map (fun k => (t.nextReq + k, ReqOp.bankLine (off + 64 + 64 * k) 4 4 (e.fr.sig.extractLsb' (512 * k) 512))) ∧
        r.op = .resolve off (if h.sub = 1 then b.ti.setWidth 64 else e.u64 b.tsb) faulted e.f.core e.f.slot false ∧ u.atrium = t.atrium ∧
        u.todo = t.todo ++ (List.range 4).map (fun k => .atriumBankOperation (t.nextReq + k)) ++ [.futureResolutionOp (t.nextReq + 4)]) ∧
      (∀ n, Performs s e i h → e.sp.wait = .request n → s.req n = none → exec i s = .next (e.next h 1 s)) ∧
      (∀ n r, Performs s e i h → e.sp.wait = .request n → s.req n = some r → exec i s = .next (e.waits (.request n) s))
    (Performs s e (.fnew h b) h → (futState w = 0 → futWaiters w = 0 ∧ futHead w = noHandle) → ∃ u,
      exec (.fnew h b) s = .next (e.next h 1 (e.later [.uni b.tsb.toNat 0] u)) ∧ futState (u.futWord off) = 0 ∧ futValue (u.futWord off) = 0 ∧
        futWaiters (u.futWord off) = 0 ∧ futHead (u.futWord off) = noHandle ∧ u.bytesOf (.atrium off) 64 256 = 0) ∧
    (Performs s e (.fnew h b) h → futState w = 0 → (futWaiters w ≠ 0 ∨ futHead w ≠ noHandle) →
      exec (.fnew h b) s = .next (e.next h 1 (e.later [.uni b.tsb.toNat 1] t))) ∧
    resolves (.fres h b) false ∧ resolves (.fflt h b) true ∧
    (Performs s e (.fpoll h b) h → futState w = 0 → exec (.fpoll h b) s = .next (e.next h 1 (e.later (gives 0 0) t))) ∧
    (Performs s e (.fpoll h b) h → futState w ≠ 0 →
      exec (.fpoll h b) s = .next (e.next h 1 (e.later (gives (min (futState w) 2) (BitVec.ofNat 64 (futValue w))) (taken t off)))) ∧
    (Performs s e (.fwait h b) h → e.sp.wait = .none → (t.core e.f.core).waits.length < 32 → ∃ u,
      exec (.fwait h b) s = .next (e.waits (.request t.nextReq) u) ∧ (u.core e.f.core).waits =
        (t.core e.f.core).waits ++ [⟨off, e.u64 b.tsa, e.asid, e.f.slot, e.f.split⟩] ∧
        u.todo = t.todo ++ [.waitRegistrationOp t.nextReq]) ∧
    (∀ l, Performs s e (.fwait h b) h → e.sp.wait = .future l → e.registered off l = false → futState w ≠ 0 →
      exec (.fwait h b) s = .next (e.next h 1 (e.later (gives (min (futState w) 2) (BitVec.ofNat 64 (futValue w))) (taken t off)))) ∧
    (∀ o x, Performs s e (.fwait h b) h → e.sp.wait = .resolved o x → futState x ≠ 0 →
      exec (.fwait h b) s = .next (e.next h 1 (e.later (gives (min (futState x) 2) (BitVec.ofNat 64 (futValue x))) (taken s o))))

/-- R355, R107, R360, R190, R361, R368: AWAIT waits until its block owes nothing, acquires what the block holds and clears it; REORDER of a
launch frame waits for the others at its rendezvous and goes on when its lanes have been dealt, and a lane set that is not the whole
group traps, the empty one too; the deal sorts the lanes by their keys and keeps the order of equal keys; TIME gives its Hall's counter and the Hall; a hint
changes no more than the preferences of the group and of the split; hint 2 lets the other splits go first.
Where the spec leaves it open this rests on the model's choice, log entries 44, 45, 64. -/
def Obligations.AwaitReorderTime : Prop :=
  (∀ (s : State) (e : Env) (h : Hdr) (b : TBody),
    let awb : Nat := e.fr.awb.toNat
    (Performs s e (.await h b) h → s.pending awb = 0 → ∃ u, exec (.await h b) s = .next (e.next h 1 u) ∧ u.bytesOf (.atrium awb) 64 256 = 0 ∧
      ∃ fr, u.frame e.cid e.h = some fr ∧ fr.sig = e.fr.sig ||| (if (lookup s.sigOwner awb).getD 0 = e.cid then BitVec.ofNat 2048 (s.bytesOf (.atrium awb) 64 256) else sigAll)) ∧
    (Performs s e (.await h b) h → s.pending awb ≠ 0 → exec (.await h b) s = .next (e.waits .await s)) ∧
    (Performs s e (.reorder h b) h → e.tagsOk [(b.tv.toNat, anyTag)] = true → e.sp.unfinished = some 0 →
      exec (.reorder h b) s = .next (e.next h 1 s)) ∧
    (let arrives : Prop := Performs s e (.reorder h b) h ∧ e.tagsOk [(b.tv.toNat, anyTag)] = true ∧ e.sp.unfinished ≠ some 0 ∧ e.group.reordered = none
     let alone : Prop := (∀ k, k < 4 → k ≠ e.f.split → e.group.split k = none) ∧ e.group.stack = [] ∧ e.g h = e.sp.mask
     let u : State := s.takeAwait e.f.core e.cid e.h awb
     (Env.of s s.focus = some e → e.legal (.reorder h b) = true → e.g h = 0 → e.sp.mask ≠ 0 → e.tagsOk [(b.tv.toNat, anyTag)] = true →
       e.sp.unfinished ≠ some 0 → e.group.reordered = none → s.pending awb = 0 →
       exec (.reorder h b) s = .next (e.take (faultOf .reorderDiverged) u)) ∧
     (arrives → s.pending awb ≠ 0 → exec (.reorder h b) s = .next (e.waits .await s)) ∧
     (arrives → s.pending awb = 0 → ¬ alone → exec (.reorder h b) s = .next (e.take (faultOf .reorderDiverged) u)) ∧
     (arrives → s.pending awb = 0 → alone → e.releaseReady u = true → e.fr.parent = none →
       (∀ x ∈ e.ctx.participants e.group.crew, x.1 = e.h ∨ ∀ y, x.2.group.reordered = some y → y.ti = b.ti ∧ e.sp.pc ∈ x.2.group.pcs) →
       ∃ v, exec (.reorder h b) s = .next (e.waits .reorder v) ∧ v.todo = u.todo ++ [.reorderRendezvous e.f.core e.f.slot] ∧
         ∃ fr, v.frame e.cid e.h = some fr ∧ fr.group.reordered = some b)) ∧
    (Performs s e (.time h b) h → exec (.time h b) s = .next (e.next h 1 (e.later
      (wrote true b.tsa 0 (s.counter (hallOf e.f.core)) ++ [.uni b.tsb.toNat (BitVec.ofNat 32 (hallOf e.f.core))]) s))) ∧
    (∀ k : BitVec 10, Performs s e (.hint k) ⟨0, false, 7, false, 0⟩ → exec (.hint k) s = .next (
      let t : State := e.next ⟨0, false, 7, false, 0⟩ 1 s
      if k = 1 then e.modGroup t fun g => { g with preferEvict := true }
      else if k = 2 then e.modSplit t fun sp => { sp with wait := .yield t.ac, asleep := true }
      else if k = 3 then e.modSplit t fun sp => { sp with streaming := true } else t))) ∧
  ∀ l : List Lane, (sortLanes l).Perm l ∧ (sortLanes l).Pairwise (fun x y => x.key ≤ y.key) ∧
    ∀ n, ((sortLanes l).filter fun x => x.key == n) = l.filter fun x => x.key == n

/-- R187, R188, R385: at the bank a registration with an EMPTY future is counted and the split waits, and with a resolved one the split is answered;
a Gallery registration heads the future's list; a resolution writes the word once, and a second one is DOUBLE_RESOLVE; the notice wakes
every entry of a core's wait table that names the future; the Porter's wake queue holds 4,096 list heads and wakes the frames of the
oldest; a waiter can move from the wait table to the Gallery.
Where the spec leaves it open this rests on the model's choice, log entry 44. -/
def Obligations.FutureEvents : Prop :=
  (∀ (s : State) (id off : Nat) (r : Req) (f : Focus) (e : Env),
    s.req id = some r → r.op = .waitReg off → r.dst = .split f → s.mayServe r = true → Env.of (s.answered r) f = some e → s.memWf = true →
    let w : Nat := s.futWord off
    (futState w = 0 → ∃ u, exec (.waitRegistrationOp id) s = .next (e.waits (.future none) u) ∧ futWaiters (u.futWord off) = min (futWaiters w + 1) 16383 ∧
      futState (u.futWord off) = 0 ∧ futHead (u.futWord off) = futHead w ∧ u.reqs = (s.answered r).reqs) ∧
    (futState w ≠ 0 → ∃ u fr sp, exec (.waitRegistrationOp id) s = .next u ∧ u.frame e.cid e.h = some fr ∧ fr.group.split f.split = some sp ∧
      sp.wait = .resolved off w ∧ sp.asleep = false ∧ u.atrium = s.atrium)) ∧
  (∀ (s : State) (id off i cid h : Nat) (r : Req) (fr : Frame),
    s.req id = some r → r.op = .galleryReg off i → r.dst = .frame cid h → s.mayServe r = true → s.frame cid h = some fr → 0 < fr.rem →
    (s.answered r).frame cid h = some fr → i < 4 → h < 2 ^ 30 → s.memWf = true →
    let w : Nat := s.futWord off
    (futState w = 0 → ∃ u fr', exec (.galleryRegistrationOp id) s = .next u ∧ futHead (u.futWord off) = h + 2 ^ 30 * i ∧
      futState (u.futWord off) = 0 ∧ futWaiters (u.futWord off) = futWaiters w ∧ u.frame cid h = some fr' ∧
      fr'.links.toList[i]? = some (BitVec.ofNat 32 (futHead w)) ∧ u.gallery = (off, cid, h + 2 ^ 30 * i) :: s.gallery) ∧
    (futState w ≠ 0 → ∃ u fr', exec (.galleryRegistrationOp id) s = .next u ∧ u.frame cid h = some fr' ∧ fr'.rem = fr.rem - 1 ∧ u.atrium = s.atrium)) ∧
  (∀ (s : State) (id off rcore rslot : Nat) (value : W64) (faulted eng : Bool) (r : Req) (f : Focus) (e : Env),
    s.req id = some r → r.op = .resolve off value faulted rcore rslot eng → s.mayServe r = true → r.dst = .split f → Env.of (s.answered r) f = some e → s.memWf = true →
    (futState (s.futWord off) = 0 → ∃ u, exec (.futureResolutionOp id) s = .next u ∧ futState (u.futWord off) = (if faulted then 2 else 1) ∧
      futValue (u.futWord off) = value.toNat ∧ futHead (u.futWord off) = noHandle ∧ (∀ x ∈ u.gallery, x.1 ≠ off)) ∧
    (futState (s.futWord off) ≠ 0 → ∃ u, exec (.futureResolutionOp id) s = .next u ∧ u.atrium = s.atrium ∧
      u = e.take (faultOf .doubleResolve) (e.modSplit (s.answered r) fun sp => { sp with wait := .none, asleep := false }))) ∧
  (∀ (s : State) (id core : Nat) (n : Notice), (s.notices.find? fun x => x.id == id) = some n → ∃ u, exec (.resolutionNoticeReceive id core) s = .next u ∧
    (u.core core).waits = (s.core core).waits.filter (fun w => !(w.future == n.future && w.asid == n.asid)) ∧ u.atrium = s.atrium) ∧
  (∀ (s : State) (hall : Nat) (x : List (Nat × Nat)) (l : List (List (Nat × Nat))), hall < 2 →
    ((s.porter hall).wakePend = x :: l → (s.porter hall).wake.length < 4096 → ∃ u, exec (.wakeQueuePost hall) s = .next u ∧
      (u.porter hall).wake = (s.porter hall).wake ++ [x] ∧ (u.porter hall).wakePend = l ∧ u.todo = s.todo ++ [.wakeQueueHead hall]) ∧
    ((s.porter hall).wakePend = x :: l → 4096 ≤ (s.porter hall).wake.length → exec (.wakeQueuePost hall) s = .next s) ∧
    ((s.porter hall).wake = x :: l → exec (.wakeQueueHead hall) s = .next ((x.foldl (fun s y => s.wakeFrame y.1 y.2)
      (s.modPorter hall fun p => { p with wake := l })).pushAll [.wakeQueuePost hall, .wakeQueueHead hall]))) ∧
  (∀ (s : State) (core slot split i : Nat) (e : Env) (w : WaitEnt), Env.of s ⟨core, slot, split⟩ = some e → e.sp.wait = .future none → e.sp.asleep = true →
    ((s.core core).waits.find? fun x => x.slot == slot && x.split == split) = some w → e.fr.freeLink = some i → i < 4 →
    ∃ u fr, exec (.waiterToGallery core slot split) s = .next u ∧ u.frame e.cid e.h = some fr ∧ fr.links.toList[i]? = some linkPending ∧
      fr.futs.toList[i]? = some w.va ∧ fr.futOffs.toList[i]? = some w.future ∧ u.todo = s.todo ++ [.galleryRegistrationOp s.nextReq] ∧
      (u.core core).waits = (s.core core).waits.filter fun x => !(x.slot == slot && x.split == split)) ∧
  (∀ (s : State) (core slot : Nat) (b : Bind) (c : Ctx) (x : Part) (l : List Part) (body : TBody), lookup (s.core core).slots slot = some b →
    s.ctx b.cid = some c → c.participants b.crew = x :: l → x.2.group.reordered = some body →
    exec (.reorderRendezvous core slot) s = .next (if ((x :: l).all fun y => y.2.group.reordered.isSome) = true then s.deal core b.cid c.asid body (x :: l) else s))

/-! ## Privileged instructions -/

/-- R350, R362, R363, R364, R365, R366: outside a supervisor context every privileged form is illegal. In one, CTXRD reads a field of a context it
reaches, and 0 of any other; CTXWR writes PRIO up to the ceiling, and DEBUG of a stopped context alone; EVPOP answers 0 from an empty
queue, where EVPOP.wait waits, and else stores the oldest record and gives how many are left; TLBINV and MAPQ wait until their core has nothing
under way, then for their operation, and go on when it is over; an operation is broadcast to every recipient, at once where no other is under way; HALTC answers 2 for a context it does not reach and 1 for its own, halts, resumes and kills, and gives 1 in every other state; a context that resumes with a copy that no longer passes its checks halts again.
Where the spec leaves it open this rests on the model's choice, log entry 54. -/
def Obligations.PrivilegedForms : Prop :=
  ∀ (s : State) (e : Env) (h : Hdr) (b : TBody),
    let cid : Nat := (e.u b.tsa).toNat % 65536
    let gives (x : W32) (u : State) : State := e.next h 1 (e.later [.uni b.tsb.toNat x] u)
    (∀ i, Env.of s s.focus = some e → privileged i = true → e.sup = false → exec i s = .next (e.take (faultOf .illegalOpcode) s)) ∧
    (let sel : Nat := (b.ti.extractLsb' 0 8).toNat
     let reads (x : Nat) (u : State) : State := e.next h 1 (e.later (wrote true b.tsb 0 (BitVec.ofNat 64 x)) u)
     (Performs s e (.ctxrd h b) h → s.reaches e.vf cid = false → exec (.ctxrd h b) s = .next (reads 0 s)) ∧
     (∀ c, Performs s e (.ctxrd h b) h → s.ctx cid = some c → s.reaches e.vf cid = true →
       exec (.ctxrd h b) s = .next (reads (c.field sel)
         (if sel = 0 ∧ (c.st = .halted ∧ c.settled = true ∨ c.st = .saved) then s.sweep e.f.core e.cid e.h e.asid else s))) ∧
     (Performs s e (.ctxwr h b) h → s.reaches e.vf cid = false → exec (.ctxwr h b) s = .next (e.next h 1 s)) ∧
     (∀ c, Performs s e (.ctxwr h b) h → s.ctx cid = some c → s.reaches e.vf cid = true → ∃ u d, exec (.ctxwr h b) s = .next (e.next h 1 u) ∧
       u.ctx cid = some d ∧ (sel = 4 → d = { c with prio := min ((e.u64 b.tsb).toNat % 8) (s.fn c.vf).ceil.toNat }) ∧
       (sel ≠ 4 → (c.st = .halted ∨ c.st = .saved) → d = { c with step := (e.u64 b.tsb).getLsbD 0, bkptNop := (e.u64 b.tsb).getLsbD 1 }) ∧
       (sel ≠ 4 → c.st ≠ .halted → c.st ≠ .saved → d = c))) ∧
    (∀ t p u, let acc : Accept := ⟨[0], some .aperture, false⟩
     e.early acc 64 64 (.va (e.u64 b.tsa)) = none → e.translate s .store acc (e.u64 b.tsa) = (t, .ok p) →
     (t.popEvent e.vf = (u, none) → (Performs s e (.evpop h b) h → exec (.evpop h b) s = .next (gives 0 u)) ∧
       (Performs s e (.evpopWait h b) h → exec (.evpopWait h b) s = .next (e.waits .event u))) ∧
     (∀ r n, t.popEvent e.vf = (u, some (r, n)) →
       let v : State := gives (BitVec.ofNat 32 (2 ^ 31 + n)) ((e.storeAt (e.u64 b.tsa) 64 r p u).sweep e.f.core e.cid e.h e.asid)
       (Performs s e (.evpop h b) h → exec (.evpop h b) s = .next v) ∧ (Performs s e (.evpopWait h b) h → exec (.evpopWait h b) s = .next v))) ∧
    (let forms (i : Instr) (inv : Bool) : Prop :=
       let a : MaintArgs := e.maintArgs b
       let t : State := e.writeBack (if a.scope = 2 then s else (s.asidEntry none a.asid).1)
       (∀ id, Performs s e i h → e.sp.wait = .maintain id → s.maint id = none → exec i s = .next (e.next h 1 s)) ∧
       (∀ id m, Performs s e i h → e.sp.wait = .maintain id → s.maint id = some m → exec i s = .next (e.waits (.maintain id) s)) ∧
       (Performs s e i h → (∀ id, e.sp.wait ≠ .maintain id) → (a.scope = 0 → canonical a.base = true ∧ upperHalf a.base = false) →
         (a.scope = 2 ∨ e.vf = 0 ∨ asidVf (s.asidEntry none a.asid).2 = e.vf) →
         let busy : Prop := t.inFlight e.f.core e.asid = true ∨ ∃ r ∈ t.reqs, r.core = e.f.core ∧ r.cid = e.cid ∧ r.h = e.h
         (busy → exec i s = .next (e.waits .access t)) ∧
         (¬ busy → a.scope = 0 → a.count = 0 → exec i s = .next (e.next h 1 t)) ∧
         (¬ busy → (a.scope = 0 → a.count ≠ 0) → ∃ u m, exec i s = .next (e.waits (.maintain t.nextReq) u) ∧ m ∈ u.maints ∧
           m.id = t.nextReq ∧ m.inv = inv ∧ a.scope ≤ m.scope ∧ m.asid = a.asid ∧ a.range ∈ m.ranges ∧ m.vf = e.vf ∧ m.owner = .split e.f ∧
           (t.maints = [] → m.scope = a.scope ∧ m.ranges = [a.range] ∧ m.started = true ∧ m.left = t.recipients ∧ m.unacked = t.recipients ∧
             u.todo = t.todo ++ t.recipients.map fun r => if inv then .tlbinvReceive t.nextReq r else .mapqNoticeReceive t.nextReq r))) ∧
       (Performs s e i h → (∀ id, e.sp.wait ≠ .maintain id) → a.scope = 0 → canonical a.base = false →
         exec i s = .next (e.take { code := .nonCanonical, fva := a.base &&& 0x01FFFFFFFFFFFFFF } s))
     forms (.tlbinvRange h b) true ∧ forms (.tlbinvAsid h b) true ∧ forms (.tlbinvFn h b) true ∧
     forms (.mapqRange h b) false ∧ forms (.mapqAsid h b) false ∧ forms (.mapqFn h b) false) ∧
    (let forms (i : Instr) (go : Prop) (works : Ctx → Prop) (after : CtxSt → Prop) : Prop :=
       (Performs s e i h → s.reaches e.vf cid = false → exec i s = .next (gives 2 s)) ∧
       (Performs s e i h → s.reaches e.vf cid = true → cid = e.cid → exec i s = .next (gives 1 s)) ∧
       (∀ c, Performs s e i h → s.ctx cid = some c → s.reaches e.vf cid = true → cid ≠ e.cid → (∀ f ∈ c.waiters, f = e.f) → go → works c →
         ∃ u d, exec i s = .next (gives 0 u) ∧ u.ctx cid = some d ∧ after d.st ∧ d.waiters = [])
     forms (.haltcHalt h b) True (fun c => c.st = .halted) (fun x => x = .halted) ∧
     forms (.haltcResume h b) (e.releaseReady s = true) (fun c => c.st = .halted) (fun x => x = .running ∨ x = .placing ∨ x = .halting) ∧
     forms (.haltcKill h b) True (fun c => c.st = .halted ∨ c.st = .saved ∨ c.st = .killed) (fun x => x = .killed) ∧
     (∀ i c, Performs s e i h → s.ctx cid = some c → s.reaches e.vf cid = true → cid ≠ e.cid → (∀ f ∈ c.waiters, f = e.f) →
       (i = .haltcHalt h b ∧ (c.st = .saved ∨ c.st = .restoring ∨ c.st = .killed)) ∨
         (i = .haltcResume h b ∧ e.releaseReady s = true ∧ c.st ≠ .halted) →
       ∃ u d, exec i s = .next (gives 1 u) ∧ u.ctx cid = some d ∧ d.st = c.st) ∧
     (∀ c, Performs s e (.haltcHalt h b) h → s.ctx cid = some c → s.reaches e.vf cid = true → cid ≠ e.cid → (∀ f ∈ c.waiters, f = e.f) →
       (c.st = .running ∨ c.st = .placing) → ∃ u d, exec (.haltcHalt h b) s = .next (e.waits (.haltc cid) u) ∧ u.ctx cid = some d ∧
         d.st = .halting ∧ d.first = some .haltRequest ∧ u.todo = s.todo ++ c.rect.cores.map fun n => .haltLineArrival cid n))

/-! ## The memory system -/

/-- R54, R49, R55, R56, R58, R103, R430, R431: an operation that reaches its home or its bank is performed there once and is in flight no more.
At a line of memory that its set has a way for, a read fetches the line and its answer goes back, a fill brings it to the L1, a registration makes the core an owner, a write-back merges its
dirty bytes and ends its ownership, an atomic and a reduction replace the bytes they name, and device memory is as it was; a bank reads or
writes the Atrium. Another owner whose registered bytes a write-back covers is recalled first, and the written bytes stand. One whose die is
in reset stays in flight; at its age limit it is returned and counted, and its source sends it again a microsecond later.
Where the spec leaves it open this rests on the model's choice, log entries 9, 49, 80, 81. -/
def Obligations.HomesAndBanks : Prop :=
  ∀ (s : State) (id : Nat) (r : Req), s.req id = some r →
    let old (ln : Nat) : Line := match lookup s.l2 ln with | some l => l.data | none => Mem.line s.dram ln
    let free (ln : Nat) : Prop := isImageLn ln = false ∧ s.hasWay ln = true
    let quiet (ln : Nat) : Prop := free ln ∧ ∀ l, lookup s.l2 ln = some l → l.owners = []
    let done (i : Instr) : Prop := ∃ t, exec i s = .next t ∧ t.req id = none
    let ends (i : Instr) (p : State → Prop) : Prop := ∃ t, exec i s = .next t ∧ t.req id = none ∧ t.dram = s.dram ∧ p t
    let holds (t : State) (ln : Nat) (x : Line) (dirty : Bool) : Prop := ∃ l, lookup t.l2 ln = some l ∧ l.data = x ∧ (dirty = true → l.dirty = true)
    (s.mayServe r = true →
      done (.l2Registration id) ∧ done (.l2WritebackMerge id) ∧ done (.l2Atomic id) ∧
      ((∀ seq, r.dst ≠ .copy seq) → done (.l2Reduction id) ∧ done (.atriumBankOperation id)) ∧
      (∀ core asid ln vunit toL1 cmp tier low, r.op = .read core asid ln vunit toL1 cmp tier low → quiet ln →
        ∃ t, exec (.l2Read id) s = .next t ∧ t.req id = some { r with op := .fill core asid ln vunit toL1 cmp tier low (old ln) } ∧ t.dram = s.dram ∧
          holds t ln (old ln) false ∧ (t.core core).l1 = (s.core core).l1 ∧ t.todo = s.todo ++ [.l2Read id]) ∧
      (∀ core asid ln vunit toL1 cmp tier low x, r.op = .fill core asid ln vunit toL1 cmp tier low x →
        ends (.l2Read id) fun t => t.l2 = s.l2 ∧ (toL1 = true → ∃ y, findL1 (t.core core).l1 asid ln = some y ∧ y.valid = BitVec.allOnes 128 ∧
          (findL1 (s.core core).l1 asid ln = none → y.data = x))) ∧
      (∀ core asid ln x, r.op = .register core asid ln → findL1 (s.core core).l1 asid ln = some x → x.st ≠ .c → quiet ln →
        ends (.l2Registration id) fun t => (∃ l, lookup t.l2 ln = some l ∧ l.owners = [(core, asid, x.dirty)]) ∧
          ∃ y, findL1 (t.core core).l1 asid ln = some y ∧ y.st = .dr ∧ y.reg = x.dirty ∧ y.data = x.data) ∧
      (∀ core asid x, r.op = .writeback core asid x → free x.line →
        ends (.l2WritebackMerge id) fun t => (∃ l, lookup t.l2 x.line = some l ∧ l.dirty = true ∧ mergeBytes x.dirty x.data l.data = l.data ∧
            ∀ o ∈ l.owners, ¬ (o.1 = core ∧ o.2.1 = x.asid)) ∧
          ((∀ l, lookup s.l2 x.line = some l → ∀ o ∈ l.owners, (o.1 = core ∧ o.2.1 = x.asid) ∨ o.2.2 &&& x.dirty = 0) →
            holds t x.line (mergeBytes x.dirty x.data (old x.line)) true)) ∧
      (∀ ln off wide op ty a b cmp tier, r.op = .atomic ln off wide op ty a b cmp tier → quiet ln →
        let n : Nat := if wide then 8 else 4
        ends (.l2Atomic id) fun t => holds t ln (mergeBytes (rangeMask off n) (bytesAt off
          (alu op ty (8 * n) (lineBytes (old ln) off n) (a.toNat % 2 ^ (8 * n)) (b.toNat % 2 ^ (8 * n)))) (old ln)) true) ∧
      (∀ ln x m op ty cmp tier, r.op = .reduce ln x m op ty cmp tier → quiet ln → (∀ seq, r.dst ≠ .copy seq) →
        ends (.l2Reduction id) fun t => holds t ln (mergeBytes m (BitVec.ofNat 1024 (aluWords op ty 32 (old ln).toNat x.toNat)) (old ln)) true) ∧
      (∀ off n, r.op = .bankLoad off n → ends (.atriumBankOperation id) fun t => t.atrium = s.atrium) ∧
      (∀ off bytes, r.op = .bankStore off bytes → ends (.atriumBankOperation id) fun t => t.atrium = Mem.writeBytes s.atrium off bytes) ∧
      (∀ off wide op ty a b, r.op = .bankAtomic off wide op ty a b →
        let n : Nat := if wide then 8 else 4
        ends (.atriumBankOperation id) fun t => t.atrium = Mem.writeN s.atrium off n
          (alu op ty (8 * n) (Mem.readN s.atrium off n) (a.toNat % 2 ^ (8 * n)) (b.toNat % 2 ^ (8 * n)))) ∧
      (∀ off op ty x, r.op = .bankLine off op ty x → (∀ seq, r.dst ≠ .copy seq) → ends (.atriumBankOperation id) fun t =>
        t.atrium = Mem.writeN s.atrium off 64 (aluWords op ty 16 (Mem.readN s.atrium off 64) x.toNat))) ∧
    (r.nak = false → s.destState r = .inReset →
      exec (.l2Read id) s = .next s ∧ exec (.l2Registration id) s = .next s ∧ exec (.l2WritebackMerge id) s = .next s ∧
      exec (.l2Atomic id) s = .next s ∧ exec (.l2Reduction id) s = .next s ∧ exec (.atriumBankOperation id) s = .next s ∧
      (ageLimit ≤ s.time - r.sent →
        ∃ t, exec (.flitAgeLimit id) s = .next t ∧ t.req id = some { r with nak := true, again := true, sent := s.time } ∧
          (t.die (hallOf r.core)).cnak = (s.die (hallOf r.core)).cnak + 1) ∧
      (s.time - r.sent < ageLimit → exec (.flitAgeLimit id) s = .next s)) ∧
    (r.nak = false → s.destState r ≠ .inReset → exec (.flitAgeLimit id) s = .next s) ∧
    (r.nak = true → resendAfter ≤ s.time - r.sent →
      ∃ t, exec (.nakResend id) s = .next t ∧ t.req id = some { r with nak := false, sent := s.time } ∧ t.todo = s.todo ++ [r.event]) ∧
    (r.nak = true → s.time - r.sent < resendAfter → exec (.nakResend id) s = .next s)

/-- R50, R63, R28, R224, R221, R170, R241, R243, R33: a forward makes a DR line clean and its bytes the home's; a controller request fills a line or
writes back a dirty one; a walk installs its leaf and ends every walk the leaf covers (one that only requests that fault on no translation
wait for, only where they could use it), and one that fails marks the page for the splits that wait; a code line whose parity matches enters the instruction cache; a register line enters its cache; a result is written to the
lanes of its mask and is owed no more; a held fault record goes when its destination has room.
Where the spec leaves it open this rests on the model's choice, log entries 12, 14, 20, 50, 80. -/
def Obligations.CoreServices : Prop :=
  (∀ (s : State) (core asid line : Nat) (x : L1Line), findL1 (s.core core).l1 asid line = some x →
    (x.st = .dr → isImageLn line = false → (∀ r ∈ s.reqs, ∀ c a l, r.op ≠ .writeback c a l) → ∃ t y l, exec (.l1ForwardRequest core asid line) s = .next t ∧
      findL1 (t.core core).l1 asid line = some y ∧ y.st = .c ∧ y.dirty = 0 ∧ y.data = x.data ∧ lookup t.l2 x.line = some l ∧
      l.data = mergeBytes x.dirty x.data (match lookup s.l2 x.line with | some l => l.data | none => Mem.line s.dram x.line)) ∧
    (x.st ≠ .dr → exec (.l1ForwardRequest core asid line) s = .next s)) ∧
  (∀ (s : State) (line : Nat), s.region (128 * line) ≠ none → s.homeState line = .good →
    (lookup s.l2 line = none → ∃ t l, exec (.memoryControllerRequest line false) s = .next t ∧ lookup t.l2 line = some l ∧
      l.dirty = false ∧ (s.hasWay line = true → l.data = Mem.line s.dram line ∧ t.dram = s.dram)) ∧
    (∀ l, lookup s.l2 line = some l → l.owners = [] → ∃ t, exec (.memoryControllerRequest line true) s = .next t ∧ t.l2 = remove s.l2 line ∧
      t.dram = if l.dirty then Mem.setLine s.dram line l.data else s.dram)) ∧
  (∀ (s u : State) (core asid page : Nat) (m : Miss), ((s.core core).misses.find? fun m => m.asid == asid && m.page == page) = some m →
    (∀ e, s.walk (some core) asid (BitVec.ofNat 64 (page * 262144)) = (u, .leaf e) →
      (m.quiet = false ∨ u.usable core e (BitVec.ofNat 64 (page * 262144)) = true) → ∃ t, exec (.pageWalk core asid page) s = .next t ∧
      (t.core core).tlb1.head? = some e ∧ ∀ m ∈ (t.core core).misses, e.covers m.asid (BitVec.ofNat 64 (m.page * 262144)) = false) ∧
    (∀ c, s.walk (some core) asid (BitVec.ofNat 64 (page * 262144)) = (u, .fault c) → ∃ t, exec (.pageWalk core asid page) s = .next t ∧
      (t.core core).tlb1 = (u.core core).tlb1 ∧ (∀ m ∈ (t.core core).misses, ¬ (m.asid = asid ∧ m.page = page)) ∧
      (m.quiet = false → ∀ f e, Env.of u f = some e → f.core = core → e.bind.asid = asid → (e.sp.wait = .access ∨ e.sp.wait = .fetch) →
        ∃ e', Env.of t f = some e' ∧ lookup e'.sp.badPages page = some c ∧ e'.sp.asleep = false))) ∧
  (∀ (s u : State) (core asid : Nat) (va : W64) (e : TlbEnt) (l : BitVec 512), (s.core core).findTlb asid va = some e → leafType e.leaf = 0 →
    s.readCode (e.pa va / 64 * 64) = (u, l) → lineParity l = linePar l →
    ∃ t, exec (.instructionLineFill core asid va) s = .next t ∧ (t.core core).findLine asid va = some l ∧ (t.core core).icache.length ≤ 1024) ∧
  (∀ (s : State) (core : Nat) (line : RegLine), (line ∈ (s.core core).regLines → exec (.registerLineFill core line) s = .next s) ∧
    (line ∉ (s.core core).regLines → (s.core core).regLines.length < 4096 → ∃ t, exec (.registerLineFill core line) s = .next t ∧
      (t.core core).regLines = line :: (s.core core).regLines)) ∧
  (∀ (s : State) (core slot id k r h p : Nat) (b : Bind) (fr : Frame) (m q : Mask) (x : Lanes) (tag : BitVec 4),
    lookup (s.core core).slots slot = some b → b.frame = some h → s.frame b.cid h = some fr →
    (fr.group.results = [⟨id, k, false, none, [.vec r m x tag], false⟩] → ∃ t fr', exec (.variableResultWrite core slot id) s = .next t ∧
      t.frame b.cid h = some fr' ∧ fr'.group.results = [] ∧ (fr'.group.vreg r).tag = tag ∧
      ∀ l, l < 32 → lane (fr'.group.vreg r).lanes l = if m.getLsbD l then lane x l else lane (fr.group.vreg r).lanes l) ∧
    (∀ due, fr.group.results = [⟨id, k, true, some due, [.pred p m q], false⟩] → p < 7 → due ≤ s.ac →
      ∃ t fr', exec (.fixedLatencyResultWrite core slot id) s = .next t ∧ t.frame b.cid h = some fr' ∧ fr'.group.results = [] ∧
      fr'.group.pred p = (fr.group.pred p &&& ~~~m) ||| (q &&& m)) ∧
    (∀ due, fr.group.results = [⟨id, k, true, some due, [.pred p m q], false⟩] → s.ac < due → ∃ t fr', exec (.fixedLatencyResultWrite core slot id) s = .next t ∧
      t.frame b.cid h = some fr' ∧ fr'.group.results = fr.group.results ∧ fr'.group.p = fr.group.p)) ∧
  (∀ (s : State) (core : Nat) (r : FaultRec), (s.core core).held = [r] → ∃ t, exec (.faultRecordHeldPost core) s = .next t ∧
    (t.core core).held = if (s.deliverFault core r).2 then [] else [r])

/-! ## Engines, frames and slots -/

/-- R140, R141, R145, R150, R154, R155, R115, R116, R80, R82: the CE starts a lattice copy that is sound, and one that is not ends with cause
LATTICE; a beat moves its bytes and counts them, and credits a barrier in the Alcove with its leaf signature first; for a barrier in the
Atrium four line ORs take the signature there, and CPYR sends its reduction to its home, and the beat is counted once the last of these has
been performed; a replayable fault parks the copy at its beat; after the last beat the copy completes: its record goes, its tag's count
falls and takes its signature, and its status word, which has the layout of R154, is in its register; with a follow-on the last beat is
credited then. A store through a lattice reaches memory alone; the reserve operation of the feedback ring takes the next entry or counts a
drop, one whose header's Hall is withdrawn is counted in FB_UNREACH, and the entry is written at its place.
Where the spec leaves it open this rests on the model's choice, log entries 19, 29, 82, 85. -/
def Obligations.CopyAndFeedbackSteps : Prop :=
  (∀ (s t : State) (core seq : Nat) (r : CopyRec) (a : Agent), s.copyRec core seq = some r → s.copyActive core r = true →
    s.agent core r.cid r.crew = some a →
    (∀ x, r.kind = .cpyt → r.lattice = [] → (r.st = .queued ∨ r.st = .running) →
      let m : W64 := if r.store then r.dst else r.src
      let al : W64 := if r.store then r.src else r.dst
      a.read ⟨[0], some .aperture, false⟩ m 192 s = (t, .ok x) →
      let bytes : List Byte := (List.range 192).map fun k => BitVec.ofNat 8 (x / 2 ^ (8 * k))
      ((latOf bytes).sound r.store r.coords (a.alcSize - (al.toNat - alcoveBase.toNat)) = true → ∃ u y, exec (.copyLatticeStart core seq) s = .next u ∧
        u.copyRec core seq = some y ∧ y.lattice = bytes ∧ y.len = (latOf bytes).nominal r.coords ∧ y.st = .running ∧
        u.todo = t.todo ++ [.copyBeat core seq]) ∧
      ((latOf bytes).sound r.store r.coords (a.alcSize - (al.toNat - alcoveBase.toNat)) = false →
        exec (.copyLatticeStart core seq) s = .next (t.copyFatal a r 0x12 0 m))) ∧
    ((r.st = .queued ∨ r.st = .running) → (r.kind = .cpyt → r.lattice ≠ []) → r.done < r.len → r.beat = none →
      (∀ f, a.beat r s = (t, .error f) → f.code.replayable = true → f.code ≠ .vfViolation → ∃ v y, exec (.copyBeat core seq) s = .next v ∧
        v.copyRec core seq = some y ∧ y.st = .parked ∧ y.done = r.done ∧ y.pages = [lookupPage f.va] ∧ v.dram = t.dram ∧ v.atrium = t.atrium) ∧
      (∀ b va u p, r.kind ≠ .cpyr → a.beat r s = (t, .ok b) → b.dst = some va →
        let acc : Accept := if r.kind = .cpyt ∧ r.store = true then Accept.lattice else .any
        let w : State := ({ a with job := some ⟨r.crew, false, r.seq, r.tag⟩ } : Agent).writeAt p b.n b.val u
        let σ : SigBits := r.sig ||| placeSig p
        (r.bar = none → a.place .store acc va t = (u, .ok p) → ∃ v y, exec (.copyBeat core seq) s = .next v ∧
          v.copyRec core seq = some y ∧ y.done = r.done + b.n ∧ v.dram = w.dram ∧ v.atrium = w.atrium ∧
          (y.done < r.len → y.st = .running ∧ v.todo = w.todo ++ [.copyBeat core seq]) ∧
          (r.len ≤ y.done → r.follow = none → y.st = .done ∧ y.fault = none ∧ v.todo = w.todo ++ [.copyComplete core seq])) ∧
        (∀ vb t' c x, r.bar = some vb → a.barPlace vb t = (t', .ok (.alcove c x)) → a.place .store acc va t' = (u, .ok p) →
          (r.done + b.n < r.len ∨ r.follow = none) →
          let o : State := w.orSig (.alcove c x) 64 σ
          let k : Bar × Bool := (o.bar (.alcove c x)).credit b.n r.bphase
          (k.2 = true → k.1.trapov = false) → ∃ v y, exec (.copyBeat core seq) s = .next v ∧ v.copyRec core seq = some y ∧ y.done = r.done + b.n ∧
            y.overrun = (r.overrun || k.2) ∧ v.dram = w.dram ∧ v.atrium = w.atrium ∧
            (v.core c).alcove = ((o.setBar (.alcove c x) k.1).core c).alcove) ∧
        (∀ vb t' off, r.bar = some vb → a.barPlace vb t = (t', .ok (.atrium off)) → a.place .store acc va t' = (u, .ok p) →
          (r.done + b.n < r.len ∨ r.follow = none) → core ≠ lateCore → ∃ v y l, exec (.copyBeat core seq) s = .next v ∧ v.copyRec core seq = some y ∧
            y.done = r.done ∧ y.beat = some ⟨b.n, placeSig p, some (.atrium off), b.filled, true⟩ ∧ v.dram = w.dram ∧ v.atrium = w.atrium ∧
            v.reqs = w.reqs ++ l ∧ (∀ q ∈ l, q.core = core ∧ q.dst = .copy seq) ∧
            l.map (·.op) = (List.range 4).map fun i => ReqOp.bankLine (off + 64 + 64 * i) 4 4 (σ.extractLsb' (512 * i) 512))) ∧
      (∀ b va u pa cmp tier leaf, r.kind = .cpyr → r.bar = none → core ≠ lateCore → a.beat r s = (t, .ok b) → b.dst = some va →
        a.place .store ⟨[0, 1, 2], some .aperture, true⟩ va t = (u, .ok (.mem pa cmp tier leaf)) → ∃ v y q, exec (.copyBeat core seq) s = .next v ∧
          v.copyRec core seq = some y ∧ y.done = r.done ∧ y.beat = some ⟨b.n, sigOf (pa / 128), none, false, false⟩ ∧ v.reqs = u.reqs ++ [q] ∧
          q.op = .reduce (pa / 128) (bytesAt (pa % 128) b.val) (rangeMask (pa % 128) b.n) r.rop r.rtype cmp tier ∧ q.dst = .copy seq ∧
          v.todo = u.todo ++ [.l2Reduction u.nextReq])) ∧
    (r.st = .done → (r.follow = none ∨ r.fault ≠ none ∨ r.bar = none) → ∀ c k x,
      s.ctx r.cid = some c → c.crew r.crew = some k → k.tag r.tag = some x → ∃ u c' k' x', exec (.copyComplete core seq) s = .next u ∧
      u.copyRec core seq = none ∧ u.ctx r.cid = some c' ∧ c'.crew r.crew = some k' ∧ k'.tag r.tag = some x' ∧ x'.count = x.count - 1 ∧
      x'.sig = x.sig ||| r.sig ∧ u.dram = s.dram ∧ u.atrium = s.atrium ∧
      ∀ fr o sp, s.frame r.cid r.handle = some fr → fr.group.results = [] → r.statVec = none → o.isVec = false → o.reg < 64 →
        (fr.group.owed.find? fun o => o.engine == false && o.seq == seq) = some o → fr.group.split o.split = some sp →
        ∃ fr' sp', u.frame r.cid r.handle = some fr' ∧ fr'.group.split o.split = some sp' ∧ sp'.ureg o.reg = r.status) ∧
    (∀ va c x, r.st = .done → r.follow ≠ none → r.fault = none → r.bar = some va → a.barPlace va s = (s, .ok (.alcove c x)) →
      let o : State := s.orSig (.alcove c x) 64 r.sig
      let k : Bar × Bool := (o.bar (.alcove c x)).credit r.lastBeat r.bphase
      (k.2 = true → k.1.trapov = false) → ∃ u, exec (.copyComplete core seq) s = .next u ∧ u.copyRec core seq = none ∧
        (u.core c).alcove = ((o.setBar (.alcove c x) k.1).core c).alcove)) ∧
  (∀ r : CopyRec, r.tag < 64 → r.status = (0#10 ++ BitVec.ofNat 6 r.tag ++ (match r.fault with | some (c, _) => c | none => 0#8) ++
    BitVec.ofBool r.replayed ++ BitVec.ofBool r.overrun ++ BitVec.ofBool r.filled ++ BitVec.ofBool r.clamped ++
    (if r.fault.isSome then 1#4 else 0#4))) ∧
  (∀ (s : State) (id core seq : Nat) (q : Req) (r : CopyRec) (b : SentBeat) (a : Agent), s.req id = some q → q.core = core → q.dst = .copy seq →
    s.mayServe q = true → s.copyRec core seq = some r → r.beat = some b → r.st ≠ .done → s.agent core r.cid r.crew = some a →
    (∀ x ∈ s.reqs, x.id ≠ id → ¬ (x.core = core ∧ x.dst = .copy seq)) →
    (∀ ln x m op ty cmp tier, q.op = .reduce ln x m op ty cmp tier → b.signed = false → b.bar = none → ∃ t y, exec (.l2Reduction id) s = .next t ∧
      t.copyRec core seq = some y ∧ y.done = r.done + b.n ∧ y.beat = none ∧ y.sig = r.sig ||| b.sig) ∧
    (∀ off op ty x, q.op = .bankLine off op ty x → b.signed = true → ∃ t y, exec (.atriumBankOperation id) s = .next t ∧
      t.copyRec core seq = some y ∧ y.done = r.done + b.n ∧ y.beat = none)) ∧
  (∀ (s : State) (id off : Nat) (r : Req) (key : FbKey) (status : Nat), s.req id = some r → r.op = .fbReserve off key status → s.memWf = true →
    (s.destState r = .withdrawn → ∃ t, exec (.feedbackReserve id) s = .next t ∧ t.atrium = s.atrium ∧
      (t.core r.core).fbUnreach = (s.core r.core).fbUnreach + 1) ∧
    (s.mayServe r = true →
    let tail : Nat := Mem.readN s.atrium off 4
    let head : Nat := Mem.readN s.atrium (off + 4) 4
    let logn : Nat := Mem.readN s.atrium (off + 14) 1
    Mem.readN s.atrium (off + 12) 1 % 2 = 1 → 4 ≤ logn → logn ≤ 16 →
    ((tail + 2 ^ 32 - head) % 2 ^ 32 < 2 ^ logn → ∃ t, exec (.feedbackReserve id) s = .next t ∧ Mem.readN t.atrium off 4 = (tail + 1) % 2 ^ 32 ∧
      Mem.readN t.atrium (off + 4) 8 = Mem.readN s.atrium (off + 4) 8 ∧ .feedbackEntryWrite s.nextReq ∈ t.todo) ∧
    (2 ^ logn ≤ (tail + 2 ^ 32 - head) % 2 ^ 32 → ∃ t, exec (.feedbackReserve id) s = .next t ∧
      Mem.readN t.atrium (off + 8) 4 = min (Mem.readN s.atrium (off + 8) 4 + 1) 0xFFFFFFFF ∧ Mem.readN t.atrium off 8 = Mem.readN s.atrium off 8 ∧
      Mem.readN t.atrium (off + 12) 1 = Mem.readN s.atrium (off + 12) 1 ||| 2))) ∧
  (∀ (s u : State) (id off index status logn a : Nat) (r : Req) (key : FbKey) (base : W64) (c : Ctx) (x : TRes), s.req id = some r →
    r.op = .fbWrite off index key status logn base → r.nak = false → s.ctx r.cid = some c →
    let va : W64 := base + BitVec.ofNat 64 (16 * (index % 2 ^ logn))
    canonical va = true → upperHalf va = false → inAlcove va = false →
    s.xlate r.core r.asid (s.ctxVf r.core c) (s.ctxSup r.core c) .store .atrium va = (u, x) → atriumOff x = some a →
    s.openSt (a / 33554432 % 2) ≠ .inReset → u.memWf = true →
    ∃ t, exec (.feedbackEntryWrite id) s = .next t ∧ Mem.readN t.atrium (a / 16 * 16) 16 = fbEntry key status r.core index % 2 ^ 128 ∧
      (t.core r.core).filter.head? = some key)

/-- R174, R183, R270, R107, R194, R319: when every split stands at a JOIN, and those at one PC that may merge have merged, the one with the
lowest PC is released, and none while two stand at that PC; a slot that a launch reserved binds
the first ready frame of its context; a group that has released leaves its slot and its frame is complete; a child's completion takes
one off its parent's count; a group that may be evicted gives up its slot; a complete Banister phase advances modulo 65,536.
Where the spec leaves it open this rests on the model's choice, log entries 27, 44, 76. -/
def Obligations.FrameSteps : Prop :=
  (∀ (s : State) (core slot h : Nat) (b : Bind) (fr : Frame), lookup (s.core core).slots slot = some b → b.frame = some h → s.frame b.cid h = some fr →
    (let g : Group := Group.normalise s.ac 68 (fr.group.commitDue s.ac)
     ∃ t fr', exec (.joinRelease core slot) s = .next t ∧ t.frame b.cid h = some fr' ∧
     ((∀ k sp, g.split k = some sp → sp.wait = .join) → g.stack = [] → ∀ k sp, g.split k = some sp →
      ((∀ j q, j ≠ k → g.split j = some q → sp.pc < q.pc) →
        fr'.group.split k = some { sp with wait := .none, asleep := false, unfinished := some 0, sbit := true } ∧
        ∀ j, j ≠ k → fr'.group.split j = g.split j) ∧
      ((∀ j q, g.split j = some q → sp.pc ≤ q.pc) → (∃ j q, j ≠ k ∧ g.split j = some q ∧ q.pc = sp.pc) → fr'.group = g)) ∧
     ((∃ k sp, g.split k = some sp ∧ sp.wait ≠ .join) → fr'.group = g)) ∧
    (∀ c, s.ctx b.cid = some c → fr.group.exit = .releasing → s.released core c.asid fr.sig = true → b.extra = false → rising c.frames = true → ∃ t,
      exec (.awaitComplete core slot) s = .next t ∧ lookup (t.core core).slots slot = some { b with frame := none } ∧
      ∀ fr', t.frame b.cid h = some fr' → fr'.st = .complete) ∧
    (fr.group.exit = .awaiting → s.pending fr.awb.toNat ≠ 0 → exec (.awaitComplete core slot) s = .next s) ∧
    (s.canEvict core slot b h fr = true → b.extra = false → ∃ t fr', exec (.groupEvict core slot) s = .next t ∧
      exec (.parkEvictionTimeout core slot) s = .next t ∧ lookup (t.core core).slots slot = some { b with frame := none } ∧
      t.frame b.cid h = some fr' ∧ (fr'.st = .awaiting ∨ fr'.st = .gallery)) ∧
    (s.canEvict core slot b h fr = false → exec (.groupEvict core slot) s = .next s ∧ exec (.parkEvictionTimeout core slot) s = .next s)) ∧
  (∀ (s : State) (core slot : Nat) (b : Bind) (c : Ctx) (fr : Frame) (x : FRef) (l : List FRef), lookup (s.core core).slots slot = some b →
    b.frame = none → b.commit = true → (s.core core).ready = x :: l → x.cid = b.cid → s.ctx b.cid = some c → c.st = .running →
    (c.crewOn core).isSome = true → lookup c.frames x.handle = some fr → ∃ t fr' b', exec (.slotBind core slot none) s = .next t ∧
    (t.core core).ready = l ∧ lookup (t.core core).slots slot = some b' ∧ b'.frame = some x.handle ∧ b'.cid = b.cid ∧
    t.frame b.cid x.handle = some fr' ∧ fr'.st = .running ∧ fr'.core = core ∧ fr'.slot = slot) ∧
  (∀ (s : State) (id off : Nat) (r : Req), s.req id = some r → r.op = .awaitDec off → s.mayServe r = true → s.memWf = true →
    ∃ t, exec (.awaitPendingDecrement id) s = .next t ∧ t.pending off = s.pending off - 1 ∧ t.req id = none) ∧
  (∀ (s : State) (cid tag : Nat) (c : Ctx), s.ctx cid = some c → tag < 8 →
    let at_ (k : Crew) : BanCore := (k.ban[tag]?).getD BanCore.empty
    ((∃ k ∈ c.crews, c.banReady tag (at_ k) = true) → ∃ t c', exec (.banisterPhaseRelease cid tag) s = .next t ∧ t.ctx cid = some c' ∧
      c'.banPhaseOf tag = (c.banPhaseOf tag + 1) % 65536 ∧ ∀ i, i < 8 → i ≠ tag → c'.banPhaseOf i = c.banPhaseOf i) ∧
    ((∀ k ∈ c.crews, c.banReady tag (at_ k) = false) → exec (.banisterPhaseRelease cid tag) s = .next s))

/-! ## Halts, saves and restores -/

/-- R391, R392, R396, R397, R363, R406: the halt line reaches a core; a core with nothing of the context in flight gives up its engine work and
settles; the context is halted when every core has, killed where a kill was asked for, and waits while its events have no room; a single
step halts once every split has had its one; a breach of the Corridor protocol freezes the core and halts the contexts there, or freezes the raster units or the migration engine.
Where the spec leaves it open this rests on the model's choice, log entries 53, 61, 73. -/
def Obligations.HaltSteps : Prop :=
  (∀ (s : State) (cid core : Nat) (c : Ctx), s.ctx cid = some c →
    (c.st = .halting → c.rect.has core = true → core ∉ c.arrived → ∃ t, exec (.haltLineArrival cid core) s = .next t ∧
      t.ctx cid = some { c with arrived := core :: c.arrived } ∧ t.todo = s.todo ++ [.haltSettle cid core]) ∧
    (c.st ≠ .halting → exec (.haltLineArrival cid core) s = .next s ∧ exec (.haltSettle cid core) s = .next s) ∧
    (c.st = .halting → core ∈ c.arrived → core ∉ c.settledAt → (∀ r ∈ s.reqs, r.core ≠ core ∨ r.cid ≠ cid) → ∃ t d,
      exec (.haltSettle cid core) s = .next t ∧ t.ctx cid = some d ∧ d.st = .halting ∧ d.settledAt = core :: c.settledAt ∧
      (∀ r ∈ (t.core core).ce, r.cid ≠ cid) ∧ (∀ o ∈ (t.core core).arr, o.cid ≠ cid) ∧
      ((∀ n ∈ c.rect.cores, n = core ∨ n ∈ c.settledAt) → .contextHalted cid ∈ t.todo)) ∧
    (c.st = .halting → (∃ r ∈ s.reqs, r.core = core ∧ r.cid = cid) → exec (.haltSettle cid core) s = .next s) ∧
    (c.st = .halting → (∀ n ∈ c.rect.cores, n ∈ c.settledAt) → s.eventsBlocked c.haltRing = false → ∃ t d, exec (.contextHalted cid) s = .next t ∧
      t.ctx cid = some d ∧ d.hseq = c.hseq + 1 ∧ d.first = c.first ∧ (c.killAfter = false → d.st = .halted ∧ d.settled = true) ∧ (c.killAfter = true → d.st = .killed)) ∧
    (s.eventsBlocked c.haltRing = true → exec (.contextHalted cid) s = .next s) ∧
    (c.st = .running → c.stepping = true → (c.boundSplits s).any (·.mayStep) = false → ∃ t d, exec (.stepHalt cid) s = .next t ∧ t.ctx cid = some d ∧
      d.st = .halting ∧ d.first = some .step ∧ d.stepping = false) ∧
    (c.stepping = true → (c.boundSplits s).any (·.mayStep) = true → exec (.stepHalt cid) s = .next s)) ∧
  (∀ (s : State) (core : Nat), core < 384 → (s.core core).frozen = false → ∃ t, exec (.corridorProtocolBreach core) s = .next t ∧
    (t.core core).frozen = true ∧ ∀ cid c, s.ctx cid = some c → c.st = .running → c.placed = true → c.rect.has core = true →
      (∃ x ∈ (s.core core).slots, x.2.cid = cid) → ∃ d, t.ctx cid = some d ∧ d.st = .halting ∧ d.first = some .masterFrozen) ∧
  ∀ (s : State) (i : Nat), i < 4 → (s.die i).frozen = false → ∃ t, exec (.corridorProtocolBreach (384 + i)) s = .next t ∧ (t.die i).frozen = true

/-- R401, R377, R403, R167, R400, R425, R379, R271, R321: a pre-emption sends the save line; each core stops; once nothing is in flight the context is
saved and holds no slot (killed, where what was under way violated a window); a late copy that is done leaves the late list; a restore places the saved context and then lets it run, or leaves
it halted where a fault arose (killed, where that was a violation); a split that has waited 1,024 ac is promoted; a yield ends after 16 ac; an accumulator on its core that no
operation names goes out.
Where the spec leaves it open this rests on the model's choice, log entries 43, 61, 62. -/
def Obligations.SaveAndRestoreSteps : Prop :=
  (∀ (s : State) (cid : Nat) (c : Ctx), s.ctx cid = some c →
    (∀ q, s.mayPreempt c q = true → c.st = .running → ∃ t d, exec (.preempt cid q) s = .next t ∧ t.ctx cid = some d ∧ d.st = .saving ∧ d.arrived = [] ∧
      t.todo = s.todo ++ c.rect.cores.map fun n => .saveLineArrival cid n []) ∧
    (∀ q, s.mayPreempt c q = false → exec (.preempt cid q) s = .next s) ∧
    (∀ core late, c.st = .saving → c.rect.has core = true → core ∉ c.arrived →
      let goes (r : CopyRec) : Bool := r.cid == cid && late.contains r.seq && r.st != .followOn && r.follow.isNone && r.beat.isNone
      ∃ t, exec (.saveLineArrival cid core late) s = .next t ∧ (t.core core).ce = (s.core core).ce.filter (fun r => !goes r) ∧
        t.ctx cid = some { c with arrived := core :: c.arrived, late := c.late ++ (s.core core).ce.filter goes } ∧
        t.todo = s.todo ++ [.preemptSaveComplete cid]) ∧
    (c.st = .saving → (∀ n ∈ c.rect.cores, n ∈ c.arrived) → (∀ r ∈ s.reqs, r.cid ≠ cid) →
      (c.saveStop = true → s.eventsBlocked c.haltRing = false) → ∃ t d, exec (.preemptSaveComplete cid) s = .next t ∧
      t.ctx cid = some d ∧ (c.killAfter = false → d.st = .saved ∨ (d.st = .killed ∧ ∃ n ∈ c.rect.cores, ∃ o ∈ (s.core n).arr, o.cid = cid)) ∧
      (c.killAfter = true → d.st = .killed) ∧ ∀ n ∈ c.rect.cores, ∀ x ∈ (t.core n).slots, x.2.cid ≠ cid) ∧
    (c.st = .saving → (∃ r ∈ s.reqs, r.cid = cid) → exec (.preemptSaveComplete cid) s = .next s) ∧
    (c.st = .saving → c.saveStop = true → s.eventsBlocked c.haltRing = true → exec (.preemptSaveComplete cid) s = .next s) ∧
    (∀ seq r k x, c.st = .saved → (c.late.find? fun y => y.seq == seq) = some r → c.crew r.crew = some k →
      let a : Agent := ⟨lateCore, cid, c.vf, c.asid, c.sup, 0, 1024 * k.alcSize, none⟩
      let work : Core := { Core.empty with alcove := (lookup c.alcoves r.crew).getD [], ce := [r.again] }
      ((((State.lateBeats a seq (r.len + 192) (s.setCore lateCore work)).core lateCore).ce.find? fun y => y.seq == seq) = some x) → x.st = .done →
      x.crew = r.crew → s.eventsBlocked c.vf = false → s.eventsBlocked 0 = false → ∃ t d, exec (.copyLateCompletion cid seq) s = .next t ∧ t.ctx cid = some d ∧
        (∀ y ∈ d.late, ¬ (y.seq = seq ∧ y.crew = r.crew)) ∧ .contextRestore cid .fromRecord ∈ t.todo) ∧
    (∀ x y o, let r : Rect := ⟨x, y, c.rect.w, c.rect.h⟩
      c.cid = cid → c.st = .saved → c.late = [] →
      ((o = .at x y ∧ ((s.fn c.vf).dsr.getLsbD 0 = true → c.handler = true)) ∨ (o = .fromRecord ∧ c.reqOpen = false ∧ c.restoreTo = some (x, y))) →
      s.rectGood r = true → s.slotsReady c r = true → (s.restoreRoom c r).isSome = true → ∃ t d, exec (.contextRestore cid o) s = .next t ∧
        t.ctx cid = some d ∧ d.st = .restoring ∧ d.rect = r ∧ .contextRestore cid .fromRecord ∈ t.todo) ∧
    (∀ o, c.st = .restoring → ∃ t d, exec (.contextRestore cid o) s = .next t ∧ t.ctx cid = some d ∧
      (c.saveStop = true → (c.killAfter = false → d.st = .halted ∧ d.settled = true) ∧ (c.killAfter = true → d.st = .killed)) ∧ (c.saveStop = false → d.st = .running ∨ d.st = .halting)) ∧
    (∀ crew k acc, c.crew crew = some k →
      ((cid, crew, acc) ∈ (s.core k.core).accsIn → (∀ o ∈ (s.core k.core).arr, o.cid = cid → o.crew = crew → acc ∉ (o.tiles k).2) →
        ∃ t d, exec (.accumulatorEvict cid crew acc) s = .next t ∧ (cid, crew, acc) ∉ (t.core k.core).accsIn ∧ t.ctx cid = some d ∧
          d.crew crew = some { k with accOut := k.accOut.filter (· != acc) ++ [acc] }) ∧
      ((cid, crew, acc) ∉ (s.core k.core).accsIn → exec (.accumulatorEvict cid crew acc) s = .next s))) ∧
  (∀ (s : State) (core slot split : Nat) (e : Env), Env.of s ⟨core, slot, split⟩ = some e →
    (e.sp.asleep = false → e.sp.wait = .none → 1024 ≤ s.ac - e.sp.readySince →
      exec (.issuePromotion core slot split) s = .next (e.modSplit s fun sp => { sp with promoted := true })) ∧
    (s.ac - e.sp.readySince < 1024 → exec (.issuePromotion core slot split) s = .next s) ∧
    (∀ n, e.sp.wait = .yield n → exec (.yieldExpiry core slot split) s =
      .next (if 16 ≤ s.ac - n then e.modSplit s fun sp => { sp with wait := .none, asleep := false } else s)))

/-! ## The Porters -/

/-- R373, R374, R443, R375, R376, R44, R182, R111, R384, R377, R383: a Porter takes a record, and refuses a malformed one with cause 1, and every one with cause 4 where both Halls are withdrawn; an admitted launch gets
its place; a crew reserves what it needs and commits, at once where the launch is no gang; its groups start at their entry PCs with all
lanes, the argument in s1:s0 and the Alcove zero; a crew with nothing left to do is complete; a handler is launched for a waiting event;
served times and budgets begin again with each window of 1 ms and of 16 ms; held events go to their ring as it has room. A Porter whose
events cannot be held waits.
Where the spec leaves it open this rests on the model's choice, log entries 58, 59, 60, 90. -/
def Obligations.SchedulerSteps : Prop :=
  (∀ (s t u : State) (hall : Nat) (p : Pick) (x : Nat), s.qtb.getLsbD 0 = true → State.selectFrom (s.queuesOf hall) none s = (t, some p) →
    t.readMem (p.ring + 128 * (p.head.toNat % 2 ^ p.logn)) 128 = (u, x) →
    let v : State := u.writeMem (u.queueAt p.q + 16) 4 (p.head + 1).toNat
    exec (.porterRecordSelect hall) s =
      .next (u.unlessFull p.vf ((v.launch hall p.q p.vf p.prio x false fun _ _ => true).1.push (.porterRecordSelect hall))) ∧
    (u.eventsBlocked p.vf = false →
      exec (.porterRecordSelect hall) s = .next ((v.launch hall p.q p.vf p.prio x false fun _ _ => true).1.push (.porterRecordSelect hall)) ∧
      let lost : Prop := (s.die 0).st = .withdrawn ∧ (s.die 1).st = .withdrawn
      (lost → exec (.porterRecordSelect hall) s = .next ((v.refuse hall p.q p.vf false (launchRec x) 4).push (.porterRecordSelect hall))) ∧
      (¬ lost → recordOk x = false →
        exec (.porterRecordSelect hall) s = .next ((v.refuse hall p.q p.vf false (launchRec x) 1).push (.porterRecordSelect hall))))) ∧
  (∀ (s : State) (q : Nat) (c : Ctx), s.heldCtx q = some c → s.ctx c.cid = some c → c.placed = false → c.st = .placing →
    let places (o : Origin) (r : Rect) : Prop := ∃ t d, exec (.contextPlacement q o) s = .next t ∧ t.ctx c.cid = some d ∧ d.placed = true ∧ d.rect = r ∧
      d.crews.length = r.w * r.h ∧ (∀ k ∈ d.crews, k.st = .waiting) ∧ t.todo = s.todo ++ r.cores.map fun n => .resourceReservation c.cid n
    (c.reqOpen = false → c.rcd.fixed = true → places .fromRecord ⟨c.rcd.x0, c.rcd.y0, c.rcd.w, c.rcd.h⟩) ∧
    (∀ x y, c.reqOpen = false → s.rectGood ⟨x, y, c.rcd.w, c.rcd.h⟩ = true → (c.rcd.fixed = true → x = c.rcd.x0 ∧ y = c.rcd.y0) →
      places (.at x y) ⟨x, y, c.rcd.w, c.rcd.h⟩) ∧
    (c.reqOpen = true → ∀ o, exec (.contextPlacement q o) s = .next s)) ∧
  (∀ (s : State) (cid core : Nat) (c : Ctx) (k : Crew), s.ctx cid = some c → c.cid = cid → c.rect.has core = true → c.crew (c.rect.index core) = some k → k.core = core →
    (∀ slots a tb, (c.st = .placing ∨ c.st = .running) → c.placed = true → (s.die (hallOf core)).st = .good → k.st = .waiting →
      s.room core c.blk = some (slots, a, tb) → ∃ t d k', exec (.resourceReservation cid core) s = .next t ∧ t.ctx cid = some d ∧
      d.crew (c.rect.index core) = some k' ∧ k'.alcBase = a ∧ k'.tagBase = tb ∧ (k'.st = .reserved ∨ k'.st = .committed) ∧
      (c.blk.gang = false → k'.st = .committed ∧ .groupStart cid core ∈ t.todo)) ∧
    (k.st = .waiting → s.room core c.blk = none → exec (.resourceReservation cid core) s = .next s) ∧
    (c.st = .running → k.st = .committed → ∃ t d k', exec (.groupStart cid core) s = .next t ∧ t.ctx cid = some d ∧ d.crew (c.rect.index core) = some k' ∧
      k'.st = .running ∧ (∀ a, 1024 * k.alcBase ≤ a → a < 1024 * k.alcBase + 1024 * k.alcSize → (t.core core).alcove.read a = 0) ∧
      ∀ slot b e, (s.core core).slots = [(slot, b)] → b.cid = cid → b.crew = c.rect.index core → c.blk.entries.toList[b.entry]? = some e → ∃ b' h fr sp,
        lookup (t.core core).slots slot = some b' ∧ b'.frame = some h ∧ t.frame cid h = some fr ∧ fr.group.split 0 = some sp ∧ sp.pc = e.pc ∧
        sp.mask = BitVec.allOnes 32 ∧ sp.upair 0 = c.rcd.arg ∧ fr.group.role = roleOf c.blk.roles b.entry) ∧
    (rising s.ctxs = true → c.st = .running → k.st = .running → s.crewDone c (c.rect.index core) = true → ∃ t, exec (.crewCompletion cid (c.rect.index core)) s = .next t ∧
      ∀ d k', t.ctx cid = some d → d.crew (c.rect.index core) = some k' → k'.st = .complete ∧ k'.status = 0) ∧
    (c.st = .running → k.st = .running → s.crewDone c (c.rect.index core) = false → exec (.crewCompletion cid (c.rect.index core)) s = .next s)) ∧
  (∀ (s t u v w : State) (vf pa x : Nat) (a : W64) (cmp tier rm : Bool), (s.fn vf).evhl ≠ 0 → (s.fn vf).handlerOff = false → (s.fn vf).handler = none → (s.fn vf).frozen = false →
    (s.die 0).st = .good → (s.die 0).auth = true → s.ringWaits vf = (t, true) → t.asidEntry none (s.fn vf).evha.toNat = (u, a) → u.astb.getLsbD 0 = true →
    a.getLsbD 0 = true → asidSup a = true → asidVf a = vf → (s.fn vf).evhl.toNat % 128 = 0 →
    u.porterXlate vf (s.fn vf).evha.toNat true .load ⟨[0], some .aperture, false⟩ (s.fn vf).evhl = (v, .ok (.mem pa cmp tier rm)) → v.readMem pa 128 = (w, x) →
    ∃ f, exec (.handlerLaunchStart vf) s = .next (s.unlessFull vf ((w.launch 0 (handlerQueue vf) vf (s.fn vf).ceil.toNat x true fun a r => r.asid == (s.fn vf).evha.toNat && asidSup a).1.modFn vf f))) ∧
  (∀ (s : State) (vf : Nat), (s.fn vf).evhl = 0 → exec (.handlerLaunchStart vf) s = .next s) ∧
  (∀ s : State,
    (s.shareStart + shareWindow ≤ s.time → ∃ t, exec .shareWindowRestart s = .next t ∧ t.shareStart ≤ s.time ∧ s.time < t.shareStart + shareWindow ∧
      (t.shareStart - s.shareStart) % shareWindow = 0 ∧ ∀ f, f < 64 → t.fn f = { s.fn f with served := (s.time - t.shareStart) * s.slotsHeld f }) ∧
    (s.time < s.shareStart + shareWindow → exec .shareWindowRestart s = .next s) ∧
    (s.budgetStart + budgetWindow ≤ s.time → ∃ u, exec .preemptBudgetWindow s = .next u ∧ u.budgetStart ≤ s.time ∧ s.time < u.budgetStart + budgetWindow ∧
      (u.budgetStart - s.budgetStart) % budgetWindow = 0 ∧ ∀ f, f < 64 → u.fn f = { s.fn f with spent := (s.time - u.budgetStart) * s.preempted f }) ∧
    (s.time < s.budgetStart + budgetWindow → exec .preemptBudgetWindow s = .next s)) ∧
  (∀ (s : State) (vf : Nat) (r : BitVec 512), vf < 64 → (s.fn vf).heldEv = [r] → (s.fn vf).waitEv = [] → ∃ t, exec (.eventHeldPost vf) s = .next t ∧
    (t.fn vf).heldEv = if (s.toRing vf r).2 then [] else [r])

/-! ## Maintenance, migration and the Porters' firmware -/

/-- R37, R38, R25, R366, R64, R65, R66, R67, R69, R34, R84: an invalidation that reaches a core leaves no translation, line, code or valid anchor of
its range there, the anchors still to be written among them; it is acknowledged once nothing translated before is in flight, and over when
all have; a MAPQ notice wakes the splits parked on its pages; every sampling interval that is over starts the sketches again, and then the
Porter gives back the frames it keeps (both wait for a home in reset); a free frame is taken at TAKE; a migration checks its leaf and its frame, guards the leaf,
and ends with its status; the fault service maps a page, or hands the record to the function; the feedback rings are drained.
Where the spec leaves it open this rests on the model's choice, log entries 47, 67, 68. -/
def Obligations.MaintenanceSteps : Prop :=
  (∀ (s : State) (op rcp : Nat) (m : MaintOp), s.maint op = some m →
    (m.inv = true → m.started = true → rcp ∈ m.left → ∃ t, exec (.tlbinvReceive op rcp) s = .next t ∧
      (∃ d, t.maint op = some { m with left := m.left.filter (· != rcp), drain := insert m.drain rcp d } ∧
        (m.scope ≠ 2 → ∀ r ∈ s.reqs, r.core = rcp → r.asid = m.asid → r.page.any m.hasPage = true → r.id ∈ d)) ∧
      .tlbinvDrainAck op rcp ∈ t.todo ∧
      (rcp < 384 → (t.core rcp).icache = [] ∧
        (∀ e, e ∈ (t.core rcp).tlb1 ∨ e ∈ (t.core rcp).tlb2 → s.scopeHas m e.asid = true → m.overlaps (e.vbase * 2 ^ e.size) (2 ^ e.size) = false) ∧
        (∀ x ∈ (t.core rcp).l1, s.scopeHas m x.asid = true → m.hasPage x.vunit = false) ∧
        ∀ c ∈ t.ctxs, s.scopeHas m c.2.asid = true → ∀ f ∈ c.2.frames, f.2.core = rcp → ∀ a : Anchor, a.st = .valid →
          ((∃ k sp, f.2.group.split k = some sp ∧ a ∈ sp.anchors.toList) ∨ (∃ r ∈ f.2.group.results, ∃ k, .anchor k a ∈ r.writes)) →
          m.overlaps a.vbase.toNat (max 1 a.limit.toNat) = false)) ∧
    (m.inv = true → rcp ∉ m.left → rcp ∈ m.unacked → (∀ id ∈ (lookup m.drain rcp).getD [], s.req id = none) → ∃ t,
      exec (.tlbinvDrainAck op rcp) s = .next t ∧ t.maint op = some { m with unacked := m.unacked.filter (· != rcp) } ∧
      ((∀ x ∈ m.unacked, x = rcp) → .tlbinvComplete op ∈ t.todo)) ∧
    (m.inv = true → (s.die (dieOfRecipient rcp)).st = .good → (∃ id ∈ (lookup m.drain rcp).getD [], (s.req id).isSome = true) →
      exec (.tlbinvDrainAck op rcp) s = .next s) ∧
    (m.inv = true → m.started = true → m.unacked = [] → ∃ t, exec (.tlbinvComplete op) s = .next t ∧ t.maint op = none) ∧
    (m.inv = true → m.unacked ≠ [] → exec (.tlbinvComplete op) s = .next s) ∧
    (m.inv = false → m.started = true → rcp ∈ m.left → ∃ t, exec (.mapqNoticeReceive op rcp) s = .next t ∧
      t.maint op = some { m with left := m.left.filter (· != rcp) } ∧ ((∀ x ∈ m.left, x = rcp) → .mapqComplete op ∈ t.todo) ∧
      ∀ f e p, rcp < 384 → Env.of s f = some e → f.core = rcp → e.fr.core = rcp → s.scopeHas m e.ctx.asid = true → e.sp.wait = .parked p →
        p.pages.any m.hasPage = true → ∃ e', Env.of t f = some e' ∧ e'.sp.wait = .parked { p with woken := true } ∧ e'.sp.asleep = false) ∧
    (m.inv = false → m.started = true → m.left = [] → ∃ t, exec (.mapqComplete op) s = .next t ∧ t.maint op = none) ∧
    (m.inv = false → m.left ≠ [] → exec (.mapqComplete op) s = .next s)) ∧
  (∀ s : State, (s.intervalOver = false → exec .hotlistIntervalEnd s = .next s) ∧
    (s.intervalOver = true →
      let n : Nat := (s.time - s.hotStart) / s.interval
      let w : State := { (State.endIntervals n s).readWindows with keptFrames := [] }
      let held : Prop := (State.endIntervals n s).porterInterval.homeHeld = true ∧ s.homeHeld = false
      (held → exec .hotlistIntervalEnd s = .next s) ∧
      (¬ held → ∃ t, exec .hotlistIntervalEnd s = .next t ∧ t.hotStart = s.hotStart + n * s.interval ∧ s.time < t.hotStart + s.interval ∧
        (s.hotctl.getLsbD 0 = true → ∀ c, c < 14 → ∃ k y, s.sketches[c]? = some k ∧ t.sketches[c]? = some y ∧ y.seq = k.seq + BitVec.ofNat 32 n ∧
          (s.mgwt.getLsbD 0 = false → s.keptFrames = [] → y = ⟨[], [], k.seq + BitVec.ofNat 32 n⟩)) ∧
        ∀ x, s.keptFrames = [x] → ((s.die 0).st = .good ∨ (s.die 1).st = .good) →
          t.keptFrames = if (w.giveFrame x.1 x.2).2 then [] else [x]))) ∧
  (∀ (s u v : State) (ring take e : Nat), s.ringUp ring = true →
    let b : Nat := ffBase (s.freeRing ring)
    s.readMem (b + 4) 4 = (u, take) → u.readMem (b + 64 + 8 * (take % 2 ^ ffLog (s.freeRing ring))) 8 = (v, e) →
    (e % 2 = 1 → ∃ t, exec (.freeFrameTake ring) s = .next t ∧ t.taken = s.taken ++ [(ring, bitsOf e 18 34 * 262144)]) ∧
    (e % 2 = 0 → exec (.freeFrameTake ring) s = .next v)) ∧
  (∀ (s u v : State) (a : Nat) (m : MigCmd), a < 2 → (s.annex a).cur = none → (s.die (2 + a)).st = .good → (s.die (2 + a)).frozen = false →
    s.nextMove a = (u, some m) →
    u.eventsBlocked (u.moveVf m) = false →
    ((u.uncounted fun s => s.findLeaf m.asid m.va) = (v, none) → exec (.migrationCommand a) s = .next (v.endMove a m 2 0)) ∧
    (∀ at_ e big, (u.uncounted fun s => s.findLeaf m.asid m.va) = (v, some (at_, e, big)) →
      (big ≠ m.big → exec (.migrationCommand a) s = .next (v.endMove a m 2 0)) ∧
      (big = m.big → leafType e ≠ 0 → exec (.migrationCommand a) s = .next (v.endMove a m 5 0)) ∧
      (big = m.big → leafType e = 0 → (m.badFrame = true ∨ v.frameOk (v.moveVf m) m.dst m.size = false) →
        exec (.migrationCommand a) s = .next (v.endMove a m 3 0)) ∧
      (big = m.big → leafType e = 0 → m.badFrame = false → v.frameOk (v.moveVf m) m.dst m.size = true → ∃ t o, exec (.migrationCommand a) s = .next t ∧
        (t.annex a).cur = some (m, e, at_) ∧ (t.annex a).stage = .guarded ∧ o ∈ t.maints ∧ o.inv = true ∧ o.owner = .migration a ∧
        o.asid = m.asid ∧ (m.va.toNat / m.size * m.size, m.va.toNat / m.size * m.size + m.size) ∈ o.ranges))) ∧
  (∀ (s : State) (a : Nat), a < 2 →
    ((s.annex a).cur = none → exec (.migrationInvalidationDone a) s = .next (s.push (.migrationCommand a))) ∧
    (∀ m e at_, (s.annex a).cur = some (m, e, at_) → (s.die (2 + a)).st = .good → (s.die (2 + a)).frozen = false → (∀ o ∈ s.maints, o.owner ≠ .migration a) →
      s.homesUp (frameOf m.big e) m.size = true → s.homesUp m.dst m.size = true →
      ((s.annex a).stage = .guarded → ∃ t, exec (.migrationInvalidationDone a) s = .next t ∧ ((t.annex a).stage = .copied ∨ (t.annex a).stage = .undone)) ∧
      ((s.annex a).stage = .copied → ∃ t, exec (.migrationInvalidationDone a) s = .next t ∧ (t.annex a).stage = .waking true ∧
        ∃ o ∈ t.maints, o.inv = false ∧ o.owner = .migration a ∧ o.asid = m.asid) ∧
      ((s.annex a).stage = .undone → ∃ t, exec (.migrationInvalidationDone a) s = .next t ∧ (t.annex a).stage = .waking false) ∧
      (∀ done, (s.annex a).stage = .waking done → s.eventsBlocked (s.moveVf m) = false →
        exec (.migrationInvalidationDone a) s = .next (s.endMove a m (if done then 1 else 4) (frameOf m.big e))))) ∧
  (∀ (s : State) (a : Nat), a < 2 → (s.die (2 + a)).st = .good → (s.die 0).st = .good →
    exec (.porterMigrationSelect a []) s = .next s ∧
    (∀ p v hot, s.mgwt.getLsbD 0 = true → s.hotPages = (v, hot) → exec (.porterMigrationSelect a [p]) s = .next (v.pickMove a hot p)) ∧
    (∀ l, s.mgwt.getLsbD 0 = false → exec (.porterMigrationSelect a l) s = .next s)) ∧
  (∀ (s : State) (hall : Nat) (r : FaultRec) (rest : List FaultRec), hall < 2 → (s.porter hall).faults = r :: rest → (s.die hall).st = .good →
    let va : Nat := bitsOf r.bits.toNat 0 57
    (∀ w, s.inWindow r.vf w.pa = true → w.pa % 8 = 0 → ∃ t o, exec (.porterFaultService hall (some w)) s = .next t ∧ (t.porter hall).faults = rest ∧
      o ∈ t.maints ∧ o.inv = false ∧ o.asid = bitsOf r.bits.toNat 64 13 ∧ (va / 262144 * 262144, va / 262144 * 262144 + 262144) ∈ o.ranges) ∧
    (s.eventsBlocked r.vf = false → exec (.porterFaultService hall none) s =
      .next ((s.modPorter hall fun p => { p with faults := rest }).postEvent .fault r.vf hall r.bits.toNat)) ∧
    (s.eventsBlocked r.vf = true → exec (.porterFaultService hall none) s = .next s)) ∧
  (∀ (s u v : State) (asid off : Nat) (ring a : W64), s.asidEntry none asid = (u, a) → a.getLsbD 0 = true → (u.fn (asidVf a)).dsr.getLsbD 2 = false →
    (asid, ring) ∈ u.fbRings → u.porterXlate (asidVf a) asid (asidSup a) .store ⟨[1], some .aperture, false⟩ ring = (v, .ok (.atrium off)) →
    let logn : Nat := bitsOf (Mem.readN v.atrium off 24) 112 8
    4 ≤ logn → logn ≤ 16 → exec (.feedbackDrain asid ring) s = .next (State.drainRing (asidVf a) asid (asidSup a) off
      (bitsOf (Mem.readN v.atrium off 24) 128 57) logn (2 ^ logn) v))

/-! ## The package, the board and the boot -/

/-- R427, R431, R438, R439, R445, R446: a reset of a die takes its unit and kills the contexts on its cores with MASTER_FROZEN where none halted them
before, or will once the homes that the kill writes to are back; it ends with an Atrium half of zeros and empty caches; a withdrawal, and a reset of 50 ms, withdraw the unit; a corrected error is
counted up to 2^32 - 1, an uncorrected one resets the unit; a die that is not withdrawn reports every 10 s.
Where the spec leaves it open this rests on the model's choice, log entries 66, 86, 106. -/
def Obligations.PackageSteps : Prop :=
  (∀ (s : State) (die : Nat), die < 6 →
    let u : Nat := unitOf die
    ((s.die u).st = .good → s.hostLink = true → ∃ t, exec (.dctlReset die) s = .next t ∧ (t.die u).st = .inReset ∧ (t.die u).resetBit = true ∧
      ∀ cid c, s.ctx cid = some c → c.onCores = true → u < 2 → (∃ n ∈ c.rect.cores, hallOf n = u) → ∃ d, t.ctx cid = some d ∧
        (d.st = .killed ∨ (d.st = .halting ∧ d.killAfter = true)) ∧ d.first = some (c.first.getD .masterFrozen)) ∧
    ((s.die u).st ≠ .good ∨ s.hostLink = false → exec (.dctlReset die) s = .next s) ∧
    ((s.die u).st = .inReset → ∃ t, exec (.dieResetComplete die) s = .next t ∧ (t.die u).st = .good ∧ (t.die u).resetBit = false ∧
      (t.die u).start = s.time ∧ (u < 2 → (∀ a, u * 33554432 ≤ a → a < u * 33554432 + 33554432 → t.atrium.read a = 0) ∧
        ∀ n, hallOf n = u → (t.core n).l1 = [] ∧ (t.core n).tlb1 = [] ∧ (t.core n).tlb2 = [] ∧ (t.core n).icache = [])) ∧
    ((s.die u).st ≠ .inReset → exec (.dieResetComplete die) s = .next s ∧ exec (.dieResetTimeout die) s = .next s) ∧
    ((s.die u).st = .inReset → 50000000 * unitsPerNs ≤ s.time - (s.die u).resetAt →
      ∃ t, exec (.dieResetTimeout die) s = .next t ∧ (t.die u).st = .withdrawn) ∧
    ((s.die u).st = .inReset → s.time - (s.die u).resetAt < 50000000 * unitsPerNs → exec (.dieResetTimeout die) s = .next s) ∧
    (s.hostLink = true → ∃ t, exec (.dctlWithdraw die) s = .next t ∧ (t.die u).st = .withdrawn ∧ (t.die u).withdrawBit = true) ∧
    (s.hostLink = false → exec (.dctlWithdraw die) s = .next s) ∧
    (∃ t, exec (.correctableSoftError die) s = .next t ∧ (t.die die).ce.toNat = min ((s.die die).ce.toNat + 1) 0xFFFFFFFF) ∧
    ((s.die u).st = .good → ∃ t, exec (.uncorrectableSoftError die) s = .next t ∧ (t.die u).st = .inReset) ∧
    let late : Nat := s.time - (s.die die).reportAt
    ((s.die u).st ≠ .withdrawn → reportPeriod ≤ late → late < 2 * reportPeriod → exec (.periodicHealthReport die) s =
      .next (let t : State := s.modDie die fun d => { d with reportAt := d.reportAt + reportPeriod }
        if 1000 < (s.die die).recent s.time then t.postHealth die 1 4 else t.postHealth die 0 0)) ∧
    ((s.die u).st ≠ .withdrawn → (s.die die).reportAt ≤ s.time → ∃ t, exec (.periodicHealthReport die) s = .next t ∧
      (t.die die).reportAt ≤ s.time ∧ s.time < (t.die die).reportAt + reportPeriod ∧ ((t.die die).reportAt - (s.die die).reportAt) % reportPeriod = 0) ∧
    ((s.die u).st = .withdrawn ∨ late < reportPeriod → exec (.periodicHealthReport die) s = .next s))

/-- R441, R442, R443, R444, R447, R448: power-on runs every die whose image verifies and withdraws the units of the others; a link that
authenticates sets AUTH from its dies' links, and a die that fails a check is withdrawn; the floors rise once all good dies are
authenticated; the leading Annex answers SPDM; above 105 °C the clock is 470 MHz and above 115 °C the cores lose power; the power cap,
up to the variant's TDP, and the clock ceiling take the values of their grids alone, and the clock keeps to its ceiling.
Where the spec leaves it open this rests on the model's choice, log entries 69, 70, 96, 97. -/
def Obligations.BoardSteps : Prop :=
  (∀ (s : State) (images : List (List Byte)),
    let good (d : Nat) : Prop := imageAccepted (dieType d) ((s.svnFloor[dieType d]?).getD 0) ((images[dieType d]?).getD []) = true
    ∃ t, exec (.powerOn images) s = .next t ∧ t.powered = true ∧ t.ctxs = [] ∧ t.svnFloor = s.svnFloor ∧
      ((∀ d, d < 6 → good d) → ∀ d, d < 6 → (t.die d).st = .good ∧ (t.die d).running = true ∧
        (t.die d).digest = some (imageDigest ((images[dieType d]?).getD []))) ∧
      (∀ d, d < 6 → ¬ good d → (t.die (unitOf d)).st = .withdrawn) ∧ (¬ good 2 → ∀ d, d < 6 → (t.die (unitOf d)).st = .withdrawn)) ∧
  (∀ (s : State) (link a b : Nat) (msg : AuthMsg), linkDies link = some (a, b) → s.powered = true → (s.die a).st ≠ .withdrawn → (s.die b).st ≠ .withdrawn →
    ∃ t, exec (.linkAuthentication link msg) s = .next t ∧
      (halfOk msg.there link = true → halfOk msg.back link = true → link ∈ t.links ∧ t.dies.toList.map (·.st) = s.dies.toList.map (·.st)) ∧
      (halfOk msg.there link = false → (t.die (unitOf a)).st = .withdrawn) ∧ (halfOk msg.back link = false → (t.die (unitOf b)).st = .withdrawn) ∧
      ∀ d, d < 6 → (t.die d).auth = ((t.die d).running && (t.die d).st != .withdrawn && t.linked d)) ∧
  (∀ s : State, (s.powered = true → (∀ d, d < 6 → (s.die d).st = .withdrawn ∨ (s.die d).auth = true) → ∃ t, exec .svnFloorRaise s = .next t ∧
      ∀ k : Fin 3, t.svnFloor[k] = max s.svnFloor[k] (s.svnSeen[k].getD 0)) ∧
    ((s.powered = false ∨ ∃ d, d < 6 ∧ (s.die d).st ≠ .withdrawn ∧ (s.die d).auth = false) → exec .svnFloorRaise s = .next s)) ∧
  (∀ (s : State) (q : List Byte), s.powered = true → s.leader.isSome = true →
    let answers (i : Instr) (body : List Byte) : Prop := ∃ code, exec i s = .next { s with answers := s.answers ++ [.spdm code body] }
    answers (.spdmGetVersion q) [0x12] ∧ answers (.spdmGetCapabilities q) Config.spdmCapabilities ∧ answers (.spdmNegotiateAlgorithms q) [0x80, 0x02] ∧
    answers (.spdmGetDigests q) (sha384 s.chain) ∧ answers (.spdmGetCertificate q) s.chain ∧
    answers (.spdmChallenge q) (Config.ecdsaSign (q ++ sha384 s.chain)) ∧
    answers (.spdmGetMeasurements q) (s.measured ++ Config.lmsSign s.measured)) ∧
  (∀ (s : State) (die temp : Nat), die < 6 →
    (∃ t, exec (.thermalThrottle die temp) s = .next t ∧ exec (.thermalTrip die temp) s = .next t ∧ (t.die die).temp = temp ∧
      t.step = (if 105 * 16 < temp then 10 else s.step) ∧ t.coresOn = (if 115 * 16 < temp then false else s.coresOn) ∧
      t.thermalTrip = if 115 * 16 < temp then true else s.thermalTrip) ∧
    (∃ hbm, exec (.pldmReadTemperature die) s =
      .next { s with freeCtr := s.freeCtr + 1, answers := s.answers ++ [.temperature die (s.die die).temp hbm] })) ∧
  ∀ (s : State) (n : Nat),
    exec (.pldmSetPowerCap n) s = .next (if 400 ≤ n ∧ n ≤ s.variant.tdp ∧ n % 10 = 0 then { s with powerCap := n } else s) ∧
    (∃ t, exec (.pldmSetClockCeiling n) s = .next t ∧ if 470 ≤ n ∧ n ≤ 940 ∧ n % 47 = 0 then t.clockCeil = n ∧ 47 * t.step ≤ n ∧ t.step ≤ s.step else t = s) ∧
    exec .pldmReadPackagePower s = .next { s with answers := s.answers ++ [.power s.packagePower] } ∧
    (∃ t, exec (.clockStepChange n) s = .next t ∧ t.packagePower = n ∧ ((∃ d ∈ s.dies.toList, 1680 < d.temp) → t.step = 10) ∧
      ((∀ d ∈ s.dies.toList, d.temp ≤ 1680) → 10 ≤ t.step ∧ (470 ≤ s.clockCeil → 47 * t.step ≤ s.clockCeil) ∧
        t.step = max 10 (min (s.clockCeil / 47) (Config.capStep s.powerCap n s.step))))

/-! ## The host -/

/-- R428, R397, R17, R64, R66, R386, R398, R384, R387, R416, R432, R370: what the host writes reaches the register it names, by the field map of that
register, and a write outside the window freezes the function; a doorbell of another function's queue does so too. Without a host link none of
them has an effect.
Where the spec leaves it open this rests on the model's choice, log entries 72, 106. -/
def Obligations.HostRegisterWrites : Prop :=
  (∀ (s : State) (f : Nat) (x : W64), f < 64 → s.hostLink = true →
    (∀ off size, 0x100000 ≤ off → ∃ t, exec (.managementRegisterWrite f off size x) s = .next t ∧ (t.fn f).frozen = true ∧ (t.fn f).fcode = 0x0C) ∧
    (∀ off size, off < 0x100000 → (size ≠ 8 ∨ off % 8 ≠ 0) → exec (.managementRegisterWrite f off size x) s = .next s) ∧
    (∃ t, exec (.managementRegisterWrite f 0x18 8 x) s = .next t ∧ t.fn f = { s.fn f with evdrop := x }) ∧
    (∃ t, exec (.managementRegisterWrite 0 (0x10400 + 8 * f) 8 x) s = .next t ∧
      t.fn f = { s.fn f with weight := x.extractLsb' 0 8, ceil := x.extractLsb' 8 3, pbud := x.extractLsb' 16 16 }) ∧
    ((∀ c ∈ s.ctxs, c.2.st = .none ∨ c.2.st = .killed) → ∃ t, exec (.astbWrite x) s = .next t ∧ t.astb.getLsbD 0 = x.getLsbD 0 ∧
      t.astb.extractLsb' 16 36 = x.extractLsb' 16 36 ∧ t.astb.extractLsb' 1 15 = 0 ∧ t.astb.extractLsb' 52 12 = 0) ∧
    ((∃ c ∈ s.ctxs, c.2.st ≠ .none ∧ c.2.st ≠ .killed) → exec (.astbWrite x) s = .next s) ∧
    (∃ t, exec (.hotctlWrite x) s = .next t ∧ t.hotctl.getLsbD 0 = x.getLsbD 0 ∧ (t.hotctl.extractLsb' 1 7).toNat = min (x.extractLsb' 1 7).toNat 64 ∧
      t.hotctl.extractLsb' 8 10 = x.extractLsb' 8 10 ∧ t.hotStart = s.time ∧ ∀ k ∈ t.sketches.toList, k.counters = [] ∧ k.table = []) ∧
    (∀ a, a < 2 → ∃ t, exec (.mgtlWrite a x) s = .next t ∧ (t.annex a).mgtl = x.extractLsb' 0 32 ∧ .migrationCommand a ∈ t.todo) ∧
    (∃ t, exec (.dsrWrite f x) s = .next t ∧ (t.fn f).dsr = x.extractLsb' 0 7 ∧ ∀ n, (t.core n).filter = []) ∧
    (∃ t, exec (.vfrzClear f x) s = .next t ∧ (t.fn f).frozen = if x.getLsbD 0 then false else (s.fn f).frozen) ∧
    (∃ t, exec (.evhlWrite f true x) s = .next t ∧ t.fn f = { s.fn f with evha := x.extractLsb' 0 13, handlerOff := false } ∧ .handlerLaunchStart f ∈ t.todo) ∧
    (∃ t, exec (.evhlWrite f false x) s = .next t ∧ (t.fn f).evhl = x &&& (2 ^ 57 - 1) ∧ (t.fn f).handlerOff = false ∧ .handlerLaunchStart f ∈ t.todo) ∧
    (∃ t, exec (.hostRingHeadWrite f true x) s = .next t ∧ t.fn f = { s.fn f with heHead := x.extractLsb' 32 32 } ∧ .eventHeldPost f ∈ t.todo) ∧
    (∃ t, exec (.hostRingHeadWrite f false x) s = .next t ∧ (t.fn f).hfHead = x.extractLsb' 32 32) ∧
    (∃ t, exec (.hcrbTailWrite f x) s = .next t ∧ t.fn f = { s.fn f with hcTail := x.extractLsb' 0 32 }) ∧
    (∀ hall slot, hall < 2 → slot < 64 → rising s.rsown = true →
      let old : W32 := s.rsownOf hall slot
      (∃ t, exec (.rsownWrite .physical hall slot x) s = .next t ∧ t.rsownOf hall slot = x.extractLsb' 0 32 &&& 0x00FFFFFF) ∧
      (rsV old = true → rsVf old = f → ∃ t, exec (.rsownWrite (.hostOf f) hall slot x) s = .next t ∧ exec (.rsownWrite (.supervisor f) hall slot x) s = .next t ∧
        t.rsownOf hall slot = (old &&& 0x7F) ||| (x.extractLsb' 0 32 &&& 0x00FFFF80)) ∧
      ((rsV old = false ∨ rsVf old ≠ f) → exec (.rsownWrite (.hostOf f) hall slot x) s = .next s ∧ exec (.rsownWrite (.supervisor f) hall slot x) s = .next s) ∧
      exec (.rsownWrite .other hall slot x) s = .next s) ∧
    (∀ die, die < 6 → (∃ t, exec (.dtrateWrite die x) s = .next t ∧ t.die die = { s.die die with heldRate := some (x.extractLsb' 0 32) }) ∧
      (∃ t, exec (.dtoffWrite die x) s = .next t ∧
        t.die die = { s.die die with dtoff := x, dtrate := (s.die die).heldRate.getD (s.die die).dtrate, heldRate := none }) ∧
      (∃ t, exec (.dtoffRead die) s = .next t ∧ t.die die = { s.die die with latched := some (s.die die).dtrate })) ∧
    (∀ q u e, q < 256 → s.queue q = (u, e) → (u.fn f).frozen = false →
      (e.vf = f → e.priv = false → rising u.doorbells = true → ∃ t, exec (.doorbellWrite f q x) s = .next t ∧
        (lookup t.doorbells q).getD 0 = x.extractLsb' 0 32 ∧ .porterRecordSelect 0 ∈ t.todo ∧ .porterRecordSelect 1 ∈ t.todo) ∧
      (e.vf ≠ f → ∃ t, exec (.doorbellWrite f q x) s = .next t ∧ (t.fn f).frozen = true))) ∧
  ∀ (s : State) (f n : Nat) (x : W64) (b : Bool) (w : Writer), s.hostLink = false →
    let none_ (i : Instr) : Prop := exec i s = .next s
    (∀ off size, none_ (.managementRegisterWrite f off size x)) ∧ none_ (.astbWrite x) ∧ none_ (.hotctlWrite x) ∧ none_ (.mgtlWrite n x) ∧
    none_ (.dsrWrite f x) ∧ none_ (.vfrzClear f x) ∧ none_ (.evhlWrite f b x) ∧ none_ (.hostRingHeadWrite f b x) ∧ none_ (.hcrbTailWrite f x) ∧
    (∀ hall slot, none_ (.rsownWrite w hall slot x)) ∧ none_ (.dtrateWrite n x) ∧ none_ (.dtoffWrite n x) ∧ none_ (.dtoffRead n) ∧
    none_ (.doorbellWrite f n x)

/-- R388, R365, R363, R375, R434, R436, R437: a host command is performed in its turn and completes with its STATUS; BAR2 and enabled peer ports
reach populated memory at its homes, and no other access does; a link that retrains is reported; a function-level reset kills the
function's contexts, sets LOGN of its queue entries to 0 and their doorbells to none, and sets its registers to their reset values, but for
its windows and the physical function's settings.
Where the spec leaves it open this rests on the model's choice, log entries 66, 71, 72. -/
def Obligations.HostSteps : Prop :=
  (∀ (s : State) (vf x : Nat), s.command vf = some x →
    let op : Nat := bitsOf x 0 8
    let sc : Nat := bitsOf x 8 2
    let maint (i : Instr) (n : Nat) (inv : Bool) : Prop :=
      (op ≠ n → exec i s = .next s) ∧ (op = n → sc = 3 → exec i s = .next (s.finishCommand vf 5)) ∧
      (op = n → sc = 2 → vf < 64 → ∃ t o, exec i s = .next t ∧ (t.fn vf).cmdBusy = true ∧ o ∈ t.maints ∧ o.inv = inv ∧ o.scope = 2 ∧ o.owner = .host vf) ∧
      (∀ u a, op = n → sc ≤ 1 → s.asidEntry none (bitsOf x 16 13) = (u, a) →
        let base : W64 := BitVec.ofNat 64 (bitsOf x 64 64)
        let lo : Nat := base.toNat / 262144 * 262144
        let count : Nat := bitsOf x 32 32
        (vf ≠ 0 → asidVf a ≠ vf → exec i s = .next (u.finishCommand vf 3)) ∧
        ((vf = 0 ∨ asidVf a = vf) →
          (sc = 0 → (canonical base = false ∨ upperHalf base = true) → exec i s = .next (u.finishCommand vf 5)) ∧
          (sc = 0 → canonical base = true → upperHalf base = false → count = 0 → exec i s = .next (u.finishCommand vf 1)) ∧
          ((sc = 1 ∨ (canonical base = true ∧ upperHalf base = false ∧ count ≠ 0)) → vf < 64 → ∃ t o, exec i s = .next t ∧ (t.fn vf).cmdBusy = true ∧
            o ∈ t.maints ∧ o.inv = inv ∧ o.asid = bitsOf x 16 13 ∧ sc ≤ o.scope ∧ o.owner = .host vf ∧
            (lo, min (lo + count * 262144) (2 ^ 56)) ∈ o.ranges)))
    let haltc (i : Instr) (n : Nat) : Prop :=
      (¬ (op = 3 ∧ sc = n) → exec i s = .next s) ∧ (op = 3 → sc = n → s.reaches vf (bitsOf x 32 16) = false → exec i s = .next (s.finishCommand vf 3)) ∧
      (∀ r u, op = 3 → sc = n → s.reaches vf (bitsOf x 32 16) = true → s.haltcFor (bitsOf x 32 16) n (hostFocus vf) = .done r u →
        exec i s = .next (u.finishCommand vf (r + 1))) ∧
      (∀ u, op = 3 → sc = n → s.reaches vf (bitsOf x 32 16) = true → s.haltcFor (bitsOf x 32 16) n (hostFocus vf) = .wait u → exec i s = .next u)
    maint (.hostCmdTlbinv vf) 1 true ∧ maint (.hostCmdMapq vf) 2 false ∧ haltc (.hostCmdHaltcHalt vf) 0 ∧ haltc (.hostCmdHaltcResume vf) 1 ∧
    haltc (.hostCmdHaltcKill vf) 2 ∧ (op ≠ 4 → exec (.hostCmdPlace vf) s = .next s) ∧
    (∀ c, op = 4 → bitsOf x 88 1 = 0 → s.heldCtx (bitsOf x 64 8) = some c → (vf = 0 ∨ c.vf = vf) → c.reqOpen = true → c.placed = false →
      c.st = .placing → c.rcd.seq.toNat = bitsOf x 32 32 → s.rectGood ⟨bitsOf x 72 5, bitsOf x 80 4, c.rcd.w, c.rcd.h⟩ = true →
      exec (.hostCmdPlace vf) s = .next ((s.place c.cid ⟨bitsOf x 72 5, bitsOf x 80 4, c.rcd.w, c.rcd.h⟩).finishCommand vf 1)) ∧
    (op = 4 → bitsOf x 88 1 = 0 → s.heldCtx (bitsOf x 64 8) = none → exec (.hostCmdPlace vf) s = .next (s.finishCommand vf 4)) ∧
    (∀ c, op = 4 → bitsOf x 88 1 = 1 → s.ctx (bitsOf x 32 16) = some c →
      let (x0, y0) := (bitsOf x 72 5, bitsOf x 80 4)
      (vf ≠ 0 → c.vf ≠ vf → exec (.hostCmdPlace vf) s = .next (s.finishCommand vf 3)) ∧
      ((vf = 0 ∨ c.vf = vf) →
        (c.st = .saved → c.reqOpen = true → s.rectGood ⟨x0, y0, c.rect.w, c.rect.h⟩ = true → exec (.hostCmdPlace vf) s =
          .next (((s.setCtx c.cid { c with reqOpen := false, restoreTo := some (x0, y0) }).push (.contextRestore c.cid .fromRecord)).finishCommand vf 1)) ∧
        ((c.st ≠ .saved ∨ c.reqOpen = false) → exec (.hostCmdPlace vf) s = .next (s.finishCommand vf 4)))) ∧
    (op = 4 → bitsOf x 88 1 = 1 → s.ctx (bitsOf x 32 16) = none → exec (.hostCmdPlace vf) s = .next (s.finishCommand vf 4))) ∧
  (∀ (s : State) (vf off : Nat) (acc : HostAccess), s.hostLink = true →
    (vf = 0 → off + accSize acc ≤ 2 ^ 52 → s.reachable off acc = true → exec (.hostBar2Access vf off acc) s = .next (s.outside off acc)) ∧
    (∀ pa left, vf ≠ 0 → windowAt (s.fn vf).vfw.toList off = some (pa, left) → accSize acc ≤ left → s.reachable pa acc = true →
      exec (.hostBar2Access vf off acc) s = .next (s.outside pa acc)) ∧
    (vf ≠ 0 → windowAt (s.fn vf).vfw.toList off = none → exec (.hostBar2Access vf off acc) s = .next s)) ∧
  (∀ (s : State) (port pa : Nat) (acc : HostAccess), port < 16 → (s.die (2 + port / 8)).st = .good →
    ((s.die (2 + port / 8)).peer.getLsbD (port % 8) = false → exec (.peerInboundAccess port pa acc) s =
      .next { s with answers := s.answers ++ [.refusedPeer port] }) ∧
    ((s.die (2 + port / 8)).peer.getLsbD (port % 8) = true → s.reachable pa acc = true →
      exec (.peerInboundAccess port pa acc) s = .next (s.outside pa acc))) ∧
  (∀ (s : State) (port lanes : Nat), port < 256 → lanes < 256 →
    exec (.linkRetrained port lanes) s = .next (s.postEvent .linkRetrained 0 (if port ≤ 8 then 2 else 3) (port + 256 * lanes))) ∧
  ∀ (s : State) (f : Nat), f ≠ 0 → f < 64 → (s.hostLink = false → exec (.functionLevelReset f) s = .next s) ∧
    (s.hostLink = true → ∃ t, exec (.functionLevelReset f) s = .next t ∧ (t.fn f).dsr = 0 ∧ (t.fn f).frozen = false ∧
    (t.fn f).evhl = 0 ∧ (t.fn f).hcrb = 0 ∧ (t.fn f).vfw = (s.fn f).vfw ∧ (t.fn f).weight = (s.fn f).weight ∧
    ∀ cid c, s.ctx cid = some c → c.vf = f → c.st = .running → ∃ d, t.ctx cid = some d ∧ d.st = .halting ∧ d.killAfter = true) ∧
    (s.hostLink = true →
      let u : State := (s.ctxs.filter fun c => c.2.vf == f).foldl (fun s c => s.killSoon c.1) s
      let one (s : State) (q : Nat) : State :=
        let e : State × QEntry := s.queue q
        if QEntry.vf e.2 = f then
          let u : State := if QEntry.logn e.2 = 0 then e.1 else e.1.writeMem (e.1.queueAt q + 8) 1 (16 * (e.2 / 2 ^ 68 % 16))
          { u with doorbells := remove u.doorbells q }
        else e.1
      let v : State := (List.range 256).foldl one u
      let own (m : MaintOp) : MaintOp := if m.owner == MaintFor.host f then { m with owner := .porter } else m
      exec (.functionLevelReset f) s = .next (({ v with maints := v.maints.map own } : State).modFn f Fn.levelReset))

/-! ## Encoding, the step and reset -/

/-- R225, R228 to R237: what the encoder makes of a well-formed instruction decodes to that instruction, whatever its operands; every Krytnak
form (the constructors of Instr up to the hint region, in the opcode table's order) has a word; and a word that decodes is the word of
its instruction with the bits that its format reserves at 0, so the decoder drops no bit that a format names. -/
def Obligations.EncodeDecode : Prop :=
  (∀ (i : Instr) (w : BitVec 96), i.wellFormed = true → encode i = some w → decode w = .ok i) ∧
  (∀ i : Instr, i.ctorIdx ≤ (Instr.hint 0).ctorIdx → ∃ w, encode i = some w) ∧
  ∀ (w : BitVec 96) (i : Instr), decode w = .ok i →
    let opc : Nat := (w.extractLsb' 88 8).toNat
    let reserved : BitVec 96 :=
      if unassigned (w.extractLsb' 88 8) then 0
      else if 0xF0 ≤ opc then 0x3FFFFFFFFFFFFFFFFFFFF
      else 0x7000000000000000000 |||
        (if opc = 0x1B then 0xFFFFFFFF else if opc < 0x20 then 0xF0000000000 else if 0x60 ≤ opc ∧ opc < 0x68 then 0x1FFFFFF
          else if 0x70 ≤ opc ∧ opc < 0x80 then 0x100000000 else 0)
    encode i = some (w &&& ~~~reserved)

/-- R225, R227, R228 to R237: words written out from the field tables of the formats, one or two of each family, decode to the instructions they
stand for. -/
def Obligations.DecodedWords : Prop :=
  let h (sub : BitVec 6) (s : Bool) (g : BitVec 3) : Hdr := ⟨sub, s, g, false, 0⟩
  decode 0x0101C0080000000000000003 = .ok (.smovi (h 0 false 7) ⟨2, 0, 0, 0, 0, false, 0, 3⟩) ∧
  decode 0x0203C00C2080000000000000 = .ok (.sadd (h 0 true 7) ⟨3, 2, 2, 0, 0, false, 0, 0⟩) ∧
  decode 0x2701C0000000000000000000 = .ok (.exit (h 0 false 7) ⟨0, 0, 0, 0, 0, 0, 0⟩) ∧
  decode 0x2103C0100010000020000000 = .ok (.brx (h 0 true 7) ⟨4, 0, 1, 0, 4, 0, 0⟩) ∧
  decode 0x5D0040141500703000000000 = .ok (.vred (h 0 false 1) ⟨20, 21, 0, false, 7, 0, false, 3, 0, 0⟩) ∧
  decode 0x7003C00A0444043000000000 = .ok (.ld (h 0 true 7) ⟨10, 4, 2, 0, true, 0, 4, 3, 0, 0, 0⟩) ∧
  decode 0x7801C00C0614440008000000 = .ok (.atom (h 0 false 7) ⟨12, 6, 0, 2, true, 4, 4, 0, 0, 8, 0⟩) ∧
  decode 0x9303C000A08007404E000000 = .ok (.cpytLd (h 0 true 7) ⟨0, 10, 2, 0, 7, false, true, false, 0, true, 14, 0⟩) ∧
  decode 0x9705C00001C0000000000007 = .ok (.tfirst (h 1 false 7) ⟨0, 0, 7, 0, 0, false, false, false, 0, false, 0, 7⟩) ∧
  decode 0xB301C00028C0000C07800000 = .ok (.mma (h 0 false 7) ⟨0, 0, 10, 12, 0, 0, 3, 0, 15, 0⟩) ∧
  decode 0xBD01C0000000004000000000 = .ok (.cvg (h 0 false 7) ⟨0, 0, 0, 0, 0, 1, 0, 0, 0, 0⟩) ∧
  decode 0xD000C0020060000100000000 = .ok (.spawnLane (h 0 false 3) ⟨2, 0, 6, 0, 0, 1, 0⟩) ∧
  decode 0xD405C0000800000000000007 = .ok (.fres (h 1 false 7) ⟨0, 2, 0, 0, 0, 0, 7⟩) ∧
  (∀ w : BitVec 96, w.extractLsb' 92 4 = 8#4 → decode w = .ok (.unassignedOpcode w))

/-- R218, R225, R238, R241: a step at a split that may issue runs exec of the instruction that the word at its PC decodes to, at that split, with its
operands as they stand at its first attempt, and then what every issue leaves behind; a turn of a split whose issue slot is not its own yet
passes time alone; a step whose turn is an event, or that has an event due, runs exec of it; once every issue slot has had its turn an ac
passes. Without core power nothing issues.
Where the spec leaves it open this rests on the model's choice, log entries 2, 74, 78. -/
def Obligations.StepRunsDecoded : Prop :=
  (∀ (s q : State) (f : Focus) (e : Env) (l : BitVec 512) (i : Instr), s.coresOn = true →
    ((∃ dt rest, s.agenda = ⟨dt, .issue f⟩ :: rest ∧ q = ({ s with agenda := rest } : State).pass dt ∧ q.turnDue f = true) ∨
      (s.agenda = [] ∧ s.todo = [] ∧ s.service = none ∧ s.pick = some f ∧ q = s)) →
    let p : State := q.prepare f
    let w : BitVec 96 := slotBits l (slotOf e.sp.pc)
    let r : RegUse := if e.legal i then e.uses i p else {}
    Env.of p f = some e → e.works p = true → e.sp.underWay = none → canonical e.sp.pc = true → pcFormed e.sp.pc = true →
    (p.core f.core).findLine e.asid e.sp.pc = some l → (e.group.tgtChecked = true ∨ tgtBit l (slotOf e.sp.pc) = true) → decode w = .ok i →
    e.holds w r = false → (∀ x ∈ e.linesOf i r, x ∈ (p.core f.core).regLines) →
    let t : State := if e.sp.fresh? then e.begun w r (e.linesOf i r) p else if e.sp.read.isNone then e.readOperands r p else p
    ∃ e', Env.of t f = some e' ∧ e'.sp.pc = e.sp.pc ∧ step s = finish e' i { t with focus := f } (exec i { t with focus := f })) ∧
  (∀ (s : State) (f : Focus) (dt : Nat) (rest : List Turn), s.agenda = ⟨dt, .issue f⟩ :: rest →
    let q : State := ({ s with agenda := rest } : State).pass dt
    q.turnDue f = false → step s = .next q) ∧
  (∀ s : State, s.agenda = [] → s.todo = [] → s.service = none → s.pick = none → s.yielders = [] →
    step s = if s.issuedNow = [] then (s.pass 1).idle else .next (s.pass 1)) ∧
  (∀ (s : State) (i : Instr) (rest : List Instr), s.agenda = [] → s.todo = i :: rest → step s = heldEvent { s with todo := rest } i (exec i { s with todo := rest })) ∧
  (∀ (s : State) (i : Instr) (dt : Nat) (rest : List Turn), s.agenda = ⟨dt, .event i⟩ :: rest → encode i = none →
    step s = heldEvent (({ s with agenda := rest } : State).pass dt) i (exec i (({ s with agenda := rest } : State).pass dt))) ∧
  (∀ (s t : State) (e : Env) (i : Instr), (s.metReset t = false → finish e i s (.next t) = .next (t.issued e i) ∧ heldEvent s i (.next t) = .next t) ∧
    (s.metReset t = true → finish e i s (.next t) = .next (e.heldIssue s) ∧ heldEvent s i (.next t) = .next { s with waitHomes := s.waitHomes ++ [i] })) ∧
  (∀ (s : State) (f : Focus) (dt : Nat) (rest : List Turn), s.agenda = ⟨dt, .issue f⟩ :: rest → s.coresOn = false → step s = .fault .unpowered)

/-- R472, R372, R384, R386, R398, R427, R432: what reset leaves where the spec gives it: no context, empty caches and TLBs, an Atrium of zeros, and
the reset values of the functions' and the dies' registers; and every memory is in canonical form.
Where the spec leaves it open this rests on the model's choice, log entry 1. -/
def Obligations.ResetState : Prop :=
  let s : State := State.reset
  s.memWf = true ∧ s.ctxs = [] ∧ s.l2 = [] ∧ s.reqs = [] ∧ (∀ a, s.atrium.read a = 0) ∧
  (∀ n, (s.core n).l1 = [] ∧ (s.core n).tlb1 = [] ∧ (s.core n).tlb2 = [] ∧ (s.core n).tex = [] ∧ (s.core n).icache = [] ∧ (s.core n).regLines = []) ∧
  (∀ f, f < 64 → (s.fn f).dsr = 0 ∧ (s.fn f).weight = 1 ∧ (s.fn f).ceil = 7 ∧ (s.fn f).pbud = 0xFFFF ∧ (s.fn f).evhl = 0 ∧ (s.fn f).frozen = false ∧
    (s.fn f).hfrb = 0 ∧ (s.fn f).herb = 0 ∧ (s.fn f).hcrb = 0 ∧ ∀ w ∈ (s.fn f).vfw.toList, w = 0) ∧
  (∀ d, d < 6 → (s.die d).auth = false ∧ (s.die d).resetBit = false ∧ (s.die d).withdrawBit = false ∧ (s.die d).dtoff = 0 ∧
    (s.die d).dtrate = 0x40000000 ∧ (s.die d).cdefl = 0 ∧ (s.die d).cnak = 0) ∧
  s.qtb = 0 ∧ s.astb = 0 ∧ s.hotctl = 0

/-! ## Invariants and frames -/

/-- R93, R472, with assumption 1: every step from a state whose memories are in canonical form (addresses strictly rising, and no byte listed that
an unlisted address reads as) ends in one. The canonical form is the model's own.
Where the spec leaves it open this rests on the model's choice, log entry 1. -/
def Obligations.MemoriesStayCanonical : Prop := ∀ s t : State, s.memWf = true → step s = .next t → t.memWf = true

/-- R240, R241, R255 to R260, R262, R275 to R298: a uniform instruction other than SLD, SST and ANCHOR, and a vector instruction, leaves every
memory, core, request, function and die alone, and every other context and frame; in its own frame the registers stand until its
results are written, its results go to the registers its encoding names as written, and no LFSR of a lane outside g steps. This holds where it
traps too.
R226, R264 to R273, R312 to R319, R323, R350 to R361: the C, A and X formats and the T forms on futures, AWAIT and TIME. A C form (BRX, which reads
memory, aside) moves lanes and splits of its own group alone. Copies, tag waits, the Banister, Array operations and TIME change no byte of any
memory, since engines move them later; the flight forms write the core's own Alcove, the barrier forms it or the Atrium, FNEW and AWAIT the
Atrium, and FRES, FFLT, FWAIT and FPOLL nothing yet. The vector and predicate registers stand, and so do the split's uniform registers outside
the C format; what is owed afterwards goes to the registers the encoding names, with ACCRD's second register in the I48 mode as O35 says. Where
the barrier forms and FLREL wake others, other frames keep their registers all the same. -/
def Obligations.RegisterFrames : Prop :=
  (∀ (s t : State) (e : Env) (i : Instr) (w : BitVec 96), encode i = some w → Env.of s s.focus = some e →
    let opc : Nat := (w.extractLsb' 88 8).toNat
    (opc < 0x18 ∨ opc = 0x1A ∨ (0x30 ≤ opc ∧ opc < 0x68)) → exec i s = .next t →
    t.dram = s.dram ∧ t.host = s.host ∧ t.peer = s.peer ∧ t.atrium = s.atrium ∧ t.l2 = s.l2 ∧ t.cores = s.cores ∧ t.reqs = s.reqs ∧
    t.fns = s.fns ∧ t.dies = s.dies ∧ (∀ c, c ≠ e.cid → t.ctx c = s.ctx c) ∧ (∀ k, k ≠ e.h → t.frame e.cid k = s.frame e.cid k) ∧
    e.keepsRegs i t ∧ ∃ fr, t.frame e.cid e.h = some fr ∧ (∀ sp, fr.group.split e.f.split = some sp → sp.anchors = e.sp.anchors) ∧
      ∀ l : Fin 32, (e.g (unpackHdr w)).getLsbD l = false → fr.group.lfsr[l] = e.group.lfsr[l]) ∧
  ∀ (s t : State) (e : Env) (i : Instr) (w : BitVec 96), encode i = some w → Env.of s s.focus = some e →
    let opc : Nat := (w.extractLsb' 88 8).toNat
    let cForm : Prop := opc = 0x20 ∨ (0x22 ≤ opc ∧ opc ≤ 0x2B)
    let copy : Prop := 0x90 ≤ opc ∧ opc ≤ 0x94
    let tagWait : Prop := 0x95 ≤ opc ∧ opc ≤ 0x98
    let barrier : Prop := 0x99 ≤ opc ∧ opc ≤ 0x9D
    let flight : Prop := opc = 0x9E ∨ opc = 0x9F
    let ban : Prop := 0xA0 ≤ opc ∧ opc ≤ 0xA2
    let array : Prop := 0xB0 ≤ opc ∧ opc ≤ 0xC1
    let future : Prop := 0xD3 ≤ opc ∧ opc ≤ 0xD7
    exec i s = .next t →
    (cForm ∨ tagWait ∨ flight ∨ ban ∨ array ∨ opc = 0xD2 ∨ opc = 0xD9 → t.dram = s.dram ∧ t.l2 = s.l2) ∧
    (cForm ∨ copy ∨ tagWait ∨ flight ∨ ban ∨ array ∨ opc = 0x9C ∨ opc = 0x9D ∨ (0xD4 ≤ opc ∧ opc ≤ 0xD7) ∨ opc = 0xD9 → t.atrium = s.atrium) ∧
    (cForm ∨ copy ∨ tagWait ∨ ban ∨ array ∨ future ∨ opc = 0xD2 ∨ opc = 0xD9 → s.keepsAlcoves t ∧ e.keepsFrames t) ∧
    (cForm ∨ copy ∨ tagWait ∨ barrier ∨ flight ∨ ban ∨ array ∨ future ∨ opc = 0xD2 ∨ opc = 0xD9 → t.peer = s.peer ∧ e.keepsHost t ∧
      (∀ c, c ≠ e.f.core → (t.core c).alcove = (s.core c).alcove) ∧
      ∀ c k fr, s.frame c k = some fr → ∃ fr', t.frame c k = some fr' ∧ fr'.group.v = fr.group.v ∧ fr'.group.p = fr.group.p ∧
        fr'.group.lfsr = fr.group.lfsr ∧ ((c, k) ≠ (e.cid, e.h) → fr'.mask = fr.mask ∧ fr'.sig = fr.sig ∧ fr'.group.stack = fr.group.stack ∧
          ∀ j, (fr'.group.split j).map (fun sp => (sp.pc, sp.mask, sp.u, sp.anchors)) = (fr.group.split j).map fun sp => (sp.pc, sp.mask, sp.u, sp.anchors))) ∧
    (copy ∨ tagWait ∨ opc = 0x9E ∨ ban ∨ (array ∧ opc ≠ 0xB9) ∨ future ∨ opc = 0xD2 ∨ opc = 0xD9 → e.keepsRegs i t)

/-- R49, R91, R300, R302 to R310: what the loads, ATOMA, the prefetches and the texel loads leave alone. A load of the core path, ATOMA and PREF
change no byte of any memory, Alcove or L1 now, no register, and no other context or frame: what they miss is requested, and what they
receive goes to the registers their encodings name. A texel load reads at the homes, which fill and write back lines, and changes no
other memory. The load of a register of a management window is R428's.
R50, R54, R302 to R306: where the stores and the atomics of the core path store. The device memory, the L2 and the Atrium change only at
their homes and banks, so no byte of them changes now. Where no unit names a context image, every byte of the Alcoves stands but those
of the units' own addresses, and so does every byte of the L1 that is still held, and, where no unit faults, every byte of the host's
and the peers' memory; the registers stand as R240 says.
Where the spec leaves it open this rests on the model's choice, log entries 8, 9. -/
def Obligations.StoreFrames : Prop :=
  (∀ (s t : State) (e : Env) (h : Hdr) (u : UBody) (b : MBody), Env.of s s.focus = some e →
    let quiet (i : Instr) : Prop := exec i s = .next t →
      t.peer = s.peer ∧ t.atrium = s.atrium ∧ e.keepsHost t ∧ s.keepsAlcoves t ∧ e.keepsFrames t ∧ e.keepsRegs i t
    let load (i : Instr) (todo : Mask) (kind : Kind) (acc : Accept) (n : Nat) (addr : Nat → Addr) : Prop :=
      quiet i ∧ ((∀ x ∈ e.left todo, ∀ vf off, e.lookupAddr s n kind acc (addr x) ≠ .ok (.window vf off)) → exec i s = .next t →
        t.dram = s.dram ∧ t.l2 = s.l2 ∧ (∀ r ∈ s.reqs, r ∈ t.reqs) ∧ (∀ c, (t.core c).l1 = (s.core c).l1) ∧ ∀ c, c ≠ e.cid → t.ctx c = s.ctx c)
    load (.sld h u) 1 .load .any (szBytes h.sub.toNat) (fun _ => .va (e.scalarAddr u)) ∧
    load (.ld h b) (e.g h) .load .any (szBytes b.sz.toNat) (e.laneAddr b) ∧
    load (.ldx h b) (linesOf b) .load .noAlcove 128 (e.lineAddr b) ∧
    load (.lda h b) (linesOf b) .load .any 128 (e.lineAddr b) ∧
    load (.ldat h b) (linesOf b) .load .atrium 128 (e.lineAddr b) ∧
    load (.atoma h b) 3 .atomic .atrium 64 (fun r => .va (e.u64 b.ms + BitVec.ofInt 64 (b.imm.toInt + ((64 * r : Nat) : Int)))) ∧
    load (.prefL1 h b) (e.g h) .load .any 1 (e.laneAddr b) ∧ load (.prefL2 h b) (e.g h) .load .any 1 (e.laneAddr b) ∧
    quiet (.ldlod h b) ∧ quiet (.txg h b) ∧ quiet (.resq h b) ∧ quiet (.resqFb h b)) ∧
  ∀ (s t : State) (e : Env) (h : Hdr) (u : UBody) (b : MBody), Env.of s s.focus = some e → s.memWf = true →
    let n : Nat := szBytes b.sz.toNat
    let g : Mask := e.g h
    let frame (i : Instr) (todo : Mask) (kind : Kind) (acc : Accept) (n : Nat) (addr : Nat → Addr) (at_ : Nat → Prop)
        (inLine : Nat → Nat → Prop) : Prop :=
      exec i s = .next t →
      let p (x : Nat) : TRes := e.lookupAddr s n kind acc (addr x)
      t.dram = s.dram ∧ t.atrium = s.atrium ∧ t.l2 = s.l2 ∧ (∀ r ∈ s.reqs, ∃ q ∈ t.reqs, q.id = r.id ∧ q.dst = r.dst ∧ q.lanes = r.lanes) ∧
      ((∀ x ∈ e.left todo, ∀ c off, p x ≠ .ok (.image c off)) → e.keepsRegs i t ∧
        (∀ c, c ≠ e.f.core → (t.core c).alcove = (s.core c).alcove ∧ (t.core c).l1 = (s.core c).l1) ∧
        (∀ a, (∀ x ∈ e.left todo, ∀ off, p x = .ok (.alcove off) → ∀ j, at_ j → a ≠ e.alcove.1 + off + j) →
          (t.core e.f.core).alcove.read a = (s.core e.f.core).alcove.read a) ∧
        ((∀ x ∈ e.left todo, (∀ c, p x ≠ .fault c) ∧ lookup e.sp.badPages (lookupPage (e.vaOf (addr x))) = none) →
          (∀ a, (∀ x ∈ e.left todo, ∀ o, p x = .ok (.host o) → ∀ j, at_ j → a ≠ o + j) → t.host.read a = s.host.read a) ∧
          ∀ a, (∀ x ∈ e.left todo, ∀ port o, p x = .ok (.peer port o) → ∀ j, at_ j → a ≠ port * 2 ^ 47 + o + j) → t.peer.read a = s.peer.read a) ∧
        ∀ y ∈ (t.core e.f.core).l1, ∀ j, j < 128 → y.valid.getLsbD j = true →
          (∃ x ∈ e.left todo, ∃ pa cmp tier rm, p x = .ok (.mem pa cmp tier rm) ∧ y.line = pa / 128 ∧ inLine (pa % 128) j) ∨
          ∃ z ∈ (s.core e.f.core).l1, z.asid = y.asid ∧ z.line = y.line ∧ z.valid.getLsbD j = true ∧
            z.data.extractLsb' (8 * j) 8 = y.data.extractLsb' (8 * j) 8)
    let wide (n : Nat) (j : Nat) : Prop := j < n
    let span (n : Nat) (o j : Nat) : Prop := o ≤ j ∧ j < o + n
    let lanes (j : Nat) : Prop := j < 128 ∧ g.getLsbD (j / 4) = true
    let k : Nat := szBytes h.sub.toNat
    frame (.sst h u) 1 .store .any k (fun _ => .va (e.scalarAddr u)) (wide k) (span k) ∧
    frame (.st h b) g .store .any n (e.laneAddr b) (wide n) (span n) ∧
    frame (.atom h b) g .atomic .any n (e.laneAddr b) (wide n) (fun _ _ => False) ∧
    frame (.atomNr h b) g .atomic .any n (e.laneAddr b) (wide n) (fun _ _ => False) ∧
    frame (.stx h b) (linesOf b) .store .noAlcove 128 (e.lineAddr b) lanes (fun _ => lanes) ∧
    frame (.sta h b) (linesOf b) .store .any 128 (e.lineAddr b) lanes (fun _ => lanes) ∧
    frame (.stat h b) (linesOf b) .store .atrium 128 (e.lineAddr b) (fun _ => False) (fun _ _ => False)

end
end

