-- ==== Sys2Proof/Laws/Encoding.lean ====
section
/-! SUPPORT. The fields of a word: what the decoder reads from a word is what the encoder put there, format by format
(R225, R228 to R235). -/

set_option linter.unusedSimpArgs false

namespace Sys2Proof.Laws

theorem field_low {n m : Nat} (x : BitVec n) (y : BitVec m) (k l : Nat) (h : k + l ≤ m) :
    (x ++ y).extractLsb' k l = y.extractLsb' k l := by
  apply BitVec.eq_of_getLsbD_eq
  intro i hi
  simp only [BitVec.getLsbD_extractLsb', BitVec.getLsbD_append, hi, decide_true, Bool.true_and]
  rw [if_pos (by omega)]

theorem field_high {n m : Nat} (x : BitVec n) (y : BitVec m) (k l : Nat) (h : m ≤ k) :
    (x ++ y).extractLsb' k l = x.extractLsb' (k - m) l := by
  apply BitVec.eq_of_getLsbD_eq
  intro i hi
  simp only [BitVec.getLsbD_extractLsb', BitVec.getLsbD_append, hi, decide_true, Bool.true_and]
  rw [if_neg (by omega)]
  congr 1
  omega

theorem bit_high {n m : Nat} (x : BitVec n) (y : BitVec m) (k : Nat) (h : m ≤ k) : (x ++ y).getLsbD k = x.getLsbD (k - m) := by
  rw [BitVec.getLsbD_append, if_neg (by omega)]

theorem bit_low {n m : Nat} (x : BitVec n) (y : BitVec m) (k : Nat) (h : k < m) : (x ++ y).getLsbD k = y.getLsbD k := by
  rw [BitVec.getLsbD_append, if_pos h]

theorem flag_bit (b : Bool) : (flag b).getLsbD 0 = b := by cases b <;> rfl

theorem body_field (opc : Byte) (h : Hdr) (b : BitVec 72) (k l : Nat) (e : k + l ≤ 72) :
    (word opc h b).extractLsb' k l = b.extractLsb' k l := field_low _ _ _ _ e

theorem body_bit (opc : Byte) (h : Hdr) (b : BitVec 72) (k : Nat) (e : k < 72) : (word opc h b).getLsbD k = b.getLsbD k :=
  bit_low _ _ _ e

theorem header_field (opc : Byte) (h : Hdr) (b : BitVec 72) (k l : Nat) (e : 72 ≤ k) :
    (word opc h b).extractLsb' k l = (packHdr opc h).extractLsb' (k - 72) l := field_high _ _ _ _ e

theorem header_bit (opc : Byte) (h : Hdr) (b : BitVec 72) (k : Nat) (e : 72 ≤ k) :
    (word opc h b).getLsbD k = (packHdr opc h).getLsbD (k - 72) := bit_high _ _ _ e

theorem unpackHdr_word (opc : Byte) (h : Hdr) (b : BitVec 72) : unpackHdr (word opc h b) = h := by
  cases h
  simp (disch := omega) only [unpackHdr, bit, header_field, header_bit]
  simp (disch := omega) only [packHdr, flag_bit, BitVec.extractLsb'_eq_self, Nat.reduceSub, Nat.reduceAdd,
    @field_low 21 3, @field_high 21 3, @bit_high 21 3, @field_low 19 2, @field_high 19 2, @bit_high 19 2, @field_low 18 1, @field_high 18 1,
    @bit_high 18 1, @bit_low 18 1, @field_low 15 3, @field_high 15 3, @bit_high 15 3, @field_low 14 1, @field_high 14 1, @bit_high 14 1,
    @bit_low 14 1, @field_low 8 6, @field_high 8 6, @bit_high 8 6]

/-- The two digits of the opcode. -/
theorem row_word (opc : Byte) (h : Hdr) (b : BitVec 72) : (word opc h b).extractLsb' 92 4 = opc.extractLsb' 4 4 := by
  simp (disch := omega) only [header_field]
  simp (disch := omega) only [packHdr, Nat.reduceSub, Nat.reduceAdd,
    @field_low 21 3, @field_high 21 3, @bit_high 21 3, @field_low 19 2, @field_high 19 2, @bit_high 19 2, @field_low 18 1, @field_high 18 1,
    @bit_high 18 1, @bit_low 18 1, @field_low 15 3, @field_high 15 3, @bit_high 15 3, @field_low 14 1, @field_high 14 1, @bit_high 14 1,
    @bit_low 14 1, @field_low 8 6, @field_high 8 6, @bit_high 8 6]

theorem column_word (opc : Byte) (h : Hdr) (b : BitVec 72) : (word opc h b).extractLsb' 88 4 = opc.extractLsb' 0 4 := by
  simp (disch := omega) only [header_field]
  simp (disch := omega) only [packHdr, Nat.reduceSub, Nat.reduceAdd,
    @field_low 21 3, @field_high 21 3, @bit_high 21 3, @field_low 19 2, @field_high 19 2, @bit_high 19 2, @field_low 18 1, @field_high 18 1,
    @bit_high 18 1, @bit_low 18 1, @field_low 15 3, @field_high 15 3, @bit_high 15 3, @field_low 14 1, @field_high 14 1, @bit_high 14 1,
    @bit_low 14 1, @field_low 8 6, @field_high 8 6, @bit_high 8 6]

theorem unpackU_word (opc : Byte) (h : Hdr) (b : UBody) : unpackU (word opc h (packU b)) = b := by
  cases b
  simp (disch := omega) only [unpackU, body_field, bit, body_bit]
  simp (disch := omega) only [packU, flag_bit, BitVec.extractLsb'_eq_self, Nat.reduceSub, Nat.reduceAdd,
    @field_low 40 32, @field_high 40 32, @bit_high 40 32, @field_low 32 8, @field_high 32 8, @bit_high 32 8, @field_low 28 4, @field_high 28 4,
    @bit_high 28 4, @field_low 27 1, @field_high 27 1, @bit_high 27 1, @bit_low 27 1, @field_low 24 3, @field_high 24 3, @bit_high 24 3,
    @field_low 18 6, @field_high 18 6, @bit_high 18 6, @field_low 12 6, @field_high 12 6, @bit_high 12 6, @field_low 6 6, @field_high 6 6,
    @bit_high 6 6]

theorem unpackAnchor_word (opc : Byte) (h : Hdr) (b : AnchorBody) : unpackAnchor (word opc h (packAnchor b)) = b := by
  cases b
  simp (disch := omega) only [unpackAnchor, body_field]
  simp (disch := omega) only [packAnchor, BitVec.extractLsb'_eq_self, Nat.reduceSub, Nat.reduceAdd,
    @field_low 40 32, @field_high 40 32, @field_low 9 31, @field_high 9 31, @field_low 3 6, @field_high 3 6]

theorem unpackC_word (opc : Byte) (h : Hdr) (b : CBody) : unpackC (word opc h (packC b)) = b := by
  cases b
  simp (disch := omega) only [unpackC, body_field]
  simp (disch := omega) only [packC, BitVec.extractLsb'_eq_self, Nat.reduceSub, Nat.reduceAdd,
    @field_low 69 3, @field_high 69 3, @field_low 45 24, @field_high 45 24, @field_low 32 13, @field_high 32 13, @field_low 20 12, @field_high
    20 12, @field_low 12 8, @field_high 12 8, @field_low 6 6, @field_high 6 6]

theorem unpackV_word (opc : Byte) (h : Hdr) (b : VBody) : unpackV (word opc h (packV b)) = b := by
  cases b
  simp (disch := omega) only [unpackV, body_field, bit, body_bit]
  simp (disch := omega) only [packV, flag_bit, BitVec.extractLsb'_eq_self, Nat.reduceSub, Nat.reduceAdd,
    @field_low 40 32, @field_high 40 32, @bit_high 40 32, @field_low 36 4, @field_high 36 4, @bit_high 36 4, @field_low 32 4, @field_high 32 4,
    @bit_high 32 4, @field_low 31 1, @field_high 31 1, @bit_high 31 1, @bit_low 31 1, @field_low 28 3, @field_high 28 3, @bit_high 28 3,
    @field_low 25 3, @field_high 25 3, @bit_high 25 3, @field_low 24 1, @field_high 24 1, @bit_high 24 1, @bit_low 24 1, @field_low 16 8,
    @field_high 16 8, @bit_high 16 8, @field_low 8 8, @field_high 8 8, @bit_high 8 8]

theorem unpackV3_word (opc : Byte) (h : Hdr) (b : V3Body) : unpackV3 (word opc h (packV3 b)) = b := by
  cases b
  simp (disch := omega) only [unpackV3, body_field, bit, body_bit]
  simp (disch := omega) only [packV3, flag_bit, BitVec.extractLsb'_eq_self, Nat.reduceSub, Nat.reduceAdd,
    @field_low 47 25, @field_high 47 25, @bit_high 47 25, @field_low 43 4, @field_high 43 4, @bit_high 43 4, @field_low 40 3, @field_high 40 3,
    @bit_high 40 3, @field_low 36 4, @field_high 36 4, @bit_high 36 4, @field_low 35 1, @field_high 35 1, @bit_high 35 1, @bit_low 35 1,
    @field_low 32 3, @field_high 32 3, @bit_high 32 3, @field_low 24 8, @field_high 24 8, @bit_high 24 8, @field_low 16 8, @field_high 16 8,
    @bit_high 16 8, @field_low 8 8, @field_high 8 8, @bit_high 8 8]

theorem unpackM_word (opc : Byte) (h : Hdr) (b : MBody) : unpackM (word opc h (packM b)) = b := by
  cases b
  simp (disch := omega) only [unpackM, body_field, bit, body_bit]
  simp (disch := omega) only [packM, flag_bit, BitVec.extractLsb'_eq_self, Nat.reduceSub, Nat.reduceAdd,
    @field_low 48 24, @field_high 48 24, @bit_high 48 24, @field_low 40 8, @field_high 40 8, @bit_high 40 8, @field_low 39 1, @field_high 39 1,
    @bit_high 39 1, @bit_low 39 1, @field_low 36 3, @field_high 36 3, @bit_high 36 3, @field_low 32 4, @field_high 32 4, @bit_high 32 4,
    @field_low 28 4, @field_high 28 4, @bit_high 28 4, @field_low 22 6, @field_high 22 6, @bit_high 22 6, @field_low 21 1, @field_high 21 1,
    @bit_high 21 1, @bit_low 21 1, @field_low 19 2, @field_high 19 2, @bit_high 19 2, @field_low 16 3, @field_high 16 3, @bit_high 16 3,
    @field_low 8 8, @field_high 8 8, @bit_high 8 8]

theorem unpackA_word (opc : Byte) (h : Hdr) (b : ABody) : unpackA (word opc h (packA b)) = b := by
  cases b
  simp (disch := omega) only [unpackA, body_field, bit, body_bit]
  simp (disch := omega) only [packA, flag_bit, BitVec.extractLsb'_eq_self, Nat.reduceSub, Nat.reduceAdd,
    @field_low 48 24, @field_high 48 24, @bit_high 48 24, @field_low 42 6, @field_high 42 6, @bit_high 42 6, @field_low 41 1, @field_high 41 1,
    @bit_high 41 1, @bit_low 41 1, @field_low 35 6, @field_high 35 6, @bit_high 35 6, @field_low 34 1, @field_high 34 1, @bit_high 34 1,
    @bit_low 34 1, @field_low 33 1, @field_high 33 1, @bit_high 33 1, @bit_low 33 1, @field_low 32 1, @field_high 32 1, @bit_high 32 1, @bit_low
    32 1, @field_low 24 8, @field_high 24 8, @bit_high 24 8, @field_low 18 6, @field_high 18 6, @bit_high 18 6, @field_low 12 6, @field_high 12
    6, @bit_high 12 6, @field_low 6 6, @field_high 6 6, @bit_high 6 6]

theorem unpackX_word (opc : Byte) (h : Hdr) (b : XBody) : unpackX (word opc h (packX b)) = b := by
  cases b
  simp (disch := omega) only [unpackX, body_field]
  simp (disch := omega) only [packX, BitVec.extractLsb'_eq_self, Nat.reduceSub, Nat.reduceAdd,
    @field_low 49 23, @field_high 49 23, @field_low 41 8, @field_high 41 8, @field_low 38 3, @field_high 38 3, @field_low 34 4, @field_high 34
    4, @field_low 26 8, @field_high 26 8, @field_low 20 6, @field_high 20 6, @field_low 14 6, @field_high 14 6, @field_low 8 6, @field_high 8 6,
    @field_low 4 4, @field_high 4 4]

theorem unpackT_word (opc : Byte) (h : Hdr) (b : TBody) : unpackT (word opc h (packT b)) = b := by
  cases b
  simp (disch := omega) only [unpackT, body_field]
  simp (disch := omega) only [packT, BitVec.extractLsb'_eq_self, Nat.reduceSub, Nat.reduceAdd,
    @field_low 40 32, @field_high 40 32, @field_low 29 11, @field_high 29 11, @field_low 26 3, @field_high 26 3, @field_low 20 6, @field_high 20
    6, @field_low 14 6, @field_high 14 6, @field_low 8 6, @field_high 8 6]

/-- The operation fields that select among the forms of one opcode in the T format. -/
theorem to_word (opc : Byte) (h : Hdr) (b : TBody) : (word opc h (packT b)).extractLsb' 32 11 = b.topt := by
  simp (disch := omega) only [body_field]
  simp (disch := omega) only [packT, BitVec.extractLsb'_eq_self, Nat.reduceSub, Nat.reduceAdd,
    @field_low 40 32, @field_high 40 32, @field_low 29 11, @field_high 29 11, @field_low 26 3, @field_high 26 3, @field_low 20 6, @field_high 20
    6, @field_low 14 6, @field_high 14 6, @field_low 8 6, @field_high 8 6]

theorem lane_word (opc : Byte) (h : Hdr) (b : TBody) : (word opc h (packT b)).extractLsb' 32 1 = flag (b.topt.getLsbD 0) := by
  have e : (word opc h (packT b)).extractLsb' 32 1 = ((word opc h (packT b)).extractLsb' 32 11).extractLsb' 0 1 := by
    apply BitVec.eq_of_getLsbD_eq
    intro i hi
    simp [hi]
    omega
  rw [e, to_word]
  apply BitVec.eq_of_getLsbD_eq
  intro i hi
  obtain rfl : i = 0 := by omega
  simp [flag]

end Sys2Proof.Laws
end

