-- ==== Sys2Proof/Laws/SMap.lean ====
section
/-! SUPPORT. Sorted lists of key and value pairs, and byte memory: a read after a write, and the canonical form that every
memory operation keeps (assumption 1). -/

namespace Sys2Proof.Machine

@[simp] theorem lookup_insert_self {α : Type} (l : List (Nat × α)) (a : Nat) (x : α) : lookup (insert l a x) a = some x := by
  induction l with
  | nil => simp [insert, lookup]
  | cons c l ih =>
    simp only [insert]
    split
    · simp [lookup]
    · split
      · simp [lookup]
      · rename_i h1 h2
        simp only [lookup, h1, if_neg h2, ih]
        rfl

theorem lookup_insert_ne {α : Type} (l : List (Nat × α)) (a b : Nat) (x : α) (h : a ≠ b) :
    lookup (insert l a x) b = lookup l b := by
  induction l with
  | nil => simp [insert, lookup, h]
  | cons c l ih =>
    obtain ⟨k, v⟩ := c
    simp only [insert]
    split
    · rename_i h1
      obtain rfl : k = a := by simpa using h1
      simp [lookup, h]
    · split
      · rename_i h1 h2
        simp only [lookup]
        have h3 : (a == b) = false := by simpa using h
        simp only [h3]
        by_cases h4 : b < a
        · have h5 : ¬ k = b := by omega
          have h6 : b < k := by omega
          simp [h4, h5, h6]
        · simp [h4]
      · simp only [lookup, ih]

/-- Every key of the list is above a bound. -/
def above {α : Type} (a : Nat) (l : List (Nat × α)) : Prop := ∀ c ∈ l, a < c.1

theorem rising_cons {α : Type} (a : Nat) (x : α) (l : List (Nat × α)) :
    rising ((a, x) :: l) = true ↔ above a l ∧ rising l = true := by
  induction l generalizing a x with
  | nil => simp [rising, above]
  | cons c l ih =>
    obtain ⟨b, y⟩ := c
    simp only [rising, Bool.and_eq_true, decide_eq_true_eq, above, List.forall_mem_cons]
    constructor
    · rintro ⟨h, h'⟩
      exact ⟨⟨h, fun c hc => Nat.lt_trans h (((ih b y).1 h').1 c hc)⟩, h'⟩
    · rintro ⟨⟨h, _⟩, h'⟩
      exact ⟨h, h'⟩

theorem above_insert {α : Type} {a b : Nat} {x : α} {l : List (Nat × α)} (h : above a l) (hab : a < b) : above a (insert l b x) := by
  induction l with
  | nil => simpa [insert, above] using hab
  | cons c l ih =>
    obtain ⟨k, v⟩ := c
    simp only [above, List.forall_mem_cons] at h
    simp only [insert]
    split
    · exact List.forall_mem_cons.2 ⟨hab, h.2⟩
    · split
      · exact List.forall_mem_cons.2 ⟨hab, List.forall_mem_cons.2 h⟩
      · exact List.forall_mem_cons.2 ⟨h.1, ih h.2⟩

theorem rising_insert {α : Type} (l : List (Nat × α)) (a : Nat) (x : α) (h : rising l = true) : rising (insert l a x) = true := by
  induction l with
  | nil => rfl
  | cons c l ih =>
    obtain ⟨k, v⟩ := c
    rw [rising_cons] at h
    simp only [insert]
    split
    · rename_i h1
      obtain rfl : k = a := by simpa using h1
      exact (rising_cons ..).2 h
    · split
      · rename_i h2
        refine (rising_cons ..).2 ⟨?_, (rising_cons ..).2 h⟩
        simp only [above, List.forall_mem_cons]
        exact ⟨h2, fun c hc => Nat.lt_trans h2 (h.1 c hc)⟩
      · rename_i h1 h2
        have h1 : k ≠ a := by simpa using h1
        exact (rising_cons ..).2 ⟨above_insert h.1 (by omega), ih h.2⟩

theorem mem_remove {α : Type} {l : List (Nat × α)} {a : Nat} {c : Nat × α} (h : c ∈ remove l a) : c ∈ l := by
  induction l with
  | nil => simp [remove] at h
  | cons d l ih =>
    simp only [remove] at h
    split at h
    · exact List.mem_cons_of_mem _ h
    · split at h
      · exact h
      · rcases List.mem_cons.1 h with rfl | h
        · exact List.mem_cons_self ..
        · exact List.mem_cons_of_mem _ (ih h)

theorem rising_remove {α : Type} (l : List (Nat × α)) (a : Nat) (h : rising l = true) : rising (remove l a) = true := by
  induction l with
  | nil => rfl
  | cons c l ih =>
    obtain ⟨k, v⟩ := c
    have h' := (rising_cons ..).1 h
    simp only [remove]
    split
    · exact h'.2
    · split
      · exact h
      · exact (rising_cons ..).2 ⟨fun c hc => h'.1 c (mem_remove hc), ih h'.2⟩

theorem lookup_above {α : Type} {l : List (Nat × α)} {a b : Nat} (h : above a l) (hb : b ≤ a) : lookup l b = none := by
  cases l with
  | nil => rfl
  | cons c l =>
    obtain ⟨k, v⟩ := c
    simp only [above, List.forall_mem_cons] at h
    have h1 : ¬ k = b := by have := h.1; omega
    have h2 : b < k := by have := h.1; omega
    simp [lookup, h1, h2]

theorem lookup_remove_self {α : Type} (l : List (Nat × α)) (a : Nat) (h : rising l = true) : lookup (remove l a) a = none := by
  induction l with
  | nil => rfl
  | cons c l ih =>
    obtain ⟨k, v⟩ := c
    have h' := (rising_cons ..).1 h
    simp only [remove]
    split
    · rename_i h1
      obtain rfl : k = a := by simpa using h1
      exact lookup_above h'.1 (Nat.le_refl _)
    · split
      · rename_i h1 h2
        simp only [lookup, h1, if_pos h2]
        rfl
      · rename_i h1 h2
        simp only [lookup, h1, if_neg h2, ih h'.2]
        rfl

theorem lookup_remove_ne {α : Type} (l : List (Nat × α)) (a b : Nat) (h : rising l = true) (hab : a ≠ b) :
    lookup (remove l a) b = lookup l b := by
  induction l with
  | nil => rfl
  | cons c l ih =>
    obtain ⟨k, v⟩ := c
    have h' := (rising_cons ..).1 h
    simp only [remove]
    split
    · rename_i h1
      obtain rfl : k = a := by simpa using h1
      simp only [lookup]
      have h3 : (k == b) = false := by simpa using hab
      simp only [h3]
      by_cases h4 : b < k
      · rw [lookup_above h'.1 (Nat.le_of_lt h4)]
        simp [h4]
      · simp [h4]
    · split
      · rfl
      · simp only [lookup, ih h'.2]

namespace Mem

theorem insert_all {m : Mem} {a : Nat} {x : Byte} (h : (m.all fun c => c.2 != 0) = true) (hx : x ≠ 0) :
    ((insert m a x).all fun c => c.2 != 0) = true := by
  induction m with
  | nil => simpa [insert] using hx
  | cons c m ih =>
    obtain ⟨k, v⟩ := c
    simp only [List.all_cons, Bool.and_eq_true] at h
    simp only [insert]
    split
    · rw [List.all_cons, Bool.and_eq_true]
      exact ⟨by simpa using hx, h.2⟩
    · split
      · rw [List.all_cons, List.all_cons, Bool.and_eq_true, Bool.and_eq_true]
        exact ⟨by simpa using hx, h⟩
      · simp only [List.all_cons, Bool.and_eq_true]
        exact ⟨h.1, ih h.2⟩

/-- A write keeps the canonical form. -/
theorem write_wf {m : Mem} (h : m.wf = true) (a : Nat) (x : Byte) : (write m a x).wf = true := by
  simp only [wf, Bool.and_eq_true] at h ⊢
  unfold write
  split
  · refine ⟨rising_remove m a h.1, ?_⟩
    rw [List.all_eq_true] at h ⊢
    exact fun c hc => h.2 c (mem_remove hc)
  · rename_i hx
    exact ⟨rising_insert m a x h.1, insert_all h.2 (by simpa using hx)⟩

/-- A read after a write to the same place gives the value written. -/
theorem read_write_self {m : Mem} (h : m.wf = true) (a : Nat) (x : Byte) : read (write m a x) a = x := by
  have h' : rising m = true := by simp only [wf, Bool.and_eq_true] at h; exact h.1
  unfold read write
  split
  · rename_i hx
    rw [lookup_remove_self m a h']
    simpa using Eq.symm (by simpa using hx)
  · simp

/-- A write leaves every other place alone. -/
theorem read_write_ne {m : Mem} (h : m.wf = true) (a b : Nat) (x : Byte) (hab : a ≠ b) : read (write m a x) b = read m b := by
  have h' : rising m = true := by simp only [wf, Bool.and_eq_true] at h; exact h.1
  unfold read write
  split
  · rw [lookup_remove_ne m a b h' hab]
  · rw [lookup_insert_ne m a b x hab]

theorem writeN_wf (n : Nat) : ∀ {m : Mem}, m.wf = true → ∀ (a x : Nat), (writeN m a n x).wf = true := by
  induction n with
  | zero => exact fun h _ _ => h
  | succ n ih => exact fun h a x => ih (write_wf h _ _) _ _

theorem writeBytes_wf (l : List Byte) : ∀ {m : Mem}, m.wf = true → ∀ (a : Nat), (writeBytes m a l).wf = true := by
  induction l with
  | nil => exact fun h _ => h
  | cons x l ih => exact fun h a => ih (write_wf h _ _) _

theorem setLine_wf {m : Mem} (h : m.wf = true) (l : Nat) (x : Line) : (setLine m l x).wf = true := writeN_wf _ h _ _

theorem place_wf (part : Mem) : ∀ {m : Mem}, m.wf = true → ∀ (lo : Nat), (place m lo part).wf = true := by
  induction part with
  | nil => exact fun h _ => h
  | cons c part ih => exact fun h lo => ih (write_wf h _ _) lo

theorem rising_filter (p : Nat × Byte → Bool) (m : Mem) (h : rising m = true) : rising (m.filter p) = true := by
  induction m with
  | nil => rfl
  | cons c m ih =>
    obtain ⟨a, x⟩ := c
    have h' := (rising_cons ..).1 h
    simp only [List.filter_cons]
    split
    · exact (rising_cons ..).2 ⟨fun c hc => h'.1 c (List.mem_of_mem_filter hc), ih h'.2⟩
    · exact ih h'.2

theorem clear_wf {m : Mem} (h : m.wf = true) (lo n : Nat) : (clear m lo n).wf = true := by
  simp only [wf, Bool.and_eq_true] at h ⊢
  refine ⟨rising_filter _ m h.1, ?_⟩
  rw [List.all_eq_true] at h ⊢
  exact fun c hc => h.2 c (List.mem_of_mem_filter hc)

/-- The bytes below and above those written read as before. -/
theorem read_writeN_outside (n : Nat) : ∀ {m : Mem}, m.wf = true → ∀ (a x b : Nat), (b < a ∨ a + n ≤ b) →
    read (writeN m a n x) b = read m b := by
  induction n with
  | zero => exact fun _ _ _ _ _ => rfl
  | succ n ih =>
    intro m h a x b hb
    simp only [writeN]
    rw [ih (write_wf h _ _) _ _ _ (by omega), read_write_ne h _ _ _ (by omega)]

theorem read_writeBytes_outside (l : List Byte) : ∀ {m : Mem}, m.wf = true → ∀ (a b : Nat), (b < a ∨ a + l.length ≤ b) →
    read (writeBytes m a l) b = read m b := by
  induction l with
  | nil => exact fun _ _ _ _ => rfl
  | cons x l ih =>
    intro m h a b hb
    simp only [writeBytes]
    rw [List.length_cons] at hb
    rw [ih (write_wf h _ _) _ _ (by omega), read_write_ne h _ _ _ (by omega)]

/-- What was written is what is read. -/
theorem readN_writeN (n : Nat) : ∀ {m : Mem}, m.wf = true → ∀ (a x : Nat), readN (writeN m a n x) a n = x % 256 ^ n := by
  induction n with
  | zero => simp [readN, Nat.mod_one]
  | succ n ih =>
    intro m h a x
    simp only [readN, writeN]
    rw [read_writeN_outside n (write_wf h _ _) _ _ _ (by omega), read_write_self h, ih (write_wf h _ _)]
    have e : 256 ^ (n + 1) = 256 * 256 ^ n := by rw [Nat.pow_succ, Nat.mul_comm]
    rw [BitVec.toNat_ofNat, e, Nat.mod_mul, show (2 : Nat) ^ 8 = 256 from rfl]

end Mem

end Sys2Proof.Machine
end

