-- ==== Sys2Proof/Laws/State.lean ====
section
/-! SUPPORT. What each update of the state's parts leaves of every other part: one lemma per field per update. -/

namespace Sys2Proof.Machine

@[simp] theorem State.setCore_agenda (s : State) (n : Nat) (c : Core) : (s.setCore n c).agenda = s.agenda := rfl
@[simp] theorem State.setCore_todo (s : State) (n : Nat) (c : Core) : (s.setCore n c).todo = s.todo := rfl
@[simp] theorem State.setCore_focus (s : State) (n : Nat) (c : Core) : (s.setCore n c).focus = s.focus := rfl
@[simp] theorem State.setCore_ac (s : State) (n : Nat) (c : Core) : (s.setCore n c).ac = s.ac := rfl
@[simp] theorem State.setCore_time (s : State) (n : Nat) (c : Core) : (s.setCore n c).time = s.time := rfl
@[simp] theorem State.setCore_step (s : State) (n : Nat) (c : Core) : (s.setCore n c).step = s.step := rfl
@[simp] theorem State.setCore_freeCtr (s : State) (n : Nat) (c : Core) : (s.setCore n c).freeCtr = s.freeCtr := rfl
@[simp] theorem State.setCore_powered (s : State) (n : Nat) (c : Core) : (s.setCore n c).powered = s.powered := rfl
@[simp] theorem State.setCore_coresOn (s : State) (n : Nat) (c : Core) : (s.setCore n c).coresOn = s.coresOn := rfl
@[simp] theorem State.setCore_cores (s : State) (n : Nat) (c : Core) : (s.setCore n c).cores = insert s.cores n c := rfl
@[simp] theorem State.setCore_ctxs (s : State) (n : Nat) (c : Core) : (s.setCore n c).ctxs = s.ctxs := rfl
@[simp] theorem State.setCore_nextCid (s : State) (n : Nat) (c : Core) : (s.setCore n c).nextCid = s.nextCid := rfl
@[simp] theorem State.setCore_dram (s : State) (n : Nat) (c : Core) : (s.setCore n c).dram = s.dram := rfl
@[simp] theorem State.setCore_host (s : State) (n : Nat) (c : Core) : (s.setCore n c).host = s.host := rfl
@[simp] theorem State.setCore_peer (s : State) (n : Nat) (c : Core) : (s.setCore n c).peer = s.peer := rfl
@[simp] theorem State.setCore_atrium (s : State) (n : Nat) (c : Core) : (s.setCore n c).atrium = s.atrium := rfl
@[simp] theorem State.setCore_sigOwner (s : State) (n : Nat) (c : Core) : (s.setCore n c).sigOwner = s.sigOwner := rfl
@[simp] theorem State.setCore_gallery (s : State) (n : Nat) (c : Core) : (s.setCore n c).gallery = s.gallery := rfl
@[simp] theorem State.setCore_l2 (s : State) (n : Nat) (c : Core) : (s.setCore n c).l2 = s.l2 := rfl
@[simp] theorem State.setCore_codes (s : State) (n : Nat) (c : Core) : (s.setCore n c).codes = s.codes := rfl
@[simp] theorem State.setCore_crofts (s : State) (n : Nat) (c : Core) : (s.setCore n c).crofts = s.crofts := rfl
@[simp] theorem State.setCore_reqs (s : State) (n : Nat) (c : Core) : (s.setCore n c).reqs = s.reqs := rfl
@[simp] theorem State.setCore_nextReq (s : State) (n : Nat) (c : Core) : (s.setCore n c).nextReq = s.nextReq := rfl
@[simp] theorem State.setCore_notices (s : State) (n : Nat) (c : Core) : (s.setCore n c).notices = s.notices := rfl
@[simp] theorem State.setCore_maints (s : State) (n : Nat) (c : Core) : (s.setCore n c).maints = s.maints := rfl
@[simp] theorem State.setCore_porters (s : State) (n : Nat) (c : Core) : (s.setCore n c).porters = s.porters := rfl
@[simp] theorem State.setCore_doorbells (s : State) (n : Nat) (c : Core) : (s.setCore n c).doorbells = s.doorbells := rfl
@[simp] theorem State.setCore_qtb (s : State) (n : Nat) (c : Core) : (s.setCore n c).qtb = s.qtb := rfl
@[simp] theorem State.setCore_astb (s : State) (n : Nat) (c : Core) : (s.setCore n c).astb = s.astb := rfl
@[simp] theorem State.setCore_hotctl (s : State) (n : Nat) (c : Core) : (s.setCore n c).hotctl = s.hotctl := rfl
@[simp] theorem State.setCore_hotbuf (s : State) (n : Nat) (c : Core) : (s.setCore n c).hotbuf = s.hotbuf := rfl
@[simp] theorem State.setCore_mgwt (s : State) (n : Nat) (c : Core) : (s.setCore n c).mgwt = s.mgwt := rfl
@[simp] theorem State.setCore_freeRings (s : State) (n : Nat) (c : Core) : (s.setCore n c).freeRings = s.freeRings := rfl
@[simp] theorem State.setCore_keptFrames (s : State) (n : Nat) (c : Core) : (s.setCore n c).keptFrames = s.keptFrames := rfl
@[simp] theorem State.setCore_issuedNow (s : State) (n : Nat) (c : Core) : (s.setCore n c).issuedNow = s.issuedNow := rfl
@[simp] theorem State.setCore_hotStart (s : State) (n : Nat) (c : Core) : (s.setCore n c).hotStart = s.hotStart := rfl
@[simp] theorem State.setCore_shareStart (s : State) (n : Nat) (c : Core) : (s.setCore n c).shareStart = s.shareStart := rfl
@[simp] theorem State.setCore_budgetStart (s : State) (n : Nat) (c : Core) : (s.setCore n c).budgetStart = s.budgetStart := rfl
@[simp] theorem State.setCore_windows (s : State) (n : Nat) (c : Core) : (s.setCore n c).windows = s.windows := rfl
@[simp] theorem State.setCore_taken (s : State) (n : Nat) (c : Core) : (s.setCore n c).taken = s.taken := rfl
@[simp] theorem State.setCore_sketches (s : State) (n : Nat) (c : Core) : (s.setCore n c).sketches = s.sketches := rfl
@[simp] theorem State.setCore_annexes (s : State) (n : Nat) (c : Core) : (s.setCore n c).annexes = s.annexes := rfl
@[simp] theorem State.setCore_fns (s : State) (n : Nat) (c : Core) : (s.setCore n c).fns = s.fns := rfl
@[simp] theorem State.setCore_dies (s : State) (n : Nat) (c : Core) : (s.setCore n c).dies = s.dies := rfl
@[simp] theorem State.setCore_rsown (s : State) (n : Nat) (c : Core) : (s.setCore n c).rsown = s.rsown := rfl
@[simp] theorem State.setCore_resolver (s : State) (n : Nat) (c : Core) : (s.setCore n c).resolver = s.resolver := rfl
@[simp] theorem State.setCore_fbRings (s : State) (n : Nat) (c : Core) : (s.setCore n c).fbRings = s.fbRings := rfl
@[simp] theorem State.setCore_svnFloor (s : State) (n : Nat) (c : Core) : (s.setCore n c).svnFloor = s.svnFloor := rfl
@[simp] theorem State.setCore_svnSeen (s : State) (n : Nat) (c : Core) : (s.setCore n c).svnSeen = s.svnSeen := rfl
@[simp] theorem State.setCore_links (s : State) (n : Nat) (c : Core) : (s.setCore n c).links = s.links := rfl
@[simp] theorem State.setCore_powerCap (s : State) (n : Nat) (c : Core) : (s.setCore n c).powerCap = s.powerCap := rfl
@[simp] theorem State.setCore_clockCeil (s : State) (n : Nat) (c : Core) : (s.setCore n c).clockCeil = s.clockCeil := rfl
@[simp] theorem State.setCore_variant (s : State) (n : Nat) (c : Core) : (s.setCore n c).variant = s.variant := rfl
@[simp] theorem State.setCore_cfgSpace (s : State) (n : Nat) (c : Core) : (s.setCore n c).cfgSpace = s.cfgSpace := rfl
@[simp] theorem State.setCore_measured (s : State) (n : Nat) (c : Core) : (s.setCore n c).measured = s.measured := rfl
@[simp] theorem State.setCore_waitHomes (s : State) (n : Nat) (c : Core) : (s.setCore n c).waitHomes = s.waitHomes := rfl
@[simp] theorem State.setCore_homeHeld (s : State) (n : Nat) (c : Core) : (s.setCore n c).homeHeld = s.homeHeld := rfl
@[simp] theorem State.setCore_packagePower (s : State) (n : Nat) (c : Core) : (s.setCore n c).packagePower = s.packagePower := rfl
@[simp] theorem State.setCore_thermalTrip (s : State) (n : Nat) (c : Core) : (s.setCore n c).thermalTrip = s.thermalTrip := rfl
@[simp] theorem State.setCore_answers (s : State) (n : Nat) (c : Core) : (s.setCore n c).answers = s.answers := rfl

@[simp] theorem State.modCore_agenda (s : State) (n : Nat) (f : Core → Core) : (s.modCore n f).agenda = s.agenda := rfl
@[simp] theorem State.modCore_todo (s : State) (n : Nat) (f : Core → Core) : (s.modCore n f).todo = s.todo := rfl
@[simp] theorem State.modCore_focus (s : State) (n : Nat) (f : Core → Core) : (s.modCore n f).focus = s.focus := rfl
@[simp] theorem State.modCore_ac (s : State) (n : Nat) (f : Core → Core) : (s.modCore n f).ac = s.ac := rfl
@[simp] theorem State.modCore_time (s : State) (n : Nat) (f : Core → Core) : (s.modCore n f).time = s.time := rfl
@[simp] theorem State.modCore_step (s : State) (n : Nat) (f : Core → Core) : (s.modCore n f).step = s.step := rfl
@[simp] theorem State.modCore_freeCtr (s : State) (n : Nat) (f : Core → Core) : (s.modCore n f).freeCtr = s.freeCtr := rfl
@[simp] theorem State.modCore_powered (s : State) (n : Nat) (f : Core → Core) : (s.modCore n f).powered = s.powered := rfl
@[simp] theorem State.modCore_coresOn (s : State) (n : Nat) (f : Core → Core) : (s.modCore n f).coresOn = s.coresOn := rfl
@[simp] theorem State.modCore_cores (s : State) (n : Nat) (f : Core → Core) : (s.modCore n f).cores = insert s.cores n (f (s.core n)) := rfl
@[simp] theorem State.modCore_ctxs (s : State) (n : Nat) (f : Core → Core) : (s.modCore n f).ctxs = s.ctxs := rfl
@[simp] theorem State.modCore_nextCid (s : State) (n : Nat) (f : Core → Core) : (s.modCore n f).nextCid = s.nextCid := rfl
@[simp] theorem State.modCore_dram (s : State) (n : Nat) (f : Core → Core) : (s.modCore n f).dram = s.dram := rfl
@[simp] theorem State.modCore_host (s : State) (n : Nat) (f : Core → Core) : (s.modCore n f).host = s.host := rfl
@[simp] theorem State.modCore_peer (s : State) (n : Nat) (f : Core → Core) : (s.modCore n f).peer = s.peer := rfl
@[simp] theorem State.modCore_atrium (s : State) (n : Nat) (f : Core → Core) : (s.modCore n f).atrium = s.atrium := rfl
@[simp] theorem State.modCore_sigOwner (s : State) (n : Nat) (f : Core → Core) : (s.modCore n f).sigOwner = s.sigOwner := rfl
@[simp] theorem State.modCore_gallery (s : State) (n : Nat) (f : Core → Core) : (s.modCore n f).gallery = s.gallery := rfl
@[simp] theorem State.modCore_l2 (s : State) (n : Nat) (f : Core → Core) : (s.modCore n f).l2 = s.l2 := rfl
@[simp] theorem State.modCore_codes (s : State) (n : Nat) (f : Core → Core) : (s.modCore n f).codes = s.codes := rfl
@[simp] theorem State.modCore_crofts (s : State) (n : Nat) (f : Core → Core) : (s.modCore n f).crofts = s.crofts := rfl
@[simp] theorem State.modCore_reqs (s : State) (n : Nat) (f : Core → Core) : (s.modCore n f).reqs = s.reqs := rfl
@[simp] theorem State.modCore_nextReq (s : State) (n : Nat) (f : Core → Core) : (s.modCore n f).nextReq = s.nextReq := rfl
@[simp] theorem State.modCore_notices (s : State) (n : Nat) (f : Core → Core) : (s.modCore n f).notices = s.notices := rfl
@[simp] theorem State.modCore_maints (s : State) (n : Nat) (f : Core → Core) : (s.modCore n f).maints = s.maints := rfl
@[simp] theorem State.modCore_porters (s : State) (n : Nat) (f : Core → Core) : (s.modCore n f).porters = s.porters := rfl
@[simp] theorem State.modCore_doorbells (s : State) (n : Nat) (f : Core → Core) : (s.modCore n f).doorbells = s.doorbells := rfl
@[simp] theorem State.modCore_qtb (s : State) (n : Nat) (f : Core → Core) : (s.modCore n f).qtb = s.qtb := rfl
@[simp] theorem State.modCore_astb (s : State) (n : Nat) (f : Core → Core) : (s.modCore n f).astb = s.astb := rfl
@[simp] theorem State.modCore_hotctl (s : State) (n : Nat) (f : Core → Core) : (s.modCore n f).hotctl = s.hotctl := rfl
@[simp] theorem State.modCore_hotbuf (s : State) (n : Nat) (f : Core → Core) : (s.modCore n f).hotbuf = s.hotbuf := rfl
@[simp] theorem State.modCore_mgwt (s : State) (n : Nat) (f : Core → Core) : (s.modCore n f).mgwt = s.mgwt := rfl
@[simp] theorem State.modCore_freeRings (s : State) (n : Nat) (f : Core → Core) : (s.modCore n f).freeRings = s.freeRings := rfl
@[simp] theorem State.modCore_keptFrames (s : State) (n : Nat) (f : Core → Core) : (s.modCore n f).keptFrames = s.keptFrames := rfl
@[simp] theorem State.modCore_issuedNow (s : State) (n : Nat) (f : Core → Core) : (s.modCore n f).issuedNow = s.issuedNow := rfl
@[simp] theorem State.modCore_hotStart (s : State) (n : Nat) (f : Core → Core) : (s.modCore n f).hotStart = s.hotStart := rfl
@[simp] theorem State.modCore_shareStart (s : State) (n : Nat) (f : Core → Core) : (s.modCore n f).shareStart = s.shareStart := rfl
@[simp] theorem State.modCore_budgetStart (s : State) (n : Nat) (f : Core → Core) : (s.modCore n f).budgetStart = s.budgetStart := rfl
@[simp] theorem State.modCore_windows (s : State) (n : Nat) (f : Core → Core) : (s.modCore n f).windows = s.windows := rfl
@[simp] theorem State.modCore_taken (s : State) (n : Nat) (f : Core → Core) : (s.modCore n f).taken = s.taken := rfl
@[simp] theorem State.modCore_sketches (s : State) (n : Nat) (f : Core → Core) : (s.modCore n f).sketches = s.sketches := rfl
@[simp] theorem State.modCore_annexes (s : State) (n : Nat) (f : Core → Core) : (s.modCore n f).annexes = s.annexes := rfl
@[simp] theorem State.modCore_fns (s : State) (n : Nat) (f : Core → Core) : (s.modCore n f).fns = s.fns := rfl
@[simp] theorem State.modCore_dies (s : State) (n : Nat) (f : Core → Core) : (s.modCore n f).dies = s.dies := rfl
@[simp] theorem State.modCore_rsown (s : State) (n : Nat) (f : Core → Core) : (s.modCore n f).rsown = s.rsown := rfl
@[simp] theorem State.modCore_resolver (s : State) (n : Nat) (f : Core → Core) : (s.modCore n f).resolver = s.resolver := rfl
@[simp] theorem State.modCore_fbRings (s : State) (n : Nat) (f : Core → Core) : (s.modCore n f).fbRings = s.fbRings := rfl
@[simp] theorem State.modCore_svnFloor (s : State) (n : Nat) (f : Core → Core) : (s.modCore n f).svnFloor = s.svnFloor := rfl
@[simp] theorem State.modCore_svnSeen (s : State) (n : Nat) (f : Core → Core) : (s.modCore n f).svnSeen = s.svnSeen := rfl
@[simp] theorem State.modCore_links (s : State) (n : Nat) (f : Core → Core) : (s.modCore n f).links = s.links := rfl
@[simp] theorem State.modCore_powerCap (s : State) (n : Nat) (f : Core → Core) : (s.modCore n f).powerCap = s.powerCap := rfl
@[simp] theorem State.modCore_clockCeil (s : State) (n : Nat) (f : Core → Core) : (s.modCore n f).clockCeil = s.clockCeil := rfl
@[simp] theorem State.modCore_variant (s : State) (n : Nat) (f : Core → Core) : (s.modCore n f).variant = s.variant := rfl
@[simp] theorem State.modCore_cfgSpace (s : State) (n : Nat) (f : Core → Core) : (s.modCore n f).cfgSpace = s.cfgSpace := rfl
@[simp] theorem State.modCore_measured (s : State) (n : Nat) (f : Core → Core) : (s.modCore n f).measured = s.measured := rfl
@[simp] theorem State.modCore_waitHomes (s : State) (n : Nat) (f : Core → Core) : (s.modCore n f).waitHomes = s.waitHomes := rfl
@[simp] theorem State.modCore_homeHeld (s : State) (n : Nat) (f : Core → Core) : (s.modCore n f).homeHeld = s.homeHeld := rfl
@[simp] theorem State.modCore_packagePower (s : State) (n : Nat) (f : Core → Core) : (s.modCore n f).packagePower = s.packagePower := rfl
@[simp] theorem State.modCore_thermalTrip (s : State) (n : Nat) (f : Core → Core) : (s.modCore n f).thermalTrip = s.thermalTrip := rfl
@[simp] theorem State.modCore_answers (s : State) (n : Nat) (f : Core → Core) : (s.modCore n f).answers = s.answers := rfl

@[simp] theorem State.setCtx_agenda (s : State) (cid : Nat) (c : Ctx) : (s.setCtx cid c).agenda = s.agenda := rfl
@[simp] theorem State.setCtx_todo (s : State) (cid : Nat) (c : Ctx) : (s.setCtx cid c).todo = s.todo := rfl
@[simp] theorem State.setCtx_focus (s : State) (cid : Nat) (c : Ctx) : (s.setCtx cid c).focus = s.focus := rfl
@[simp] theorem State.setCtx_ac (s : State) (cid : Nat) (c : Ctx) : (s.setCtx cid c).ac = s.ac := rfl
@[simp] theorem State.setCtx_time (s : State) (cid : Nat) (c : Ctx) : (s.setCtx cid c).time = s.time := rfl
@[simp] theorem State.setCtx_step (s : State) (cid : Nat) (c : Ctx) : (s.setCtx cid c).step = s.step := rfl
@[simp] theorem State.setCtx_freeCtr (s : State) (cid : Nat) (c : Ctx) : (s.setCtx cid c).freeCtr = s.freeCtr := rfl
@[simp] theorem State.setCtx_powered (s : State) (cid : Nat) (c : Ctx) : (s.setCtx cid c).powered = s.powered := rfl
@[simp] theorem State.setCtx_coresOn (s : State) (cid : Nat) (c : Ctx) : (s.setCtx cid c).coresOn = s.coresOn := rfl
@[simp] theorem State.setCtx_cores (s : State) (cid : Nat) (c : Ctx) : (s.setCtx cid c).cores = s.cores := rfl
@[simp] theorem State.setCtx_ctxs (s : State) (cid : Nat) (c : Ctx) : (s.setCtx cid c).ctxs = insert s.ctxs cid c := rfl
@[simp] theorem State.setCtx_nextCid (s : State) (cid : Nat) (c : Ctx) : (s.setCtx cid c).nextCid = s.nextCid := rfl
@[simp] theorem State.setCtx_dram (s : State) (cid : Nat) (c : Ctx) : (s.setCtx cid c).dram = s.dram := rfl
@[simp] theorem State.setCtx_host (s : State) (cid : Nat) (c : Ctx) : (s.setCtx cid c).host = s.host := rfl
@[simp] theorem State.setCtx_peer (s : State) (cid : Nat) (c : Ctx) : (s.setCtx cid c).peer = s.peer := rfl
@[simp] theorem State.setCtx_atrium (s : State) (cid : Nat) (c : Ctx) : (s.setCtx cid c).atrium = s.atrium := rfl
@[simp] theorem State.setCtx_sigOwner (s : State) (cid : Nat) (c : Ctx) : (s.setCtx cid c).sigOwner = s.sigOwner := rfl
@[simp] theorem State.setCtx_gallery (s : State) (cid : Nat) (c : Ctx) : (s.setCtx cid c).gallery = s.gallery := rfl
@[simp] theorem State.setCtx_l2 (s : State) (cid : Nat) (c : Ctx) : (s.setCtx cid c).l2 = s.l2 := rfl
@[simp] theorem State.setCtx_codes (s : State) (cid : Nat) (c : Ctx) : (s.setCtx cid c).codes = s.codes := rfl
@[simp] theorem State.setCtx_crofts (s : State) (cid : Nat) (c : Ctx) : (s.setCtx cid c).crofts = s.crofts := rfl
@[simp] theorem State.setCtx_reqs (s : State) (cid : Nat) (c : Ctx) : (s.setCtx cid c).reqs = s.reqs := rfl
@[simp] theorem State.setCtx_nextReq (s : State) (cid : Nat) (c : Ctx) : (s.setCtx cid c).nextReq = s.nextReq := rfl
@[simp] theorem State.setCtx_notices (s : State) (cid : Nat) (c : Ctx) : (s.setCtx cid c).notices = s.notices := rfl
@[simp] theorem State.setCtx_maints (s : State) (cid : Nat) (c : Ctx) : (s.setCtx cid c).maints = s.maints := rfl
@[simp] theorem State.setCtx_porters (s : State) (cid : Nat) (c : Ctx) : (s.setCtx cid c).porters = s.porters := rfl
@[simp] theorem State.setCtx_doorbells (s : State) (cid : Nat) (c : Ctx) : (s.setCtx cid c).doorbells = s.doorbells := rfl
@[simp] theorem State.setCtx_qtb (s : State) (cid : Nat) (c : Ctx) : (s.setCtx cid c).qtb = s.qtb := rfl
@[simp] theorem State.setCtx_astb (s : State) (cid : Nat) (c : Ctx) : (s.setCtx cid c).astb = s.astb := rfl
@[simp] theorem State.setCtx_hotctl (s : State) (cid : Nat) (c : Ctx) : (s.setCtx cid c).hotctl = s.hotctl := rfl
@[simp] theorem State.setCtx_hotbuf (s : State) (cid : Nat) (c : Ctx) : (s.setCtx cid c).hotbuf = s.hotbuf := rfl
@[simp] theorem State.setCtx_mgwt (s : State) (cid : Nat) (c : Ctx) : (s.setCtx cid c).mgwt = s.mgwt := rfl
@[simp] theorem State.setCtx_freeRings (s : State) (cid : Nat) (c : Ctx) : (s.setCtx cid c).freeRings = s.freeRings := rfl
@[simp] theorem State.setCtx_keptFrames (s : State) (cid : Nat) (c : Ctx) : (s.setCtx cid c).keptFrames = s.keptFrames := rfl
@[simp] theorem State.setCtx_issuedNow (s : State) (cid : Nat) (c : Ctx) : (s.setCtx cid c).issuedNow = s.issuedNow := rfl
@[simp] theorem State.setCtx_hotStart (s : State) (cid : Nat) (c : Ctx) : (s.setCtx cid c).hotStart = s.hotStart := rfl
@[simp] theorem State.setCtx_shareStart (s : State) (cid : Nat) (c : Ctx) : (s.setCtx cid c).shareStart = s.shareStart := rfl
@[simp] theorem State.setCtx_budgetStart (s : State) (cid : Nat) (c : Ctx) : (s.setCtx cid c).budgetStart = s.budgetStart := rfl
@[simp] theorem State.setCtx_windows (s : State) (cid : Nat) (c : Ctx) : (s.setCtx cid c).windows = s.windows := rfl
@[simp] theorem State.setCtx_taken (s : State) (cid : Nat) (c : Ctx) : (s.setCtx cid c).taken = s.taken := rfl
@[simp] theorem State.setCtx_sketches (s : State) (cid : Nat) (c : Ctx) : (s.setCtx cid c).sketches = s.sketches := rfl
@[simp] theorem State.setCtx_annexes (s : State) (cid : Nat) (c : Ctx) : (s.setCtx cid c).annexes = s.annexes := rfl
@[simp] theorem State.setCtx_fns (s : State) (cid : Nat) (c : Ctx) : (s.setCtx cid c).fns = s.fns := rfl
@[simp] theorem State.setCtx_dies (s : State) (cid : Nat) (c : Ctx) : (s.setCtx cid c).dies = s.dies := rfl
@[simp] theorem State.setCtx_rsown (s : State) (cid : Nat) (c : Ctx) : (s.setCtx cid c).rsown = s.rsown := rfl
@[simp] theorem State.setCtx_resolver (s : State) (cid : Nat) (c : Ctx) : (s.setCtx cid c).resolver = s.resolver := rfl
@[simp] theorem State.setCtx_fbRings (s : State) (cid : Nat) (c : Ctx) : (s.setCtx cid c).fbRings = s.fbRings := rfl
@[simp] theorem State.setCtx_svnFloor (s : State) (cid : Nat) (c : Ctx) : (s.setCtx cid c).svnFloor = s.svnFloor := rfl
@[simp] theorem State.setCtx_svnSeen (s : State) (cid : Nat) (c : Ctx) : (s.setCtx cid c).svnSeen = s.svnSeen := rfl
@[simp] theorem State.setCtx_links (s : State) (cid : Nat) (c : Ctx) : (s.setCtx cid c).links = s.links := rfl
@[simp] theorem State.setCtx_powerCap (s : State) (cid : Nat) (c : Ctx) : (s.setCtx cid c).powerCap = s.powerCap := rfl
@[simp] theorem State.setCtx_clockCeil (s : State) (cid : Nat) (c : Ctx) : (s.setCtx cid c).clockCeil = s.clockCeil := rfl
@[simp] theorem State.setCtx_variant (s : State) (cid : Nat) (c : Ctx) : (s.setCtx cid c).variant = s.variant := rfl
@[simp] theorem State.setCtx_cfgSpace (s : State) (cid : Nat) (c : Ctx) : (s.setCtx cid c).cfgSpace = s.cfgSpace := rfl
@[simp] theorem State.setCtx_measured (s : State) (cid : Nat) (c : Ctx) : (s.setCtx cid c).measured = s.measured := rfl
@[simp] theorem State.setCtx_waitHomes (s : State) (cid : Nat) (c : Ctx) : (s.setCtx cid c).waitHomes = s.waitHomes := rfl
@[simp] theorem State.setCtx_homeHeld (s : State) (cid : Nat) (c : Ctx) : (s.setCtx cid c).homeHeld = s.homeHeld := rfl
@[simp] theorem State.setCtx_packagePower (s : State) (cid : Nat) (c : Ctx) : (s.setCtx cid c).packagePower = s.packagePower := rfl
@[simp] theorem State.setCtx_thermalTrip (s : State) (cid : Nat) (c : Ctx) : (s.setCtx cid c).thermalTrip = s.thermalTrip := rfl
@[simp] theorem State.setCtx_answers (s : State) (cid : Nat) (c : Ctx) : (s.setCtx cid c).answers = s.answers := rfl

@[simp] theorem State.push_agenda (s : State) (i : Instr) : (s.push i).agenda = s.agenda := rfl
@[simp] theorem State.push_todo (s : State) (i : Instr) : (s.push i).todo = s.todo ++ [i] := rfl
@[simp] theorem State.push_focus (s : State) (i : Instr) : (s.push i).focus = s.focus := rfl
@[simp] theorem State.push_ac (s : State) (i : Instr) : (s.push i).ac = s.ac := rfl
@[simp] theorem State.push_time (s : State) (i : Instr) : (s.push i).time = s.time := rfl
@[simp] theorem State.push_step (s : State) (i : Instr) : (s.push i).step = s.step := rfl
@[simp] theorem State.push_freeCtr (s : State) (i : Instr) : (s.push i).freeCtr = s.freeCtr := rfl
@[simp] theorem State.push_powered (s : State) (i : Instr) : (s.push i).powered = s.powered := rfl
@[simp] theorem State.push_coresOn (s : State) (i : Instr) : (s.push i).coresOn = s.coresOn := rfl
@[simp] theorem State.push_cores (s : State) (i : Instr) : (s.push i).cores = s.cores := rfl
@[simp] theorem State.push_ctxs (s : State) (i : Instr) : (s.push i).ctxs = s.ctxs := rfl
@[simp] theorem State.push_nextCid (s : State) (i : Instr) : (s.push i).nextCid = s.nextCid := rfl
@[simp] theorem State.push_dram (s : State) (i : Instr) : (s.push i).dram = s.dram := rfl
@[simp] theorem State.push_host (s : State) (i : Instr) : (s.push i).host = s.host := rfl
@[simp] theorem State.push_peer (s : State) (i : Instr) : (s.push i).peer = s.peer := rfl
@[simp] theorem State.push_atrium (s : State) (i : Instr) : (s.push i).atrium = s.atrium := rfl
@[simp] theorem State.push_sigOwner (s : State) (i : Instr) : (s.push i).sigOwner = s.sigOwner := rfl
@[simp] theorem State.push_gallery (s : State) (i : Instr) : (s.push i).gallery = s.gallery := rfl
@[simp] theorem State.push_l2 (s : State) (i : Instr) : (s.push i).l2 = s.l2 := rfl
@[simp] theorem State.push_codes (s : State) (i : Instr) : (s.push i).codes = s.codes := rfl
@[simp] theorem State.push_crofts (s : State) (i : Instr) : (s.push i).crofts = s.crofts := rfl
@[simp] theorem State.push_reqs (s : State) (i : Instr) : (s.push i).reqs = s.reqs := rfl
@[simp] theorem State.push_nextReq (s : State) (i : Instr) : (s.push i).nextReq = s.nextReq := rfl
@[simp] theorem State.push_notices (s : State) (i : Instr) : (s.push i).notices = s.notices := rfl
@[simp] theorem State.push_maints (s : State) (i : Instr) : (s.push i).maints = s.maints := rfl
@[simp] theorem State.push_porters (s : State) (i : Instr) : (s.push i).porters = s.porters := rfl
@[simp] theorem State.push_doorbells (s : State) (i : Instr) : (s.push i).doorbells = s.doorbells := rfl
@[simp] theorem State.push_qtb (s : State) (i : Instr) : (s.push i).qtb = s.qtb := rfl
@[simp] theorem State.push_astb (s : State) (i : Instr) : (s.push i).astb = s.astb := rfl
@[simp] theorem State.push_hotctl (s : State) (i : Instr) : (s.push i).hotctl = s.hotctl := rfl
@[simp] theorem State.push_hotbuf (s : State) (i : Instr) : (s.push i).hotbuf = s.hotbuf := rfl
@[simp] theorem State.push_mgwt (s : State) (i : Instr) : (s.push i).mgwt = s.mgwt := rfl
@[simp] theorem State.push_freeRings (s : State) (i : Instr) : (s.push i).freeRings = s.freeRings := rfl
@[simp] theorem State.push_keptFrames (s : State) (i : Instr) : (s.push i).keptFrames = s.keptFrames := rfl
@[simp] theorem State.push_issuedNow (s : State) (i : Instr) : (s.push i).issuedNow = s.issuedNow := rfl
@[simp] theorem State.push_hotStart (s : State) (i : Instr) : (s.push i).hotStart = s.hotStart := rfl
@[simp] theorem State.push_shareStart (s : State) (i : Instr) : (s.push i).shareStart = s.shareStart := rfl
@[simp] theorem State.push_budgetStart (s : State) (i : Instr) : (s.push i).budgetStart = s.budgetStart := rfl
@[simp] theorem State.push_windows (s : State) (i : Instr) : (s.push i).windows = s.windows := rfl
@[simp] theorem State.push_taken (s : State) (i : Instr) : (s.push i).taken = s.taken := rfl
@[simp] theorem State.push_sketches (s : State) (i : Instr) : (s.push i).sketches = s.sketches := rfl
@[simp] theorem State.push_annexes (s : State) (i : Instr) : (s.push i).annexes = s.annexes := rfl
@[simp] theorem State.push_fns (s : State) (i : Instr) : (s.push i).fns = s.fns := rfl
@[simp] theorem State.push_dies (s : State) (i : Instr) : (s.push i).dies = s.dies := rfl
@[simp] theorem State.push_rsown (s : State) (i : Instr) : (s.push i).rsown = s.rsown := rfl
@[simp] theorem State.push_resolver (s : State) (i : Instr) : (s.push i).resolver = s.resolver := rfl
@[simp] theorem State.push_fbRings (s : State) (i : Instr) : (s.push i).fbRings = s.fbRings := rfl
@[simp] theorem State.push_svnFloor (s : State) (i : Instr) : (s.push i).svnFloor = s.svnFloor := rfl
@[simp] theorem State.push_svnSeen (s : State) (i : Instr) : (s.push i).svnSeen = s.svnSeen := rfl
@[simp] theorem State.push_links (s : State) (i : Instr) : (s.push i).links = s.links := rfl
@[simp] theorem State.push_powerCap (s : State) (i : Instr) : (s.push i).powerCap = s.powerCap := rfl
@[simp] theorem State.push_clockCeil (s : State) (i : Instr) : (s.push i).clockCeil = s.clockCeil := rfl
@[simp] theorem State.push_variant (s : State) (i : Instr) : (s.push i).variant = s.variant := rfl
@[simp] theorem State.push_cfgSpace (s : State) (i : Instr) : (s.push i).cfgSpace = s.cfgSpace := rfl
@[simp] theorem State.push_measured (s : State) (i : Instr) : (s.push i).measured = s.measured := rfl
@[simp] theorem State.push_waitHomes (s : State) (i : Instr) : (s.push i).waitHomes = s.waitHomes := rfl
@[simp] theorem State.push_homeHeld (s : State) (i : Instr) : (s.push i).homeHeld = s.homeHeld := rfl
@[simp] theorem State.push_packagePower (s : State) (i : Instr) : (s.push i).packagePower = s.packagePower := rfl
@[simp] theorem State.push_thermalTrip (s : State) (i : Instr) : (s.push i).thermalTrip = s.thermalTrip := rfl
@[simp] theorem State.push_answers (s : State) (i : Instr) : (s.push i).answers = s.answers := rfl

@[simp] theorem State.pushAll_agenda (s : State) (l : List Instr) : (s.pushAll l).agenda = s.agenda := rfl
@[simp] theorem State.pushAll_todo (s : State) (l : List Instr) : (s.pushAll l).todo = s.todo ++ l := rfl
@[simp] theorem State.pushAll_focus (s : State) (l : List Instr) : (s.pushAll l).focus = s.focus := rfl
@[simp] theorem State.pushAll_ac (s : State) (l : List Instr) : (s.pushAll l).ac = s.ac := rfl
@[simp] theorem State.pushAll_time (s : State) (l : List Instr) : (s.pushAll l).time = s.time := rfl
@[simp] theorem State.pushAll_step (s : State) (l : List Instr) : (s.pushAll l).step = s.step := rfl
@[simp] theorem State.pushAll_freeCtr (s : State) (l : List Instr) : (s.pushAll l).freeCtr = s.freeCtr := rfl
@[simp] theorem State.pushAll_powered (s : State) (l : List Instr) : (s.pushAll l).powered = s.powered := rfl
@[simp] theorem State.pushAll_coresOn (s : State) (l : List Instr) : (s.pushAll l).coresOn = s.coresOn := rfl
@[simp] theorem State.pushAll_cores (s : State) (l : List Instr) : (s.pushAll l).cores = s.cores := rfl
@[simp] theorem State.pushAll_ctxs (s : State) (l : List Instr) : (s.pushAll l).ctxs = s.ctxs := rfl
@[simp] theorem State.pushAll_nextCid (s : State) (l : List Instr) : (s.pushAll l).nextCid = s.nextCid := rfl
@[simp] theorem State.pushAll_dram (s : State) (l : List Instr) : (s.pushAll l).dram = s.dram := rfl
@[simp] theorem State.pushAll_host (s : State) (l : List Instr) : (s.pushAll l).host = s.host := rfl
@[simp] theorem State.pushAll_peer (s : State) (l : List Instr) : (s.pushAll l).peer = s.peer := rfl
@[simp] theorem State.pushAll_atrium (s : State) (l : List Instr) : (s.pushAll l).atrium = s.atrium := rfl
@[simp] theorem State.pushAll_sigOwner (s : State) (l : List Instr) : (s.pushAll l).sigOwner = s.sigOwner := rfl
@[simp] theorem State.pushAll_gallery (s : State) (l : List Instr) : (s.pushAll l).gallery = s.gallery := rfl
@[simp] theorem State.pushAll_l2 (s : State) (l : List Instr) : (s.pushAll l).l2 = s.l2 := rfl
@[simp] theorem State.pushAll_codes (s : State) (l : List Instr) : (s.pushAll l).codes = s.codes := rfl
@[simp] theorem State.pushAll_crofts (s : State) (l : List Instr) : (s.pushAll l).crofts = s.crofts := rfl
@[simp] theorem State.pushAll_reqs (s : State) (l : List Instr) : (s.pushAll l).reqs = s.reqs := rfl
@[simp] theorem State.pushAll_nextReq (s : State) (l : List Instr) : (s.pushAll l).nextReq = s.nextReq := rfl
@[simp] theorem State.pushAll_notices (s : State) (l : List Instr) : (s.pushAll l).notices = s.notices := rfl
@[simp] theorem State.pushAll_maints (s : State) (l : List Instr) : (s.pushAll l).maints = s.maints := rfl
@[simp] theorem State.pushAll_porters (s : State) (l : List Instr) : (s.pushAll l).porters = s.porters := rfl
@[simp] theorem State.pushAll_doorbells (s : State) (l : List Instr) : (s.pushAll l).doorbells = s.doorbells := rfl
@[simp] theorem State.pushAll_qtb (s : State) (l : List Instr) : (s.pushAll l).qtb = s.qtb := rfl
@[simp] theorem State.pushAll_astb (s : State) (l : List Instr) : (s.pushAll l).astb = s.astb := rfl
@[simp] theorem State.pushAll_hotctl (s : State) (l : List Instr) : (s.pushAll l).hotctl = s.hotctl := rfl
@[simp] theorem State.pushAll_hotbuf (s : State) (l : List Instr) : (s.pushAll l).hotbuf = s.hotbuf := rfl
@[simp] theorem State.pushAll_mgwt (s : State) (l : List Instr) : (s.pushAll l).mgwt = s.mgwt := rfl
@[simp] theorem State.pushAll_freeRings (s : State) (l : List Instr) : (s.pushAll l).freeRings = s.freeRings := rfl
@[simp] theorem State.pushAll_keptFrames (s : State) (l : List Instr) : (s.pushAll l).keptFrames = s.keptFrames := rfl
@[simp] theorem State.pushAll_issuedNow (s : State) (l : List Instr) : (s.pushAll l).issuedNow = s.issuedNow := rfl
@[simp] theorem State.pushAll_hotStart (s : State) (l : List Instr) : (s.pushAll l).hotStart = s.hotStart := rfl
@[simp] theorem State.pushAll_shareStart (s : State) (l : List Instr) : (s.pushAll l).shareStart = s.shareStart := rfl
@[simp] theorem State.pushAll_budgetStart (s : State) (l : List Instr) : (s.pushAll l).budgetStart = s.budgetStart := rfl
@[simp] theorem State.pushAll_windows (s : State) (l : List Instr) : (s.pushAll l).windows = s.windows := rfl
@[simp] theorem State.pushAll_taken (s : State) (l : List Instr) : (s.pushAll l).taken = s.taken := rfl
@[simp] theorem State.pushAll_sketches (s : State) (l : List Instr) : (s.pushAll l).sketches = s.sketches := rfl
@[simp] theorem State.pushAll_annexes (s : State) (l : List Instr) : (s.pushAll l).annexes = s.annexes := rfl
@[simp] theorem State.pushAll_fns (s : State) (l : List Instr) : (s.pushAll l).fns = s.fns := rfl
@[simp] theorem State.pushAll_dies (s : State) (l : List Instr) : (s.pushAll l).dies = s.dies := rfl
@[simp] theorem State.pushAll_rsown (s : State) (l : List Instr) : (s.pushAll l).rsown = s.rsown := rfl
@[simp] theorem State.pushAll_resolver (s : State) (l : List Instr) : (s.pushAll l).resolver = s.resolver := rfl
@[simp] theorem State.pushAll_fbRings (s : State) (l : List Instr) : (s.pushAll l).fbRings = s.fbRings := rfl
@[simp] theorem State.pushAll_svnFloor (s : State) (l : List Instr) : (s.pushAll l).svnFloor = s.svnFloor := rfl
@[simp] theorem State.pushAll_svnSeen (s : State) (l : List Instr) : (s.pushAll l).svnSeen = s.svnSeen := rfl
@[simp] theorem State.pushAll_links (s : State) (l : List Instr) : (s.pushAll l).links = s.links := rfl
@[simp] theorem State.pushAll_powerCap (s : State) (l : List Instr) : (s.pushAll l).powerCap = s.powerCap := rfl
@[simp] theorem State.pushAll_clockCeil (s : State) (l : List Instr) : (s.pushAll l).clockCeil = s.clockCeil := rfl
@[simp] theorem State.pushAll_variant (s : State) (l : List Instr) : (s.pushAll l).variant = s.variant := rfl
@[simp] theorem State.pushAll_cfgSpace (s : State) (l : List Instr) : (s.pushAll l).cfgSpace = s.cfgSpace := rfl
@[simp] theorem State.pushAll_measured (s : State) (l : List Instr) : (s.pushAll l).measured = s.measured := rfl
@[simp] theorem State.pushAll_waitHomes (s : State) (l : List Instr) : (s.pushAll l).waitHomes = s.waitHomes := rfl
@[simp] theorem State.pushAll_homeHeld (s : State) (l : List Instr) : (s.pushAll l).homeHeld = s.homeHeld := rfl
@[simp] theorem State.pushAll_packagePower (s : State) (l : List Instr) : (s.pushAll l).packagePower = s.packagePower := rfl
@[simp] theorem State.pushAll_thermalTrip (s : State) (l : List Instr) : (s.pushAll l).thermalTrip = s.thermalTrip := rfl
@[simp] theorem State.pushAll_answers (s : State) (l : List Instr) : (s.pushAll l).answers = s.answers := rfl

@[simp] theorem State.draw_agenda (s : State) : s.draw.2.agenda = s.agenda := rfl
@[simp] theorem State.draw_todo (s : State) : s.draw.2.todo = s.todo := rfl
@[simp] theorem State.draw_focus (s : State) : s.draw.2.focus = s.focus := rfl
@[simp] theorem State.draw_ac (s : State) : s.draw.2.ac = s.ac := rfl
@[simp] theorem State.draw_time (s : State) : s.draw.2.time = s.time := rfl
@[simp] theorem State.draw_step (s : State) : s.draw.2.step = s.step := rfl
@[simp] theorem State.draw_freeCtr (s : State) : s.draw.2.freeCtr = s.freeCtr + 1 := rfl
@[simp] theorem State.draw_powered (s : State) : s.draw.2.powered = s.powered := rfl
@[simp] theorem State.draw_coresOn (s : State) : s.draw.2.coresOn = s.coresOn := rfl
@[simp] theorem State.draw_cores (s : State) : s.draw.2.cores = s.cores := rfl
@[simp] theorem State.draw_ctxs (s : State) : s.draw.2.ctxs = s.ctxs := rfl
@[simp] theorem State.draw_nextCid (s : State) : s.draw.2.nextCid = s.nextCid := rfl
@[simp] theorem State.draw_dram (s : State) : s.draw.2.dram = s.dram := rfl
@[simp] theorem State.draw_host (s : State) : s.draw.2.host = s.host := rfl
@[simp] theorem State.draw_peer (s : State) : s.draw.2.peer = s.peer := rfl
@[simp] theorem State.draw_atrium (s : State) : s.draw.2.atrium = s.atrium := rfl
@[simp] theorem State.draw_sigOwner (s : State) : s.draw.2.sigOwner = s.sigOwner := rfl
@[simp] theorem State.draw_gallery (s : State) : s.draw.2.gallery = s.gallery := rfl
@[simp] theorem State.draw_l2 (s : State) : s.draw.2.l2 = s.l2 := rfl
@[simp] theorem State.draw_codes (s : State) : s.draw.2.codes = s.codes := rfl
@[simp] theorem State.draw_crofts (s : State) : s.draw.2.crofts = s.crofts := rfl
@[simp] theorem State.draw_reqs (s : State) : s.draw.2.reqs = s.reqs := rfl
@[simp] theorem State.draw_nextReq (s : State) : s.draw.2.nextReq = s.nextReq := rfl
@[simp] theorem State.draw_notices (s : State) : s.draw.2.notices = s.notices := rfl
@[simp] theorem State.draw_maints (s : State) : s.draw.2.maints = s.maints := rfl
@[simp] theorem State.draw_porters (s : State) : s.draw.2.porters = s.porters := rfl
@[simp] theorem State.draw_doorbells (s : State) : s.draw.2.doorbells = s.doorbells := rfl
@[simp] theorem State.draw_qtb (s : State) : s.draw.2.qtb = s.qtb := rfl
@[simp] theorem State.draw_astb (s : State) : s.draw.2.astb = s.astb := rfl
@[simp] theorem State.draw_hotctl (s : State) : s.draw.2.hotctl = s.hotctl := rfl
@[simp] theorem State.draw_hotbuf (s : State) : s.draw.2.hotbuf = s.hotbuf := rfl
@[simp] theorem State.draw_mgwt (s : State) : s.draw.2.mgwt = s.mgwt := rfl
@[simp] theorem State.draw_freeRings (s : State) : s.draw.2.freeRings = s.freeRings := rfl
@[simp] theorem State.draw_keptFrames (s : State) : s.draw.2.keptFrames = s.keptFrames := rfl
@[simp] theorem State.draw_issuedNow (s : State) : s.draw.2.issuedNow = s.issuedNow := rfl
@[simp] theorem State.draw_hotStart (s : State) : s.draw.2.hotStart = s.hotStart := rfl
@[simp] theorem State.draw_shareStart (s : State) : s.draw.2.shareStart = s.shareStart := rfl
@[simp] theorem State.draw_budgetStart (s : State) : s.draw.2.budgetStart = s.budgetStart := rfl
@[simp] theorem State.draw_windows (s : State) : s.draw.2.windows = s.windows := rfl
@[simp] theorem State.draw_taken (s : State) : s.draw.2.taken = s.taken := rfl
@[simp] theorem State.draw_sketches (s : State) : s.draw.2.sketches = s.sketches := rfl
@[simp] theorem State.draw_annexes (s : State) : s.draw.2.annexes = s.annexes := rfl
@[simp] theorem State.draw_fns (s : State) : s.draw.2.fns = s.fns := rfl
@[simp] theorem State.draw_dies (s : State) : s.draw.2.dies = s.dies := rfl
@[simp] theorem State.draw_rsown (s : State) : s.draw.2.rsown = s.rsown := rfl
@[simp] theorem State.draw_resolver (s : State) : s.draw.2.resolver = s.resolver := rfl
@[simp] theorem State.draw_fbRings (s : State) : s.draw.2.fbRings = s.fbRings := rfl
@[simp] theorem State.draw_svnFloor (s : State) : s.draw.2.svnFloor = s.svnFloor := rfl
@[simp] theorem State.draw_svnSeen (s : State) : s.draw.2.svnSeen = s.svnSeen := rfl
@[simp] theorem State.draw_links (s : State) : s.draw.2.links = s.links := rfl
@[simp] theorem State.draw_powerCap (s : State) : s.draw.2.powerCap = s.powerCap := rfl
@[simp] theorem State.draw_clockCeil (s : State) : s.draw.2.clockCeil = s.clockCeil := rfl
@[simp] theorem State.draw_variant (s : State) : s.draw.2.variant = s.variant := rfl
@[simp] theorem State.draw_cfgSpace (s : State) : s.draw.2.cfgSpace = s.cfgSpace := rfl
@[simp] theorem State.draw_measured (s : State) : s.draw.2.measured = s.measured := rfl
@[simp] theorem State.draw_waitHomes (s : State) : s.draw.2.waitHomes = s.waitHomes := rfl
@[simp] theorem State.draw_homeHeld (s : State) : s.draw.2.homeHeld = s.homeHeld := rfl
@[simp] theorem State.draw_packagePower (s : State) : s.draw.2.packagePower = s.packagePower := rfl
@[simp] theorem State.draw_thermalTrip (s : State) : s.draw.2.thermalTrip = s.thermalTrip := rfl
@[simp] theorem State.draw_answers (s : State) : s.draw.2.answers = s.answers := rfl

@[simp] theorem State.tick_agenda (s : State) (n : Nat) : (s.tick n).agenda = s.agenda := rfl
@[simp] theorem State.tick_todo (s : State) (n : Nat) : (s.tick n).todo = s.todo := rfl
@[simp] theorem State.tick_focus (s : State) (n : Nat) : (s.tick n).focus = s.focus := rfl
@[simp] theorem State.tick_ac (s : State) (n : Nat) : (s.tick n).ac = s.ac + n := rfl
@[simp] theorem State.tick_time (s : State) (n : Nat) : (s.tick n).time = s.time + n * unitsPerAc s.step := rfl
@[simp] theorem State.tick_step (s : State) (n : Nat) : (s.tick n).step = s.step := rfl
@[simp] theorem State.tick_freeCtr (s : State) (n : Nat) : (s.tick n).freeCtr = s.freeCtr := rfl
@[simp] theorem State.tick_powered (s : State) (n : Nat) : (s.tick n).powered = s.powered := rfl
@[simp] theorem State.tick_coresOn (s : State) (n : Nat) : (s.tick n).coresOn = s.coresOn := rfl
@[simp] theorem State.tick_cores (s : State) (n : Nat) : (s.tick n).cores = s.cores := rfl
@[simp] theorem State.tick_ctxs (s : State) (n : Nat) : (s.tick n).ctxs = s.ctxs := rfl
@[simp] theorem State.tick_nextCid (s : State) (n : Nat) : (s.tick n).nextCid = s.nextCid := rfl
@[simp] theorem State.tick_dram (s : State) (n : Nat) : (s.tick n).dram = s.dram := rfl
@[simp] theorem State.tick_host (s : State) (n : Nat) : (s.tick n).host = s.host := rfl
@[simp] theorem State.tick_peer (s : State) (n : Nat) : (s.tick n).peer = s.peer := rfl
@[simp] theorem State.tick_atrium (s : State) (n : Nat) : (s.tick n).atrium = s.atrium := rfl
@[simp] theorem State.tick_sigOwner (s : State) (n : Nat) : (s.tick n).sigOwner = s.sigOwner := rfl
@[simp] theorem State.tick_gallery (s : State) (n : Nat) : (s.tick n).gallery = s.gallery := rfl
@[simp] theorem State.tick_l2 (s : State) (n : Nat) : (s.tick n).l2 = s.l2 := rfl
@[simp] theorem State.tick_codes (s : State) (n : Nat) : (s.tick n).codes = s.codes := rfl
@[simp] theorem State.tick_crofts (s : State) (n : Nat) : (s.tick n).crofts = s.crofts := rfl
@[simp] theorem State.tick_reqs (s : State) (n : Nat) : (s.tick n).reqs = s.reqs := rfl
@[simp] theorem State.tick_nextReq (s : State) (n : Nat) : (s.tick n).nextReq = s.nextReq := rfl
@[simp] theorem State.tick_notices (s : State) (n : Nat) : (s.tick n).notices = s.notices := rfl
@[simp] theorem State.tick_maints (s : State) (n : Nat) : (s.tick n).maints = s.maints := rfl
@[simp] theorem State.tick_porters (s : State) (n : Nat) : (s.tick n).porters = s.porters := rfl
@[simp] theorem State.tick_doorbells (s : State) (n : Nat) : (s.tick n).doorbells = s.doorbells := rfl
@[simp] theorem State.tick_qtb (s : State) (n : Nat) : (s.tick n).qtb = s.qtb := rfl
@[simp] theorem State.tick_astb (s : State) (n : Nat) : (s.tick n).astb = s.astb := rfl
@[simp] theorem State.tick_hotctl (s : State) (n : Nat) : (s.tick n).hotctl = s.hotctl := rfl
@[simp] theorem State.tick_hotbuf (s : State) (n : Nat) : (s.tick n).hotbuf = s.hotbuf := rfl
@[simp] theorem State.tick_mgwt (s : State) (n : Nat) : (s.tick n).mgwt = s.mgwt := rfl
@[simp] theorem State.tick_freeRings (s : State) (n : Nat) : (s.tick n).freeRings = s.freeRings := rfl
@[simp] theorem State.tick_keptFrames (s : State) (n : Nat) : (s.tick n).keptFrames = s.keptFrames := rfl
@[simp] theorem State.tick_issuedNow (s : State) (n : Nat) : (s.tick n).issuedNow = s.issuedNow := rfl
@[simp] theorem State.tick_hotStart (s : State) (n : Nat) : (s.tick n).hotStart = s.hotStart := rfl
@[simp] theorem State.tick_shareStart (s : State) (n : Nat) : (s.tick n).shareStart = s.shareStart := rfl
@[simp] theorem State.tick_budgetStart (s : State) (n : Nat) : (s.tick n).budgetStart = s.budgetStart := rfl
@[simp] theorem State.tick_windows (s : State) (n : Nat) : (s.tick n).windows = s.windows := rfl
@[simp] theorem State.tick_taken (s : State) (n : Nat) : (s.tick n).taken = s.taken := rfl
@[simp] theorem State.tick_sketches (s : State) (n : Nat) : (s.tick n).sketches = s.sketches := rfl
@[simp] theorem State.tick_annexes (s : State) (n : Nat) : (s.tick n).annexes = s.annexes := rfl
@[simp] theorem State.tick_fns (s : State) (n : Nat) : (s.tick n).fns = s.fns := rfl
@[simp] theorem State.tick_dies (s : State) (n : Nat) : (s.tick n).dies = s.dies := rfl
@[simp] theorem State.tick_rsown (s : State) (n : Nat) : (s.tick n).rsown = s.rsown := rfl
@[simp] theorem State.tick_resolver (s : State) (n : Nat) : (s.tick n).resolver = s.resolver := rfl
@[simp] theorem State.tick_fbRings (s : State) (n : Nat) : (s.tick n).fbRings = s.fbRings := rfl
@[simp] theorem State.tick_svnFloor (s : State) (n : Nat) : (s.tick n).svnFloor = s.svnFloor := rfl
@[simp] theorem State.tick_svnSeen (s : State) (n : Nat) : (s.tick n).svnSeen = s.svnSeen := rfl
@[simp] theorem State.tick_links (s : State) (n : Nat) : (s.tick n).links = s.links := rfl
@[simp] theorem State.tick_powerCap (s : State) (n : Nat) : (s.tick n).powerCap = s.powerCap := rfl
@[simp] theorem State.tick_clockCeil (s : State) (n : Nat) : (s.tick n).clockCeil = s.clockCeil := rfl
@[simp] theorem State.tick_variant (s : State) (n : Nat) : (s.tick n).variant = s.variant := rfl
@[simp] theorem State.tick_cfgSpace (s : State) (n : Nat) : (s.tick n).cfgSpace = s.cfgSpace := rfl
@[simp] theorem State.tick_measured (s : State) (n : Nat) : (s.tick n).measured = s.measured := rfl
@[simp] theorem State.tick_waitHomes (s : State) (n : Nat) : (s.tick n).waitHomes = s.waitHomes := rfl
@[simp] theorem State.tick_homeHeld (s : State) (n : Nat) : (s.tick n).homeHeld = s.homeHeld := rfl
@[simp] theorem State.tick_packagePower (s : State) (n : Nat) : (s.tick n).packagePower = s.packagePower := rfl
@[simp] theorem State.tick_thermalTrip (s : State) (n : Nat) : (s.tick n).thermalTrip = s.thermalTrip := rfl
@[simp] theorem State.tick_answers (s : State) (n : Nat) : (s.tick n).answers = s.answers := rfl

/-! ## Updates of a context, a frame, a group or a split change only the list of contexts -/

@[simp] theorem State.modCtx_agenda (s : State) (cid : Nat) (f : Ctx → Ctx) : (s.modCtx cid f).agenda = s.agenda := by unfold State.modCtx; split <;> rfl
@[simp] theorem State.modCtx_todo (s : State) (cid : Nat) (f : Ctx → Ctx) : (s.modCtx cid f).todo = s.todo := by unfold State.modCtx; split <;> rfl
@[simp] theorem State.modCtx_focus (s : State) (cid : Nat) (f : Ctx → Ctx) : (s.modCtx cid f).focus = s.focus := by unfold State.modCtx; split <;> rfl
@[simp] theorem State.modCtx_ac (s : State) (cid : Nat) (f : Ctx → Ctx) : (s.modCtx cid f).ac = s.ac := by unfold State.modCtx; split <;> rfl
@[simp] theorem State.modCtx_time (s : State) (cid : Nat) (f : Ctx → Ctx) : (s.modCtx cid f).time = s.time := by unfold State.modCtx; split <;> rfl
@[simp] theorem State.modCtx_step (s : State) (cid : Nat) (f : Ctx → Ctx) : (s.modCtx cid f).step = s.step := by unfold State.modCtx; split <;> rfl
@[simp] theorem State.modCtx_freeCtr (s : State) (cid : Nat) (f : Ctx → Ctx) : (s.modCtx cid f).freeCtr = s.freeCtr := by unfold State.modCtx; split <;> rfl
@[simp] theorem State.modCtx_powered (s : State) (cid : Nat) (f : Ctx → Ctx) : (s.modCtx cid f).powered = s.powered := by unfold State.modCtx; split <;> rfl
@[simp] theorem State.modCtx_coresOn (s : State) (cid : Nat) (f : Ctx → Ctx) : (s.modCtx cid f).coresOn = s.coresOn := by unfold State.modCtx; split <;> rfl
@[simp] theorem State.modCtx_cores (s : State) (cid : Nat) (f : Ctx → Ctx) : (s.modCtx cid f).cores = s.cores := by unfold State.modCtx; split <;> rfl
@[simp] theorem State.modCtx_nextCid (s : State) (cid : Nat) (f : Ctx → Ctx) : (s.modCtx cid f).nextCid = s.nextCid := by unfold State.modCtx; split <;> rfl
@[simp] theorem State.modCtx_dram (s : State) (cid : Nat) (f : Ctx → Ctx) : (s.modCtx cid f).dram = s.dram := by unfold State.modCtx; split <;> rfl
@[simp] theorem State.modCtx_host (s : State) (cid : Nat) (f : Ctx → Ctx) : (s.modCtx cid f).host = s.host := by unfold State.modCtx; split <;> rfl
@[simp] theorem State.modCtx_peer (s : State) (cid : Nat) (f : Ctx → Ctx) : (s.modCtx cid f).peer = s.peer := by unfold State.modCtx; split <;> rfl
@[simp] theorem State.modCtx_atrium (s : State) (cid : Nat) (f : Ctx → Ctx) : (s.modCtx cid f).atrium = s.atrium := by unfold State.modCtx; split <;> rfl
@[simp] theorem State.modCtx_sigOwner (s : State) (cid : Nat) (f : Ctx → Ctx) : (s.modCtx cid f).sigOwner = s.sigOwner := by unfold State.modCtx; split <;> rfl
@[simp] theorem State.modCtx_gallery (s : State) (cid : Nat) (f : Ctx → Ctx) : (s.modCtx cid f).gallery = s.gallery := by unfold State.modCtx; split <;> rfl
@[simp] theorem State.modCtx_l2 (s : State) (cid : Nat) (f : Ctx → Ctx) : (s.modCtx cid f).l2 = s.l2 := by unfold State.modCtx; split <;> rfl
@[simp] theorem State.modCtx_codes (s : State) (cid : Nat) (f : Ctx → Ctx) : (s.modCtx cid f).codes = s.codes := by unfold State.modCtx; split <;> rfl
@[simp] theorem State.modCtx_crofts (s : State) (cid : Nat) (f : Ctx → Ctx) : (s.modCtx cid f).crofts = s.crofts := by unfold State.modCtx; split <;> rfl
@[simp] theorem State.modCtx_reqs (s : State) (cid : Nat) (f : Ctx → Ctx) : (s.modCtx cid f).reqs = s.reqs := by unfold State.modCtx; split <;> rfl
@[simp] theorem State.modCtx_nextReq (s : State) (cid : Nat) (f : Ctx → Ctx) : (s.modCtx cid f).nextReq = s.nextReq := by unfold State.modCtx; split <;> rfl
@[simp] theorem State.modCtx_notices (s : State) (cid : Nat) (f : Ctx → Ctx) : (s.modCtx cid f).notices = s.notices := by unfold State.modCtx; split <;> rfl
@[simp] theorem State.modCtx_maints (s : State) (cid : Nat) (f : Ctx → Ctx) : (s.modCtx cid f).maints = s.maints := by unfold State.modCtx; split <;> rfl
@[simp] theorem State.modCtx_porters (s : State) (cid : Nat) (f : Ctx → Ctx) : (s.modCtx cid f).porters = s.porters := by unfold State.modCtx; split <;> rfl
@[simp] theorem State.modCtx_doorbells (s : State) (cid : Nat) (f : Ctx → Ctx) : (s.modCtx cid f).doorbells = s.doorbells := by unfold State.modCtx; split <;> rfl
@[simp] theorem State.modCtx_qtb (s : State) (cid : Nat) (f : Ctx → Ctx) : (s.modCtx cid f).qtb = s.qtb := by unfold State.modCtx; split <;> rfl
@[simp] theorem State.modCtx_astb (s : State) (cid : Nat) (f : Ctx → Ctx) : (s.modCtx cid f).astb = s.astb := by unfold State.modCtx; split <;> rfl
@[simp] theorem State.modCtx_hotctl (s : State) (cid : Nat) (f : Ctx → Ctx) : (s.modCtx cid f).hotctl = s.hotctl := by unfold State.modCtx; split <;> rfl
@[simp] theorem State.modCtx_hotbuf (s : State) (cid : Nat) (f : Ctx → Ctx) : (s.modCtx cid f).hotbuf = s.hotbuf := by unfold State.modCtx; split <;> rfl
@[simp] theorem State.modCtx_mgwt (s : State) (cid : Nat) (f : Ctx → Ctx) : (s.modCtx cid f).mgwt = s.mgwt := by unfold State.modCtx; split <;> rfl
@[simp] theorem State.modCtx_freeRings (s : State) (cid : Nat) (f : Ctx → Ctx) : (s.modCtx cid f).freeRings = s.freeRings := by unfold State.modCtx; split <;> rfl
@[simp] theorem State.modCtx_keptFrames (s : State) (cid : Nat) (f : Ctx → Ctx) : (s.modCtx cid f).keptFrames = s.keptFrames := by unfold State.modCtx; split <;> rfl
@[simp] theorem State.modCtx_issuedNow (s : State) (cid : Nat) (f : Ctx → Ctx) : (s.modCtx cid f).issuedNow = s.issuedNow := by unfold State.modCtx; split <;> rfl
@[simp] theorem State.modCtx_hotStart (s : State) (cid : Nat) (f : Ctx → Ctx) : (s.modCtx cid f).hotStart = s.hotStart := by unfold State.modCtx; split <;> rfl
@[simp] theorem State.modCtx_shareStart (s : State) (cid : Nat) (f : Ctx → Ctx) : (s.modCtx cid f).shareStart = s.shareStart := by unfold State.modCtx; split <;> rfl
@[simp] theorem State.modCtx_budgetStart (s : State) (cid : Nat) (f : Ctx → Ctx) : (s.modCtx cid f).budgetStart = s.budgetStart := by unfold State.modCtx; split <;> rfl
@[simp] theorem State.modCtx_windows (s : State) (cid : Nat) (f : Ctx → Ctx) : (s.modCtx cid f).windows = s.windows := by unfold State.modCtx; split <;> rfl
@[simp] theorem State.modCtx_taken (s : State) (cid : Nat) (f : Ctx → Ctx) : (s.modCtx cid f).taken = s.taken := by unfold State.modCtx; split <;> rfl
@[simp] theorem State.modCtx_sketches (s : State) (cid : Nat) (f : Ctx → Ctx) : (s.modCtx cid f).sketches = s.sketches := by unfold State.modCtx; split <;> rfl
@[simp] theorem State.modCtx_annexes (s : State) (cid : Nat) (f : Ctx → Ctx) : (s.modCtx cid f).annexes = s.annexes := by unfold State.modCtx; split <;> rfl
@[simp] theorem State.modCtx_fns (s : State) (cid : Nat) (f : Ctx → Ctx) : (s.modCtx cid f).fns = s.fns := by unfold State.modCtx; split <;> rfl
@[simp] theorem State.modCtx_dies (s : State) (cid : Nat) (f : Ctx → Ctx) : (s.modCtx cid f).dies = s.dies := by unfold State.modCtx; split <;> rfl
@[simp] theorem State.modCtx_rsown (s : State) (cid : Nat) (f : Ctx → Ctx) : (s.modCtx cid f).rsown = s.rsown := by unfold State.modCtx; split <;> rfl
@[simp] theorem State.modCtx_resolver (s : State) (cid : Nat) (f : Ctx → Ctx) : (s.modCtx cid f).resolver = s.resolver := by unfold State.modCtx; split <;> rfl
@[simp] theorem State.modCtx_fbRings (s : State) (cid : Nat) (f : Ctx → Ctx) : (s.modCtx cid f).fbRings = s.fbRings := by unfold State.modCtx; split <;> rfl
@[simp] theorem State.modCtx_svnFloor (s : State) (cid : Nat) (f : Ctx → Ctx) : (s.modCtx cid f).svnFloor = s.svnFloor := by unfold State.modCtx; split <;> rfl
@[simp] theorem State.modCtx_svnSeen (s : State) (cid : Nat) (f : Ctx → Ctx) : (s.modCtx cid f).svnSeen = s.svnSeen := by unfold State.modCtx; split <;> rfl
@[simp] theorem State.modCtx_links (s : State) (cid : Nat) (f : Ctx → Ctx) : (s.modCtx cid f).links = s.links := by unfold State.modCtx; split <;> rfl
@[simp] theorem State.modCtx_powerCap (s : State) (cid : Nat) (f : Ctx → Ctx) : (s.modCtx cid f).powerCap = s.powerCap := by unfold State.modCtx; split <;> rfl
@[simp] theorem State.modCtx_clockCeil (s : State) (cid : Nat) (f : Ctx → Ctx) : (s.modCtx cid f).clockCeil = s.clockCeil := by unfold State.modCtx; split <;> rfl
@[simp] theorem State.modCtx_variant (s : State) (cid : Nat) (f : Ctx → Ctx) : (s.modCtx cid f).variant = s.variant := by unfold State.modCtx; split <;> rfl
@[simp] theorem State.modCtx_cfgSpace (s : State) (cid : Nat) (f : Ctx → Ctx) : (s.modCtx cid f).cfgSpace = s.cfgSpace := by unfold State.modCtx; split <;> rfl
@[simp] theorem State.modCtx_measured (s : State) (cid : Nat) (f : Ctx → Ctx) : (s.modCtx cid f).measured = s.measured := by unfold State.modCtx; split <;> rfl
@[simp] theorem State.modCtx_waitHomes (s : State) (cid : Nat) (f : Ctx → Ctx) : (s.modCtx cid f).waitHomes = s.waitHomes := by unfold State.modCtx; split <;> rfl
@[simp] theorem State.modCtx_homeHeld (s : State) (cid : Nat) (f : Ctx → Ctx) : (s.modCtx cid f).homeHeld = s.homeHeld := by unfold State.modCtx; split <;> rfl
@[simp] theorem State.modCtx_packagePower (s : State) (cid : Nat) (f : Ctx → Ctx) : (s.modCtx cid f).packagePower = s.packagePower := by unfold State.modCtx; split <;> rfl
@[simp] theorem State.modCtx_thermalTrip (s : State) (cid : Nat) (f : Ctx → Ctx) : (s.modCtx cid f).thermalTrip = s.thermalTrip := by unfold State.modCtx; split <;> rfl
@[simp] theorem State.modCtx_answers (s : State) (cid : Nat) (f : Ctx → Ctx) : (s.modCtx cid f).answers = s.answers := by unfold State.modCtx; split <;> rfl

@[simp] theorem State.modFrame_agenda (s : State) (cid h : Nat) (f : Frame → Frame) : (s.modFrame cid h f).agenda = s.agenda := State.modCtx_agenda ..
@[simp] theorem State.modFrame_todo (s : State) (cid h : Nat) (f : Frame → Frame) : (s.modFrame cid h f).todo = s.todo := State.modCtx_todo ..
@[simp] theorem State.modFrame_focus (s : State) (cid h : Nat) (f : Frame → Frame) : (s.modFrame cid h f).focus = s.focus := State.modCtx_focus ..
@[simp] theorem State.modFrame_ac (s : State) (cid h : Nat) (f : Frame → Frame) : (s.modFrame cid h f).ac = s.ac := State.modCtx_ac ..
@[simp] theorem State.modFrame_time (s : State) (cid h : Nat) (f : Frame → Frame) : (s.modFrame cid h f).time = s.time := State.modCtx_time ..
@[simp] theorem State.modFrame_step (s : State) (cid h : Nat) (f : Frame → Frame) : (s.modFrame cid h f).step = s.step := State.modCtx_step ..
@[simp] theorem State.modFrame_freeCtr (s : State) (cid h : Nat) (f : Frame → Frame) : (s.modFrame cid h f).freeCtr = s.freeCtr := State.modCtx_freeCtr ..
@[simp] theorem State.modFrame_powered (s : State) (cid h : Nat) (f : Frame → Frame) : (s.modFrame cid h f).powered = s.powered := State.modCtx_powered ..
@[simp] theorem State.modFrame_coresOn (s : State) (cid h : Nat) (f : Frame → Frame) : (s.modFrame cid h f).coresOn = s.coresOn := State.modCtx_coresOn ..
@[simp] theorem State.modFrame_cores (s : State) (cid h : Nat) (f : Frame → Frame) : (s.modFrame cid h f).cores = s.cores := State.modCtx_cores ..
@[simp] theorem State.modFrame_nextCid (s : State) (cid h : Nat) (f : Frame → Frame) : (s.modFrame cid h f).nextCid = s.nextCid := State.modCtx_nextCid ..
@[simp] theorem State.modFrame_dram (s : State) (cid h : Nat) (f : Frame → Frame) : (s.modFrame cid h f).dram = s.dram := State.modCtx_dram ..
@[simp] theorem State.modFrame_host (s : State) (cid h : Nat) (f : Frame → Frame) : (s.modFrame cid h f).host = s.host := State.modCtx_host ..
@[simp] theorem State.modFrame_peer (s : State) (cid h : Nat) (f : Frame → Frame) : (s.modFrame cid h f).peer = s.peer := State.modCtx_peer ..
@[simp] theorem State.modFrame_atrium (s : State) (cid h : Nat) (f : Frame → Frame) : (s.modFrame cid h f).atrium = s.atrium := State.modCtx_atrium ..
@[simp] theorem State.modFrame_sigOwner (s : State) (cid h : Nat) (f : Frame → Frame) : (s.modFrame cid h f).sigOwner = s.sigOwner := State.modCtx_sigOwner ..
@[simp] theorem State.modFrame_gallery (s : State) (cid h : Nat) (f : Frame → Frame) : (s.modFrame cid h f).gallery = s.gallery := State.modCtx_gallery ..
@[simp] theorem State.modFrame_l2 (s : State) (cid h : Nat) (f : Frame → Frame) : (s.modFrame cid h f).l2 = s.l2 := State.modCtx_l2 ..
@[simp] theorem State.modFrame_codes (s : State) (cid h : Nat) (f : Frame → Frame) : (s.modFrame cid h f).codes = s.codes := State.modCtx_codes ..
@[simp] theorem State.modFrame_crofts (s : State) (cid h : Nat) (f : Frame → Frame) : (s.modFrame cid h f).crofts = s.crofts := State.modCtx_crofts ..
@[simp] theorem State.modFrame_reqs (s : State) (cid h : Nat) (f : Frame → Frame) : (s.modFrame cid h f).reqs = s.reqs := State.modCtx_reqs ..
@[simp] theorem State.modFrame_nextReq (s : State) (cid h : Nat) (f : Frame → Frame) : (s.modFrame cid h f).nextReq = s.nextReq := State.modCtx_nextReq ..
@[simp] theorem State.modFrame_notices (s : State) (cid h : Nat) (f : Frame → Frame) : (s.modFrame cid h f).notices = s.notices := State.modCtx_notices ..
@[simp] theorem State.modFrame_maints (s : State) (cid h : Nat) (f : Frame → Frame) : (s.modFrame cid h f).maints = s.maints := State.modCtx_maints ..
@[simp] theorem State.modFrame_porters (s : State) (cid h : Nat) (f : Frame → Frame) : (s.modFrame cid h f).porters = s.porters := State.modCtx_porters ..
@[simp] theorem State.modFrame_doorbells (s : State) (cid h : Nat) (f : Frame → Frame) : (s.modFrame cid h f).doorbells = s.doorbells := State.modCtx_doorbells ..
@[simp] theorem State.modFrame_qtb (s : State) (cid h : Nat) (f : Frame → Frame) : (s.modFrame cid h f).qtb = s.qtb := State.modCtx_qtb ..
@[simp] theorem State.modFrame_astb (s : State) (cid h : Nat) (f : Frame → Frame) : (s.modFrame cid h f).astb = s.astb := State.modCtx_astb ..
@[simp] theorem State.modFrame_hotctl (s : State) (cid h : Nat) (f : Frame → Frame) : (s.modFrame cid h f).hotctl = s.hotctl := State.modCtx_hotctl ..
@[simp] theorem State.modFrame_hotbuf (s : State) (cid h : Nat) (f : Frame → Frame) : (s.modFrame cid h f).hotbuf = s.hotbuf := State.modCtx_hotbuf ..
@[simp] theorem State.modFrame_mgwt (s : State) (cid h : Nat) (f : Frame → Frame) : (s.modFrame cid h f).mgwt = s.mgwt := State.modCtx_mgwt ..
@[simp] theorem State.modFrame_freeRings (s : State) (cid h : Nat) (f : Frame → Frame) : (s.modFrame cid h f).freeRings = s.freeRings := State.modCtx_freeRings ..
@[simp] theorem State.modFrame_keptFrames (s : State) (cid h : Nat) (f : Frame → Frame) : (s.modFrame cid h f).keptFrames = s.keptFrames := State.modCtx_keptFrames ..
@[simp] theorem State.modFrame_issuedNow (s : State) (cid h : Nat) (f : Frame → Frame) : (s.modFrame cid h f).issuedNow = s.issuedNow := State.modCtx_issuedNow ..
@[simp] theorem State.modFrame_hotStart (s : State) (cid h : Nat) (f : Frame → Frame) : (s.modFrame cid h f).hotStart = s.hotStart := State.modCtx_hotStart ..
@[simp] theorem State.modFrame_shareStart (s : State) (cid h : Nat) (f : Frame → Frame) : (s.modFrame cid h f).shareStart = s.shareStart := State.modCtx_shareStart ..
@[simp] theorem State.modFrame_budgetStart (s : State) (cid h : Nat) (f : Frame → Frame) : (s.modFrame cid h f).budgetStart = s.budgetStart := State.modCtx_budgetStart ..
@[simp] theorem State.modFrame_windows (s : State) (cid h : Nat) (f : Frame → Frame) : (s.modFrame cid h f).windows = s.windows := State.modCtx_windows ..
@[simp] theorem State.modFrame_taken (s : State) (cid h : Nat) (f : Frame → Frame) : (s.modFrame cid h f).taken = s.taken := State.modCtx_taken ..
@[simp] theorem State.modFrame_sketches (s : State) (cid h : Nat) (f : Frame → Frame) : (s.modFrame cid h f).sketches = s.sketches := State.modCtx_sketches ..
@[simp] theorem State.modFrame_annexes (s : State) (cid h : Nat) (f : Frame → Frame) : (s.modFrame cid h f).annexes = s.annexes := State.modCtx_annexes ..
@[simp] theorem State.modFrame_fns (s : State) (cid h : Nat) (f : Frame → Frame) : (s.modFrame cid h f).fns = s.fns := State.modCtx_fns ..
@[simp] theorem State.modFrame_dies (s : State) (cid h : Nat) (f : Frame → Frame) : (s.modFrame cid h f).dies = s.dies := State.modCtx_dies ..
@[simp] theorem State.modFrame_rsown (s : State) (cid h : Nat) (f : Frame → Frame) : (s.modFrame cid h f).rsown = s.rsown := State.modCtx_rsown ..
@[simp] theorem State.modFrame_resolver (s : State) (cid h : Nat) (f : Frame → Frame) : (s.modFrame cid h f).resolver = s.resolver := State.modCtx_resolver ..
@[simp] theorem State.modFrame_fbRings (s : State) (cid h : Nat) (f : Frame → Frame) : (s.modFrame cid h f).fbRings = s.fbRings := State.modCtx_fbRings ..
@[simp] theorem State.modFrame_svnFloor (s : State) (cid h : Nat) (f : Frame → Frame) : (s.modFrame cid h f).svnFloor = s.svnFloor := State.modCtx_svnFloor ..
@[simp] theorem State.modFrame_svnSeen (s : State) (cid h : Nat) (f : Frame → Frame) : (s.modFrame cid h f).svnSeen = s.svnSeen := State.modCtx_svnSeen ..
@[simp] theorem State.modFrame_links (s : State) (cid h : Nat) (f : Frame → Frame) : (s.modFrame cid h f).links = s.links := State.modCtx_links ..
@[simp] theorem State.modFrame_powerCap (s : State) (cid h : Nat) (f : Frame → Frame) : (s.modFrame cid h f).powerCap = s.powerCap := State.modCtx_powerCap ..
@[simp] theorem State.modFrame_clockCeil (s : State) (cid h : Nat) (f : Frame → Frame) : (s.modFrame cid h f).clockCeil = s.clockCeil := State.modCtx_clockCeil ..
@[simp] theorem State.modFrame_variant (s : State) (cid h : Nat) (f : Frame → Frame) : (s.modFrame cid h f).variant = s.variant := State.modCtx_variant ..
@[simp] theorem State.modFrame_cfgSpace (s : State) (cid h : Nat) (f : Frame → Frame) : (s.modFrame cid h f).cfgSpace = s.cfgSpace := State.modCtx_cfgSpace ..
@[simp] theorem State.modFrame_measured (s : State) (cid h : Nat) (f : Frame → Frame) : (s.modFrame cid h f).measured = s.measured := State.modCtx_measured ..
@[simp] theorem State.modFrame_waitHomes (s : State) (cid h : Nat) (f : Frame → Frame) : (s.modFrame cid h f).waitHomes = s.waitHomes := State.modCtx_waitHomes ..
@[simp] theorem State.modFrame_homeHeld (s : State) (cid h : Nat) (f : Frame → Frame) : (s.modFrame cid h f).homeHeld = s.homeHeld := State.modCtx_homeHeld ..
@[simp] theorem State.modFrame_packagePower (s : State) (cid h : Nat) (f : Frame → Frame) : (s.modFrame cid h f).packagePower = s.packagePower := State.modCtx_packagePower ..
@[simp] theorem State.modFrame_thermalTrip (s : State) (cid h : Nat) (f : Frame → Frame) : (s.modFrame cid h f).thermalTrip = s.thermalTrip := State.modCtx_thermalTrip ..
@[simp] theorem State.modFrame_answers (s : State) (cid h : Nat) (f : Frame → Frame) : (s.modFrame cid h f).answers = s.answers := State.modCtx_answers ..

@[simp] theorem State.modGroup_agenda (s : State) (cid h : Nat) (f : Group → Group) : (s.modGroup cid h f).agenda = s.agenda := State.modFrame_agenda ..
@[simp] theorem State.modGroup_todo (s : State) (cid h : Nat) (f : Group → Group) : (s.modGroup cid h f).todo = s.todo := State.modFrame_todo ..
@[simp] theorem State.modGroup_focus (s : State) (cid h : Nat) (f : Group → Group) : (s.modGroup cid h f).focus = s.focus := State.modFrame_focus ..
@[simp] theorem State.modGroup_ac (s : State) (cid h : Nat) (f : Group → Group) : (s.modGroup cid h f).ac = s.ac := State.modFrame_ac ..
@[simp] theorem State.modGroup_time (s : State) (cid h : Nat) (f : Group → Group) : (s.modGroup cid h f).time = s.time := State.modFrame_time ..
@[simp] theorem State.modGroup_step (s : State) (cid h : Nat) (f : Group → Group) : (s.modGroup cid h f).step = s.step := State.modFrame_step ..
@[simp] theorem State.modGroup_freeCtr (s : State) (cid h : Nat) (f : Group → Group) : (s.modGroup cid h f).freeCtr = s.freeCtr := State.modFrame_freeCtr ..
@[simp] theorem State.modGroup_powered (s : State) (cid h : Nat) (f : Group → Group) : (s.modGroup cid h f).powered = s.powered := State.modFrame_powered ..
@[simp] theorem State.modGroup_coresOn (s : State) (cid h : Nat) (f : Group → Group) : (s.modGroup cid h f).coresOn = s.coresOn := State.modFrame_coresOn ..
@[simp] theorem State.modGroup_cores (s : State) (cid h : Nat) (f : Group → Group) : (s.modGroup cid h f).cores = s.cores := State.modFrame_cores ..
@[simp] theorem State.modGroup_nextCid (s : State) (cid h : Nat) (f : Group → Group) : (s.modGroup cid h f).nextCid = s.nextCid := State.modFrame_nextCid ..
@[simp] theorem State.modGroup_dram (s : State) (cid h : Nat) (f : Group → Group) : (s.modGroup cid h f).dram = s.dram := State.modFrame_dram ..
@[simp] theorem State.modGroup_host (s : State) (cid h : Nat) (f : Group → Group) : (s.modGroup cid h f).host = s.host := State.modFrame_host ..
@[simp] theorem State.modGroup_peer (s : State) (cid h : Nat) (f : Group → Group) : (s.modGroup cid h f).peer = s.peer := State.modFrame_peer ..
@[simp] theorem State.modGroup_atrium (s : State) (cid h : Nat) (f : Group → Group) : (s.modGroup cid h f).atrium = s.atrium := State.modFrame_atrium ..
@[simp] theorem State.modGroup_sigOwner (s : State) (cid h : Nat) (f : Group → Group) : (s.modGroup cid h f).sigOwner = s.sigOwner := State.modFrame_sigOwner ..
@[simp] theorem State.modGroup_gallery (s : State) (cid h : Nat) (f : Group → Group) : (s.modGroup cid h f).gallery = s.gallery := State.modFrame_gallery ..
@[simp] theorem State.modGroup_l2 (s : State) (cid h : Nat) (f : Group → Group) : (s.modGroup cid h f).l2 = s.l2 := State.modFrame_l2 ..
@[simp] theorem State.modGroup_codes (s : State) (cid h : Nat) (f : Group → Group) : (s.modGroup cid h f).codes = s.codes := State.modFrame_codes ..
@[simp] theorem State.modGroup_crofts (s : State) (cid h : Nat) (f : Group → Group) : (s.modGroup cid h f).crofts = s.crofts := State.modFrame_crofts ..
@[simp] theorem State.modGroup_reqs (s : State) (cid h : Nat) (f : Group → Group) : (s.modGroup cid h f).reqs = s.reqs := State.modFrame_reqs ..
@[simp] theorem State.modGroup_nextReq (s : State) (cid h : Nat) (f : Group → Group) : (s.modGroup cid h f).nextReq = s.nextReq := State.modFrame_nextReq ..
@[simp] theorem State.modGroup_notices (s : State) (cid h : Nat) (f : Group → Group) : (s.modGroup cid h f).notices = s.notices := State.modFrame_notices ..
@[simp] theorem State.modGroup_maints (s : State) (cid h : Nat) (f : Group → Group) : (s.modGroup cid h f).maints = s.maints := State.modFrame_maints ..
@[simp] theorem State.modGroup_porters (s : State) (cid h : Nat) (f : Group → Group) : (s.modGroup cid h f).porters = s.porters := State.modFrame_porters ..
@[simp] theorem State.modGroup_doorbells (s : State) (cid h : Nat) (f : Group → Group) : (s.modGroup cid h f).doorbells = s.doorbells := State.modFrame_doorbells ..
@[simp] theorem State.modGroup_qtb (s : State) (cid h : Nat) (f : Group → Group) : (s.modGroup cid h f).qtb = s.qtb := State.modFrame_qtb ..
@[simp] theorem State.modGroup_astb (s : State) (cid h : Nat) (f : Group → Group) : (s.modGroup cid h f).astb = s.astb := State.modFrame_astb ..
@[simp] theorem State.modGroup_hotctl (s : State) (cid h : Nat) (f : Group → Group) : (s.modGroup cid h f).hotctl = s.hotctl := State.modFrame_hotctl ..
@[simp] theorem State.modGroup_hotbuf (s : State) (cid h : Nat) (f : Group → Group) : (s.modGroup cid h f).hotbuf = s.hotbuf := State.modFrame_hotbuf ..
@[simp] theorem State.modGroup_mgwt (s : State) (cid h : Nat) (f : Group → Group) : (s.modGroup cid h f).mgwt = s.mgwt := State.modFrame_mgwt ..
@[simp] theorem State.modGroup_freeRings (s : State) (cid h : Nat) (f : Group → Group) : (s.modGroup cid h f).freeRings = s.freeRings := State.modFrame_freeRings ..
@[simp] theorem State.modGroup_keptFrames (s : State) (cid h : Nat) (f : Group → Group) : (s.modGroup cid h f).keptFrames = s.keptFrames := State.modFrame_keptFrames ..
@[simp] theorem State.modGroup_issuedNow (s : State) (cid h : Nat) (f : Group → Group) : (s.modGroup cid h f).issuedNow = s.issuedNow := State.modFrame_issuedNow ..
@[simp] theorem State.modGroup_hotStart (s : State) (cid h : Nat) (f : Group → Group) : (s.modGroup cid h f).hotStart = s.hotStart := State.modFrame_hotStart ..
@[simp] theorem State.modGroup_shareStart (s : State) (cid h : Nat) (f : Group → Group) : (s.modGroup cid h f).shareStart = s.shareStart := State.modFrame_shareStart ..
@[simp] theorem State.modGroup_budgetStart (s : State) (cid h : Nat) (f : Group → Group) : (s.modGroup cid h f).budgetStart = s.budgetStart := State.modFrame_budgetStart ..
@[simp] theorem State.modGroup_windows (s : State) (cid h : Nat) (f : Group → Group) : (s.modGroup cid h f).windows = s.windows := State.modFrame_windows ..
@[simp] theorem State.modGroup_taken (s : State) (cid h : Nat) (f : Group → Group) : (s.modGroup cid h f).taken = s.taken := State.modFrame_taken ..
@[simp] theorem State.modGroup_sketches (s : State) (cid h : Nat) (f : Group → Group) : (s.modGroup cid h f).sketches = s.sketches := State.modFrame_sketches ..
@[simp] theorem State.modGroup_annexes (s : State) (cid h : Nat) (f : Group → Group) : (s.modGroup cid h f).annexes = s.annexes := State.modFrame_annexes ..
@[simp] theorem State.modGroup_fns (s : State) (cid h : Nat) (f : Group → Group) : (s.modGroup cid h f).fns = s.fns := State.modFrame_fns ..
@[simp] theorem State.modGroup_dies (s : State) (cid h : Nat) (f : Group → Group) : (s.modGroup cid h f).dies = s.dies := State.modFrame_dies ..
@[simp] theorem State.modGroup_rsown (s : State) (cid h : Nat) (f : Group → Group) : (s.modGroup cid h f).rsown = s.rsown := State.modFrame_rsown ..
@[simp] theorem State.modGroup_resolver (s : State) (cid h : Nat) (f : Group → Group) : (s.modGroup cid h f).resolver = s.resolver := State.modFrame_resolver ..
@[simp] theorem State.modGroup_fbRings (s : State) (cid h : Nat) (f : Group → Group) : (s.modGroup cid h f).fbRings = s.fbRings := State.modFrame_fbRings ..
@[simp] theorem State.modGroup_svnFloor (s : State) (cid h : Nat) (f : Group → Group) : (s.modGroup cid h f).svnFloor = s.svnFloor := State.modFrame_svnFloor ..
@[simp] theorem State.modGroup_svnSeen (s : State) (cid h : Nat) (f : Group → Group) : (s.modGroup cid h f).svnSeen = s.svnSeen := State.modFrame_svnSeen ..
@[simp] theorem State.modGroup_links (s : State) (cid h : Nat) (f : Group → Group) : (s.modGroup cid h f).links = s.links := State.modFrame_links ..
@[simp] theorem State.modGroup_powerCap (s : State) (cid h : Nat) (f : Group → Group) : (s.modGroup cid h f).powerCap = s.powerCap := State.modFrame_powerCap ..
@[simp] theorem State.modGroup_clockCeil (s : State) (cid h : Nat) (f : Group → Group) : (s.modGroup cid h f).clockCeil = s.clockCeil := State.modFrame_clockCeil ..
@[simp] theorem State.modGroup_variant (s : State) (cid h : Nat) (f : Group → Group) : (s.modGroup cid h f).variant = s.variant := State.modFrame_variant ..
@[simp] theorem State.modGroup_cfgSpace (s : State) (cid h : Nat) (f : Group → Group) : (s.modGroup cid h f).cfgSpace = s.cfgSpace := State.modFrame_cfgSpace ..
@[simp] theorem State.modGroup_measured (s : State) (cid h : Nat) (f : Group → Group) : (s.modGroup cid h f).measured = s.measured := State.modFrame_measured ..
@[simp] theorem State.modGroup_waitHomes (s : State) (cid h : Nat) (f : Group → Group) : (s.modGroup cid h f).waitHomes = s.waitHomes := State.modFrame_waitHomes ..
@[simp] theorem State.modGroup_homeHeld (s : State) (cid h : Nat) (f : Group → Group) : (s.modGroup cid h f).homeHeld = s.homeHeld := State.modFrame_homeHeld ..
@[simp] theorem State.modGroup_packagePower (s : State) (cid h : Nat) (f : Group → Group) : (s.modGroup cid h f).packagePower = s.packagePower := State.modFrame_packagePower ..
@[simp] theorem State.modGroup_thermalTrip (s : State) (cid h : Nat) (f : Group → Group) : (s.modGroup cid h f).thermalTrip = s.thermalTrip := State.modFrame_thermalTrip ..
@[simp] theorem State.modGroup_answers (s : State) (cid h : Nat) (f : Group → Group) : (s.modGroup cid h f).answers = s.answers := State.modFrame_answers ..

@[simp] theorem State.modSplit_agenda (s : State) (cid h k : Nat) (f : Split → Split) : (s.modSplit cid h k f).agenda = s.agenda := State.modGroup_agenda ..
@[simp] theorem State.modSplit_todo (s : State) (cid h k : Nat) (f : Split → Split) : (s.modSplit cid h k f).todo = s.todo := State.modGroup_todo ..
@[simp] theorem State.modSplit_focus (s : State) (cid h k : Nat) (f : Split → Split) : (s.modSplit cid h k f).focus = s.focus := State.modGroup_focus ..
@[simp] theorem State.modSplit_ac (s : State) (cid h k : Nat) (f : Split → Split) : (s.modSplit cid h k f).ac = s.ac := State.modGroup_ac ..
@[simp] theorem State.modSplit_time (s : State) (cid h k : Nat) (f : Split → Split) : (s.modSplit cid h k f).time = s.time := State.modGroup_time ..
@[simp] theorem State.modSplit_step (s : State) (cid h k : Nat) (f : Split → Split) : (s.modSplit cid h k f).step = s.step := State.modGroup_step ..
@[simp] theorem State.modSplit_freeCtr (s : State) (cid h k : Nat) (f : Split → Split) : (s.modSplit cid h k f).freeCtr = s.freeCtr := State.modGroup_freeCtr ..
@[simp] theorem State.modSplit_powered (s : State) (cid h k : Nat) (f : Split → Split) : (s.modSplit cid h k f).powered = s.powered := State.modGroup_powered ..
@[simp] theorem State.modSplit_coresOn (s : State) (cid h k : Nat) (f : Split → Split) : (s.modSplit cid h k f).coresOn = s.coresOn := State.modGroup_coresOn ..
@[simp] theorem State.modSplit_cores (s : State) (cid h k : Nat) (f : Split → Split) : (s.modSplit cid h k f).cores = s.cores := State.modGroup_cores ..
@[simp] theorem State.modSplit_nextCid (s : State) (cid h k : Nat) (f : Split → Split) : (s.modSplit cid h k f).nextCid = s.nextCid := State.modGroup_nextCid ..
@[simp] theorem State.modSplit_dram (s : State) (cid h k : Nat) (f : Split → Split) : (s.modSplit cid h k f).dram = s.dram := State.modGroup_dram ..
@[simp] theorem State.modSplit_host (s : State) (cid h k : Nat) (f : Split → Split) : (s.modSplit cid h k f).host = s.host := State.modGroup_host ..
@[simp] theorem State.modSplit_peer (s : State) (cid h k : Nat) (f : Split → Split) : (s.modSplit cid h k f).peer = s.peer := State.modGroup_peer ..
@[simp] theorem State.modSplit_atrium (s : State) (cid h k : Nat) (f : Split → Split) : (s.modSplit cid h k f).atrium = s.atrium := State.modGroup_atrium ..
@[simp] theorem State.modSplit_sigOwner (s : State) (cid h k : Nat) (f : Split → Split) : (s.modSplit cid h k f).sigOwner = s.sigOwner := State.modGroup_sigOwner ..
@[simp] theorem State.modSplit_gallery (s : State) (cid h k : Nat) (f : Split → Split) : (s.modSplit cid h k f).gallery = s.gallery := State.modGroup_gallery ..
@[simp] theorem State.modSplit_l2 (s : State) (cid h k : Nat) (f : Split → Split) : (s.modSplit cid h k f).l2 = s.l2 := State.modGroup_l2 ..
@[simp] theorem State.modSplit_codes (s : State) (cid h k : Nat) (f : Split → Split) : (s.modSplit cid h k f).codes = s.codes := State.modGroup_codes ..
@[simp] theorem State.modSplit_crofts (s : State) (cid h k : Nat) (f : Split → Split) : (s.modSplit cid h k f).crofts = s.crofts := State.modGroup_crofts ..
@[simp] theorem State.modSplit_reqs (s : State) (cid h k : Nat) (f : Split → Split) : (s.modSplit cid h k f).reqs = s.reqs := State.modGroup_reqs ..
@[simp] theorem State.modSplit_nextReq (s : State) (cid h k : Nat) (f : Split → Split) : (s.modSplit cid h k f).nextReq = s.nextReq := State.modGroup_nextReq ..
@[simp] theorem State.modSplit_notices (s : State) (cid h k : Nat) (f : Split → Split) : (s.modSplit cid h k f).notices = s.notices := State.modGroup_notices ..
@[simp] theorem State.modSplit_maints (s : State) (cid h k : Nat) (f : Split → Split) : (s.modSplit cid h k f).maints = s.maints := State.modGroup_maints ..
@[simp] theorem State.modSplit_porters (s : State) (cid h k : Nat) (f : Split → Split) : (s.modSplit cid h k f).porters = s.porters := State.modGroup_porters ..
@[simp] theorem State.modSplit_doorbells (s : State) (cid h k : Nat) (f : Split → Split) : (s.modSplit cid h k f).doorbells = s.doorbells := State.modGroup_doorbells ..
@[simp] theorem State.modSplit_qtb (s : State) (cid h k : Nat) (f : Split → Split) : (s.modSplit cid h k f).qtb = s.qtb := State.modGroup_qtb ..
@[simp] theorem State.modSplit_astb (s : State) (cid h k : Nat) (f : Split → Split) : (s.modSplit cid h k f).astb = s.astb := State.modGroup_astb ..
@[simp] theorem State.modSplit_hotctl (s : State) (cid h k : Nat) (f : Split → Split) : (s.modSplit cid h k f).hotctl = s.hotctl := State.modGroup_hotctl ..
@[simp] theorem State.modSplit_hotbuf (s : State) (cid h k : Nat) (f : Split → Split) : (s.modSplit cid h k f).hotbuf = s.hotbuf := State.modGroup_hotbuf ..
@[simp] theorem State.modSplit_mgwt (s : State) (cid h k : Nat) (f : Split → Split) : (s.modSplit cid h k f).mgwt = s.mgwt := State.modGroup_mgwt ..
@[simp] theorem State.modSplit_freeRings (s : State) (cid h k : Nat) (f : Split → Split) : (s.modSplit cid h k f).freeRings = s.freeRings := State.modGroup_freeRings ..
@[simp] theorem State.modSplit_keptFrames (s : State) (cid h k : Nat) (f : Split → Split) : (s.modSplit cid h k f).keptFrames = s.keptFrames := State.modGroup_keptFrames ..
@[simp] theorem State.modSplit_issuedNow (s : State) (cid h k : Nat) (f : Split → Split) : (s.modSplit cid h k f).issuedNow = s.issuedNow := State.modGroup_issuedNow ..
@[simp] theorem State.modSplit_hotStart (s : State) (cid h k : Nat) (f : Split → Split) : (s.modSplit cid h k f).hotStart = s.hotStart := State.modGroup_hotStart ..
@[simp] theorem State.modSplit_shareStart (s : State) (cid h k : Nat) (f : Split → Split) : (s.modSplit cid h k f).shareStart = s.shareStart := State.modGroup_shareStart ..
@[simp] theorem State.modSplit_budgetStart (s : State) (cid h k : Nat) (f : Split → Split) : (s.modSplit cid h k f).budgetStart = s.budgetStart := State.modGroup_budgetStart ..
@[simp] theorem State.modSplit_windows (s : State) (cid h k : Nat) (f : Split → Split) : (s.modSplit cid h k f).windows = s.windows := State.modGroup_windows ..
@[simp] theorem State.modSplit_taken (s : State) (cid h k : Nat) (f : Split → Split) : (s.modSplit cid h k f).taken = s.taken := State.modGroup_taken ..
@[simp] theorem State.modSplit_sketches (s : State) (cid h k : Nat) (f : Split → Split) : (s.modSplit cid h k f).sketches = s.sketches := State.modGroup_sketches ..
@[simp] theorem State.modSplit_annexes (s : State) (cid h k : Nat) (f : Split → Split) : (s.modSplit cid h k f).annexes = s.annexes := State.modGroup_annexes ..
@[simp] theorem State.modSplit_fns (s : State) (cid h k : Nat) (f : Split → Split) : (s.modSplit cid h k f).fns = s.fns := State.modGroup_fns ..
@[simp] theorem State.modSplit_dies (s : State) (cid h k : Nat) (f : Split → Split) : (s.modSplit cid h k f).dies = s.dies := State.modGroup_dies ..
@[simp] theorem State.modSplit_rsown (s : State) (cid h k : Nat) (f : Split → Split) : (s.modSplit cid h k f).rsown = s.rsown := State.modGroup_rsown ..
@[simp] theorem State.modSplit_resolver (s : State) (cid h k : Nat) (f : Split → Split) : (s.modSplit cid h k f).resolver = s.resolver := State.modGroup_resolver ..
@[simp] theorem State.modSplit_fbRings (s : State) (cid h k : Nat) (f : Split → Split) : (s.modSplit cid h k f).fbRings = s.fbRings := State.modGroup_fbRings ..
@[simp] theorem State.modSplit_svnFloor (s : State) (cid h k : Nat) (f : Split → Split) : (s.modSplit cid h k f).svnFloor = s.svnFloor := State.modGroup_svnFloor ..
@[simp] theorem State.modSplit_svnSeen (s : State) (cid h k : Nat) (f : Split → Split) : (s.modSplit cid h k f).svnSeen = s.svnSeen := State.modGroup_svnSeen ..
@[simp] theorem State.modSplit_links (s : State) (cid h k : Nat) (f : Split → Split) : (s.modSplit cid h k f).links = s.links := State.modGroup_links ..
@[simp] theorem State.modSplit_powerCap (s : State) (cid h k : Nat) (f : Split → Split) : (s.modSplit cid h k f).powerCap = s.powerCap := State.modGroup_powerCap ..
@[simp] theorem State.modSplit_clockCeil (s : State) (cid h k : Nat) (f : Split → Split) : (s.modSplit cid h k f).clockCeil = s.clockCeil := State.modGroup_clockCeil ..
@[simp] theorem State.modSplit_variant (s : State) (cid h k : Nat) (f : Split → Split) : (s.modSplit cid h k f).variant = s.variant := State.modGroup_variant ..
@[simp] theorem State.modSplit_cfgSpace (s : State) (cid h k : Nat) (f : Split → Split) : (s.modSplit cid h k f).cfgSpace = s.cfgSpace := State.modGroup_cfgSpace ..
@[simp] theorem State.modSplit_measured (s : State) (cid h k : Nat) (f : Split → Split) : (s.modSplit cid h k f).measured = s.measured := State.modGroup_measured ..
@[simp] theorem State.modSplit_waitHomes (s : State) (cid h k : Nat) (f : Split → Split) : (s.modSplit cid h k f).waitHomes = s.waitHomes := State.modGroup_waitHomes ..
@[simp] theorem State.modSplit_homeHeld (s : State) (cid h k : Nat) (f : Split → Split) : (s.modSplit cid h k f).homeHeld = s.homeHeld := State.modGroup_homeHeld ..
@[simp] theorem State.modSplit_packagePower (s : State) (cid h k : Nat) (f : Split → Split) : (s.modSplit cid h k f).packagePower = s.packagePower := State.modGroup_packagePower ..
@[simp] theorem State.modSplit_thermalTrip (s : State) (cid h k : Nat) (f : Split → Split) : (s.modSplit cid h k f).thermalTrip = s.thermalTrip := State.modGroup_thermalTrip ..
@[simp] theorem State.modSplit_answers (s : State) (cid h k : Nat) (f : Split → Split) : (s.modSplit cid h k f).answers = s.answers := State.modGroup_answers ..

@[simp] theorem State.modCrew_agenda (s : State) (cid n : Nat) (f : Crew → Crew) : (s.modCrew cid n f).agenda = s.agenda := State.modCtx_agenda ..
@[simp] theorem State.modCrew_todo (s : State) (cid n : Nat) (f : Crew → Crew) : (s.modCrew cid n f).todo = s.todo := State.modCtx_todo ..
@[simp] theorem State.modCrew_focus (s : State) (cid n : Nat) (f : Crew → Crew) : (s.modCrew cid n f).focus = s.focus := State.modCtx_focus ..
@[simp] theorem State.modCrew_ac (s : State) (cid n : Nat) (f : Crew → Crew) : (s.modCrew cid n f).ac = s.ac := State.modCtx_ac ..
@[simp] theorem State.modCrew_time (s : State) (cid n : Nat) (f : Crew → Crew) : (s.modCrew cid n f).time = s.time := State.modCtx_time ..
@[simp] theorem State.modCrew_step (s : State) (cid n : Nat) (f : Crew → Crew) : (s.modCrew cid n f).step = s.step := State.modCtx_step ..
@[simp] theorem State.modCrew_freeCtr (s : State) (cid n : Nat) (f : Crew → Crew) : (s.modCrew cid n f).freeCtr = s.freeCtr := State.modCtx_freeCtr ..
@[simp] theorem State.modCrew_powered (s : State) (cid n : Nat) (f : Crew → Crew) : (s.modCrew cid n f).powered = s.powered := State.modCtx_powered ..
@[simp] theorem State.modCrew_coresOn (s : State) (cid n : Nat) (f : Crew → Crew) : (s.modCrew cid n f).coresOn = s.coresOn := State.modCtx_coresOn ..
@[simp] theorem State.modCrew_cores (s : State) (cid n : Nat) (f : Crew → Crew) : (s.modCrew cid n f).cores = s.cores := State.modCtx_cores ..
@[simp] theorem State.modCrew_nextCid (s : State) (cid n : Nat) (f : Crew → Crew) : (s.modCrew cid n f).nextCid = s.nextCid := State.modCtx_nextCid ..
@[simp] theorem State.modCrew_dram (s : State) (cid n : Nat) (f : Crew → Crew) : (s.modCrew cid n f).dram = s.dram := State.modCtx_dram ..
@[simp] theorem State.modCrew_host (s : State) (cid n : Nat) (f : Crew → Crew) : (s.modCrew cid n f).host = s.host := State.modCtx_host ..
@[simp] theorem State.modCrew_peer (s : State) (cid n : Nat) (f : Crew → Crew) : (s.modCrew cid n f).peer = s.peer := State.modCtx_peer ..
@[simp] theorem State.modCrew_atrium (s : State) (cid n : Nat) (f : Crew → Crew) : (s.modCrew cid n f).atrium = s.atrium := State.modCtx_atrium ..
@[simp] theorem State.modCrew_sigOwner (s : State) (cid n : Nat) (f : Crew → Crew) : (s.modCrew cid n f).sigOwner = s.sigOwner := State.modCtx_sigOwner ..
@[simp] theorem State.modCrew_gallery (s : State) (cid n : Nat) (f : Crew → Crew) : (s.modCrew cid n f).gallery = s.gallery := State.modCtx_gallery ..
@[simp] theorem State.modCrew_l2 (s : State) (cid n : Nat) (f : Crew → Crew) : (s.modCrew cid n f).l2 = s.l2 := State.modCtx_l2 ..
@[simp] theorem State.modCrew_codes (s : State) (cid n : Nat) (f : Crew → Crew) : (s.modCrew cid n f).codes = s.codes := State.modCtx_codes ..
@[simp] theorem State.modCrew_crofts (s : State) (cid n : Nat) (f : Crew → Crew) : (s.modCrew cid n f).crofts = s.crofts := State.modCtx_crofts ..
@[simp] theorem State.modCrew_reqs (s : State) (cid n : Nat) (f : Crew → Crew) : (s.modCrew cid n f).reqs = s.reqs := State.modCtx_reqs ..
@[simp] theorem State.modCrew_nextReq (s : State) (cid n : Nat) (f : Crew → Crew) : (s.modCrew cid n f).nextReq = s.nextReq := State.modCtx_nextReq ..
@[simp] theorem State.modCrew_notices (s : State) (cid n : Nat) (f : Crew → Crew) : (s.modCrew cid n f).notices = s.notices := State.modCtx_notices ..
@[simp] theorem State.modCrew_maints (s : State) (cid n : Nat) (f : Crew → Crew) : (s.modCrew cid n f).maints = s.maints := State.modCtx_maints ..
@[simp] theorem State.modCrew_porters (s : State) (cid n : Nat) (f : Crew → Crew) : (s.modCrew cid n f).porters = s.porters := State.modCtx_porters ..
@[simp] theorem State.modCrew_doorbells (s : State) (cid n : Nat) (f : Crew → Crew) : (s.modCrew cid n f).doorbells = s.doorbells := State.modCtx_doorbells ..
@[simp] theorem State.modCrew_qtb (s : State) (cid n : Nat) (f : Crew → Crew) : (s.modCrew cid n f).qtb = s.qtb := State.modCtx_qtb ..
@[simp] theorem State.modCrew_astb (s : State) (cid n : Nat) (f : Crew → Crew) : (s.modCrew cid n f).astb = s.astb := State.modCtx_astb ..
@[simp] theorem State.modCrew_hotctl (s : State) (cid n : Nat) (f : Crew → Crew) : (s.modCrew cid n f).hotctl = s.hotctl := State.modCtx_hotctl ..
@[simp] theorem State.modCrew_hotbuf (s : State) (cid n : Nat) (f : Crew → Crew) : (s.modCrew cid n f).hotbuf = s.hotbuf := State.modCtx_hotbuf ..
@[simp] theorem State.modCrew_mgwt (s : State) (cid n : Nat) (f : Crew → Crew) : (s.modCrew cid n f).mgwt = s.mgwt := State.modCtx_mgwt ..
@[simp] theorem State.modCrew_freeRings (s : State) (cid n : Nat) (f : Crew → Crew) : (s.modCrew cid n f).freeRings = s.freeRings := State.modCtx_freeRings ..
@[simp] theorem State.modCrew_keptFrames (s : State) (cid n : Nat) (f : Crew → Crew) : (s.modCrew cid n f).keptFrames = s.keptFrames := State.modCtx_keptFrames ..
@[simp] theorem State.modCrew_issuedNow (s : State) (cid n : Nat) (f : Crew → Crew) : (s.modCrew cid n f).issuedNow = s.issuedNow := State.modCtx_issuedNow ..
@[simp] theorem State.modCrew_hotStart (s : State) (cid n : Nat) (f : Crew → Crew) : (s.modCrew cid n f).hotStart = s.hotStart := State.modCtx_hotStart ..
@[simp] theorem State.modCrew_shareStart (s : State) (cid n : Nat) (f : Crew → Crew) : (s.modCrew cid n f).shareStart = s.shareStart := State.modCtx_shareStart ..
@[simp] theorem State.modCrew_budgetStart (s : State) (cid n : Nat) (f : Crew → Crew) : (s.modCrew cid n f).budgetStart = s.budgetStart := State.modCtx_budgetStart ..
@[simp] theorem State.modCrew_windows (s : State) (cid n : Nat) (f : Crew → Crew) : (s.modCrew cid n f).windows = s.windows := State.modCtx_windows ..
@[simp] theorem State.modCrew_taken (s : State) (cid n : Nat) (f : Crew → Crew) : (s.modCrew cid n f).taken = s.taken := State.modCtx_taken ..
@[simp] theorem State.modCrew_sketches (s : State) (cid n : Nat) (f : Crew → Crew) : (s.modCrew cid n f).sketches = s.sketches := State.modCtx_sketches ..
@[simp] theorem State.modCrew_annexes (s : State) (cid n : Nat) (f : Crew → Crew) : (s.modCrew cid n f).annexes = s.annexes := State.modCtx_annexes ..
@[simp] theorem State.modCrew_fns (s : State) (cid n : Nat) (f : Crew → Crew) : (s.modCrew cid n f).fns = s.fns := State.modCtx_fns ..
@[simp] theorem State.modCrew_dies (s : State) (cid n : Nat) (f : Crew → Crew) : (s.modCrew cid n f).dies = s.dies := State.modCtx_dies ..
@[simp] theorem State.modCrew_rsown (s : State) (cid n : Nat) (f : Crew → Crew) : (s.modCrew cid n f).rsown = s.rsown := State.modCtx_rsown ..
@[simp] theorem State.modCrew_resolver (s : State) (cid n : Nat) (f : Crew → Crew) : (s.modCrew cid n f).resolver = s.resolver := State.modCtx_resolver ..
@[simp] theorem State.modCrew_fbRings (s : State) (cid n : Nat) (f : Crew → Crew) : (s.modCrew cid n f).fbRings = s.fbRings := State.modCtx_fbRings ..
@[simp] theorem State.modCrew_svnFloor (s : State) (cid n : Nat) (f : Crew → Crew) : (s.modCrew cid n f).svnFloor = s.svnFloor := State.modCtx_svnFloor ..
@[simp] theorem State.modCrew_svnSeen (s : State) (cid n : Nat) (f : Crew → Crew) : (s.modCrew cid n f).svnSeen = s.svnSeen := State.modCtx_svnSeen ..
@[simp] theorem State.modCrew_links (s : State) (cid n : Nat) (f : Crew → Crew) : (s.modCrew cid n f).links = s.links := State.modCtx_links ..
@[simp] theorem State.modCrew_powerCap (s : State) (cid n : Nat) (f : Crew → Crew) : (s.modCrew cid n f).powerCap = s.powerCap := State.modCtx_powerCap ..
@[simp] theorem State.modCrew_clockCeil (s : State) (cid n : Nat) (f : Crew → Crew) : (s.modCrew cid n f).clockCeil = s.clockCeil := State.modCtx_clockCeil ..
@[simp] theorem State.modCrew_variant (s : State) (cid n : Nat) (f : Crew → Crew) : (s.modCrew cid n f).variant = s.variant := State.modCtx_variant ..
@[simp] theorem State.modCrew_cfgSpace (s : State) (cid n : Nat) (f : Crew → Crew) : (s.modCrew cid n f).cfgSpace = s.cfgSpace := State.modCtx_cfgSpace ..
@[simp] theorem State.modCrew_measured (s : State) (cid n : Nat) (f : Crew → Crew) : (s.modCrew cid n f).measured = s.measured := State.modCtx_measured ..
@[simp] theorem State.modCrew_waitHomes (s : State) (cid n : Nat) (f : Crew → Crew) : (s.modCrew cid n f).waitHomes = s.waitHomes := State.modCtx_waitHomes ..
@[simp] theorem State.modCrew_homeHeld (s : State) (cid n : Nat) (f : Crew → Crew) : (s.modCrew cid n f).homeHeld = s.homeHeld := State.modCtx_homeHeld ..
@[simp] theorem State.modCrew_packagePower (s : State) (cid n : Nat) (f : Crew → Crew) : (s.modCrew cid n f).packagePower = s.packagePower := State.modCtx_packagePower ..
@[simp] theorem State.modCrew_thermalTrip (s : State) (cid n : Nat) (f : Crew → Crew) : (s.modCrew cid n f).thermalTrip = s.thermalTrip := State.modCtx_thermalTrip ..
@[simp] theorem State.modCrew_answers (s : State) (cid n : Nat) (f : Crew → Crew) : (s.modCrew cid n f).answers = s.answers := State.modCtx_answers ..

@[simp] theorem State.modDie_agenda (s : State) (i : Nat) (f : Die → Die) : (s.modDie i f).agenda = s.agenda := rfl
@[simp] theorem State.modDie_todo (s : State) (i : Nat) (f : Die → Die) : (s.modDie i f).todo = s.todo := rfl
@[simp] theorem State.modDie_focus (s : State) (i : Nat) (f : Die → Die) : (s.modDie i f).focus = s.focus := rfl
@[simp] theorem State.modDie_issuedNow (s : State) (i : Nat) (f : Die → Die) : (s.modDie i f).issuedNow = s.issuedNow := rfl
@[simp] theorem State.modDie_ac (s : State) (i : Nat) (f : Die → Die) : (s.modDie i f).ac = s.ac := rfl
@[simp] theorem State.modDie_time (s : State) (i : Nat) (f : Die → Die) : (s.modDie i f).time = s.time := rfl
@[simp] theorem State.modDie_step (s : State) (i : Nat) (f : Die → Die) : (s.modDie i f).step = s.step := rfl
@[simp] theorem State.modDie_hotStart (s : State) (i : Nat) (f : Die → Die) : (s.modDie i f).hotStart = s.hotStart := rfl
@[simp] theorem State.modDie_shareStart (s : State) (i : Nat) (f : Die → Die) : (s.modDie i f).shareStart = s.shareStart := rfl
@[simp] theorem State.modDie_budgetStart (s : State) (i : Nat) (f : Die → Die) : (s.modDie i f).budgetStart = s.budgetStart := rfl
@[simp] theorem State.modDie_freeCtr (s : State) (i : Nat) (f : Die → Die) : (s.modDie i f).freeCtr = s.freeCtr := rfl
@[simp] theorem State.modDie_powered (s : State) (i : Nat) (f : Die → Die) : (s.modDie i f).powered = s.powered := rfl
@[simp] theorem State.modDie_coresOn (s : State) (i : Nat) (f : Die → Die) : (s.modDie i f).coresOn = s.coresOn := rfl
@[simp] theorem State.modDie_cores (s : State) (i : Nat) (f : Die → Die) : (s.modDie i f).cores = s.cores := rfl
@[simp] theorem State.modDie_ctxs (s : State) (i : Nat) (f : Die → Die) : (s.modDie i f).ctxs = s.ctxs := rfl
@[simp] theorem State.modDie_nextCid (s : State) (i : Nat) (f : Die → Die) : (s.modDie i f).nextCid = s.nextCid := rfl
@[simp] theorem State.modDie_dram (s : State) (i : Nat) (f : Die → Die) : (s.modDie i f).dram = s.dram := rfl
@[simp] theorem State.modDie_host (s : State) (i : Nat) (f : Die → Die) : (s.modDie i f).host = s.host := rfl
@[simp] theorem State.modDie_peer (s : State) (i : Nat) (f : Die → Die) : (s.modDie i f).peer = s.peer := rfl
@[simp] theorem State.modDie_atrium (s : State) (i : Nat) (f : Die → Die) : (s.modDie i f).atrium = s.atrium := rfl
@[simp] theorem State.modDie_sigOwner (s : State) (i : Nat) (f : Die → Die) : (s.modDie i f).sigOwner = s.sigOwner := rfl
@[simp] theorem State.modDie_gallery (s : State) (i : Nat) (f : Die → Die) : (s.modDie i f).gallery = s.gallery := rfl
@[simp] theorem State.modDie_l2 (s : State) (i : Nat) (f : Die → Die) : (s.modDie i f).l2 = s.l2 := rfl
@[simp] theorem State.modDie_codes (s : State) (i : Nat) (f : Die → Die) : (s.modDie i f).codes = s.codes := rfl
@[simp] theorem State.modDie_crofts (s : State) (i : Nat) (f : Die → Die) : (s.modDie i f).crofts = s.crofts := rfl
@[simp] theorem State.modDie_reqs (s : State) (i : Nat) (f : Die → Die) : (s.modDie i f).reqs = s.reqs := rfl
@[simp] theorem State.modDie_nextReq (s : State) (i : Nat) (f : Die → Die) : (s.modDie i f).nextReq = s.nextReq := rfl
@[simp] theorem State.modDie_notices (s : State) (i : Nat) (f : Die → Die) : (s.modDie i f).notices = s.notices := rfl
@[simp] theorem State.modDie_maints (s : State) (i : Nat) (f : Die → Die) : (s.modDie i f).maints = s.maints := rfl
@[simp] theorem State.modDie_porters (s : State) (i : Nat) (f : Die → Die) : (s.modDie i f).porters = s.porters := rfl
@[simp] theorem State.modDie_doorbells (s : State) (i : Nat) (f : Die → Die) : (s.modDie i f).doorbells = s.doorbells := rfl
@[simp] theorem State.modDie_qtb (s : State) (i : Nat) (f : Die → Die) : (s.modDie i f).qtb = s.qtb := rfl
@[simp] theorem State.modDie_astb (s : State) (i : Nat) (f : Die → Die) : (s.modDie i f).astb = s.astb := rfl
@[simp] theorem State.modDie_hotctl (s : State) (i : Nat) (f : Die → Die) : (s.modDie i f).hotctl = s.hotctl := rfl
@[simp] theorem State.modDie_hotbuf (s : State) (i : Nat) (f : Die → Die) : (s.modDie i f).hotbuf = s.hotbuf := rfl
@[simp] theorem State.modDie_mgwt (s : State) (i : Nat) (f : Die → Die) : (s.modDie i f).mgwt = s.mgwt := rfl
@[simp] theorem State.modDie_freeRings (s : State) (i : Nat) (f : Die → Die) : (s.modDie i f).freeRings = s.freeRings := rfl
@[simp] theorem State.modDie_keptFrames (s : State) (i : Nat) (f : Die → Die) : (s.modDie i f).keptFrames = s.keptFrames := rfl
@[simp] theorem State.modDie_taken (s : State) (i : Nat) (f : Die → Die) : (s.modDie i f).taken = s.taken := rfl
@[simp] theorem State.modDie_windows (s : State) (i : Nat) (f : Die → Die) : (s.modDie i f).windows = s.windows := rfl
@[simp] theorem State.modDie_sketches (s : State) (i : Nat) (f : Die → Die) : (s.modDie i f).sketches = s.sketches := rfl
@[simp] theorem State.modDie_annexes (s : State) (i : Nat) (f : Die → Die) : (s.modDie i f).annexes = s.annexes := rfl
@[simp] theorem State.modDie_fns (s : State) (i : Nat) (f : Die → Die) : (s.modDie i f).fns = s.fns := rfl
@[simp] theorem State.modDie_dies (s : State) (i : Nat) (f : Die → Die) : (s.modDie i f).dies = s.dies.setIfInBounds i (f (s.die i)) := rfl
@[simp] theorem State.modDie_rsown (s : State) (i : Nat) (f : Die → Die) : (s.modDie i f).rsown = s.rsown := rfl
@[simp] theorem State.modDie_resolver (s : State) (i : Nat) (f : Die → Die) : (s.modDie i f).resolver = s.resolver := rfl
@[simp] theorem State.modDie_fbRings (s : State) (i : Nat) (f : Die → Die) : (s.modDie i f).fbRings = s.fbRings := rfl
@[simp] theorem State.modDie_svnFloor (s : State) (i : Nat) (f : Die → Die) : (s.modDie i f).svnFloor = s.svnFloor := rfl
@[simp] theorem State.modDie_svnSeen (s : State) (i : Nat) (f : Die → Die) : (s.modDie i f).svnSeen = s.svnSeen := rfl
@[simp] theorem State.modDie_links (s : State) (i : Nat) (f : Die → Die) : (s.modDie i f).links = s.links := rfl
@[simp] theorem State.modDie_variant (s : State) (i : Nat) (f : Die → Die) : (s.modDie i f).variant = s.variant := rfl
@[simp] theorem State.modDie_cfgSpace (s : State) (i : Nat) (f : Die → Die) : (s.modDie i f).cfgSpace = s.cfgSpace := rfl
@[simp] theorem State.modDie_measured (s : State) (i : Nat) (f : Die → Die) : (s.modDie i f).measured = s.measured := rfl
@[simp] theorem State.modDie_waitHomes (s : State) (i : Nat) (f : Die → Die) : (s.modDie i f).waitHomes = s.waitHomes := rfl
@[simp] theorem State.modDie_homeHeld (s : State) (i : Nat) (f : Die → Die) : (s.modDie i f).homeHeld = s.homeHeld := rfl
@[simp] theorem State.modDie_powerCap (s : State) (i : Nat) (f : Die → Die) : (s.modDie i f).powerCap = s.powerCap := rfl
@[simp] theorem State.modDie_clockCeil (s : State) (i : Nat) (f : Die → Die) : (s.modDie i f).clockCeil = s.clockCeil := rfl
@[simp] theorem State.modDie_packagePower (s : State) (i : Nat) (f : Die → Die) : (s.modDie i f).packagePower = s.packagePower := rfl
@[simp] theorem State.modDie_thermalTrip (s : State) (i : Nat) (f : Die → Die) : (s.modDie i f).thermalTrip = s.thermalTrip := rfl
@[simp] theorem State.modDie_answers (s : State) (i : Nat) (f : Die → Die) : (s.modDie i f).answers = s.answers := rfl

@[simp] theorem State.modFn_agenda (s : State) (vf : Nat) (f : Fn → Fn) : (s.modFn vf f).agenda = s.agenda := rfl
@[simp] theorem State.modFn_todo (s : State) (vf : Nat) (f : Fn → Fn) : (s.modFn vf f).todo = s.todo := rfl
@[simp] theorem State.modFn_focus (s : State) (vf : Nat) (f : Fn → Fn) : (s.modFn vf f).focus = s.focus := rfl
@[simp] theorem State.modFn_issuedNow (s : State) (vf : Nat) (f : Fn → Fn) : (s.modFn vf f).issuedNow = s.issuedNow := rfl
@[simp] theorem State.modFn_ac (s : State) (vf : Nat) (f : Fn → Fn) : (s.modFn vf f).ac = s.ac := rfl
@[simp] theorem State.modFn_time (s : State) (vf : Nat) (f : Fn → Fn) : (s.modFn vf f).time = s.time := rfl
@[simp] theorem State.modFn_step (s : State) (vf : Nat) (f : Fn → Fn) : (s.modFn vf f).step = s.step := rfl
@[simp] theorem State.modFn_hotStart (s : State) (vf : Nat) (f : Fn → Fn) : (s.modFn vf f).hotStart = s.hotStart := rfl
@[simp] theorem State.modFn_shareStart (s : State) (vf : Nat) (f : Fn → Fn) : (s.modFn vf f).shareStart = s.shareStart := rfl
@[simp] theorem State.modFn_budgetStart (s : State) (vf : Nat) (f : Fn → Fn) : (s.modFn vf f).budgetStart = s.budgetStart := rfl
@[simp] theorem State.modFn_freeCtr (s : State) (vf : Nat) (f : Fn → Fn) : (s.modFn vf f).freeCtr = s.freeCtr := rfl
@[simp] theorem State.modFn_powered (s : State) (vf : Nat) (f : Fn → Fn) : (s.modFn vf f).powered = s.powered := rfl
@[simp] theorem State.modFn_coresOn (s : State) (vf : Nat) (f : Fn → Fn) : (s.modFn vf f).coresOn = s.coresOn := rfl
@[simp] theorem State.modFn_cores (s : State) (vf : Nat) (f : Fn → Fn) : (s.modFn vf f).cores = s.cores := rfl
@[simp] theorem State.modFn_ctxs (s : State) (vf : Nat) (f : Fn → Fn) : (s.modFn vf f).ctxs = s.ctxs := rfl
@[simp] theorem State.modFn_nextCid (s : State) (vf : Nat) (f : Fn → Fn) : (s.modFn vf f).nextCid = s.nextCid := rfl
@[simp] theorem State.modFn_dram (s : State) (vf : Nat) (f : Fn → Fn) : (s.modFn vf f).dram = s.dram := rfl
@[simp] theorem State.modFn_host (s : State) (vf : Nat) (f : Fn → Fn) : (s.modFn vf f).host = s.host := rfl
@[simp] theorem State.modFn_peer (s : State) (vf : Nat) (f : Fn → Fn) : (s.modFn vf f).peer = s.peer := rfl
@[simp] theorem State.modFn_atrium (s : State) (vf : Nat) (f : Fn → Fn) : (s.modFn vf f).atrium = s.atrium := rfl
@[simp] theorem State.modFn_sigOwner (s : State) (vf : Nat) (f : Fn → Fn) : (s.modFn vf f).sigOwner = s.sigOwner := rfl
@[simp] theorem State.modFn_gallery (s : State) (vf : Nat) (f : Fn → Fn) : (s.modFn vf f).gallery = s.gallery := rfl
@[simp] theorem State.modFn_l2 (s : State) (vf : Nat) (f : Fn → Fn) : (s.modFn vf f).l2 = s.l2 := rfl
@[simp] theorem State.modFn_codes (s : State) (vf : Nat) (f : Fn → Fn) : (s.modFn vf f).codes = s.codes := rfl
@[simp] theorem State.modFn_crofts (s : State) (vf : Nat) (f : Fn → Fn) : (s.modFn vf f).crofts = s.crofts := rfl
@[simp] theorem State.modFn_reqs (s : State) (vf : Nat) (f : Fn → Fn) : (s.modFn vf f).reqs = s.reqs := rfl
@[simp] theorem State.modFn_nextReq (s : State) (vf : Nat) (f : Fn → Fn) : (s.modFn vf f).nextReq = s.nextReq := rfl
@[simp] theorem State.modFn_notices (s : State) (vf : Nat) (f : Fn → Fn) : (s.modFn vf f).notices = s.notices := rfl
@[simp] theorem State.modFn_maints (s : State) (vf : Nat) (f : Fn → Fn) : (s.modFn vf f).maints = s.maints := rfl
@[simp] theorem State.modFn_porters (s : State) (vf : Nat) (f : Fn → Fn) : (s.modFn vf f).porters = s.porters := rfl
@[simp] theorem State.modFn_doorbells (s : State) (vf : Nat) (f : Fn → Fn) : (s.modFn vf f).doorbells = s.doorbells := rfl
@[simp] theorem State.modFn_qtb (s : State) (vf : Nat) (f : Fn → Fn) : (s.modFn vf f).qtb = s.qtb := rfl
@[simp] theorem State.modFn_astb (s : State) (vf : Nat) (f : Fn → Fn) : (s.modFn vf f).astb = s.astb := rfl
@[simp] theorem State.modFn_hotctl (s : State) (vf : Nat) (f : Fn → Fn) : (s.modFn vf f).hotctl = s.hotctl := rfl
@[simp] theorem State.modFn_hotbuf (s : State) (vf : Nat) (f : Fn → Fn) : (s.modFn vf f).hotbuf = s.hotbuf := rfl
@[simp] theorem State.modFn_mgwt (s : State) (vf : Nat) (f : Fn → Fn) : (s.modFn vf f).mgwt = s.mgwt := rfl
@[simp] theorem State.modFn_freeRings (s : State) (vf : Nat) (f : Fn → Fn) : (s.modFn vf f).freeRings = s.freeRings := rfl
@[simp] theorem State.modFn_keptFrames (s : State) (vf : Nat) (f : Fn → Fn) : (s.modFn vf f).keptFrames = s.keptFrames := rfl
@[simp] theorem State.modFn_taken (s : State) (vf : Nat) (f : Fn → Fn) : (s.modFn vf f).taken = s.taken := rfl
@[simp] theorem State.modFn_windows (s : State) (vf : Nat) (f : Fn → Fn) : (s.modFn vf f).windows = s.windows := rfl
@[simp] theorem State.modFn_sketches (s : State) (vf : Nat) (f : Fn → Fn) : (s.modFn vf f).sketches = s.sketches := rfl
@[simp] theorem State.modFn_annexes (s : State) (vf : Nat) (f : Fn → Fn) : (s.modFn vf f).annexes = s.annexes := rfl
@[simp] theorem State.modFn_fns (s : State) (vf : Nat) (f : Fn → Fn) : (s.modFn vf f).fns = s.fns.setIfInBounds vf (f (s.fn vf)) := rfl
@[simp] theorem State.modFn_dies (s : State) (vf : Nat) (f : Fn → Fn) : (s.modFn vf f).dies = s.dies := rfl
@[simp] theorem State.modFn_rsown (s : State) (vf : Nat) (f : Fn → Fn) : (s.modFn vf f).rsown = s.rsown := rfl
@[simp] theorem State.modFn_resolver (s : State) (vf : Nat) (f : Fn → Fn) : (s.modFn vf f).resolver = s.resolver := rfl
@[simp] theorem State.modFn_fbRings (s : State) (vf : Nat) (f : Fn → Fn) : (s.modFn vf f).fbRings = s.fbRings := rfl
@[simp] theorem State.modFn_svnFloor (s : State) (vf : Nat) (f : Fn → Fn) : (s.modFn vf f).svnFloor = s.svnFloor := rfl
@[simp] theorem State.modFn_svnSeen (s : State) (vf : Nat) (f : Fn → Fn) : (s.modFn vf f).svnSeen = s.svnSeen := rfl
@[simp] theorem State.modFn_links (s : State) (vf : Nat) (f : Fn → Fn) : (s.modFn vf f).links = s.links := rfl
@[simp] theorem State.modFn_variant (s : State) (vf : Nat) (f : Fn → Fn) : (s.modFn vf f).variant = s.variant := rfl
@[simp] theorem State.modFn_cfgSpace (s : State) (vf : Nat) (f : Fn → Fn) : (s.modFn vf f).cfgSpace = s.cfgSpace := rfl
@[simp] theorem State.modFn_measured (s : State) (vf : Nat) (f : Fn → Fn) : (s.modFn vf f).measured = s.measured := rfl
@[simp] theorem State.modFn_waitHomes (s : State) (vf : Nat) (f : Fn → Fn) : (s.modFn vf f).waitHomes = s.waitHomes := rfl
@[simp] theorem State.modFn_homeHeld (s : State) (vf : Nat) (f : Fn → Fn) : (s.modFn vf f).homeHeld = s.homeHeld := rfl
@[simp] theorem State.modFn_powerCap (s : State) (vf : Nat) (f : Fn → Fn) : (s.modFn vf f).powerCap = s.powerCap := rfl
@[simp] theorem State.modFn_clockCeil (s : State) (vf : Nat) (f : Fn → Fn) : (s.modFn vf f).clockCeil = s.clockCeil := rfl
@[simp] theorem State.modFn_packagePower (s : State) (vf : Nat) (f : Fn → Fn) : (s.modFn vf f).packagePower = s.packagePower := rfl
@[simp] theorem State.modFn_thermalTrip (s : State) (vf : Nat) (f : Fn → Fn) : (s.modFn vf f).thermalTrip = s.thermalTrip := rfl
@[simp] theorem State.modFn_answers (s : State) (vf : Nat) (f : Fn → Fn) : (s.modFn vf f).answers = s.answers := rfl

@[simp] theorem State.modAnnex_agenda (s : State) (a : Nat) (f : Annex → Annex) : (s.modAnnex a f).agenda = s.agenda := rfl
@[simp] theorem State.modAnnex_todo (s : State) (a : Nat) (f : Annex → Annex) : (s.modAnnex a f).todo = s.todo := rfl
@[simp] theorem State.modAnnex_focus (s : State) (a : Nat) (f : Annex → Annex) : (s.modAnnex a f).focus = s.focus := rfl
@[simp] theorem State.modAnnex_issuedNow (s : State) (a : Nat) (f : Annex → Annex) : (s.modAnnex a f).issuedNow = s.issuedNow := rfl
@[simp] theorem State.modAnnex_ac (s : State) (a : Nat) (f : Annex → Annex) : (s.modAnnex a f).ac = s.ac := rfl
@[simp] theorem State.modAnnex_time (s : State) (a : Nat) (f : Annex → Annex) : (s.modAnnex a f).time = s.time := rfl
@[simp] theorem State.modAnnex_step (s : State) (a : Nat) (f : Annex → Annex) : (s.modAnnex a f).step = s.step := rfl
@[simp] theorem State.modAnnex_hotStart (s : State) (a : Nat) (f : Annex → Annex) : (s.modAnnex a f).hotStart = s.hotStart := rfl
@[simp] theorem State.modAnnex_shareStart (s : State) (a : Nat) (f : Annex → Annex) : (s.modAnnex a f).shareStart = s.shareStart := rfl
@[simp] theorem State.modAnnex_budgetStart (s : State) (a : Nat) (f : Annex → Annex) : (s.modAnnex a f).budgetStart = s.budgetStart := rfl
@[simp] theorem State.modAnnex_freeCtr (s : State) (a : Nat) (f : Annex → Annex) : (s.modAnnex a f).freeCtr = s.freeCtr := rfl
@[simp] theorem State.modAnnex_powered (s : State) (a : Nat) (f : Annex → Annex) : (s.modAnnex a f).powered = s.powered := rfl
@[simp] theorem State.modAnnex_coresOn (s : State) (a : Nat) (f : Annex → Annex) : (s.modAnnex a f).coresOn = s.coresOn := rfl
@[simp] theorem State.modAnnex_cores (s : State) (a : Nat) (f : Annex → Annex) : (s.modAnnex a f).cores = s.cores := rfl
@[simp] theorem State.modAnnex_ctxs (s : State) (a : Nat) (f : Annex → Annex) : (s.modAnnex a f).ctxs = s.ctxs := rfl
@[simp] theorem State.modAnnex_nextCid (s : State) (a : Nat) (f : Annex → Annex) : (s.modAnnex a f).nextCid = s.nextCid := rfl
@[simp] theorem State.modAnnex_dram (s : State) (a : Nat) (f : Annex → Annex) : (s.modAnnex a f).dram = s.dram := rfl
@[simp] theorem State.modAnnex_host (s : State) (a : Nat) (f : Annex → Annex) : (s.modAnnex a f).host = s.host := rfl
@[simp] theorem State.modAnnex_peer (s : State) (a : Nat) (f : Annex → Annex) : (s.modAnnex a f).peer = s.peer := rfl
@[simp] theorem State.modAnnex_atrium (s : State) (a : Nat) (f : Annex → Annex) : (s.modAnnex a f).atrium = s.atrium := rfl
@[simp] theorem State.modAnnex_sigOwner (s : State) (a : Nat) (f : Annex → Annex) : (s.modAnnex a f).sigOwner = s.sigOwner := rfl
@[simp] theorem State.modAnnex_gallery (s : State) (a : Nat) (f : Annex → Annex) : (s.modAnnex a f).gallery = s.gallery := rfl
@[simp] theorem State.modAnnex_l2 (s : State) (a : Nat) (f : Annex → Annex) : (s.modAnnex a f).l2 = s.l2 := rfl
@[simp] theorem State.modAnnex_codes (s : State) (a : Nat) (f : Annex → Annex) : (s.modAnnex a f).codes = s.codes := rfl
@[simp] theorem State.modAnnex_crofts (s : State) (a : Nat) (f : Annex → Annex) : (s.modAnnex a f).crofts = s.crofts := rfl
@[simp] theorem State.modAnnex_reqs (s : State) (a : Nat) (f : Annex → Annex) : (s.modAnnex a f).reqs = s.reqs := rfl
@[simp] theorem State.modAnnex_nextReq (s : State) (a : Nat) (f : Annex → Annex) : (s.modAnnex a f).nextReq = s.nextReq := rfl
@[simp] theorem State.modAnnex_notices (s : State) (a : Nat) (f : Annex → Annex) : (s.modAnnex a f).notices = s.notices := rfl
@[simp] theorem State.modAnnex_maints (s : State) (a : Nat) (f : Annex → Annex) : (s.modAnnex a f).maints = s.maints := rfl
@[simp] theorem State.modAnnex_porters (s : State) (a : Nat) (f : Annex → Annex) : (s.modAnnex a f).porters = s.porters := rfl
@[simp] theorem State.modAnnex_doorbells (s : State) (a : Nat) (f : Annex → Annex) : (s.modAnnex a f).doorbells = s.doorbells := rfl
@[simp] theorem State.modAnnex_qtb (s : State) (a : Nat) (f : Annex → Annex) : (s.modAnnex a f).qtb = s.qtb := rfl
@[simp] theorem State.modAnnex_astb (s : State) (a : Nat) (f : Annex → Annex) : (s.modAnnex a f).astb = s.astb := rfl
@[simp] theorem State.modAnnex_hotctl (s : State) (a : Nat) (f : Annex → Annex) : (s.modAnnex a f).hotctl = s.hotctl := rfl
@[simp] theorem State.modAnnex_hotbuf (s : State) (a : Nat) (f : Annex → Annex) : (s.modAnnex a f).hotbuf = s.hotbuf := rfl
@[simp] theorem State.modAnnex_mgwt (s : State) (a : Nat) (f : Annex → Annex) : (s.modAnnex a f).mgwt = s.mgwt := rfl
@[simp] theorem State.modAnnex_freeRings (s : State) (a : Nat) (f : Annex → Annex) : (s.modAnnex a f).freeRings = s.freeRings := rfl
@[simp] theorem State.modAnnex_keptFrames (s : State) (a : Nat) (f : Annex → Annex) : (s.modAnnex a f).keptFrames = s.keptFrames := rfl
@[simp] theorem State.modAnnex_taken (s : State) (a : Nat) (f : Annex → Annex) : (s.modAnnex a f).taken = s.taken := rfl
@[simp] theorem State.modAnnex_windows (s : State) (a : Nat) (f : Annex → Annex) : (s.modAnnex a f).windows = s.windows := rfl
@[simp] theorem State.modAnnex_sketches (s : State) (a : Nat) (f : Annex → Annex) : (s.modAnnex a f).sketches = s.sketches := rfl
@[simp] theorem State.modAnnex_annexes (s : State) (a : Nat) (f : Annex → Annex) : (s.modAnnex a f).annexes = s.annexes.setIfInBounds a (f (s.annex a)) := rfl
@[simp] theorem State.modAnnex_fns (s : State) (a : Nat) (f : Annex → Annex) : (s.modAnnex a f).fns = s.fns := rfl
@[simp] theorem State.modAnnex_dies (s : State) (a : Nat) (f : Annex → Annex) : (s.modAnnex a f).dies = s.dies := rfl
@[simp] theorem State.modAnnex_rsown (s : State) (a : Nat) (f : Annex → Annex) : (s.modAnnex a f).rsown = s.rsown := rfl
@[simp] theorem State.modAnnex_resolver (s : State) (a : Nat) (f : Annex → Annex) : (s.modAnnex a f).resolver = s.resolver := rfl
@[simp] theorem State.modAnnex_fbRings (s : State) (a : Nat) (f : Annex → Annex) : (s.modAnnex a f).fbRings = s.fbRings := rfl
@[simp] theorem State.modAnnex_svnFloor (s : State) (a : Nat) (f : Annex → Annex) : (s.modAnnex a f).svnFloor = s.svnFloor := rfl
@[simp] theorem State.modAnnex_svnSeen (s : State) (a : Nat) (f : Annex → Annex) : (s.modAnnex a f).svnSeen = s.svnSeen := rfl
@[simp] theorem State.modAnnex_links (s : State) (a : Nat) (f : Annex → Annex) : (s.modAnnex a f).links = s.links := rfl
@[simp] theorem State.modAnnex_variant (s : State) (a : Nat) (f : Annex → Annex) : (s.modAnnex a f).variant = s.variant := rfl
@[simp] theorem State.modAnnex_cfgSpace (s : State) (a : Nat) (f : Annex → Annex) : (s.modAnnex a f).cfgSpace = s.cfgSpace := rfl
@[simp] theorem State.modAnnex_measured (s : State) (a : Nat) (f : Annex → Annex) : (s.modAnnex a f).measured = s.measured := rfl
@[simp] theorem State.modAnnex_waitHomes (s : State) (a : Nat) (f : Annex → Annex) : (s.modAnnex a f).waitHomes = s.waitHomes := rfl
@[simp] theorem State.modAnnex_homeHeld (s : State) (a : Nat) (f : Annex → Annex) : (s.modAnnex a f).homeHeld = s.homeHeld := rfl
@[simp] theorem State.modAnnex_powerCap (s : State) (a : Nat) (f : Annex → Annex) : (s.modAnnex a f).powerCap = s.powerCap := rfl
@[simp] theorem State.modAnnex_clockCeil (s : State) (a : Nat) (f : Annex → Annex) : (s.modAnnex a f).clockCeil = s.clockCeil := rfl
@[simp] theorem State.modAnnex_packagePower (s : State) (a : Nat) (f : Annex → Annex) : (s.modAnnex a f).packagePower = s.packagePower := rfl
@[simp] theorem State.modAnnex_thermalTrip (s : State) (a : Nat) (f : Annex → Annex) : (s.modAnnex a f).thermalTrip = s.thermalTrip := rfl
@[simp] theorem State.modAnnex_answers (s : State) (a : Nat) (f : Annex → Annex) : (s.modAnnex a f).answers = s.answers := rfl

@[simp] theorem State.modPorter_agenda (s : State) (h : Nat) (f : Porter → Porter) : (s.modPorter h f).agenda = s.agenda := rfl
@[simp] theorem State.modPorter_todo (s : State) (h : Nat) (f : Porter → Porter) : (s.modPorter h f).todo = s.todo := rfl
@[simp] theorem State.modPorter_focus (s : State) (h : Nat) (f : Porter → Porter) : (s.modPorter h f).focus = s.focus := rfl
@[simp] theorem State.modPorter_issuedNow (s : State) (h : Nat) (f : Porter → Porter) : (s.modPorter h f).issuedNow = s.issuedNow := rfl
@[simp] theorem State.modPorter_ac (s : State) (h : Nat) (f : Porter → Porter) : (s.modPorter h f).ac = s.ac := rfl
@[simp] theorem State.modPorter_time (s : State) (h : Nat) (f : Porter → Porter) : (s.modPorter h f).time = s.time := rfl
@[simp] theorem State.modPorter_step (s : State) (h : Nat) (f : Porter → Porter) : (s.modPorter h f).step = s.step := rfl
@[simp] theorem State.modPorter_hotStart (s : State) (h : Nat) (f : Porter → Porter) : (s.modPorter h f).hotStart = s.hotStart := rfl
@[simp] theorem State.modPorter_shareStart (s : State) (h : Nat) (f : Porter → Porter) : (s.modPorter h f).shareStart = s.shareStart := rfl
@[simp] theorem State.modPorter_budgetStart (s : State) (h : Nat) (f : Porter → Porter) : (s.modPorter h f).budgetStart = s.budgetStart := rfl
@[simp] theorem State.modPorter_freeCtr (s : State) (h : Nat) (f : Porter → Porter) : (s.modPorter h f).freeCtr = s.freeCtr := rfl
@[simp] theorem State.modPorter_powered (s : State) (h : Nat) (f : Porter → Porter) : (s.modPorter h f).powered = s.powered := rfl
@[simp] theorem State.modPorter_coresOn (s : State) (h : Nat) (f : Porter → Porter) : (s.modPorter h f).coresOn = s.coresOn := rfl
@[simp] theorem State.modPorter_cores (s : State) (h : Nat) (f : Porter → Porter) : (s.modPorter h f).cores = s.cores := rfl
@[simp] theorem State.modPorter_ctxs (s : State) (h : Nat) (f : Porter → Porter) : (s.modPorter h f).ctxs = s.ctxs := rfl
@[simp] theorem State.modPorter_nextCid (s : State) (h : Nat) (f : Porter → Porter) : (s.modPorter h f).nextCid = s.nextCid := rfl
@[simp] theorem State.modPorter_dram (s : State) (h : Nat) (f : Porter → Porter) : (s.modPorter h f).dram = s.dram := rfl
@[simp] theorem State.modPorter_host (s : State) (h : Nat) (f : Porter → Porter) : (s.modPorter h f).host = s.host := rfl
@[simp] theorem State.modPorter_peer (s : State) (h : Nat) (f : Porter → Porter) : (s.modPorter h f).peer = s.peer := rfl
@[simp] theorem State.modPorter_atrium (s : State) (h : Nat) (f : Porter → Porter) : (s.modPorter h f).atrium = s.atrium := rfl
@[simp] theorem State.modPorter_sigOwner (s : State) (h : Nat) (f : Porter → Porter) : (s.modPorter h f).sigOwner = s.sigOwner := rfl
@[simp] theorem State.modPorter_gallery (s : State) (h : Nat) (f : Porter → Porter) : (s.modPorter h f).gallery = s.gallery := rfl
@[simp] theorem State.modPorter_l2 (s : State) (h : Nat) (f : Porter → Porter) : (s.modPorter h f).l2 = s.l2 := rfl
@[simp] theorem State.modPorter_codes (s : State) (h : Nat) (f : Porter → Porter) : (s.modPorter h f).codes = s.codes := rfl
@[simp] theorem State.modPorter_crofts (s : State) (h : Nat) (f : Porter → Porter) : (s.modPorter h f).crofts = s.crofts := rfl
@[simp] theorem State.modPorter_reqs (s : State) (h : Nat) (f : Porter → Porter) : (s.modPorter h f).reqs = s.reqs := rfl
@[simp] theorem State.modPorter_nextReq (s : State) (h : Nat) (f : Porter → Porter) : (s.modPorter h f).nextReq = s.nextReq := rfl
@[simp] theorem State.modPorter_notices (s : State) (h : Nat) (f : Porter → Porter) : (s.modPorter h f).notices = s.notices := rfl
@[simp] theorem State.modPorter_maints (s : State) (h : Nat) (f : Porter → Porter) : (s.modPorter h f).maints = s.maints := rfl
@[simp] theorem State.modPorter_porters (s : State) (h : Nat) (f : Porter → Porter) : (s.modPorter h f).porters = s.porters.setIfInBounds h (f (s.porter h)) := rfl
@[simp] theorem State.modPorter_doorbells (s : State) (h : Nat) (f : Porter → Porter) : (s.modPorter h f).doorbells = s.doorbells := rfl
@[simp] theorem State.modPorter_qtb (s : State) (h : Nat) (f : Porter → Porter) : (s.modPorter h f).qtb = s.qtb := rfl
@[simp] theorem State.modPorter_astb (s : State) (h : Nat) (f : Porter → Porter) : (s.modPorter h f).astb = s.astb := rfl
@[simp] theorem State.modPorter_hotctl (s : State) (h : Nat) (f : Porter → Porter) : (s.modPorter h f).hotctl = s.hotctl := rfl
@[simp] theorem State.modPorter_hotbuf (s : State) (h : Nat) (f : Porter → Porter) : (s.modPorter h f).hotbuf = s.hotbuf := rfl
@[simp] theorem State.modPorter_mgwt (s : State) (h : Nat) (f : Porter → Porter) : (s.modPorter h f).mgwt = s.mgwt := rfl
@[simp] theorem State.modPorter_freeRings (s : State) (h : Nat) (f : Porter → Porter) : (s.modPorter h f).freeRings = s.freeRings := rfl
@[simp] theorem State.modPorter_keptFrames (s : State) (h : Nat) (f : Porter → Porter) : (s.modPorter h f).keptFrames = s.keptFrames := rfl
@[simp] theorem State.modPorter_taken (s : State) (h : Nat) (f : Porter → Porter) : (s.modPorter h f).taken = s.taken := rfl
@[simp] theorem State.modPorter_windows (s : State) (h : Nat) (f : Porter → Porter) : (s.modPorter h f).windows = s.windows := rfl
@[simp] theorem State.modPorter_sketches (s : State) (h : Nat) (f : Porter → Porter) : (s.modPorter h f).sketches = s.sketches := rfl
@[simp] theorem State.modPorter_annexes (s : State) (h : Nat) (f : Porter → Porter) : (s.modPorter h f).annexes = s.annexes := rfl
@[simp] theorem State.modPorter_fns (s : State) (h : Nat) (f : Porter → Porter) : (s.modPorter h f).fns = s.fns := rfl
@[simp] theorem State.modPorter_dies (s : State) (h : Nat) (f : Porter → Porter) : (s.modPorter h f).dies = s.dies := rfl
@[simp] theorem State.modPorter_rsown (s : State) (h : Nat) (f : Porter → Porter) : (s.modPorter h f).rsown = s.rsown := rfl
@[simp] theorem State.modPorter_resolver (s : State) (h : Nat) (f : Porter → Porter) : (s.modPorter h f).resolver = s.resolver := rfl
@[simp] theorem State.modPorter_fbRings (s : State) (h : Nat) (f : Porter → Porter) : (s.modPorter h f).fbRings = s.fbRings := rfl
@[simp] theorem State.modPorter_svnFloor (s : State) (h : Nat) (f : Porter → Porter) : (s.modPorter h f).svnFloor = s.svnFloor := rfl
@[simp] theorem State.modPorter_svnSeen (s : State) (h : Nat) (f : Porter → Porter) : (s.modPorter h f).svnSeen = s.svnSeen := rfl
@[simp] theorem State.modPorter_links (s : State) (h : Nat) (f : Porter → Porter) : (s.modPorter h f).links = s.links := rfl
@[simp] theorem State.modPorter_variant (s : State) (h : Nat) (f : Porter → Porter) : (s.modPorter h f).variant = s.variant := rfl
@[simp] theorem State.modPorter_cfgSpace (s : State) (h : Nat) (f : Porter → Porter) : (s.modPorter h f).cfgSpace = s.cfgSpace := rfl
@[simp] theorem State.modPorter_measured (s : State) (h : Nat) (f : Porter → Porter) : (s.modPorter h f).measured = s.measured := rfl
@[simp] theorem State.modPorter_waitHomes (s : State) (h : Nat) (f : Porter → Porter) : (s.modPorter h f).waitHomes = s.waitHomes := rfl
@[simp] theorem State.modPorter_homeHeld (s : State) (h : Nat) (f : Porter → Porter) : (s.modPorter h f).homeHeld = s.homeHeld := rfl
@[simp] theorem State.modPorter_powerCap (s : State) (h : Nat) (f : Porter → Porter) : (s.modPorter h f).powerCap = s.powerCap := rfl
@[simp] theorem State.modPorter_clockCeil (s : State) (h : Nat) (f : Porter → Porter) : (s.modPorter h f).clockCeil = s.clockCeil := rfl
@[simp] theorem State.modPorter_packagePower (s : State) (h : Nat) (f : Porter → Porter) : (s.modPorter h f).packagePower = s.packagePower := rfl
@[simp] theorem State.modPorter_thermalTrip (s : State) (h : Nat) (f : Porter → Porter) : (s.modPorter h f).thermalTrip = s.thermalTrip := rfl
@[simp] theorem State.modPorter_answers (s : State) (h : Nat) (f : Porter → Porter) : (s.modPorter h f).answers = s.answers := rfl

end Sys2Proof.Machine
end

