-- ==== Sys2Proof/Laws/Ops.lean ====
section
/-! SUPPORT. What the shared operations of the machine do: the parts of a state after an update, the split at a focus, what
an issue can come to, and taking an exception. -/

namespace Sys2Proof.Machine

/-! ## Reading a part after an update -/

@[simp] theorem State.core_setCore_self (s : State) (n : Nat) (c : Core) : (s.setCore n c).core n = c := by
  simp [State.core]

theorem State.core_setCore_ne (s : State) (n m : Nat) (c : Core) (h : n ≠ m) : (s.setCore n c).core m = s.core m := by
  simp [State.core, lookup_insert_ne _ _ _ _ h]

@[simp] theorem State.core_modCore_self (s : State) (n : Nat) (f : Core → Core) : (s.modCore n f).core n = f (s.core n) :=
  State.core_setCore_self ..

theorem State.core_modCore_ne (s : State) (n m : Nat) (f : Core → Core) (h : n ≠ m) : (s.modCore n f).core m = s.core m :=
  State.core_setCore_ne _ _ _ _ h

@[simp] theorem State.ctx_setCtx_self (s : State) (cid : Nat) (c : Ctx) : (s.setCtx cid c).ctx cid = some c := by
  simp [State.ctx]

theorem State.ctx_setCtx_ne (s : State) (cid d : Nat) (c : Ctx) (h : cid ≠ d) : (s.setCtx cid c).ctx d = s.ctx d := by
  simp [State.ctx, lookup_insert_ne _ _ _ _ h]

@[simp] theorem State.ctx_modCtx_self (s : State) (cid : Nat) (f : Ctx → Ctx) : (s.modCtx cid f).ctx cid = (s.ctx cid).map f := by
  unfold State.modCtx
  split
  · rename_i h
    simp [h]
  · rename_i c h
    simp [h]

theorem State.ctx_modCtx_ne (s : State) (cid d : Nat) (f : Ctx → Ctx) (h : cid ≠ d) : (s.modCtx cid f).ctx d = s.ctx d := by
  unfold State.modCtx
  split
  · rfl
  · exact State.ctx_setCtx_ne _ _ _ _ h

@[simp] theorem State.ctx_setCore (s : State) (n : Nat) (c : Core) (cid : Nat) : (s.setCore n c).ctx cid = s.ctx cid := rfl
@[simp] theorem State.ctx_modCore (s : State) (n : Nat) (f : Core → Core) (cid : Nat) : (s.modCore n f).ctx cid = s.ctx cid := rfl
@[simp] theorem State.ctx_push (s : State) (i : Instr) (cid : Nat) : (s.push i).ctx cid = s.ctx cid := rfl
@[simp] theorem State.ctx_pushAll (s : State) (l : List Instr) (cid : Nat) : (s.pushAll l).ctx cid = s.ctx cid := rfl
@[simp] theorem State.core_setCtx (s : State) (cid : Nat) (c : Ctx) (n : Nat) : (s.setCtx cid c).core n = s.core n := rfl
@[simp] theorem State.core_push (s : State) (i : Instr) (n : Nat) : (s.push i).core n = s.core n := rfl
@[simp] theorem State.core_pushAll (s : State) (l : List Instr) (n : Nat) : (s.pushAll l).core n = s.core n := rfl
@[simp] theorem State.core_modCtx (s : State) (cid : Nat) (f : Ctx → Ctx) (n : Nat) : (s.modCtx cid f).core n = s.core n := by
  simp [State.core]
@[simp] theorem State.core_modFrame (s : State) (cid h : Nat) (f : Frame → Frame) (n : Nat) :
    (s.modFrame cid h f).core n = s.core n := by simp [State.core]
@[simp] theorem State.core_modGroup (s : State) (cid h : Nat) (f : Group → Group) (n : Nat) :
    (s.modGroup cid h f).core n = s.core n := by simp [State.core]
@[simp] theorem State.core_modSplit (s : State) (cid h k : Nat) (f : Split → Split) (n : Nat) :
    (s.modSplit cid h k f).core n = s.core n := by simp [State.core]
@[simp] theorem State.frame_push (s : State) (i : Instr) (cid h : Nat) : (s.push i).frame cid h = s.frame cid h := rfl
@[simp] theorem State.frame_pushAll (s : State) (l : List Instr) (cid h : Nat) : (s.pushAll l).frame cid h = s.frame cid h := rfl
@[simp] theorem State.frame_modCore (s : State) (n : Nat) (f : Core → Core) (cid h : Nat) :
    (s.modCore n f).frame cid h = s.frame cid h := rfl

/-- The frame named is changed by the function, where it is there. -/
@[simp] theorem State.frame_modFrame_self (s : State) (cid h : Nat) (f : Frame → Frame) :
    (s.modFrame cid h f).frame cid h = (s.frame cid h).map f := by
  unfold State.modFrame State.frame
  rw [State.ctx_modCtx_self]
  cases hc : s.ctx cid with
  | none => rfl
  | some c =>
    simp only [Option.map_some]
    cases hf : lookup c.frames h with
    | none => simp [hf]
    | some fr => simp

/-- Every other frame stays as it is. -/
theorem State.frame_modFrame_ne (s : State) (cid h d k : Nat) (f : Frame → Frame) (hne : (cid, h) ≠ (d, k)) :
    (s.modFrame cid h f).frame d k = s.frame d k := by
  unfold State.modFrame State.frame
  by_cases hd : cid = d
  · subst hd
    have hk : h ≠ k := fun e => hne (by rw [e])
    rw [State.ctx_modCtx_self]
    cases hc : s.ctx cid with
    | none => rfl
    | some c =>
      simp only [Option.map_some]
      cases hf : lookup c.frames h with
      | none => simp
      | some fr => simp [lookup_insert_ne _ _ _ _ hk]
  · rw [State.ctx_modCtx_ne _ _ _ _ hd]

@[simp] theorem State.frame_modGroup_self (s : State) (cid h : Nat) (f : Group → Group) :
    (s.modGroup cid h f).frame cid h = (s.frame cid h).map fun fr => { fr with group := f fr.group } :=
  State.frame_modFrame_self ..

theorem State.frame_modGroup_ne (s : State) (cid h d k : Nat) (f : Group → Group) (hne : (cid, h) ≠ (d, k)) :
    (s.modGroup cid h f).frame d k = s.frame d k := State.frame_modFrame_ne _ _ _ _ _ _ hne

/-! ## The split at a focus -/

/-- What a split at a focus is: the state and the focus it was found for, its bind record and context, and its frame and split as the
instruction under way reads them. -/
theorem Env.of_eq {s : State} {f : Focus} {e : Env} (h : Env.of s f = some e) :
    e.s = s ∧ e.f = f ∧ lookup (s.core f.core).slots f.slot = some e.bind ∧ e.bind.frame = some e.h ∧ e.cid = e.bind.cid ∧
      s.ctx e.cid = some e.ctx ∧ ∃ fr sp, lookup e.ctx.frames e.h = some fr ∧ fr.group.split f.split = some sp ∧ e.sp.read = sp.read ∧
        (e.fr, e.sp) = (match sp.read with | none => (fr, sp) | some q => q.over fr sp) := by
  unfold Env.of at h
  split at h
  · cases h
  · rename_i b hb
    split at h
    · rename_i k c hk hc
      split at h
      · cases h
      · rename_i fr hfr
        split at h
        · cases h
        · rename_i sp hsp
          split at h <;> rename_i hr <;> cases h
          · exact ⟨rfl, rfl, hb, hk, rfl, hc, fr, sp, hfr, hsp, rfl, by rw [hr]⟩
          · exact ⟨rfl, rfl, hb, hk, rfl, hc, fr, sp, hfr, hsp, rfl, by rw [hr]⟩
    · cases h

theorem Env.of_state {s : State} {f : Focus} {e : Env} (h : Env.of s f = some e) : e.s = s := (Env.of_eq h).1

theorem Env.of_focus {s : State} {f : Focus} {e : Env} (h : Env.of s f = some e) : e.f = f := (Env.of_eq h).2.1

/-- The frame of a split at a focus is there. -/
theorem Env.of_frame {s : State} {f : Focus} {e : Env} (h : Env.of s f = some e) : ∃ fr, s.frame e.cid e.h = some fr := by
  obtain ⟨-, -, -, -, -, hc, fr, -, hf, -⟩ := Env.of_eq h
  exact ⟨fr, by simp [State.frame, hc, hf]⟩

/-- With no instruction under way it is the frame as it stands. -/
theorem Env.of_fresh {s : State} {f : Focus} {e : Env} (h : Env.of s f = some e) (hr : e.sp.read = none) :
    s.frame e.cid e.h = some e.fr ∧ e.fr.group.split f.split = some e.sp := by
  obtain ⟨-, -, -, -, -, hc, fr, sp, hf, hs, hq, he⟩ := Env.of_eq h
  rw [← hq, hr] at he
  cases he
  exact ⟨by simp [State.frame, hc, hf], hs⟩

/-! ## What an issue can come to -/

/-- An issue always answers a next state. -/
theorem issueAny_next (i : Instr) (h : Hdr) (tags : Env → Bool) (body : Env → Perf) (s : State) :
    ∃ t, issueAny i h tags body s = .next t := ⟨_, rfl⟩

theorem issueWith_next (i : Instr) (h : Hdr) (tags : Env → Bool) (body : Env → Perf) (s : State) :
    ∃ t, issueWith i h tags body s = .next t := ⟨_, rfl⟩

/-- With no split at the focus nothing happens. -/
theorem issueAny_none {i : Instr} {h : Hdr} {tags : Env → Bool} {body : Env → Perf} {s : State} (he : Env.of s s.focus = none) :
    issueAny i h tags body s = .next s := by
  unfold issueAny
  rw [he]

theorem issueWith_none {i : Instr} {h : Hdr} {tags : Env → Bool} {body : Env → Perf} {s : State} (he : Env.of s s.focus = none) :
    issueWith i h tags body s = .next s := issueAny_none he

/-- R238: an instruction that is not legal here traps. -/
theorem issueAny_illegal {i : Instr} {h : Hdr} {tags : Env → Bool} {body : Env → Perf} {s : State} {e : Env}
    (he : Env.of s s.focus = some e) (hl : e.legal i = false) :
    issueAny i h tags body s = .next (e.take (faultOf .illegalOpcode) s) := by
  unfold issueAny
  rw [he]
  simp [hl]

theorem issueWith_illegal {i : Instr} {h : Hdr} {tags : Env → Bool} {body : Env → Perf} {s : State} {e : Env}
    (he : Env.of s s.focus = some e) (hl : e.legal i = false) :
    issueWith i h tags body s = .next (e.take (faultOf .illegalOpcode) s) := issueAny_illegal he hl

/-- R238, R204: a first attempt with an operand of the wrong format traps. -/
theorem issueAny_format {i : Instr} {h : Hdr} {tags : Env → Bool} {body : Env → Perf} {s : State} {e : Env}
    (he : Env.of s s.focus = some e) (hl : e.legal i = true) (hw : e.sp.wait ≠ .access) (ht : tags e = false) :
    issueAny i h tags body s = .next (e.take (faultOf .formatMismatch) s) := by
  unfold issueAny
  rw [he]
  simp [hl, ht, hw]

theorem issueWith_format {i : Instr} {h : Hdr} {tags : Env → Bool} {body : Env → Perf} {s : State} {e : Env}
    (he : Env.of s s.focus = some e) (hl : e.legal i = true) (hw : e.sp.wait ≠ .access) (ht : tags e = false) :
    issueWith i h tags body s = .next (e.take (faultOf .formatMismatch) s) := issueAny_format he hl hw ht

/-- Otherwise the instruction's own body decides. -/
theorem issueAny_body {i : Instr} {h : Hdr} {tags : Env → Bool} {body : Env → Perf} {s : State} {e : Env}
    (he : Env.of s s.focus = some e) (hl : e.legal i = true) (ht : tags e = true) :
    issueAny i h tags body s = .next (match body e with
      | .ok s' => e.next h (slotsOf i) s'
      | .moved s' => s'
      | .stay s' => s'
      | .trap t s' => e.take t s') := by
  unfold issueAny
  rw [he]
  cases hb : body e <;> simp only [hl, ht, hb, Bool.not_true, Bool.and_false, Bool.false_eq_true, if_false]

/-- R226: an empty guarded set performs nothing. -/
theorem issueWith_empty {i : Instr} {h : Hdr} {tags : Env → Bool} {body : Env → Perf} {s : State} {e : Env}
    (he : Env.of s s.focus = some e) (hl : e.legal i = true) (ht : tags e = true) (hg : e.g h = 0) :
    issueWith i h tags body s = .next (e.next h (slotsOf i) s) := by
  unfold issueWith
  rw [issueAny_body he hl ht]
  simp [hg, Env.of_state he]

theorem issueWith_body {i : Instr} {h : Hdr} {tags : Env → Bool} {body : Env → Perf} {s : State} {e : Env}
    (he : Env.of s s.focus = some e) (hl : e.legal i = true) (ht : tags e = true) (hg : e.g h ≠ 0) :
    issueWith i h tags body s = .next (match body e with
      | .ok s' => e.next h (slotsOf i) s'
      | .moved s' => s'
      | .stay s' => s'
      | .trap t s' => e.take t s') := by
  unfold issueWith
  rw [issueAny_body he hl ht]
  simp only [beq_iff_eq, if_neg hg]

/-- A body that performs: where the lanes go next is NX's (R227). -/
theorem issueWith_ok {i : Instr} {h : Hdr} {tags : Env → Bool} {body : Env → Perf} {s t : State} {e : Env}
    (he : Env.of s s.focus = some e) (hl : e.legal i = true) (ht : tags e = true) (hg : e.g h ≠ 0) (hb : body e = .ok t) :
    issueWith i h tags body s = .next (e.next h (slotsOf i) t) := by
  rw [issueWith_body he hl ht hg, hb]

theorem issueWith_moved {i : Instr} {h : Hdr} {tags : Env → Bool} {body : Env → Perf} {s t : State} {e : Env}
    (he : Env.of s s.focus = some e) (hl : e.legal i = true) (ht : tags e = true) (hg : e.g h ≠ 0) (hb : body e = .moved t) :
    issueWith i h tags body s = .next t := by
  rw [issueWith_body he hl ht hg, hb]

theorem issueWith_stay {i : Instr} {h : Hdr} {tags : Env → Bool} {body : Env → Perf} {s t : State} {e : Env}
    (he : Env.of s s.focus = some e) (hl : e.legal i = true) (ht : tags e = true) (hg : e.g h ≠ 0) (hb : body e = .stay t) :
    issueWith i h tags body s = .next t := by
  rw [issueWith_body he hl ht hg, hb]

theorem issueWith_trap {i : Instr} {h : Hdr} {tags : Env → Bool} {body : Env → Perf} {s t : State} {e : Env} {x : TrapInfo}
    (he : Env.of s s.focus = some e) (hl : e.legal i = true) (ht : tags e = true) (hg : e.g h ≠ 0) (hb : body e = .trap x t) :
    issueWith i h tags body s = .next (e.take x t) := by
  rw [issueWith_body he hl ht hg, hb]

/-! ## Results -/

/-- A result of latency L is owed to the group from the issue on, and nothing else of the group changes (R240, R241). -/
theorem Env.fixed_frame (e : Env) (l : Nat) (ws : List RegWrite) (s : State) (fr : Frame) (h : s.frame e.cid e.h = some fr) :
    (e.fixed l ws s).frame e.cid e.h = some { fr with group := { fr.group with
      nextId := fr.group.nextId + 1, results := fr.group.results ++ [⟨fr.group.nextId, e.f.split, true, some (s.ac + l), ws, false⟩] } } := by
  simp [Env.fixed, Env.modGroup, h]

theorem Env.fixed_frame_ne (e : Env) (l : Nat) (ws : List RegWrite) (s : State) (d k : Nat) (h : (e.cid, e.h) ≠ (d, k)) :
    (e.fixed l ws s).frame d k = s.frame d k := State.frame_modGroup_ne _ _ _ _ _ _ h

/-! ## Taking an exception -/

/-- A raise in a running context: the halt line goes up, with the first cause, and a line arrives at each core of the rectangle
(R391, R392). -/
theorem State.raiseHalt_running {s : State} {cid : Nat} {c : Ctx} (code : FaultCode) (seq : Nat) (hc : s.ctx cid = some c)
    (hr : c.st = .running) :
    s.raiseHalt cid code seq = (s.setCtx cid { c with st := .halting, settled := false, first := some code, firstSeq := seq, stepping := false, arrived := [], settledAt := [] }).pushAll (c.rect.cores.map fun n => .haltLineArrival cid n) := by
  unfold State.raiseHalt
  rw [hc]
  simp [hr]

/-- A raise in a context whose line is up already changes nothing. -/
theorem State.raiseHalt_halting {s : State} {cid : Nat} {c : Ctx} (code : FaultCode) (seq : Nat) (hc : s.ctx cid = some c)
    (hr : c.st = .halting) : s.raiseHalt cid code seq = s := by
  unfold State.raiseHalt
  rw [hc]
  simp [hr]

end Sys2Proof.Machine
end

