-- ==== Sys2Proof/Laws/PerInstr.lean ====
section
/-! SUPPORT. One lemma per instruction: the word the encoder makes of it names that instruction again, with every operand
field (R225 to R239). -/

set_option linter.unusedSimpArgs false
set_option Elab.async false

namespace Sys2Proof.Laws.WordForm

/-- The word of a well-formed instruction names it. -/
def Statement (i : Instr) : Prop := ∀ w, i.wellFormed = true → encode i = some w → decodeRaw w = .ok i

theorem hint_word (n : BitVec 10) : decodeRaw ((15#4 ++ n : BitVec 14) ++ 0#82) = .ok (.hint n) := by
  have r : ((15#4 ++ n : BitVec 14) ++ 0#82 : BitVec (14 + 82)).extractLsb' 92 4 = 15#4 := by
    rw [field_high _ _ _ _ (by omega), field_high _ _ _ _ (by omega)]
    rfl
  have c : ((15#4 ++ n : BitVec 14) ++ 0#82 : BitVec (14 + 82)).extractLsb' 88 4 = n.extractLsb' 6 4 := by
    rw [field_high _ _ _ _ (by omega), field_low _ _ _ _ (by omega)]
  have s : ((15#4 ++ n : BitVec 14) ++ 0#82 : BitVec (14 + 82)).extractLsb' 82 6 = n.extractLsb' 0 6 := by
    rw [field_high _ _ _ _ (by omega), field_low _ _ _ _ (by omega)]
  have e : (n.extractLsb' 6 4 ++ n.extractLsb' 0 6 : BitVec 10) = n := by
    apply BitVec.eq_of_getLsbD_eq
    intro i hi
    simp only [BitVec.getLsbD_append, BitVec.getLsbD_extractLsb', Nat.zero_add]
    split
    · simp [*]
    · rw [show 6 + (i - 6) = i by omega]
      simp
      omega
  simp only [decodeRaw, r, c, unpackHdr, s, e]
  rfl

theorem unassigned_word (w : BitVec 96) (wf : unassigned (w.extractLsb' 88 8) = true) : decodeRaw w = .ok (.unassignedOpcode w) := by
  have r : (w.extractLsb' 92 4).toNat = (w.extractLsb' 88 8).toNat / 16 := by
    simp [BitVec.extractLsb'_toNat, Nat.shiftRight_eq_div_pow]
    omega
  have c : (w.extractLsb' 88 4).toNat = (w.extractLsb' 88 8).toNat % 16 := by
    simp [BitVec.extractLsb'_toNat, Nat.shiftRight_eq_div_pow]
  simp only [decodeRaw, r, c]
  revert wf
  simp only [unassigned]
  generalize (w.extractLsb' 88 8).toNat = n
  intro wf
  simp only [Bool.or_eq_true, Bool.and_eq_true, decide_eq_true_eq] at wf
  rcases wf with (((((⟨a, b⟩ | ⟨a, b⟩) | ⟨a, b⟩) | ⟨a, b⟩) | ⟨a, b⟩) | ⟨a, b⟩) | ⟨a, b⟩ <;> interval_cases n <;> rfl

theorem smov (h : Hdr) (b : UBody) : Statement (.smov h b) := by
  intro w _ e
  cases e
  simp [decodeRaw, row_word, column_word, unpackHdr_word, decodeRow0, unpackU_word]

theorem smovi (h : Hdr) (b : UBody) : Statement (.smovi h b) := by
  intro w _ e
  cases e
  simp [decodeRaw, row_word, column_word, unpackHdr_word, decodeRow0, unpackU_word]

theorem sadd (h : Hdr) (b : UBody) : Statement (.sadd h b) := by
  intro w _ e
  cases e
  simp [decodeRaw, row_word, column_word, unpackHdr_word, decodeRow0, unpackU_word]

theorem ssub (h : Hdr) (b : UBody) : Statement (.ssub h b) := by
  intro w _ e
  cases e
  simp [decodeRaw, row_word, column_word, unpackHdr_word, decodeRow0, unpackU_word]

theorem smul (h : Hdr) (b : UBody) : Statement (.smul h b) := by
  intro w _ e
  cases e
  simp [decodeRaw, row_word, column_word, unpackHdr_word, decodeRow0, unpackU_word]

theorem smulh (h : Hdr) (b : UBody) : Statement (.smulh h b) := by
  intro w _ e
  cases e
  simp [decodeRaw, row_word, column_word, unpackHdr_word, decodeRow0, unpackU_word]

theorem smad (h : Hdr) (b : UBody) : Statement (.smad h b) := by
  intro w _ e
  cases e
  simp [decodeRaw, row_word, column_word, unpackHdr_word, decodeRow0, unpackU_word]

theorem sand (h : Hdr) (b : UBody) : Statement (.sand h b) := by
  intro w _ e
  cases e
  simp [decodeRaw, row_word, column_word, unpackHdr_word, decodeRow0, unpackU_word]

theorem sor (h : Hdr) (b : UBody) : Statement (.sor h b) := by
  intro w _ e
  cases e
  simp [decodeRaw, row_word, column_word, unpackHdr_word, decodeRow0, unpackU_word]

theorem sxor (h : Hdr) (b : UBody) : Statement (.sxor h b) := by
  intro w _ e
  cases e
  simp [decodeRaw, row_word, column_word, unpackHdr_word, decodeRow0, unpackU_word]

theorem sshl (h : Hdr) (b : UBody) : Statement (.sshl h b) := by
  intro w _ e
  cases e
  simp [decodeRaw, row_word, column_word, unpackHdr_word, decodeRow0, unpackU_word]

theorem sshr (h : Hdr) (b : UBody) : Statement (.sshr h b) := by
  intro w _ e
  cases e
  simp [decodeRaw, row_word, column_word, unpackHdr_word, decodeRow0, unpackU_word]

theorem ssra (h : Hdr) (b : UBody) : Statement (.ssra h b) := by
  intro w _ e
  cases e
  simp [decodeRaw, row_word, column_word, unpackHdr_word, decodeRow0, unpackU_word]

theorem smin (h : Hdr) (b : UBody) : Statement (.smin h b) := by
  intro w _ e
  cases e
  simp [decodeRaw, row_word, column_word, unpackHdr_word, decodeRow0, unpackU_word]

theorem smax (h : Hdr) (b : UBody) : Statement (.smax h b) := by
  intro w _ e
  cases e
  simp [decodeRaw, row_word, column_word, unpackHdr_word, decodeRow0, unpackU_word]

theorem scmp (h : Hdr) (b : UBody) : Statement (.scmp h b) := by
  intro w _ e
  cases e
  simp [decodeRaw, row_word, column_word, unpackHdr_word, decodeRow0, unpackU_word]

theorem ssel (h : Hdr) (b : UBody) : Statement (.ssel h b) := by
  intro w _ e
  cases e
  simp [decodeRaw, row_word, column_word, unpackHdr_word, decodeRow1, unpackU_word]

theorem spopc (h : Hdr) (b : UBody) : Statement (.spopc h b) := by
  intro w _ e
  cases e
  simp [decodeRaw, row_word, column_word, unpackHdr_word, decodeRow1, unpackU_word]

theorem sclz (h : Hdr) (b : UBody) : Statement (.sclz h b) := by
  intro w _ e
  cases e
  simp [decodeRaw, row_word, column_word, unpackHdr_word, decodeRow1, unpackU_word]

theorem sbfx (h : Hdr) (b : UBody) : Statement (.sbfx h b) := by
  intro w _ e
  cases e
  simp [decodeRaw, row_word, column_word, unpackHdr_word, decodeRow1, unpackU_word]

theorem sbfi (h : Hdr) (b : UBody) : Statement (.sbfi h b) := by
  intro w _ e
  cases e
  simp [decodeRaw, row_word, column_word, unpackHdr_word, decodeRow1, unpackU_word]

theorem slea (h : Hdr) (b : UBody) : Statement (.slea h b) := by
  intro w _ e
  cases e
  simp [decodeRaw, row_word, column_word, unpackHdr_word, decodeRow1, unpackU_word]

theorem srd (h : Hdr) (b : UBody) : Statement (.srd h b) := by
  intro w wf e
  cases e
  simp [Instr.wellFormed, Hdr.subIs] at wf
  simp [decodeRaw, row_word, column_word, unpackHdr_word, decodeRow1, unpackU_word, wf, -BitVec.extractLsb'_toNat]

theorem srdV (h : Hdr) (b : UBody) : Statement (.srdV h b) := by
  intro w wf e
  cases e
  simp [Instr.wellFormed, Hdr.subIs] at wf
  simp [decodeRaw, row_word, column_word, unpackHdr_word, decodeRow1, unpackU_word, wf, -BitVec.extractLsb'_toNat]

theorem swr (h : Hdr) (b : UBody) : Statement (.swr h b) := by
  intro w wf e
  cases e
  simp [Instr.wellFormed, Hdr.subIs] at wf
  simp [decodeRaw, row_word, column_word, unpackHdr_word, decodeRow1, unpackU_word, wf, -BitVec.extractLsb'_toNat]

theorem swrV (h : Hdr) (b : UBody) : Statement (.swrV h b) := by
  intro w wf e
  cases e
  simp [Instr.wellFormed, Hdr.subIs] at wf
  simp [decodeRaw, row_word, column_word, unpackHdr_word, decodeRow1, unpackU_word, wf, -BitVec.extractLsb'_toNat]

theorem sld (h : Hdr) (b : UBody) : Statement (.sld h b) := by
  intro w _ e
  cases e
  simp [decodeRaw, row_word, column_word, unpackHdr_word, decodeRow1, unpackU_word]

theorem sst (h : Hdr) (b : UBody) : Statement (.sst h b) := by
  intro w _ e
  cases e
  simp [decodeRaw, row_word, column_word, unpackHdr_word, decodeRow1, unpackU_word]

theorem sballot (h : Hdr) (b : UBody) : Statement (.sballot h b) := by
  intro w _ e
  cases e
  simp [decodeRaw, row_word, column_word, unpackHdr_word, decodeRow1, unpackU_word]

theorem anchor (h : Hdr) (b : AnchorBody) : Statement (.anchor h b) := by
  intro w _ e
  cases e
  simp [decodeRaw, row_word, column_word, unpackHdr_word, decodeRow1, unpackAnchor_word]

theorem br (h : Hdr) (b : CBody) : Statement (.br h b) := by
  intro w _ e
  cases e
  simp [decodeRaw, row_word, column_word, unpackHdr_word, decodeRow2, unpackC_word]

theorem brx (h : Hdr) (b : CBody) : Statement (.brx h b) := by
  intro w _ e
  cases e
  simp [decodeRaw, row_word, column_word, unpackHdr_word, decodeRow2, unpackC_word]

theorem pad (h : Hdr) (b : CBody) : Statement (.pad h b) := by
  intro w _ e
  cases e
  simp [decodeRaw, row_word, column_word, unpackHdr_word, decodeRow2, unpackC_word]

theorem call (h : Hdr) (b : CBody) : Statement (.call h b) := by
  intro w _ e
  cases e
  simp [decodeRaw, row_word, column_word, unpackHdr_word, decodeRow2, unpackC_word]

theorem ret (h : Hdr) (b : CBody) : Statement (.ret h b) := by
  intro w _ e
  cases e
  simp [decodeRaw, row_word, column_word, unpackHdr_word, decodeRow2, unpackC_word]

theorem join (h : Hdr) (b : CBody) : Statement (.join h b) := by
  intro w _ e
  cases e
  simp [decodeRaw, row_word, column_word, unpackHdr_word, decodeRow2, unpackC_word]

theorem loop (h : Hdr) (b : CBody) : Statement (.loop h b) := by
  intro w _ e
  cases e
  simp [decodeRaw, row_word, column_word, unpackHdr_word, decodeRow2, unpackC_word]

theorem exit (h : Hdr) (b : CBody) : Statement (.exit h b) := by
  intro w _ e
  cases e
  simp [decodeRaw, row_word, column_word, unpackHdr_word, decodeRow2, unpackC_word]

theorem yield (h : Hdr) (b : CBody) : Statement (.yield h b) := by
  intro w _ e
  cases e
  simp [decodeRaw, row_word, column_word, unpackHdr_word, decodeRow2, unpackC_word]

theorem nop (h : Hdr) (b : CBody) : Statement (.nop h b) := by
  intro w _ e
  cases e
  simp [decodeRaw, row_word, column_word, unpackHdr_word, decodeRow2, unpackC_word]

theorem bkpt (h : Hdr) (b : CBody) : Statement (.bkpt h b) := by
  intro w _ e
  cases e
  simp [decodeRaw, row_word, column_word, unpackHdr_word, decodeRow2, unpackC_word]

theorem trap (h : Hdr) (b : CBody) : Statement (.trap h b) := by
  intro w _ e
  cases e
  simp [decodeRaw, row_word, column_word, unpackHdr_word, decodeRow2, unpackC_word]

theorem vadd (h : Hdr) (b : VBody) : Statement (.vadd h b) := by
  intro w _ e
  cases e
  simp [decodeRaw, row_word, column_word, unpackHdr_word, decodeRow3, unpackV_word]

theorem vsub (h : Hdr) (b : VBody) : Statement (.vsub h b) := by
  intro w _ e
  cases e
  simp [decodeRaw, row_word, column_word, unpackHdr_word, decodeRow3, unpackV_word]

theorem vmul (h : Hdr) (b : VBody) : Statement (.vmul h b) := by
  intro w _ e
  cases e
  simp [decodeRaw, row_word, column_word, unpackHdr_word, decodeRow3, unpackV_word]

theorem vmulh (h : Hdr) (b : VBody) : Statement (.vmulh h b) := by
  intro w _ e
  cases e
  simp [decodeRaw, row_word, column_word, unpackHdr_word, decodeRow3, unpackV_word]

theorem vmin (h : Hdr) (b : VBody) : Statement (.vmin h b) := by
  intro w _ e
  cases e
  simp [decodeRaw, row_word, column_word, unpackHdr_word, decodeRow3, unpackV_word]

theorem vmax (h : Hdr) (b : VBody) : Statement (.vmax h b) := by
  intro w _ e
  cases e
  simp [decodeRaw, row_word, column_word, unpackHdr_word, decodeRow3, unpackV_word]

theorem vabs (h : Hdr) (b : VBody) : Statement (.vabs h b) := by
  intro w _ e
  cases e
  simp [decodeRaw, row_word, column_word, unpackHdr_word, decodeRow3, unpackV_word]

theorem vand (h : Hdr) (b : VBody) : Statement (.vand h b) := by
  intro w _ e
  cases e
  simp [decodeRaw, row_word, column_word, unpackHdr_word, decodeRow3, unpackV_word]

theorem vor (h : Hdr) (b : VBody) : Statement (.vor h b) := by
  intro w _ e
  cases e
  simp [decodeRaw, row_word, column_word, unpackHdr_word, decodeRow3, unpackV_word]

theorem vxor (h : Hdr) (b : VBody) : Statement (.vxor h b) := by
  intro w _ e
  cases e
  simp [decodeRaw, row_word, column_word, unpackHdr_word, decodeRow3, unpackV_word]

theorem vnot (h : Hdr) (b : VBody) : Statement (.vnot h b) := by
  intro w _ e
  cases e
  simp [decodeRaw, row_word, column_word, unpackHdr_word, decodeRow3, unpackV_word]

theorem vshl (h : Hdr) (b : VBody) : Statement (.vshl h b) := by
  intro w _ e
  cases e
  simp [decodeRaw, row_word, column_word, unpackHdr_word, decodeRow3, unpackV_word]

theorem vshr (h : Hdr) (b : VBody) : Statement (.vshr h b) := by
  intro w _ e
  cases e
  simp [decodeRaw, row_word, column_word, unpackHdr_word, decodeRow3, unpackV_word]

theorem vsra (h : Hdr) (b : VBody) : Statement (.vsra h b) := by
  intro w _ e
  cases e
  simp [decodeRaw, row_word, column_word, unpackHdr_word, decodeRow3, unpackV_word]

theorem vpopc (h : Hdr) (b : VBody) : Statement (.vpopc h b) := by
  intro w _ e
  cases e
  simp [decodeRaw, row_word, column_word, unpackHdr_word, decodeRow3, unpackV_word]

theorem vclz (h : Hdr) (b : VBody) : Statement (.vclz h b) := by
  intro w _ e
  cases e
  simp [decodeRaw, row_word, column_word, unpackHdr_word, decodeRow3, unpackV_word]

theorem vbfx (h : Hdr) (b : VBody) : Statement (.vbfx h b) := by
  intro w _ e
  cases e
  simp [decodeRaw, row_word, column_word, unpackHdr_word, decodeRow4, unpackV_word]

theorem vcmp (h : Hdr) (b : VBody) : Statement (.vcmp h b) := by
  intro w _ e
  cases e
  simp [decodeRaw, row_word, column_word, unpackHdr_word, decodeRow4, unpackV_word]

theorem vmov (h : Hdr) (b : VBody) : Statement (.vmov h b) := by
  intro w _ e
  cases e
  simp [decodeRaw, row_word, column_word, unpackHdr_word, decodeRow4, unpackV_word]

theorem vmovi (h : Hdr) (b : VBody) : Statement (.vmovi h b) := by
  intro w _ e
  cases e
  simp [decodeRaw, row_word, column_word, unpackHdr_word, decodeRow4, unpackV_word]

theorem vfadd (h : Hdr) (b : VBody) : Statement (.vfadd h b) := by
  intro w _ e
  cases e
  simp [decodeRaw, row_word, column_word, unpackHdr_word, decodeRow4, unpackV_word]

theorem vfmul (h : Hdr) (b : VBody) : Statement (.vfmul h b) := by
  intro w _ e
  cases e
  simp [decodeRaw, row_word, column_word, unpackHdr_word, decodeRow4, unpackV_word]

theorem vfmin (h : Hdr) (b : VBody) : Statement (.vfmin h b) := by
  intro w _ e
  cases e
  simp [decodeRaw, row_word, column_word, unpackHdr_word, decodeRow4, unpackV_word]

theorem vfmax (h : Hdr) (b : VBody) : Statement (.vfmax h b) := by
  intro w _ e
  cases e
  simp [decodeRaw, row_word, column_word, unpackHdr_word, decodeRow4, unpackV_word]

theorem vfrcp (h : Hdr) (b : VBody) : Statement (.vfrcp h b) := by
  intro w _ e
  cases e
  simp [decodeRaw, row_word, column_word, unpackHdr_word, decodeRow4, unpackV_word]

theorem vfrsq (h : Hdr) (b : VBody) : Statement (.vfrsq h b) := by
  intro w _ e
  cases e
  simp [decodeRaw, row_word, column_word, unpackHdr_word, decodeRow4, unpackV_word]

theorem vfsqrt (h : Hdr) (b : VBody) : Statement (.vfsqrt h b) := by
  intro w _ e
  cases e
  simp [decodeRaw, row_word, column_word, unpackHdr_word, decodeRow4, unpackV_word]

theorem vfexp2 (h : Hdr) (b : VBody) : Statement (.vfexp2 h b) := by
  intro w _ e
  cases e
  simp [decodeRaw, row_word, column_word, unpackHdr_word, decodeRow4, unpackV_word]

theorem vflog2 (h : Hdr) (b : VBody) : Statement (.vflog2 h b) := by
  intro w _ e
  cases e
  simp [decodeRaw, row_word, column_word, unpackHdr_word, decodeRow4, unpackV_word]

theorem vfsin (h : Hdr) (b : VBody) : Statement (.vfsin h b) := by
  intro w _ e
  cases e
  simp [decodeRaw, row_word, column_word, unpackHdr_word, decodeRow4, unpackV_word]

theorem vfcos (h : Hdr) (b : VBody) : Statement (.vfcos h b) := by
  intro w _ e
  cases e
  simp [decodeRaw, row_word, column_word, unpackHdr_word, decodeRow4, unpackV_word]

theorem vfcmp (h : Hdr) (b : VBody) : Statement (.vfcmp h b) := by
  intro w _ e
  cases e
  simp [decodeRaw, row_word, column_word, unpackHdr_word, decodeRow4, unpackV_word]

theorem vfclass (h : Hdr) (b : VBody) : Statement (.vfclass h b) := by
  intro w _ e
  cases e
  simp [decodeRaw, row_word, column_word, unpackHdr_word, decodeRow5, unpackV_word]

theorem vfrnd (h : Hdr) (b : VBody) : Statement (.vfrnd h b) := by
  intro w _ e
  cases e
  simp [decodeRaw, row_word, column_word, unpackHdr_word, decodeRow5, unpackV_word]

theorem vffrc (h : Hdr) (b : VBody) : Statement (.vffrc h b) := by
  intro w _ e
  cases e
  simp [decodeRaw, row_word, column_word, unpackHdr_word, decodeRow5, unpackV_word]

theorem vpadd (h : Hdr) (b : VBody) : Statement (.vpadd h b) := by
  intro w _ e
  cases e
  simp [decodeRaw, row_word, column_word, unpackHdr_word, decodeRow5, unpackV_word]

theorem vpmul (h : Hdr) (b : VBody) : Statement (.vpmul h b) := by
  intro w _ e
  cases e
  simp [decodeRaw, row_word, column_word, unpackHdr_word, decodeRow5, unpackV_word]

theorem vpmin (h : Hdr) (b : VBody) : Statement (.vpmin h b) := by
  intro w _ e
  cases e
  simp [decodeRaw, row_word, column_word, unpackHdr_word, decodeRow5, unpackV_word]

theorem vpmax (h : Hdr) (b : VBody) : Statement (.vpmax h b) := by
  intro w _ e
  cases e
  simp [decodeRaw, row_word, column_word, unpackHdr_word, decodeRow5, unpackV_word]

theorem vcvt (h : Hdr) (b : VBody) : Statement (.vcvt h b) := by
  intro w _ e
  cases e
  simp [decodeRaw, row_word, column_word, unpackHdr_word, decodeRow5, unpackV_word]

theorem vpack (h : Hdr) (b : VBody) : Statement (.vpack h b) := by
  intro w _ e
  cases e
  simp [decodeRaw, row_word, column_word, unpackHdr_word, decodeRow5, unpackV_word]

theorem vunpk (h : Hdr) (b : VBody) : Statement (.vunpk h b) := by
  intro w _ e
  cases e
  simp [decodeRaw, row_word, column_word, unpackHdr_word, decodeRow5, unpackV_word]

theorem vtag (h : Hdr) (b : VBody) : Statement (.vtag h b) := by
  intro w _ e
  cases e
  simp [decodeRaw, row_word, column_word, unpackHdr_word, decodeRow5, unpackV_word]

theorem vshfl (h : Hdr) (b : VBody) : Statement (.vshfl h b) := by
  intro w _ e
  cases e
  simp [decodeRaw, row_word, column_word, unpackHdr_word, decodeRow5, unpackV_word]

theorem vbcast (h : Hdr) (b : VBody) : Statement (.vbcast h b) := by
  intro w _ e
  cases e
  simp [decodeRaw, row_word, column_word, unpackHdr_word, decodeRow5, unpackV_word]

theorem vred (h : Hdr) (b : VBody) : Statement (.vred h b) := by
  intro w _ e
  cases e
  simp [decodeRaw, row_word, column_word, unpackHdr_word, decodeRow5, unpackV_word]

theorem vscan (h : Hdr) (b : VBody) : Statement (.vscan h b) := by
  intro w _ e
  cases e
  simp [decodeRaw, row_word, column_word, unpackHdr_word, decodeRow5, unpackV_word]

theorem vballot (h : Hdr) (b : VBody) : Statement (.vballot h b) := by
  intro w _ e
  cases e
  simp [decodeRaw, row_word, column_word, unpackHdr_word, decodeRow5, unpackV_word]

theorem vmad (h : Hdr) (b : V3Body) : Statement (.vmad h b) := by
  intro w _ e
  cases e
  simp [decodeRaw, row_word, column_word, unpackHdr_word, decodeRow6, unpackV3_word]

theorem vbfi (h : Hdr) (b : V3Body) : Statement (.vbfi h b) := by
  intro w _ e
  cases e
  simp [decodeRaw, row_word, column_word, unpackHdr_word, decodeRow6, unpackV3_word]

theorem vsel (h : Hdr) (b : V3Body) : Statement (.vsel h b) := by
  intro w _ e
  cases e
  simp [decodeRaw, row_word, column_word, unpackHdr_word, decodeRow6, unpackV3_word]

theorem vfma (h : Hdr) (b : V3Body) : Statement (.vfma h b) := by
  intro w _ e
  cases e
  simp [decodeRaw, row_word, column_word, unpackHdr_word, decodeRow6, unpackV3_word]

theorem vpfma (h : Hdr) (b : V3Body) : Statement (.vpfma h b) := by
  intro w _ e
  cases e
  simp [decodeRaw, row_word, column_word, unpackHdr_word, decodeRow6, unpackV3_word]

theorem vlerp (h : Hdr) (b : V3Body) : Statement (.vlerp h b) := by
  intro w _ e
  cases e
  simp [decodeRaw, row_word, column_word, unpackHdr_word, decodeRow6, unpackV3_word]

theorem vdot4 (h : Hdr) (b : V3Body) : Statement (.vdot4 h b) := by
  intro w _ e
  cases e
  simp [decodeRaw, row_word, column_word, unpackHdr_word, decodeRow6, unpackV3_word]

theorem vdot2 (h : Hdr) (b : V3Body) : Statement (.vdot2 h b) := by
  intro w _ e
  cases e
  simp [decodeRaw, row_word, column_word, unpackHdr_word, decodeRow6, unpackV3_word]

theorem ld (h : Hdr) (b : MBody) : Statement (.ld h b) := by
  intro w _ e
  cases e
  simp [decodeRaw, row_word, column_word, unpackHdr_word, decodeRow7, unpackM_word]

theorem st (h : Hdr) (b : MBody) : Statement (.st h b) := by
  intro w _ e
  cases e
  simp [decodeRaw, row_word, column_word, unpackHdr_word, decodeRow7, unpackM_word]

theorem ldx (h : Hdr) (b : MBody) : Statement (.ldx h b) := by
  intro w _ e
  cases e
  simp [decodeRaw, row_word, column_word, unpackHdr_word, decodeRow7, unpackM_word]

theorem stx (h : Hdr) (b : MBody) : Statement (.stx h b) := by
  intro w _ e
  cases e
  simp [decodeRaw, row_word, column_word, unpackHdr_word, decodeRow7, unpackM_word]

theorem lda (h : Hdr) (b : MBody) : Statement (.lda h b) := by
  intro w _ e
  cases e
  simp [decodeRaw, row_word, column_word, unpackHdr_word, decodeRow7, unpackM_word]

theorem sta (h : Hdr) (b : MBody) : Statement (.sta h b) := by
  intro w _ e
  cases e
  simp [decodeRaw, row_word, column_word, unpackHdr_word, decodeRow7, unpackM_word]

theorem ldat (h : Hdr) (b : MBody) : Statement (.ldat h b) := by
  intro w _ e
  cases e
  simp [decodeRaw, row_word, column_word, unpackHdr_word, decodeRow7, unpackM_word]

theorem stat (h : Hdr) (b : MBody) : Statement (.stat h b) := by
  intro w _ e
  cases e
  simp [decodeRaw, row_word, column_word, unpackHdr_word, decodeRow7, unpackM_word]

theorem atom (h : Hdr) (b : MBody) : Statement (.atom h b) := by
  intro w wf e
  cases e
  simp [Instr.wellFormed, Hdr.subIs] at wf
  simp [decodeRaw, row_word, column_word, unpackHdr_word, decodeRow7, unpackM_word, wf, -BitVec.extractLsb'_toNat]

theorem atomNr (h : Hdr) (b : MBody) : Statement (.atomNr h b) := by
  intro w wf e
  cases e
  simp [Instr.wellFormed, Hdr.subIs] at wf
  simp [decodeRaw, row_word, column_word, unpackHdr_word, decodeRow7, unpackM_word, wf, -BitVec.extractLsb'_toNat]

theorem atoma (h : Hdr) (b : MBody) : Statement (.atoma h b) := by
  intro w _ e
  cases e
  simp [decodeRaw, row_word, column_word, unpackHdr_word, decodeRow7, unpackM_word]

theorem ldlod (h : Hdr) (b : MBody) : Statement (.ldlod h b) := by
  intro w _ e
  cases e
  simp [decodeRaw, row_word, column_word, unpackHdr_word, decodeRow7, unpackM_word]

theorem txg (h : Hdr) (b : MBody) : Statement (.txg h b) := by
  intro w _ e
  cases e
  simp [decodeRaw, row_word, column_word, unpackHdr_word, decodeRow7, unpackM_word]

theorem resq (h : Hdr) (b : MBody) : Statement (.resq h b) := by
  intro w wf e
  cases e
  simp [Instr.wellFormed, Hdr.subIs] at wf
  simp [decodeRaw, row_word, column_word, unpackHdr_word, decodeRow7, unpackM_word, wf, -BitVec.extractLsb'_toNat]

theorem resqFb (h : Hdr) (b : MBody) : Statement (.resqFb h b) := by
  intro w wf e
  cases e
  simp [Instr.wellFormed, Hdr.subIs] at wf
  simp [decodeRaw, row_word, column_word, unpackHdr_word, decodeRow7, unpackM_word, wf, -BitVec.extractLsb'_toNat]

theorem prefL1 (h : Hdr) (b : MBody) : Statement (.prefL1 h b) := by
  intro w wf e
  cases e
  simp [Instr.wellFormed, Hdr.subIs] at wf
  simp [decodeRaw, row_word, column_word, unpackHdr_word, decodeRow7, unpackM_word, wf, -BitVec.extractLsb'_toNat]

theorem prefL2 (h : Hdr) (b : MBody) : Statement (.prefL2 h b) := by
  intro w wf e
  cases e
  simp [Instr.wellFormed, Hdr.subIs] at wf
  simp [decodeRaw, row_word, column_word, unpackHdr_word, decodeRow7, unpackM_word, wf, -BitVec.extractLsb'_toNat]

theorem cpy (h : Hdr) (b : ABody) : Statement (.cpy h b) := by
  intro w _ e
  cases e
  simp [decodeRaw, row_word, column_word, unpackHdr_word, decodeRow9, unpackA_word]

theorem cpyz (h : Hdr) (b : ABody) : Statement (.cpyz h b) := by
  intro w _ e
  cases e
  simp [decodeRaw, row_word, column_word, unpackHdr_word, decodeRow9, unpackA_word]

theorem cpyr (h : Hdr) (b : ABody) : Statement (.cpyr h b) := by
  intro w _ e
  cases e
  simp [decodeRaw, row_word, column_word, unpackHdr_word, decodeRow9, unpackA_word]

theorem cpyl (h : Hdr) (b : ABody) : Statement (.cpyl h b) := by
  intro w _ e
  cases e
  simp [decodeRaw, row_word, column_word, unpackHdr_word, decodeRow9, unpackA_word]

theorem cpytLd (h : Hdr) (b : ABody) : Statement (.cpytLd h b) := by
  intro w wf e
  cases e
  simp [Instr.wellFormed, Hdr.subIs] at wf
  simp [decodeRaw, row_word, column_word, unpackHdr_word, decodeRow9, unpackA_word, wf, -BitVec.extractLsb'_toNat]

theorem cpytSt (h : Hdr) (b : ABody) : Statement (.cpytSt h b) := by
  intro w wf e
  cases e
  simp [Instr.wellFormed, Hdr.subIs] at wf
  simp [decodeRaw, row_word, column_word, unpackHdr_word, decodeRow9, unpackA_word, wf, -BitVec.extractLsb'_toNat]

theorem twany (h : Hdr) (b : ABody) : Statement (.twany h b) := by
  intro w _ e
  cases e
  simp [decodeRaw, row_word, column_word, unpackHdr_word, decodeRow9, unpackA_word]

theorem twall (h : Hdr) (b : ABody) : Statement (.twall h b) := by
  intro w _ e
  cases e
  simp [decodeRaw, row_word, column_word, unpackHdr_word, decodeRow9, unpackA_word]

theorem tfirst (h : Hdr) (b : ABody) : Statement (.tfirst h b) := by
  intro w _ e
  cases e
  simp [decodeRaw, row_word, column_word, unpackHdr_word, decodeRow9, unpackA_word]

theorem tcnt (h : Hdr) (b : ABody) : Statement (.tcnt h b) := by
  intro w _ e
  cases e
  simp [decodeRaw, row_word, column_word, unpackHdr_word, decodeRow9, unpackA_word]

theorem abinit (h : Hdr) (b : ABody) : Statement (.abinit h b) := by
  intro w _ e
  cases e
  simp [decodeRaw, row_word, column_word, unpackHdr_word, decodeRow9, unpackA_word]

theorem abexp (h : Hdr) (b : ABody) : Statement (.abexp h b) := by
  intro w _ e
  cases e
  simp [decodeRaw, row_word, column_word, unpackHdr_word, decodeRow9, unpackA_word]

theorem abarr (h : Hdr) (b : ABody) : Statement (.abarr h b) := by
  intro w _ e
  cases e
  simp [decodeRaw, row_word, column_word, unpackHdr_word, decodeRow9, unpackA_word]

theorem abwait (h : Hdr) (b : ABody) : Statement (.abwait h b) := by
  intro w _ e
  cases e
  simp [decodeRaw, row_word, column_word, unpackHdr_word, decodeRow9, unpackA_word]

theorem abtest (h : Hdr) (b : ABody) : Statement (.abtest h b) := by
  intro w _ e
  cases e
  simp [decodeRaw, row_word, column_word, unpackHdr_word, decodeRow9, unpackA_word]

theorem flacqP (h : Hdr) (b : ABody) : Statement (.flacqP h b) := by
  intro w wf e
  cases e
  simp [Instr.wellFormed, Hdr.subIs] at wf
  simp [decodeRaw, row_word, column_word, unpackHdr_word, decodeRow9, unpackA_word, wf, -BitVec.extractLsb'_toNat]

theorem flacqC (h : Hdr) (b : ABody) : Statement (.flacqC h b) := by
  intro w wf e
  cases e
  simp [Instr.wellFormed, Hdr.subIs] at wf
  simp [decodeRaw, row_word, column_word, unpackHdr_word, decodeRow9, unpackA_word, wf, -BitVec.extractLsb'_toNat]

theorem flrelP (h : Hdr) (b : ABody) : Statement (.flrelP h b) := by
  intro w wf e
  cases e
  simp [Instr.wellFormed, Hdr.subIs] at wf
  simp [decodeRaw, row_word, column_word, unpackHdr_word, decodeRow9, unpackA_word, wf, -BitVec.extractLsb'_toNat]

theorem flrelC (h : Hdr) (b : ABody) : Statement (.flrelC h b) := by
  intro w wf e
  cases e
  simp [Instr.wellFormed, Hdr.subIs] at wf
  simp [decodeRaw, row_word, column_word, unpackHdr_word, decodeRow9, unpackA_word, wf, -BitVec.extractLsb'_toNat]

theorem ban (h : Hdr) (b : ABody) : Statement (.ban h b) := by
  intro w _ e
  cases e
  simp [decodeRaw, row_word, column_word, unpackHdr_word, decodeRowA, unpackA_word]

theorem bana (h : Hdr) (b : ABody) : Statement (.bana h b) := by
  intro w _ e
  cases e
  simp [decodeRaw, row_word, column_word, unpackHdr_word, decodeRowA, unpackA_word]

theorem banw (h : Hdr) (b : ABody) : Statement (.banw h b) := by
  intro w _ e
  cases e
  simp [decodeRaw, row_word, column_word, unpackHdr_word, decodeRowA, unpackA_word]

theorem ldwMem (h : Hdr) (b : XBody) : Statement (.ldwMem h b) := by
  intro w wf e
  cases e
  simp [Instr.wellFormed, Hdr.subIs] at wf
  simp [decodeRaw, row_word, column_word, unpackHdr_word, decodeRowB, unpackX_word, wf, -BitVec.extractLsb'_toNat]

theorem ldwSmp (h : Hdr) (b : XBody) : Statement (.ldwSmp h b) := by
  intro w wf e
  cases e
  simp [Instr.wellFormed, Hdr.subIs] at wf
  simp [decodeRaw, row_word, column_word, unpackHdr_word, decodeRowB, unpackX_word, wf, -BitVec.extractLsb'_toNat]

theorem ldws (h : Hdr) (b : XBody) : Statement (.ldws h b) := by
  intro w _ e
  cases e
  simp [decodeRaw, row_word, column_word, unpackHdr_word, decodeRowB, unpackX_word]

theorem trel (h : Hdr) (b : XBody) : Statement (.trel h b) := by
  intro w _ e
  cases e
  simp [decodeRaw, row_word, column_word, unpackHdr_word, decodeRowB, unpackX_word]

theorem mma (h : Hdr) (b : XBody) : Statement (.mma h b) := by
  intro w _ e
  cases e
  simp [decodeRaw, row_word, column_word, unpackHdr_word, decodeRowB, unpackX_word]

theorem mmag (h : Hdr) (b : XBody) : Statement (.mmag h b) := by
  intro w _ e
  cases e
  simp [decodeRaw, row_word, column_word, unpackHdr_word, decodeRowB, unpackX_word]

theorem vxm (h : Hdr) (b : XBody) : Statement (.vxm h b) := by
  intro w _ e
  cases e
  simp [decodeRaw, row_word, column_word, unpackHdr_word, decodeRowB, unpackX_word]

theorem accz (h : Hdr) (b : XBody) : Statement (.accz h b) := by
  intro w _ e
  cases e
  simp [decodeRaw, row_word, column_word, unpackHdr_word, decodeRowB, unpackX_word]

theorem accld (h : Hdr) (b : XBody) : Statement (.accld h b) := by
  intro w _ e
  cases e
  simp [decodeRaw, row_word, column_word, unpackHdr_word, decodeRowB, unpackX_word]

theorem accstRaw (h : Hdr) (b : XBody) : Statement (.accstRaw h b) := by
  intro w wf e
  cases e
  simp [Instr.wellFormed, Hdr.subIs] at wf
  simp [decodeRaw, row_word, column_word, unpackHdr_word, decodeRowB, unpackX_word, wf, -BitVec.extractLsb'_toNat]

theorem accstPost (h : Hdr) (b : XBody) : Statement (.accstPost h b) := by
  intro w wf e
  cases e
  simp [Instr.wellFormed, Hdr.subIs] at wf
  simp [decodeRaw, row_word, column_word, unpackHdr_word, decodeRowB, unpackX_word, wf, -BitVec.extractLsb'_toNat]

theorem accrdEl (h : Hdr) (b : XBody) : Statement (.accrdEl h b) := by
  intro w wf e
  cases e
  simp [Instr.wellFormed, Hdr.subIs] at wf
  simp [decodeRaw, row_word, column_word, unpackHdr_word, decodeRowB, unpackX_word, wf, -BitVec.extractLsb'_toNat]

theorem accrdSt (h : Hdr) (b : XBody) : Statement (.accrdSt h b) := by
  intro w wf e
  cases e
  simp [Instr.wellFormed, Hdr.subIs] at wf
  simp [decodeRaw, row_word, column_word, unpackHdr_word, decodeRowB, unpackX_word, wf, -BitVec.extractLsb'_toNat]

theorem preopLin (h : Hdr) (b : XBody) : Statement (.preopLin h b) := by
  intro w wf e
  cases e
  simp [Instr.wellFormed, Hdr.subIs] at wf
  simp [decodeRaw, row_word, column_word, unpackHdr_word, decodeRowB, unpackX_word, wf, -BitVec.extractLsb'_toNat]

theorem preopTr (h : Hdr) (b : XBody) : Statement (.preopTr h b) := by
  intro w wf e
  cases e
  simp [Instr.wellFormed, Hdr.subIs] at wf
  simp [decodeRaw, row_word, column_word, unpackHdr_word, decodeRowB, unpackX_word, wf, -BitVec.extractLsb'_toNat]

theorem preopWin (h : Hdr) (b : XBody) : Statement (.preopWin h b) := by
  intro w wf e
  cases e
  simp [Instr.wellFormed, Hdr.subIs] at wf
  simp [decodeRaw, row_word, column_word, unpackHdr_word, decodeRowB, unpackX_word, wf, -BitVec.extractLsb'_toNat]

theorem postop (h : Hdr) (b : XBody) : Statement (.postop h b) := by
  intro w _ e
  cases e
  simp [decodeRaw, row_word, column_word, unpackHdr_word, decodeRowB, unpackX_word]

theorem edge (h : Hdr) (b : XBody) : Statement (.edge h b) := by
  intro w _ e
  cases e
  simp [decodeRaw, row_word, column_word, unpackHdr_word, decodeRowB, unpackX_word]

theorem cvg (h : Hdr) (b : XBody) : Statement (.cvg h b) := by
  intro w _ e
  cases e
  simp [decodeRaw, row_word, column_word, unpackHdr_word, decodeRowB, unpackX_word]

theorem blend (h : Hdr) (b : XBody) : Statement (.blend h b) := by
  intro w _ e
  cases e
  simp [decodeRaw, row_word, column_word, unpackHdr_word, decodeRowB, unpackX_word]

theorem flt (h : Hdr) (b : XBody) : Statement (.flt h b) := by
  intro w _ e
  cases e
  simp [decodeRaw, row_word, column_word, unpackHdr_word, decodeRowB, unpackX_word]

theorem rslvLt (h : Hdr) (b : XBody) : Statement (.rslvLt h b) := by
  intro w wf e
  cases e
  simp [Instr.wellFormed, Hdr.subIs] at wf
  simp [decodeRaw, row_word, column_word, unpackHdr_word, decodeRowC, unpackX_word, wf, -BitVec.extractLsb'_toNat]

theorem rslvLe (h : Hdr) (b : XBody) : Statement (.rslvLe h b) := by
  intro w wf e
  cases e
  simp [Instr.wellFormed, Hdr.subIs] at wf
  simp [decodeRaw, row_word, column_word, unpackHdr_word, decodeRowC, unpackX_word, wf, -BitVec.extractLsb'_toNat]

theorem rslvRd (h : Hdr) (b : XBody) : Statement (.rslvRd h b) := by
  intro w wf e
  cases e
  simp [Instr.wellFormed, Hdr.subIs] at wf
  simp [decodeRaw, row_word, column_word, unpackHdr_word, decodeRowC, unpackX_word, wf, -BitVec.extractLsb'_toNat]

theorem rslvLd (h : Hdr) (b : XBody) : Statement (.rslvLd h b) := by
  intro w wf e
  cases e
  simp [Instr.wellFormed, Hdr.subIs] at wf
  simp [decodeRaw, row_word, column_word, unpackHdr_word, decodeRowC, unpackX_word, wf, -BitVec.extractLsb'_toNat]

theorem rslvClr (h : Hdr) (b : XBody) : Statement (.rslvClr h b) := by
  intro w wf e
  cases e
  simp [Instr.wellFormed, Hdr.subIs] at wf
  simp [decodeRaw, row_word, column_word, unpackHdr_word, decodeRowC, unpackX_word, wf, -BitVec.extractLsb'_toNat]

theorem binfl (h : Hdr) (b : XBody) : Statement (.binfl h b) := by
  intro w _ e
  cases e
  simp [decodeRaw, row_word, column_word, unpackHdr_word, decodeRowC, unpackX_word]

theorem spawn (h : Hdr) (b : TBody) : Statement (.spawn h b) := by
  intro w wf e
  cases e
  simp [Instr.wellFormed, Hdr.subIs] at wf
  simp [decodeRaw, row_word, column_word, unpackHdr_word, decodeRowD, unpackT_word, lane_word, flag, wf, -BitVec.extractLsb'_toNat]

theorem spawnLane (h : Hdr) (b : TBody) : Statement (.spawnLane h b) := by
  intro w wf e
  cases e
  simp [Instr.wellFormed, Hdr.subIs] at wf
  simp [decodeRaw, row_word, column_word, unpackHdr_word, decodeRowD, unpackT_word, lane_word, flag, wf, -BitVec.extractLsb'_toNat]

theorem spawnc (h : Hdr) (b : TBody) : Statement (.spawnc h b) := by
  intro w _ e
  cases e
  simp [decodeRaw, row_word, column_word, unpackHdr_word, decodeRowD, unpackT_word]

theorem await (h : Hdr) (b : TBody) : Statement (.await h b) := by
  intro w _ e
  cases e
  simp [decodeRaw, row_word, column_word, unpackHdr_word, decodeRowD, unpackT_word]

theorem fnew (h : Hdr) (b : TBody) : Statement (.fnew h b) := by
  intro w _ e
  cases e
  simp [decodeRaw, row_word, column_word, unpackHdr_word, decodeRowD, unpackT_word]

theorem fres (h : Hdr) (b : TBody) : Statement (.fres h b) := by
  intro w _ e
  cases e
  simp [decodeRaw, row_word, column_word, unpackHdr_word, decodeRowD, unpackT_word]

theorem fflt (h : Hdr) (b : TBody) : Statement (.fflt h b) := by
  intro w _ e
  cases e
  simp [decodeRaw, row_word, column_word, unpackHdr_word, decodeRowD, unpackT_word]

theorem fwait (h : Hdr) (b : TBody) : Statement (.fwait h b) := by
  intro w _ e
  cases e
  simp [decodeRaw, row_word, column_word, unpackHdr_word, decodeRowD, unpackT_word]

theorem fpoll (h : Hdr) (b : TBody) : Statement (.fpoll h b) := by
  intro w _ e
  cases e
  simp [decodeRaw, row_word, column_word, unpackHdr_word, decodeRowD, unpackT_word]

theorem reorder (h : Hdr) (b : TBody) : Statement (.reorder h b) := by
  intro w _ e
  cases e
  simp [decodeRaw, row_word, column_word, unpackHdr_word, decodeRowD, unpackT_word]

theorem time (h : Hdr) (b : TBody) : Statement (.time h b) := by
  intro w _ e
  cases e
  simp [decodeRaw, row_word, column_word, unpackHdr_word, decodeRowD, unpackT_word]

theorem ctxrd (h : Hdr) (b : TBody) : Statement (.ctxrd h b) := by
  intro w _ e
  cases e
  simp [decodeRaw, row_word, column_word, unpackHdr_word, decodeRowD, unpackT_word]

theorem ctxwr (h : Hdr) (b : TBody) : Statement (.ctxwr h b) := by
  intro w _ e
  cases e
  simp [decodeRaw, row_word, column_word, unpackHdr_word, decodeRowD, unpackT_word]

theorem evpop (h : Hdr) (b : TBody) : Statement (.evpop h b) := by
  intro w wf e
  cases e
  simp [Instr.wellFormed, Hdr.subIs] at wf
  simp [decodeRaw, row_word, column_word, unpackHdr_word, decodeRowD, unpackT_word, wf, -BitVec.extractLsb'_toNat]

theorem evpopWait (h : Hdr) (b : TBody) : Statement (.evpopWait h b) := by
  intro w wf e
  cases e
  simp [Instr.wellFormed, Hdr.subIs] at wf
  simp [decodeRaw, row_word, column_word, unpackHdr_word, decodeRowD, unpackT_word, wf, -BitVec.extractLsb'_toNat]

theorem tlbinvRange (h : Hdr) (b : TBody) : Statement (.tlbinvRange h b) := by
  intro w wf e
  cases e
  simp [Instr.wellFormed, Hdr.subIs] at wf
  simp [decodeRaw, row_word, column_word, unpackHdr_word, decodeRowD, unpackT_word, wf, -BitVec.extractLsb'_toNat]
  rw [to_word]
  simp [wf]

theorem tlbinvAsid (h : Hdr) (b : TBody) : Statement (.tlbinvAsid h b) := by
  intro w wf e
  cases e
  simp [Instr.wellFormed, Hdr.subIs] at wf
  simp [decodeRaw, row_word, column_word, unpackHdr_word, decodeRowD, unpackT_word, wf, -BitVec.extractLsb'_toNat]
  rw [to_word]
  simp [wf]

theorem tlbinvFn (h : Hdr) (b : TBody) : Statement (.tlbinvFn h b) := by
  intro w wf e
  cases e
  simp [Instr.wellFormed, Hdr.subIs] at wf
  simp [decodeRaw, row_word, column_word, unpackHdr_word, decodeRowD, unpackT_word, wf, -BitVec.extractLsb'_toNat]
  rw [to_word]
  simp [wf]

theorem mapqRange (h : Hdr) (b : TBody) : Statement (.mapqRange h b) := by
  intro w wf e
  cases e
  simp [Instr.wellFormed, Hdr.subIs] at wf
  simp [decodeRaw, row_word, column_word, unpackHdr_word, decodeRowD, unpackT_word, wf, -BitVec.extractLsb'_toNat]
  rw [to_word]
  simp [wf]

theorem mapqAsid (h : Hdr) (b : TBody) : Statement (.mapqAsid h b) := by
  intro w wf e
  cases e
  simp [Instr.wellFormed, Hdr.subIs] at wf
  simp [decodeRaw, row_word, column_word, unpackHdr_word, decodeRowD, unpackT_word, wf, -BitVec.extractLsb'_toNat]
  rw [to_word]
  simp [wf]

theorem mapqFn (h : Hdr) (b : TBody) : Statement (.mapqFn h b) := by
  intro w wf e
  cases e
  simp [Instr.wellFormed, Hdr.subIs] at wf
  simp [decodeRaw, row_word, column_word, unpackHdr_word, decodeRowD, unpackT_word, wf, -BitVec.extractLsb'_toNat]
  rw [to_word]
  simp [wf]

theorem haltcHalt (h : Hdr) (b : TBody) : Statement (.haltcHalt h b) := by
  intro w wf e
  cases e
  simp [Instr.wellFormed, Hdr.subIs] at wf
  simp [decodeRaw, row_word, column_word, unpackHdr_word, decodeRowD, unpackT_word, wf, -BitVec.extractLsb'_toNat]

theorem haltcResume (h : Hdr) (b : TBody) : Statement (.haltcResume h b) := by
  intro w wf e
  cases e
  simp [Instr.wellFormed, Hdr.subIs] at wf
  simp [decodeRaw, row_word, column_word, unpackHdr_word, decodeRowD, unpackT_word, wf, -BitVec.extractLsb'_toNat]

theorem haltcKill (h : Hdr) (b : TBody) : Statement (.haltcKill h b) := by
  intro w wf e
  cases e
  simp [Instr.wellFormed, Hdr.subIs] at wf
  simp [decodeRaw, row_word, column_word, unpackHdr_word, decodeRowD, unpackT_word, wf, -BitVec.extractLsb'_toNat]

theorem hint (h : BitVec 10) : Statement (.hint h) := by
  intro w _ e
  cases e
  exact hint_word h

theorem joinRelease (core : Nat) (slot : Nat) : Statement (.joinRelease core slot) := by
  intro w _ e
  cases e

theorem reorderRendezvous (core : Nat) (slot : Nat) : Statement (.reorderRendezvous core slot) := by
  intro w _ e
  cases e

theorem registerLineFill (core : Nat) (line : RegLine) : Statement (.registerLineFill core line) := by
  intro w _ e
  cases e

theorem variableResultWrite (core : Nat) (slot : Nat) (id : Nat) : Statement (.variableResultWrite core slot id) := by
  intro w _ e
  cases e

theorem instructionLineFill (core : Nat) (asid : Nat) (va : W64) : Statement (.instructionLineFill core asid va) := by
  intro w _ e
  cases e

theorem pageWalk (core : Nat) (asid : Nat) (page : Nat) : Statement (.pageWalk core asid page) := by
  intro w _ e
  cases e

theorem tlbinvReceive (op : Nat) (rcp : Nat) : Statement (.tlbinvReceive op rcp) := by
  intro w _ e
  cases e

theorem tlbinvDrainAck (op : Nat) (rcp : Nat) : Statement (.tlbinvDrainAck op rcp) := by
  intro w _ e
  cases e

theorem tlbinvComplete (op : Nat) : Statement (.tlbinvComplete op) := by
  intro w _ e
  cases e

theorem mapqNoticeReceive (op : Nat) (rcp : Nat) : Statement (.mapqNoticeReceive op rcp) := by
  intro w _ e
  cases e

theorem mapqComplete (op : Nat) : Statement (.mapqComplete op) := by
  intro w _ e
  cases e

theorem l2Registration (id : Nat) : Statement (.l2Registration id) := by
  intro w _ e
  cases e

theorem l2WritebackMerge (id : Nat) : Statement (.l2WritebackMerge id) := by
  intro w _ e
  cases e

theorem l2Read (id : Nat) : Statement (.l2Read id) := by
  intro w _ e
  cases e

theorem l2Atomic (id : Nat) : Statement (.l2Atomic id) := by
  intro w _ e
  cases e

theorem l2Reduction (id : Nat) : Statement (.l2Reduction id) := by
  intro w _ e
  cases e

theorem atriumBankOperation (id : Nat) : Statement (.atriumBankOperation id) := by
  intro w _ e
  cases e

theorem waitRegistrationOp (id : Nat) : Statement (.waitRegistrationOp id) := by
  intro w _ e
  cases e

theorem galleryRegistrationOp (id : Nat) : Statement (.galleryRegistrationOp id) := by
  intro w _ e
  cases e

theorem futureResolutionOp (id : Nat) : Statement (.futureResolutionOp id) := by
  intro w _ e
  cases e

theorem resolutionNoticeReceive (id : Nat) (core : Nat) : Statement (.resolutionNoticeReceive id core) := by
  intro w _ e
  cases e

theorem wakeQueuePost (hall : Nat) : Statement (.wakeQueuePost hall) := by
  intro w _ e
  cases e

theorem wakeQueueHead (hall : Nat) : Statement (.wakeQueueHead hall) := by
  intro w _ e
  cases e

theorem awaitPendingDecrement (id : Nat) : Statement (.awaitPendingDecrement id) := by
  intro w _ e
  cases e

theorem awaitComplete (core : Nat) (slot : Nat) : Statement (.awaitComplete core slot) := by
  intro w _ e
  cases e

theorem slotBind (core : Nat) (slot : Nat) (victim : (Option Nat)) : Statement (.slotBind core slot victim) := by
  intro w _ e
  cases e

theorem copyBeat (core : Nat) (seq : Nat) : Statement (.copyBeat core seq) := by
  intro w _ e
  cases e

theorem copyLatticeStart (core : Nat) (seq : Nat) : Statement (.copyLatticeStart core seq) := by
  intro w _ e
  cases e

theorem followOnIssue (core : Nat) (seq : Nat) : Statement (.followOnIssue core seq) := by
  intro w _ e
  cases e

theorem copyComplete (core : Nat) (seq : Nat) : Statement (.copyComplete core seq) := by
  intro w _ e
  cases e

theorem banisterPhaseRelease (cid : Nat) (tag : Nat) : Statement (.banisterPhaseRelease cid tag) := by
  intro w _ e
  cases e

theorem arrayOpDispatch (core : Nat) (seq : Nat) : Statement (.arrayOpDispatch core seq) := by
  intro w _ e
  cases e

theorem arrayOpRetire (core : Nat) (seq : Nat) : Statement (.arrayOpRetire core seq) := by
  intro w _ e
  cases e

theorem binnerPrimitive (core : Nat) (seq : Nat) : Statement (.binnerPrimitive core seq) := by
  intro w _ e
  cases e

theorem feedbackReserve (id : Nat) : Statement (.feedbackReserve id) := by
  intro w _ e
  cases e

theorem feedbackEntryWrite (id : Nat) : Statement (.feedbackEntryWrite id) := by
  intro w _ e
  cases e

theorem migrationCommand (annex : Nat) : Statement (.migrationCommand annex) := by
  intro w _ e
  cases e

theorem migrationInvalidationDone (annex : Nat) : Statement (.migrationInvalidationDone annex) := by
  intro w _ e
  cases e

theorem porterRecordSelect (hall : Nat) : Statement (.porterRecordSelect hall) := by
  intro w _ e
  cases e

theorem contextPlacement (q : Nat) (origin : Origin) : Statement (.contextPlacement q origin) := by
  intro w _ e
  cases e

theorem resourceReservation (cid : Nat) (core : Nat) : Statement (.resourceReservation cid core) := by
  intro w _ e
  cases e

theorem groupStart (cid : Nat) (core : Nat) : Statement (.groupStart cid core) := by
  intro w _ e
  cases e

theorem saveLineArrival (cid : Nat) (core : Nat) (late : (List Nat)) : Statement (.saveLineArrival cid core late) := by
  intro w _ e
  cases e

theorem preemptSaveComplete (cid : Nat) : Statement (.preemptSaveComplete cid) := by
  intro w _ e
  cases e

theorem contextRestore (cid : Nat) (origin : Origin) : Statement (.contextRestore cid origin) := by
  intro w _ e
  cases e

theorem crewCompletion (cid : Nat) (crew : Nat) : Statement (.crewCompletion cid crew) := by
  intro w _ e
  cases e

theorem eventHeldPost (vf : Nat) : Statement (.eventHeldPost vf) := by
  intro w _ e
  cases e

theorem handlerLaunchStart (vf : Nat) : Statement (.handlerLaunchStart vf) := by
  intro w _ e
  cases e

theorem haltLineArrival (cid : Nat) (core : Nat) : Statement (.haltLineArrival cid core) := by
  intro w _ e
  cases e

theorem haltSettle (cid : Nat) (core : Nat) : Statement (.haltSettle cid core) := by
  intro w _ e
  cases e

theorem contextHalted (cid : Nat) : Statement (.contextHalted cid) := by
  intro w _ e
  cases e

theorem managementRegisterWrite (vf : Nat) (off : Nat) (size : Nat) (val : W64) : Statement (.managementRegisterWrite vf off size val) := by
  intro w _ e
  cases e

theorem fixedLatencyResultWrite (core : Nat) (slot : Nat) (id : Nat) : Statement (.fixedLatencyResultWrite core slot id) := by
  intro w _ e
  cases e

theorem unassignedOpcode (w : BitVec 96) : Statement (.unassignedOpcode w) := by
  intro w wf e
  cases e
  exact unassigned_word w wf

theorem astbWrite (val : W64) : Statement (.astbWrite val) := by
  intro w _ e
  cases e

theorem hotctlWrite (val : W64) : Statement (.hotctlWrite val) := by
  intro w _ e
  cases e

theorem mgtlWrite (annex : Nat) (val : W64) : Statement (.mgtlWrite annex val) := by
  intro w _ e
  cases e

theorem dctlReset (die : Nat) : Statement (.dctlReset die) := by
  intro w _ e
  cases e

theorem dctlWithdraw (die : Nat) : Statement (.dctlWithdraw die) := by
  intro w _ e
  cases e

theorem dsrWrite (f : Nat) (val : W64) : Statement (.dsrWrite f val) := by
  intro w _ e
  cases e

theorem vfrzClear (f : Nat) (val : W64) : Statement (.vfrzClear f val) := by
  intro w _ e
  cases e

theorem evhlWrite (f : Nat) (evha : Bool) (val : W64) : Statement (.evhlWrite f evha val) := by
  intro w _ e
  cases e

theorem hostRingHeadWrite (f : Nat) (events : Bool) (val : W64) : Statement (.hostRingHeadWrite f events val) := by
  intro w _ e
  cases e

theorem hcrbTailWrite (f : Nat) (val : W64) : Statement (.hcrbTailWrite f val) := by
  intro w _ e
  cases e

theorem rsownWrite (by_ : Writer) (hall : Nat) (slot : Nat) (val : W64) : Statement (.rsownWrite by_ hall slot val) := by
  intro w _ e
  cases e

theorem dtrateWrite (die : Nat) (val : W64) : Statement (.dtrateWrite die val) := by
  intro w _ e
  cases e

theorem dtoffWrite (die : Nat) (val : W64) : Statement (.dtoffWrite die val) := by
  intro w _ e
  cases e

theorem dtoffRead (die : Nat) : Statement (.dtoffRead die) := by
  intro w _ e
  cases e

theorem hostBar2Access (vf : Nat) (off : Nat) (acc : HostAccess) : Statement (.hostBar2Access vf off acc) := by
  intro w _ e
  cases e

theorem peerInboundAccess (port : Nat) (pa : Nat) (acc : HostAccess) : Statement (.peerInboundAccess port pa acc) := by
  intro w _ e
  cases e

theorem linkRetrained (port : Nat) (lanes : Nat) : Statement (.linkRetrained port lanes) := by
  intro w _ e
  cases e

theorem functionLevelReset (f : Nat) : Statement (.functionLevelReset f) := by
  intro w _ e
  cases e

theorem powerOn (images : (List (List Byte))) : Statement (.powerOn images) := by
  intro w _ e
  cases e

theorem linkAuthentication (link : Nat) (msg : AuthMsg) : Statement (.linkAuthentication link msg) := by
  intro w _ e
  cases e

theorem svnFloorRaise : Statement (.svnFloorRaise) := by
  intro w _ e
  cases e

theorem spdmGetVersion (req : (List Byte)) : Statement (.spdmGetVersion req) := by
  intro w _ e
  cases e

theorem spdmGetCapabilities (req : (List Byte)) : Statement (.spdmGetCapabilities req) := by
  intro w _ e
  cases e

theorem spdmNegotiateAlgorithms (req : (List Byte)) : Statement (.spdmNegotiateAlgorithms req) := by
  intro w _ e
  cases e

theorem spdmGetDigests (req : (List Byte)) : Statement (.spdmGetDigests req) := by
  intro w _ e
  cases e

theorem spdmGetCertificate (req : (List Byte)) : Statement (.spdmGetCertificate req) := by
  intro w _ e
  cases e

theorem spdmChallenge (req : (List Byte)) : Statement (.spdmChallenge req) := by
  intro w _ e
  cases e

theorem spdmGetMeasurements (req : (List Byte)) : Statement (.spdmGetMeasurements req) := by
  intro w _ e
  cases e

theorem periodicHealthReport (die : Nat) : Statement (.periodicHealthReport die) := by
  intro w _ e
  cases e

theorem correctableSoftError (die : Nat) : Statement (.correctableSoftError die) := by
  intro w _ e
  cases e

theorem uncorrectableSoftError (die : Nat) : Statement (.uncorrectableSoftError die) := by
  intro w _ e
  cases e

theorem thermalThrottle (die : Nat) (temp : Nat) : Statement (.thermalThrottle die temp) := by
  intro w _ e
  cases e

theorem thermalTrip (die : Nat) (temp : Nat) : Statement (.thermalTrip die temp) := by
  intro w _ e
  cases e

theorem pldmSetPowerCap (watts : Nat) : Statement (.pldmSetPowerCap watts) := by
  intro w _ e
  cases e

theorem pldmSetClockCeiling (mhz : Nat) : Statement (.pldmSetClockCeiling mhz) := by
  intro w _ e
  cases e

theorem pldmReadTemperature (die : Nat) : Statement (.pldmReadTemperature die) := by
  intro w _ e
  cases e

theorem pldmReadPackagePower : Statement (.pldmReadPackagePower) := by
  intro w _ e
  cases e

theorem clockStepChange (power : Nat) : Statement (.clockStepChange power) := by
  intro w _ e
  cases e

theorem shareWindowRestart : Statement (.shareWindowRestart) := by
  intro w _ e
  cases e

theorem preemptBudgetWindow : Statement (.preemptBudgetWindow) := by
  intro w _ e
  cases e

theorem doorbellWrite (vf : Nat) (q : Nat) (val : W64) : Statement (.doorbellWrite vf q val) := by
  intro w _ e
  cases e

theorem corridorProtocolBreach (core : Nat) : Statement (.corridorProtocolBreach core) := by
  intro w _ e
  cases e

theorem preempt (cid : Nat) (for_ : Nat) : Statement (.preempt cid for_) := by
  intro w _ e
  cases e

theorem freeFrameTake (ring : Nat) : Statement (.freeFrameTake ring) := by
  intro w _ e
  cases e

theorem porterMigrationSelect (annex : Nat) (picks : (List MigPick)) : Statement (.porterMigrationSelect annex picks) := by
  intro w _ e
  cases e

theorem feedbackDrain (asid : Nat) (ring : W64) : Statement (.feedbackDrain asid ring) := by
  intro w _ e
  cases e

theorem flitAgeLimit (id : Nat) : Statement (.flitAgeLimit id) := by
  intro w _ e
  cases e

theorem nakResend (id : Nat) : Statement (.nakResend id) := by
  intro w _ e
  cases e

theorem dieResetTimeout (die : Nat) : Statement (.dieResetTimeout die) := by
  intro w _ e
  cases e

theorem dieResetComplete (die : Nat) : Statement (.dieResetComplete die) := by
  intro w _ e
  cases e

theorem hostCmdTlbinv (vf : Nat) : Statement (.hostCmdTlbinv vf) := by
  intro w _ e
  cases e

theorem hostCmdMapq (vf : Nat) : Statement (.hostCmdMapq vf) := by
  intro w _ e
  cases e

theorem hostCmdHaltcHalt (vf : Nat) : Statement (.hostCmdHaltcHalt vf) := by
  intro w _ e
  cases e

theorem hostCmdHaltcResume (vf : Nat) : Statement (.hostCmdHaltcResume vf) := by
  intro w _ e
  cases e

theorem hostCmdHaltcKill (vf : Nat) : Statement (.hostCmdHaltcKill vf) := by
  intro w _ e
  cases e

theorem hostCmdPlace (vf : Nat) : Statement (.hostCmdPlace vf) := by
  intro w _ e
  cases e

theorem hotlistIntervalEnd : Statement (.hotlistIntervalEnd) := by
  intro w _ e
  cases e

theorem l1ForwardRequest (core : Nat) (asid : Nat) (line : Nat) : Statement (.l1ForwardRequest core asid line) := by
  intro w _ e
  cases e

theorem parkEvictionTimeout (core : Nat) (slot : Nat) : Statement (.parkEvictionTimeout core slot) := by
  intro w _ e
  cases e

theorem issuePromotion (core : Nat) (slot : Nat) (split : Nat) : Statement (.issuePromotion core slot split) := by
  intro w _ e
  cases e

theorem yieldExpiry (core : Nat) (slot : Nat) (split : Nat) : Statement (.yieldExpiry core slot split) := by
  intro w _ e
  cases e

theorem tileReload (cid : Nat) (crew : Nat) (tile : Nat) : Statement (.tileReload cid crew tile) := by
  intro w _ e
  cases e

theorem accumulatorEvict (cid : Nat) (crew : Nat) (acc : Nat) : Statement (.accumulatorEvict cid crew acc) := by
  intro w _ e
  cases e

theorem waiterToGallery (core : Nat) (slot : Nat) (split : Nat) : Statement (.waiterToGallery core slot split) := by
  intro w _ e
  cases e

theorem groupEvict (core : Nat) (slot : Nat) : Statement (.groupEvict core slot) := by
  intro w _ e
  cases e

theorem porterFaultService (hall : Nat) (map : (Option PteWrite)) : Statement (.porterFaultService hall map) := by
  intro w _ e
  cases e

theorem copyLateCompletion (cid : Nat) (seq : Nat) : Statement (.copyLateCompletion cid seq) := by
  intro w _ e
  cases e

theorem memoryControllerRequest (line : Nat) (write : Bool) : Statement (.memoryControllerRequest line write) := by
  intro w _ e
  cases e

theorem faultRecordHeldPost (core : Nat) : Statement (.faultRecordHeldPost core) := by
  intro w _ e
  cases e

theorem stepHalt (cid : Nat) : Statement (.stepHalt cid) := by
  intro w _ e
  cases e

end Sys2Proof.Laws.WordForm
end

