-- ==== Sys2Proof/Tests/Slice0.lean ====
section
/-! SUPPORT. Tests of the model: words written out from the spec's encodings, ill-formed terms, single steps with results
worked out by hand from the spec, and for each statement a concrete state and operands that meet its hypotheses. -/

namespace Sys2Proof.Tests

open Sys2Proof Sys2Proof.Machine

-- Elaborated one after another: at once the tests would need more memory than the check gives.
set_option Elab.async false

/-! ## Terms -/

/-- A header with SUB and G = 7. -/
def hd (sub : BitVec 6) : Hdr := ⟨sub, false, 7, false, 0⟩
/-- A header with SUB = 0, G = 7 and NX. -/
def hx (nx : BitVec 2) : Hdr := ⟨0, false, 7, false, nx⟩
def u0 : UBody := ⟨0, 0, 0, 0, 0, false, 0, 0⟩
def a0 : AnchorBody := ⟨0, 0, 0⟩
def c0 : CBody := ⟨0, 0, 0, 0, 0, 0, 0⟩
def v0 : VBody := ⟨0, 0, 0, false, 7, 0, false, 0, 0, 0⟩
def w0 : V3Body := ⟨0, 0, 0, 0, 0, false, 0, 0, 0⟩
def m0 : MBody := ⟨0, 0, 0, 0, false, 0, 4, 0, 0, 0, 0⟩
def ab : ABody := ⟨0, 0, 0, 0, 0, false, false, false, 0, false, 0, 0⟩
def x0 : XBody := ⟨0, 0, 0, 0, 0, 0, 0, 0, 0, 0⟩
def t0 : TBody := ⟨0, 0, 0, 0, 0, 0, 0⟩

/-! ## Words written out field by field from R225, R228 to R235 and R26 -/

/-- SADD.sat s[5:4] with W = 1 under !p2, S = 1, NX = 10. -/
theorem test_decode_u : decode (0x02#8 ++ 5#6 ++ 1#1 ++ 2#3 ++ 1#1 ++ 2#2 ++ 5#3 ++ 4#6 ++ 6#6 ++ 8#6 ++ 9#6 ++ 3#3 ++ 0#1 ++ 0xF#4 ++ 7#8 ++ 0xDEADBEEF#32)
    = .ok (.sadd ⟨5, true, 2, true, 2⟩ ⟨4, 6, 8, 9, 3, false, 7, 0xDEADBEEF⟩) := by decide +kernel

/-- BRX s4, v9, #4095 with a backward line offset and slot 3. -/
theorem test_decode_c : decode (0x21#8 ++ 0#6 ++ 0#1 ++ 7#3 ++ 0#1 ++ 3#2 ++ 0#3 ++ 4#6 ++ 5#6 ++ 9#8 ++ 0xABC#12 ++ 4095#13 ++ 0xFFFFFE#24 ++ 3#3)
    = .ok (.brx ⟨0, false, 7, false, 3⟩ ⟨4, 5, 9, 0xABC, 4095, 0xFFFFFE, 3⟩) := by decide +kernel

/-- VCMP.le.n32 p4, v20, #7. -/
theorem test_decode_v : decode (0x41#8 ++ 1#6 ++ 0#1 ++ 7#3 ++ 0#1 ++ 0#2 ++ 0#3 ++ 19#8 ++ 20#8 ++ 21#8 ++ 1#1 ++ 4#3 ++ 6#3 ++ 1#1 ++ 2#4 ++ 3#4 ++ 7#32)
    = .ok (.vcmp (hd 1) ⟨19, 20, 21, true, 4, 6, true, 2, 3, 7⟩) := by decide +kernel

/-- VFMA.rd with the product's sign changed. -/
theorem test_decode_v3 : decode (0x63#8 ++ 2#6 ++ 0#1 ++ 7#3 ++ 0#1 ++ 0#2 ++ 0#3 ++ 1#8 ++ 2#8 ++ 3#8 ++ 4#8 ++ 3#3 ++ 0#1 ++ 3#4 ++ 5#3 ++ 6#4 ++ 0x1FFFFFF#25)
    = .ok (.vfma (hd 2) ⟨1, 2, 3, 4, 3, false, 3, 5, 6⟩) := by decide +kernel

/-- ST.b128 [atr: s6 + v9 - 8]. -/
theorem test_decode_m : decode (0x71#8 ++ 0#6 ++ 0#1 ++ 7#3 ++ 0#1 ++ 0#2 ++ 0#3 ++ 4#8 ++ 9#8 ++ 5#3 ++ 2#2 ++ 1#1 ++ 6#6 ++ 6#4 ++ 7#4 ++ 1#3 ++ 1#1 ++ 8#8 ++ 0xFFFFF8#24)
    = .ok (.st (hd 0) ⟨4, 9, 5, 2, true, 6, 6, 7, 1, 8, 0xFFFFF8⟩) := by decide +kernel

/-- CPY with a status register, a barrier and a follow-on. -/
theorem test_decode_a : decode (0x90#8 ++ 2#6 ++ 0#1 ++ 7#3 ++ 0#1 ++ 0#2 ++ 0#3 ++ 2#6 ++ 4#6 ++ 7#6 ++ 63#6 ++ 9#8 ++ 0#1 ++ 1#1 ++ 1#1 ++ 10#6 ++ 1#1 ++ 12#6 ++ 0x123456#24)
    = .ok (.cpy (hd 2) ⟨2, 4, 7, 63, 9, false, true, true, 10, true, 12, 0x123456⟩) := by decide +kernel

/-- RSLV.rd of accumulator 5. -/
theorem test_decode_x : decode (0xC0#8 ++ 2#6 ++ 0#1 ++ 7#3 ++ 0#1 ++ 0#2 ++ 0#3 ++ 14#4 ++ 5#4 ++ 6#6 ++ 7#6 ++ 8#6 ++ 200#8 ++ 9#4 ++ 5#3 ++ 255#8 ++ 0x2AAAAA#23)
    = .ok (.rslvRd (hd 2) ⟨14, 5, 6, 7, 8, 200, 9, 5, 255, 0x2AAAAA⟩) := by decide +kernel

/-- CTXRD s[3:2] of field 5. -/
theorem test_decode_t : decode (0xDA#8 ++ 0#6 ++ 0#1 ++ 7#3 ++ 0#1 ++ 0#2 ++ 0#3 ++ 77#8 ++ 1#6 ++ 2#6 ++ 3#6 ++ 4#3 ++ 0#11 ++ 0x12345605#32)
    = .ok (.ctxrd (hd 0) ⟨77, 1, 2, 3, 4, 0, 0x12345605⟩) := by decide +kernel

/-- ANCHOR b3 at s[11:10] with the immediate length 2^31 - 1, and with the length in s33. -/
theorem test_decode_anchor :
    decode (0x1B#8 ++ 1#6 ++ 0#1 ++ 7#3 ++ 0#1 ++ 0#2 ++ 0#3 ++ 3#3 ++ 10#6 ++ 0x7FFFFFFF#31 ++ 0xFFFFFFFF#32) = .ok (.anchor (hd 1) ⟨3, 10, 0x7FFFFFFF⟩) ∧
    (match decode (0x1B#8 ++ 0#6 ++ 0#1 ++ 7#3 ++ 0#1 ++ 0#2 ++ 0#3 ++ 3#3 ++ 10#6 ++ 33#6 ++ 0#25 ++ 0#32) with
      | .ok (.anchor _ b) => b.m == 33 && b.n == 10 | _ => false) = true := by decide +kernel

/-- The spec's own words (R218 to R221, R269, R299, R353): NOP, PAD #0x101, EDGE, SPAWNC, FWAIT, CPYL and SPAWN.lane under p1. -/
theorem test_decode_examples :
    decode 0x2901C0000000000000000000 = .ok (.nop (hd 0) c0) ∧
    decode 0x2201C0000001010000000000 = .ok (.pad (hd 0) { c0 with lbl := 0x101 }) ∧
    decode 0xBC01C0002800001000000000 = .ok (.edge (hd 0) { x0 with xsa := 10, af := 4 }) ∧
    (match decode 0xD101C0005000800100000000 with | .ok (.spawnc h b) => h == hd 0 && b.tsa == 20 && b.tsc == 2 && b.topt == 1 | _ => false) = true ∧
    (match decode 0xD601C0000862000000000000 with | .ok (.fwait _ b) => b.tsa == 2 && b.tsb == 6 && b.tsc == 8 | _ => false) = true ∧
    (match decode 0x9102400000000AC000060802 with | .ok (.cpyl h b) => h.g == 1 && b.ai == 0x060802 && b.sv && b.se | _ => false) = true ∧
    (match decode 0xD00240020000000100000000 with | .ok (.spawnLane h b) => h.g == 1 && b.tv == 2 | _ => false) = true := by decide +kernel

/-- A hint is any word of the region F0 to FF, with its class in the low bits of OPC (R239); an unassigned opcode is its own instruction. -/
theorem test_decode_rest :
    (match decode 0xF01100000000000000000000 with | .ok (.hint k) => k == 4 | _ => false) = true ∧
    decode 0x1C0000000000000000000000 = .ok (.unassignedOpcode 0x1C0000000000000000000000) ∧
    decode 0xEF0000000000000000000001 = .ok (.unassignedOpcode 0xEF0000000000000000000001) := by decide +kernel

/-- Values that the entries of R254, R263, R232, R227 and R236 call illegal are rejected. -/
theorem test_decode_rejects :
    decode (0x02#8 ++ 8#6 ++ 0x1C0#10 ++ 0#72) = .error .forbiddenField ∧ decode (0x29#8 ++ 1#6 ++ 0x1C0#10 ++ 0#72) = .error .forbiddenField ∧
    decode (0x02#8 ++ 0#6 ++ 0x1C8#10 ++ 0#72) = .error .forbiddenField ∧ decode (0x70#8 ++ 0#6 ++ 0x1C0#10 ++ 0#19 ++ 3#2 ++ 0#51) = .error .forbiddenField ∧
    decode (0xDF#8 ++ 3#6 ++ 0x1C0#10 ++ 0#72) = .error .subOperation := by decide +kernel

/-! ## The opcode map (R237) -/

theorem test_opcodes_0 : let h : Hdr := hd 0; ([(0x00, .smov h u0), (0x01, .smovi h u0), (0x02, .sadd h u0), (0x03, .ssub h u0), (0x04, .smul h u0),
    (0x05, .smulh h u0), (0x06, .smad h u0), (0x07, .sand h u0), (0x08, .sor h u0), (0x09, .sxor h u0), (0x0A, .sshl h u0),
    (0x0B, .sshr h u0), (0x0C, .ssra h u0), (0x0D, .smin h u0), (0x0E, .smax h u0), (0x0F, .scmp h u0)] : List (Byte × Instr)).all (fun x => (encode x.2).map (fun w => w.extractLsb' 88 8) == some x.1) = true := by
  decide +kernel

theorem test_opcodes_1 : let h : Hdr := hd 0; ([(0x10, .ssel h u0), (0x11, .spopc h u0), (0x12, .sclz h u0), (0x13, .sbfx h u0), (0x14, .sbfi h u0),
    (0x15, .slea h u0), (0x16, .srd h u0), (0x16, .srdV h u0), (0x17, .swr h u0), (0x17, .swrV h u0), (0x18, .sld h u0),
    (0x19, .sst h u0), (0x1A, .sballot h u0), (0x1B, .anchor h a0)] : List (Byte × Instr)).all (fun x => (encode x.2).map (fun w => w.extractLsb' 88 8) == some x.1) = true := by
  decide +kernel

theorem test_opcodes_2 : let h : Hdr := hd 0; ([(0x20, .br h c0), (0x21, .brx h c0), (0x22, .pad h c0), (0x23, .call h c0), (0x24, .ret h c0), (0x25, .join h c0),
    (0x26, .loop h c0), (0x27, .exit h c0), (0x28, .yield h c0), (0x29, .nop h c0), (0x2A, .bkpt h c0), (0x2B, .trap h c0)] : List (Byte × Instr)).all (fun x => (encode x.2).map (fun w => w.extractLsb' 88 8) == some x.1) = true := by
  decide +kernel

theorem test_opcodes_3 : let h : Hdr := hd 0; ([(0x30, .vadd h v0), (0x31, .vsub h v0), (0x32, .vmul h v0), (0x33, .vmulh h v0), (0x34, .vmin h v0),
    (0x35, .vmax h v0), (0x36, .vabs h v0), (0x37, .vand h v0), (0x38, .vor h v0), (0x39, .vxor h v0), (0x3A, .vnot h v0),
    (0x3B, .vshl h v0), (0x3C, .vshr h v0), (0x3D, .vsra h v0), (0x3E, .vpopc h v0), (0x3F, .vclz h v0)] : List (Byte × Instr)).all (fun x => (encode x.2).map (fun w => w.extractLsb' 88 8) == some x.1) = true := by
  decide +kernel

theorem test_opcodes_4 : let h : Hdr := hd 0; ([(0x40, .vbfx h v0), (0x41, .vcmp h v0), (0x42, .vmov h v0), (0x43, .vmovi h v0), (0x44, .vfadd h v0),
    (0x45, .vfmul h v0), (0x46, .vfmin h v0), (0x47, .vfmax h v0), (0x48, .vfrcp h v0), (0x49, .vfrsq h v0),
    (0x4A, .vfsqrt h v0), (0x4B, .vfexp2 h v0), (0x4C, .vflog2 h v0), (0x4D, .vfsin h v0), (0x4E, .vfcos h v0),
    (0x4F, .vfcmp h v0)] : List (Byte × Instr)).all (fun x => (encode x.2).map (fun w => w.extractLsb' 88 8) == some x.1) = true := by
  decide +kernel

theorem test_opcodes_5 : let h : Hdr := hd 0; ([(0x50, .vfclass h v0), (0x51, .vfrnd h v0), (0x52, .vffrc h v0), (0x53, .vpadd h v0), (0x54, .vpmul h v0),
    (0x55, .vpmin h v0), (0x56, .vpmax h v0), (0x57, .vcvt h v0), (0x58, .vpack h v0), (0x59, .vunpk h v0),
    (0x5A, .vtag h v0), (0x5B, .vshfl h v0), (0x5C, .vbcast h v0), (0x5D, .vred h v0), (0x5E, .vscan h v0),
    (0x5F, .vballot h v0)] : List (Byte × Instr)).all (fun x => (encode x.2).map (fun w => w.extractLsb' 88 8) == some x.1) = true := by
  decide +kernel

theorem test_opcodes_6 : let h : Hdr := hd 0; ([(0x60, .vmad h w0), (0x61, .vbfi h w0), (0x62, .vsel h w0), (0x63, .vfma h w0), (0x64, .vpfma h w0),
    (0x65, .vlerp h w0), (0x66, .vdot4 h w0), (0x67, .vdot2 h w0)] : List (Byte × Instr)).all (fun x => (encode x.2).map (fun w => w.extractLsb' 88 8) == some x.1) = true := by
  decide +kernel

theorem test_opcodes_7 : let h : Hdr := hd 0; ([(0x70, .ld h m0), (0x71, .st h m0), (0x72, .ldx h m0), (0x73, .stx h m0), (0x74, .lda h m0), (0x75, .sta h m0),
    (0x76, .ldat h m0), (0x77, .stat h m0), (0x78, .atom h m0), (0x78, .atomNr h m0), (0x79, .atoma h m0),
    (0x7A, .ldlod h m0), (0x7B, .txg h m0), (0x7C, .resq h m0), (0x7C, .resqFb h m0), (0x7D, .prefL1 h m0),
    (0x7D, .prefL2 h m0)] : List (Byte × Instr)).all (fun x => (encode x.2).map (fun w => w.extractLsb' 88 8) == some x.1) = true := by
  decide +kernel

theorem test_opcodes_9 : let h : Hdr := hd 0; ([(0x90, .cpy h ab), (0x91, .cpyl h ab), (0x92, .cpyr h ab), (0x93, .cpytLd h ab), (0x93, .cpytSt h ab),
    (0x94, .cpyz h ab), (0x95, .twany h ab), (0x96, .twall h ab), (0x97, .tfirst h ab), (0x98, .tcnt h ab),
    (0x99, .abinit h ab), (0x9A, .abexp h ab), (0x9B, .abarr h ab), (0x9C, .abwait h ab), (0x9D, .abtest h ab),
    (0x9E, .flacqP h ab), (0x9E, .flacqC h ab), (0x9F, .flrelP h ab), (0x9F, .flrelC h ab)] : List (Byte × Instr)).all (fun x => (encode x.2).map (fun w => w.extractLsb' 88 8) == some x.1) = true := by
  decide +kernel

theorem test_opcodes_A : let h : Hdr := hd 0; ([(0xA0, .ban h ab), (0xA1, .bana h ab), (0xA2, .banw h ab)] : List (Byte × Instr)).all (fun x => (encode x.2).map (fun w => w.extractLsb' 88 8) == some x.1) = true := by
  decide +kernel

theorem test_opcodes_B : let h : Hdr := hd 0; ([(0xB0, .ldwMem h x0), (0xB0, .ldwSmp h x0), (0xB1, .ldws h x0), (0xB2, .trel h x0), (0xB3, .mma h x0),
    (0xB4, .mmag h x0), (0xB5, .vxm h x0), (0xB6, .accz h x0), (0xB7, .accld h x0), (0xB8, .accstRaw h x0),
    (0xB8, .accstPost h x0), (0xB9, .accrdEl h x0), (0xB9, .accrdSt h x0), (0xBA, .preopLin h x0), (0xBA, .preopTr h x0),
    (0xBA, .preopWin h x0), (0xBB, .postop h x0), (0xBC, .edge h x0), (0xBD, .cvg h x0), (0xBE, .blend h x0),
    (0xBF, .flt h x0)] : List (Byte × Instr)).all (fun x => (encode x.2).map (fun w => w.extractLsb' 88 8) == some x.1) = true := by
  decide +kernel

theorem test_opcodes_C : let h : Hdr := hd 0; ([(0xC0, .rslvLt h x0), (0xC0, .rslvLe h x0), (0xC0, .rslvRd h x0), (0xC0, .rslvLd h x0), (0xC0, .rslvClr h x0),
    (0xC1, .binfl h x0)] : List (Byte × Instr)).all (fun x => (encode x.2).map (fun w => w.extractLsb' 88 8) == some x.1) = true := by
  decide +kernel

theorem test_opcodes_D : let h : Hdr := hd 0; ([(0xD0, .spawn h t0), (0xD0, .spawnLane h t0), (0xD1, .spawnc h t0), (0xD2, .await h t0), (0xD3, .fnew h t0),
    (0xD4, .fres h t0), (0xD5, .fflt h t0), (0xD6, .fwait h t0), (0xD7, .fpoll h t0), (0xD8, .reorder h t0),
    (0xD9, .time h t0), (0xDA, .ctxrd h t0), (0xDB, .ctxwr h t0), (0xDC, .evpop h t0), (0xDC, .evpopWait h t0),
    (0xDD, .tlbinvRange h t0), (0xDD, .tlbinvAsid h t0), (0xDD, .tlbinvFn h t0), (0xDE, .mapqRange h t0),
    (0xDE, .mapqAsid h t0), (0xDE, .mapqFn h t0), (0xDF, .haltcHalt h t0), (0xDF, .haltcResume h t0),
    (0xDF, .haltcKill h t0)] : List (Byte × Instr)).all (fun x => (encode x.2).map (fun w => w.extractLsb' 88 8) == some x.1) = true := by
  decide +kernel

/-! ## Ill-formed terms: for each check a term it refuses, beside a neighbour it accepts -/

/-- The first term is well formed, and none of the others is. -/
def refuses (x : Instr × List Instr) : Bool := x.1.wellFormed && x.2.all fun i => !i.wellFormed

/-- NX = 01 outside the C format, NX other than 00 and 11 in a transfer, and an unlisted SUB, for each format (R227, R238, R263). -/
theorem test_refuses_headers : ([(.smov (hd 0) u0, [.smov (hx 1) u0, .smov (hd 2) u0]), (.vand (hd 0) v0, [.vand (hx 1) v0, .vand (hd 1) v0]),
    (.vsel (hd 0) w0, [.vsel (hx 1) w0, .vsel (hd 1) w0]), (.ld (hd 0) m0, [.ld (hx 1) m0, .ld (hd 1) m0]),
    (.tcnt (hd 0) ab, [.tcnt (hx 1) ab, .tcnt (hd 1) ab]), (.trel (hd 0) x0, [.trel (hx 1) x0, .trel (hd 1) x0]),
    (.await (hd 0) t0, [.await (hx 1) t0, .await (hd 1) t0]), (.nop (hx 1) c0, [.nop (hd 1) c0]), (.br (hx 3) c0, [.br (hx 1) c0, .br (hx 2) c0, .br (hd 1) c0]),
    (.smovi (hd 3) u0, [.smovi (hd 2) u0]), (.ssel (hd 17) u0, [.ssel (hd 2) u0]), (.anchor (hd 1) a0, [.anchor (hd 2) a0]),
    (.haltcKill (hd 2) t0, [.haltcKill (hd 3) t0]), (.rslvClr (hd 4) x0, [.rslvClr (hd 5) x0])] : List (Instr × List Instr)).all refuses = true := by
  decide +kernel

/-- Pairs, bit fields and special registers (R228, R254, R258 to R261, R26). -/
theorem test_refuses_uniform : ([(.sadd (hd 1) u0, [.sadd (hd 1) { u0 with sd := 1 }, .sadd (hd 1) { u0 with sa := 1 }, .sadd (hd 1) { u0 with sb := 1 }, .sadd (hd 8) u0]),
    (.sadd (hd 1) { u0 with sb := 1, is := true }, []), (.smad (hd 1) u0, [.smad (hd 1) { u0 with sc := 1 }]), (.scmp (hd 0) { u0 with x8 := 5 }, [.scmp (hd 0) { u0 with x8 := 6 }]),
    (.sbfx (hd 0) { u0 with x8 := 31, imm := 1 }, [.sbfx (hd 0) u0, .sbfx (hd 0) { u0 with x8 := 31, imm := 2 }]), (.sbfi (hd 1) { u0 with imm := 64 }, [.sbfi (hd 0) { u0 with imm := 33 }]),
    (.slea (hd 0) { u0 with x8 := 63 }, [.slea (hd 0) { u0 with x8 := 64 }, .slea (hd 0) { u0 with sd := 1 }, .slea (hd 0) { u0 with sa := 1 }, .slea (hd 1) u0]),
    (.srd (hd 0) { u0 with x8 := 15, sd := 1 }, [.srd (hd 0) { u0 with x8 := 16 }, .srd (hd 0) { u0 with x8 := 7, sd := 1 }, .srd (hd 0) { u0 with x8 := 8, sd := 1 }]),
    (.srdV (hd 1) u0, [.srdV (hd 1) { u0 with x8 := 8 }]), (.swr (hd 0) { u0 with x8 := 14 }, [.swr (hd 0) u0]), (.swrV (hd 1) { u0 with x8 := 14 }, [.swrV (hd 1) u0]),
    (.sld (hd 5) u0, [.sld (hd 6) u0, .sld (hd 0) { u0 with sa := 1 }, .sld (hd 5) { u0 with sd := 1 }]), (.sst (hd 5) u0, [.sst (hd 1) u0, .sst (hd 5) { u0 with sb := 1 }]),
    (.anchor (hd 0) a0, [.anchor (hd 0) { a0 with n := 1 }])] : List (Instr × List Instr)).all refuses = true := by
  decide +kernel

/-- The C format (R264 to R273). -/
theorem test_refuses_control : ([(.brx (hd 0) { c0 with cx := 1 }, [.brx (hd 0) c0, .brx (hd 0) { c0 with cx := 1, ca := 1 }]), (.call (hd 0) c0, [.call (hd 0) { c0 with ca := 1 }]),
    (.ret (hd 0) c0, [.ret (hd 0) { c0 with ca := 1 }]), (.loop (hd 0) { c0 with ca := 1 }, [.loop (hd 0) { c0 with cx := 2 }, .loop (hd 0) { c0 with cx := 1, ca := 1 }]),
    (.exit (hd 0) c0, [.exit (hx 1) c0]), (.trap (hd 0) c0, [.trap (hx 2) c0])] : List (Instr × List Instr)).all refuses = true := by
  decide +kernel

/-- Types, rounding modes, fields, pairs of formats and operations (R277 to R298). -/
theorem test_refuses_vector : ([(.vadd (hd 0) { v0 with ty := 14 }, [.vadd (hd 0) v0, .vadd (hd 0) { v0 with ty := 3 }]), (.vbfx (hd 0) { v0 with imm := 0x021E }, [.vbfx (hd 0) v0, .vbfx (hd 0) { v0 with imm := 0x031E }]),
    (.vcmp (hd 0) { v0 with ty := 1, cc := 5 }, [.vcmp (hd 0) { v0 with ty := 1, cc := 6 }]), (.vfadd (hd 3) { v0 with ty := 3, rm := 4 }, [.vfadd (hd 0) { v0 with ty := 3, rm := 5 }, .vfadd (hd 4) { v0 with ty := 3 }]),
    (.vfmin (hd 0) { v0 with ty := 3, rm := 7 }, [.vfmin (hd 0) { v0 with ty := 4 }]), (.vcvt (hd 0) { v0 with cc := 3, ty := 11 }, [.vcvt (hd 0) { v0 with cc := 4, ty := 11 }, .vcvt (hd 0) { v0 with cc := 3, ty := 1, rm := 5 }]),
    (.vcvt (hd 0) { v0 with cc := 1, ty := 2, rm := 5 }, []), (.vpack (hd 0) { v0 with cc := 3, ty := 6, va := 4 }, [.vpack (hd 0) { v0 with cc := 3, ty := 6, va := 5 }, .vpack (hd 0) { v0 with cc := 3, ty := 1 }, .vpack (hd 0) { v0 with cc := 3, ty := 4, rm := 6 }]),
    (.vunpk (hd 0) { v0 with cc := 4, ty := 3, imm := 1 }, [.vunpk (hd 0) { v0 with cc := 4, ty := 3, imm := 2 }]), (.vshfl (hd 0) { v0 with cc := 3 }, [.vshfl (hd 0) { v0 with cc := 4 }]),
    (.vred (hd 0) { v0 with cc := 5, ty := 1 }, [.vred (hd 0) { v0 with cc := 6, ty := 1 }, .vred (hd 0) { v0 with cc := 3, ty := 3 }, .vred (hd 0) { v0 with cc := 8, ty := 1, vd := 64 }, .vred (hd 0) { v0 with ty := 3, rm := 5 }]),
    (.vballot (hd 0) { v0 with vd := 63 }, [.vballot (hd 0) { v0 with vd := 64 }, .vballot (hd 0) { v0 with cc := 1 }, .vballot (hd 0) { v0 with ty := 4 }]), (.vdot4 (hd 0) { w0 with ty := 8, rm := 7 }, [.vdot4 (hd 0) { w0 with ty := 6, rm := 5 }, .vdot4 (hd 0) w0]),
    (.vmad (hd 0) { w0 with ty := 2 }, [.vmad (hd 0) w0]), (.vpfma (hd 7) { w0 with ty := 5 }, [.vpfma (hd 8) { w0 with ty := 5 }])] : List (Instr × List Instr)).all refuses = true := by
  decide +kernel

/-- Address modes, sizes, alignment of data registers, tags and atomic forms (R232, R299 to R310). -/
theorem test_refuses_memory : ([(.ld (hd 0) { m0 with am := 2, ms := 2 }, [.ld (hd 0) { m0 with am := 3 }, .ld (hd 0) { m0 with am := 2, ms := 1 }]), (.ld (hd 0) { m0 with sz := 6, md := 4 }, [.ld (hd 0) { m0 with sz := 7 }, .ld (hd 0) { m0 with sz := 6, md := 2 }, .ld (hd 0) { m0 with sz := 5, md := 1 }]),
    (.ld (hd 0) { m0 with mop := 14 }, [.ld (hd 0) { m0 with mop := 15 }, .ld (hd 0) { m0 with sz := 0, mop := 1 }]), (.st (hd 0) { m0 with sz := 2 }, [.st (hd 0) { m0 with sz := 1 }]),
    (.ldx (hd 0) { m0 with mc := 15 }, [.ldx (hd 0) { m0 with mc := 16 }, .ldx (hd 0) { m0 with xv := true }, .ldx (hd 0) { m0 with sz := 5 }, .ldx (hd 0) { m0 with am := 1 }]), (.lda (hd 0) { m0 with am := 1 }, [.lda (hd 0) m0]), (.stat (hd 0) { m0 with am := 2 }, [.stat (hd 0) m0]),
    (.atom (hd 0) { m0 with mp := 4, mop := 7 }, [.atom (hd 0) { m0 with mp := 4, mop := 2 }, .atom (hd 0) { m0 with mop := 3 }, .atom (hd 0) { m0 with mp := 2, sz := 5 }, .atom (hd 0) { m0 with sz := 5, mc := 1 }, .atom (hd 0) { m0 with mp := 5 }]),
    (.atoma (hd 0) { m0 with am := 2, mp := 4, mop := 4 }, [.atoma (hd 0) { m0 with am := 2, mp := 4 }, .atoma (hd 0) m0]), (.ldlod (hd 0) { m0 with am := 2, xv := true, mc := 1 }, [.ldlod (hd 0) { m0 with am := 2, xv := true }, .ldlod (hd 0) { m0 with am := 2, mc := 1 }]),
    (.txg (hd 0) { m0 with am := 2, xv := true, mc := 6, mp := 2 }, [.txg (hd 0) { m0 with am := 2, xv := true, mc := 5 }, .txg (hd 0) { m0 with am := 2, xv := true, mc := 6, mp := 3 }]), (.resqFb (hd 1) { m0 with am := 2, xv := true }, [.resqFb (hd 1) { m0 with am := 2 }])] : List (Instr × List Instr)).all refuses = true := by
  decide +kernel

/-- Pairs, status registers, barriers, operations and counts of the A format (R233, R311 to R319). -/
theorem test_refuses_copies : ([(.cpy (hd 0) { ab with se := true, st := 63 }, [.cpy (hd 0) { ab with se := true, st := 64 }, .cpy (hd 0) { ab with se := true, sv := true }, .cpy (hd 0) { ab with asrc := 1 }, .cpy (hd 0) { ab with ad := 1 }, .cpy (hd 0) { ab with be := true, ba := 1 }, .cpy (hd 1) ab]),
    (.cpyz (hd 0) ab, [.cpyz (hd 0) { ab with fo := true }]), (.cpyr (hd 0) ab, [.cpyr (hd 8) ab, .cpyr (hd 33) ab, .cpyr (hd 0) { ab with fo := true }]), (.cpyr (hd 35) ab, []), (.cpyl (hd 0) { ab with se := true, sv := true }, [.cpyl (hd 0) { ab with se := true }, .cpyl (hd 0) { ab with ai := 1 }, .cpyl (hd 0) { ab with fo := true }]),
    (.cpytLd (hd 0) { ab with al := 58 }, [.cpytLd (hd 0) { ab with al := 59 }, .cpytLd (hd 0) { ab with ax := 1 }]), (.cpytSt (hd 1) ab, [.cpytSt (hd 1) { ab with fo := true }]), (.twall (hd 1) { ab with asrc := 1 }, [.twall (hd 0) { ab with asrc := 1 }]), (.twany (hd 0) ab, [.twany (hd 0) { ab with ad := 1 }]),
    (.abinit (hd 0) ab, [.abinit (hd 2) ab, .abinit (hd 0) { ab with ba := 1 }, .abinit (hd 0) { ab with sv := true }]), (.flacqC (hd 1) { ab with se := true, st := 63 }, [.flacqC (hd 1) { ab with se := true, st := 64 }, .flacqC (hd 1) { ab with asrc := 1 }]),
    (.bana (hd 0) { ab with tg := 7, ai := 48 }, [.bana (hd 0) { ab with tg := 8, ai := 48 }, .bana (hd 0) { ab with ai := 49 }, .bana (hd 0) ab, .bana (hd 0) { ab with ai := 1, se := true, st := 64 }])] : List (Instr × List Instr)).all refuses = true := by
  decide +kernel

/-- Formats, shapes, ranges of accumulators and row counts of the X format (R326 to R348). -/
theorem test_refuses_array : ([(.ldwMem (hd 0) { x0 with xi := 0xFD }, [.ldwMem (hd 0) { x0 with xi := 6 }, .ldwMem (hd 0) { x0 with xi := 0x1F8 }, .ldwMem (hd 0) { x0 with xsa := 1 }]), (.ldwSmp (hd 1) { x0 with xi := 0x100 }, [.ldwSmp (hd 1) { x0 with xi := 0x200 }]), (.mma (hd 0) { x0 with af := 3 }, [.mma (hd 0) { x0 with af := 4 }]),
    (.vxm (hd 0) { x0 with af := 3 }, [.vxm (hd 0) { x0 with af := 4 }]), (.accz (hd 0) { x0 with xa := 8, xi := 7 }, [.accz (hd 0) { x0 with xa := 8, xi := 8 }]), (.accstPost (hd 1) { x0 with xm := 31 }, [.accstPost (hd 1) { x0 with xm := 32 }]), (.preopLin (hd 0) { x0 with xi := 8192 }, [.preopLin (hd 0) { x0 with xi := 8193 }]),
    (.edge (hd 0) { x0 with af := 4, xa := 8, xm := 79 }, [.edge (hd 0) { x0 with af := 4, xa := 8, xm := 80 }, .edge (hd 0) { x0 with af := 4, xa := 9, xm := 79 }, .edge (hd 0) x0]), (.blend (hd 0) { x0 with af := 4 }, [.blend (hd 0) { x0 with af := 4, xsb := 1 }, .blend (hd 0) x0]),
    (.rslvLt (hd 0) { x0 with xm := 9 }, [.rslvLt (hd 0) { x0 with xm := 10 }]), (.binfl (hd 0) x0, [.binfl (hd 0) { x0 with xsa := 1 }])] : List (Instr × List Instr)).all refuses = true := by
  decide +kernel

/-- Pairs, options and selectors of the T format (R349 to R368), and the assigned opcodes. -/
theorem test_refuses_tasks : ([(.spawn (hd 0) { t0 with topt := 2 }, [.spawn (hd 0) { t0 with topt := 4 }, .spawn (hd 0) { t0 with topt := 1 }, .spawn (hd 0) { t0 with tsa := 1 }]), (.spawnLane (hd 0) { t0 with topt := 3 }, [.spawnLane (hd 0) t0, .spawnLane (hd 0) { t0 with topt := 1, tv := 1 }]),
    (.spawnc (hd 0) { t0 with topt := 7 }, [.spawnc (hd 0) { t0 with topt := 8 }, .spawnc (hd 0) { t0 with tsc := 1 }]), (.await (hd 0) t0, [.await (hd 0) { t0 with topt := 1 }]), (.fres (hd 1) { t0 with tsb := 1 }, [.fres (hd 0) { t0 with tsb := 1 }, .fres (hd 0) { t0 with tsa := 1 }]),
    (.fwait (hd 0) { t0 with tsc := 2 }, [.fwait (hd 0) t0, .fwait (hd 0) { t0 with tsc := 1 }, .fwait (hd 0) { t0 with tsb := 1, tsc := 4 }]), (.ctxrd (hd 0) { t0 with ti := 5 }, [.ctxrd (hd 0) { t0 with ti := 6 }, .ctxrd (hd 0) { t0 with tsb := 1 }]), (.ctxwr (hd 0) { t0 with ti := 4 }, [.ctxwr (hd 0) { t0 with ti := 3 }]),
    (.tlbinvAsid (hd 0) { t0 with topt := 1, tsa := 1 }, [.tlbinvAsid (hd 0) t0]), (.mapqFn (hd 0) { t0 with topt := 2 }, [.mapqFn (hd 0) { t0 with topt := 3 }]),
    (.unassignedOpcode 0x1C0000000000000000000000, [.unassignedOpcode 0])] : List (Instr × List Instr)).all refuses = true := by
  decide +kernel

/-! ## For each statement, states and operands that meet its hypotheses -/

/-- The header an instruction is encoded with. -/
def hdrOf (i : Instr) : Hdr := unpackHdr ((encode i).getD 0)

/-- What a clause asks of an instruction's form and of the split that issues it, computed. -/
def forms (s : State) (l : List (Instr × (Env → Bool))) : Bool :=
  match Env.of s s.focus with
  | some e => l.all fun x => e.legal x.1 && e.g (hdrOf x.1) != 0 && x.2 e
  | none => false

/-- In one state, each form performs and the rest of its clause's hypotheses hold. -/
def Meets (s : State) (l : List (Instr × (Env → Bool))) : Prop :=
  ∃ e, ∀ x ∈ l, Performs s e x.1 (hdrOf x.1) ∧ x.2 e = true

theorem meets {s : State} {l : List (Instr × (Env → Bool))} (q : forms s l = true) : Meets s l := by
  unfold forms at q
  split at q
  · rename_i e he
    refine ⟨e, fun x hx => ?_⟩
    have h := List.all_eq_true.mp q x hx
    simp only [Bool.and_eq_true, bne_iff_ne, ne_eq] at h
    exact ⟨⟨he, h.1.1, h.1.2⟩, h.2⟩
  · cases q

/-- Nothing more is asked. -/
def also : Env → Bool := fun _ => true

/-- Context 1 on core 0 with one group in slot 0, loaded as a launch leaves it: split 0 at PC 0, every register 0. The device is powered and its dies have authenticated. -/
def st : State :=
  { State.reset.loadContext with powered := true, dies := mapEach State.reset.dies fun (d : Die) => { d with auth := true } }
def withGroup (f : Group → Group) : State := st.modGroup 1 0 f
def withSplit (f : Split → Split) : State := st.modSplit 1 0 0 f
/-- Vector register r holds x in every lane, with a tag. -/
def putV (r : Nat) (tag : BitVec 4) (x : W32) (g : Group) : Group := { g with v := insert g.v r ⟨tag, lanesBy fun _ => x⟩ }
/-- Uniform pairs of split 0, by their low register. -/
def withPairs (l : List (Nat × W64)) : State :=
  withSplit fun sp => { sp with u := l.foldl (fun u x => (u.setIfInBounds x.1 (x.2.extractLsb' 0 32)).setIfInBounds (x.1 + 1) (x.2.extractLsb' 32 32)) sp.u }

/-- What a clause asks of the split at the focus, computed. -/
def here (s : State) (p : Env → Bool) : Bool := match Env.of s s.focus with | some e => p e | none => false

/-- `Env.lands` and `Env.canSend`, computed. -/
def lands (e : Env) (pc : W64) : Bool :=
  canonical pc && pcFormed pc && ((e.s.core e.f.core).findLine e.asid pc).any fun l => tgtBit l (slotOf pc)
def canSend (e : Env) (t : Mask) : Bool :=
  !e.diverges t || (!e.group.owesUniform e.f.split && (e.group.freeSplit.isSome || e.group.stack.length < 64))

theorem lands_iff (e : Env) (pc : W64) : lands e pc = true ↔ e.lands pc := by
  simp only [lands, Env.lands, Bool.and_eq_true, Option.any_eq_true, and_assoc]

theorem canSend_iff (e : Env) (t : Mask) : canSend e t = true ↔ e.canSend t := by
  cases h : e.diverges t <;> simp [canSend, Env.canSend, h]

/-! ### Uniform and vector instructions -/

theorem meets_UniformArithmetic : Meets st ([hd 0, hd 1, hd 4, hd 7].flatMap fun h => [(.sadd h u0, also), (.ssub h u0, also), (.smul h u0, also), (.smad h u0, also)]) :=
  meets (by decide +kernel)

theorem meets_UniformArithmetic_moves : Meets st ([hd 0, hd 1].flatMap fun h => [(.smov h u0, also), (.smovi h u0, also), (.sand h u0, also), (.sor h u0, also),
    (.sxor h u0, also), (.sshl h u0, also), (.sshr h u0, also), (.ssra h u0, also), (.smin h u0, also), (.smax h u0, also), (.smulh h u0, also)]) :=
  meets (by decide +kernel)

theorem meets_UniformCountsCompareFields : Meets st ([(.spopc (hd 0) u0, also), (.sclz (hd 1) u0, also), (.ssel (hd 1) u0, also), (.ssel (hd 8) u0, also),
    (.ssel (hd 16) u0, also), (.sbfx (hd 2) { u0 with x8 := 31, imm := 1 }, also), (.sbfi (hd 1) { u0 with imm := 64 }, also),
    (.slea (hd 0) { u0 with x8 := 63 }, also)] ++ (List.range 6).map fun k => (.scmp (hd 0) { u0 with x8 := BitVec.ofNat 8 k }, also)) :=
  meets (by decide +kernel)

theorem meets_UniformSpecialRegisters : Meets (withGroup fun g => putV 1 2 0 (putV 2 14 0 g)) [(.srd (hd 0) u0, also), (.srd (hd 0) { u0 with x8 := 7 }, also),
    (.srd (hd 0) { u0 with x8 := 8 }, also), (.srdV (hd 1) u0, also), (.swr (hd 0) { u0 with x8 := 14 }, also), (.sballot (hd 0) u0, also),
    (.swrV (hd 1) { u0 with x8 := 14, imm := 1 }, fun e => (e.group.vreg 1).tag == 2), (.swrV (hd 1) { u0 with x8 := 14, imm := 2 }, fun e => (e.group.vreg 2).tag == 14)] :=
  meets (by decide +kernel)

/-- Register vK carries tag K for K up to 14, v15 and those from v24 on N32, v16 to v19 F32 and v20 to v23 I32. -/
def tagged : State := withGroup fun g => (List.range 32).foldl (fun g k => putV k (BitVec.ofNat 4 (if k < 15 then k else if k = 15 ∨ 24 ≤ k then 2 else if k < 20 then 3 else 1)) 5 g) g
/-- Bodies whose operands carry the tag of a type: register K for TY K. -/
def vt (ty : BitVec 4) : VBody := { v0 with ty := ty, va := ty.setWidth 8, vb := ty.setWidth 8 }
def wt (ty : BitVec 4) : V3Body := { w0 with ty := ty, va := ty.setWidth 8, vb := ty.setWidth 8, vc := ty.setWidth 8 }
def okA (b : VBody) : Env → Bool := tagA b (tyAccepts b.ty.toNat)
def okAB (b : VBody) : Env → Bool := tagsAB b (tyAccepts b.ty.toNat)
def okABC (c : V3Body) : Env → Bool := tags3 c (tyAccepts c.ty.toNat) (tyAccepts c.ty.toNat) (tyAccepts c.ty.toNat)
/-- A conversion's source and target. -/
def cvt (x : BitVec 4 × BitVec 4) : VBody := { v0 with cc := x.1, ty := x.2, va := x.1.setWidth 8, vb := x.1.setWidth 8 }

theorem meets_VectorIntegers : Meets tagged (
    ([1, 2, 8, 9, 10, 14].flatMap fun t => [(.vadd (hd 0) (vt t), okAB (vt t)), (.vsub (hd 0) { vt t with sat := true }, okAB (vt t)),
      (.vmin (hd 0) (vt t), okAB (vt t)), (.vmax (hd 0) (vt t), okAB (vt t))]) ++
    ([1, 2, 8, 9, 10].map fun t => (.vmul (hd 0) (vt t), okAB (vt t))) ++ ([1, 8, 10].map fun t => (.vabs (hd 0) (vt t), okA (vt t))) ++
    [(.vmulh (hd 0) (vt 1), okAB (vt 1)), (.vmulh (hd 0) (vt 2), okAB (vt 2)), (.vmad (hd 0) (wt 1), okABC (wt 1)), (.vmad (hd 0) (wt 2), okABC (wt 2))]) :=
  meets (by decide +kernel)

theorem meets_VectorBits : Meets tagged (
    [(.vand (hd 0) (vt 1), tagsAB (vt 1) anyTag), (.vor (hd 0) (vt 1), tagsAB (vt 1) anyTag), (.vxor (hd 0) (vt 1), tagsAB (vt 1) anyTag), (.vnot (hd 0) (vt 1), tagA (vt 1) anyTag),
     (.vmov (hd 0) (vt 1), tagA (vt 1) anyTag), (.vmovi (hd 0) v0, also), (.vtag (hd 0) v0, also), (.vbfx (hd 0) { vt 2 with imm := 0x021E }, okA (vt 2)),
     (.vbfi (hd 0) { wt 0 with vb := 2 }, tags3 { wt 0 with vb := 2 } (tyAccepts 0) indexTag (tyAccepts 0)),
     (.vsel (hd 0) { wt 1 with vb := 2 }, fun e => anyTag (e.v 1).tag && anyTag (e.v 2).tag)] ++
    ([0, 1, 2].flatMap fun t => let b : VBody := { vt t with vb := 2 }
      [(.vshl (hd 0) b, fun e => okA b e && indexTag (e.v b.vb).tag), (.vshr (hd 0) { b with ib := true }, okA b), (.vsra (hd 0) b, fun e => okA b e && indexTag (e.v b.vb).tag),
       (.vpopc (hd 0) b, okA b), (.vclz (hd 0) b, okA b)])) :=
  meets (by decide +kernel)

theorem meets_VectorCompares : Meets tagged (
    ((List.range 6).map fun k => (.vcmp (hd 0) { vt 1 with cc := BitVec.ofNat 4 k }, okAB (vt 1))) ++ ((List.range 8).map fun k => (.vfcmp (hd 1) { vt 3 with cc := BitVec.ofNat 4 k }, okAB (vt 3))) ++
    [(.vfclass (hd 0) (vt 3), okA (vt 3))] ++ ([0, 1, 2, 3, 14].map fun t => (.vballot (hd 0) (vt t), okA (vt t)))) :=
  meets (by decide +kernel)

theorem meets_VectorFloats : Meets tagged (
    [(.vfadd (hd 3) { vt 3 with rm := 4 }, okAB (vt 3)), (.vfmul (hd 0) (vt 3), okAB (vt 3)), (.vfma (hd 7) (wt 3), okABC (wt 3))] ++
    ([4, 5].flatMap fun t => [(.vpadd (hd 0) (vt t), okAB (vt t)), (.vpmul (hd 0) (vt t), okAB (vt t)), (.vpfma (hd 0) (wt t), okABC (wt t))])) :=
  meets (by decide +kernel)

theorem meets_VectorRootsMinMax : Meets tagged (
    [(.vfsqrt (hd 0) (vt 3), okA (vt 3)), (.vfrnd (hd 0) (vt 3), okA (vt 3)), (.vffrc (hd 0) (vt 3), okA (vt 3)), (.vfmin (hd 0) (vt 3), okAB (vt 3)), (.vfmax (hd 0) (vt 3), okAB (vt 3))] ++
    ([4, 5].flatMap fun t => [(.vpmin (hd 0) (vt t), okAB (vt t)), (.vpmax (hd 0) (vt t), okAB (vt t))])) :=
  meets (by decide +kernel)

theorem meets_VectorApproximations : Meets tagged (
    [(.vfrcp (hd 0) (vt 3), okA (vt 3)), (.vfrsq (hd 0) (vt 3), okA (vt 3)), (.vfexp2 (hd 0) (vt 3), okA (vt 3)), (.vflog2 (hd 0) (vt 3), okA (vt 3)),
     (.vfsin (hd 0) (vt 3), okA (vt 3)), (.vfcos (hd 0) (vt 3), okA (vt 3))]) :=
  meets (by decide +kernel)

theorem meets_VectorConversions : Meets tagged (
    ([(1, 1), (3, 3), (1, 2), (8, 9), (2, 1), (9, 8), (1, 3), (5, 4), (8, 7), (3, 1), (6, 8), (4, 10), (3, 2), (7, 9), (12, 13), (13, 12), (3, 11)] : List (BitVec 4 × BitVec 4)).map
      fun x => (.vcvt (hd 0) (cvt x), tagA (cvt x) (tyAccepts x.1.toNat))) :=
  meets (by decide +kernel)

theorem meets_VectorPacking : Meets tagged (
    (([(3, 6), (3, 12), (3, 13), (3, 15), (1, 8)] : List (BitVec 4 × BitVec 4)).map fun x => let b : VBody := { cvt x with va := if x.1 = 3 then 16 else 20 }
      (.vpack (hd 0) b, fun e => packPair4 x.1.toNat x.2.toNat && (List.range 4).all fun k => tyAccepts x.1.toNat (e.group.vreg (b.va.toNat + k)).tag)) ++
    (([(3, 4), (1, 10), (10, 9)] : List (BitVec 4 × BitVec 4)).map fun x => (.vpack (hd 0) (cvt x), fun e => !packPair4 x.1.toNat x.2.toNat && tagsAB (cvt x) (tyAccepts x.1.toNat) e)) ++
    (([(6, 4), (12, 3), (13, 3), (15, 3)] : List (BitVec 4 × BitVec 4)).map fun x => (.vunpk (hd 0) (cvt x), tagA (cvt x) (tyAccepts x.1.toNat)))) :=
  meets (by decide +kernel)

theorem meets_VectorBits_shuffles : Meets tagged (
    ((List.range 4).map fun k => (.vshfl (hd 0) { vt 3 with cc := BitVec.ofNat 4 k, vb := 2 }, fun e => anyTag (e.v 3).tag && indexTag (e.v 2).tag)) ++
    [(.vshfl (hd 0) { v0 with ib := true }, fun e => anyTag (e.v 0).tag), (.vbcast (hd 0) v0, fun e => anyTag (e.v 0).tag), (.vbcast (hd 1) v0, fun e => anyTag (e.v 0).tag)]) :=
  meets (by decide +kernel)

theorem meets_VectorReductions : Meets tagged (
    ([(0, 1), (0, 3), (1, 3), (5, 2), (8, 1)] : List (BitVec 4 × BitVec 4)).flatMap fun x =>
      [(.vred (hd 0) { vt x.2 with cc := x.1, rm := 4 }, okA (vt x.2)), (.vscan (hd 0) { vt x.2 with cc := x.1, rm := 4 }, okA (vt x.2))]) :=
  meets (by decide +kernel)

theorem meets_VectorDots : Meets tagged (
    ([8, 9].map fun t => (.vdot4 (hd 0) { wt t with vc := 1 }, fun e => !isFloatTy t.toNat && tags3 { wt t with vc := 1 } (tyAccepts t.toNat) (tyAccepts t.toNat) (tyAccepts 1) e)) ++
    ([6, 7].map fun t => (.vdot4 (hd 0) { wt t with vc := 3 }, fun e => isFloatTy t.toNat && tags3 { wt t with vc := 3 } (tyAccepts t.toNat) (tyAccepts t.toNat) (tyAccepts 3) e)) ++
    [(.vdot2 (hd 0) { wt 10 with vc := 1 }, tags3 { wt 10 with vc := 1 } (tyAccepts 10) (tyAccepts 10) (tyAccepts 1))] ++
    ([4, 5].map fun t => (.vdot2 (hd 0) { wt t with vc := 3 }, tags3 { wt t with vc := 3 } (tyAccepts t.toNat) (tyAccepts t.toNat) (tyAccepts 3))) ++
    ([3, 4, 5].map fun t => (.vlerp (hd 0) { wt t with rm := 3 }, okABC (wt t)))) :=
  meets (by decide +kernel)

/-! ### Issue and control -/

/-- A header guarded by p0. -/
def gp (sub : BitVec 6) : Hdr := ⟨sub, false, 0, false, 0⟩
/-- A context that is no supervisor. -/
def userSt : State := st.modCtx 1 fun c => { c with sup := false }

theorem meets_IllegalAndUnguarded :
    here st (fun e => !e.legal (.sadd (hd 8) u0) && (encode (.sadd (hd 8) u0)).isSome && e.legal (.await (hd 0) t0) && !privileged (.await (hd 0) t0)) = true ∧
    here userSt (fun e => !e.ctx.sup && !e.legal (.ctxrd (hd 0) t0) && e.legal (.hint 0x3FF)) = true ∧
    here st (fun e => [.sadd (gp 0) u0, .vadd (gp 0) { v0 with ty := 1 }, .st (gp 0) m0, .spawn (gp 0) t0].all fun i => e.legal i && e.g (hdrOf i) == 0 && (encode i).isSome) = true := by
  decide +kernel

/-- The lowest and the highest lane alone fail an early check: a misaligned Alcove address. -/
def oneLane (l : Nat) : State := withGroup fun g => putV 1 2 0 { g with v := insert g.v 4 ⟨2, lanesBy fun k => if k == l then 1 else 0⟩ }
def failing (l : Nat) (b : MBody) (tags : List (Nat × (BitVec 4 → Bool))) (e : Env) : Bool :=
  let n : Nat := szBytes b.sz.toNat
  ((e.left (e.g (hd 0))).filter fun k => (e.early .any n n (e.laneAddr b k)).isSome).head? == some l &&
    e.early .any n n (e.laneAddr b l) == some .misaligned && e.tagsOk tags

theorem meets_FaultsTaken : here st (fun e => e.ctx.st == .running) = true ∧ ∀ l ∈ [0, 31],
    let b : MBody := { m0 with am := 1, xv := true, mx := 4, mc := 1, md := 1 }
    let a : MBody := { b with mp := 1 }
    forms (oneLane l) [(.ld (hd 0) b, failing l b (offsetTags b)), (.st (hd 0) b, failing l b (offsetTags b ++ dataTags b.md (szRegs b))),
      (.atom (hd 0) a, failing l a (atomTags a)), (.atomNr (hd 1) a, failing l a (atomTags a))] = true := by
  decide +kernel

/-- The line of PC 0 is cached: a PAD with label 0, TGT set for slot 0 alone. -/
def fetched (s : State) : State := s.putWord ⟨0, 0, 0⟩ 0x2201C0000000000000000000
/-- p0 names lane 5 alone. -/
def halfGuard (s : State) : State := s.modGroup 1 0 fun g => { g with p := g.p.setIfInBounds 0 0x20 }
/-- Split 1 beside split 0. -/
def twoSplits (s : State) : State := s.modGroup 1 0 fun g => { g with splits := g.splits.setIfInBounds 1 (g.split 0) }
/-- All four splits in use. -/
def fourSplits (s : State) : State := s.modGroup 1 0 fun g => { g with splits := Vector.replicate 4 (g.split 0) }

theorem meets_ControlForms :
    forms (fetched st) [(.br (hd 0) c0, fun e => canSend e (e.g (hd 0)) && lands e (branchTarget e.sp.pc c0)), (.ret (hd 0) c0, fun e => lands e (e.u64 0)),
      (.call (hd 0) c0, fun e => lands e (branchTarget e.sp.pc c0)), (.pad (hd 0) c0, also), (.nop (hx 1) c0, fun e => canSend e (e.g (hd 0)) && lands e (branchTarget e.sp.pc c0)),
      (.yield (hd 0) c0, also), (.join (hx 1) c0, fun e => e.group.stack.isEmpty && (e.group.split 1).isNone && (e.group.split 2).isNone && (e.group.split 3).isNone)] = true ∧
    forms (halfGuard (fetched st)) [(.br (gp 0) c0, fun e => e.diverges (e.g (gp 0)) && canSend e (e.g (gp 0))), (.call (gp 0) c0, also)] = true ∧
    forms (twoSplits st) [(.join (hd 0) c0, fun e => (e.group.split 1).isSome && e.sp.unfinished == none)] = true ∧
    forms ((twoSplits st).modSplit 1 0 0 fun sp => { sp with unfinished := some 0 }) [(.join (hd 0) c0, fun e => e.sp.unfinished == some 0)] = true := by
  decide +kernel

theorem meets_BranchDivides :
    here st (fun e => !e.diverges e.sp.mask) = true ∧
    here st (fun e => e.diverges 0x80000000 && (0x80000000#32 &&& ~~~e.sp.mask) == 0 && e.group.freeSplit == some 1) = true ∧
    here (fourSplits st) (fun e => e.diverges 1 && e.group.freeSplit == none) = true := by
  decide +kernel

theorem meets_BadTargetsDebugTraps :
    forms (withPairs [(0, 0x0200000000000000)]) [(.ret (hd 0) c0, fun e => !canonical (e.u64 0))] = true ∧
    forms (withPairs [(0, 5)]) [(.ret (hd 0) c0, fun e => canonical (e.u64 0) && !pcFormed (e.u64 0))] = true ∧
    forms (fetched (withPairs [(0, 4)])) [(.ret (hd 0) c0, fun e => canonical (e.u64 0) && pcFormed (e.u64 0) &&
      ((e.s.core 0).findLine e.asid (e.u64 0)).any fun l => !tgtBit l (slotOf (e.u64 0)))] = true ∧
    forms st [(.trap (hd 0) c0, also), (.bkpt (hd 0) c0, fun e => !e.ctx.bkptNop)] = true ∧
    forms (st.modCtx 1 fun c => { c with bkptNop := true }) [(.bkpt (hd 0) c0, fun e => e.ctx.bkptNop)] = true := by
  decide +kernel

theorem meets_LoopsAndExits :
    forms (fetched (withPairs [(0, 1)])) [(.loop (hd 0) c0, fun e => e.u 0 == 1), (.loop (hd 0) { c0 with cx := 1 }, fun e => e.u64 0 == 1),
      (.exit (hd 0) c0, fun e => e.sp.mask &&& ~~~e.g (hd 0) == 0)] = true ∧
    forms (halfGuard (fetched (withPairs [(0, 0)]))) [(.loop (gp 0) c0, fun e => e.u 0 != 1 && lands e (branchTarget e.sp.pc c0) && canSend e (e.g (gp 0))),
      (.loop (gp 0) { c0 with cx := 1 }, fun e => e.u64 0 != 1), (.exit (gp 0) c0, fun e => e.sp.mask &&& ~~~e.g (gp 0) != 0)] = true := by
  decide +kernel

/-- Indices 0 in v1; the table at an Alcove address, whose bytes are 0, sends every lane to PC 0. -/
def tabled (base : W64) (x : W32) : State := fetched ((withPairs [(2, base)]).modGroup 1 0 (putV 1 2 x))

def tb : CBody := { c0 with ca := 2, cv := 1, cx := 1 }
/-- Every lane's index is in the table's one entry. -/
def inTable (e : Env) : Bool := (List.range 32).all fun l => decide (0 ≤ e.laneIndex 1 l) && decide (e.laneIndex 1 l < 1)
def toZero (e : Env) : Bool := match e.tableEntries (e.u64 2) (e.g (hd 0)) [0] e.s with | .ok r => r.2 == [(0, 0)] | _ => false

theorem meets_TableBranches :
    forms (tabled (alcoveBase + 8) 0) [(.brx (hd 0) tb, fun e => indexTag (e.v 1).tag && (e.u64 2).toNat % 16 != 0)] = true ∧
    forms (tabled alcoveBase 1) [(.brx (hd 0) tb, fun e => (e.u64 2).toNat % 16 == 0 && decide (1 ≤ e.laneIndex 1 0))] = true ∧
    forms (tabled alcoveBase 0) [(.brx (hd 0) tb, fun e => (e.u64 2).toNat % 16 == 0 && inTable e && !e.group.owesUniform 0 && e.group.stack.isEmpty && toZero e)] = true := by
  decide +kernel

/-! ### Memory and texels -/

/-- `Env.clear`, computed. -/
def clr (todo : Mask) (acc : Accept) (n align : Nat) (addr : Nat → Addr) (e : Env) : Bool :=
  (e.left todo).all fun i => (e.early acc n align (addr i)).isNone && (lookup e.sp.badPages (lookupPage (e.vaOf (addr i)))).isNone

/-- Lookup page 1 is TYPE memory and page 2 the Atrium, both readable and writable; pairs 0 and 2 hold an address. -/
def paged (a : W64) : State := ((withPairs [(0, a), (2, a)]).modGroup 1 0 fun g => putV 4 2 0 (putV 1 2 0 g)).modCore 0 fun c =>
  { c with tlb1 := [⟨0, 1, 18, 0x31, 0x100000⟩, ⟨0, 2, 18, 0x35, 0⟩] }
/-- The answers that the instruction awaited have all come. -/
def answeredAll (s : State) : State := s.modSplit 1 0 0 fun sp => { sp with unfinished := some 0 }

/-- A form of one lane each at an Alcove address; a line in the Alcove, and two lines at pair 0. -/
def mLane : MBody := { m0 with am := 1, xv := true, mx := 4, md := 1, mc := 1 }
def mAlc : MBody := { m0 with am := 1, ms := 10, md := 1 }
def mLine : MBody := { m0 with am := 2, md := 1, mc := 1 }

def laneLoad (b : MBody) (e : Env) : Bool :=
  let n : Nat := szBytes b.sz.toNat
  e.tagsOk (offsetTags b) && clr (e.g (hd 0)) .any n n (e.laneAddr b) e && (e.answered .load .any n (e.laneAddr b)
    (fun l => e.loads (.vecLane e.f b.md.toNat l n (b.sz == 1 || b.sz == 3) (loadTag b)) (BitVec.twoPow 32 l) (e.vaOf (e.laneAddr b l)) n
      (b.sz == 1 || b.sz == 3)) (e.left (e.g (hd 0))) e.s).isSome
def lineLoads (acc : Accept) (align : Nat) (b : MBody) (e : Env) : Bool :=
  clr (linesOf b) acc 128 align (e.lineAddr b) e &&
    (e.answered .load acc 128 (e.lineAddr b) (e.loadLine b (e.g (hd 0))) (e.left (linesOf b)) e.s).isSome
def scalarLoad (u : UBody) (e : Env) : Bool :=
  let k : Nat := szBytes 4
  clr 1 .any k k (fun _ => .va (e.scalarAddr u)) e && (e.answered .load .any k (fun _ => .va (e.scalarAddr u))
    (fun _ => e.loads (.uni e.f u.sd.toNat k false) 1 (e.scalarAddr u) k false) (e.left 1) e.s).isSome
def laneStore (b : MBody) (e : Env) : Bool :=
  let n : Nat := szBytes b.sz.toNat
  e.tagsOk (offsetTags b ++ dataTags b.md (szRegs b)) && clr (e.g (hd 0)) .any n n (e.laneAddr b) e && (e.answered .store .any n (e.laneAddr b)
    (fun l p s => .done (e.storeAt (e.vaOf (e.laneAddr b l)) n (e.laneData b.md n l) p s) []) (e.left (e.g (hd 0))) e.s).isSome
def lineStores (acc : Accept) (align : Nat) (b : MBody) (e : Env) : Bool :=
  e.tagsOk (dataTags b.md (b.mc.toNat + 1)) && clr (linesOf b) acc 128 align (e.lineAddr b) e && (e.answered .store acc 128 (e.lineAddr b)
    (fun j p s => .done (e.storeLine b (e.g (hd 0)) j p s) []) (e.left (linesOf b)) e.s).isSome
def scalarStore (u : UBody) (e : Env) : Bool :=
  let k : Nat := szBytes 4
  clr 1 .any k k (fun _ => .va (e.scalarAddr u)) e && (e.answered .store .any k (fun _ => .va (e.scalarAddr u))
    (fun _ p s => .done (e.storeAt (e.scalarAddr u) k (e.u u.sb).toNat p s) []) (e.left 1) e.s).isSome

theorem meets_LoadsComplete :
    forms (paged alcoveBase) [(.ld (hd 0) mLane, laneLoad mLane), (.sld (hd 4) u0, scalarLoad u0), (.lda (hd 0) mAlc, lineLoads .any 4 mAlc)] = true ∧
    forms (answeredAll (paged 0x40000)) [(.ldx (hd 0) mLine, lineLoads .noAlcove 128 mLine)] = true ∧
    forms (answeredAll (paged 0x80000)) [(.ldat (hd 0) mLine, lineLoads .atrium 64 mLine)] = true := by
  decide +kernel

theorem meets_StoresComplete :
    forms (paged alcoveBase) [(.st (hd 0) mLane, laneStore mLane), (.sst (hd 4) u0, scalarStore u0),
      (.sta (hd 0) mAlc, lineStores .any 4 mAlc)] = true ∧
    forms (paged 0x40000) [(.stx (hd 0) mLine, lineStores .noAlcove 128 mLine)] = true ∧
    forms (paged 0x80000) [(.stat (hd 0) mLine, lineStores .atrium 64 mLine)] = true := by
  decide +kernel

/-- Rows of ATOMA, at pair 0. -/
def atomaRows (b : MBody) (e : Env) : Bool :=
  let row (r : Nat) : Addr := .va (e.u64 b.ms + BitVec.ofInt 64 (b.imm.toInt + ((64 * r : Nat) : Int)))
  anyTag (e.v b.mc).tag && clr 3 .atrium 64 64 row e && (e.left 3).all fun r => match e.lookupAddr e.s 64 .atomic .atrium (row r) with
    | .ok (.atrium _) => e.goesOn .atomic .atrium 64 (e.vaOf (row r)) e.s
    | _ => false
def laneAtomic (ret : Bool) (b : MBody) (e : Env) : Bool :=
  let n : Nat := szBytes b.sz.toNat
  e.tagsOk (atomTags b) && clr (e.g (hd 0)) .any n n (e.laneAddr b) e && (e.answered .atomic .any n (e.laneAddr b) (fun l p s =>
    match e.atomicOn (if ret then .vecLane e.f b.md.toNat l n false (atomTag b.mp.toNat) else .drop) (BitVec.twoPow 32 l)
      (e.vaOf (e.laneAddr b l)) n b.mop.toNat b.mp.toNat 0 0 p s with
    | (s, some x) => .done s (if ret then wordsOf n false x else [])
    | (s, none) => .pending s) (e.left (e.g (hd 0))) e.s).isSome
/-- Every lane's page has a translation, or none has. -/
def lanesMiss (x : Bool) (b : MBody) (e : Env) : Bool := (e.left (e.g (hd 0))).all fun l => match e.lookupAddr e.s 1 .load .any (e.laneAddr b l) with
  | .miss _ => x
  | _ => !x

theorem meets_AtomicsComplete :
    forms (paged alcoveBase) [(.atom (hd 0) { mLane with mp := 1 }, laneAtomic true { mLane with mp := 1 }),
      (.atomNr (hd 1) { mLane with mp := 1 }, laneAtomic false { mLane with mp := 1 })] = true ∧
    forms (paged 0x80000) [(.atoma (hd 0) { mLine with mp := 1 }, atomaRows { mLine with mp := 1 })] = true := by
  decide +kernel

theorem meets_AnchorsPrefetchesGrants :
    forms (paged 0x40000) [(.anchor (hd 0) a0, fun e => canonical (e.u64 0)), (.prefL1 (hd 0) mLane, fun e => e.tagsOk (offsetTags mLane)),
      (.prefL2 (hd 1) mLane, fun e => e.tagsOk (offsetTags mLane))] = true ∧
    forms (paged 0x0200000000000000) [(.anchor (hd 0) a0, fun e => !canonical (e.u64 0))] = true ∧
    forms (paged 0x40000) [(.prefL1 (hd 0) { mLine with mx := 4, xv := true }, fun e => lanesMiss false { mLine with mx := 4, xv := true } e)] = true ∧
    forms (paged 0xC0000) [(.prefL1 (hd 0) { mLine with mx := 4, xv := true }, fun e => lanesMiss true { mLine with mx := 4, xv := true } e)] = true := by
  decide +kernel

def mTex : MBody := { m0 with am := 2, xv := true, md := 4, mc := 16 }
/-- A descriptor of one level of one tile at the address of page 1. -/
def described : State :=
  let s := paged 0x40000
  answeredAll { s with dram := Mem.writeN s.dram 0x100000 64 (2 ^ 192 + 9 * 2 ^ 208 + 9 * 2 ^ 216) }
def reads (good : Bool) (e : Env) : Bool := match e.lodRead (e.lodAddr mTex) (e.unfinished (e.g (hd 0))) e.s with
  | .desc _ d => e.tagsOk (coordTags mTex) && d.wellFormed == good && e.unfinished (e.g (hd 0)) == 0
  | _ => false
def texels (e : Env) : Bool := match e.lodRead (e.lodAddr mTex) 0 e.s with
  | .desc _ d => d.wellFormed && d.esz ≤ 2 && (List.range 3).all fun j => (e.group.vreg j).tag == 3
  | _ => false
/-- Coordinates in v0, v1 and v2 of a tag. -/
def coords (tag : BitVec 4) (s : State) : State := s.modGroup 1 0 fun g => putV 0 tag 0 (putV 1 tag 0 (putV 2 tag 0 g))

theorem meets_TexelLoads :
    forms (coords 2 described) [(.ldlod (hd 0) mTex, reads true), (.resq (hd 0) mTex, reads true), (.resqFb (hd 1) mTex, reads true)] = true ∧
    forms (coords 3 described) [(.txg (hd 0) mTex, texels)] = true ∧
    forms (coords 2 (answeredAll (paged 0x40000))) [(.ldlod (hd 0) mTex, reads false), (.resq (hd 0) mTex, reads false)] = true := by
  decide +kernel

/-! ### Copies, tags, barriers, flights and the banister -/

/-- A copy at pairs 0 and 2 of 64 bytes, named in s6. -/
def cpB : ABody := { ab with ad := 2, asrc := 0, al := 6, ax := 4, ba := 8 }
def cpL : ABody := { cpB with ad := 10 }
def copySt : State := (withPairs [(0, 0x40000), (2, 0x40100), (4, 0x40200), (6, 64), (8, 0x80000), (10, alcoveBase)]).modCore 0 fun c =>
  { c with tlb1 := [⟨0, 1, 18, 0x31, 0x100000⟩, ⟨0, 2, 18, 0x35, 0⟩] }
def roomy (n : Nat) (e : Env) : Bool := (e.s.core 0).ce.length + n ≤ 256 && e.releaseReady e.s && (e.crew.bind (·.tag 0)).any fun x => x.count + n ≤ 65535
def cpyOk (b : ABody) (e : Env) : Bool := roomy 1 e && (e.copyCheck [e.u64 0, e.u64 2] [] [(e.u64 0, 64), (e.u64 2, 64)] []
  (lenOk (e.copyLen (hd 0) b)) (e.copyBar b)).isNone

theorem meets_CopiesIssue :
    forms copySt [(.cpy (hd 0) cpB, cpyOk cpB), (.cpyz (hd 0) cpB, fun e => roomy 1 e &&
      (e.copyCheck [e.u64 2] [] [(e.u64 2, 64)] [] (lenOk (e.copyLen (hd 0) cpB)) none).isNone),
      (.cpyr (hd 0) { cpB with asrc := 10 }, fun e => roomy 1 e &&
      (e.copyCheck [e.u64 10, e.u64 2] [e.u64 10] [(e.u64 10, 64)] [e.u64 2] (lenOk 64) none).isNone), (.cpytLd (hd 0) cpL, fun e => roomy 1 e &&
      (e.latCheck cpL).isNone), (.cpytSt (hd 1) cpL, fun e => roomy 1 e && (e.latCheck cpL).isNone)] = true ∧
    forms copySt [(.cpy (hd 0) { cpB with be := true }, fun e => cpyOk { cpB with be := true } e &&
      match e.barPlace (e.u64 8) e.s with | .ok (_, .atrium 0) => true | _ => false)] = true ∧
    forms (copySt.modGroup 1 0 fun g => putV 9 2 32 (putV 10 2 0 (putV 12 1 0 (putV 13 1 0 g)))) [(.cpyl (hd 0) { ab with ai := 0x0A090C }, fun e => roomy 32 e && e.tagsOk [(12, anyTag), (13, anyTag), (9, indexTag), (10, fun t => t == 2)] && (lanesOf (e.g (hd 0))).all fun l => 0 ≤ e.cpylOff { ab with ai := 0x0A090C } l && e.cpylOff { ab with ai := 0x0A090C } l + 32 ≤ e.alcove.2)] = true := by
  decide +kernel

theorem meets_CopyQueued :
    (here copySt fun e => (e.s.ctx e.cid).isSome && (e.ctx.crew e.bind.crew).isSome && (e.crew.bind (·.tag 0)).isSome) = true := by
  decide +kernel

/-- One copy of tag 0 is outstanding. -/
def copying : State := st.modCrew 1 0 fun k => { k with tags := k.tags.set 0 ⟨1, 0, 0⟩ }

theorem meets_TagWaits :
    forms st [(.twall (hd 1) { ab with ai := 3 }, fun e => (e.tagMask (hd 1) { ab with ai := 3 }).all e.ready),
      (.twany (hd 1) { ab with ai := 3 }, fun e => e.tagMask (hd 1) { ab with ai := 3 } == [0, 1]),
      (.tfirst (hd 1) { ab with ai := 3 }, fun e => e.sp.wait == .none && (e.tagMask (hd 1) { ab with ai := 3 }).all e.ready),
      (.tcnt (hd 0) ab, also)] = true ∧
    forms copying [(.twall (hd 1) { ab with ai := 3 }, fun e => (e.tagMask (hd 1) { ab with ai := 3 }).any fun t => !e.ready t),
      (.twany (hd 1) { ab with ai := 1 }, fun e => e.tagMask (hd 1) { ab with ai := 1 } == [0] && !e.ready 0),
      (.tfirst (hd 1) { ab with ai := 3 }, fun e => e.sp.wait == .none && !e.ready 0)] = true ∧
    forms (st.modSplit 1 0 0 fun sp => { sp with wait := .tagFirst 1 }) [(.tfirst (hd 1) { ab with ai := 3 }, fun e => e.sp.wait == .tagFirst 1 &&
      e.ready 1)] = true := by
  decide +kernel

/-- A barrier at an Alcove address, and one in the Atrium; s6 holds a number. -/
def barSt (a : W64) (n : W64) : State := (withPairs [(8, a), (6, n)]).modCore 0 fun c => { c with tlb1 := [⟨0, 2, 18, 0x35, 0⟩] }
def barB : ABody := { ab with ba := 8, al := 6 }
def atBar (p : Bar → Bool) (e : Env) : Bool := (e.barCheck (e.u64 8)).isNone && match e.barPlace (e.u64 8) e.s with
  | .ok (t, q) => t.memWf && p (t.bar q)
  | _ => false
def quorumed (q : Nat) (s : State) : State := match Env.of s s.focus with
  | some e => e.setAlcoveWord (e.alcove.1 + 12) q s
  | none => s

theorem meets_BarrierOperations :
    forms (barSt alcoveBase 1) [(.abinit (hd 0) barB, atBar fun _ => true), (.abexp (hd 0) barB, atBar fun x => x.owed + 1 < 2 ^ 32),
      (.abwait (hd 0) barB, atBar fun x => x.phase != 1), (.abtest (hd 0) barB, atBar fun _ => true)] = true ∧
    forms (barSt 0x80000 0) [(.abinit (hd 0) barB, atBar fun _ => true), (.abwait (hd 0) barB, atBar fun x => x.phase == 0 && !x.broken)] = true ∧
    (here (barSt alcoveBase 0) fun e => match e.barPlace (e.u64 8) e.s with | .ok (t, q) => ((t.setBar q ⟨0, 0, 0, 1, 0, false, false, false, 0⟩).bar q) == ⟨0, 0, 0, 1, 0, false, false, false, 0⟩ && e.releaseReady t | _ => false) = true := by
  decide +kernel

/-- A flight of two treads at the start of the Alcove, each with HOLDER `hold` and FULL `full`. -/
def flightSt (full hold : Nat) : State := (withPairs [(0, alcoveBase)]).modCore 0 fun c =>
  { c with alcove := Mem.writeN (Mem.writeN (Mem.writeN c.alcove 8 1 2) 16 4 (treadWord full 0 hold 0)) 20 4 (treadWord full 0 hold 0) }
def flown (p : Env → Nat → Bool) (e : Env) : Bool := match e.flight ab with
  | .ok off => off == 0 && e.s.memWf && e.sp.wait == .none && p e (Mem.readN (e.s.core 0).alcove 16 4)
  | _ => false

theorem meets_Flights :
    forms (flightSt 0 0xFF) [(.flacqP (hd 0) ab, flown fun e w => e.group.resv.isEmpty && w % 4 == 0),
      (.flacqC (hd 1) ab, flown fun e w => e.group.resv.isEmpty && w % 2 == 0), (.flrelP (hd 0) ab, flown fun e _ => !e.holdsTread e.s 0 0)] = true ∧
    forms (flightSt 1 0) [(.flacqC (hd 1) ab, flown fun e w => e.group.resv.isEmpty && w % 4 == 1),
      (.flacqP (hd 0) ab, flown fun _ w => w % 2 == 1), (.flrelP (hd 0) ab, flown fun e _ => e.holdsTread e.s 0 0 && e.releaseReady e.s),
      (.flrelC (hd 1) ab, flown fun e _ => e.holdsTread e.s 0 0)] = true ∧
    forms ((flightSt 0 0xFF).modGroup 1 0 fun g => { g with resv := [⟨0, 0, false, 0⟩, ⟨0, 1, false, 0⟩] }) [(.flacqP (hd 0) ab, flown fun e _ => 2 ≤ e.group.resv.length)] = true := by
  decide +kernel

/-- The core's count of tag 0 is full with n = 1. -/
def counted : State := st.modCrew 1 0 fun k => { k with ban := k.ban.setIfInBounds 0 { BanCore.empty with counted := 1, n := 1 } }
def banB : ABody := { ab with ai := 1 }
def arrives (a : Arrival) (e : Env) : Bool := subOk e.ctx.rect (subKey (e.u 0)) 0 && decide ((e.banCore e.s 0).arrival (subKey (e.u 0)) 1 = a) && e.releaseReady e.s

theorem meets_Banisters :
    forms st [(.bana (hd 0) banB, arrives .counted), (.ban (hd 1) banB, fun e => arrives .counted e && e.sp.wait == .none),
      (.banw (hd 0) banB, fun e => e.ctx.banPhaseOf 0 == (e.u 0).toNat % 65536)] = true ∧
    forms counted [(.bana (hd 0) banB, arrives .held), (.ban (hd 0) banB, arrives .held)] = true ∧
    forms (withPairs [(0, 1)]) [(.bana (hd 0) banB, fun e => !subOk e.ctx.rect (subKey (e.u 0)) 0),
      (.banw (hd 0) banB, fun e => e.ctx.banPhaseOf 0 != (e.u 0).toNat % 65536)] = true ∧
    forms (st.modSplit 1 0 0 fun sp => { sp with wait := .banister 0 (some 3) }) [(.ban (hd 0) banB, fun e => e.sp.wait == .banister 0 (some 3) &&
      e.ctx.banPhaseOf 0 != 3)] = true := by
  decide +kernel

/-! ### The Array -/

/-- Pair 0 lies in the Alcove, pair 4 in memory, pair 2 is 0; accumulator 0 holds I48 with raster state, accumulator 1 F32, the others nothing; tile 0
is a raster sample tile of four samples. -/
def arraySt : State :=
  let s := (withPairs [(0, alcoveBase), (4, 0x40000), (6, 1), (8, 0x40080)]).modCore 0 fun c => { c with tlb1 := [⟨0, 1, 18, 0x31, 0x100000⟩] }
  s.modCrew 1 0 fun k => (((k.setAcc 0 { Acc.fresh with mode := .i48, raster := some ⟨1, 4, []⟩ }).setAcc 1 { Acc.fresh with mode := .f32 }).setTile 0
    (some ⟨.fxs, 1, 1, 32, 4, [], 0, [], false, some (0, 0), [], true, none⟩))
def xarg (b : XBody) (e : Env) : XArg := ⟨e.crew.getD (Crew.fresh 0 0 0), e.u64 b.xsa, e.u64 b.xsb, e.u64 b.xsc⟩
def pre (i : Instr) (b : XBody) (e : Env) : Bool := e.crew.isSome && (xPre i (xarg b e)).isNone &&
  !interlocked (e.s.core 0).arr e.cid e.bind.crew (e.crew.getD (Crew.fresh 0 0 0)) (xTiles i (xarg b e)) && e.sp.wait.heldSig == 0
def queues (i : Instr) (b : XBody) : Instr × (Env → Bool) := (i, fun e => pre i b e && (xPost i (xarg b e)).isNone && e.releaseReady e.s)
def xb : XBody := { x0 with xsb := 2, xsc := 2 }
def xm : XBody := { xb with xsa := 4 }
def accOp (st : OpSt) : ArrOp := ⟨5, 1, 0, 0, 0, 0, 0, .accz (hd 0) xb, 0, 0, 0, 0, st, 0, none, none, none, 0, none⟩
def busyArray : State := arraySt.modCore 0 fun c => { c with arr := [accOp .queued] }

theorem meets_ArrayOperationsQueue :
    forms arraySt [queues (.trel (hd 0) xb) xb, queues (.ldwSmp (hd 1) { xb with xsa := 2 }) { xb with xsa := 2 },
      queues (.accz (hd 0) xb) xb, queues (.accld (hd 0) xb) xb, queues (.accstRaw (hd 0) xb) xb, queues (.preopLin (hd 0) xb) xb,
      queues (.preopTr (hd 1) xb) xb, queues (.preopWin (hd 2) xm) xm, queues (.postop (hd 0) xm) xm,
      queues (.edge (hd 0) { xb with af := 4 }) { xb with af := 4 }, queues (.rslvLt (hd 0) xb) xb, queues (.rslvLe (hd 1) xb) xb,
      queues (.rslvRd (hd 2) xm) xm, queues (.rslvLd (hd 3) xm) xm, queues (.rslvClr (hd 4) xm) xm,
      queues (.binfl (hd 0) { xm with xsb := 8, xsc := 6 }) { xm with xsb := 8, xsc := 6 }] = true ∧
    forms arraySt [(.accld (hd 0) { xb with xsa := 6 }, fun e => e.crew.isSome &&
      (xPre (.accld (hd 0) { xb with xsa := 6 }) (xarg { xb with xsa := 6 } e)).isSome),
      (.accstRaw (hd 0) { xb with xa := 2 }, fun e => pre (.accstRaw (hd 0) { xb with xa := 2 }) { xb with xa := 2 } e &&
      (xPost (.accstRaw (hd 0) { xb with xa := 2 }) (xarg { xb with xa := 2 } e)).isSome),
      (.mmag (hd 0) { xm with xt := 1 }, fun e => (xPost (.mmag (hd 0) { xm with xt := 1 }) (xarg { xm with xt := 1 } e)).isSome)] = true ∧
    forms busyArray [(.accld (hd 0) xb, fun e => interlocked (e.s.core 0).arr e.cid e.bind.crew (e.crew.getD (Crew.fresh 0 0 0)) (xTiles (.accld (hd 0) xb) (xarg xb e)))] = true ∧
    forms (arraySt.modSplit 1 0 0 fun sp => { sp with wait := .held [0] 1 }) [(.accld (hd 0) xb, fun e => (xPre (.accld (hd 0) xb) (xarg xb e)).isNone && e.sp.wait.heldSig != 0)] = true := by
  decide +kernel

def fresh (b : XBody) (e : Env) : Bool := e.crew.isSome && e.sp.wait.heldSig == 0 && (State.bringAcc 0 e.cid e.bind.crew e.s b.xa.toNat).isSome
/-- Tile 1 has E4M3 weights, which v20 names in every lane; the rows are in v24 to v39. -/
def weightSt : State :=
  (arraySt.modCrew 1 0 fun k => k.setTile 1 (some ⟨.e4m3w, 1, 1, 32, 4, [], 0, [], false, none, [], true, none⟩)).modGroup 1 0 fun g =>
      (List.range 16).foldl (fun g k => putV (24 + k) (actTag 0) 0 g) (putV 20 2 1 g)
def vb : XBody := { xb with xi := 0x1400, xv := 24 }
def accIs (b : XBody) (p : Acc → Bool) (e : Env) : Bool := fresh b e && e.crew.any fun k => p (k.acc b.xa.toNat)

theorem meets_AccumulatorReads :
    forms arraySt [(.accrdEl (hd 0) { xb with xa := 1 }, accIs { xb with xa := 1 } (·.mode == .f32)),
      (.accrdEl (hd 0) { xb with xsa := 2 }, fun e => accIs xb (·.mode == .i48) e && (e.u 2).toNat / 32 % 2 == 0 && 1 < e.group.vregs),
      (.accrdEl (hd 0) { xb with xa := 2 }, accIs { xb with xa := 2 } (·.mode == .none)),
      (.accrdSt (hd 1) { xb with xa := 2 }, accIs xb fun _ => true), (.cvg (hd 0) xb, accIs xb fun a => a.mode == .i48 && a.raster.isSome),
      (.cvg (hd 0) { xb with xa := 1 }, accIs { xb with xa := 1 } (·.mode != .i48))] = true ∧
    forms (arraySt.modSplit 1 0 0 fun sp => { sp with u := sp.u.setIfInBounds 12 32 }) [(.accrdEl (hd 0) { xb with xsa := 12 }, fun e => accIs xb (·.mode == .i48) e && (e.u 12).toNat / 32 % 2 == 1)] = true ∧
    forms weightSt [(.vxm (hd 0) vb, fun e => e.tagsOk ((20, indexTag) :: (List.range (vxmRegs vb)).map fun i => (24 + i, fun t => t == actTag 0)) && (lanesOf (e.g (hd 0))).all (fun l => e.vl 20 l == 1) && (e.crew.bind (·.tile 1)).any (fun t => t.kt == 32 && 4 ≤ t.nt && t.resident) && e.sp.wait.heldSig == 0)] = true := by
  decide +kernel

theorem meets_ArrayWork :
    ((busyArray.arrOp 0 5).isSome && (busyArray.opCrew (accOp .queued)).isSome && (busyArray.ctx 1).isSome &&
      busyArray.opActive 0 (accOp .queued) && (busyArray.agent 0 1 0).isSome &&
      !keptBack [] ((busyArray.opCrew (accOp .queued)).getD (Crew.fresh 0 0 0)) (accOp .queued) &&
      (busyArray.bringFor 0 (accOp .queued) ((busyArray.opCrew (accOp .queued)).getD (Crew.fresh 0 0 0))).isSome) = true ∧
    ((arraySt.modCore 0 fun c => { c with arr := [accOp .running] }).opActive 0 (accOp .running)) = true := by
  decide +kernel

/-! ### The task graph and the privileged forms -/

/-- Pair 0 names the Atrium page, pair 4 a PC; v0 and v1 hold a PC of each lane. -/
def taskSt : State := ((withPairs [(0, 0x80000), (4, 0)]).modGroup 1 0 fun g => putV 0 1 0 (putV 1 1 0 g)).modCore 0 fun c =>
  { c with tlb1 := [⟨0, 1, 18, 0x31, 0x100000⟩, ⟨0, 2, 18, 0x35, 0⟩] }
def tb0 : TBody := { t0 with tsa := 4 }
def tight : State := taskSt.modCtx 1 fun c => { c with blk := { c.blk with frames := 1 } }

theorem meets_Spawning :
    forms taskSt [(.spawn (hd 0) tb0, fun e => 2 ≤ e.ctx.freeFrames 0 && e.releaseReady e.s && canonical (e.u64 4) && pcFormed (e.u64 4)),
      (.spawnLane (hd 0) { tb0 with topt := 1 }, fun e => e.tagsOk [(0, anyTag), (1, anyTag)] && e.releaseReady e.s),
      (.spawnc (hd 0) { t0 with tsa := 4 }, fun e => match e.futures [e.u64 0] e.s with | .ok (t, _) => e.releaseReady t | _ => false)] = true ∧
    forms tight [(.spawn (hd 0) tb0, fun e => e.ctx.freeFrames 0 < 2 && (e.ctx.crew 0).isSome)] = true ∧
    forms (withPairs [(4, 5)]) [(.spawn (hd 0) tb0, fun e => canonical (e.u64 4) && !pcFormed (e.u64 4))] = true := by
  decide +kernel

/-- The word of the future at pair 0, in a state and after a write of it. -/
def future (p : Nat → State → Bool) (e : Env) : Bool := match e.future (e.u64 0) e.s with
  | .ok (t, off) => t.memWf && p (t.futWord off) t
  | _ => false
def resolvedSt : State := { taskSt with atrium := Mem.writeN taskSt.atrium 8 1 1 }
def requesting (n : Nat) (s : State) : State := s.modSplit 1 0 0 fun sp => { sp with wait := .request n }

theorem meets_Futures :
    forms taskSt [(.fnew (hd 0) t0, future fun w _ => futState w != 0 || (futWaiters w == 0)),
      (.fres (hd 0) t0, fun e => future (fun _ t => e.releaseReady t) e && e.sp.wait == .none),
      (.fflt (hd 0) t0, fun e => future (fun _ t => e.releaseReady t) e),
      (.fpoll (hd 0) { t0 with tsc := 2 }, future fun w _ => futState w == 0), (.fwait (hd 0) { t0 with tsc := 2 }, fun e => e.sp.wait == .none &&
      future (fun _ t => (t.core 0).waits.length < 32) e)] = true ∧
    forms (requesting 9 taskSt) [(.fres (hd 0) t0, fun e => future (fun _ _ => true) e && e.sp.wait == .request 9 && (e.s.req 9).isNone)] = true ∧
    forms (taskSt.modSplit 1 0 0 fun sp => { sp with wait := .resolved 0 (2 ^ 64) }) [(.fwait (hd 0) { t0 with tsc := 2 }, future fun _ _ => true)] = true := by
  decide +kernel

theorem meets_AwaitReorderTime :
    forms taskSt [(.await (hd 0) t0, fun e => e.s.pending e.fr.awb.toNat == 0), (.reorder (hd 0) t0, fun e => e.tagsOk [(0, anyTag)] &&
      e.sp.unfinished != some 0 && e.group.reordered.isNone && e.s.pending e.fr.awb.toNat == 0 && (e.group.split 1).isNone &&
      (e.group.split 2).isNone && (e.group.split 3).isNone && e.group.stack.isEmpty && e.g (hd 0) == e.sp.mask && e.fr.parent.isNone &&
      e.releaseReady (e.s.takeAwait 0 e.cid e.h e.fr.awb.toNat) && (e.ctx.participants 0).all fun x => x.1 == e.h), (.time (hd 0) t0, also)] = true ∧
    (here taskSt fun e => ([1, 2, 3, 5] : List (BitVec 10)).all fun k => e.legal (.hint k) && e.g (hd 0) != 0) = true ∧
    forms (taskSt.setPending (blockAt 0 0) 1) [(.await (hd 0) t0, fun e => e.s.pending e.fr.awb.toNat != 0),
      (.reorder (hd 0) t0, fun e => e.s.pending e.fr.awb.toNat != 0)] = true ∧
    forms (answeredAll taskSt) [(.reorder (hd 0) t0, fun e => e.tagsOk [(0, anyTag)] && e.sp.unfinished == some 0)] = true ∧
    forms (twoSplits taskSt) [(.reorder (hd 0) t0, fun e => (e.group.split 1).isSome)] = true ∧
    (here taskSt fun e => e.legal (.reorder (gp 0) t0) && e.g (gp 0) == 0 && e.sp.mask != 0) = true := by
  decide +kernel

/-- One operation in flight for the frame of context 1. -/
def flying (op : ReqOp) (dst : ReqDst) : State := { taskSt with reqs := [⟨3, none, 0, 1, 0, 0, op, dst, 1, false, false, 0, []⟩] }
def flies (op : ReqOp) (dst : ReqDst) (p : State → Req → Bool) : Bool :=
  let s := flying op dst
  match s.req 3 with | some r => s.mayServe r && p s r | none => false
def woken : State := (taskSt.modSplit 1 0 0 fun sp => { sp with wait := .future none, asleep := true }).modCore 0 fun c => { c with waits := [⟨0, 0x80000, 0, 0, 0⟩] }

theorem meets_FutureEvents :
    (flies (.waitReg 0) (.split ⟨0, 0, 0⟩) fun s r => (Env.of (s.answered r) ⟨0, 0, 0⟩).isSome && s.memWf && futState (s.futWord 0) == 0) = true ∧
    (flies (.galleryReg 0 1) (.frame 1 0) fun s r => (s.frame 1 0).isSome && (s.answered r).frame 1 0 == s.frame 1 0 &&
      futState (s.futWord 0) == 0) = true ∧
    ((taskSt.modFrame 1 0 fun f => { f with rem := 1 }).frame 1 0 |>.any fun f => 0 < f.rem) = true ∧
    (flies (.resolve 0 7 false 0 0 false) (.split ⟨0, 0, 0⟩) fun s r => (Env.of (s.answered r) ⟨0, 0, 0⟩).isSome &&
      futState (s.futWord 0) == 0) = true ∧
    ((({ taskSt with notices := [⟨4, 0, 0, []⟩] } : State).notices.find? fun x => x.id == 4).isSome) = true ∧
    (((taskSt.modPorter 0 fun p => { p with wakePend := [[(1, 0)]] }).porter 0).wakePend == [[(1, 0)]]) = true ∧
    (match Env.of woken ⟨0, 0, 0⟩ with | some e => e.sp.wait == .future none && e.sp.asleep && e.fr.freeLink == some 0 | none => false) = true ∧
    ((lookup (taskSt.core 0).slots 0).isSome && (taskSt.ctx 1).any fun c => (c.participants 0).length == 1) = true := by
  decide +kernel

/-- Context 1; and context 2, as context 1 but placed nowhere, in a state. -/
def theCtx : Ctx := (taskSt.ctx 1).getD (Ctx.admitted 2 0 true 0 0 (launchRec 0) ⟨0, 0, false, false, 0, #v[⟨0, 0, 0, 0⟩, ⟨0, 0, 0, 0⟩, ⟨0, 0, 0, 0⟩]⟩ false)
def otherCtx (c : CtxSt) : State := (taskSt.modSplit 1 0 0 fun sp => { sp with u := sp.u.setIfInBounds 4 2 }).setCtx 2 { theCtx with cid := 2, st := c, frames := [], crews := [] }
def onOther (p : Ctx → Bool) (e : Env) : Bool := e.s.reaches e.vf ((e.u 4).toNat % 65536) && (e.u 4).toNat != e.cid && (e.s.ctx 2).any fun c => c.waiters.isEmpty && p c
def quietCore (b : TBody) (e : Env) : Bool :=
  let a := e.maintArgs b
  let t := e.writeBack (if a.scope == 2 then e.s else (e.s.asidEntry none a.asid).1)
  e.sp.wait == .none && !t.inFlight 0 e.asid && t.reqs.isEmpty && (a.scope == 0 && a.count == 0) == false && t.maints.isEmpty

theorem meets_PrivilegedForms :
    forms taskSt [(.ctxrd (hd 0) { t0 with tsb := 2 }, fun e => !e.s.reaches e.vf ((e.u 0).toNat % 65536)),
      (.evpop (hd 0) { t0 with tsa := 2, tsb := 6 }, also), (.ctxwr (hd 0) { t0 with ti := 4 }, also),
      (.tlbinvAsid (hd 0) { t0 with topt := 1 }, quietCore { t0 with topt := 1 }),
      (.tlbinvFn (hd 0) { t0 with topt := 2 }, quietCore { t0 with topt := 2 }),
      (.mapqAsid (hd 0) { t0 with topt := 1 }, quietCore { t0 with topt := 1 }),
      (.mapqFn (hd 0) { t0 with topt := 2 }, quietCore { t0 with topt := 2 }),
      (.tlbinvRange (hd 0) { t0 with tsa := 2, tsc := 10 }, fun e => (e.maintArgs { t0 with tsa := 2, tsc := 10 }).count == 0 &&
      canonical (e.u64 2))] = true ∧
    forms (otherCtx .halted) [(.ctxrd (hd 0) { t0 with tsa := 4, tsb := 6 }, onOther fun c => c.st == .halted),
      (.ctxwr (hd 0) { t0 with tsa := 4, tsb := 6, ti := 5 }, onOther fun c => c.st == .halted),
      (.haltcHalt (hd 0) { t0 with tsa := 4 }, onOther fun c => c.st == .halted),
      (.haltcResume (hd 1) { t0 with tsa := 4 }, fun e => onOther (fun c => c.st == .halted) e && e.releaseReady e.s),
      (.haltcKill (hd 2) { t0 with tsa := 4 }, onOther fun c => c.st == .halted)] = true ∧
    forms (otherCtx .running) [(.haltcHalt (hd 0) { t0 with tsa := 4 }, onOther fun c => c.st == .running),
      (.haltcResume (hd 1) { t0 with tsa := 4 }, fun e => onOther (fun c => c.st != .halted) e && e.releaseReady e.s)] = true ∧
    (here taskSt fun e => (e.early ⟨[0], some .aperture, false⟩ 64 64 (.va 0x40000)).isNone &&
      match e.translate e.s .store ⟨[0], some .aperture, false⟩ 0x40000 with | (t, .ok _) => (t.popEvent e.vf).2.isNone | _ => false) = true ∧
    (here userSt fun e => !e.sup && privileged (.haltcKill (hd 2) t0)) = true := by
  decide +kernel

/-! ### The steps of the other units -/

/-- A registered line of core 0's L1, with its first byte dirty. -/
def drLine : L1Line := ⟨0, 0x2000, 1, .dr, 1, 1, 1, 1, false, false, false⟩
def lined : State := taskSt.modCore 0 fun c => { c with l1 := [drLine] }
def inReset : State := (flying (.bankLoad 0 4) .drop).modDie 0 fun d => { d with st := .inReset }
/-- The result of vector register 3 is owed. -/
def owing (w : RegWrite) (due : Option Nat) : State := taskSt.modGroup 1 0 fun g => { g with results := [⟨0, 0, due.isSome, due, [w], false⟩] }

theorem meets_HomesAndBanks :
    ([ReqOp.read 0 0 0x2000 1 true false false false, .atomic 0x2000 0 false 0 0 1 0 false false, .reduce 0x2000 1 1 0 0 false false, .writeback 0 0 drLine].all fun op => flies op .drop fun s _ => !isImageLn 0x2000 && s.hasWay 0x2000 && (lookup s.l2 0x2000).isNone) = true ∧
    ([ReqOp.bankLoad 0 4, .bankStore 0 [1, 2], .bankAtomic 0 false 0 0 1 0, .bankLine 0 0 0 1].all fun op => flies op .drop fun _ _ => true) = true ∧
    (({ lined with reqs := [⟨3, none, 0, 1, 0, 0, .register 0 0 0x2000, .drop, 1, false, false, 0, []⟩] } : State).req 3 |>.any fun r => (lined.mayServe r) &&
      (findL1 (lined.core 0).l1 0 0x2000).any fun x => x.st != .c) = true ∧
    ((inReset.req 3).any fun r => inReset.destState r == .inReset && !r.nak) = true := by
  decide +kernel

theorem meets_CoreServices :
    ((findL1 (lined.core 0).l1 0 0x2000).any fun x => x.st == .dr && lined.reqs.isEmpty) = true ∧
    ((taskSt.region (128 * 0x2000)).isSome && taskSt.homeState 0x2000 == .good && (lookup taskSt.l2 0x2000).isNone) = true ∧
    (let s := taskSt.modCore 0 fun c => { c with misses := [⟨0, 3, false⟩] }; match (s.walk (some 0) 0 (BitVec.ofNat 64 (3 * 262144))).2 with | .fault .notPresent => ((s.core 0).misses.find? fun m => m.asid == 0 && m.page == 3).isSome | _ => false) = true ∧
    (let s := taskSt.modCore 0 fun c => { c with tlb1 := [⟨0, 1, 18, 0x71, 0x100000⟩] }; ((s.core 0).findTlb 0 0x40000).any fun e => leafType e.leaf == 0 && lineParity (s.readCode (e.pa 0x40000 / 64 * 64)).2 == linePar (s.readCode (e.pa 0x40000 / 64 * 64)).2) = true ∧
    ((taskSt.core 0).regLines.isEmpty) = true ∧
    (((owing (.vec 3 1 (lanesBy fun _ => 5) 2) none).frame 1 0).isSome && (owing (.pred 2 1 1) (some 0)).ac == 0) = true ∧
    (((taskSt.modCore 0 fun c => { c with held := [⟨0, 0, none, 0⟩] }).core 0).held.length == 1) = true := by
  decide +kernel

/-- A copy of 64 bytes from page 1, as `copySt` issues it. -/
def oneCopy (k : CopyKind) (st : CopySt) : CopyRec := ⟨5, 1, 0, 0, 0, 0, 0, k, false, 0, st, none, #v[0, 0, 0], none, none, 0, none, none, 0, 0, 0x40000, 0x40100, 64, 0, 0,
  #v[0, 0, 0, 0, 0, 0], [], 0, false, false, false, false, none, [], false, none⟩
def copyOn (k : CopyKind) (st : CopySt) : State := copySt.modCore 0 fun c => { c with ce := [oneCopy k st] }

theorem meets_CopyAndFeedbackSteps :
    (match (copyOn .cpy .running).copyRec 0 5, (copyOn .cpy .running).agent 0 1 0 with | some r, some a => (copyOn .cpy .running).copyActive 0 r &&
      (match a.beat r (copyOn .cpy .running) with | (t, .ok b) => b.dst.any fun va => (match a.place .store .any va t with | (_, .ok _) => true | _ => false) | (_, .error _) => false) | _, _ => false) = true ∧
    (match (copyOn .cpy .done).copyRec 0 5 with | some r => (copyOn .cpy .done).copyActive 0 r && r.st == .done &&
      (((copyOn .cpy .done).ctx 1).any fun c => (c.crew 0).any fun k => (k.tag 0).isSome) | none => false) = true ∧
    (match (copyOn .cpyt .queued).agent 0 1 0 with | some a => (match a.read ⟨[0], some .aperture, false⟩ 0x40000 192 (copyOn .cpyt .queued) with | (_, .ok _) => true | _ => false) | none => false) = true ∧
    (flies (.fbReserve 0 ⟨0, 0, 0, 0, 0⟩ 0) .drop fun s _ => s.memWf) = true ∧
    ((let s := { taskSt with atrium := Mem.writeN taskSt.atrium 0 16 (2 ^ 96 + 2 ^ 112 * 4) }; Mem.readN s.atrium 12 1 % 2 == 1 &&
      Mem.readN s.atrium 14 1 == 4)) = true ∧
    (flies (.fbWrite 0 0 ⟨0, 0, 0, 0, 0⟩ 0 4 0x80000) .drop fun s r => match s.ctx 1 with | some c => (match s.xlate 0 0 (s.ctxVf r.core c) (s.ctxSup r.core c) .store .atrium 0x80000 with | (u, x) => (atriumOff x).isSome && u.memWf) | none => false) = true := by
  decide +kernel

def joining : State := taskSt.modSplit 1 0 0 fun sp => { sp with wait := .join, asleep := true }
def ending (x : ExitPhase) : State := taskSt.modGroup 1 0 fun g => { g with exit := x }
def unbound : State := (taskSt.modFrame 1 0 fun f => { f with st := .ready }).modCore 0 fun c =>
  { c with slots := c.slots.map (fun x => (x.1, { x.2 with frame := none })), ready := [⟨1, 0⟩] }

theorem meets_FrameSteps :
    ((joining.frame 1 0).any fun f => f.group.stack.isEmpty && (f.group.split 0).any fun sp => sp.wait == .join) = true ∧
    ((ending .releasing).released 0 0 0 && (lookup (taskSt.core 0).slots 0).any fun b => !b.extra && b.frame == some 0) = true ∧
    (((ending .awaiting).setPending (blockAt 0 0) 1).pending (blockAt 0 0) != 0) = true ∧
    ((lookup (unbound.core 0).slots 0).any (fun b => b.frame.isNone && b.commit) && (unbound.ctx 1).any fun c => c.st == .running &&
      (c.crewOn 0).isSome && (lookup c.frames 0).isSome) = true ∧
    (flies (.awaitDec 0) .drop fun s _ => s.memWf) = true ∧
    (let s := st.modCrew 1 0 fun k => { k with ban := k.ban.setIfInBounds 0 { BanCore.empty with counted := 1, n := 1 } }; (s.ctx 1).any fun c => c.crews.any fun k => c.banReady 0 ((k.ban[0]?).getD BanCore.empty)) = true := by
  decide +kernel

def inSt (x : CtxSt) (f : Ctx → Ctx) : State := taskSt.modCtx 1 fun c => f { c with st := x }

theorem meets_HaltSteps :
    ((inSt .halting id).ctx 1 |>.any fun c => c.st == .halting && c.rect.has 0 && c.arrived.isEmpty) = true ∧
    ((inSt .halting fun c => { c with arrived := [0] }).ctx 1 |>.any fun c => c.arrived.contains 0 && c.settledAt.isEmpty) = true ∧
    ((inSt .halting fun c => { c with settledAt := [0] }).ctx 1 |>.any fun c => c.rect.cores.all (c.settledAt.contains ·) &&
      !(inSt .halting id).eventsBlocked c.vf) = true ∧
    ((inSt .running fun c => { c with stepping := true }).ctx 1 |>.any fun c => (c.boundSplits (inSt .running fun c => { c with stepping := true })).any (·.mayStep)) = true ∧
    (!(taskSt.core 0).frozen && !(taskSt.die 2).frozen) = true := by
  decide +kernel

theorem meets_SaveAndRestoreSteps :
    ((inSt .saving id).ctx 1 |>.any fun c => c.rect.has 0 && c.arrived.isEmpty) = true ∧
    ((inSt .saving fun c => { c with arrived := [0] }).ctx 1 |>.any fun c => c.rect.cores.all (c.arrived.contains ·) &&
      (inSt .saving id).reqs.isEmpty) = true ∧
    ((inSt .restoring id).ctx 1 |>.any fun c => c.st == .restoring && !c.killAfter) = true ∧
    ((let s := taskSt.modCore 0 fun c => { c with accsIn := [(1, 0, 3)] }; (s.core 0).accsIn.contains (1, 0, 3) && (s.core 0).arr.isEmpty)) = true ∧
    (here (taskSt.modSplit 1 0 0 fun sp => { sp with wait := .yield 0 }) fun e => e.sp.wait == .yield 0) = true ∧
    (here { taskSt with ac := 1024 } fun e => !e.sp.asleep && e.sp.wait == .none && 1024 ≤ 1024 - e.sp.readySince) = true := by
  decide +kernel

/-- A committed launch of context 1 and what the Porter of Hall 0 may do with it. -/
def placing : State := inSt .placing fun c => { c with placed := false }
def crewSt (x : CrewSt) : State := taskSt.modCrew 1 0 fun k => { k with st := x }

theorem meets_SchedulerSteps :
    ((placing.ctx 1).any fun c => !c.placed && c.st == .placing && !c.reqOpen && c.cid == 1 && placing.rectGood ⟨0, 0, c.rcd.w, c.rcd.h⟩) = true ∧
    ((let s := { (crewSt .waiting).modCore 0 (fun c => { c with slots := [] }) with ac := 0 }; (s.ctx 1).any fun c => c.rect.has 0 && c.placed &&
      (s.die 0).st == .good && (s.room 0 c.blk).isSome)) = true ∧
    (((crewSt .committed).ctx 1).any fun c => (c.crew 0).any fun k => k.st == .committed && k.core == 0) = true ∧
    ((let s := (crewSt .running).modFrame 1 0 fun f => { f with st := .complete }; (s.ctx 1).any fun c => s.crewDone c 0)) = true ∧
    (!taskSt.crewDone theCtx 0) = true ∧
    (decide (({ taskSt with time := shareWindow } : State).shareStart + shareWindow ≤ ({ taskSt with time := shareWindow } : State).time)) = true ∧
    (((taskSt.modFn 0 fun f => { f with heldEv := [0] }).fn 0).heldEv == [0]) = true := by
  decide +kernel

def op (inv : Bool) (l u : List Nat) : MaintOp := ⟨4, inv, 0, 0, [(0x40000, 0x80000)], 0, .host 0, l, u, [], true, none⟩
def maintaining (inv : Bool) (l u : List Nat) : State := { copySt with maints := [op inv l u] }

theorem meets_MaintenanceSteps :
    (((maintaining true [0] [0]).maint 4).any fun m => m.inv && m.started && m.left.contains 0 &&
      (copySt.core 0).tlb1.any fun e => m.overlaps (e.vbase * 2 ^ e.size) (2 ^ e.size)) = true ∧
    (((maintaining true [] [0]).maint 4).any fun m => m.unacked.contains 0 && !m.left.contains 0 && ((lookup m.drain 0).getD []).isEmpty) = true ∧
    (((maintaining true [] []).maint 4).any fun m => m.unacked.isEmpty) = true ∧
    (((maintaining false [0] [0]).maint 4).any fun m => !m.inv && m.left.contains 0) = true ∧
    (!taskSt.intervalOver && ({ taskSt with time := taskSt.interval, hotctl := 0x101 } : State).intervalOver) = true ∧
    ((taskSt.annex 0).cur.isNone && (taskSt.die 2).st == .good && !(taskSt.die 2).frozen && (taskSt.die 0).st == .good) = true ∧
    ((let s := taskSt.modPorter 0 fun p => { p with faults := [⟨0, 0x40000, none, 0⟩] }; (s.porter 0).faults.length == 1 &&
      s.inWindow 0 0x100000 && !s.eventsBlocked 0)) = true := by
  decide +kernel

theorem meets_PackageSteps :
    ((List.range 6).all fun d => (taskSt.die (unitOf d)).st == .good) = true ∧
    ((inReset.die (unitOf 0)).st == .inReset) = true ∧
    (decide (50000000 * unitsPerNs ≤ ({ inReset with time := 50000000 * unitsPerNs } : State).time - (inReset.die 0).resetAt)) = true := by
  decide +kernel

theorem meets_HostRegisterWrites :
    (((userSt.modCtx 1 fun c => { c with st := .killed }).ctxs.all fun c => c.2.st == .killed) && rising taskSt.rsown &&
      rising taskSt.doorbells) = true ∧
    ((let s := { taskSt with rsown := [(0, 1)] }; rsV (s.rsownOf 0 0) && rsVf (s.rsownOf 0 0) == 0)) = true := by
  decide +kernel

/-- The agenda names the split, and a NOP stands at its PC. -/
def turned : State := { (fetched st).putWord ⟨0, 0, 0⟩ 0x2901C0000000000000000000 with agenda := [⟨0, .issue ⟨0, 0, 0⟩⟩] }
def mayStep : Bool :=
  let q : State := (({ turned with agenda := [] } : State).pass 0)
  let p : State := q.prepare ⟨0, 0, 0⟩
  turned.coresOn && q.turnDue ⟨0, 0, 0⟩ && match Env.of p ⟨0, 0, 0⟩ with
    | some e => e.works p && e.sp.underWay.isNone && match (p.core 0).findLine e.asid e.sp.pc with
      | some l => tgtBit l 0 && match decode (slotBits l 0) with
        | .ok i => !e.holds (slotBits l 0) (e.uses i p) && (e.linesOf i (e.uses i p)).all (p.core 0).regLines.contains
        | .error _ => false
      | none => false
    | none => false

theorem meets_StepRunsDecoded :
    (mayStep) = true ∧
    ((let s := { st with agenda := [⟨0, .issue ⟨0, 0, 0⟩⟩], issuedNow := [issueSlot ⟨0, 0, 0⟩] }; !(({ s with agenda := [] } : State).pass 0).turnDue ⟨0, 0, 0⟩)) = true := by
  decide +kernel

theorem meets_MemoriesStayCanonical : State.reset.memWf = true ∧ taskSt.memWf = true := by decide +kernel

/-- A host command ring of 16 entries, with one command of an opcode and a scope. -/
def commanded (x : Nat) : State := { taskSt with host := Mem.writeN taskSt.host 0x10000 32 x }.modFn 0 fun f => { f with hcrb := 0x10004, hcTail := 1 }

theorem meets_BoardSteps :
    (((taskSt.die 0).st != .withdrawn && (taskSt.die 1).st != .withdrawn && taskSt.powered && linkDies 0 == some (0, 1))) = true ∧
    ((List.range 6).any fun d => (State.reset.die d).st != .withdrawn && !(State.reset.die d).auth) = true := by
  decide +kernel

theorem meets_HostSteps :
    (([0x201, 0x202, 3, 4].all fun x => (commanded x).command 0 == some x)) = true ∧
    (taskSt.reachable 0x100000 (.read 8) && taskSt.hostLink && !(taskSt.die 2).peer.getLsbD 0) = true := by
  decide +kernel

theorem meets_RegisterFrames :
    ((here st fun e => [.sadd (hd 0) u0, .vadd (hd 0) { v0 with ty := 1 }].all fun i => (encode i).any (fun w => (w.extractLsb' 88 8).toNat < 0x68) && match exec i e.s with | .next _ => true | _ => false)) = true := by
  decide +kernel

theorem meets_StoreFrames :
    ((here (paged 0x40000) fun e => e.s.memWf &&
      [.st (hd 0) mLane, .sst (hd 4) u0, .stx (hd 0) mLine].all fun i => match exec i e.s with | .next _ => true | _ => false)) = true := by
  decide +kernel

/-- A finite operand whose register has the tag F32. -/
theorem meets_ApproximationBounds : Meets tagged (let ok : Env → Bool := fun e => okA (vt 3) e && match fp32.value (e.vl 3 0).toNat with | .fin _ _ _ => true | _ => false
    [(.vfrcp (hd 0) (vt 3), ok), (.vfrsq (hd 0) (vt 3), ok), (.vfexp2 (hd 0) (vt 3), ok), (.vflog2 (hd 0) (vt 3), ok), (.vfsin (hd 0) (vt 3), ok), (.vfcos (hd 0) (vt 3), ok)]) :=
  meets (by decide +kernel)

/-- The operand of a vector form, of a store, and of a form with an empty guarded set has a tag that it does not accept. -/
theorem meets_IllegalAndUnguarded_tags : here tagged (fun e => ([.vadd (hd 0) { vt 1 with vb := 3 }, .vfsqrt (gp 0) { vt 3 with va := 1 }, .ld (hd 0) { m0 with am := 1, xv := true, mx := 3 }] : List Instr).all
    fun i => e.legal i && !e.tagsOk (operandTags i) && e.sp.wait != .access && (encode i).isSome) = true := by
  decide +kernel

/-- Two splits and a stack entry share the lanes of a group. -/
def divided : State := st.modGroup 1 0 fun g => { g with
  splits := (g.splits.setIfInBounds 1 ((g.split 0).map fun sp => { sp with mask := 0xFF00 })).setIfInBounds 0 ((g.split 0).map fun sp => { sp with mask := 0xFF }),
  stack := [⟨0, 0xFF0000, 0, Vector.replicate 8 0, Vector.replicate 64 0⟩] }

/-- `Frame.lanesApart`, computed. -/
def apart (fr : Frame) : Bool :=
  let masks : List Mask := fr.group.stack.map (·.mask) ++ (List.range 4).filterMap fun k => (fr.group.split k).map (·.mask)
  decide (masks.Pairwise fun a b => a &&& b = 0) && masks.all fun m => m &&& ~~~fr.mask == 0

theorem apart_iff (fr : Frame) : apart fr = true ↔ fr.lanesApart := by
  simp only [apart, Frame.lanesApart, Bool.and_eq_true, decide_eq_true_eq, List.all_eq_true, beq_iff_eq]

theorem meets_BranchDivides_apart : ((divided.frame 1 0).any fun fr => apart fr && fr.group.stack.length == 1 && (fr.group.split 1).isSome) = true := by
  decide +kernel

/-- Page 3 has a leaf in the node that the walk cache names. -/
def walked : State :=
  let s := paged 0xC0000
  { s with dram := Mem.writeN s.dram 0x200018 8 0x140033 }.modCore 0 fun c => { c with asids := [(0, 1)], walks := [⟨0, 2, 0, 0x200000⟩] }

theorem meets_AnchorsPrefetchesGrants_anchor :
    forms (paged alcoveBase) [(.anchor (hd 1) a0, fun e => inAlcove (e.u64 0))] = true ∧
    forms (paged 0x40000) [(.anchor (hd 0) a0, fun e => ((e.s.core 0).findTlb 0 (e.u64 0)).any fun y => e.serves e.s y (e.u64 0))] = true ∧
    forms walked [(.anchor (hd 0) a0, fun e => !(inAlcove (e.u64 0) || upperHalf (e.u64 0)) && ((e.s.core 0).findTlb 0 (e.u64 0)).isNone &&
      match e.s.walk (some 0) 0 (e.u64 0) with | (u, .leaf y) => (e.anchorOf (u.modCore 0 fun c => c.install y) y (e.u64 0) 8).st == .valid | _ => false)] = true ∧
    forms (paged 0xC0000) [(.anchor (hd 0) a0, fun e => match e.s.walk (some 0) 0 (e.u64 0) with | (_, .fault _) => true | _ => false)] = true := by
  decide +kernel

/-- A level-0 page that is resident, and its map, at page 1. -/
def mapped : State :=
  let s := paged 0x40000
  { s with dram := Mem.writeN s.dram 0x100000 64 (0x40000 + 2 ^ 64 * 0x41000 + 2 ^ 192 + 9 * 2 ^ 208 + 9 * 2 ^ 216) }.modCore 0 fun c =>
    { c with tlb1 := [⟨0, 1, 18, 0x231, 0x100000⟩] }

theorem meets_AnchorsPrefetchesGrants_fetch :
    here mapped (fun e => match e.lodRead (e.lodAddr mTex) 0 e.s with
      | .desc t d => d.wellFormed && match e.lodFetch d 0 0 0 true false t with | .got _ _ st g => st == 0 && g == 0 | _ => false
      | _ => false) = true := by
  decide +kernel

theorem meets_TagWaits_first : forms (copying.modSplit 1 0 0 fun sp => { sp with wait := .tagFirst 0 }) [(.tfirst (hd 1) { ab with ai := 3 }, fun e =>
    e.sp.wait == .tagFirst 0 && !e.ready 0 && (e.tagSt 0).oldest < 2 ^ 32)] = true := by
  decide +kernel

/-- ABARR in the Alcove, and in the Atrium before and after its line ORs; ABEXP that overruns. -/
theorem meets_BarrierOperations_arrivals :
    forms (barSt alcoveBase 1) [(.abarr (hd 0) barB, fun e => atBar (fun x => x.arrived ≤ x.quorum && x.landed ≤ x.owed) e && e.releaseReady e.s)] = true ∧
    forms (barSt 0x80000 1) [(.abarr (hd 0) barB, fun e => atBar (fun x => x.arrived ≤ x.quorum) e && e.releaseReady e.s && e.sp.wait == .none)] = true ∧
    forms ((barSt 0x80000 1).modSplit 1 0 0 fun sp => { sp with wait := .request 9 }) [(.abarr (hd 0) barB, fun e => atBar (fun _ => true) e &&
      (List.range 4).all fun k => (e.s.req (9 - k)).isNone)] = true ∧
    (here (barSt alcoveBase 1) fun e => match e.barPlace (e.u64 8) e.s with
      | .ok (t, p) => forms (t.setBar p ⟨2 ^ 32 - 1, 0, 1, 1, 0, true, false, false, 0⟩) [(.abexp (hd 0) barB, atBar fun x => 2 ^ 32 ≤ x.owed + 1 && x.trapov),
        (.abarr (hd 0) barB, atBar fun x => x.arrived == x.quorum && !x.broken)]
      | _ => false) = true := by
  decide +kernel

/-- The producer holds tread 0 again for position 2, and gives a USER word. -/
theorem meets_Flights_released :
    forms ((flightSt 0 0).modGroup 1 0 fun g => { g with resv := [⟨0, 2, false, 0⟩] }) [(.flrelP (hd 0) { ab with al := 6 }, flown fun e _ => e.holdsTread e.s 0 0 && e.u 6 == 0 &&
      (e.tread e.s 0 2).1 == (e.tread e.s 0 0).1)] = true ∧
    forms (flightSt 0 0) [(.flrelP (hd 0) { ab with al := 6, se := true, st := 4 }, fun e => e.releaseReady e.s)] = true := by
  decide +kernel

/-- A submission of one record at page 1, whose list set of one tile is at the start of the Atrium page. -/
def binOp (bin : Option Binning) : ArrOp := ⟨5, 1, 0, 0, 0, 0, 0, .binfl (hd 0) xb, 0x40000, 0x80000, 1, 0, .running, 0, none, none, none, 0, bin⟩
def binnerSt : State := { taskSt.modCore 0 fun c => { c with arr := [binOp none] } with atrium := Mem.writeN [] 0 64 (2 ^ 32 + 0x40000 * 2 ^ 64 + 2 ^ 128 + 2 ^ 136) }
/-- Core 1, of the same Hall, has a primitive under way. -/
def otherBinner : State := binnerSt.modCore 1 fun c => { c with arr := [binOp (some ⟨0, [], [], [], none, none⟩)] }
def binCrew : Crew := (binnerSt.opCrew (binOp none)).getD (Crew.fresh 0 0 0)

theorem meets_ArrayWork_binner :
    (isBinfl (binOp none).instr && binnerSt.opActive 0 (binOp none) && unitCount (binOp none).instr ((binOp none).arg binCrew) == 1 && !binnerSt.binnerBusy 0 &&
      otherBinner.binnerBusy 0) = true ∧
    ((binnerSt.agent 0 1 0).any fun a => match a.binTile ((binOp none).arg binCrew) 0 none binnerSt with | (_, .ok (.tile _ _)) => true | _ => false) = true := by
  decide +kernel

/-- Tile 0 has been dropped from its macros, and is a sample tile. -/
def droppedSt : State := arraySt.modCrew 1 0 fun k => k.setTile 0 (some ⟨.fxs, 1, 1, 32, 4, [], 0, [], false, some (0, 0), [⟨.ldwSmp (hd 1) xb, 0, 0, 0⟩], false, none⟩)

theorem meets_ArrayWork_reload :
    ((droppedSt.ctx 1).any fun c => c.worksOn 0 && (c.crew 0).any fun k => k.core == 0 && (k.tile 0).any fun t => t.page.isNone && !droppedSt.tileBusy 0 (1, 0, 0) &&
      (State.bringTile 0 (1, 0, 0) (t.rk * t.rn) 64 droppedSt).any fun w => (droppedSt.agent 0 1 0).any fun a => match a.replay k t.desc none w with
        | (_, .ok (some _)) => true
        | _ => false) = true := by
  decide +kernel

/-- A copy that has done its last beat, with a follow-on. -/
def followed : CopyRec := { oneCopy .cpy .running with done := 64, follow := some (.accz (hd 0) xb) }
def followSt : State := copySt.modCore 0 fun c => { c with ce := [followed] }

theorem meets_ArrayWork_followOn :
    (followSt.copyRec 0 5 == some followed && followSt.copyActive 0 followed && (followSt.ctx 1).any fun c => (c.crew 0).any fun k =>
      (xPre (.accz (hd 0) xb) ⟨k, 0, 0, 0⟩).isNone) = true := by
  decide +kernel

def accSt : State := arraySt.modCore 0 fun c => { c with arr := [accOp .running] }

theorem meets_ArrayResults_unit :
    (accSt.arrOp 0 5 == some (accOp .running) && accSt.opActive 0 (accOp .running) && (accSt.opCrew (accOp .running)).any fun k =>
      0 < unitCount (accOp .running).instr ((accOp .running).arg k) && (accSt.agent 0 1 0).any fun a =>
        match ({ a with job := some ⟨0, true, 5, 0⟩ } : Agent).unit 0 (accOp .running).instr ((accOp .running).arg k) 0 accSt with
        | (v, .ok _) => v.arrOp 0 5 == some (accOp .running)
        | _ => false) = true := by
  decide +kernel

/-- A row of 32 E4M3 elements at page 1 under the pre-operator of accumulator 1, against the E4M3 weights of tile 1; a generated row against an I48
accumulator. -/
theorem meets_ArrayResults_rows :
    (let x (k : Crew) : XArg := ⟨k, 0x40000, 0, 0⟩
     let b : XBody := { xb with xt := 1, xa := 1 }
     ((weightSt.ctx 1).bind (·.crew 0)).any fun k => ((x k).tile b).any fun t => (weightSt.agent 0 1 0).any fun a =>
       (match a.streamRow b (x k) t.kt 0 true weightSt with
        | (u, .ok _) => ((u.ctx 1).bind (·.crew 0)).any fun c => (List.range t.nt).all fun n =>
            let i : Nat := 1 + (n / ((x k).acc b).cols)
            i < 16 && (c.acc i).mode == ((x k).acc b).mode && rising (c.acc i).elems
        | _ => false) && (k.acc 0).mode == .i48 && rising (k.acc 0).elems) = true := by
  decide +kernel

/-- A primitive of the sample tile's block, whose record is at page 1. -/
theorem meets_ArrayResults_resolve :
    (let x (k : Crew) : XArg := ⟨k, 0x40000, 0, 0⟩
     ((arraySt.ctx 1).bind (·.crew 0)).any fun k => (((x k).tile xb).bind (·.origin)).isSome && ((x k).acc xb).raster.isSome && (arraySt.agent 0 1 0).any fun a =>
       match a.get .any 0x40000 48 arraySt, a.get .memoryOnly 0x40000 12 arraySt with
       | (u, .ok _), (v, .ok _) => rising u.resolver && rising (u.slotEntries (a.slotKey (x k))) && v.resolver == arraySt.resolver
       | _, _ => false) = true ∧
    (let p : Prim := ⟨[0, 256, 0], [0, 0, 256], [0x3F800000, 0, 0], 1, 2⟩
     p.area == 65536 && (depthAt (Acc.fresh.cleared .i48) 0 0 p).isSome && (primOf 0).xs.length == 3) = true := by
  decide +kernel

theorem meets_HomesAndBanks_fill :
    (flies (.fill 0 0 0x2000 1 true false false false 5) .drop fun _ _ => true) = true ∧
    (let s : State := { inReset with time := 3000 * unitsPerNs, reqs := inReset.reqs.map fun r => { r with nak := true } }
     (s.req 3).any fun r => r.nak && resendAfter ≤ s.time - r.sent) = true ∧
    (let s : State := { inReset with time := ageLimit }
     (s.req 3).any fun r => s.destState r == .inReset && ageLimit ≤ s.time - r.sent) = true := by
  decide +kernel

def barred (va : W64) (k : CopyKind) (st : CopySt) : State := copySt.modCore 0 fun c => { c with ce := [{ oneCopy k st with bar := some va }] }
/-- What the copy's next beat writes to, and where its barrier is. -/
def beats (s : State) (p : BarPlace → Bool) (q : Place → Bool) : Bool := match s.copyRec 0 5, s.agent 0 1 0 with
  | some r, some a => s.copyActive 0 r && match a.beat r s with
    | (t, .ok b) => b.dst.any fun va => match r.bar with
      | none => (match a.place .store .any va t with | (_, .ok x) => q x | _ => false)
      | some vb => match a.barPlace vb t with
        | (t, .ok z) => p z && match a.place .store .any va t with | (_, .ok x) => q x | _ => false
        | _ => false
    | _ => false
  | _, _ => false

theorem meets_CopyAndFeedbackSteps_barriers :
    (beats (barred alcoveBase .cpy .running) (fun z => match z with | .alcove _ _ => true | _ => false) fun _ => true) = true ∧
    (beats (barred 0x80000 .cpy .running) (fun z => match z with | .atrium _ => true | _ => false) fun _ => true) = true ∧
    (beats (copyOn .cpyr .running) (fun _ => false) fun x => match x with | .mem _ _ _ _ => true | _ => false) = true := by
  decide +kernel

/-- A beat whose reduction, or whose last line OR, is the one operation in flight. -/
def beatSt (op : ReqOp) (signed : Bool) : State :=
  let s := copySt.modCore 0 fun c => { c with ce := [{ oneCopy .cpy .running with beat := some ⟨64, 0, none, false, signed⟩ }] }
  { s with reqs := [⟨3, none, 0, 1, 0, 0, op, .copy 5, 1, false, false, 0, []⟩] }

theorem meets_CopyAndFeedbackSteps_sent :
    ([beatSt (.reduce 0x2000 0 1 0 0 false false) false, beatSt (.bankLine 0 4 4 0) true].all fun s => (s.req 3).any fun q => q.core == 0 && q.dst == .copy 5 &&
      s.mayServe q && (s.copyRec 0 5).any fun r => r.beat.isSome && r.st != .done && (s.agent 0 r.cid r.crew).isSome) = true ∧
    (let s := (flying (.fbReserve 0 ⟨0, 0, 0, 0, 0⟩ 0) .drop).modDie 0 fun d => { d with st := .withdrawn }
     (s.req 3).any fun r => s.destState r == .withdrawn && s.memWf) = true ∧
    (let s := (copyOn .cpy .done).modGroup 1 0 fun g => { g with owed := [⟨0, false, 7, false, 5, 0, none⟩] }
     (s.frame 1 0).any fun fr => fr.group.results.isEmpty && (fr.group.owed.find? fun o => o.engine == false && o.seq == 5).isSome && (fr.group.split 0).isSome) = true ∧
    (match (barred alcoveBase .cpy .done).agent 0 1 0 with
      | some a => (match a.barPlace alcoveBase (barred alcoveBase .cpy .done) with | (t, .ok (.alcove _ _)) => t == barred alcoveBase .cpy .done | _ => false)
      | none => false) = true := by
  decide +kernel

def fullRing (s : State) : State := s.modFn 0 fun f => { f with heldEv := List.replicate 256 0 }

theorem meets_HaltSteps_full :
    (((inSt .halting fun c => { c with settledAt := [0] }).ctx 1).any fun c => c.haltRing == 0 && (fullRing (inSt .halting id)).eventsBlocked c.haltRing) = true ∧
    (let s := inSt .saving fun c => { c with arrived := [0], saveStop := true }
     (s.ctx 1).any fun c => c.rect.cores.all (c.arrived.contains ·) && c.saveStop && !s.eventsBlocked c.haltRing && (fullRing s).eventsBlocked c.haltRing) = true := by
  decide +kernel

/-- Both Halls are withdrawn, and queue 0, in far memory, holds a record for its function. -/
def lostSt : State :=
  { (((State.reset.modDie 0 fun d => { d with st := .withdrawn }).modDie 1 fun d => { d with st := .withdrawn }).modDie 2 fun d => { d with far := 1 }) with
    qtb := 0x10000000001, doorbells := [(0, 1)], dram := Mem.writeN [] 0x10000000000 32 (0x10000010000 + 2 ^ 64) }

theorem meets_SchedulerSteps_select :
    (lostSt.qtb.getLsbD 0 && (lostSt.die 0).st == .withdrawn && (lostSt.die 1).st == .withdrawn && match State.selectFrom (lostSt.queuesOf 0) none lostSt with
      | (t, some p) => p.q == 0 && p.ring == 0x10000010000 && match t.readMem (p.ring + 128 * (p.head.toNat % 2 ^ p.logn)) 128 with
        | (u, x) => !u.eventsBlocked p.vf && !recordOk x
      | _ => false) = true := by
  decide +kernel

/-- A home that a walk of the Porter meets is in reset. -/
theorem meets_MaintenanceSteps_homes :
    (taskSt.homesUp 0x100000 262144 && !inReset.homesUp 0x100000 262144) = true := by
  decide +kernel

def unlinked : State := { taskSt with thermalTrip := true }

theorem meets_HostLink : (taskSt.hostLink && !unlinked.hostLink) = true := by decide +kernel

/-- Scopes 0 and 1 of TLBINV and MAPQ by the physical function, a PLACE that restores, and HALTC. -/
theorem meets_HostSteps_commands :
    ([1 + 2 ^ 32 + 2 ^ 64 * 0x40000, 0x101, 2 + 2 ^ 32 + 2 ^ 64 * 0x40000, 0x102, 3, 0x103, 4 + 2 ^ 88].all fun x => (commanded x).command 0 == some x) = true ∧
    (let s := inSt .saved fun c => { c with reqOpen := true }
     (s.ctx 1).any fun c => c.reqOpen && s.rectGood ⟨0, 0, c.rect.w, c.rect.h⟩) = true ∧
    (taskSt.heldCtx 0).isNone = true := by
  decide +kernel

theorem meets_BoardSteps_leader : (let s := taskSt.modDie 2 fun d => { d with running := true }; s.powered && s.leader.isSome && s.dies.toList.all fun d => d.auth) = true := by decide +kernel

/-- Forms of the C, A, X and T formats that complete in these states. -/
def completes (s : State) (l : List (Env → Host.Outcome State Fault Refusal)) : Bool := here s fun e => l.all fun f => match f e with | .next _ => true | _ => false

theorem meets_RegisterFrames_formats :
    completes copySt [fun e => exec (.nop (hd 0) c0) e.s, fun e => execCpy (hd 0) cpB e.s, fun e => execTwall (hd 0) ab e.s, fun e => execAccz (hd 0) xb e.s,
      fun e => execFpoll (hd 0) t0 e.s, fun e => execTime (hd 0) t0 e.s] = true := by
  decide +kernel

theorem meets_StoreFrames_loads :
    completes (paged 0x40000) [fun e => exec (.ld (hd 0) mLane) e.s, fun e => exec (.sld (hd 4) u0) e.s, fun e => exec (.ldx (hd 0) mLine) e.s,
      fun e => exec (.resq (hd 0) mTex) e.s] = true ∧
    (here (paged 0x40000) fun e => (e.left (e.g (hd 0))).all fun l => match e.lookupAddr e.s 4 .load .any (e.laneAddr mLane l) with | .ok (.window _ _) => false | _ => true) = true := by
  decide +kernel

end Sys2Proof.Tests
end

-- ==== Proofs of the family 01_address_spaces ====
section
/-! SUPPORT. ANCHOR and the memory of contexts (R26). The state does not bound a context's ASID by the 13 bits of R17, and the entry of an
ASID from 2^49 on lies past the physical map, among the lines of context images: the walk of an ANCHOR recalls such a line from the
core that owns it, which writes the image. -/

namespace Sys2Proof.Machine

/-- The ASID whose entry stands at the first byte of the image of context 1, where ASTB is 0. -/
def strayAsid : Nat := 2 ^ 49 + 2 ^ 29

/-- The line of that entry. -/
def strayLine : Nat := imageLn 1 0

/-- Context 1 runs with that ASID, and the L1 of its core owns the entry's line with a dirty byte, which the image does not hold yet. -/
def straySt : State :=
  { (State.reset.loadContext.modCtx 1 fun c => { c with asid := strayAsid }).modCore 0 fun c =>
      { c with l1 := [⟨strayAsid, strayLine, 0, .dr, 2, 1, 1, 1, false, false, false⟩] } with
    l2 := [(strayLine, ⟨0, false, false, false, [(0, strayAsid, 1)]⟩)] }

/-- ANCHOR b0 at s[1:0] with an immediate length of 8 bytes. -/
def strayHdr : Hdr := ⟨1, false, 7, false, 0⟩
def strayBody : AnchorBody := ⟨0, 0, 8⟩

/-- The instruction issues from core 0 with the base 0. -/
theorem straySt_issues : ∃ e, Performs straySt e (.anchor strayHdr strayBody) strayHdr ∧ e.f.core = 0 ∧ e.asid = strayAsid ∧ e.u64 strayBody.n = 0 := by
  have h : (Env.of straySt straySt.focus).any (fun e => e.legal (.anchor strayHdr strayBody) && e.g strayHdr != 0 && e.f.core == 0 &&
      e.asid == strayAsid && e.u64 strayBody.n == 0) = true := by decide +kernel
  obtain ⟨e, he, h⟩ := (Option.any_eq_true _ _).1 h
  simp only [Bool.and_eq_true, bne_iff_ne, beq_iff_eq] at h
  obtain ⟨⟨⟨⟨hlegal, hg⟩, hcore⟩, hasid⟩, hbase⟩ := h
  exact ⟨e, ⟨he, hlegal, hg⟩, hcore, hasid, hbase⟩

/-- The walk ends at the entry, which is not valid. -/
theorem straySt_walk : (straySt.walk (some 0) strayAsid 0).2 = .fault .notPresent := by decide +kernel

/-- The recall of the entry's line has written the image of context 1. -/
theorem straySt_walk_writes_image :
    ((straySt.walk (some 0) strayAsid 0).1.ctx 1).map (·.image) ≠ (straySt.ctx 1).map (·.image) := by decide +kernel

/-- Refutes O26: with a context whose ASID is beyond 13 bits, ANCHOR's walk writes the image of a context although no set of a home
slice is full (`straySt`: ASID 2^49 + 2^29). -/
theorem not_anchorsPrefetchesGrants : ¬ Obligations.AnchorsPrefetchesGrants := by
  unfold Obligations.AnchorsPrefetchesGrants
  rintro ⟨h, -⟩
  obtain ⟨e, hp, hcore, hasid, hbase⟩ := straySt_issues
  obtain ⟨t, x, -, ⟨-, -, -, hfault⟩, -, -, -, hkeeps⟩ :=
    (h straySt e strayHdr strayBody ⟨0, 0, 0, 0, false, 0, 4, 0, 0, 0, 0⟩).2.1 hp (by rw [hbase]; decide)
  rw [hcore, hasid, hbase] at hfault
  obtain ⟨-, ht⟩ := hfault (straySt.walk (some 0) strayAsid 0).1 .notPresent (by decide) (by decide +kernel)
    (by rw [← straySt_walk])
  obtain ⟨-, hctxs⟩ := hkeeps (by decide +kernel)
  apply straySt_walk_writes_image
  rw [← ht, State.ctx, hctxs, State.ctx]

end Sys2Proof.Machine
end

section
/-! SUPPORT. What the homes, their slices and memories write, and what an event writes: frames of the shared operations, so that a
register or a table is read off through them (R54, R64, R65, R382, R383). -/

namespace Sys2Proof.Machine

/-- The parts of the state that the homes, their slices and memories do not write: all else is blanked, and of a sketch its sequence
number stays. -/
def State.beyondHomes (s : State) : State :=
  { s with
    cores := [], ctxs := [], dram := [], l2 := [], codes := [], crofts := Vector.replicate 2 Undercroft.reset, freeCtr := 0, reqs := [],
    homeHeld := false, sketches := mapEach s.sketches fun k => { Sketch.reset with seq := k.seq } }

@[simp] theorem State.beyondHomes_setCore (s : State) (n : Nat) (c : Core) : (s.setCore n c).beyondHomes = s.beyondHomes := rfl
@[simp] theorem State.beyondHomes_modCore (s : State) (n : Nat) (f : Core → Core) : (s.modCore n f).beyondHomes = s.beyondHomes := rfl
@[simp] theorem State.beyondHomes_setCtx (s : State) (cid : Nat) (c : Ctx) : (s.setCtx cid c).beyondHomes = s.beyondHomes := rfl
@[simp] theorem State.beyondHomes_draw (s : State) : s.draw.2.beyondHomes = s.beyondHomes := rfl
@[simp] theorem State.beyondHomes_useMeta (s : State) (ln : Nat) : (s.useMeta ln).beyondHomes = s.beyondHomes := rfl
@[simp] theorem State.beyondHomes_staleFills (s : State) (core : Nat) (p : Nat → Nat → Bool) :
    (s.staleFills core p).beyondHomes = s.beyondHomes := rfl

theorem State.beyondHomes_reqs (s : State) (l : List Req) : ({ s with reqs := l } : State).beyondHomes = s.beyondHomes := rfl

theorem State.beyondHomes_crofts (s : State) (c : Vector Undercroft 2) : ({ s with crofts := c } : State).beyondHomes = s.beyondHomes := rfl
theorem State.beyondHomes_dram (s : State) (m : Mem) : ({ s with dram := m } : State).beyondHomes = s.beyondHomes := rfl

theorem State.beyondHomes_codes (s : State) (l : List (Nat × Nat)) (c : Vector Undercroft 2) :
    ({ s with codes := l, crofts := c } : State).beyondHomes = s.beyondHomes := rfl

theorem State.beyondHomes_l2 (s : State) (l : List (Nat × L2Line)) : ({ s with l2 := l } : State).beyondHomes = s.beyondHomes := rfl

@[simp] theorem State.beyondHomes_meet (s : State) (ln : Nat) : (s.meet ln).beyondHomes = s.beyondHomes := by
  unfold State.meet
  split <;> rfl

@[simp] theorem State.beyondHomes_imageWrite (s : State) (cid off n x : Nat) :
    (s.imageWrite cid off n x).beyondHomes = s.beyondHomes := by
  unfold State.imageWrite
  split
  · rfl
  · split
    · rfl
    · split
      · split
        · exact State.beyondHomes_setCtx ..
        · split
          · exact State.beyondHomes_modCore ..
          · rfl
      · rfl

@[simp] theorem State.beyondHomes_setL2 (s : State) (ln : Nat) (l : L2Line) : (s.setL2 ln l).beyondHomes = s.beyondHomes := by
  unfold State.setL2
  split
  · exact (State.beyondHomes_l2 _ _).trans (State.beyondHomes_imageWrite ..)
  · rfl

/-- An element replaced by one with the same image leaves the images. -/
theorem mapEach_setIfInBounds {α β : Type} {n : Nat} {v : Vector α n} {i : Nat} {x y : α} {f : α → β} (hx : v[i]? = some x)
    (hy : f y = f x) : mapEach (v.setIfInBounds i y) f = mapEach v f := by
  ext j hj
  by_cases hij : i = j
  · subst hij
    have hv : v[i] = x := by simpa [Vector.getElem?_eq_getElem hj] using hx
    simp [mapEach, hv, hy]
  · simp [mapEach, hij]

@[simp] theorem State.beyondHomes_sample (s : State) (ln : Nat) (tier : Bool) : (s.sample ln tier).beyondHomes = s.beyondHomes := by
  unfold State.sample
  dsimp only
  split
  · split
    · rename_i k hk
      have h := mapEach_setIfInBounds (f := fun k : Sketch => { Sketch.reset with seq := k.seq }) hk
        (y := k.count (s.hotctl.extractLsb' 1 7).toNat (ln / 2048) tier) rfl
      simp only [State.beyondHomes, h]
    · rfl
  · rfl

@[simp] theorem State.beyondHomes_memoryRead (s : State) (ln : Nat) (tier : Bool) : (s.memoryRead ln tier).beyondHomes = s.beyondHomes := by
  unfold State.memoryRead
  dsimp only
  split
  · rfl
  · split
    · simp
    · split <;> simp [State.beyondHomes_crofts]

@[simp] theorem State.beyondHomes_fetchL2 (s : State) (ln : Nat) (tier : Bool) : (s.fetchL2 ln tier).1.beyondHomes = s.beyondHomes := by
  unfold State.fetchL2
  split <;> simp

@[simp] theorem State.beyondHomes_mergeAt (s : State) (core : Nat) (x : L1Line) : (s.mergeAt core x).beyondHomes = s.beyondHomes := by
  simp [State.mergeAt]

/-- A part of the state that no step of a fold changes. -/
theorem foldl_keeps {α β : Type} {part : State → β} {f : State → α → State} (h : ∀ s x, part (f s x) = part s) (l : List α) (s : State) :
    part (l.foldl f s) = part s := by
  induction l generalizing s with
  | nil => rfl
  | cons x l ih => exact (ih _).trans (h s x)

@[simp] theorem State.beyondHomes_flushBacks (s : State) (core ln : Nat) : (s.flushBacks core ln).beyondHomes = s.beyondHomes := by
  unfold State.flushBacks
  dsimp only
  rw [State.beyondHomes_reqs]
  refine foldl_keeps (part := State.beyondHomes) (fun t r => ?_) _ s
  split
  · exact State.beyondHomes_mergeAt ..
  · rfl

@[simp] theorem State.beyondHomes_forward (s : State) (ln core asid : Nat) : (s.forward ln core asid).beyondHomes = s.beyondHomes := by
  unfold State.forward
  dsimp only
  split
  · split <;> split <;> simp
  · split <;> simp

@[simp] theorem State.beyondHomes_forwardAll (s : State) (ln : Nat) : (s.forwardAll ln).beyondHomes = s.beyondHomes := by
  unfold State.forwardAll State.forwardTo
  split
  · refine foldl_keeps (part := State.beyondHomes) (fun t o => ?_) _ s
    exact State.beyondHomes_forward t ln o.1 o.2.1
  · rfl

@[simp] theorem State.beyondHomes_memoryWrite (s : State) (ln : Nat) (l : L2Line) : (s.memoryWrite ln l).beyondHomes = s.beyondHomes := by
  unfold State.memoryWrite
  dsimp only
  split
  · rw [State.beyondHomes_codes, State.beyondHomes_useMeta, State.beyondHomes_dram, State.beyondHomes_sample]
  · rw [State.beyondHomes_dram, State.beyondHomes_sample]

@[simp] theorem State.beyondHomes_evictL2 (s : State) (ln : Nat) : (s.evictL2 ln).beyondHomes = s.beyondHomes := by
  unfold State.evictL2
  dsimp only
  split
  · simp
  · rw [State.beyondHomes_l2]
    split <;> simp

@[simp] theorem State.beyondHomes_makeWayL2 (s : State) (ln : Nat) : (s.makeWayL2 ln).beyondHomes = s.beyondHomes := by
  unfold State.makeWayL2
  split
  · rfl
  · dsimp only
    split <;> simp

@[simp] theorem State.beyondHomes_allocate (s : State) (ln : Nat) (tier : Bool) : (s.allocate ln tier).1.beyondHomes = s.beyondHomes := by
  simp [State.allocate]

@[simp] theorem State.beyondHomes_homeRead (s : State) (ln : Nat) (tier : Bool) : (s.homeRead ln tier).1.beyondHomes = s.beyondHomes := by
  simp [State.homeRead]

@[simp] theorem State.beyondHomes_homeWrite (s : State) (ln : Nat) (m : ByteMask) (x : Line) (cmp tier : Bool) :
    (s.homeWrite ln m x cmp tier).beyondHomes = s.beyondHomes := by
  simp [State.homeWrite]

theorem State.beyondHomes_readSpan (tier : Bool) (f : Nat) (s : State) (pa n : Nat) :
    (State.readSpan tier f s pa n).1.beyondHomes = s.beyondHomes := by
  induction f generalizing s pa n with
  | zero => rfl
  | succ f ih =>
    unfold State.readSpan
    split
    · rfl
    · simp [ih]

theorem State.beyondHomes_writeSpan (cmp tier : Bool) (f : Nat) (s : State) (pa n x : Nat) :
    (State.writeSpan cmp tier f s pa n x).beyondHomes = s.beyondHomes := by
  induction f generalizing s pa n x with
  | zero => rfl
  | succ f ih =>
    unfold State.writeSpan
    split
    · rfl
    · simp [ih]

@[simp] theorem State.beyondHomes_readMem (s : State) (pa n : Nat) : (s.readMem pa n).1.beyondHomes = s.beyondHomes :=
  State.beyondHomes_readSpan ..

@[simp] theorem State.beyondHomes_writeMem (s : State) (pa n x : Nat) : (s.writeMem pa n x).beyondHomes = s.beyondHomes :=
  State.beyondHomes_writeSpan ..

/-! ## The sampling intervals (R64, R65, R69) -/

@[simp] theorem State.beyondHomes_writeHotList (s : State) (base c now : Nat) (k : Sketch) :
    (s.writeHotList base c now k).beyondHomes = s.beyondHomes := by
  unfold State.writeHotList
  dsimp only
  rw [State.beyondHomes_writeMem]
  refine foldl_keeps (part := State.beyondHomes) (fun t x => ?_) _ s
  exact State.beyondHomes_writeMem ..

/-- What the end of an interval leaves besides: the frames a Porter keeps, the registers and the time. -/
def State.beyondIntervals (s : State) : State :=
  { s.beyondHomes with hotStart := 0, sketches := Vector.replicate 14 Sketch.reset }

theorem State.beyondIntervals_of {s t : State} (h : t.beyondHomes = s.beyondHomes) : t.beyondIntervals = s.beyondIntervals := by
  unfold State.beyondIntervals
  rw [h]

section
variable {s t : State} (h : t.beyondIntervals = s.beyondIntervals)
include h

theorem State.hotctl_of_beyondIntervals : t.hotctl = s.hotctl := (congrArg State.hotctl h :)
theorem State.mgwt_of_beyondIntervals : t.mgwt = s.mgwt := (congrArg State.mgwt h :)
theorem State.dies_of_beyondIntervals : t.dies = s.dies := (congrArg State.dies h :)
theorem State.keptFrames_of_beyondIntervals : t.keptFrames = s.keptFrames := (congrArg State.keptFrames h :)

end

theorem State.beyondIntervals_sketches (s : State) (v : Vector Sketch 14) :
    ({ s with sketches := v } : State).beyondIntervals = s.beyondIntervals := rfl

theorem State.beyondIntervals_hotStart (s : State) (n : Nat) : ({ s with hotStart := n } : State).beyondIntervals = s.beyondIntervals := rfl

theorem State.beyondIntervals_hotLists (s : State) (now : Nat) : (s.hotLists now).beyondIntervals = s.beyondIntervals := by
  unfold State.hotLists
  dsimp only
  rw [State.beyondIntervals_sketches]
  refine foldl_keeps (part := State.beyondIntervals) (fun t c => ?_) _ s
  split
  · split
    · exact State.beyondIntervals_of (State.beyondHomes_writeHotList ..)
    · rfl
  · rfl

/-- One interval that is over. -/
def State.endInterval (s : State) : State :=
  { (if s.hotctl.getLsbD 0 then s.hotLists (s.hotStart + s.interval) else s) with hotStart := s.hotStart + s.interval }

theorem State.endIntervals_succ (n : Nat) (s : State) : State.endIntervals (n + 1) s = State.endIntervals n s.endInterval := rfl

theorem State.beyondIntervals_endInterval (s : State) : s.endInterval.beyondIntervals = s.beyondIntervals := by
  unfold State.endInterval
  rw [State.beyondIntervals_hotStart]
  split
  · exact State.beyondIntervals_hotLists ..
  · rfl

theorem State.beyondIntervals_endIntervals (n : Nat) (s : State) : (State.endIntervals n s).beyondIntervals = s.beyondIntervals := by
  induction n generalizing s with
  | zero => rfl
  | succ n ih => rw [State.endIntervals_succ, ih, State.beyondIntervals_endInterval]

theorem State.interval_endInterval (s : State) : s.endInterval.interval = s.interval := by
  have h : s.endInterval.hotctl = s.hotctl := State.hotctl_of_beyondIntervals (State.beyondIntervals_endInterval s)
  simp only [State.interval, h]

theorem State.hotStart_endIntervals (n : Nat) (s : State) : (State.endIntervals n s).hotStart = s.hotStart + n * s.interval := by
  induction n generalizing s with
  | zero => simp [State.endIntervals]
  | succ n ih =>
    rw [State.endIntervals_succ, ih, State.interval_endInterval, Nat.succ_mul]
    show s.hotStart + s.interval + n * s.interval = _
    omega

/-- A sketch after `n` intervals with no request counted since. -/
def Sketch.idle (k : Sketch) (n : Nat) : Sketch := ⟨[], [], k.seq + BitVec.ofNat 32 n⟩

theorem State.sketches_endInterval {s : State} (h : s.hotctl.getLsbD 0 = true) :
    s.endInterval.sketches = mapEach s.sketches Sketch.again := by
  unfold State.endInterval
  rw [if_pos h]
  rfl

theorem Sketch.again_idle (k : Sketch) (n : Nat) : k.again.idle n = k.idle (n + 1) := by
  simp only [Sketch.idle, Sketch.again, Sketch.reset, Sketch.mk.injEq, true_and]
  rw [BitVec.ofNat_add, BitVec.add_assoc, BitVec.add_comm 1]
  rfl

/-- Every interval that is over starts the sketches again. -/
theorem State.sketches_endIntervals (n : Nat) {s : State} (h : s.hotctl.getLsbD 0 = true) :
    (State.endIntervals (n + 1) s).sketches = mapEach s.sketches fun k => k.idle (n + 1) := by
  induction n generalizing s with
  | zero => rw [State.endIntervals_succ]; exact State.sketches_endInterval h
  | succ n ih =>
    have hc : s.endInterval.hotctl = s.hotctl := State.hotctl_of_beyondIntervals (State.beyondIntervals_endInterval s)
    rw [State.endIntervals_succ, ih (hc ▸ h), State.sketches_endInterval h]
    ext i hi
    simp [mapEach, Sketch.again_idle]

/-- What a Porter's round over its frames leaves: every part of the state beyond the homes but the windows and the frames it keeps. -/
def State.beyondPorter (s : State) : State := { s.beyondHomes with windows := [], keptFrames := [] }

theorem State.beyondPorter_of {s t : State} (h : t.beyondHomes = s.beyondHomes) : t.beyondPorter = s.beyondPorter := by
  unfold State.beyondPorter
  rw [h]

section
variable {s t : State} (h : t.beyondPorter = s.beyondPorter)
include h

theorem State.hotStart_of_beyondPorter : t.hotStart = s.hotStart := (congrArg State.hotStart h :)

theorem State.sketches_of_beyondPorter {c : Nat} {k : Sketch} (hk : s.sketches[c]? = some k) :
    ∃ y, t.sketches[c]? = some y ∧ y.seq = k.seq := by
  have h : t.beyondPorter.sketches = s.beyondPorter.sketches := by rw [h]
  obtain ⟨hc, rfl⟩ := Vector.getElem?_eq_some_iff.1 hk
  refine ⟨t.sketches[c], Vector.getElem?_eq_getElem hc, ?_⟩
  have h : (t.beyondPorter.sketches[c]).seq = (s.beyondPorter.sketches[c]).seq := by rw [h]
  simpa [State.beyondPorter, State.beyondHomes, mapEach] using h

end

theorem State.beyondPorter_keptFrames (s : State) (l : List (Nat × Nat)) :
    ({ s with keptFrames := l } : State).beyondPorter = s.beyondPorter := rfl

theorem State.beyondPorter_windows (s : State) (l : List MigWindow) :
    ({ s with windows := l } : State).beyondPorter = s.beyondPorter := rfl

theorem State.beyondPorter_readWindows (s : State) : s.readWindows.beyondPorter = s.beyondPorter := by
  unfold State.readWindows
  split
  · dsimp only
    rw [State.beyondPorter_windows]
    exact State.beyondPorter_of (State.beyondHomes_readMem ..)
  · rfl

theorem State.keptFrames_of_beyondHomes {s t : State} (h : t.beyondHomes = s.beyondHomes) : t.keptFrames = s.keptFrames :=
  (congrArg State.keptFrames h :)

theorem State.beyondHomes_giveFrame (s : State) (ring frame : Nat) : (s.giveFrame ring frame).1.beyondHomes = s.beyondHomes := by
  unfold State.giveFrame
  split
  · rfl
  · dsimp only
    split <;> simp

theorem State.returnFrame_eq (s : State) (x : Nat × Nat) :
    s.returnFrame x = if (s.giveFrame x.1 x.2).2 then (s.giveFrame x.1 x.2).1 else
      { (s.giveFrame x.1 x.2).1 with keptFrames := (s.giveFrame x.1 x.2).1.keptFrames ++ [x] } := by
  unfold State.returnFrame
  rcases s.giveFrame x.1 x.2 with ⟨t, b⟩
  cases b <;> rfl

theorem State.beyondPorter_returnFrame (s : State) (x : Nat × Nat) : (s.returnFrame x).beyondPorter = s.beyondPorter := by
  have h := State.beyondPorter_of (State.beyondHomes_giveFrame s x.1 x.2)
  rw [State.returnFrame_eq]
  split
  · exact h
  · exact (State.beyondPorter_keptFrames ..).trans h

/-- A frame that found its ring full is kept. -/
theorem State.keptFrames_returnFrame (s : State) (x : Nat × Nat) :
    (s.returnFrame x).keptFrames = s.keptFrames ++ if (s.giveFrame x.1 x.2).2 then [] else [x] := by
  have h : (s.giveFrame x.1 x.2).1.keptFrames = s.keptFrames := State.keptFrames_of_beyondHomes (State.beyondHomes_giveFrame s x.1 x.2)
  rw [State.returnFrame_eq]
  split <;> simp [h]

theorem State.beyondPorter_porterInterval (s : State) : s.porterInterval.beyondPorter = s.beyondPorter := by
  unfold State.porterInterval
  split
  · rw [foldl_keeps (part := State.beyondPorter) fun t x => State.beyondPorter_returnFrame t x, State.beyondPorter_keptFrames,
      State.beyondPorter_readWindows]
  · rfl

/-! ## Events (R382, R383) -/

/-- The parts of the state that posting an event does not write either. -/
def State.beyondEvents (s : State) : State :=
  { s.beyondHomes with fns := Vector.replicate 64 Fn.reset, host := [], todo := [] }

theorem State.beyondEvents_of {s t : State} (h : t.beyondHomes = s.beyondHomes) : t.beyondEvents = s.beyondEvents := by
  unfold State.beyondEvents
  rw [h]

section
variable {s t : State} (h : t.beyondEvents = s.beyondEvents)
include h

theorem State.porters_of_beyondEvents : t.porters = s.porters := (congrArg State.porters h :)
theorem State.maints_of_beyondEvents : t.maints = s.maints := (congrArg State.maints h :)

end

@[simp] theorem State.beyondEvents_modFn (s : State) (vf : Nat) (f : Fn → Fn) : (s.modFn vf f).beyondEvents = s.beyondEvents := rfl
@[simp] theorem State.beyondEvents_host (s : State) (m : Mem) : ({ s with host := m } : State).beyondEvents = s.beyondEvents := rfl
@[simp] theorem State.beyondEvents_push (s : State) (i : Instr) : (s.push i).beyondEvents = s.beyondEvents := rfl
@[simp] theorem State.beyondEvents_writeMem (s : State) (pa n x : Nat) : (s.writeMem pa n x).beyondEvents = s.beyondEvents :=
  State.beyondEvents_of (State.beyondHomes_writeMem ..)

@[simp] theorem State.beyondHomes_modCtx (s : State) (cid : Nat) (f : Ctx → Ctx) : (s.modCtx cid f).beyondHomes = s.beyondHomes := by
  unfold State.modCtx
  split <;> simp

@[simp] theorem State.beyondHomes_mapSplits (s : State) (core : Nat) (p : Bind → Bool) (f : Split → Split) :
    (s.mapSplits core p f).beyondHomes = s.beyondHomes := by
  unfold State.mapSplits
  refine foldl_keeps (part := State.beyondHomes) (fun t b => ?_) _ s
  split
  · rfl
  · split
    · exact State.beyondHomes_modCtx ..
    · rfl

@[simp] theorem State.beyondHomes_wakeAll (s : State) (p : Wait → Bool) : (s.wakeAll p).beyondHomes = s.beyondHomes := by
  unfold State.wakeAll
  refine foldl_keeps (part := State.beyondHomes) (fun t c => ?_) _ s
  exact State.beyondHomes_mapSplits ..

@[simp] theorem State.beyondHomes_queue (s : State) (n : Nat) : (s.queue n).1.beyondHomes = s.beyondHomes := by
  unfold State.queue
  split
  · rfl
  · have h := State.beyondHomes_readMem s (s.queueAt n) 32
    rcases hr : s.readMem (s.queueAt n) 32 with ⟨u, q⟩
    rw [hr] at h
    dsimp only
    split <;> exact h

theorem State.beyondHomes_privQueueFrom (s : State) (vf n k : Nat) : (s.privQueueFrom vf n k).1.beyondHomes = s.beyondHomes := by
  induction k generalizing s n with
  | zero => rw [State.privQueueFrom]
  | succ k ih =>
    have h := State.beyondHomes_queue s n
    rw [State.privQueueFrom]
    rcases hq : s.queue n with ⟨u, q⟩
    rw [hq] at h
    dsimp only
    split
    · exact h
    · rw [ih, h]

theorem State.beyondHomes_privQueue (s : State) (vf : Nat) : (s.privQueue vf).1.beyondHomes = s.beyondHomes := by
  unfold State.privQueue
  split
  · exact State.beyondHomes_privQueueFrom ..
  · rfl

theorem State.beyondEvents_toHostRing (s : State) (vf : Nat) (r : BitVec 512) : (s.toHostRing vf r).1.beyondEvents = s.beyondEvents := by
  unfold State.toHostRing
  dsimp only
  split
  · rfl
  · rw [State.beyondEvents_modFn, State.beyondEvents_host]

theorem State.beyondEvents_ringPost (s : State) (vf : Nat) (r : BitVec 512) : (s.ringPost vf r).1.beyondEvents = s.beyondEvents := by
  have h := State.beyondEvents_of (State.beyondHomes_privQueue s vf)
  unfold State.ringPost
  split
  · exact State.beyondEvents_toHostRing ..
  · split
    · rename_i u hu
      rw [hu] at h
      exact (State.beyondEvents_toHostRing ..).trans h
    · rename_i u n q hu
      rw [hu] at h
      split
      · exact h
      · dsimp only
        rw [State.beyondEvents_push, State.beyondEvents_of (State.beyondHomes_wakeAll ..), State.beyondEvents_writeMem,
          State.beyondEvents_writeMem, h]

theorem State.beyondEvents_toRing {s u : State} {vf : Nat} {r : BitVec 512} {b : Bool} (h : s.toRing vf r = (u, b)) :
    u.beyondEvents = s.beyondEvents := by
  unfold State.toRing at h
  dsimp only at h
  split at h
  · cases h
    rfl
  · rw [← State.beyondEvents_ringPost s vf r, h]

theorem State.beyondEvents_postEvent (s : State) (t : EvType) (vf die body : Nat) :
    (s.postEvent t vf die body).beyondEvents = s.beyondEvents := by
  unfold State.postEvent State.postEventOn
  dsimp only
  split
  · rw [State.beyondEvents_modFn, State.beyondEvents_modFn]
  · split
    · rename_i u hu
      rw [State.beyondEvents_toRing hu, State.beyondEvents_modFn]
    · rename_i u hu
      rw [State.beyondEvents_modFn, State.beyondEvents_toRing hu, State.beyondEvents_modFn]

end Sys2Proof.Machine
end

section
/-! SUPPORT. The table of maintenance operations, their broadcast and their end (R37, R366). -/

namespace Sys2Proof.Machine

/-! ## The table of maintenance operations -/

theorem State.maint_id {s : State} {op : Nat} {m : MaintOp} (h : s.maint op = some m) : m.id = op := by
  simpa using List.find?_some h

theorem State.maint_congr {s t : State} (h : t.maints = s.maints) (op : Nat) : t.maint op = s.maint op := by
  unfold State.maint
  rw [h]

theorem State.maint_modMaint {s : State} {op : Nat} {m : MaintOp} {f : MaintOp → MaintOp} (h : s.maint op = some m)
    (hf : ∀ x, (f x).id = x.id) : (s.modMaint op f).maint op = some (f m) := by
  have hp : ((fun x : MaintOp => x.id == op) ∘ fun x : MaintOp => if x.id == op then f x else x) = fun x => x.id == op := by
    funext x
    by_cases hx : x.id = op <;> simp [hx, hf]
  unfold State.maint at h ⊢
  unfold State.modMaint
  rw [List.find?_map, hp, h]
  simp [State.maint_id h]

theorem State.maint_none {s : State} {op : Nat} (h : ∀ i ∈ s.maints.map (·.id), i ≠ op) : s.maint op = none := by
  rw [State.maint, List.find?_eq_none]
  intro x hx
  simpa using h x.id (List.mem_map_of_mem hx)

/-! ## The broadcast of an operation -/

/-- The broadcast of an operation that is taken up changes no identity in the table. -/
theorem State.ids_beginMaint (s : State) (m : MaintOp) : (s.beginMaint m).maints.map (·.id) = s.maints.map (·.id) := by
  unfold State.beginMaint State.broadcast
  simp only [State.pushAll_maints, List.map_map]
  refine List.map_congr_left fun x _ => ?_
  simp only [Function.comp_apply]
  split
  · rename_i h
    exact (beq_iff_eq.1 h).symm
  · split
    · split <;> rfl
    · split <;> rfl

/-- An operation of that kind, for that owner, over that range, is under way. -/
def State.hasMaint (s : State) (inv : Bool) (asid lo hi : Nat) (owner : MaintFor) : Prop :=
  ∃ o ∈ s.maints, o.inv = inv ∧ o.owner = owner ∧ o.asid = asid ∧ (lo, hi) ∈ o.ranges

theorem State.hasMaint_congr {s t : State} (h : t.maints = s.maints) (inv : Bool) (asid lo hi : Nat) (owner : MaintFor) :
    t.hasMaint inv asid lo hi owner ↔ s.hasMaint inv asid lo hi owner := by
  unfold State.hasMaint
  rw [h]

theorem State.hasMaint_beginMaint {s : State} {m : MaintOp} {r : Nat × Nat} (hm : m ∈ s.maints) (hr : r ∈ m.ranges) :
    (s.beginMaint m).hasMaint m.inv m.asid r.1 r.2 m.owner := by
  unfold State.beginMaint State.broadcast
  exact ⟨_, List.mem_map.2 ⟨m, hm, if_pos (beq_self_eq_true _)⟩, rfl, rfl, rfl, List.mem_append_left _ hr⟩

/-- What is taken up is under way, broadcast or waiting for a broadcast. -/
theorem State.hasMaint_startMaint (s : State) (inv : Bool) (scope asid lo hi vf : Nat) (owner : MaintFor) :
    (s.startMaint inv scope asid lo hi vf owner).1.hasMaint inv asid lo hi owner := by
  unfold State.startMaint
  dsimp only
  split
  · exact ⟨_, List.mem_append_right _ (List.mem_singleton.2 rfl), rfl, rfl, rfl, List.mem_singleton.2 rfl⟩
  · exact State.hasMaint_beginMaint (r := (lo, hi)) (List.mem_append_right _ (List.mem_singleton.2 rfl)) (List.mem_singleton.2 rfl)

theorem State.porters_startMaint (s : State) (inv : Bool) (scope asid lo hi vf : Nat) (owner : MaintFor) :
    (s.startMaint inv scope asid lo hi vf owner).1.porters = s.porters := by
  unfold State.startMaint
  dsimp only
  split <;> rfl

theorem State.annexes_startMaint (s : State) (inv : Bool) (scope asid lo hi vf : Nat) (owner : MaintFor) :
    (s.startMaint inv scope asid lo hi vf owner).1.annexes = s.annexes := by
  unfold State.startMaint
  dsimp only
  split <;> rfl

/-! ## The end of an operation -/

theorem State.maints_maintDone (s : State) (m : MaintOp) : (s.maintDone m).maints = s.maints := by
  unfold State.maintDone
  split
  · exact (congrArg State.maints (State.beyondHomes_wakeAll s _) :)
  · split <;> rfl
  · rfl
  · rfl

/-- An operation that is over is in the table no more, and what begins after it does not bring its identity back. -/
theorem State.maint_endMaint (s : State) (m : MaintOp) : (s.endMaint m).maint m.id = none := by
  apply State.maint_none
  unfold State.endMaint
  dsimp only
  refine List.foldlRecOn (motive := fun t : State => ∀ i ∈ t.maints.map (·.id), i ≠ m.id) _ _ ?_ ?_
  · rw [foldl_keeps (part := State.maints) State.maints_maintDone]
    intro i hi
    obtain ⟨x, hx, rfl⟩ := List.mem_map.1 hi
    have := (List.mem_filter.1 hx).2
    simp only [Bool.not_eq_true', Bool.or_eq_false_iff, beq_eq_false_iff_ne] at this
    exact this.1
  · intro t ht x _
    split
    · split
      · exact ht
      · rw [State.ids_beginMaint]
        exact ht
    · exact ht

end Sys2Proof.Machine
end

section
/-! SUPPORT. An invalidation at a core, step by step (R25, R37, R38). -/

namespace Sys2Proof.Machine

/-! ## An invalidation at a core (R37) -/

/-- What an operation in flight is known by to a maintenance operation. -/
def Req.route (r : Req) : Nat × Nat × Nat × Option Nat := (r.id, r.core, r.asid, r.page)

theorem State.routes_staleFills (s : State) (core : Nat) (p : Nat → Nat → Bool) :
    (s.staleFills core p).reqs.map Req.route = s.reqs.map Req.route := by
  unfold State.staleFills
  simp only [List.map_map]
  refine List.map_congr_left fun r _ => ?_
  simp only [Function.comp_apply]
  split
  · split <;> rfl
  · split <;> rfl
  · rfl

/-- A write-back of the L1 is sent after what is in flight. -/
theorem State.routes_sendBack (s : State) (core cid h : Nat) (x : L1Line) :
    s.reqs.map Req.route ⊆ (s.sendBack core cid h x).reqs.map Req.route := by
  unfold State.sendBack State.send
  simp only [State.push_reqs, List.map_append, State.routes_staleFills]
  exact List.subset_append_left ..

theorem State.routes_evictL1 (s : State) (core cid h asid ln : Nat) :
    s.reqs.map Req.route ⊆ (s.evictL1 core cid h asid ln).reqs.map Req.route := by
  unfold State.evictL1
  split
  · exact List.Subset.refl _
  · dsimp only
    split
    · exact List.Subset.refl _
    · exact State.routes_sendBack _ core cid h _

theorem State.maints_evictL1 (s : State) (core cid h asid ln : Nat) : (s.evictL1 core cid h asid ln).maints = s.maints := by
  unfold State.evictL1
  split
  · rfl
  · dsimp only
    split <;> rfl

theorem State.ctxs_evictL1 (s : State) (core cid h asid ln : Nat) : (s.evictL1 core cid h asid ln).ctxs = s.ctxs := by
  unfold State.evictL1
  split
  · rfl
  · dsimp only
    split <;> rfl

theorem State.core_sendBack (s : State) (core cid h : Nat) (x : L1Line) (n : Nat) : (s.sendBack core cid h x).core n = s.core n := rfl

theorem dropL1_of_findL1_none {l : List L1Line} {asid ln : Nat} (h : findL1 l asid ln = none) : dropL1 l asid ln = l := by
  refine List.filter_eq_self.2 fun x hx => ?_
  simpa [imp_iff_not_or] using List.find?_eq_none.1 h x hx

theorem State.l1_evictL1 (s : State) (core cid h asid ln : Nat) :
    ((s.evictL1 core cid h asid ln).core core).l1 = dropL1 (s.core core).l1 asid ln := by
  unfold State.evictL1
  split
  · rename_i hn
    exact (dropL1_of_findL1_none hn).symm
  · dsimp only
    split
    · rw [State.core_modCore_self]
    · rw [State.core_sendBack, State.core_modCore_self]

/-- The lines that leave an L1 one after another are gone from it, with every line of their ASID and number, and no other comes. -/
theorem State.mem_l1_evictAll (core cid h : Nat) (lines : List L1Line) (s : State) (x : L1Line)
    (hx : x ∈ ((lines.foldl (fun s y => s.evictL1 core cid h y.asid y.line) s).core core).l1) : x ∈ (s.core core).l1 ∧ x ∉ lines := by
  induction lines generalizing s with
  | nil => exact ⟨hx, List.not_mem_nil⟩
  | cons y lines ih =>
    obtain ⟨hmem, hne⟩ := ih _ hx
    rw [State.l1_evictL1, dropL1, List.mem_filter] at hmem
    obtain ⟨hmem, hkey⟩ := hmem
    refine ⟨hmem, fun hc => ?_⟩
    rcases List.mem_cons.1 hc with rfl | hc
    · simp at hkey
    · exact hne hc

/-- The lines of an L1 that an operation covers, as their core's step (b) meets them. -/
def State.coveredLines (s : State) (m : MaintOp) (core : Nat) : List L1Line :=
  (s.core core).l1.filter fun x => s.scopeHas m x.asid && m.hasPage x.vunit

/-- The state in which those lines have left. -/
def State.withoutLines (s : State) (m : MaintOp) (core : Nat) : State :=
  (s.coveredLines m core).foldl (fun s x => s.evictL1 core 0 noHandle x.asid x.line) s

theorem State.invalidate_eq (s : State) (m : MaintOp) (core : Nat) :
    s.invalidate m core = ((s.withoutLines m core).modCore core fun c => c.invalidate m (s.scopeHas m)).mapResident core
      (fun c => s.scopeHas m c.asid) m.staleGroup := rfl

theorem State.core_mapResident (s : State) (core : Nat) (p : Ctx → Bool) (f : Group → Group) (n : Nat) :
    (s.mapResident core p f).core n = s.core n := rfl

theorem State.core_invalidate (s : State) (m : MaintOp) (core : Nat) :
    (s.invalidate m core).core core = ((s.withoutLines m core).core core).invalidate m (s.scopeHas m) := by
  rw [State.invalidate_eq, State.core_mapResident, State.core_modCore_self]

theorem State.maints_invalidate (s : State) (m : MaintOp) (core : Nat) : (s.invalidate m core).maints = s.maints := by
  rw [State.invalidate_eq]
  exact foldl_keeps (part := State.maints) (fun t (x : L1Line) => State.maints_evictL1 t core 0 noHandle x.asid x.line) _ s

theorem State.ctxs_invalidate (s : State) (m : MaintOp) (core : Nat) :
    (s.invalidate m core).ctxs = s.ctxs.map fun x => if s.scopeHas m x.2.asid then (x.1, x.2.mapResident core m.staleGroup) else x := by
  have h : (s.withoutLines m core).ctxs = s.ctxs :=
    foldl_keeps (part := State.ctxs) (fun t (x : L1Line) => State.ctxs_evictL1 t core 0 noHandle x.asid x.line) _ s
  rw [State.invalidate_eq, State.mapResident, State.modCore_ctxs, h]

theorem State.routes_invalidate (s : State) (m : MaintOp) (core : Nat) :
    s.reqs.map Req.route ⊆ (s.invalidate m core).reqs.map Req.route := by
  rw [State.invalidate_eq]
  refine List.foldlRecOn (motive := fun t : State => s.reqs.map Req.route ⊆ t.reqs.map Req.route) _ _ (List.Subset.refl _) ?_
  intro t ht x _
  exact List.Subset.trans ht (State.routes_evictL1 ..)

/-- What is in flight through a covered page is among the operations that an acknowledgement waits for. -/
theorem State.mem_translated {s t : State} {m : MaintOp} {core : Nat} (hsub : s.reqs.map Req.route ⊆ t.reqs.map Req.route)
    (hscope : m.scope ≠ 2) {r : Req} (hr : r ∈ s.reqs) (hcore : r.core = core) (hasid : r.asid = m.asid)
    (hpage : r.page.any m.hasPage = true) : r.id ∈ t.translated m core := by
  obtain ⟨q, hq, hroute⟩ := List.mem_map.1 (hsub (List.mem_map_of_mem hr))
  simp only [Req.route, Prod.mk.injEq] at hroute
  obtain ⟨hid, hc, ha, hp⟩ := hroute
  refine List.mem_map.2 ⟨q, List.mem_filter.2 ⟨hq, ?_⟩, hid⟩
  simp [hc, hcore, ha, hasid, hp, hpage, State.scopeHas, hscope]

/-! ### What the core has left -/

theorem Core.tlb_invalidate {c : Core} {m : MaintOp} {has : Nat → Bool} {e : TlbEnt}
    (he : e ∈ (c.invalidate m has).tlb1 ∨ e ∈ (c.invalidate m has).tlb2) (hhas : has e.asid = true) :
    m.overlaps (e.vbase * 2 ^ e.size) (2 ^ e.size) = false := by
  simp only [Core.invalidate, List.mem_filter] at he
  rcases he with ⟨-, he⟩ | ⟨-, he⟩ <;> simpa [hhas] using he

theorem State.l1_invalidate {s : State} {m : MaintOp} {core : Nat} {x : L1Line} (hx : x ∈ ((s.invalidate m core).core core).l1)
    (hhas : s.scopeHas m x.asid = true) : m.hasPage x.vunit = false := by
  rw [State.core_invalidate] at hx
  obtain ⟨hmem, hne⟩ := State.mem_l1_evictAll core 0 noHandle _ s x hx
  by_contra hp
  exact hne (List.mem_filter.2 ⟨hmem, by simp [hhas, hp]⟩)

/-! ### Anchors (R25) -/

/-- An anchor that is VALID after step (b) lies outside the range. -/
theorem MaintOp.staleAnchor_valid {m : MaintOp} {a : Anchor} (h : (m.staleAnchor a).st = .valid) :
    m.overlaps (m.staleAnchor a).vbase.toNat (max 1 (m.staleAnchor a).limit.toNat) = false := by
  unfold MaintOp.staleAnchor at h ⊢
  split at h
  · cases h
  · rename_i hn
    rw [if_neg hn]
    simpa [h] using hn

/-- The anchors of a group: those of its splits and those still to be written. -/
def Group.hasAnchor (g : Group) (a : Anchor) : Prop :=
  (∃ k sp, g.split k = some sp ∧ a ∈ sp.anchors.toList) ∨ (∃ r ∈ g.results, ∃ k, .anchor k a ∈ r.writes)

theorem mem_mapEach {α β : Type} {n : Nat} {v : Vector α n} {f : α → β} {y : β} (h : y ∈ (mapEach v f).toList) : ∃ x, f x = y := by
  rw [Vector.mem_toList_iff, Vector.mem_iff_getElem] at h
  obtain ⟨i, hi, h⟩ := h
  exact ⟨v[i], by simpa [mapEach] using h⟩

theorem Group.split_mapSplits (g : Group) (f : Split → Split) (k : Nat) : (g.mapSplits f).split k = (g.split k).map f := by
  unfold Group.split Group.mapSplits
  by_cases hk : k < 4
  · rw [Vector.getElem?_eq_getElem hk, Vector.getElem?_eq_getElem hk]
    simp [mapEach]
  · rw [Vector.getElem?_eq_none (by omega), Vector.getElem?_eq_none (by omega)]
    rfl

/-- Every anchor of a group that step (b) has met is one that it has left. -/
theorem MaintOp.hasAnchor_staleGroup {m : MaintOp} {g : Group} {a : Anchor} (h : (m.staleGroup g).hasAnchor a) :
    ∃ b, m.staleAnchor b = a := by
  rcases h with ⟨k, sp, hs, ha⟩ | ⟨r, hr, k, ha⟩
  · have hs : (g.mapSplits fun (sp : Split) => { sp with
        anchors := mapEach sp.anchors m.staleAnchor, badPages := sp.badPages.filter fun p => !m.hasNote p.1 }).split k = some sp := hs
    rw [Group.split_mapSplits, Option.map_eq_some_iff] at hs
    obtain ⟨sp0, -, rfl⟩ := hs
    exact mem_mapEach ha
  · obtain ⟨r0, -, rfl⟩ := List.mem_map.1 hr
    obtain ⟨w, -, hw⟩ := List.mem_map.1 ha
    cases w with
    | anchor j b =>
      simp only [RegWrite.anchor.injEq] at hw
      exact ⟨b, hw.2⟩
    | _ => cases hw

theorem MaintOp.valid_staleGroup {m : MaintOp} {g : Group} {a : Anchor} (h : (m.staleGroup g).hasAnchor a) (hv : a.st = .valid) :
    m.overlaps a.vbase.toNat (max 1 a.limit.toNat) = false := by
  obtain ⟨b, rfl⟩ := MaintOp.hasAnchor_staleGroup h
  exact MaintOp.staleAnchor_valid hv

/-- No frame of the core keeps a valid anchor of the range. -/
theorem State.anchors_invalidate {s : State} {m : MaintOp} {core : Nat} {c : Nat × Ctx} (hc : c ∈ (s.invalidate m core).ctxs)
    (hhas : s.scopeHas m c.2.asid = true) {f : Nat × Frame} (hf : f ∈ c.2.frames) (hcore : f.2.core = core) {a : Anchor}
    (hv : a.st = .valid) (ha : f.2.group.hasAnchor a) : m.overlaps a.vbase.toNat (max 1 a.limit.toNat) = false := by
  rw [State.ctxs_invalidate] at hc
  obtain ⟨x, -, rfl⟩ := List.mem_map.1 hc
  by_cases hx : s.scopeHas m x.2.asid = true
  · rw [if_pos hx] at hf
    obtain ⟨y, -, rfl⟩ := List.mem_map.1 hf
    dsimp only at hcore ha
    split at ha
    · exact MaintOp.valid_staleGroup ha hv
    · rename_i hy
      rw [if_neg hy] at hcore
      simp [hcore] at hy
  · rw [if_neg hx] at hhas
    exact absurd hhas hx

/-! ### The steps of an invalidation -/

/-- What an invalidation leaves at a recipient: nothing that was translated through its range (R25, R37). -/
structure State.Forgets (s t : State) (m : MaintOp) (core : Nat) : Prop where
  icache : (t.core core).icache = []
  tlb : ∀ e, e ∈ (t.core core).tlb1 ∨ e ∈ (t.core core).tlb2 → s.scopeHas m e.asid = true →
    m.overlaps (e.vbase * 2 ^ e.size) (2 ^ e.size) = false
  l1 : ∀ x ∈ (t.core core).l1, s.scopeHas m x.asid = true → m.hasPage x.vunit = false
  anchors : ∀ c ∈ t.ctxs, s.scopeHas m c.2.asid = true → ∀ f ∈ c.2.frames, f.2.core = core → ∀ a : Anchor, a.st = .valid →
    f.2.group.hasAnchor a → m.overlaps a.vbase.toNat (max 1 a.limit.toNat) = false

theorem State.forgets_invalidate (s : State) (m : MaintOp) (core : Nat) : s.Forgets (s.invalidate m core) m core where
  icache := by
    rw [State.core_invalidate]
    rfl
  tlb e he hhas := by
    rw [State.core_invalidate] at he
    exact Core.tlb_invalidate he hhas
  l1 x hx hhas := State.l1_invalidate hx hhas
  anchors c hc hhas f hf hcore a hv ha := State.anchors_invalidate hc hhas hf hcore hv ha

/-- The state in which a recipient has done its steps (a) and (b); one that is no core has nothing to forget. -/
def State.reached (s : State) (m : MaintOp) (rcp : Nat) : State := if rcp < 384 then s.invalidate m rcp else s

theorem State.maints_reached (s : State) (m : MaintOp) (rcp : Nat) : (s.reached m rcp).maints = s.maints := by
  unfold State.reached
  split
  · exact State.maints_invalidate ..
  · rfl

theorem State.routes_reached (s : State) (m : MaintOp) (rcp : Nat) : s.reqs.map Req.route ⊆ (s.reached m rcp).reqs.map Req.route := by
  unfold State.reached
  split
  · exact State.routes_invalidate ..
  · exact List.Subset.refl _

section
variable {s : State} {op rcp : Nat} {m : MaintOp} (hm : s.maint op = some m)
include hm

/-- R37 (a), (b). -/
theorem exec_tlbinvReceive (hinv : m.inv = true) (hstart : m.started = true) (hleft : rcp ∈ m.left) :
    exec (.tlbinvReceive op rcp) s = .next (((s.reached m rcp).modMaint op fun m' =>
      { m' with left := m'.left.filter (· != rcp), drain := insert m'.drain rcp ((s.reached m rcp).translated m rcp) }).push
        (.tlbinvDrainAck op rcp)) := by
  show execTlbinvReceive op rcp s = _
  unfold execTlbinvReceive
  rw [hm]
  simp [hinv, hstart, hleft, State.reached]

/-- R37 (c), (d). -/
theorem exec_tlbinvDrainAck (hinv : m.inv = true) (hleft : rcp ∉ m.left) (hun : rcp ∈ m.unacked) (hd : s.draining m rcp = false) :
    exec (.tlbinvDrainAck op rcp) s = .next (
      let t := (s.dropFilled m rcp).modMaint op fun m' => { m' with unacked := m.unacked.filter (· != rcp) }
      if (m.unacked.filter (· != rcp)).isEmpty then t.push (.tlbinvComplete op) else t) := by
  show execTlbinvDrainAck op rcp s = _
  unfold execTlbinvDrainAck
  rw [hm]
  simp [hinv, hleft, hun, hd]

theorem exec_tlbinvDrainAck_draining (hd : s.draining m rcp = true) : exec (.tlbinvDrainAck op rcp) s = .next s := by
  show execTlbinvDrainAck op rcp s = _
  unfold execTlbinvDrainAck
  rw [hm]
  simp [hd]

theorem exec_tlbinvComplete :
    exec (.tlbinvComplete op) s = .next (if m.inv && m.started && m.unacked.isEmpty then s.endMaint m else s) := by
  show execTlbinvComplete op s = _
  unfold execTlbinvComplete
  rw [hm]

theorem exec_mapqComplete :
    exec (.mapqComplete op) s = .next (if !m.inv && m.started && m.left.isEmpty then s.endMaint m else s) := by
  show execMapqComplete op s = _
  unfold execMapqComplete
  rw [hm]

end

theorem State.maints_dropFilled (s : State) (m : MaintOp) (core : Nat) : (s.dropFilled m core).maints = s.maints := by
  unfold State.dropFilled
  dsimp only
  split <;> rfl

theorem filter_ne_isEmpty {l : List Nat} {a : Nat} (h : ∀ x ∈ l, x = a) : (l.filter (· != a)).isEmpty = true := by
  rw [List.isEmpty_iff, List.filter_eq_nil_iff]
  intro x hx
  simp [h x hx]

/-- An invalidation reaches a recipient: the operations in flight are noted, the acknowledgement is due, and a core forgets the range. -/
theorem tlbinvReceive_reaches {s : State} {op rcp : Nat} {m : MaintOp} (hm : s.maint op = some m) (hinv : m.inv = true)
    (hstart : m.started = true) (hleft : rcp ∈ m.left) :
    ∃ t, exec (.tlbinvReceive op rcp) s = .next t ∧
      (∃ d, t.maint op = some { m with left := m.left.filter (· != rcp), drain := insert m.drain rcp d } ∧
        (m.scope ≠ 2 → ∀ r ∈ s.reqs, r.core = rcp → r.asid = m.asid → r.page.any m.hasPage = true → r.id ∈ d)) ∧
      .tlbinvDrainAck op rcp ∈ t.todo ∧ (rcp < 384 → s.Forgets t m rcp) := by
  refine ⟨_, exec_tlbinvReceive hm hinv hstart hleft,
    ⟨(s.reached m rcp).translated m rcp, ?_, fun hscope r hr hcore hasid hpage => ?_⟩, ?_, fun hrcp => ?_⟩
  · exact State.maint_modMaint ((State.maint_congr (State.maints_reached s m rcp) op).trans hm) fun _ => rfl
  · exact State.mem_translated (State.routes_reached s m rcp) hscope hr hcore hasid hpage
  · exact List.mem_append_right _ (List.mem_singleton.2 rfl)
  · have h := State.forgets_invalidate s m rcp
    have he : s.reached m rcp = s.invalidate m rcp := if_pos hrcp
    rw [he]
    exact ⟨h.icache, h.tlb, h.l1, h.anchors⟩

/-- A recipient acknowledges; the operation completes with the last. -/
theorem tlbinvDrainAck_acknowledges {s : State} {op rcp : Nat} {m : MaintOp} (hm : s.maint op = some m) (hinv : m.inv = true)
    (hleft : rcp ∉ m.left) (hun : rcp ∈ m.unacked) (hdrain : ∀ id ∈ (lookup m.drain rcp).getD [], s.req id = none) :
    ∃ t, exec (.tlbinvDrainAck op rcp) s = .next t ∧ t.maint op = some { m with unacked := m.unacked.filter (· != rcp) } ∧
      ((∀ x ∈ m.unacked, x = rcp) → .tlbinvComplete op ∈ t.todo) := by
  have hd : s.draining m rcp = false := by
    simp only [State.draining, Bool.and_eq_false_iff]
    right
    rw [List.any_eq_false]
    intro id hid
    simp [hdrain id hid]
  have ht := State.maint_modMaint (f := fun m' => { m' with unacked := m.unacked.filter (· != rcp) })
    ((State.maint_congr (State.maints_dropFilled s m rcp) op).trans hm) fun _ => rfl
  refine ⟨_, exec_tlbinvDrainAck hm hinv hleft hun hd, ?_, fun hall => ?_⟩
  · dsimp only
    split <;> exact ht
  · dsimp only
    rw [if_pos (filter_ne_isEmpty hall)]
    exact List.mem_append_right _ (List.mem_singleton.2 rfl)

theorem State.draining_of_flight {s : State} {m : MaintOp} {rcp : Nat} (hdie : (s.die (dieOfRecipient rcp)).st = .good)
    (h : ∃ id ∈ (lookup m.drain rcp).getD [], (s.req id).isSome = true) : s.draining m rcp = true := by
  simp only [State.draining, hdie, Bool.and_eq_true, List.any_eq_true]
  exact ⟨by decide, h⟩

end Sys2Proof.Machine
end

section
/-! SUPPORT. A notice of MAPQ at a core: the parked splits it wakes stay awake under the rest of the notice (R34, R366). -/

namespace Sys2Proof.Machine

/-! ## A notice of MAPQ at a core (R34, R366) -/

theorem lookup_map {α β : Type} (l : List (Nat × α)) (g : α → β) (k : Nat) :
    lookup (l.map fun x => (x.1, g x.2)) k = (lookup l k).map g := by
  induction l with
  | nil => rfl
  | cons x l ih =>
    simp only [List.map_cons, lookup, ih]
    split
    · rfl
    · split <;> rfl

/-- The group at a focus is bound there, and its split is parked so, and awake. -/
def State.AwakeAt (s : State) (f : Focus) (p : Park) : Prop :=
  ∃ b h fr sp, lookup (s.core f.core).slots f.slot = some b ∧ b.frame = some h ∧ s.frame b.cid h = some fr ∧
    fr.group.split f.split = some sp ∧ sp.wait = .parked p ∧ sp.asleep = false

theorem State.AwakeAt.env {s : State} {f : Focus} {p : Park} (h : s.AwakeAt f p) :
    ∃ e, Env.of s f = some e ∧ e.sp.wait = .parked p ∧ e.sp.asleep = false := by
  obtain ⟨b, k, fr, sp, hb, hk, hfr, hsp, hw, ha⟩ := h
  unfold State.frame at hfr
  split at hfr
  · cases hfr
  · rename_i c hc
    unfold Env.of
    simp only [hb, hk, hc, hfr, hsp]
    cases sp.read with
    | none => exact ⟨_, rfl, hw, ha⟩
    | some q => exact ⟨_, rfl, hw, ha⟩

/-- It stays so under what leaves the slots and the frames as they are. -/
theorem State.AwakeAt.congr {s t : State} {f : Focus} {p : Park} (h : s.AwakeAt f p)
    (hslots : (t.core f.core).slots = (s.core f.core).slots) (hframes : ∀ cid k, t.frame cid k = s.frame cid k) : t.AwakeAt f p := by
  obtain ⟨b, k, fr, sp, hb, hk, hfr, hsp⟩ := h
  exact ⟨b, k, fr, sp, hslots ▸ hb, hk, (hframes ..).trans hfr, hsp⟩

theorem State.AwakeAt.modCore {s : State} {f : Focus} {p : Park} (h : s.AwakeAt f p) (n : Nat) {g : Core → Core}
    (hg : ∀ c, (g c).slots = c.slots) : (s.modCore n g).AwakeAt f p := by
  refine h.congr ?_ fun _ _ => rfl
  by_cases hn : n = f.core
  · subst hn
    rw [State.core_modCore_self, hg]
  · rw [State.core_modCore_ne _ _ _ _ hn]

/-- A change of a frame that keeps its group, or of the split's group that keeps the split parked so and awake. -/
theorem State.AwakeAt.modFrame {s : State} {f : Focus} {p : Park} (h : s.AwakeAt f p) (cid k : Nat) {g : Frame → Frame}
    (hg : ∀ fr sp, fr.group.split f.split = some sp → sp.wait = .parked p → sp.asleep = false →
      ∃ sp', (g fr).group.split f.split = some sp' ∧ sp'.wait = .parked p ∧ sp'.asleep = false) : (s.modFrame cid k g).AwakeAt f p := by
  obtain ⟨b, j, fr, sp, hb, hj, hfr, hsp, hw, ha⟩ := h
  refine ⟨b, j, ?_⟩
  rw [State.core_modFrame]
  by_cases hk : (cid, k) = (b.cid, j)
  · obtain ⟨rfl, rfl⟩ := Prod.mk.inj hk
    obtain ⟨sp', hsp', hw', ha'⟩ := hg fr sp hsp hw ha
    exact ⟨g fr, sp', hb, hj, by rw [State.frame_modFrame_self, hfr]; rfl, hsp', hw', ha'⟩
  · exact ⟨fr, sp, hb, hj, by rw [State.frame_modFrame_ne _ _ _ _ _ _ hk, hfr], hsp, hw, ha⟩

/-- A change of a context that leaves its frames. -/
theorem State.frame_modCtx {s : State} {cid : Nat} {g : Ctx → Ctx} (hg : ∀ c, (g c).frames = c.frames) (d k : Nat) :
    (s.modCtx cid g).frame d k = s.frame d k := by
  unfold State.frame
  by_cases hd : cid = d
  · subst hd
    rw [State.ctx_modCtx_self]
    cases s.ctx cid with
    | none => rfl
    | some c => exact congrArg (lookup · k) (hg c)
  · rw [State.ctx_modCtx_ne _ _ _ _ hd]

theorem State.AwakeAt.modCtx {s : State} {f : Focus} {p : Park} (h : s.AwakeAt f p) (cid : Nat) {g : Ctx → Ctx}
    (hg : ∀ c, (g c).frames = c.frames) : (s.modCtx cid g).AwakeAt f p :=
  h.congr (by rw [State.core_modCtx]) (State.frame_modCtx hg)

/-- A change of all splits that keeps a split parked so and awake. -/
theorem State.AwakeAt.mapSplits {s : State} {f : Focus} {p : Park} (h : s.AwakeAt f p) (core : Nat) (q : Bind → Bool) {g : Split → Split}
    (hg : ∀ sp, sp.wait = .parked p → sp.asleep = false → (g sp).wait = .parked p ∧ (g sp).asleep = false) :
    (s.mapSplits core q g).AwakeAt f p := by
  unfold State.mapSplits
  refine List.foldlRecOn (motive := fun t : State => t.AwakeAt f p) _ _ h fun t ht b _ => ?_
  split
  · exact ht
  · split
    · refine ht.modFrame _ _ fun fr sp hsp hw ha => ⟨g sp, ?_, hg sp hw ha⟩
      show (fr.group.mapSplits g).split f.split = _
      rw [Group.split_mapSplits, hsp]
      rfl
    · exact ht

theorem State.AwakeAt.wake {s : State} {f : Focus} {p : Park} (h : s.AwakeAt f p) (core : Nat) (q : Wait → Bool) :
    (s.wake core q).AwakeAt f p := by
  refine h.mapSplits core _ fun sp hw ha => ?_
  split
  · exact ⟨hw, rfl⟩
  · exact ⟨hw, ha⟩

theorem State.AwakeAt.pushAll {s : State} {f : Focus} {p : Park} (h : s.AwakeAt f p) (l : List Instr) : (s.pushAll l).AwakeAt f p := h

theorem State.AwakeAt.noteFrame {s : State} {f : Focus} {p : Park} (h : s.AwakeAt f p) (cid k : Nat) : (s.noteFrame cid k).AwakeAt f p := by
  refine h.modCtx cid fun c => ?_
  split
  · split <;> rfl
  · rfl

theorem State.AwakeAt.readyFrame {s : State} {f : Focus} {p : Park} (h : s.AwakeAt f p) (cid k : Nat) : (s.readyFrame cid k).AwakeAt f p := by
  unfold State.readyFrame
  split
  · exact h
  · have hr : (s.modFrame cid k fun fr => { fr with st := .ready }).AwakeAt f p := by
      refine h.modFrame cid k ?_
      exact fun fr sp hsp hw ha => ⟨sp, hsp, hw, ha⟩
    dsimp only
    split
    · exact hr.noteFrame cid k
    · refine State.AwakeAt.pushAll ((hr.noteFrame cid k).modCore _ ?_) _
      exact fun _ => rfl

theorem State.AwakeAt.readyWoken {s : State} {f : Focus} {p : Park} (h : s.AwakeAt f p) (core : Nat) (has : Nat → Bool) :
    (s.readyWoken core has).AwakeAt f p := by
  unfold State.readyWoken
  refine List.foldlRecOn (motive := fun t : State => t.AwakeAt f p) _ _ h fun t ht c _ => ?_
  refine List.foldlRecOn (motive := fun t : State => t.AwakeAt f p) _ _ ht fun u hu y _ => ?_
  dsimp only
  split
  · exact hu.readyFrame ..
  · exact hu

theorem State.AwakeAt.wakeEngines {s : State} {f : Focus} {p : Park} (h : s.AwakeAt f p) (m : MaintOp) (core : Nat) (has : Nat → Bool) :
    (s.wakeEngines m core has).AwakeAt f p := by
  unfold State.wakeEngines
  refine List.foldlRecOn (motive := fun t : State => t.AwakeAt f p) _ _ ?_ fun t ht x _ => ?_
  · refine List.foldlRecOn (motive := fun t : State => t.AwakeAt f p) _ _ ?_ fun t ht o _ => ?_
    · refine List.foldlRecOn (motive := fun t : State => t.AwakeAt f p) _ _ h fun t ht r _ => ?_
      refine State.AwakeAt.pushAll (ht.modCore core ?_) _
      exact fun _ => rfl
    · refine State.AwakeAt.pushAll (ht.modCore core ?_) [_]
      exact fun _ => rfl
  · refine State.AwakeAt.wake (State.AwakeAt.pushAll (ht.modCtx x.1 ?_) _) core _
    exact fun _ => rfl

/-- A context whose groups on a core are changed keeps its frames, and each of the core keeps all but its group. -/
theorem Ctx.lookup_mapResident (c : Ctx) (core : Nat) (g : Group → Group) (k : Nat) :
    lookup (c.mapResident core g).frames k =
      (lookup c.frames k).map fun fr => if fr.core == core then { fr with group := g fr.group } else fr := by
  rw [← lookup_map]
  rfl

theorem State.ctx_mapResident (s : State) (core : Nat) (q : Ctx → Bool) (g : Group → Group) (cid : Nat) :
    (s.mapResident core q g).ctx cid = (s.ctx cid).map fun c => if q c then c.mapResident core g else c := by
  unfold State.ctx State.mapResident
  rw [← lookup_map]
  congr 1
  refine List.map_congr_left fun x _ => ?_
  split <;> rfl

theorem MaintOp.wakeSplit_parked {m : MaintOp} {sp : Split} {p : Park} (hw : sp.wait = .parked p) (hp : p.pages.any m.hasPage = true) :
    (m.wakeSplit sp).wait = .parked { p with woken := true } ∧ (m.wakeSplit sp).asleep = false := by
  unfold MaintOp.wakeSplit
  rw [hw]
  simp [hp]

/-- The notice wakes a split of its address spaces that is parked on a covered page. -/
theorem State.awakeAt_mapResident {s : State} {f : Focus} {e : Env} {p : Park} {m : MaintOp} {q : Ctx → Bool} (he : Env.of s f = some e)
    (hcore : e.fr.core = f.core) (hq : q e.ctx = true) (hw : e.sp.wait = .parked p) (hp : p.pages.any m.hasPage = true) :
    (s.mapResident f.core q fun g => g.mapSplits m.wakeSplit).AwakeAt f { p with woken := true } := by
  obtain ⟨-, -, hb, hk, hcid, hc, fr, sp, hfr, hsp, -, hover⟩ := Env.of_eq he
  have hfrom : e.fr.core = fr.core ∧ e.sp.wait = sp.wait := by
    cases hr : sp.read <;> rw [hr] at hover <;> obtain ⟨h1, h2⟩ := Prod.mk.inj hover <;> rw [h1, h2] <;> exact ⟨rfl, rfl⟩
  obtain ⟨h1, h2⟩ := hfrom
  obtain ⟨hwait, hawake⟩ := MaintOp.wakeSplit_parked (h2 ▸ hw) hp
  refine ⟨e.bind, e.h, { fr with group := fr.group.mapSplits m.wakeSplit }, m.wakeSplit sp, hb, hk, ?_, ?_, hwait, hawake⟩
  · rw [← hcid]
    simp only [State.frame, State.ctx_mapResident, hc, Option.map_some, hq, if_true, Ctx.lookup_mapResident, hfr, ← h1, hcore,
      beq_self_eq_true]
  · rw [Group.split_mapSplits, hsp]
    rfl

/-- A core on which a notice has acted. -/
def State.noticed (s : State) (m : MaintOp) (rcp : Nat) : State :=
  if rcp < 384 then
    (((s.mapResident rcp (fun c => s.scopeHas m c.asid) fun g => g.mapSplits m.wakeSplit).readyWoken rcp (s.scopeHas m)).wakeEngines m rcp
      (s.scopeHas m)).modCore rcp fun c => { c with filter := [] }
  else s

theorem State.awakeAt_noticed {s : State} {f : Focus} {e : Env} {p : Park} {m : MaintOp} (hrcp : f.core < 384) (he : Env.of s f = some e)
    (hcore : e.fr.core = f.core) (hq : s.scopeHas m e.ctx.asid = true) (hw : e.sp.wait = .parked p) (hp : p.pages.any m.hasPage = true) :
    (s.noticed m f.core).AwakeAt f { p with woken := true } := by
  have h := State.awakeAt_mapResident (q := fun c => s.scopeHas m c.asid) he hcore hq hw hp
  rw [State.noticed, if_pos hrcp]
  refine ((h.readyWoken f.core _).wakeEngines m f.core _).modCore f.core ?_
  exact fun _ => rfl

theorem State.maints_mapSplits (s : State) (core : Nat) (q : Bind → Bool) (g : Split → Split) : (s.mapSplits core q g).maints = s.maints :=
  (congrArg State.maints (State.beyondHomes_mapSplits s core q g) :)

theorem State.maints_readyFrame (s : State) (cid k : Nat) : (s.readyFrame cid k).maints = s.maints := by
  unfold State.readyFrame
  split
  · rfl
  · dsimp only
    split
    · simp [State.noteFrame]
    · simp [State.offer, State.noteFrame]

theorem State.maints_readyWoken (s : State) (core : Nat) (has : Nat → Bool) : (s.readyWoken core has).maints = s.maints := by
  unfold State.readyWoken
  refine foldl_keeps (part := State.maints) (fun t c => ?_) _ s
  refine foldl_keeps (part := State.maints) (fun u y => ?_) _ t
  dsimp only
  split
  · exact State.maints_readyFrame ..
  · rfl

theorem State.maints_rearm (s : State) (core : Nat) : (s.rearm core).maints = s.maints := State.maints_mapSplits ..

theorem State.maints_wakeEngines (s : State) (m : MaintOp) (core : Nat) (has : Nat → Bool) : (s.wakeEngines m core has).maints = s.maints := by
  unfold State.wakeEngines
  dsimp only
  rw [foldl_keeps (part := State.maints), foldl_keeps (part := State.maints), foldl_keeps (part := State.maints)]
  · exact fun t r => rfl
  · exact fun t o => rfl
  · exact fun t x => (State.maints_rearm _ _).trans (State.modCtx_maints ..)

theorem State.maints_noticed (s : State) (m : MaintOp) (rcp : Nat) : (s.noticed m rcp).maints = s.maints := by
  unfold State.noticed
  split
  · rw [State.modCore_maints, State.maints_wakeEngines, State.maints_readyWoken]
    rfl
  · rfl

/-- R366: a notice reaches a recipient. -/
theorem exec_mapqNoticeReceive {s : State} {op rcp : Nat} {m : MaintOp} (hm : s.maint op = some m) (hinv : m.inv = false)
    (hstart : m.started = true) (hleft : rcp ∈ m.left) :
    exec (.mapqNoticeReceive op rcp) s = .next (
      let t := (s.noticed m rcp).modMaint op fun m' => { m' with left := m.left.filter (· != rcp) }
      if (m.left.filter (· != rcp)).isEmpty then t.push (.mapqComplete op) else t) := by
  show execMapqNoticeReceive op rcp s = _
  unfold execMapqNoticeReceive
  rw [hm]
  simp [hinv, hstart, hleft, State.noticed]

/-- A notice wakes the splits of its recipient that are parked on its pages; the operation completes with the last recipient. -/
theorem mapqNoticeReceive_wakes {s : State} {op rcp : Nat} {m : MaintOp} (hm : s.maint op = some m) (hinv : m.inv = false)
    (hstart : m.started = true) (hleft : rcp ∈ m.left) :
    ∃ t, exec (.mapqNoticeReceive op rcp) s = .next t ∧ t.maint op = some { m with left := m.left.filter (· != rcp) } ∧
      ((∀ x ∈ m.left, x = rcp) → .mapqComplete op ∈ t.todo) ∧
      ∀ f e p, rcp < 384 → Env.of s f = some e → f.core = rcp → e.fr.core = rcp → s.scopeHas m e.ctx.asid = true →
        e.sp.wait = .parked p → p.pages.any m.hasPage = true →
        ∃ e', Env.of t f = some e' ∧ e'.sp.wait = .parked { p with woken := true } ∧ e'.sp.asleep = false := by
  have ht := State.maint_modMaint (f := fun m' => { m' with left := m.left.filter (· != rcp) })
    ((State.maint_congr (State.maints_noticed s m rcp) op).trans hm) fun _ => rfl
  refine ⟨_, exec_mapqNoticeReceive hm hinv hstart hleft, ?_, fun hall => ?_, fun f e p hrcp he hf hcore hq hw hp => ?_⟩
  · dsimp only
    split <;> exact ht
  · dsimp only
    rw [if_pos (filter_ne_isEmpty hall)]
    exact List.mem_append_right _ (List.mem_singleton.2 rfl)
  · subst hf
    have h := State.awakeAt_noticed hrcp he hcore hq hw hp
    dsimp only
    split <;> exact State.AwakeAt.env h

end Sys2Proof.Machine
end

section
/-! SUPPORT. Sampling intervals, frames, migrations and the Porters' firmware (R34, R64 to R69, R84). -/

namespace Sys2Proof.Machine

/-! ## The end of a sampling interval (R64, R65, R69) -/

theorem exec_hotlistIntervalEnd (s : State) : exec .hotlistIntervalEnd s = .next s.closeIntervals := rfl

theorem State.interval_pos (s : State) : 0 < s.interval := by
  unfold State.interval unitsPerNs
  have h : 0 < min (max (s.hotctl.extractLsb' 8 10).toNat 1) 1000 := by omega
  omega

/-- The state in which the intervals that are over have ended. -/
def State.ended (s : State) : State := State.endIntervals ((s.time - s.hotStart) / s.interval) s

theorem State.closeIntervals_of_over {s : State} (h : s.intervalOver = true) :
    s.closeIntervals = if s.ended.porterInterval.homeHeld && !s.homeHeld then s else s.ended.porterInterval := by
  unfold State.closeIntervals
  rw [if_pos h]
  rfl

theorem State.hotStart_closed (s : State) :
    s.ended.porterInterval.hotStart = s.hotStart + (s.time - s.hotStart) / s.interval * s.interval := by
  rw [State.hotStart_of_beyondPorter (State.beyondPorter_porterInterval _), State.ended, State.hotStart_endIntervals]

/-- Less than an interval is left. -/
theorem State.time_lt_closed {s : State} (h : s.intervalOver = true) :
    s.time < s.hotStart + (s.time - s.hotStart) / s.interval * s.interval + s.interval := by
  have hle : s.hotStart + s.interval ≤ s.time := of_decide_eq_true h
  have := Nat.lt_div_mul_add (a := s.time - s.hotStart) s.interval_pos
  omega

theorem State.intervals_pos {s : State} (h : s.intervalOver = true) : 1 ≤ (s.time - s.hotStart) / s.interval := by
  have hle : s.hotStart + s.interval ≤ s.time := of_decide_eq_true h
  exact (Nat.one_le_div_iff s.interval_pos).2 (by omega)

theorem State.beyondIntervals_ended (s : State) : s.ended.beyondIntervals = s.beyondIntervals := State.beyondIntervals_endIntervals ..

theorem State.sketches_ended {s : State} (h : s.intervalOver = true) (hen : s.hotctl.getLsbD 0 = true) :
    s.ended.sketches = mapEach s.sketches fun k => k.idle ((s.time - s.hotStart) / s.interval) := by
  obtain ⟨n, hn⟩ := Nat.exists_eq_add_of_le' (State.intervals_pos h)
  rw [State.ended, hn]
  exact State.sketches_endIntervals n hen

/-- With no window table and no frame to give back the Porter reads nothing. -/
theorem State.sketches_porterInterval_quiet {s : State} (hoff : s.mgwt.getLsbD 0 = false) (hnone : s.keptFrames = []) :
    s.porterInterval.sketches = s.sketches := by
  unfold State.porterInterval State.readWindows
  rw [hnone, hoff]
  split <;> rfl

/-- Each sketch has been started again at every interval; what the Porter reads afterwards counts in it. -/
theorem State.sketches_closed {s : State} (h : s.intervalOver = true) (hen : s.hotctl.getLsbD 0 = true) {c : Nat} (hc : c < 14) :
    ∃ k y, s.sketches[c]? = some k ∧ s.ended.porterInterval.sketches[c]? = some y ∧
      y.seq = k.seq + BitVec.ofNat 32 ((s.time - s.hotStart) / s.interval) ∧
      (s.mgwt.getLsbD 0 = false → s.keptFrames = [] → y = k.idle ((s.time - s.hotStart) / s.interval)) := by
  have hk : s.ended.sketches[c]? = some (s.sketches[c].idle ((s.time - s.hotStart) / s.interval)) := by
    rw [State.sketches_ended h hen]
    simp [mapEach, hc]
  obtain ⟨y, hy, hseq⟩ := State.sketches_of_beyondPorter (State.beyondPorter_porterInterval s.ended) hk
  refine ⟨s.sketches[c], y, Vector.getElem?_eq_getElem hc, hy, hseq, fun hoff hnone => ?_⟩
  have hb := State.beyondIntervals_ended s
  rw [State.sketches_porterInterval_quiet (by rw [State.mgwt_of_beyondIntervals hb, hoff])
    (by rw [State.keptFrames_of_beyondIntervals hb, hnone]), hk] at hy
  exact (Option.some.inj hy).symm

/-- A frame that the Porter keeps goes back, or is kept where its ring is full. -/
theorem State.keptFrames_closed {s : State} {x : Nat × Nat} (hx : s.keptFrames = [x]) (hup : (s.die 0).st = .good ∨ (s.die 1).st = .good) :
    s.ended.porterInterval.keptFrames =
      if (State.giveFrame { s.ended.readWindows with keptFrames := [] } x.1 x.2).2 then [] else [x] := by
  have hb := State.beyondIntervals_ended s
  have hdie (i : Nat) : s.ended.die i = s.die i := by
    unfold State.die
    rw [State.dies_of_beyondIntervals hb]
  unfold State.porterInterval
  rw [hdie, hdie, State.keptFrames_of_beyondIntervals hb, hx, if_pos (by simpa using hup)]
  exact State.keptFrames_returnFrame _ x

/-! ## A free frame (R69) -/

theorem State.taken_of_beyondHomes {s t : State} (h : t.beyondHomes = s.beyondHomes) : t.taken = s.taken := (congrArg State.taken h :)

theorem freeFrameTake_cases {s u v : State} {ring take e : Nat} (hup : s.ringUp ring = true)
    (hu : s.readMem (ffBase (s.freeRing ring) + 4) 4 = (u, take))
    (hv : u.readMem (ffBase (s.freeRing ring) + 64 + 8 * (take % 2 ^ ffLog (s.freeRing ring))) 8 = (v, e)) :
    (e % 2 = 1 → ∃ t, exec (.freeFrameTake ring) s = .next t ∧ t.taken = s.taken ++ [(ring, bitsOf e 18 34 * 262144)]) ∧
    (e % 2 = 0 → exec (.freeFrameTake ring) s = .next v) := by
  have hb : v.beyondHomes = s.beyondHomes := by
    have h1 := State.beyondHomes_readMem s (ffBase (s.freeRing ring) + 4) 4
    have h2 := State.beyondHomes_readMem u (ffBase (s.freeRing ring) + 64 + 8 * (take % 2 ^ ffLog (s.freeRing ring))) 8
    rw [hu] at h1
    rw [hv] at h2
    exact h2.trans h1
  have hexec : exec (.freeFrameTake ring) s = execFreeFrameTake ring s := rfl
  rw [hexec]
  unfold execFreeFrameTake
  simp only [hup, hu, hv, Bool.not_true, Bool.false_eq_true, if_false]
  constructor
  · intro he
    refine ⟨_, by rw [if_neg (by simp [he])], ?_⟩
    show State.taken _ ++ _ = _
    rw [State.taken_of_beyondHomes (s := s)]
    rw [State.beyondHomes_writeMem, State.beyondHomes_writeMem, hb]
  · intro he
    simp [he]

/-! ## A migration (R66, R67) -/

theorem State.annex_modAnnex (s : State) {a : Nat} (ha : a < 2) (f : Annex → Annex) : (s.modAnnex a f).annex a = f (s.annex a) := by
  simp [State.annex, State.modAnnex, ha]

theorem State.annex_sweepPage (s : State) (a : Nat) (m : MigCmd) (inv : Bool) (b : Nat) : (s.sweepPage a m inv).annex b = s.annex b := by
  unfold State.annex State.sweepPage
  dsimp only
  rw [State.annexes_startMaint]

theorem State.hasMaint_sweepPage (s : State) (a : Nat) (m : MigCmd) (inv : Bool) :
    (s.sweepPage a m inv).hasMaint inv m.asid (m.va.toNat / m.size * m.size) (m.va.toNat / m.size * m.size + m.size) (.migration a) :=
  State.hasMaint_startMaint ..

/-- What a command comes to whose address has a leaf (R67 steps 1 to 3). -/
def State.takeLeaf (v : State) (a : Nat) (m : MigCmd) (at_ : Nat) (e : W64) (big : Bool) : State :=
  if big != m.big then v.endMove a m 2 0
  else if leafType e != 0 then v.endMove a m 5 0
  else if m.badFrame || !v.frameOk (v.moveVf m) m.dst m.size then v.endMove a m 3 0
  else ((v.writeQuiet at_ 8 (guarded e).toNat).modAnnex a fun x => { x with cur := some (m, e, at_), stage := .guarded }).sweepPage a m true

section
variable {s u v : State} {a : Nat} {m : MigCmd} (ha : a < 2) (hidle : (s.annex a).cur = none) (hdie : (s.die (2 + a)).st = .good)
  (hfrozen : (s.die (2 + a)).frozen = false) (hnext : s.nextMove a = (u, some m)) (hroom : u.eventsBlocked (u.moveVf m) = false)
include ha hidle hdie hfrozen hnext hroom

theorem exec_migrationCommand_noLeaf (hleaf : (u.uncounted fun s => s.findLeaf m.asid m.va) = (v, none)) :
    exec (.migrationCommand a) s = .next (v.endMove a m 2 0) := by
  have hexec : exec (.migrationCommand a) s = execMigrationCommand a s := rfl
  rw [hexec]
  unfold execMigrationCommand
  simp [hidle, hdie, hfrozen, hnext, hroom, hleaf, ha]

theorem exec_migrationCommand_leaf {at_ : Nat} {e : W64} {big : Bool}
    (hleaf : (u.uncounted fun s => s.findLeaf m.asid m.va) = (v, some (at_, e, big))) :
    exec (.migrationCommand a) s = .next (v.takeLeaf a m at_ e big) := by
  have hexec : exec (.migrationCommand a) s = execMigrationCommand a s := rfl
  rw [hexec]
  unfold execMigrationCommand
  simp [hidle, hdie, hfrozen, hnext, hroom, hleaf, ha, State.takeLeaf]

end

theorem State.takeLeaf_size {v : State} {a : Nat} {m : MigCmd} {at_ : Nat} {e : W64} {big : Bool} (hbig : big ≠ m.big) :
    v.takeLeaf a m at_ e big = v.endMove a m 2 0 := by
  simp [State.takeLeaf, hbig]

section
variable {v : State} {a : Nat} {m : MigCmd} {at_ : Nat} {e : W64} {big : Bool} (hbig : big = m.big)
include hbig

theorem State.takeLeaf_type (htype : leafType e ≠ 0) : v.takeLeaf a m at_ e big = v.endMove a m 5 0 := by
  simp [State.takeLeaf, hbig, htype]

theorem State.takeLeaf_frame (htype : leafType e = 0) (hbad : m.badFrame = true ∨ v.frameOk (v.moveVf m) m.dst m.size = false) :
    v.takeLeaf a m at_ e big = v.endMove a m 3 0 := by
  unfold State.takeLeaf
  rw [if_neg (by simp [hbig]), if_neg (by simp [htype]), if_pos (by simpa using hbad)]

/-- A leaf that may move is guarded, and its page is invalidated. -/
theorem State.takeLeaf_guards (ha : a < 2) (htype : leafType e = 0) (hgood : m.badFrame = false)
    (hok : v.frameOk (v.moveVf m) m.dst m.size = true) :
    ((v.takeLeaf a m at_ e big).annex a).cur = some (m, e, at_) ∧ ((v.takeLeaf a m at_ e big).annex a).stage = .guarded ∧
      (v.takeLeaf a m at_ e big).hasMaint true m.asid (m.va.toNat / m.size * m.size) (m.va.toNat / m.size * m.size + m.size) (.migration a) := by
  unfold State.takeLeaf
  rw [if_neg (by simp [hbig]), if_neg (by simp [htype]), if_neg (by simp [hgood, hok]), State.annex_sweepPage, State.annex_modAnnex _ ha]
  exact ⟨rfl, rfl, State.hasMaint_sweepPage ..⟩

end

/-- The frame is copied, and the leaf moved where it is as it was guarded (R67 steps 4 and 5). -/
def State.copyMove (s : State) (a : Nat) (m : MigCmd) (e : W64) (at_ : Nat) (far : Bool) : State :=
  let s := (s.uncounted fun s => (State.copyLines (frameOf m.big e / 128) (m.dst / 128) far (m.size / 128) s, ())).1
  let (s, now) := s.readQuiet at_ 8
  if now == (guarded e).toNat then
    ((s.writeQuiet at_ 8 (movedLeaf e m.dst far).toNat).modAnnex a fun x => { x with stage := .copied }).sweepPage a m true
  else (s.modAnnex a fun x => { x with stage := .undone }).sweepPage a m true

theorem State.stage_copyMove {s : State} {a : Nat} (ha : a < 2) (m : MigCmd) (e : W64) (at_ : Nat) (far : Bool) :
    ((s.copyMove a m e at_ far).annex a).stage = .copied ∨ ((s.copyMove a m e at_ far).annex a).stage = .undone := by
  unfold State.copyMove
  dsimp only
  split
  · left
    rw [State.annex_sweepPage, State.annex_modAnnex _ ha]
  · right
    rw [State.annex_sweepPage, State.annex_modAnnex _ ha]

/-- What each stage of a move goes on to (R67 steps 4 to 8). -/
def State.moveStep (s : State) (a : Nat) (m : MigCmd) (e : W64) (at_ : Nat) : MigStage → State
  | .guarded => s.copyMove a m e at_ ((s.region m.dst).any fun r => 2 ≤ r)
  | .copied => (s.modAnnex a fun x => { x with stage := .waking true }).sweepPage a m false
  | .undone => (s.modAnnex a fun x => { x with stage := .waking false }).sweepPage a m false
  | .waking done => if s.eventsBlocked (s.moveVf m) then s else s.endMove a m (if done then 1 else 4) (frameOf m.big e)
  | .idle => s

theorem exec_migrationInvalidationDone {s : State} {a : Nat} {m : MigCmd} {e : W64} {at_ : Nat} (hcur : (s.annex a).cur = some (m, e, at_))
    (hdie : (s.die (2 + a)).st = .good) (hfrozen : (s.die (2 + a)).frozen = false) (hover : ∀ o ∈ s.maints, o.owner ≠ .migration a)
    (hold : s.homesUp (frameOf m.big e) m.size = true) (hnew : s.homesUp m.dst m.size = true) :
    exec (.migrationInvalidationDone a) s = .next (s.moveStep a m e at_ (s.annex a).stage) := by
  have hexec : exec (.migrationInvalidationDone a) s = execMigrationInvalidationDone a s := rfl
  have hnone : (s.maints.any fun o => o.owner == .migration a) = false := by
    rw [List.any_eq_false]
    intro o ho
    simpa using hover o ho
  rw [hexec]
  unfold execMigrationInvalidationDone
  simp only [hcur]
  rw [if_neg (by simp [hdie, hfrozen, hnone, hold, hnew])]
  cases (s.annex a).stage with
  | guarded => cases hr : s.region m.dst <;> simp only [State.moveStep, State.copyMove, hr, Option.any_some, Option.any_none]
  | _ => simp only [State.moveStep]

theorem State.stage_moveStep_guarded {s : State} {a : Nat} (ha : a < 2) (m : MigCmd) (e : W64) (at_ : Nat) :
    ((s.moveStep a m e at_ .guarded).annex a).stage = .copied ∨ ((s.moveStep a m e at_ .guarded).annex a).stage = .undone := by
  rw [State.moveStep]
  exact State.stage_copyMove (s := s) ha m e at_ _

theorem State.stage_moveStep_copied {s : State} {a : Nat} (ha : a < 2) (m : MigCmd) (e : W64) (at_ : Nat) :
    ((s.moveStep a m e at_ .copied).annex a).stage = .waking true := by
  unfold State.moveStep
  rw [State.annex_sweepPage, State.annex_modAnnex _ ha]

theorem State.stage_moveStep_undone {s : State} {a : Nat} (ha : a < 2) (m : MigCmd) (e : W64) (at_ : Nat) :
    ((s.moveStep a m e at_ .undone).annex a).stage = .waking false := by
  unfold State.moveStep
  rw [State.annex_sweepPage, State.annex_modAnnex _ ha]

theorem State.hasMaint_moveStep_copied (s : State) (a : Nat) (m : MigCmd) (e : W64) (at_ : Nat) :
    (s.moveStep a m e at_ .copied).hasMaint false m.asid (m.va.toNat / m.size * m.size) (m.va.toNat / m.size * m.size + m.size)
      (.migration a) := by
  unfold State.moveStep
  exact State.hasMaint_sweepPage ..

theorem exec_migrationInvalidationDone_idle {s : State} {a : Nat} (h : (s.annex a).cur = none) :
    exec (.migrationInvalidationDone a) s = .next (s.push (.migrationCommand a)) := by
  have hexec : exec (.migrationInvalidationDone a) s = execMigrationInvalidationDone a s := rfl
  rw [hexec]
  unfold execMigrationInvalidationDone
  simp [h]

/-! ## The Porters' firmware (R34, R69, R84) -/

section
variable {s : State} {a : Nat} (ha : a < 2) (hannex : (s.die (2 + a)).st = .good) (hporter : (s.die 0).st = .good)
include ha hannex hporter

theorem exec_porterMigrationSelect {v : State} {hot : List Nat} (hhot : s.hotPages = (v, hot)) (l : List MigPick) :
    exec (.porterMigrationSelect a l) s =
      .next (if !s.mgwt.getLsbD 0 || l.isEmpty then s else l.foldl (fun t p => t.pickMove a hot p) v) := by
  have hexec : exec (.porterMigrationSelect a l) s = execPorterMigrationSelect a l s := rfl
  rw [hexec]
  unfold execPorterMigrationSelect
  rw [if_neg (by simp [ha, hannex, hporter]), hhot]

theorem exec_porterMigrationSelect_off {l : List MigPick} (h : s.mgwt.getLsbD 0 = false ∨ l = []) :
    exec (.porterMigrationSelect a l) s = .next s := by
  rcases hhot : s.hotPages with ⟨v, hot⟩
  rw [exec_porterMigrationSelect ha hannex hporter hhot, if_pos (by simpa using h)]

theorem exec_porterMigrationSelect_one {v : State} {hot : List Nat} (hhot : s.hotPages = (v, hot)) (hon : s.mgwt.getLsbD 0 = true)
    (p : MigPick) : exec (.porterMigrationSelect a [p]) s = .next (v.pickMove a hot p) := by
  rw [exec_porterMigrationSelect ha hannex hporter hhot, if_neg (by simp [hon]), List.foldl_cons, List.foldl_nil]

end

theorem State.porter_modPorter (s : State) {h : Nat} (hh : h < 2) (f : Porter → Porter) : (s.modPorter h f).porter h = f (s.porter h) := by
  simp [State.porter, State.modPorter, hh]

section
variable {s : State} {hall : Nat} {r : FaultRec} {rest : List FaultRec} (hrec : (s.porter hall).faults = r :: rest)
  (hdie : (s.die hall).st = .good)
include hrec hdie

/-- The Porter's oldest record is ended. -/
theorem exec_porterFaultService_map {w : PteWrite} (hwin : s.inWindow r.vf w.pa = true) (hpa : w.pa % 8 = 0) :
    exec (.porterFaultService hall (some w)) s = .next (
      let va : Nat := bitsOf r.bits.toNat 0 57
      ((((s.modPorter hall fun p => { p with faults := rest }).writeMem w.pa 8 w.value.toNat).startMaint false 0 (bitsOf r.bits.toNat 64 13)
        (va / 262144 * 262144) (va / 262144 * 262144 + 262144) r.vf .porter).1.postEvent .pageMapped r.vf hall
          (va + 2 ^ 64 * bitsOf r.bits.toNat 64 13))) := by
  have hexec : exec (.porterFaultService hall (some w)) s = execPorterFaultService hall (some w) s := rfl
  rw [hexec]
  unfold execPorterFaultService
  simp [hrec, hdie, hwin, hpa]

theorem exec_porterFaultService_hand : exec (.porterFaultService hall none) s = .next (
    if s.eventsBlocked r.vf then s
    else (s.modPorter hall fun p => { p with faults := rest }).postEvent .fault r.vf hall r.bits.toNat) := by
  have hexec : exec (.porterFaultService hall none) s = execPorterFaultService hall none s := rfl
  rw [hexec]
  unfold execPorterFaultService
  simp [hrec, hdie]

/-- A page is mapped: the record is gone, and the splits that wait for the page are to be woken. -/
theorem porterFaultService_maps (hhall : hall < 2) {w : PteWrite} (hwin : s.inWindow r.vf w.pa = true) (hpa : w.pa % 8 = 0) :
    let va : Nat := bitsOf r.bits.toNat 0 57
    ∃ t, exec (.porterFaultService hall (some w)) s = .next t ∧ (t.porter hall).faults = rest ∧
      t.hasMaint false (bitsOf r.bits.toNat 64 13) (va / 262144 * 262144) (va / 262144 * 262144 + 262144) .porter := by
  intro va
  refine ⟨_, exec_porterFaultService_map hrec hdie hwin hpa, ?_, ?_⟩
  · dsimp only
    rw [State.porter, State.porters_of_beyondEvents (State.beyondEvents_postEvent ..), State.porters_startMaint,
      State.porters_of_beyondEvents (State.beyondEvents_writeMem ..), ← State.porter, State.porter_modPorter _ hhall]
  · rw [State.hasMaint_congr (State.maints_of_beyondEvents (State.beyondEvents_postEvent ..))]
    exact State.hasMaint_startMaint ..

end

/-- R84: the ring is drained as its header stands. -/
theorem exec_feedbackDrain {s u v : State} {asid off : Nat} {ring a : W64} (hasid : s.asidEntry none asid = (u, a)) (hvalid : a.getLsbD 0 = true)
    (hhw : (u.fn (asidVf a)).dsr.getLsbD 2 = false) (hring : (asid, ring) ∈ u.fbRings)
    (hx : u.porterXlate (asidVf a) asid (asidSup a) .store ⟨[1], some .aperture, false⟩ ring = (v, .ok (.atrium off)))
    (hlo : 4 ≤ bitsOf (Mem.readN v.atrium off 24) 112 8) (hhi : bitsOf (Mem.readN v.atrium off 24) 112 8 ≤ 16) :
    exec (.feedbackDrain asid ring) s = .next (State.drainRing (asidVf a) asid (asidSup a) off (bitsOf (Mem.readN v.atrium off 24) 128 57)
      (bitsOf (Mem.readN v.atrium off 24) 112 8) (2 ^ bitsOf (Mem.readN v.atrium off 24) 112 8) v) := by
  have hmet : (u.fbRings.any fun x => x.1 == asid && x.2 == ring) = true := List.any_eq_true.2 ⟨_, hring, by simp⟩
  have hexec : exec (.feedbackDrain asid ring) s = execFeedbackDrain asid ring s := rfl
  rw [hexec]
  unfold execFeedbackDrain
  rw [hasid]
  dsimp only
  rw [if_neg (by rw [hvalid, hhw, hmet]; decide), hx]
  dsimp only
  rw [if_neg (by simpa using ⟨hlo, hhi⟩)]

end Sys2Proof.Machine
end

section
/-! The obligation O49. -/

namespace Sys2Proof.Machine

/-- Settles O49, clause by clause: what each event of translation maintenance, of a sampling interval, of a migration and of the
Porters' firmware comes to. -/
theorem maintenanceSteps : Obligations.MaintenanceSteps := by
  unfold Obligations.MaintenanceSteps
  refine ⟨fun s op rcp m hm => ⟨?_, ?_, ?_, ?_, ?_, ?_, ?_, ?_⟩, fun s => ⟨?_, ?_⟩, ?_, ?_, ?_, ?_, ?_, ?_⟩
  · intro hinv hstart hleft
    obtain ⟨t, hexec, hd, hack, hforgets⟩ := tlbinvReceive_reaches hm hinv hstart hleft
    exact ⟨t, hexec, hd, hack, fun hrcp =>
      ⟨(hforgets hrcp).icache, (hforgets hrcp).tlb, (hforgets hrcp).l1, (hforgets hrcp).anchors⟩⟩
  · exact fun hinv hleft hun hdrain => tlbinvDrainAck_acknowledges hm hinv hleft hun hdrain
  · exact fun _ hdie hflight => exec_tlbinvDrainAck_draining hm (State.draining_of_flight hdie hflight)
  · intro hinv hstart hall
    refine ⟨_, exec_tlbinvComplete hm, ?_⟩
    simp only [hinv, hstart, hall, List.isEmpty_nil, Bool.and_true, if_true]
    exact State.maint_id hm ▸ State.maint_endMaint s m
  · intro _ hun
    rw [exec_tlbinvComplete hm, if_neg (by simp [hun])]
  · exact fun hinv hstart hleft => mapqNoticeReceive_wakes hm hinv hstart hleft
  · intro hinv hstart hall
    refine ⟨_, exec_mapqComplete hm, ?_⟩
    simp only [hinv, hstart, hall, List.isEmpty_nil, Bool.not_false, Bool.and_true, if_true]
    exact State.maint_id hm ▸ State.maint_endMaint s m
  · intro _ hleft
    rw [exec_mapqComplete hm, if_neg (by simp [hleft])]
  · intro hover
    rw [exec_hotlistIntervalEnd, State.closeIntervals, if_neg (by simp [hover])]
  · intro hover
    rw [exec_hotlistIntervalEnd, State.closeIntervals_of_over hover]
    intro n w held
    have hheld : (s.ended.porterInterval.homeHeld && !s.homeHeld) = true ↔ held := by
      rw [Bool.and_eq_true, Bool.not_eq_true']
      exact Iff.rfl
    refine ⟨fun h => by rw [if_pos (hheld.2 h)], fun h => ⟨_, by rw [if_neg (mt hheld.1 h)], State.hotStart_closed s, ?_, ?_, ?_⟩⟩
    · rw [State.hotStart_closed]
      exact State.time_lt_closed hover
    · exact fun hen c hc => State.sketches_closed hover hen hc
    · exact fun x hx hup => State.keptFrames_closed hx hup
  · exact fun s u v ring take e hup hu hv => freeFrameTake_cases hup hu hv
  · intro s u v a m ha hidle hdie hfrozen hnext hroom
    refine ⟨exec_migrationCommand_noLeaf ha hidle hdie hfrozen hnext hroom, fun at_ e big hleaf => ?_⟩
    rw [exec_migrationCommand_leaf ha hidle hdie hfrozen hnext hroom hleaf]
    refine ⟨fun hbig => ?_, fun hbig htype => ?_, fun hbig htype hbad => ?_, fun hbig htype hgood hok => ?_⟩
    · rw [State.takeLeaf_size hbig]
    · rw [State.takeLeaf_type hbig htype]
    · rw [State.takeLeaf_frame hbig htype hbad]
    · obtain ⟨hcur, hstage, o, ho⟩ := State.takeLeaf_guards hbig ha htype hgood hok
      exact ⟨_, o, rfl, hcur, hstage, ho⟩
  · intro s a ha
    refine ⟨exec_migrationInvalidationDone_idle, fun m e at_ hcur hdie hfrozen hover hold hnew => ?_⟩
    rw [exec_migrationInvalidationDone hcur hdie hfrozen hover hold hnew]
    refine ⟨fun hstage => ?_, fun hstage => ?_, fun hstage => ?_, fun done hstage hroom => ?_⟩ <;> rw [hstage]
    · exact ⟨_, rfl, State.stage_moveStep_guarded ha m e at_⟩
    · obtain ⟨o, ho, hinv, howner, hasid, -⟩ := State.hasMaint_moveStep_copied s a m e at_
      exact ⟨_, rfl, State.stage_moveStep_copied ha m e at_, o, ho, hinv, howner, hasid⟩
    · exact ⟨_, rfl, State.stage_moveStep_undone ha m e at_⟩
    · rw [State.moveStep, if_neg (by simp [hroom])]
  · intro s a ha hannex hporter
    exact ⟨exec_porterMigrationSelect_off ha hannex hporter (.inr rfl),
      fun p v hot hon hhot => exec_porterMigrationSelect_one ha hannex hporter hhot hon p,
      fun l hoff => exec_porterMigrationSelect_off ha hannex hporter (.inl hoff)⟩
  · intro s hall r rest hhall hrec hdie
    refine ⟨fun w hwin hpa => ?_, fun hroom => ?_, fun hfull => ?_⟩
    · obtain ⟨t, hexec, hfaults, o, ho, hinv, -, hasid, hrange⟩ := porterFaultService_maps hrec hdie hhall hwin hpa
      exact ⟨t, o, hexec, hfaults, ho, hinv, hasid, hrange⟩
    · rw [exec_porterFaultService_hand hrec hdie, if_neg (by simp [hroom])]
    · rw [exec_porterFaultService_hand hrec hdie, if_pos hfull]
  · exact fun s u v asid off ring a hasid hvalid hhw hring hx hlo hhi => exec_feedbackDrain hasid hvalid hhw hring hx hlo hhi

end Sys2Proof.Machine
end

section
/-! SUPPORT. The state right after power is applied (R472). -/

namespace Sys2Proof.Machine

/-- Every function's register block is at its reset values (R372, R384, R386, R398). -/
theorem State.fn_reset (f : Nat) : State.reset.fn f = Fn.reset := by
  show (((Vector.replicate 64 Fn.reset)[f]?).getD Fn.reset) = Fn.reset
  rw [Vector.getElem?_replicate]
  split <;> rfl

/-- No core holds anything. -/
theorem State.core_reset (n : Nat) : State.reset.core n = Core.empty := rfl

/-- Every die's registers are at their reset values (R427, R432). -/
theorem State.die_reset : ∀ d < 6, (State.reset.die d).auth = false ∧ (State.reset.die d).resetBit = false ∧
    (State.reset.die d).withdrawBit = false ∧ (State.reset.die d).dtoff = 0 ∧ (State.reset.die d).dtrate = 0x40000000 ∧
    (State.reset.die d).cdefl = 0 ∧ (State.reset.die d).cnak = 0 := by decide

/-- Settles O57: no core is listed, the blocks of all functions are one, and the dies are six. -/
theorem resetState : Obligations.ResetState := by
  unfold Obligations.ResetState
  intro s
  refine ⟨rfl, rfl, rfl, rfl, fun _ => rfl, fun n => ?_, fun f _ => ?_, State.die_reset, rfl, rfl, rfl⟩
  · rw [show s.core n = Core.empty from State.core_reset n]
    exact ⟨rfl, rfl, rfl, rfl, rfl, rfl⟩
  · rw [show s.fn f = Fn.reset from State.fn_reset f]
    exact ⟨rfl, rfl, rfl, rfl, rfl, rfl, rfl, rfl, rfl, fun w hw => Vector.eq_of_mem_replicate (Vector.mem_toList_iff.1 hw)⟩

end Sys2Proof.Machine
end

section
/-! SUPPORT. A bank operation whose answer goes to a copy (R58, R116, R140). Where it is the last operation that the beat of a copy waits for,
the beat is counted in the same event, and a barrier in the Atrium is credited. The statement about the banks leaves copies out for the line
operations, which carry their signatures, and not for loads, stores and atomics. -/

namespace Sys2Proof.Machine

/-- A bank operation that is performed lets the beat of a copy go on that waits for it. -/
theorem exec_atriumBankOperation {s : State} {id : Nat} {r : Req} (h : s.req id = some r) :
    exec (.atriumBankOperation id) s = .next ((s.bankOperation id).copyAnswered r (s.mayServe r)) := by
  show execAtriumBankOperation id s = _
  unfold execAtriumBankOperation
  rw [h]

/-- A copy of 128 bytes whose first beat, of 64, has been performed, and is to be credited to the barrier at the Atrium's first byte once its
signature is there. -/
def signedCopy : CopyRec :=
  { seq := 0, cid := 1, crew := 0, home := 0, handle := 0, slot := 0, split := 0, kind := .cpy, store := false, tag := 0, st := .running,
    follow := none, fov := #v[0, 0, 0], followSeq := none, bar := none, bphase := 0, statUni := none, statVec := none, rop := 0, rtype := 0,
    src := 0, dst := 0, len := 128, done := 0, valid := 0, coords := #v[0, 0, 0, 0, 0, 0], lattice := [], sig := 0, clamped := false,
    filled := false, overrun := false, replayed := false, fault := none, pages := [], wasParked := false,
    beat := some ⟨64, 0, some (.atrium 0), false, true⟩ }

/-- A load of 8 bytes from a bank of the Atrium, for that copy. -/
def copyLoad : Req :=
  { id := 0, page := none, core := 0, cid := 1, h := 0, asid := 0, op := .bankLoad 0 8, dst := .copy 0, lanes := 0, nak := false, again := false }

/-- Core 0's CE runs the copy, and the load is the one operation in flight. -/
def copyLoadSt : State :=
  { State.reset.loadContext.modCore 0 fun c => { c with ce := [signedCopy] } with reqs := [copyLoad], nextReq := 1 }

theorem copyLoadSt_req : copyLoadSt.req 0 = some copyLoad := by decide +kernel

theorem copyLoadSt_mayServe : copyLoadSt.mayServe copyLoad = true := by decide +kernel

/-- The load's event has credited the barrier. -/
theorem copyLoadSt_credits : ((copyLoadSt.bankOperation 0).copyAnswered copyLoad true).atrium ≠ copyLoadSt.atrium := by decide +kernel

/-- Refutes O42: a bank load whose answer goes to a copy lets the copy's beat be counted, which writes its barrier in the Atrium
(`copyLoadSt`). -/
theorem not_homesAndBanks : ¬ Obligations.HomesAndBanks := by
  unfold Obligations.HomesAndBanks
  intro h
  obtain ⟨hserved, -⟩ := h copyLoadSt 0 copyLoad copyLoadSt_req
  obtain ⟨-, -, -, -, -, -, -, -, -, -, hload, -⟩ := hserved copyLoadSt_mayServe
  obtain ⟨t, hexec, -, -, hatrium⟩ := hload 0 8 rfl
  rw [exec_atriumBankOperation copyLoadSt_req, copyLoadSt_mayServe, Host.Outcome.next.injEq] at hexec
  exact copyLoadSt_credits (hexec ▸ hatrium)

end Sys2Proof.Machine
end

section
/-! SUPPORT. A line of STAT that goes on in the next page (R304). The page of its first byte may translate where the next one does not: the
access faults all the same, and the split's fault record goes to the host's ring (R33). -/

namespace Sys2Proof.Machine

/-- Lookup page 1 is TYPE Atrium, readable and writable, and page 2 may only be read; the physical function's fault records go to a host ring
of two entries at host address 0. -/
def crossSt : State :=
  (State.reset.loadContext.modCore 0 fun c => { c with tlb1 := [⟨0, 1, 18, 0x35, 0⟩, ⟨0, 2, 18, 0x15, 0x40000⟩] }).modFn 0 fun f =>
    { f with dsr := 2, hfrb := 1 }

/-- STAT of one line, whose first row is the last of page 1. -/
def crossHdr : Hdr := { sub := 0, s := false, g := 7, gn := false, nx := 0 }
def crossBody : MBody :=
  { md := 0, mx := 0, mb := 0, am := 2, xv := false, ms := 0, sz := 4, mop := 0, mp := 0, mc := 0, imm := 0x7FFC0 }

/-- The store is legal at the focus; its one unit is at an address that translates to the Atrium, on a page whose walk has not failed. -/
theorem crossSt_issues : ∃ e, Performs crossSt e (.stat crossHdr crossBody) crossHdr ∧ e.left (linesOf crossBody) = [0] ∧
    e.lookupAddr crossSt 128 .store .atrium (e.lineAddr crossBody 0) = .ok (.atrium 0x3FFC0) ∧
    lookup e.sp.badPages (lookupPage (e.vaOf (e.lineAddr crossBody 0))) = none := by
  have h : (Env.of crossSt crossSt.focus).any (fun e => e.legal (.stat crossHdr crossBody) && e.g crossHdr != 0 &&
      e.left (linesOf crossBody) == [0] && e.lookupAddr crossSt 128 .store .atrium (e.lineAddr crossBody 0) == .ok (.atrium 0x3FFC0) &&
      lookup e.sp.badPages (lookupPage (e.vaOf (e.lineAddr crossBody 0))) == none) = true := by decide +kernel
  obtain ⟨e, he, h⟩ := (Option.any_eq_true _ _).1 h
  simp only [Bool.and_eq_true, bne_iff_ne, beq_iff_eq] at h
  obtain ⟨⟨⟨⟨hlegal, hg⟩, hleft⟩, hplace⟩, hpage⟩ := h
  exact ⟨e, ⟨he, hlegal, hg⟩, hleft, hplace, hpage⟩

theorem crossSt_memWf : crossSt.memWf = true := by decide +kernel

/-- The store parks on page 2, and its fault record is in the host's memory. -/
theorem crossSt_posts : ∃ t, exec (.stat crossHdr crossBody) crossSt = .next t ∧ t.host.read 2 ≠ crossSt.host.read 2 := by
  have h : (match execStat crossHdr crossBody crossSt with
    | .next t => t.host.read 2 != crossSt.host.read 2
    | _ => false) = true := by decide +kernel
  obtain ⟨t, ht⟩ : ∃ t, execStat crossHdr crossBody crossSt = .next t := ⟨_, rfl⟩
  rw [ht] at h
  exact ⟨t, ht, bne_iff_ne.1 h⟩

/-- Refutes O60: a STAT whose line goes on in a page that may not be written posts a fault record to the host's memory, although the page of
each unit's address translates and no unit names a host address (`crossSt`). -/
theorem not_storeFrames : ¬ Obligations.StoreFrames := by
  unfold Obligations.StoreFrames
  rintro ⟨-, h⟩
  obtain ⟨e, hp, hleft, hplace, hpage⟩ := crossSt_issues
  obtain ⟨t, hexec, hhost⟩ := crossSt_posts
  obtain ⟨-, -, -, -, -, -, hstat⟩ := h crossSt t e crossHdr ⟨0, 0, 0, 0, 0, false, 0, 0⟩ crossBody hp.here crossSt_memWf
  obtain ⟨-, -, -, -, hkeeps⟩ := hstat hexec
  simp only [hleft, List.mem_singleton, forall_eq, hplace, hpage] at hkeeps
  obtain ⟨-, -, -, hhosts, -⟩ := hkeeps (by simp)
  exact hhost ((hhosts (by simp)).1 2 (by simp))

end Sys2Proof.Machine
end

section
/-! SUPPORT. A request at a memory controller for a line whose set is full (R54, R63). The state's lists of keys and values rise by convention
alone: in one that does not rise, a lookup stops at a key beyond the one it looks for, and the eviction of that key uncovers what stands behind it. -/

namespace Sys2Proof.Machine

/-! ## Lists that begin with a smaller key -/

theorem lookup_replicate_append {α : Type} {a b : Nat} (h : a < b) (n : Nat) (x : α) (l : List (Nat × α)) :
    lookup (List.replicate n (a, x) ++ l) b = lookup l b := by
  induction n with
  | zero => rfl
  | succ n ih =>
    rw [List.replicate_succ, List.cons_append, lookup, if_neg (by simpa using h.ne), if_neg h.asymm, ih]

theorem remove_replicate_append {α : Type} {a b : Nat} (h : a < b) (n : Nat) (x : α) (l : List (Nat × α)) :
    remove (List.replicate n (a, x) ++ l) b = List.replicate n (a, x) ++ remove l b := by
  induction n with
  | zero => rfl
  | succ n ih =>
    rw [List.replicate_succ, List.cons_append, remove, if_neg (by simpa using h.ne), if_neg h.asymm, ih, List.cons_append]

/-! ## Lines without owners -/

/-- No core is asked for a line that none owns (R54). -/
theorem State.forwardAll_unowned {s : State} {ln : Nat} {l : L2Line} (hl : lookup s.l2 ln = some l) (ho : l.owners = []) :
    s.forwardAll ln = s := by
  unfold State.forwardAll State.forwardTo
  simp [hl, ho]

/-- A clean line without owners leaves its slice and nothing else happens (R54). -/
theorem State.evictL2_clean {s : State} {ln : Nat} {l : L2Line} (hl : lookup s.l2 ln = some l) (ho : l.owners = [])
    (hd : l.dirty = false) : s.evictL2 ln = { s with l2 := remove s.l2 ln } := by
  unfold State.evictL2
  simp only [State.forwardAll_unowned hl ho, hl, hd, Bool.false_eq_true, if_false]

/-- A line that is present is not fetched (R54). -/
theorem State.fetchL2_present {s : State} {ln : Nat} {l : L2Line} {tier : Bool} (himg : isImageLn ln = false) (hl : lookup s.l2 ln = some l) :
    (s.fetchL2 ln tier).1 = s := by
  have h : s.l2At ln = some l := by simp [State.l2At, hl, himg]
  unfold State.fetchL2
  rw [h]

/-- The line that leaves a full set is the one that the drawn value names. -/
theorem State.makeWayL2_full {s : State} {ln : Nat} {x : Nat × L2Line} (hfull : s.hasWay ln = false)
    (hall : ∀ y ∈ s.l2, s.l2Set y.1 = s.l2Set ln) (hx : s.l2[Config.victim s.freeCtr % s.l2.length]? = some x) :
    s.makeWayL2 ln = s.draw.2.evictL2 x.1 := by
  have hset : (s.l2.filter fun y => s.l2Set y.1 == s.l2Set ln) = s.l2 := List.filter_eq_self.2 fun y hy => by simp [hall y hy]
  unfold State.makeWayL2
  simp only [hfull, hset, State.draw, hx, Bool.false_eq_true, if_false]

/-- A read at a controller fills a line that its slice does not hold (R63). -/
theorem exec_memoryControllerRequest_read {s : State} {line : Nat} (hregion : s.region (128 * line) ≠ none)
    (hhome : s.homeState line = .good) (hl : lookup s.l2 line = none) :
    ∃ tier, exec (.memoryControllerRequest line false) s = .next (s.allocate line tier).1 := by
  have hgood : ((s.region (128 * line)).isNone || s.homeState line != .good) = false := by
    simpa [hhome, Option.isSome_iff_ne_none] using hregion
  show ∃ tier, execMemoryControllerRequest line false s = _
  unfold execMemoryControllerRequest
  rw [if_neg (by simp [hgood]), if_neg Bool.false_ne_true, hl]
  exact ⟨_, rfl⟩

/-! ## The state -/

/-- Lines of set 0 of slice 0 of the first Undercroft. -/
def zeroSetLine (k : Nat) : Nat := k * (2 ^ 19 + 2 ^ 27)

/-- A line of zeros that no core owns. -/
def zeroLine (dirty : Bool) : L2Line := { data := 0, dirty := dirty, cmp := false, tier := false, owners := [] }

/-- As many copies of line 0 as the first value drawn for a victim says, then line 2, then line 1, dirty, out of its order. -/
def shadowL2 : List (Nat × L2Line) :=
  List.replicate (Config.victim 0) (zeroSetLine 0, zeroLine false) ++
    (zeroSetLine 2, zeroLine false) :: List.replicate 16 (zeroSetLine 1, zeroLine true)

def shadowSt : State := { State.reset with l2 := shadowL2 }

/-- The line that the first value drawn names is line 2. -/
theorem shadowL2_victim : shadowL2[Config.victim 0 % shadowL2.length]? = some (zeroSetLine 2, zeroLine false) := by
  have hlen : shadowL2.length = Config.victim 0 + 17 := by simp [shadowL2]
  rw [hlen, Nat.mod_eq_of_lt (by omega), shadowL2, List.getElem?_append_right (by simp)]
  simp

/-- A lookup of line 1 stops at line 2. -/
theorem shadowL2_lookup_one : lookup shadowL2 (zeroSetLine 1) = none := by
  rw [shadowL2, lookup_replicate_append (by decide)]
  rfl

theorem shadowL2_lookup_two : lookup shadowL2 (zeroSetLine 2) = some (zeroLine false) := by
  rw [shadowL2, lookup_replicate_append (by decide)]
  rfl

/-- With line 2 gone it finds line 1. -/
theorem shadowL2_uncovered : lookup (remove shadowL2 (zeroSetLine 2)) (zeroSetLine 1) = some (zeroLine true) := by
  rw [shadowL2, remove_replicate_append (by decide), lookup_replicate_append (by decide)]
  rfl

theorem shadowSt_l2Set : ∀ y ∈ shadowSt.l2, shadowSt.l2Set y.1 = shadowSt.l2Set (zeroSetLine 1) := by
  have h : ∀ k ∈ [0, 1, 2], State.reset.l2Set (zeroSetLine k) = State.reset.l2Set (zeroSetLine 1) := by decide +kernel
  intro y hy
  show State.reset.l2Set y.1 = State.reset.l2Set (zeroSetLine 1)
  simp only [shadowSt, shadowL2, List.mem_append, List.mem_replicate, List.mem_cons] at hy
  rcases hy with ⟨-, rfl⟩ | rfl | ⟨-, rfl⟩
  · exact h 0 (by decide)
  · exact h 2 (by decide)
  · exact h 1 (by decide)

/-- The set of line 1 is full. -/
theorem shadowSt_hasWay : shadowSt.hasWay (zeroSetLine 1) = false := by
  have hset : (shadowSt.l2.filter fun y => shadowSt.l2Set y.1 == shadowSt.l2Set (zeroSetLine 1)) = shadowSt.l2 :=
    List.filter_eq_self.2 fun y hy => by simp [shadowSt_l2Set y hy]
  have hlen : shadowSt.l2.length = Config.victim 0 + 17 := by simp [shadowSt, shadowL2]
  have hl : lookup shadowSt.l2 (zeroSetLine 1) = none := shadowL2_lookup_one
  simp [State.hasWay, hset, hlen, hl]

/-- Room is made by the eviction of line 2, and line 1 is present, dirty. -/
theorem shadowSt_allocate (tier : Bool) : (shadowSt.allocate (zeroSetLine 1) tier).1.l2 = remove shadowL2 (zeroSetLine 2) := by
  have hway : shadowSt.makeWayL2 (zeroSetLine 1) = { shadowSt.draw.2 with l2 := remove shadowL2 (zeroSetLine 2) } := by
    rw [State.makeWayL2_full shadowSt_hasWay shadowSt_l2Set shadowL2_victim]
    exact State.evictL2_clean shadowL2_lookup_two rfl rfl
  rw [State.allocate, hway, State.fetchL2_present (by decide) shadowL2_uncovered]

/-- Its home takes requests. -/
theorem shadowSt_homeState : shadowSt.homeState (zeroSetLine 1) = .good := by
  have hl : lookup shadowSt.l2 (zeroSetLine 1) = none := shadowL2_lookup_one
  have hreset : shadowSt.homeState (zeroSetLine 1) = State.reset.homeState (zeroSetLine 1) := by
    unfold State.homeState
    rw [hl]
    rfl
  rw [hreset]
  decide +kernel

/-- Refutes O43: in a state whose slices list line 1 behind a greater key, a controller's read of line 1 evicts that key from the full set, and
finds line 1 there, dirty, instead of filling it (`shadowSt`). -/
theorem not_coreServices : ¬ Obligations.CoreServices := by
  unfold Obligations.CoreServices
  rintro ⟨-, h, -⟩
  have hregion : shadowSt.region (128 * zeroSetLine 1) ≠ none := by
    rw [show shadowSt.region (128 * zeroSetLine 1) = some 0 from rfl]
    simp
  have hhome := shadowSt_homeState
  obtain ⟨tier, hexec⟩ := exec_memoryControllerRequest_read hregion hhome shadowL2_lookup_one
  obtain ⟨t, l, hnext, hl, hclean, -⟩ := (h shadowSt (zeroSetLine 1) hregion hhome).1 shadowL2_lookup_one
  rw [hexec, Host.Outcome.next.injEq] at hnext
  rw [← hnext, shadowSt_allocate, shadowL2_uncovered, Option.some.injEq] at hl
  rw [← hl] at hclean
  cases hclean

end Sys2Proof.Machine
end

section
/-! SUPPORT. Every step keeps every memory in canonical form (R93, R472): the invariant that the steps keep. Each memory stays
in canonical form, and so does the Alcove of each core, but for one core that a late copy (R167) sets up for itself. In the parts after this
one the lemma `State.Canon.f` says that the function `f` of the model keeps the invariant, and the lemma about a function that takes a function asks
the same of that function. -/

-- One lemma at a time: the lemmas of this part at once take more threads than the memory has room for.
set_option Elab.async false

namespace Sys2Proof.Machine

/-! ## Lists of key and value pairs without one of their keys -/

theorem mem_insert {α : Type} {l : List (Nat × α)} {n : Nat} {v : α} {c : Nat × α} (h : c ∈ insert l n v) : c = (n, v) ∨ c ∈ l := by
  induction l with
  | nil => exact .inl (List.mem_singleton.1 h)
  | cons d l ih => grind [insert]

theorem mem_of_lookup {α : Type} {l : List (Nat × α)} {n : Nat} {v : α} (h : lookup l n = some v) : (n, v) ∈ l := by
  induction l with
  | nil => cases h
  | cons d l ih => grind [lookup]

theorem mem_remove_insert {α : Type} {l : List (Nat × α)} {n a : Nat} {v : α} {c : Nat × α} (h : c ∈ remove (insert l n v) a) :
    c = (n, v) ∧ n ≠ a ∨ c ∈ remove l a := by
  induction l with
  | nil => grind [insert, remove]
  | cons d l ih => grind [insert, remove, → mem_insert]

theorem mem_remove_of_lookup {α : Type} {l : List (Nat × α)} {n a : Nat} {v : α} (hn : n ≠ a) (h : lookup l n = some v) :
    (n, v) ∈ remove l a := by
  induction l with
  | nil => cases h
  | cons d l ih => grind [lookup, remove, → mem_of_lookup]

theorem remove_map {α β : Type} (l : List (Nat × α)) (a : Nat) (f : Nat × α → β) :
    remove (l.map fun c => (c.1, f c)) a = (remove l a).map fun c => (c.1, f c) := by
  induction l with
  | nil => rfl
  | cons d l ih => grind [remove]

/-- The list without the entry of one key, where one is named. -/
def withoutKey {α : Type} (x : Option Nat) (l : List (Nat × α)) : List (Nat × α) :=
  match x with
  | none => l
  | some a => remove l a

theorem mem_withoutKey_insert {α : Type} {x : Option Nat} {l : List (Nat × α)} {n : Nat} {v : α} {c : Nat × α}
    (h : c ∈ withoutKey x (insert l n v)) : c = (n, v) ∧ x ≠ some n ∨ c ∈ withoutKey x l := by
  cases x with
  | none => exact (mem_insert h).imp_left fun h => ⟨h, nofun⟩
  | some a => exact (mem_remove_insert h).imp_left fun ⟨h, hn⟩ => ⟨h, fun e => hn (Option.some.inj e).symm⟩

theorem mem_withoutKey_of_lookup {α : Type} {x : Option Nat} {l : List (Nat × α)} {n : Nat} {v : α} (hn : x ≠ some n)
    (h : lookup l n = some v) : (n, v) ∈ withoutKey x l := by
  cases x with
  | none => exact mem_of_lookup h
  | some a => exact mem_remove_of_lookup (fun e => hn (congrArg some e.symm)) h

theorem withoutKey_map {α β : Type} (x : Option Nat) (l : List (Nat × α)) (f : Nat × α → β) :
    withoutKey x (l.map fun c => (c.1, f c)) = (withoutKey x l).map fun c => (c.1, f c) := by
  cases x with
  | none => rfl
  | some a => exact remove_map l a f

/-! ## The invariant -/

/-- The memories are in canonical form, but for the Alcove of one core where `but` names one. A late copy runs on such a core, whose Alcove is the
one that its context was saved with (R167). -/
def State.Canon (but : Option Nat) (s : State) : Prop :=
  s.dram.wf = true ∧ s.host.wf = true ∧ s.peer.wf = true ∧ s.atrium.wf = true ∧ ∀ c ∈ withoutKey but s.cores, c.2.alcove.wf = true

theorem State.canon_none_iff (s : State) : s.Canon none ↔ s.memWf = true := by
  simp [State.Canon, State.memWf, withoutKey, List.all_eq_true, and_assoc]

/-- The same of what a step function answers: of the state that goes on, where one does. -/
def Perf.Canon (but : Option Nat) : Perf → Prop
  | .ok s | .moved s | .stay s | .trap _ s => s.Canon but

def Gate.Canon (but : Option Nat) : Gate → Prop
  | .held => True
  | .busy s | .go _ s => s.Canon but

def OutcomeCanon (but : Option Nat) : Host.Outcome State Fault Refusal → Prop
  | .next s => s.Canon but
  | .fault _ | .refused _ => True

def Did.Canon (but : Option Nat) : Did → Prop
  | .done s _ | .pending s => s.Canon but

def Haltc.Canon (but : Option Nat) : Haltc → Prop
  | .done _ s | .wait s => s.Canon but

def Fetch.Canon (but : Option Nat) : Fetch → Prop
  | .got s _ _ _ | .wait s => s.Canon but
  | .bad _ _ => True

def LodRead.Canon (but : Option Nat) : LodRead → Prop
  | .desc s _ | .withdrawn s => s.Canon but
  | .stop p => p.Canon but

def LodLane.Canon (but : Option Nat) : LodLane → Prop
  | .done s _ | .wait s => s.Canon but
  | .bad _ _ => True

/-- The same of an answer that ends an instruction early, or gives a state to go on from. -/
def ExceptCanon {α : Type} (but : Option Nat) (st : α → State) : Except Perf α → Prop
  | .ok a => (st a).Canon but
  | .error p => p.Canon but

def OptionCanon {α : Type} (but : Option Nat) (st : α → State) : Option α → Prop
  | none => True
  | some a => (st a).Canon but

section
variable {but : Option Nat} {s t : State}

/-! ## What leaves the memories alone -/

/-- A state with the same memories and cores. -/
theorem State.Canon.same (h : s.Canon but)
    (e : (t.dram, t.host, t.peer, t.atrium, t.cores) = (s.dram, s.host, s.peer, s.atrium, s.cores) := by rfl) : t.Canon but := by
  simp only [Prod.mk.injEq] at e
  obtain ⟨hd, hh, hp, ha, hc⟩ := e
  rw [State.Canon, hd, hh, hp, ha, hc]
  exact h

theorem State.Canon.alcove (h : s.Canon but) {n : Nat} (hn : but ≠ some n) : (s.core n).alcove.wf = true := by
  obtain ⟨-, -, -, -, hcores⟩ := h
  unfold State.core
  cases hl : lookup s.cores n with
  | none => rfl
  | some c => exact hcores _ (mem_withoutKey_of_lookup hn hl)

theorem State.Canon.setCore {n : Nat} {c : Core} (h : s.Canon but) (hc : but ≠ some n → c.alcove.wf = true) :
    (s.setCore n c).Canon but := by
  obtain ⟨hd, hh, hp, ha, hcores⟩ := h
  refine ⟨hd, hh, hp, ha, fun d hd => ?_⟩
  rcases mem_withoutKey_insert hd with ⟨rfl, hx⟩ | hd
  · exact hc hx
  · exact hcores d hd

/-- A core is changed, and its Alcove stays in canonical form. -/
theorem State.Canon.modCoreWf {n : Nat} {f : Core → Core} (h : s.Canon but) (hf : ∀ c, c.alcove.wf = true → (f c).alcove.wf = true) :
    (s.modCore n f).Canon but :=
  h.setCore fun hx => hf _ (h.alcove hx)

theorem State.Canon.modCore {n : Nat} {f : Core → Core} (h : s.Canon but) (hf : ∀ c, (f c).alcove = c.alcove := by intro _; rfl) :
    (s.modCore n f).Canon but :=
  h.modCoreWf fun c hc => by rwa [hf c]

/-- Every core is changed, and its Alcove stays in canonical form. -/
theorem State.Canon.mapCores {f : Nat × Core → Core} (h : s.Canon but)
    (e : (t.dram, t.host, t.peer, t.atrium, t.cores) =
      (s.dram, s.host, s.peer, s.atrium, s.cores.map fun c => (c.1, f c)) := by rfl)
    (hf : ∀ c, c.2.alcove.wf = true → (f c).alcove.wf = true := by exact fun _ h => h) : t.Canon but := by
  simp only [Prod.mk.injEq] at e
  obtain ⟨hd, hh, hp, ha, hc⟩ := e
  obtain ⟨hsd, hsh, hsp, hsa, hcores⟩ := h
  refine ⟨hd ▸ hsd, hh ▸ hsh, hp ▸ hsp, ha ▸ hsa, fun c hm => ?_⟩
  rw [hc, withoutKey_map] at hm
  obtain ⟨d, hm', rfl⟩ := List.mem_map.1 hm
  exact hf d (hcores d hm')

/-- The core that `but` names leaves with what its Alcove holds. -/
theorem State.Canon.removeCore {n : Nat} (h : s.Canon (some n)) : State.Canon none { s with cores := remove s.cores n } := h

theorem State.Canon.weaken (h : s.Canon none) : s.Canon but := by
  obtain ⟨hd, hh, hp, ha, hcores⟩ := h
  refine ⟨hd, hh, hp, ha, fun c hm => hcores c ?_⟩
  cases but with
  | none => exact hm
  | some a => exact mem_remove hm

/-! ## The memories themselves -/

theorem State.Canon.ofDram (h : s.Canon but) (hm : t.dram.wf = true)
    (e : (t.host, t.peer, t.atrium, t.cores) = (s.host, s.peer, s.atrium, s.cores) := by rfl) :
    t.Canon but := by
  obtain ⟨-, hhost, hpeer, hatrium, hcores⟩ := h
  exact State.Canon.same (s := { s with dram := t.dram }) ⟨hm, hhost, hpeer, hatrium, hcores⟩ (by simp_all)

theorem State.Canon.ofHost (h : s.Canon but) (hm : t.host.wf = true)
    (e : (t.dram, t.peer, t.atrium, t.cores) = (s.dram, s.peer, s.atrium, s.cores) := by rfl) :
    t.Canon but := by
  obtain ⟨hdram, -, hpeer, hatrium, hcores⟩ := h
  exact State.Canon.same (s := { s with host := t.host }) ⟨hdram, hm, hpeer, hatrium, hcores⟩ (by simp_all)

theorem State.Canon.ofPeer (h : s.Canon but) (hm : t.peer.wf = true)
    (e : (t.dram, t.host, t.atrium, t.cores) = (s.dram, s.host, s.atrium, s.cores) := by rfl) :
    t.Canon but := by
  obtain ⟨hdram, hhost, -, hatrium, hcores⟩ := h
  exact State.Canon.same (s := { s with peer := t.peer }) ⟨hdram, hhost, hm, hatrium, hcores⟩ (by simp_all)

theorem State.Canon.ofAtrium (h : s.Canon but) (hm : t.atrium.wf = true)
    (e : (t.dram, t.host, t.peer, t.cores) = (s.dram, s.host, s.peer, s.cores) := by rfl) :
    t.Canon but := by
  obtain ⟨hdram, hhost, hpeer, -, hcores⟩ := h
  exact State.Canon.same (s := { s with atrium := t.atrium }) ⟨hdram, hhost, hpeer, hm, hcores⟩ (by simp_all)

theorem State.Canon.dramWf (h : s.Canon but) : s.dram.wf = true := h.1
theorem State.Canon.hostWf (h : s.Canon but) : s.host.wf = true := h.2.1
theorem State.Canon.peerWf (h : s.Canon but) : s.peer.wf = true := h.2.2.1
theorem State.Canon.atriumWf (h : s.Canon but) : s.atrium.wf = true := h.2.2.2.1

/-! ## What an answer carries -/

theorem State.Canon.ite {c : Prop} [Decidable c] (hs : s.Canon but) (ht : t.Canon but) : (if c then s else t).Canon but := by
  split
  · exact hs
  · exact ht

/-- `State.Canon` of the first of a pair, under a name of its own: the kernel then compares two pairs by their parts and does not evaluate the
conditions that choose between registers. -/
def FstCanon {α : Type} (but : Option Nat) (p : State × α) : Prop := p.1.Canon but

theorem FstCanon.ite {α : Type} {c : Prop} [Decidable c] {p q : State × α} (hp : FstCanon but p) (hq : FstCanon but q) :
    FstCanon but (if c then p else q) := by
  split
  · exact hp
  · exact hq

theorem State.Canon.of_pair {α : Type} {p : State × α} {a : α} (h : p.1.Canon but) (e : p = (t, a)) : t.Canon but := by
  subst e
  exact h

theorem State.Canon.of_snd {α : Type} {p : α × State} {a : α} (h : p.2.Canon but) (e : p = (a, t)) : t.Canon but := by
  subst e
  exact h

theorem State.Canon.env {f : Focus} {e : Env} (h : s.Canon but) (he : Env.of s f = some e) : e.s.Canon but := Env.of_state he ▸ h

theorem OptionCanon.map {α β : Type} {f : α → State} {g : β → State} {h : α → β} {o : Option α} (ho : OptionCanon but f o)
    (hh : ∀ a, (f a).Canon but → (g (h a)).Canon but) : OptionCanon but g (o.map h) := by
  cases o with
  | none => trivial
  | some a => exact hh a ho

theorem OptionCanon.map_all {α β : Type} {g : β → State} {h : α → β} {o : Option α} (hh : ∀ a, (g (h a)).Canon but) :
    OptionCanon but g (o.map h) := by
  cases o with
  | none => trivial
  | some a => exact hh a

theorem OptionCanon.bind {α β : Type} {f : α → State} {g : β → State} {h : α → Option β} {o : Option α} (ho : OptionCanon but f o)
    (hh : ∀ a, (f a).Canon but → OptionCanon but g (h a)) : OptionCanon but g (o.bind h) := by
  cases o with
  | none => trivial
  | some a => exact hh a ho

theorem OptionCanon.some_id {o : Option State} (h : OptionCanon but id o) (e : o = some t) : t.Canon but := by
  subst e
  exact h

theorem OptionCanon.some_fst {α : Type} {o : Option (State × α)} {a : α} (h : OptionCanon but Prod.fst o) (e : o = some (t, a)) :
    t.Canon but := by
  subst e
  exact h

theorem ExceptCanon.ok_id {r : Except Perf State} (h : ExceptCanon but id r) (e : r = .ok t) : t.Canon but := by
  subst e
  exact h

theorem ExceptCanon.ok_fst {α : Type} {r : Except Perf (State × α)} {a : α} (h : ExceptCanon but Prod.fst r) (e : r = .ok (t, a)) :
    t.Canon but := by
  subst e
  exact h

theorem ExceptCanon.error {α : Type} {st : α → State} {r : Except Perf α} {p : Perf} (h : ExceptCanon but st r) (e : r = .error p) :
    p.Canon but := by
  subst e
  exact h

theorem ExceptCanon.map {α β : Type} {f : α → State} {g : β → State} {h : α → β} {r : Except Perf α} (hr : ExceptCanon but f r)
    (hh : ∀ a, (f a).Canon but → (g (h a)).Canon but) : ExceptCanon but g (r.map h) := by
  cases r with
  | ok a => exact hh a hr
  | error p => exact hr

theorem OutcomeCanon.next {r : Host.Outcome State Fault Refusal} (h : OutcomeCanon but r) (e : r = .next t) : t.Canon but := by
  subst e
  exact h

theorem Perf.Canon.ok {p : Perf} (h : p.Canon but) (e : p = .ok t) : t.Canon but := by
  subst e
  exact h

theorem Perf.Canon.moved {p : Perf} (h : p.Canon but) (e : p = .moved t) : t.Canon but := by
  subst e
  exact h

theorem Perf.Canon.stay {p : Perf} (h : p.Canon but) (e : p = .stay t) : t.Canon but := by
  subst e
  exact h

theorem Perf.Canon.trap {p : Perf} {i : TrapInfo} (h : p.Canon but) (e : p = .trap i t) : t.Canon but := by
  subst e
  exact h

theorem Gate.Canon.busy {g : Gate} (h : g.Canon but) (e : g = .busy t) : t.Canon but := by
  subst e
  exact h

theorem Gate.Canon.go {g : Gate} {i : Instr} (h : g.Canon but) (e : g = .go i t) : t.Canon but := by
  subst e
  exact h

theorem Did.Canon.done {d : Did} {l : List W32} (h : d.Canon but) (e : d = .done t l) : t.Canon but := by
  subst e
  exact h

theorem Did.Canon.pending {d : Did} (h : d.Canon but) (e : d = .pending t) : t.Canon but := by
  subst e
  exact h

theorem Haltc.Canon.done {c : Haltc} {n : Nat} (h : c.Canon but) (e : c = .done n t) : t.Canon but := by
  subst e
  exact h

theorem Haltc.Canon.wait {c : Haltc} (h : c.Canon but) (e : c = .wait t) : t.Canon but := by
  subst e
  exact h

theorem Fetch.Canon.got {f : Fetch} {n m l : Nat} (h : f.Canon but) (e : f = .got t n m l) : t.Canon but := by
  subst e
  exact h

theorem Fetch.Canon.wait {f : Fetch} (h : f.Canon but) (e : f = .wait t) : t.Canon but := by
  subst e
  exact h

theorem LodRead.Canon.desc {r : LodRead} {d : Lod} (h : r.Canon but) (e : r = .desc t d) : t.Canon but := by
  subst e
  exact h

theorem LodRead.Canon.withdrawn {r : LodRead} (h : r.Canon but) (e : r = .withdrawn t) : t.Canon but := by
  subst e
  exact h

theorem LodRead.Canon.stop {r : LodRead} {p : Perf} (h : r.Canon but) (e : r = .stop p) : p.Canon but := by
  subst e
  exact h

theorem LodLane.Canon.done {r : LodLane} {l : List W32} (h : r.Canon but) (e : r = .done t l) : t.Canon but := by
  subst e
  exact h

theorem LodLane.Canon.wait {r : LodLane} (h : r.Canon but) (e : r = .wait t) : t.Canon but := by
  subst e
  exact h

/-! ## Folds -/

theorem State.Canon.foldl {α : Type} {l : List α} {f : State → α → State} (h : s.Canon but) (hf : ∀ s a, s.Canon but → (f s a).Canon but) :
    (l.foldl f s).Canon but := by
  induction l generalizing s with
  | nil => exact h
  | cons a l ih => exact ih (hf s a h)

theorem State.Canon.foldl_fst {α β : Type} {l : List α} {f : State × β → α → State × β} {p : State × β} (h : p.1.Canon but)
    (hf : ∀ p a, p.1.Canon but → (f p a).1.Canon but) : (l.foldl f p).1.Canon but := by
  induction l generalizing p with
  | nil => exact h
  | cons a l ih => exact ih (hf p a h)

theorem State.Canon.foldl_progress {α : Type} {l : List α} {f : Progress → α → Progress} {p : Progress} (h : p.s.Canon but)
    (hf : ∀ p a, p.s.Canon but → (f p a).s.Canon but) : (l.foldl f p).s.Canon but := by
  induction l generalizing p with
  | nil => exact h
  | cons a l ih => exact ih (hf p a h)

end

end Sys2Proof.Machine
end

section
/-! SUPPORT. The memories stay in canonical form: contexts, exceptions, the homes, the L1s, the walk and the accesses of a core. -/

-- One lemma at a time: the lemmas of this part at once take more threads than the memory has room for.
set_option Elab.async false

namespace Sys2Proof.Machine

section
variable {but : Option Nat} {s : State}

/-! ## Units -/

theorem State.Canon.setCtx {cid : Nat} {c : Ctx} (hs : s.Canon but) :
    (s.setCtx cid c).Canon but :=
  hs.same

theorem State.Canon.modCtx {cid : Nat} {f : Ctx → Ctx} (hs : s.Canon but) :
    (s.modCtx cid f).Canon but := by
  unfold State.modCtx
  split
  · exact hs
  · exact hs.setCtx

theorem State.Canon.modFrame {cid h : Nat} {f : Frame → Frame} (hs : s.Canon but) :
    (s.modFrame cid h f).Canon but :=
  hs.modCtx

theorem State.Canon.modGroup {cid h : Nat} {f : Group → Group} (hs : s.Canon but) :
    (s.modGroup cid h f).Canon but :=
  hs.modFrame

theorem State.Canon.modSplit {cid h k : Nat} {f : Split → Split} (hs : s.Canon but) :
    (s.modSplit cid h k f).Canon but :=
  hs.modGroup

theorem State.Canon.modCrew {cid n : Nat} {f : Crew → Crew} (hs : s.Canon but) :
    (s.modCrew cid n f).Canon but :=
  hs.modCtx

theorem State.Canon.mapSplits {core : Nat} {p : Bind → Bool} {f : Split → Split} (hs : s.Canon but) :
    (s.mapSplits core p f).Canon but := by
  unfold State.mapSplits
  refine hs.foldl (fun t a2 h => ?_)
  split
  · exact h
  · split
    · exact h.modGroup
    · exact h

theorem State.Canon.wake {core : Nat} {p : Wait → Bool} (hs : s.Canon but) :
    (s.wake core p).Canon but :=
  hs.mapSplits

theorem State.Canon.wakeAll {p : Wait → Bool} (hs : s.Canon but) :
    (s.wakeAll p).Canon but :=
  hs.foldl (fun _ _ h => h.wake)

theorem State.Canon.push {i : Instr} (hs : s.Canon but) :
    (s.push i).Canon but :=
  hs.same

theorem State.Canon.pushAll {l : List Instr} (hs : s.Canon but) :
    (s.pushAll l).Canon but :=
  hs.same

theorem State.Canon.draw (hs : s.Canon but) :
    (s.draw).2.Canon but :=
  hs.same

/-! ## Time (R432, R447): units of 1 / (47 × 232,792,560) ns -/

theorem State.Canon.tick {n : Nat} (hs : s.Canon but) :
    (s.tick n).Canon but :=
  hs.same

/-! ## The issuing split -/

theorem State.Canon.fixed {e : Env} {l : Nat} {ws : List RegWrite} (hs : s.Canon but) :
    (e.fixed l ws s).Canon but :=
  hs.modGroup

theorem State.Canon.gather {e : Env} {ws : List RegWrite} (hs : s.Canon but) :
    (e.gather ws s).Canon but :=
  hs.modGroup

theorem State.Canon.owe {e : Env} {ws : List RegWrite} (hs : s.Canon but) :
    (e.owe ws s).Canon but :=
  hs.modGroup

theorem State.Canon.arrived {e : Env} (hs : s.Canon but) :
    (e.arrived s).Canon but := by
  unfold Env.arrived
  extract_lets +onlyGivenNames s1
  have h : s1.Canon but := hs.modGroup
  split
  · exact h
  · exact h.modGroup.pushAll

theorem State.Canon.later {e : Env} {ws : List RegWrite} (hs : s.Canon but) :
    (e.later ws s).Canon but := by
  unfold Env.later
  split
  · exact hs
  · exact hs.owe.push

/-! ## Taking an exception (R389 to R394) -/

theorem State.Canon.raiseHalt {cid : Nat} {code : FaultCode} {seq : Nat} (hs : s.Canon but) :
    (s.raiseHalt cid code seq).Canon but := by
  unfold State.raiseHalt
  split
  · exact hs
  · split
    · exact hs.setCtx.pushAll
    · exact hs.setCtx.pushAll
    · exact hs.setCtx
    · split <;> exact hs.setCtx
    · split <;> exact hs.setCtx
    · exact hs

theorem State.Canon.take {e : Env} {t : TrapInfo} (hs : s.Canon but) :
    (e.take t s).Canon but :=
  hs.modSplit.raiseHalt

/-! ## Where the lanes go next (R168, R172, R227) -/

theorem State.Canon.rejoin {cid h core slot : Nat} (hs : s.Canon but) :
    (s.rejoin cid h core slot).Canon but := by
  unfold State.rejoin
  split
  · split
    · exact hs.push
    · exact hs
  · exact hs

theorem State.Canon.retire {e : Env} {m : Mask} (hs : s.Canon but) :
    (e.retire m s).Canon but := by
  unfold Env.retire
  extract_lets +onlyGivenNames s1
  have h : s1.Canon but := hs.modFrame
  split
  · exact h
  · split
    · exact h.modGroup.push
    · exact h.rejoin

theorem State.Canon.next {e : Env} {h : Hdr} {n : Nat} (hs : s.Canon but) :
    (e.next h n s).Canon but := by
  unfold Env.next
  extract_lets +onlyGivenNames g s1
  have h2 : s1.Canon but := hs.modSplit
  split
  · exact h2.retire
  · exact h2

/-! ## The checks at issue (R238) -/

theorem State.Canon.issueAny {i : Instr} {h : Hdr} {tags : Env → Bool} {body : Env → Perf} (hs : s.Canon but)
    (hbody : ∀ e, e.s.Canon but → (body e).Canon but) :
    OutcomeCanon but (issueAny i h tags body s) := by
  unfold Machine.issueAny
  split
  · exact hs
  · rename_i hq
    split
    · exact hs.take
    · split
      · exact hs.take
      · split
        · rename_i hq2
          exact ((hbody _ (hs.env hq)).ok hq2).next
        · rename_i hq3
          exact (hbody _ (hs.env hq)).moved hq3
        · rename_i hq4
          exact (hbody _ (hs.env hq)).stay hq4
        · rename_i hq5
          exact ((hbody _ (hs.env hq)).trap hq5).take

theorem State.Canon.issueWith {i : Instr} {h : Hdr} {tags : Env → Bool} {body : Env → Perf} (hs : s.Canon but)
    (hbody : ∀ e, e.s.Canon but → (body e).Canon but) :
    OutcomeCanon but (issueWith i h tags body s) := by
  unfold Machine.issueWith
  refine hs.issueAny (fun e2 h2 => ?_)
  split
  · exact h2
  · exact hbody _ h2

/-! ## The physical map -/

theorem State.Canon.modFn {vf : Nat} {f : Fn → Fn} (hs : s.Canon but) :
    (s.modFn vf f).Canon but :=
  hs.same

theorem State.Canon.meet {ln : Nat} (hs : s.Canon but) :
    (s.meet ln).Canon but := by
  unfold State.meet
  split
  · exact hs.same
  · exact hs

/-! ## The hotness sketch (R63, R64) -/

theorem State.Canon.sample {ln : Nat} {tier : Bool} (hs : s.Canon but) :
    (s.sample ln tier).Canon but := by
  unfold State.sample
  split
  · extract_lets +onlyGivenNames c
    split
    · exact hs.same
    · exact hs
  · exact hs

/-! ## Image lines (R13, R16, R53) -/

theorem State.Canon.imageWrite {cid off n x : Nat} (hs : s.Canon but) :
    (s.imageWrite cid off n x).Canon but := by
  unfold State.imageWrite
  split
  · exact hs
  · split
    · exact hs.setCtx
    · split
      · split
        · exact hs.setCtx
        · split
          · refine hs.modCoreWf (fun c hc => ?_)
            exact Mem.writeN_wf _ hc _ _
          · exact hs
      · exact hs

/-! ## Homes (R54, R55, R103) -/

theorem State.Canon.useMeta {ln : Nat} (hs : s.Canon but) :
    (s.useMeta ln).Canon but :=
  hs.same

theorem State.Canon.memoryRead {ln : Nat} {tier : Bool} (hs : s.Canon but) :
    (s.memoryRead ln tier).Canon but := by
  unfold State.memoryRead
  split
  · exact hs
  · extract_lets +onlyGivenNames s1
    have h : s1.Canon but := hs.sample
    split
    · exact h
    · extract_lets +onlyGivenNames s2
      have h2 : s2.Canon but := h.useMeta
      split
      · exact h2.same
      · exact h2

theorem State.Canon.setL2 {ln : Nat} {l : L2Line} (hs : s.Canon but) :
    (s.setL2 ln l).Canon but := by
  unfold State.setL2
  split
  · extract_lets +onlyGivenNames src
    have h : src.Canon but := hs.imageWrite
    clear_value src
    exact h.same
  · exact hs.same

theorem State.Canon.fetchL2 {ln : Nat} {tier : Bool} (hs : s.Canon but) :
    (s.fetchL2 ln tier).1.Canon but := by
  unfold State.fetchL2
  split
  · exact hs
  · exact hs.memoryRead.setL2

theorem State.Canon.mergeAt {core : Nat} {x : L1Line} (hs : s.Canon but) :
    (s.mergeAt core x).Canon but := by
  unfold State.mergeAt
  split
  rename_i hq
  exact (hs.fetchL2.of_pair hq).setL2

theorem State.Canon.flushBacks {core ln : Nat} (hs : s.Canon but) :
    (s.flushBacks core ln).Canon but := by
  unfold State.flushBacks
  extract_lets +onlyGivenNames mine s'
  have h : s'.Canon but := by
    unfold s'
    refine hs.foldl (fun t a2 h => ?_)
    split
    · exact h.mergeAt
    · exact h
  exact h.same

theorem State.Canon.staleFills {core : Nat} {p : Nat → Nat → Bool} (hs : s.Canon but) :
    (s.staleFills core p).Canon but :=
  hs.same

theorem State.Canon.forward {ln core asid : Nat} (hs : s.Canon but) :
    (s.forward ln core asid).Canon but := by
  unfold State.forward
  extract_lets +onlyGivenNames s1
  have h : s1.Canon but := hs.flushBacks
  extract_lets +onlyGivenNames drop
  have h2 : ∀ s, s.Canon but → (drop s).Canon but := by
    unfold drop
    intro _ h2
    split
    · exact h2.setL2
    · exact h2
  split
  · split
    · exact h2 _ h.mergeAt.staleFills.modCore
    · exact h2 _ h
  · exact h2 _ h

theorem State.Canon.forwardTo {ln : Nat} {p : Nat → Nat → Bool} (hs : s.Canon but) :
    (s.forwardTo ln p).Canon but := by
  unfold State.forwardTo
  split
  · exact hs.foldl (fun _ _ h => h.forward)
  · exact hs

theorem State.Canon.forwardAll {ln : Nat} (hs : s.Canon but) :
    (s.forwardAll ln).Canon but :=
  hs.forwardTo

theorem State.Canon.recallImage {cid : Nat} (hs : s.Canon but) :
    (s.recallImage cid).Canon but :=
  hs.foldl (fun _ _ h => h.forwardAll)

theorem State.Canon.memoryWrite {ln : Nat} {l : L2Line} (hs : s.Canon but) :
    (s.memoryWrite ln l).Canon but := by
  unfold State.memoryWrite
  extract_lets +onlyGivenNames s1
  have h : s1.Canon but := hs.sample
  extract_lets +onlyGivenNames s2
  have h2 : s2.Canon but := h.ofDram (Mem.setLine_wf hs.dramWf _ _)
  split
  · extract_lets +onlyGivenNames s3
    have h3 : s3.Canon but := h2.useMeta
    exact h3.same
  · exact h2

theorem State.Canon.evictL2 {ln : Nat} (hs : s.Canon but) :
    (s.evictL2 ln).Canon but := by
  unfold State.evictL2
  extract_lets +onlyGivenNames s1
  have h : s1.Canon but := hs.forwardAll
  split
  · exact h
  · extract_lets +onlyGivenNames s2
    have h2 : s2.Canon but := by
      unfold s2
      split
      · exact h.memoryWrite
      · exact h
    exact h2.same

theorem State.Canon.makeWayL2 {ln : Nat} (hs : s.Canon but) :
    (s.makeWayL2 ln).Canon but := by
  unfold State.makeWayL2
  split
  · exact hs
  · extract_lets +onlyGivenNames set
    split
    rename_i hq
    have hp := hs.draw.of_snd hq
    split
    · exact hp.evictL2
    · exact hp

theorem State.Canon.allocate {ln : Nat} {tier : Bool} (hs : s.Canon but) :
    (s.allocate ln tier).1.Canon but :=
  hs.makeWayL2.fetchL2

theorem State.Canon.mergeBack {core : Nat} {x : L1Line} (hs : s.Canon but) :
    (s.mergeBack core x).Canon but :=
  (hs.foldl (fun _ _ h => h.forward)).makeWayL2.mergeAt

theorem State.Canon.homeReadBy {core asid ln : Nat} {tier : Bool} (hs : s.Canon but) :
    (s.homeReadBy core asid ln tier).1.Canon but := by
  unfold State.homeReadBy
  extract_lets +onlyGivenNames s1
  have h : s1.Canon but := hs.forwardTo
  split
  rename_i hq
  exact h.allocate.of_pair hq

theorem State.Canon.homeRead {ln : Nat} {tier : Bool} (hs : s.Canon but) :
    (s.homeRead ln tier).1.Canon but := by
  unfold State.homeRead
  extract_lets +onlyGivenNames s1
  have h : s1.Canon but := hs.meet.forwardAll
  split
  rename_i hq
  exact h.allocate.of_pair hq

theorem State.Canon.homeWrite {ln : Nat} {m : ByteMask} {x : Line} {cmp tier : Bool} (hs : s.Canon but) :
    (s.homeWrite ln m x cmp tier).Canon but := by
  unfold State.homeWrite
  extract_lets +onlyGivenNames s1
  have h : s1.Canon but := hs.meet.forwardAll
  split
  rename_i hq
  exact (h.allocate.of_pair hq).setL2

theorem State.Canon.homeRegister {core asid ln : Nat} {mask : ByteMask} {tier : Bool} (hs : s.Canon but) :
    (s.homeRegister core asid ln mask tier).Canon but := by
  unfold State.homeRegister
  split
  rename_i hq
  extract_lets +onlyGivenNames other s1
  have h : s1.Canon but := (hs.allocate.of_pair hq).foldl (fun _ _ h => h.forward)
  extract_lets +onlyGivenNames left s2
  have h2 : s2.Canon but := by
    unfold s2
    split
    · clear_value left
      split
      · exact h.forward
      · exact h
    · exact h
  split
  · exact h2.setL2
  · exact h2

theorem State.Canon.readSpan {tier : Bool} {n m k : Nat} (hs : s.Canon but) :
    (State.readSpan tier n s m k).1.Canon but := by
  induction n generalizing m k s with
  | zero =>
    unfold State.readSpan
    exact hs
  | succ n ih =>
    unfold State.readSpan
    split
    · exact hs
    · extract_lets +onlyGivenNames k1
      split
      rename_i hq
      split
      rename_i hq2
      exact (ih (hs.homeRead.of_pair hq)).of_pair hq2

theorem State.Canon.writeSpan {cmp tier : Bool} {n m k j : Nat} (hs : s.Canon but) :
    (State.writeSpan cmp tier n s m k j).Canon but := by
  induction n generalizing m k j s with
  | zero =>
    unfold State.writeSpan
    exact hs
  | succ n ih =>
    unfold State.writeSpan
    split
    · exact hs
    · exact ih hs.homeWrite

theorem State.Canon.readMem {pa n : Nat} (hs : s.Canon but) :
    (s.readMem pa n).1.Canon but :=
  hs.readSpan

theorem State.Canon.writeMem {pa n x : Nat} (hs : s.Canon but) :
    (s.writeMem pa n x).Canon but :=
  hs.writeSpan

/-! ## The slice ALU (R56): types 0 i, 1 n, 2 f32, 3 bf16x2, 4 b; operations 0 add, 1 min, 2 max, 3 and, 4 or, 5 xor, -/

theorem State.Canon.homeAtomic {ln off : Nat} {wide : Bool} {op ty : Nat} {a b : W64} {cmp tier : Bool} (hs : s.Canon but) :
    (s.homeAtomic ln off wide op ty a b cmp tier).1.Canon but := by
  unfold State.homeAtomic
  extract_lets +onlyGivenNames n s1
  have h : s1.Canon but := hs.forwardAll
  split
  rename_i hq
  exact (h.allocate.of_pair hq).setL2

theorem State.Canon.homeReduce {ln : Nat} {x : Line} {m : ByteMask} {op ty : Nat} {cmp tier : Bool} (hs : s.Canon but) :
    (s.homeReduce ln x m op ty cmp tier).Canon but := by
  unfold State.homeReduce
  extract_lets +onlyGivenNames s1
  have h : s1.Canon but := hs.forwardAll
  split
  rename_i hq
  exact (h.allocate.of_pair hq).setL2

/-! ## Requests in flight -/

theorem State.Canon.send {r : Nat → Req} (hs : s.Canon but) :
    (s.send r).Canon but :=
  hs.same

theorem State.Canon.dropReq {id : Nat} (hs : s.Canon but) :
    (s.dropReq id).Canon but :=
  hs.same

theorem State.Canon.retryExit {core : Nat} (hs : s.Canon but) :
    (s.retryExit core).Canon but :=
  hs.pushAll

theorem State.Canon.settles {cid core : Nat} (hs : s.Canon but) :
    (s.settles cid core).Canon but := by
  unfold State.settles
  split
  · exact hs
  · split
    · exact hs
    · split
      · exact hs.push
      · split
        · exact hs.push
        · exact hs

theorem State.Canon.answered {r : Req} (hs : s.Canon but) :
    (s.answered r).Canon but :=
  hs.dropReq.pushAll.settles.wake.retryExit.pushAll

/-! ## The core's L1 (R48 to R51) -/

theorem State.Canon.sendBack {core cid h : Nat} {x : L1Line} (hs : s.Canon but) :
    (s.sendBack core cid h x).Canon but :=
  hs.staleFills.send.push

theorem State.Canon.evictL1 {core cid h asid ln : Nat} (hs : s.Canon but) :
    (s.evictL1 core cid h asid ln).Canon but := by
  unfold State.evictL1
  split
  · exact hs
  · extract_lets +onlyGivenNames s1
    have h2 : s1.Canon but := hs.modCore
    split
    · exact h2
    · exact h2.sendBack

theorem State.Canon.makeRoom {core cid h asid ln : Nat} (hs : s.Canon but) :
    (s.makeRoom core cid h asid ln).Canon but := by
  unfold State.makeRoom
  split
  · exact hs
  · extract_lets +onlyGivenNames set
    split
    · exact hs
    · split
      rename_i hq
      have hp := hs.draw.of_snd hq
      extract_lets +onlyGivenNames set1
      split
      · exact hp.evictL1
      · exact hp

theorem State.Canon.storeL1 {core cid h asid ln vunit : Nat} {m : ByteMask} {x : Line} {cmp tier : Bool} (hs : s.Canon but) :
    (s.storeL1 core cid h asid ln vunit m x cmp tier).Canon but :=
  hs.makeRoom.modCore

theorem State.Canon.fillL1 {core cid h asid ln vunit : Nat} {x : Line} {cmp tier low : Bool} (hs : s.Canon but) :
    (s.fillL1 core cid h asid ln vunit x cmp tier low).Canon but :=
  hs.makeRoom.modCore

/-! ## Acquire (R100, R102) -/

theorem State.Canon.acquireOn {core cid h asid : Nat} {σ : SigBits} (hs : s.Canon but) :
    (s.acquireOn core cid h asid σ).Canon but :=
  (hs.foldl (fun _ _ h2 => h2.evictL1)).staleFills.modCore

theorem State.Canon.acquire {core cid h owner : Nat} {σ : SigBits} (hs : s.Canon but) :
    (s.acquire core cid h owner σ).Canon but := by
  unfold State.acquire
  extract_lets +onlyGivenNames σ1
  split
  · exact hs
  · exact hs.acquireOn.modFrame

theorem State.Canon.sweep {core cid h asid : Nat} (hs : s.Canon but) :
    (s.sweep core cid h asid).Canon but :=
  hs.acquireOn.modCore

/-! ## Release (R101) -/

theorem State.Canon.sendRegistrations {core cid h asid : Nat} {σ : SigBits} (hs : s.Canon but) :
    (s.sendRegistrations core cid h asid σ).Canon but := by
  unfold State.sendRegistrations
  refine hs.foldl (fun t a2 h2 => ?_)
  split
  · exact h2
  · exact h2.send.push

theorem State.Canon.withRelease {e : Env} {k : State → Perf} (hs : s.Canon but) (hk : ∀ s, s.Canon but → (k s).Canon but) :
    (e.withRelease s k).Canon but := by
  unfold Env.withRelease
  split
  · exact hk _ hs
  · exact hs.sendRegistrations.modSplit

/-! ## The ASID table (R17, R18) -/

theorem State.Canon.readEntry {pa : Nat} (hs : s.Canon but) :
    (s.readEntry pa).1.Canon but := by
  unfold State.readEntry
  split
  rename_i hq
  exact hs.readMem.of_pair hq

theorem State.Canon.asidEntry {core : Option Nat} {asid : Nat} (hs : s.Canon but) :
    (s.asidEntry core asid).1.Canon but := by
  unfold State.asidEntry
  extract_lets +onlyGivenNames pa
  split
  · split
    · exact hs
    · exact hs.readEntry
  · split
    · exact hs
    · split
      · exact hs
      · split
        rename_i hq
        have hp := hs.readEntry.of_pair hq
        split
        · exact hp.modCore
        · exact hp

/-! ## The walk (R19 to R22, R24) -/

theorem State.Canon.nodeEntry {vf base idx : Nat} (hs : s.Canon but) :
    (s.nodeEntry vf base idx).1.Canon but := by
  unfold State.nodeEntry
  extract_lets +onlyGivenNames pa
  split
  · exact hs
  · split
    · exact hs
    · split
      rename_i hq
      exact hs.readEntry.of_pair hq

theorem State.Canon.rememberOn {core : Option Nat} {w : WalkEnt} (hs : s.Canon but) :
    (s.rememberOn core w).Canon but := by
  unfold State.rememberOn
  split
  · exact hs.modCore
  · exact hs

theorem State.Canon.walk1 {vf asid : Nat} {va : W64} {node : Nat} (hs : s.Canon but) :
    (s.walk1 vf asid va node).1.Canon but := by
  unfold State.walk1
  split
  · rename_i hq
    exact hs.nodeEntry.of_pair hq
  · rename_i hq2
    exact hs.nodeEntry.of_pair hq2

theorem State.Canon.walk2 {core : Option Nat} {vf asid : Nat} {va : W64} {node : Nat} (hs : s.Canon but) :
    (s.walk2 core vf asid va node).1.Canon but := by
  unfold State.walk2
  split
  · rename_i hq
    exact hs.nodeEntry.of_pair hq
  · rename_i hq2
    have hp := hs.nodeEntry.of_pair hq2
    split
    · exact hp
    · exact hp.rememberOn.walk1

theorem State.Canon.walk3 {core : Option Nat} {vf asid : Nat} {va : W64} {node : Nat} (hs : s.Canon but) :
    (s.walk3 core vf asid va node).1.Canon but := by
  unfold State.walk3
  split
  · rename_i hq
    exact hs.nodeEntry.of_pair hq
  · rename_i hq2
    have hp := hs.nodeEntry.of_pair hq2
    split
    · exact hp
    · exact hp.rememberOn.walk2

theorem State.Canon.walk {core : Option Nat} {asid : Nat} {va : W64} (hs : s.Canon but) :
    (s.walk core asid va).1.Canon but := by
  unfold State.walk
  split
  rename_i hq
  have hp := hs.asidEntry.of_pair hq
  split
  · exact hp
  · extract_lets +onlyGivenNames cached
    split
    · exact hp.walk1
    · split
      · exact hp.walk2
      · exact hp.walk3

/-! ## A lane's address (R27, R30) -/

theorem State.Canon.xlate {core asid vf : Nat} {sup : Bool} {kind : Kind} {acc : Accept} {va : W64} (hs : s.Canon but) :
    (s.xlate core asid vf sup kind acc va).1.Canon but := by
  unfold State.xlate
  split
  · exact hs
  · split
    · exact hs
    · split
      · exact hs
      · split
        · rename_i hq
          exact hs.walk.of_pair hq
        · rename_i hq2
          exact (hs.walk.of_pair hq2).modCore

theorem State.Canon.translate {e : Env} {kind : Kind} {acc : Accept} {va : W64} (hs : s.Canon but) :
    (e.translate s kind acc va).1.Canon but :=
  hs.xlate

/-! ## Fault records (R33) -/

theorem State.Canon.modPorter {h : Nat} {f : Porter → Porter} (hs : s.Canon but) :
    (s.modPorter h f).Canon but :=
  hs.same

theorem State.Canon.deliverFault {core : Nat} {r : FaultRec} (hs : s.Canon but) :
    (s.deliverFault core r).1.Canon but := by
  unfold State.deliverFault
  extract_lets +onlyGivenNames f
  split
  · split
    · exact hs
    · exact (hs.ofHost (Mem.writeN_wf _ hs.hostWf _ _)).modFn
  · exact hs.modPorter

theorem State.Canon.postFault {core vf : Nat} {owner : Option FRef} {split : Nat} {rec : BitVec 256} (hs : s.Canon but) :
    (s.postFault core vf owner split rec).Canon but := by
  unfold State.postFault
  extract_lets +onlyGivenNames r s1
  have h : s1.Canon but := hs.modCore
  split
  · exact h.modCore
  · split
    · rename_i hq
      exact h.deliverFault.of_pair hq
    · rename_i hq2
      exact (h.deliverFault.of_pair hq2).modCore

/-! ## Faults of an access, parking and violations (R31, R32, R397) -/

theorem State.Canon.violate {e : Env} {va : W64} {u : Mask} {precise : Bool} (hs : s.Canon but) :
    (e.violate va u s precise).Canon but :=
  hs.take.modCtx

theorem State.Canon.park {e : Env} {k : Kind} {src : Nat} {u : Mask} {bad : List Bad} (hs : s.Canon but) :
    (e.park k src u bad s).Canon but := by
  unfold Env.park
  extract_lets +onlyGivenNames pages post
  have h : ∀ s a, s.Canon but → (post s a).Canon but := by
    unfold post
    intro _ _ h
    split
    · exact h
    · exact h.postFault
  extract_lets +onlyGivenNames s1
  have h2 : s1.Canon but := by
    unfold s1
    refine hs.foldl (fun t a2 h2 => ?_)
    split
    · exact h2.modCore
    · exact h2.modCore
    · exact h2.modCore
    · exact h2
  extract_lets +onlyGivenNames s2
  have h3 : s2.Canon but := h2.foldl (fun _ _ h3 => h _ _ h3)
  split
  · exact h3
  · exact h3.modSplit

theorem State.Canon.requestWalk {e : Env} {page : Nat} {quiet : Bool} (hs : s.Canon but) :
    (e.requestWalk page s quiet).Canon but := by
  unfold Env.requestWalk
  extract_lets +onlyGivenNames c
  split
  · split
    · exact hs
    · exact hs.modCore
  · split
    · exact hs
    · exact hs.modCore.push

theorem State.Canon.hold {e : Env} {w : Wait} (hs : s.Canon but) :
    (e.hold w s).Canon but :=
  hs.modSplit

theorem State.Canon.unit {e : Env} {kind : Kind} {acc : Accept} {n : Nat} {addr : Nat → Addr} {act : Nat → Place → State → Did}
    {p : Progress} {i : Nat} (hact : ∀ a a1 s, s.Canon but → (act a a1 s).Canon but) (hp : p.s.Canon but) :
    (e.unit kind acc n addr act p i).s.Canon but := by
  unfold Env.unit
  split
  · exact hp
  · extract_lets +onlyGivenNames a va page fault walk perform
    have h : ∀ a a1, (fault a a1).s.Canon but := fun _ _ => hp
    have h2 : ∀ a, (walk a).s.Canon but := by
      unfold walk
      intro _
      exact hp.requestWalk
    have h3 : ∀ a, (perform a).s.Canon but := by
      unfold perform
      intro _
      split
      · rename_i hq
        exact (hact _ _ _ hp).done hq
      · rename_i hq2
        exact (hact _ _ _ hp).pending hq2
    split
    · exact hp
    · split
      · split
        · exact h3 _
        · split
          · exact hp
          · split
            · exact h3 _
            · exact h2 _
            · exact hp
      · exact h2 _
      · exact hp

theorem State.Canon.conclude {e : Env} {kind : Kind} {src : Nat} {finish : List (Nat × List W32) → State → State} {p : Progress}
    (hfinish : ∀ a s, s.Canon but → (finish a s).Canon but) (hp : p.s.Canon but) :
    (e.conclude kind src finish p).Canon but := by
  unfold Env.conclude
  extract_lets +onlyGivenNames s
  have h : s.Canon but := by
    unfold s
    split
    · exact hp
    · exact hfinish _ _ hp
  extract_lets +onlyGivenNames left s1
  have h2 : s1.Canon but := by
    unfold s1
    split
    · exact h.arrived
    · exact h
  extract_lets +onlyGivenNames u
  split
  · split
    · exact h2.violate
    · exact h2
  · split
    · exact h2
    · split
      · exact h2.modSplit
      · split
        · split
          · exact h2.violate
          · exact h2
        · exact h2.park

theorem State.Canon.opens {e : Env} {dest : List RegWrite} (hs : s.Canon but) :
    (e.opens dest s).Canon but := by
  unfold Env.opens
  split
  · exact hs
  · exact hs.gather

theorem State.Canon.access {e : Env} {todo : Mask} {kind : Kind} {acc : Accept} {n align src : Nat} {addr : Nat → Addr}
    {act : Nat → Place → State → Did} {finish : List (Nat × List W32) → State → State} {dest : List RegWrite} (hs : s.Canon but)
    (hact : ∀ a a1 s, s.Canon but → (act a a1 s).Canon but) (hfinish : ∀ a s, s.Canon but → (finish a s).Canon but) :
    (e.access todo kind acc n align src addr act finish s dest).Canon but := by
  unfold Env.access
  extract_lets +onlyGivenNames u units faults
  clear_value faults
  split
  · exact hs
  · exact State.Canon.conclude (fun _ _ h => hfinish _ _ h) (hs.opens.foldl_progress (fun _ _ h => State.Canon.unit (fun _ _ _ h2 => hact _ _ _ h2) h))

theorem State.Canon.wakeAccess {core : Nat} (hs : s.Canon but) :
    (s.wakeAccess core).Canon but :=
  hs.wake.mapSplits

theorem State.Canon.wakeRelease {core : Nat} (hs : s.Canon but) :
    (s.wakeRelease core).Canon but :=
  hs.wake

/-! ## Queue table entries (R369) -/

theorem State.Canon.queue {n : Nat} (hs : s.Canon but) :
    (s.queue n).1.Canon but := by
  unfold State.queue
  split
  · exact hs
  · split
    rename_i hq
    split <;> exact hs.readMem.of_pair hq

theorem State.Canon.privQueueFrom {vf n m : Nat} (hs : s.Canon but) :
    (s.privQueueFrom vf n m).1.Canon but := by
  induction m generalizing n s with
  | zero => exact hs
  | succ m ih =>
    rw [State.privQueueFrom]
    split
    rename_i t q hq
    have ht : t.Canon but := hs.queue.of_pair hq
    split
    · exact ht
    · exact ih ht

theorem State.Canon.privQueue {vf : Nat} (hs : s.Canon but) :
    (s.privQueue vf).1.Canon but := by
  unfold State.privQueue
  split
  · exact hs.privQueueFrom
  · exact hs

/-! ## Registers (R428) -/

theorem State.Canon.ownRegister {vf off : Nat} (hs : s.Canon but) :
    (s.ownRegister vf off).1.Canon but := by
  have h (x : W64) : FstCanon but (s, x) := hs
  show FstCanon but (s.ownRegister vf off)
  unfold State.ownRegister
  extract_lets f
  iterate 12 refine .ite (h _) ?_
  refine .ite ?_ ?_
  · extract_lets
    split
    rename_i hq
    exact hs.queue.of_pair hq
  · exact .ite (h _) (.ite (h _) (h _))

theorem State.Canon.pfRegister {off : Nat} (hs : s.Canon but) :
    (s.pfRegister off).1.Canon but := by
  have h (x : W64) : FstCanon but (s, x) := hs
  have hdies (v) (x : W64) : FstCanon but ({ s with dies := v }, x) := State.Canon.same hs
  show FstCanon but (s.pfRegister off)
  unfold State.pfRegister
  iterate 7 refine .ite (h _) ?_
  refine .ite ?_ ?_
  · extract_lets i d k
    iterate 2 refine .ite (h _) ?_
    iterate 2 refine .ite (hdies _ _) ?_
    exact .ite (h _) (.ite (h _) (h _))
  iterate 5 refine .ite (h _) ?_
  exact .ite (h _) (h _)

theorem State.Canon.readWindow {vf off n : Nat} (hs : s.Canon but) :
    (s.readWindow vf off n).1.Canon but := by
  unfold State.readWindow
  split
  · split
    · split
      rename_i hq
      exact hs.pfRegister.of_pair hq
    · split
      rename_i hq2
      exact hs.ownRegister.of_pair hq2
  · exact hs

theorem State.Canon.request {e : Env} {op : ReqOp} {dst : ReqDst} {lanes : Mask} {page : Option Nat} {after : List Nat} (hs : s.Canon but) :
    (e.request op dst lanes s page after).Canon but :=
  hs.send

theorem State.Canon.bank {e : Env} {op : ReqOp} {dst : ReqDst} {lanes : Mask} {page : Option Nat} (hs : s.Canon but) :
    (e.bank op dst lanes s page).Canon but :=
  hs.request.push

theorem State.Canon.atomicAt {e : Env} {op : ReqOp} {dst : ReqDst} {lanes : Mask} {page : Option Nat} (hs : s.Canon but) :
    (e.atomicAt op dst lanes s page).Canon but :=
  hs.request.push

theorem State.Canon.sign {e : Env} {ln : Nat} (hs : s.Canon but) :
    (e.sign ln s).Canon but :=
  hs.modFrame

theorem State.Canon.fill {e : Env} {ln vunit : Nat} {cmp tier : Bool} (hs : s.Canon but) :
    (e.fill ln vunit cmp tier s).1.Canon but := by
  unfold Env.fill
  extract_lets +onlyGivenNames op
  split
  · exact hs
  · exact hs.request.push

theorem State.Canon.awaitFill {e : Env} {dst : ReqDst} {lanes : Mask} {va : W64} {pa n : Nat} {cmp tier : Bool} (hs : s.Canon but) :
    (e.awaitFill dst lanes va pa n cmp tier s).Canon but := by
  unfold Env.awaitFill
  split
  · exact hs
  · split
    rename_i hq
    have hp := hs.fill.of_pair hq
    split
    · exact hp
    · split
      exact hp.request

theorem State.Canon.leaveLine {e : Env} {ln : Nat} (hs : s.Canon but) :
    (e.leaveLine ln s).Canon but :=
  hs.evictL1.staleFills.modCore

theorem State.Canon.readNow {e : Env} {p : Place} {n : Nat} (hs : s.Canon but) :
    (e.readNow p n s).1.Canon but := by
  unfold Env.readNow
  split
  · extract_lets +onlyGivenNames k
    split
    · exact hs
    · split
      rename_i hq
      exact hs.draw.of_snd hq
  · exact hs
  · exact hs
  · exact hs.readWindow
  · exact hs
  · exact hs
  · exact hs

theorem State.Canon.writeNow {e : Env} {p : Place} {n x : Nat} (hs : s.Canon but) :
    (e.writeNow p n x s).Canon but := by
  unfold Env.writeNow
  split
  · refine hs.modCoreWf (fun c hc => ?_)
    exact Mem.writeN_wf _ hc _ _
  · exact hs.ofHost (Mem.writeN_wf _ hs.hostWf _ _)
  · exact hs.ofPeer (Mem.writeN_wf _ hs.peerWf _ _)
  · split
    · exact hs.push
    · exact hs
  · exact hs.ofAtrium (Mem.writeN_wf _ hs.atriumWf _ _)
  · exact hs
  · exact hs

theorem State.Canon.loadAt {e : Env} {dst : ReqDst} {lanes : Mask} {va : W64} {n : Nat} {p : Place} (hs : s.Canon but) :
    (e.loadAt dst lanes va n p s).1.Canon but := by
  unfold Env.loadAt
  split
  · split
    · exact hs
    · exact hs.awaitFill
  · split
    · exact hs
    · exact hs.bank
  · split
    rename_i hq
    exact hs.readNow.of_pair hq

theorem State.Canon.storeAt {e : Env} {va : W64} {n x : Nat} {p : Place} (hs : s.Canon but) :
    (e.storeAt va n x p s).Canon but := by
  unfold Env.storeAt
  split
  · exact hs.storeL1.sign
  · exact hs.bank
  · exact hs.writeNow

theorem State.Canon.atomicNow {e : Env} {p : Place} {n op ty a b : Nat} (hs : s.Canon but) :
    (e.atomicNow p n op ty a b s).1.Canon but := by
  unfold Env.atomicNow
  split
  · exact hs
  · split
    rename_i hq
    exact (hs.readNow.of_pair hq).writeNow

theorem State.Canon.atomicOn {e : Env} {dst : ReqDst} {lanes : Mask} {va : W64} {n op ty a b : Nat} {p : Place} (hs : s.Canon but) :
    (e.atomicOn dst lanes va n op ty a b p s).1.Canon but := by
  unfold Env.atomicOn
  extract_lets +onlyGivenNames sent
  have h : ∀ s, s.Canon but → (sent s).1.Canon but := fun _ h => h
  extract_lets +onlyGivenNames page
  split
  · exact hs
  · split
    · exact h _ hs.leaveLine.sign.atomicAt
    · exact h _ hs.bank
    · split
      rename_i hq
      exact hs.atomicNow.of_pair hq

end

end Sys2Proof.Machine
end

section
/-! SUPPORT. The memories stay in canonical form: loads, stores, atomics, barriers and fetch. -/

-- One lemma at a time: the lemmas of this part at once take more threads than the memory has room for.
set_option Elab.async false

namespace Sys2Proof.Machine

section
variable {but : Option Nat} {s : State}

/-! ## Sizes and values (R232, R300, R302) -/

theorem State.Canon.deliver {r : Req} {f : Focus} {units : Mask} {ws : List RegWrite} (hs : s.Canon but) :
    (s.deliver r f units ws).Canon but := by
  unfold State.deliver
  split
  · exact hs
  · split
    · exact hs
    · refine State.Canon.modSplit ?_
      split
      · exact hs
      · exact hs.gather

theorem State.Canon.answer {r : Req} {x : Nat} (hs : s.Canon but) :
    (s.answer r x).Canon but := by
  unfold State.answer
  split
  · exact hs
  · exact hs
  · exact hs
  · exact hs
  · exact hs.deliver
  · exact hs.deliver
  · exact hs.deliver

/-! ## Scalar accesses (R261) -/

theorem State.Canon.execSld {h : Hdr} {b : UBody} (hs : s.Canon but) :
    OutcomeCanon but (execSld h b s) := by
  unfold Machine.execSld
  refine hs.issueWith (fun e2 h2 => h2.access (fun a2 a t h3 => ?_) (fun _ _ h3 => h3.foldl (fun _ _ h4 => h4.gather)))
  split
  · rename_i hq
    exact h3.loadAt.of_pair hq
  · rename_i hq2
    exact h3.loadAt.of_pair hq2

theorem State.Canon.execSst {h : Hdr} {b : UBody} (hs : s.Canon but) :
    OutcomeCanon but (execSst h b s) :=
  hs.issueWith (fun _ h2 => h2.access (fun _ _ _ h3 => h3.storeAt) (fun _ _ h3 => h3))

/-! ## ANCHOR (R26) -/

theorem State.Canon.newAnchor {e : Env} {va : W64} {len : Nat} (hs : s.Canon but) :
    (e.newAnchor va len s).1.Canon but := by
  unfold Env.newAnchor
  extract_lets +onlyGivenNames stale
  split
  · exact hs
  · extract_lets +onlyGivenNames use
    have h : ∀ s a, s.Canon but → (use s a).1.Canon but := by
      unfold use
      intro _ _ h
      split <;> exact h
    split
    · exact h _ _ hs
    · split
      · rename_i hq
        exact h _ _ (hs.walk.of_pair hq).modCore
      · rename_i hq2
        exact hs.walk.of_pair hq2

theorem State.Canon.execAnchor {h : Hdr} {b : AnchorBody} (hs : s.Canon but) :
    OutcomeCanon but (execAnchor h b s) := by
  unfold Machine.execAnchor
  refine hs.issueWith (fun e2 h2 => ?_)
  extract_lets +onlyGivenNames va
  split
  · exact h2
  · split
    rename_i hq
    exact (h2.newAnchor.of_pair hq).later

/-! ## LD and ST (R302) -/

theorem State.Canon.execLd {h : Hdr} {b : MBody} (hs : s.Canon but) :
    OutcomeCanon but (execLd h b s) := by
  unfold Machine.execLd
  refine hs.issueWith (fun e2 h2 => h2.access (fun a2 a t h3 => ?_) (fun _ _ h3 => h3.gather))
  split
  · rename_i hq
    exact h3.loadAt.of_pair hq
  · rename_i hq2
    exact h3.loadAt.of_pair hq2

theorem State.Canon.execSt {h : Hdr} {b : MBody} (hs : s.Canon but) :
    OutcomeCanon but (execSt h b s) :=
  hs.issueWith (fun _ h2 => h2.access (fun _ _ _ h3 => h3.storeAt) (fun _ _ h3 => h3))

/-! ## Line forms (R304) -/

theorem State.Canon.loadLine {e : Env} {b : MBody} {g : Mask} {j : Nat} {p : Place} (hs : s.Canon but) :
    (e.loadLine b g j p s).Canon but := by
  unfold Env.loadLine
  split
  · extract_lets +onlyGivenNames dst
    split
    · exact hs
    · exact hs.foldl (fun _ _ h => h.bank)
  · split
    · rename_i hq
      exact hs.loadAt.of_pair hq
    · rename_i hq2
      exact hs.loadAt.of_pair hq2

theorem State.Canon.storeLine {e : Env} {b : MBody} {g : Mask} {j : Nat} {p : Place} (hs : s.Canon but) :
    (e.storeLine b g j p s).Canon but := by
  unfold Env.storeLine
  extract_lets +onlyGivenNames v va
  split
  · exact hs.storeL1.sign
  · exact hs
  · refine hs.foldl (fun t a2 h => ?_)
    extract_lets +onlyGivenNames ls put
    have h2 : ∀ a a1 a2 s, s.Canon but → (put a a1 a2 s).Canon but := fun _ _ _ _ h2 => h2.storeAt
    split
    · exact h2 _ _ _ _ h
    · refine h.foldl (fun t2 a3 h3 => ?_)
      split
      · exact h2 _ _ _ _ h3
      · exact h3
  · exact hs.foldl (fun _ _ h => h.writeNow)
  · exact hs.foldl (fun _ _ h => h.writeNow)
  · exact hs.foldl (fun _ _ h => h.writeNow)
  · exact hs

theorem State.Canon.lineLoad {i : Instr} {h : Hdr} {b : MBody} {acc : Accept} {align : Nat} (hs : s.Canon but) :
    OutcomeCanon but (lineLoad i h b acc align s) :=
  hs.issueWith (fun _ h2 => h2.access (fun _ _ _ h3 => h3.loadLine) (fun _ _ h3 => h3.gather))

theorem State.Canon.lineStore {i : Instr} {h : Hdr} {b : MBody} {acc : Accept} {align : Nat} (hs : s.Canon but) :
    OutcomeCanon but (lineStore i h b acc align s) :=
  hs.issueWith (fun _ h2 => h2.access (fun _ _ _ h3 => h3.storeLine) (fun _ _ h3 => h3))

/-! ## Atomics (R305, R306) -/

theorem State.Canon.atomic {i : Instr} {h : Hdr} {b : MBody} {ret : Bool} (hs : s.Canon but) :
    OutcomeCanon but (atomic i h b ret s) := by
  unfold Machine.atomic
  refine hs.issueWith (fun e2 h2 => h2.access (fun a2 a t h3 => ?_) (fun a2 t h3 => ?_))
  · extract_lets +onlyGivenNames dst
    split
    · rename_i hq
      exact h3.atomicOn.of_pair hq
    · rename_i hq2
      exact h3.atomicOn.of_pair hq2
  · split
    · exact h3.gather
    · exact h3

theorem State.Canon.execAtoma {h : Hdr} {b : MBody} (hs : s.Canon but) :
    OutcomeCanon but (execAtoma h b s) := by
  unfold Machine.execAtoma
  refine hs.issueWith (fun e2 h2 => h2.access (fun a2 a t h3 => ?_) (fun _ _ h3 => h3))
  split
  · exact h3.bank
  · exact h3

/-! ## Prefetch (R307) -/

theorem State.Canon.prefetchAt {e : Env} {l1 : Bool} {va : W64} {p : Place} (hs : s.Canon but) :
    (e.prefetchAt l1 va p s).Canon but := by
  unfold Env.prefetchAt
  split
  · exact hs
  · split
    · exact hs.request.push
    · split
      · exact hs
      · exact hs.fill

theorem State.Canon.prefetch {e : Env} {b : MBody} {l1 : Bool} {p : State × List Nat} {l : Nat} (hp : p.1.Canon but) :
    (e.prefetch b l1 p l).1.Canon but := by
  unfold Env.prefetch
  extract_lets +onlyGivenNames a va
  split
  · exact hp
  · split
    · exact hp.prefetchAt
    · exact hp.requestWalk
    · exact hp

theorem State.Canon.pref {i : Instr} {h : Hdr} {b : MBody} {l1 : Bool} (hs : s.Canon but) :
    OutcomeCanon but (pref i h b l1 s) := by
  unfold Machine.pref
  refine hs.issueWith (fun e2 h2 => ?_)
  extract_lets +onlyGivenNames r
  have h3 : r.1.Canon but := h2.foldl_fst (fun _ _ h3 => h3.prefetch)
  split
  · exact h3
  · exact h3.modSplit

/-! ## Barrier objects (R157, R158) -/

theorem State.Canon.putBytes {p : BarPlace} {o n x : Nat} (hs : s.Canon but) :
    (s.putBytes p o n x).Canon but := by
  unfold State.putBytes
  split
  · refine hs.modCoreWf (fun c hc => ?_)
    exact Mem.writeN_wf _ hc _ _
  · exact hs.ofAtrium (Mem.writeN_wf _ hs.atriumWf _ _)

theorem State.Canon.setBar {p : BarPlace} {b : Bar} (hs : s.Canon but) :
    (s.setBar p b).Canon but :=
  hs.putBytes.wakeAll

/-! ## Signature blocks (R98, R116) -/

theorem State.Canon.claimSig {off cid : Nat} (hs : s.Canon but) :
    (s.claimSig off cid).Canon but := by
  unfold State.claimSig
  split
  · split
    · exact hs
    · exact hs.same
  · exact hs.same

theorem State.Canon.orSig {p : BarPlace} {o : Nat} {σ : SigBits} (hs : s.Canon but) :
    (s.orSig p o σ).Canon but :=
  hs.putBytes

theorem State.Canon.sendSig {core cid h asid : Nat} {dst : ReqDst} {a o : Nat} {σ : SigBits} (hs : s.Canon but) :
    (s.sendSig core cid h asid dst a o σ).1.Canon but :=
  hs.claimSig.foldl (fun _ _ h2 => h2.send.push)

/-! ## A barrier's address (R312, R316, R473) -/

theorem State.Canon.issueFault {e : Env} {k : Kind} {c : FaultCode} {va : W64} (hs : s.Canon but) :
    (e.issueFault k c va s).Canon but := by
  unfold Env.issueFault
  split
  · exact hs.violate
  · split
    · exact hs.park.modSplit
    · exact hs

theorem State.Canon.again {e : Env} (hs : s.Canon but) :
    (e.again s).Canon but :=
  hs.hold

theorem State.Canon.barPlace {e : Env} {va : W64} (hs : s.Canon but) :
    ExceptCanon but Prod.fst (e.barPlace va s) := by
  unfold Env.barPlace
  split
  · exact hs
  · split
    · rename_i hq
      exact (hs.translate.of_pair hq).issueFault
    · rename_i hq2
      have hp := hs.translate.of_pair hq2
      split
      · exact hp.again
      · exact hp
    · rename_i hq3
      exact hs.translate.of_pair hq3

theorem State.Canon.barrierOp {i : Instr} {h : Hdr} {b : ABody} {legal : Env → Bool} {op : Env → BarPlace → State → Perf}
    (hs : s.Canon but) (hop : ∀ e a s, e.s.Canon but → s.Canon but → (op e a s).Canon but) :
    OutcomeCanon but (barrierOp i h b legal op s) := by
  unfold Machine.barrierOp
  refine hs.issueWith (fun e2 h2 => ?_)
  extract_lets +onlyGivenNames va
  split
  · exact h2
  · split
    · exact h2
    · split
      · rename_i hq
        exact h2.barPlace.error hq
      · rename_i hq2
        exact hop _ _ _ h2 (h2.barPlace.ok_fst hq2)

theorem State.Canon.status {e : Env} {b : ABody} {x : W32} (hs : s.Canon but) :
    (e.status b x s).Canon but := by
  unfold Env.status
  split
  · exact hs.later
  · exact hs

theorem State.Canon.execAbinit {h : Hdr} {b : ABody} (hs : s.Canon but) :
    OutcomeCanon but (Machine.execAbinit h b s) := by
  unfold Machine.execAbinit
  refine hs.barrierOp fun e p t _ ht => ?_
  extract_lets s1 s2
  have h1 : s1.Canon but := ht.putBytes.putBytes
  clear_value s1
  have h2 : s2.Canon but := by
    unfold s2
    split
    · exact h1.same
    · exact h1
  exact h2.setBar

theorem State.Canon.execAbexp {h : Hdr} {b : ABody} (hs : s.Canon but) :
    OutcomeCanon but (execAbexp h b s) := by
  unfold Machine.execAbexp
  refine hs.barrierOp (fun e2 a2 t h2 h3 => ?_)
  split
  extract_lets +onlyGivenNames s1
  have h4 : s1.Canon but := h3.setBar
  split <;> exact h4

theorem State.Canon.arriveAt {e : Env} {b : ABody} {p : BarPlace} (hs : s.Canon but) :
    (e.arriveAt b p s).Canon but := by
  unfold Env.arriveAt
  extract_lets +onlyGivenNames before
  split
  extract_lets +onlyGivenNames s1
  have h : s1.Canon but := hs.setBar
  split
  · exact h
  · exact h.status

theorem State.Canon.execAbarr {h : Hdr} {b : ABody} (hs : s.Canon but) :
    OutcomeCanon but (execAbarr h b s) := by
  unfold Machine.execAbarr
  refine hs.barrierOp (fun e2 a2 t h2 h3 => ?_)
  split
  · split
    · exact h3.hold
    · exact h3.arriveAt
  · exact h3.withRelease (fun _ h4 => h4.orSig.arriveAt)
  · refine h3.withRelease (fun t2 h4 => ?_)
    split
    rename_i hq
    exact (h4.sendSig.of_pair hq).hold

theorem State.Canon.execAbwait {h : Hdr} {b : ABody} (hs : s.Canon but) :
    OutcomeCanon but (execAbwait h b s) := by
  unfold Machine.execAbwait
  refine hs.barrierOp (fun e2 a2 t h2 h3 => ?_)
  extract_lets +onlyGivenNames x
  split
  · split
    exact h3.acquire.status
  · exact h3.hold

theorem State.Canon.execAbtest {h : Hdr} {b : ABody} (hs : s.Canon but) :
    OutcomeCanon but (execAbtest h b s) := by
  unfold Machine.execAbtest
  refine hs.barrierOp (fun e2 a2 t h2 h3 => ?_)
  extract_lets +onlyGivenNames x pass
  split
  refine State.Canon.status ?_
  split
  · exact h3.acquire.modSplit
  · exact h3

/-! ## Flights (R162 to R164, R317) -/

theorem State.Canon.setAlcoveWord {e : Env} {a x : Nat} (hs : s.Canon but) :
    (e.setAlcoveWord a x s).Canon but := by
  unfold Env.setAlcoveWord
  refine hs.modCoreWf (fun c hc => ?_)
  exact Mem.writeN_wf _ hc _ _

theorem State.Canon.flacq {i : Instr} {h : Hdr} {b : ABody} {consumer : Bool} (hs : s.Canon but) :
    OutcomeCanon but (flacq i h b consumer s) := by
  unfold Machine.flacq
  refine hs.issueWith (fun e2 h2 => ?_)
  split
  · exact h2
  · extract_lets +onlyGivenNames ctr go
    have h3 : ∀ s a, s.Canon but → (go s a).Canon but := by
      unfold go
      intro _ _ h3
      split
      extract_lets +onlyGivenNames w
      split
      · exact h3.setAlcoveWord.modGroup.modFrame.modCore.later
      · exact h3.hold
    split
    · exact h3 _ _ h2
    · split
      · exact h2.hold
      · exact h3 _ _ h2.setAlcoveWord.modGroup.modCrew

theorem State.Canon.release {e : Env} {off pos : Nat} {consumer : Bool} {user : Option Nat} (hs : s.Canon but) :
    (e.release off pos consumer user s).Canon but := by
  unfold Env.release
  split
  exact hs.modCrew.setAlcoveWord.modGroup.wake

theorem State.Canon.endReservations {e : Env} (hs : s.Canon but) :
    (e.endReservations s).Canon but := by
  unfold Env.endReservations
  extract_lets +onlyGivenNames s1
  have h : s1.Canon but := by
    unfold s1
    refine hs.foldl (fun t a2 h => ?_)
    split
    · exact h.release
    · exact h
  exact h.modGroup

theorem State.Canon.flrel {i : Instr} {h : Hdr} {b : ABody} {consumer : Bool} (hs : s.Canon but) :
    OutcomeCanon but (flrel i h b consumer s) := by
  unfold Machine.flrel
  refine hs.issueWith (fun e2 h2 => ?_)
  split
  · exact h2
  · extract_lets +onlyGivenNames pos
    split
    · exact h2
    · exact h2.withRelease (fun _ h3 => h3.release)

/-! ## The Banister (R318, R319) -/

theorem State.Canon.modBan {e : Env} {tag : Nat} {f : BanCore → BanCore} (hs : s.Canon but) :
    (e.modBan s tag f).Canon but :=
  hs.modCrew

theorem State.Canon.arrive {e : Env} {tag : Nat} {v : W32} {n : Nat} {edge held : Bool} (hs : s.Canon but) :
    (e.arrive tag v n edge held s).Canon but :=
  hs.modBan.push

theorem State.Canon.arrival {e : Env} {h : Hdr} {b : ABody} {k : Bool → State → Perf} (he : e.s.Canon but)
    (hk : ∀ a s, s.Canon but → (k a s).Canon but) :
    (e.arrival h b k).Canon but := by
  unfold Env.arrival
  extract_lets +onlyGivenNames v n edge
  split
  · exact he
  · split
    · exact he
    · exact he.hold
    · extract_lets +onlyGivenNames go
      have h2 : ∀ s, s.Canon but → (go s).Canon but := fun _ h2 => hk _ _ h2.arrive
      split
      · exact he.withRelease (fun _ h3 => h2 _ h3)
      · exact h2 _ he

theorem State.Canon.banPass {e : Env} {h : Hdr} {tag : Nat} (hs : s.Canon but) :
    (e.banPass h tag s).Canon but := by
  unfold Env.banPass
  split
  · exact hs.acquire
  · exact hs

theorem State.Canon.execBana {h : Hdr} {b : ABody} (hs : s.Canon but) :
    OutcomeCanon but (execBana h b s) := by
  unfold Machine.execBana
  refine hs.issueWith (fun e2 h2 => h2.arrival (fun a2 t h3 => ?_))
  split
  · exact h3
  · extract_lets +onlyGivenNames p
    split
    · exact h3.later
    · exact h3.owe.modBan

theorem State.Canon.execBanw {h : Hdr} {b : ABody} (hs : s.Canon but) :
    OutcomeCanon but (execBanw h b s) := by
  unfold Machine.execBanw
  refine hs.issueWith (fun e2 h2 => ?_)
  extract_lets +onlyGivenNames t
  split
  · exact h2.banPass
  · exact h2.hold

theorem State.Canon.execBan {h : Hdr} {b : ABody} (hs : s.Canon but) :
    OutcomeCanon but (execBan h b s) := by
  unfold Machine.execBan
  refine hs.issueWith (fun e2 h2 => ?_)
  split
  · exact h2.hold
  · split
    · exact h2.banPass
    · exact h2.hold
  · exact h2.arrival (fun _ _ h3 => h3.hold)

theorem State.Canon.token {cid h id : Nat} (hs : s.Canon but) :
    (s.token cid h id).Canon but :=
  hs.modGroup

theorem State.Canon.execBanisterPhaseRelease {cid tag : Nat} (hs : s.Canon but) :
    OutcomeCanon but (execBanisterPhaseRelease cid tag s) := by
  unfold Machine.execBanisterPhaseRelease
  split
  · exact hs
  · split
    · exact hs
    · exact (hs.setCtx.foldl (fun _ _ h => h.token)).modCtx.wakeAll.push

/-! ## Fetch lines (R218, R221) -/

theorem State.Canon.fetchFault {e : Env} {c : FaultCode} {va : W64} {u : Mask} (hs : s.Canon but) :
    (e.fetchFault c va u s).Canon but := by
  unfold Env.fetchFault
  split
  · exact hs.violate
  · split
    · exact hs.park
    · exact hs

theorem State.Canon.fetchLine {e : Env} {va : W64} {u : Mask} (hs : s.Canon but) :
    ExceptCanon but Prod.fst (e.fetchLine va u s) := by
  have hf (c : FaultCode) : (e.fetchFault c va u s).Canon but := hs.fetchFault
  unfold Env.fetchLine
  split
  · exact hs
  · split
    · exact hf .aperture
    · split
      · exact hs
      · split
        · exact hf _
        · split
          · exact hs.requestWalk.hold
          · exact hf _
          · exact hs.push.hold

theorem State.Canon.checkTransfer {e : Env} {pc : W64} {u : Mask} (hs : s.Canon but) :
    ExceptCanon but id (e.checkTransfer pc u s) := by
  unfold Env.checkTransfer
  split
  · exact hs
  · split
    · exact hs
    · split
      · rename_i hq
        exact hs.fetchLine.error hq
      · rename_i hq2
        split <;> exact hs.fetchLine.ok_fst hq2

theorem State.Canon.noteAll {core asid key : Nat} {c : FaultCode} (hs : s.Canon but) :
    (s.noteAll core asid key c).Canon but :=
  hs.mapSplits

theorem State.Canon.execPageWalk {core asid page : Nat} (hs : s.Canon but) :
    OutcomeCanon but (execPageWalk core asid page s) := by
  unfold Machine.execPageWalk
  split
  · exact hs
  · extract_lets +onlyGivenNames va ends
    have h : ∀ s a, s.Canon but → (ends s a).Canon but := by
      unfold ends
      intro _ _ h
      extract_lets +onlyGivenNames s1
      have h2 : s1.Canon but := h.modCore
      extract_lets +onlyGivenNames s2
      have h3 : s2.Canon but := by
        unfold s2
        split
        · exact h2
        · exact h2.noteAll
      exact h3.noteAll.wakeAccess
    split
    · rename_i hq
      have hp := hs.walk.of_pair hq
      split
      · exact h _ _ hp
      · exact hp.modCore.wakeAccess
    · rename_i hq2
      exact h _ _ (hs.walk.of_pair hq2)

theorem State.Canon.readCode {pa : Nat} (hs : s.Canon but) :
    (s.readCode pa).1.Canon but := by
  unfold State.readCode
  split
  rename_i hq
  exact hs.readMem.of_pair hq

theorem State.Canon.execInstructionLineFill {core asid : Nat} {va : W64} (hs : s.Canon but) :
    OutcomeCanon but (execInstructionLineFill core asid va s) := by
  unfold Machine.execInstructionLineFill
  split
  · exact hs.wakeAccess
  · split
    · exact hs.wakeAccess
    · split
      rename_i hq
      have hp := hs.readCode.of_pair hq
      split
      rename_i hq2
      split
      · refine State.Canon.wakeAccess (.modCore (.of_pair ?_ hq2))
        split
        · exact hp
        · exact hp.readCode
      · refine State.Canon.wakeAccess (.noteAll (.of_pair ?_ hq2))
        split
        · exact hp
        · exact hp.readCode

end

end Sys2Proof.Machine
end

section
/-! SUPPORT. The memories stay in canonical form: copies, reductions and tag waits. -/

-- One lemma at a time: the lemmas of this part at once take more threads than the memory has room for.
set_option Elab.async false

namespace Sys2Proof.Machine

section
variable {but : Option Nat} {s : State}

/-! ## Stop records of an engine (R393) -/

theorem State.Canon.engineFault {cid core src : Nat} {code : FaultCode} {subc fsubc : Byte} {seq : Nat} {fva : W64} (hs : s.Canon but) :
    (s.engineFault cid core src code subc fsubc seq fva).Canon but := by
  unfold State.engineFault
  split
  · exact hs
  · exact hs.setCtx.raiseHalt

/-! ## Engine access to memory: at the homes, never through an L1 (R52) -/

theorem State.Canon.place {a : Agent} {k : Kind} {acc : Accept} {va : W64} (hs : s.Canon but) :
    (a.place k acc va s).1.Canon but := by
  unfold Agent.place
  split
  · exact hs
  · split
    · exact hs
    · split
      · split <;> exact hs
      · exact hs.xlate

theorem State.Canon.readAt {a : Agent} {p : Place} {n : Nat} (hs : s.Canon but) :
    (a.readAt p n s).1.Canon but := by
  unfold Agent.readAt
  split
  · split
    rename_i hq
    exact hs.homeRead.of_pair hq
  · exact hs
  · exact hs
  · exact hs
  · exact hs.readWindow
  · exact hs
  · exact hs

theorem State.Canon.writeAt {a : Agent} {p : Place} {n x : Nat} (hs : s.Canon but) :
    (a.writeAt p n x s).Canon but := by
  unfold Agent.writeAt
  split
  · exact hs.homeWrite
  · exact hs.ofAtrium (Mem.writeN_wf _ hs.atriumWf _ _)
  · exact hs.ofHost (Mem.writeN_wf _ hs.hostWf _ _)
  · exact hs.ofPeer (Mem.writeN_wf _ hs.peerWf _ _)
  · split
    · exact hs.push
    · exact hs
  · refine hs.modCoreWf (fun c hc => ?_)
    exact Mem.writeN_wf _ hc _ _
  · exact hs

theorem State.Canon.agentReadSpan {a : Agent} {acc : Accept} {n : Nat} {b : W64} {m : Nat} (hs : s.Canon but) :
    (a.readSpan acc n b m s).1.Canon but := by
  induction n generalizing b m s with
  | zero =>
    unfold Agent.readSpan
    exact hs
  | succ n ih =>
    unfold Agent.readSpan
    split
    · exact hs
    · extract_lets +onlyGivenNames k
      split
      · rename_i hq
        exact hs.place.of_pair hq
      · rename_i hq2
        exact hs.place.of_pair hq2
      · rename_i hq3
        have hp := hs.place.of_pair hq3
        split
        rename_i hq4
        have hp2 := hp.readAt.of_pair hq4
        split
        · rename_i hq5
          exact (ih hp2).of_pair hq5
        · rename_i hq6
          exact (ih hp2).of_pair hq6

theorem State.Canon.read {a : Agent} {acc : Accept} {va : W64} {n : Nat} (hs : s.Canon but) :
    (a.read acc va n s).1.Canon but :=
  hs.agentReadSpan

/-! ## Issue (R139, R312) -/

theorem State.Canon.followOn {e : Env} (hs : s.Canon but) :
    ExceptCanon but Prod.fst (e.followOn s) := by
  unfold Env.followOn
  extract_lets +onlyGivenNames pc
  split
  · rename_i hq
    exact hs.fetchLine.error hq
  · rename_i hq2
    have hp := hs.fetchLine.ok_fst hq2
    split
    · split <;> exact hp
    · exact hp

theorem State.Canon.enqueue {e : Env} {b : ABody} {follow : Option Instr} {bphase : Nat} {r : CopyReq} (hs : s.Canon but) :
    (e.enqueue b follow bphase s r).Canon but := by
  unfold Env.enqueue
  extract_lets +onlyGivenNames seq s1
  have h : s1.Canon but := hs.modCore
  extract_lets +onlyGivenNames s2
  have h2 : s2.Canon but := h.modCrew
  extract_lets +onlyGivenNames s3
  have h3 : s3.Canon but := by
    unfold s3
    split
    · exact h2.modGroup
    · exact h2
  exact h3.push

theorem State.Canon.copyIssue {i : Instr} {h : Hdr} {b : ABody} {tags : Env → Bool} {reqs : Env → List CopyReq}
    {check : Env → Option FaultCode}
    (hs : s.Canon but) : OutcomeCanon but (Machine.copyIssue i h b tags reqs check s) := by
  unfold Machine.copyIssue
  refine hs.issueWith fun e he => ?_
  extract_lets +onlyGivenNames rs full go
  have hgo (t : State) (f : Option Instr) (ht : t.Canon but) : (go t f).Canon but := by
    have hbar : ExceptCanon but Prod.fst
        (if b.be then (e.barPlace (e.u64 b.ba) t).map fun (s, p) => (s, some p) else .ok (t, none)) := by
      split
      · exact ht.barPlace.map fun _ h => h
      · exact ht
    unfold go
    split
    · exact ht
    · split
      · exact ht
      · split
        · rename_i hq
          exact hbar.error hq
        · rename_i hq
          split
          · exact (hbar.ok_fst hq).hold
          · exact (hbar.ok_fst hq).withRelease fun _ h => h.foldl fun _ _ h => h.enqueue
  split
  · split
    · rename_i hq
      exact he.followOn.error hq
    · rename_i hq
      exact hgo _ _ (he.followOn.ok_fst hq)
  · exact hgo _ _ he

/-! ## Beats (R140) -/

theorem State.Canon.modCopy {core seq : Nat} {f : CopyRec → CopyRec} (hs : s.Canon but) :
    (s.modCopy core seq f).Canon but :=
  hs.modCore

theorem State.Canon.endCopy {core seq : Nat} {fault : Option (Byte × Byte)} (hs : s.Canon but) :
    (s.endCopy core seq fault).Canon but :=
  hs.modCopy.push

theorem State.Canon.agentBarPlace {a : Agent} {va : W64} (hs : s.Canon but) :
    (a.barPlace va s).1.Canon but := by
  unfold Agent.barPlace
  split
  · exact hs
  · split
    · rename_i hq
      exact hs.place.of_pair hq
    · rename_i hq2
      exact hs.place.of_pair hq2
    · rename_i hq3
      exact hs.place.of_pair hq3

theorem State.Canon.copyFatal {a : Agent} {r : CopyRec} {cause fsubc : Byte} {va : W64} (hs : s.Canon but) :
    (s.copyFatal a r cause fsubc va).Canon but := by
  unfold State.copyFatal
  extract_lets +onlyGivenNames s1
  have h : s1.Canon but := by
    unfold s1
    split
    · exact hs
    · split
      · rename_i hq
        exact (hs.agentBarPlace.of_pair hq).setBar
      · rename_i hq2
        exact hs.agentBarPlace.of_pair hq2
  exact h.endCopy.engineFault

theorem State.Canon.copyFault {a : Agent} {r : CopyRec} {f : EngFault} (hs : s.Canon but) :
    (s.copyFault a r f).Canon but := by
  unfold State.copyFault
  split
  · exact hs.modCore.engineFault
  · split
    · extract_lets +onlyGivenNames s1
      have h : s1.Canon but := by
        unfold s1
        split
        · exact hs
        · exact hs.modCore
      exact h.postFault.modCopy
    · exact hs.copyFatal

theorem State.Canon.recheck {a : Agent} {r : CopyRec} {tags : Nat} (hs : s.Canon but) :
    (a.recheck r tags s).1.Canon but := by
  unfold Agent.recheck
  extract_lets +onlyGivenNames four inAlloc check found
  split
  · exact hs
  · split
    · exact hs
    · exact hs
    · split
      · rename_i hq
        exact hs.agentBarPlace.of_pair hq
      · rename_i hq2
        exact hs.agentBarPlace.of_pair hq2

theorem State.Canon.readElems {a : Agent} {t : Lattice} {c : Vector W32 6} {l : List (Nat × Nat)} (hs : s.Canon but) :
    (a.readElems t c l s).1.Canon but := by
  induction l generalizing s with
  | nil =>
    unfold Agent.readElems
    exact hs
  | cons b l ih =>
    unfold Agent.readElems
    extract_lets +onlyGivenNames go
    have h : ∀ s a a2, s.Canon but → (go s a a2).1.Canon but := by
      unfold go
      intro _ _ _ h
      split
      · rename_i hq
        exact (ih h).of_pair hq
      · rename_i hq2
        exact (ih h).of_pair hq2
    split
    · exact h _ _ _ hs
    · split
      · rename_i hq3
        exact h _ _ _ (hs.read.of_pair hq3)
      · rename_i hq4
        exact hs.read.of_pair hq4

theorem State.Canon.beat {a : Agent} {r : CopyRec} (hs : s.Canon but) :
    (a.beat r s).1.Canon but := by
  unfold Agent.beat
  extract_lets +onlyGivenNames upto d
  split
  · extract_lets +onlyGivenNames n
    split
    · rename_i hq
      exact hs.read.of_pair hq
    · rename_i hq2
      exact hs.read.of_pair hq2
  · extract_lets +onlyGivenNames n
    split
    · rename_i hq3
      exact hs.read.of_pair hq3
    · rename_i hq4
      exact hs.read.of_pair hq4
  · exact hs
  · extract_lets +onlyGivenNames v
    split
    · rename_i hq5
      exact hs.read.of_pair hq5
    · rename_i hq6
      exact hs.read.of_pair hq6
  · extract_lets +onlyGivenNames t row q k
    split
    · extract_lets +onlyGivenNames inside va
      split
      · exact hs
      · extract_lets +onlyGivenNames n
        split
        · rename_i hq7
          exact hs.read.of_pair hq7
        · rename_i hq8
          exact hs.read.of_pair hq8
    · extract_lets +onlyGivenNames al n at?
      split
      · rename_i hq9
        exact hs.readElems.of_pair hq9
      · rename_i hq10
        exact hs.readElems.of_pair hq10

theorem State.Canon.creditTo {a : Agent} {r : CopyRec} {p : BarPlace} {n : Nat} (hs : s.Canon but) :
    (s.creditTo a r p n).Canon but := by
  unfold State.creditTo
  extract_lets +onlyGivenNames s1
  have h : s1.Canon but := by
    unfold s1
    split
    · exact hs.orSig
    · exact hs
  split
  extract_lets +onlyGivenNames s2
  have h2 : s2.Canon but := h.setBar.modCore
  extract_lets +onlyGivenNames s3
  have h3 : s3.Canon but := by
    unfold s3
    split
    · exact h2.modCopy
    · exact h2
  split
  · exact h3.engineFault
  · exact h3

theorem State.Canon.beatDone {a : Agent} {r : CopyRec} {n : Nat} {filled : Bool} {σ : SigBits} {bar : Option BarPlace} (hs : s.Canon but) :
    (s.beatDone a r n filled σ bar).Canon but := by
  unfold State.beatDone
  extract_lets +onlyGivenNames last s1
  have h : s1.Canon but := hs.modCopy
  extract_lets +onlyGivenNames s2
  have h2 : s2.Canon but := by
    unfold s2
    split
    · split
      · exact h
      · exact h.creditTo
    · exact h
  split
  · split
    · exact h2.push
    · exact h2.endCopy
  · exact h2.push

theorem State.Canon.beatMade {a : Agent} {r : CopyRec} {n : Nat} {filled : Bool} {σ : SigBits} {bar : Option BarPlace} (hs : s.Canon but) :
    (s.beatMade a r n filled σ bar).Canon but := by
  unfold State.beatMade
  split
  · split
    · exact hs.beatDone
    · exact hs.modCopy.sendSig
  · exact hs.beatDone

theorem State.Canon.sendReduction {a : Agent} {r : CopyRec} {b : Beat} {va : W64} {pa : Nat} {cmp tier : Bool} {bar : Option BarPlace}
    (hs : s.Canon but) :
    (s.sendReduction a r b va pa cmp tier bar).Canon but := by
  unfold State.sendReduction
  split
  split
  · exact hs.meet.homeReduce.beatDone
  · exact hs.modCopy.send.push

theorem State.Canon.sentBeat {core seq : Nat} {performed : Bool} (hs : s.Canon but) :
    (s.sentBeat core seq performed).Canon but := by
  unfold State.sentBeat
  split
  · exact hs
  · split
    · split
      · split
        · exact hs
        · split
          · exact hs.push
          · exact hs.beatDone
      · split
        · exact hs.beatMade
        · exact hs.modCopy.push
    · exact hs

theorem State.Canon.performBeat {a : Agent} {r : CopyRec} {b : Beat} {bar : Option BarPlace} (hs : s.Canon but) :
    (s.performBeat a r b bar).Canon but := by
  unfold State.performBeat
  extract_lets +onlyGivenNames acc
  split
  · exact hs.beatMade
  · split
    · rename_i hq
      exact (hs.place.of_pair hq).copyFault
    · rename_i hq2
      exact hs.place.of_pair hq2
    · rename_i hq3
      have hp := hs.place.of_pair hq3
      split
      · split
        · exact hp.sendReduction
        · exact hp.copyFatal
      · exact hp.writeAt.beatMade

theorem State.Canon.startLattice {core : Nat} {a : Agent} {r : CopyRec} (hs : s.Canon but) :
    (s.startLattice core a r).Canon but := by
  unfold State.startLattice
  extract_lets +onlyGivenNames m al
  split
  · rename_i hq
    exact (hs.read.of_pair hq).copyFault
  · rename_i hq2
    have hp := hs.read.of_pair hq2
    extract_lets +onlyGivenNames bytes t
    split
    · exact hp.modCopy.push
    · exact hp.copyFatal

theorem State.Canon.execCopyLatticeStart {core seq : Nat} (hs : s.Canon but) :
    OutcomeCanon but (execCopyLatticeStart core seq s) := by
  unfold Machine.execCopyLatticeStart
  split
  · exact hs
  · split
    · split
      · exact hs.startLattice
      · exact hs
    · exact hs

theorem State.Canon.execCopyBeat {core seq : Nat} (hs : s.Canon but) :
    OutcomeCanon but (execCopyBeat core seq s) := by
  unfold Machine.execCopyBeat
  split
  · exact hs
  · split
    · split
      · exact hs
      · split
        · rename_i hq
          exact (hs.beat.of_pair hq).copyFault
        · rename_i hq2
          have hp := hs.beat.of_pair hq2
          split
          · exact hp.performBeat
          · split
            · rename_i hq3
              exact (hp.agentBarPlace.of_pair hq3).copyFault
            · rename_i hq4
              exact (hp.agentBarPlace.of_pair hq4).performBeat
    · exact hs

/-! ## Completion (R154, R115) -/

theorem State.Canon.writeStatus {r : CopyRec} {σ : SigBits} (hs : s.Canon but) :
    (s.writeStatus r σ).Canon but :=
  hs.modGroup

theorem State.Canon.finishCopy {core : Nat} {r : CopyRec} (hs : s.Canon but) :
    (s.finishCopy core r).Canon but :=
  hs.modCore.modCrew.writeStatus.modCrew.wake.pushAll

theorem State.Canon.lastCredit {a : Agent} {r : CopyRec} {p : BarPlace} (hs : s.Canon but) :
    (s.lastCredit a r p).Canon but :=
  hs.creditTo.finishCopy

theorem State.Canon.execCopyComplete {core seq : Nat} (hs : s.Canon but) :
    OutcomeCanon but (execCopyComplete core seq s) := by
  unfold Machine.execCopyComplete
  split
  · exact hs
  · split
    · split
      · split
        · rename_i hq
          exact (hs.agentBarPlace.of_pair hq).lastCredit
        · rename_i hq2
          have hp := hs.agentBarPlace.of_pair hq2
          split
          · exact hp.modCopy.sendSig
          · split
            · exact hp
            · exact hp.lastCredit
        · rename_i hq3
          have hp2 := hs.agentBarPlace.of_pair hq3
          split
          · exact hp2.copyFault
          · exact hp2.copyFatal
      · exact hs.finishCopy
    · exact hs

/-! ## Tag waits (R153, R315) -/

theorem State.Canon.acquireTags {e : Env} {l : List Nat} (hs : s.Canon but) :
    (e.acquireTags l s).Canon but :=
  (hs.foldl (fun _ _ h => h.acquire)).modCore

theorem State.Canon.execTwall {h : Hdr} {b : ABody} (hs : s.Canon but) :
    OutcomeCanon but (execTwall h b s) := by
  unfold Machine.execTwall
  refine hs.issueWith (fun e2 h2 => ?_)
  extract_lets +onlyGivenNames m
  split
  · exact h2.acquireTags
  · exact h2.hold

theorem State.Canon.execTwany {h : Hdr} {b : ABody} (hs : s.Canon but) :
    OutcomeCanon but (execTwany h b s) := by
  unfold Machine.execTwany
  refine hs.issueWith (fun e2 h2 => ?_)
  extract_lets +onlyGivenNames m r
  split
  · exact h2.acquireTags.later
  · exact h2.hold

theorem State.Canon.execTfirst {h : Hdr} {b : ABody} (hs : s.Canon but) :
    OutcomeCanon but (execTfirst h b s) := by
  unfold Machine.execTfirst
  refine hs.issueWith (fun e2 h2 => ?_)
  extract_lets +onlyGivenNames answer
  have h3 : ∀ a s, s.Canon but → (answer a s).Canon but := fun _ _ h3 => h3.later
  split
  · split
    · exact h3 _ _ h2.acquireTags
    · exact h2.hold
  · split
    · exact h3 _ _ h2
    · exact h2.hold

theorem State.Canon.execTcnt {h : Hdr} {b : ABody} (hs : s.Canon but) :
    OutcomeCanon but (execTcnt h b s) :=
  hs.issueWith (fun _ h2 => h2.later)

end

end Sys2Proof.Machine
end

section
/-! SUPPORT. The memories stay in canonical form: the array units. -/

-- One lemma at a time: the lemmas of this part at once take more threads than the memory has room for.
set_option Elab.async false

namespace Sys2Proof.Machine

section
variable {but : Option Nat} {s : State}

/-! ## Memory of a unit -/

theorem State.Canon.thenDo {α β : Type} {r : State × Except ArrErr α} {f : State → α → State × Except ArrErr β} (hr : r.1.Canon but)
    (hf : ∀ s a, s.Canon but → (f s a).1.Canon but) :
    (thenDo r f).1.Canon but := by
  unfold Machine.thenDo
  split
  · exact hr
  · exact hf _ _ hr

theorem State.Canon.get {a : Agent} {acc : Accept} {va : W64} {n : Nat} (hs : s.Canon but) :
    (a.get acc va n s).1.Canon but := by
  unfold Agent.get
  split
  · rename_i hq
    exact hs.read.of_pair hq
  · rename_i hq2
    exact hs.read.of_pair hq2

theorem State.Canon.spanPlaces {a : Agent} {acc : Accept} {n : Nat} {b : W64} {m : Nat} (hs : s.Canon but) :
    (a.spanPlaces acc n b m s).1.Canon but := by
  induction n generalizing b m s with
  | zero =>
    unfold Agent.spanPlaces
    exact hs
  | succ n ih =>
    unfold Agent.spanPlaces
    split
    · exact hs
    · extract_lets +onlyGivenNames k
      split
      · rename_i hq
        exact hs.place.of_pair hq
      · rename_i hq2
        exact hs.place.of_pair hq2
      · rename_i hq3
        exact (ih (hs.place.of_pair hq3)).thenDo (fun _ _ h => h)

theorem State.Canon.put {a : Agent} {acc : Accept} {va : W64} {n x : Nat} (hs : s.Canon but) :
    (a.put acc va n x s).1.Canon but :=
  hs.spanPlaces.thenDo (fun _ _ h => h.foldl_fst (fun _ _ h2 => h2.writeAt))

theorem State.Canon.agentGather {a : Agent} {acc : Accept} {e : Nat} {l : List (Option W64 × Nat)} (hs : s.Canon but) :
    (a.gather acc e l s).1.Canon but := by
  induction l generalizing s with
  | nil => exact hs
  | cons b l ih =>
    obtain ⟨va, d⟩ := b
    cases va with
    | none => exact (ih hs).thenDo fun _ _ h => h
    | some va => exact hs.get.thenDo fun t _ ht => (ih ht).thenDo fun _ _ h => h

theorem State.Canon.setCrew {a : Agent} {crew : Nat} {f : Crew → Crew} (hs : s.Canon but) :
    (s.setCrew a crew f).Canon but :=
  hs.modCrew

/-! ## Loads of tiles and accumulators -/

theorem State.Canon.loadTile {a : Agent} {b : XBody} {x : XArg} {d : List LoadDesc} (hs : s.Canon but) :
    (a.loadTile b x d s).1.Canon but :=
  hs.agentGather.thenDo (fun _ _ h => h)

theorem State.Canon.loadScales {a : Agent} {h : Hdr} {x : XArg} {t : TileData} (hs : s.Canon but) :
    (a.loadScales h x t s).1.Canon but := by
  unfold Agent.loadScales
  split
  exact hs.agentGather.thenDo (fun _ _ h2 => h2)

theorem State.Canon.replay {a : Agent} {crew : Crew} {l : List LoadDesc} {o : Option TileData} (hs : s.Canon but) :
    (a.replay crew l o s).1.Canon but := by
  induction l generalizing o s with
  | nil =>
    unfold Agent.replay
    exact hs
  | cons b l ih =>
    unfold Agent.replay
    extract_lets +onlyGivenNames x
    split
    · exact hs.loadTile.thenDo (fun _ _ h => ih h)
    · split
      exact ih hs
    · exact hs.loadScales.thenDo (fun _ _ h => ih h)
    · exact ih hs

/-! ## Products (R336) -/

theorem State.Canon.streamRow {a : Agent} {b : XBody} {x : XArg} {kt i : Nat} {mem : Bool} (hs : s.Canon but) :
    (a.streamRow b x kt i mem s).1.Canon but := by
  unfold Agent.streamRow
  extract_lets +onlyGivenNames e p acc
  split
  · exact hs.get.thenDo (fun _ _ h => h)
  · exact hs.agentGather
  · split
    · exact hs
    · exact hs.agentGather

theorem State.Canon.streamUnit {a : Agent} {crew : Nat} {b : XBody} {x : XArg} {mem : Bool} {i : Nat} (hs : s.Canon but) :
    (a.streamUnit crew b x mem i s).1.Canon but := by
  unfold Agent.streamUnit
  split
  · exact hs
  · exact hs.streamRow.thenDo (fun _ _ h => h.setCrew)

theorem State.Canon.integerRow {a : Agent} {crew : Nat} {b : XBody} {t : TileData} {i : Nat} {row : List Int} (hs : s.Canon but) :
    (s.integerRow a crew b t i row).Canon but :=
  hs.setCrew

theorem State.Canon.edgeUnit {a : Agent} {crew : Nat} {h : Hdr} {b : XBody} {x : XArg} {p : Nat} (hs : s.Canon but) :
    (a.edgeUnit crew h b x p s).1.Canon but := by
  unfold Agent.edgeUnit
  split
  · exact hs
  · exact hs.get.thenDo (fun _ _ h2 => h2.setCrew)

/-! ## Outputs (R332, R333, R338, R344) -/

theorem State.Canon.scaleOf {a : Agent} {t : PostStep} {n : Nat} (hs : s.Canon but) :
    (a.scaleOf t n s).1.Canon but := by
  unfold Agent.scaleOf
  split
  · exact hs
  · extract_lets +onlyGivenNames o
    split <;> exact hs

theorem State.Canon.postOne {a : Agent} {acc : Acc} {i n : Nat} {t : PostStep} {x : Fv} (hs : s.Canon but) :
    (a.postOne acc i n t x s).1.Canon but := by
  unfold Agent.postOne
  split
  · exact hs.scaleOf.thenDo (fun _ _ h => h)
  · exact hs.scaleOf.thenDo (fun _ _ h => h)
  · exact hs
  · exact hs
  · extract_lets +onlyGivenNames p k
    split
    rename_i hq
    exact hs.draw.of_snd hq
  · exact hs
  · exact hs

theorem State.Canon.postAll {a : Agent} {acc : Acc} {i n : Nat} {l : List PostStep} {b : Fv} (hs : s.Canon but) :
    (a.postAll acc i n l b s).1.Canon but := by
  induction l generalizing b s with
  | nil =>
    unfold Agent.postAll
    exact hs
  | cons d l ih =>
    unfold Agent.postAll
    exact hs.postOne.thenDo (fun _ _ h => ih h)

theorem State.Canon.outValue {acc : Acc} {x : Fv} (hs : s.Canon but) :
    (s.outValue acc x).1.Canon but := by
  unfold State.outValue
  extract_lets +onlyGivenNames ps
  split
  · split
    rename_i hq
    exact hs.draw.of_snd hq
  · split
    · split
      · exact hs
      · split
        rename_i hq2
        exact hs.draw.of_snd hq2
    · exact hs

theorem State.Canon.postElement {a : Agent} {acc : Acc} {i n : Nat} (hs : s.Canon but) :
    (a.postElement acc i n s).1.Canon but := by
  unfold Agent.postElement
  extract_lets +onlyGivenNames x0
  refine hs.postAll.thenDo (fun t a2 h => ?_)
  split
  rename_i hq
  exact h.outValue.of_pair hq

theorem State.Canon.postElements {a : Agent} {acc : Acc} {i e : Nat} {l : List Nat} (hs : s.Canon but) :
    (a.postElements acc i e l s).1.Canon but := by
  induction l generalizing s with
  | nil =>
    unfold Agent.postElements
    exact hs
  | cons b l ih =>
    unfold Agent.postElements
    exact hs.postElement.thenDo (fun _ _ h => (ih h).thenDo (fun _ _ h2 => h2))

theorem State.Canon.postUnit {a : Agent} {b : XBody} {x : XArg} {u : Nat} (hs : s.Canon but) :
    (a.postUnit b x u s).1.Canon but := by
  unfold Agent.postUnit
  extract_lets +onlyGivenNames acc
  split
  · exact hs
  · extract_lets +onlyGivenNames ns
    split
    · split
      · exact hs
      · exact hs.put.thenDo (fun _ _ h => h)
    · exact hs.postElements.thenDo (fun _ _ h => h.put.thenDo (fun _ _ h2 => h2))

/-! ## The Resolver (R345 to R347, R416) -/

theorem State.Canon.setSlot {key : Nat} {l : List (Nat × Entry96)} (hs : s.Canon but) :
    (s.setSlot key l).Canon but :=
  hs.same

theorem State.Canon.resolveUnit {a : Agent} {b : XBody} {x : XArg} {le : Bool} {p : Nat} (hs : s.Canon but) :
    (a.resolveUnit b x le p s).1.Canon but := by
  unfold Agent.resolveUnit
  extract_lets +onlyGivenNames acc
  split
  · refine hs.get.thenDo (fun t a2 h => ?_)
    extract_lets +onlyGivenNames pr key
    split
    exact h.setSlot
  · exact hs

theorem State.Canon.slotOut {a : Agent} {x : XArg} {u : Nat} (hs : s.Canon but) :
    (a.slotOut x u s).1.Canon but :=
  hs.put.thenDo (fun _ _ h => h)

theorem State.Canon.slotIn {a : Agent} {x : XArg} {u : Nat} (hs : s.Canon but) :
    (a.slotIn x u s).1.Canon but :=
  hs.get.thenDo (fun _ _ h => h.setSlot)

theorem State.Canon.clearSlot {core : Nat} {x : XArg} (hs : s.Canon but) :
    (s.clearSlot core x).Canon but :=
  hs.setSlot

/-! ## The Binner (R407 to R414) -/

theorem State.Canon.listPlace {a : Agent} {va : W64} (hs : s.Canon but) :
    (a.listPlace va s).1.Canon but := by
  unfold Agent.listPlace
  split
  · rename_i hq
    exact hs.place.of_pair hq
  · rename_i hq2
    exact hs.place.of_pair hq2
  · rename_i hq3
    exact hs.place.of_pair hq3

theorem State.Canon.setAtr {off n x : Nat} (hs : s.Canon but) :
    (s.setAtr off n x).Canon but :=
  hs.ofAtrium (Mem.writeN_wf _ hs.atriumWf _ _)

theorem State.Canon.appendTile {a : Agent} {x : XArg} {hoff : Nat} {t : Nat × Nat} {b : Binning} (hs : s.Canon but) :
    (a.appendTile x hoff t b s).1.Canon but := by
  unfold Agent.appendTile
  extract_lets +onlyGivenNames h
  refine hs.listPlace.thenDo (fun t2 a2 h2 => ?_)
  extract_lets +onlyGivenNames now w tail fill fits r took install
  have h3 : ∀ a a1 s, s.Canon but → (install a a1 s).1.Canon but := by
    unfold install
    intro _ _ _ h3
    exact h3.put.thenDo (fun _ _ h4 => h4)
  split
  · exact h2
  · exact h3 _ _ _ h2
  · extract_lets +onlyGivenNames c s1
    have h4 : s1.Canon but := h2.setAtr
    extract_lets +onlyGivenNames b1
    split
    · exact h4
    · exact h3 _ _ _ h4
  · split
    · exact h2
    · exact h2.setAtr.put.thenDo (fun _ _ h4 => h4)
  · split
    · exact h2
    · extract_lets +onlyGivenNames c n b1 s1
      have h4 : s1.Canon but := h2.setAtr
      split
      · exact h4.setAtr
      · exact h4.put.thenDo (fun _ _ h5 => h5)

theorem State.Canon.undo {a : Agent} {hoff : Nat} {d : Appended} (hs : s.Canon but) :
    (a.undo hoff d s).Canon but := by
  unfold Agent.undo
  split
  · exact hs.setAtr
  · split
    · rename_i hq
      exact (hs.put.of_pair hq).setAtr
    · exact hs

theorem State.Canon.rollback {a : Agent} {x : XArg} {b : Binning} (hs : s.Canon but) :
    (a.rollback x b s).Canon but := by
  unfold Agent.rollback
  split
  · rename_i hq
    exact hs.listPlace.of_pair hq
  · rename_i hq2
    extract_lets +onlyGivenNames whole s1
    have h : s1.Canon but := (hs.listPlace.of_pair hq2).foldl (fun _ _ h => h.undo)
    split
    · split
      · exact h.setAtr
      · exact h
    · exact h

theorem State.Canon.binNext {a : Agent} {x : XArg} {hoff : Nat} {b : Binning} (hs : s.Canon but) :
    (a.binNext x hoff b s).1.Canon but := by
  unfold Agent.binNext
  split
  · exact hs
  · split
    · exact hs
    · rename_i hq
      exact (hs.appendTile.of_pair hq).setAtr.rollback
    · rename_i hq2
      exact hs.appendTile.of_pair hq2
    · rename_i hq3
      exact hs.appendTile.of_pair hq3

theorem State.Canon.binTile {a : Agent} {x : XArg} {k : Nat} {under : Option Binning} (hs : s.Canon but) :
    (a.binTile x k under s).1.Canon but := by
  unfold Agent.binTile
  split
  · rename_i hq
    exact hs.listPlace.of_pair hq
  · rename_i hq2
    have hp := hs.listPlace.of_pair hq2
    split
    · exact hp.binNext
    · extract_lets +onlyGivenNames h
      split
      · exact hp
      · split
        · exact hp
        · split
          · rename_i hq3
            exact hp.get.of_pair hq3
          · rename_i hq4
            have hp2 := hp.get.of_pair hq4
            split
            · exact hp2.setAtr
            · split
              · exact hp2
              · exact hp2.binNext

/-! ## The per-tile interlock (R322) -/

theorem State.Canon.interlock {e : Env} {k : Crew} {t : List Nat × List Nat} {go : State → Perf} (he : e.s.Canon but)
    (hgo : ∀ s, s.Canon but → (go s).Canon but) :
    (e.interlock k t go).Canon but := by
  unfold Env.interlock
  extract_lets +onlyGivenNames σ
  split
  · exact he.hold
  · split
    · exact he.acquire.modSplit
    · exact hgo _ he

theorem State.Canon.badTrap {c : FaultCode} {va : W64} (hs : s.Canon but) :
    (badTrap c va s).Canon but :=
  hs

theorem State.Canon.queueOp {e : Env} {i : Instr} {x : XArg} {res : Option Nat} (hs : s.Canon but) :
    (e.queueOp i x res s).Canon but := by
  unfold Env.queueOp
  extract_lets +onlyGivenNames seq op s1
  have h : s1.Canon but := hs.modCore
  extract_lets +onlyGivenNames s2
  have h2 : s2.Canon but := by
    unfold s2
    split
    · exact h.modGroup
    · exact h
  exact h2.push

theorem State.Canon.arrayIssue {i : Instr} {h : Hdr} {b : XBody} {res : Option Nat} (hs : s.Canon but) :
    OutcomeCanon but (arrayIssue i h b res s) := by
  unfold Machine.arrayIssue
  refine hs.issueWith (fun e2 h2 => ?_)
  split
  · exact h2
  · extract_lets +onlyGivenNames x
    split
    · exact h2.badTrap
    · refine h2.interlock (fun t h3 => ?_)
      split
      · exact h3.badTrap
      · exact h3.withRelease (fun _ h4 => h4.queueOp)

/-! ## Queue book-keeping -/

theorem State.Canon.modOp {core seq : Nat} {f : ArrOp → ArrOp} (hs : s.Canon but) :
    (s.modOp core seq f).Canon but :=
  hs.modCore

theorem State.Canon.rearm {core : Nat} (hs : s.Canon but) :
    (s.rearm core).Canon but :=
  hs.pushAll.wake

theorem State.Canon.binnersGo {core : Nat} (hs : s.Canon but) :
    (s.binnersGo core).Canon but :=
  hs.pushAll

theorem State.Canon.retireOp {core : Nat} {o : ArrOp} {result : Nat} (hs : s.Canon but) :
    (s.retireOp core o result).Canon but := by
  unfold State.retireOp
  extract_lets +onlyGivenNames s1
  have h : s1.Canon but := by
    unfold s1
    split
    · exact hs.binnersGo
    · exact hs
  extract_lets +onlyGivenNames accs s2
  have h2 : s2.Canon but := h.modCore
  extract_lets +onlyGivenNames s3
  have h3 : s3.Canon but := h2.mapSplits
  extract_lets +onlyGivenNames s4
  have h4 : s4.Canon but := by
    unfold s4
    split
    · exact h3.modGroup
    · exact h3
  extract_lets +onlyGivenNames s5
  have h5 : s5.Canon but := by
    unfold s5
    split
    · exact h4.endCopy
    · exact h4
  exact h5.modCrew.rearm.pushAll

theorem State.Canon.failOp {core : Nat} {o : ArrOp} {cause : Byte} {va : W64} (hs : s.Canon but) :
    (s.failOp core o cause va).Canon but := by
  unfold State.failOp
  split
  rename_i hq
  extract_lets +onlyGivenNames accs s1
  have h : s1.Canon but := (hs.draw.of_snd hq).modCrew
  extract_lets +onlyGivenNames count
  split
  · extract_lets +onlyGivenNames s2
    have h2 : s2.Canon but := h.modCore.rearm
    split
    · exact h2.copyFatal
    · exact h2
  · exact h.retireOp.engineFault

theorem State.Canon.unbin {core : Nat} {o : ArrOp} (hs : s.Canon but) :
    (s.unbin core o).Canon but := by
  unfold State.unbin
  split
  · exact hs.rollback.modOp.binnersGo
  · exact hs

theorem State.Canon.violateUnit {cid core src seq : Nat} {va : W64} (hs : s.Canon but) :
    (s.violateUnit cid core src seq va).Canon but :=
  (hs.foldl (fun _ _ h => (h.foldl (fun _ _ h2 => h2.unbin)).modCore)).engineFault

theorem State.Canon.violateOp {core : Nat} {o : ArrOp} {va : W64} (hs : s.Canon but) :
    (s.violateOp core o va).Canon but :=
  hs.violateUnit

theorem State.Canon.unitFault {core : Nat} {o : ArrOp} {e : ArrErr} (hs : s.Canon but) :
    (s.unitFault core o e).Canon but := by
  unfold State.unitFault
  split
  · exact hs.unbin.failOp
  · split
    · exact hs.violateOp
    · split
      · split
        · exact hs
        · extract_lets +onlyGivenNames s1
          have h : s1.Canon but := by
            unfold s1
            split
            · exact hs
            · exact hs.modCore
          exact h.postFault.modOp
      · exact hs.unbin.failOp

/-! ## Units -/

theorem State.Canon.crewUnit {a : Agent} {crew : Nat} {f : Crew → Crew} (hs : s.Canon but) :
    (crewUnit s a crew f).1.Canon but :=
  hs.setCrew

theorem State.Canon.agentUnit {a : Agent} {crew : Nat} {i : Instr} {x : XArg} {u : Nat} (hs : s.Canon but) :
    (a.unit crew i x u s).1.Canon but := by
  unfold Agent.unit
  extract_lets +onlyGivenNames desc
  split
  · exact hs.loadTile.thenDo (fun _ _ h => h.crewUnit)
  · split
    exact hs.crewUnit
  · split
    · exact hs
    · exact hs.loadScales.thenDo (fun _ _ h => h.crewUnit)
  · exact hs.modCore.crewUnit
  · exact hs.streamUnit
  · exact hs.streamUnit
  · exact hs.crewUnit
  · refine hs.get.thenDo (fun t a2 h => ?_)
    split
    · exact h
    · exact h.crewUnit
  · split
    exact hs.put.thenDo (fun _ _ h => h)
  · exact hs.postUnit
  · exact hs.crewUnit
  · exact hs.crewUnit
  · exact hs.get.thenDo (fun _ _ h => h.crewUnit)
  · refine hs.get.thenDo (fun t a2 h => ?_)
    extract_lets +onlyGivenNames p
    split
    · exact h.crewUnit
    · exact h
  · exact hs.edgeUnit
  · split
    · exact hs
    · exact hs.get.thenDo (fun _ _ h => h.integerRow)
  · split
    · exact hs
    · exact hs.get.thenDo (fun _ _ h => h.get.thenDo (fun _ _ h2 => h2.integerRow))
  · exact hs.resolveUnit
  · exact hs.resolveUnit
  · exact hs.slotOut
  · exact hs.slotIn
  · exact hs.clearSlot
  · exact hs

theorem State.Canon.runUnit {core : Nat} {o : ArrOp} (hs : s.Canon but) :
    (s.runUnit core o).Canon but := by
  unfold State.runUnit
  split
  · extract_lets +onlyGivenNames x
    split
    · exact hs
    · split
      · rename_i hq
        exact (hs.agentUnit.of_pair hq).unitFault
      · rename_i hq2
        exact (hs.agentUnit.of_pair hq2).modOp
  · exact hs

/-! ## Residency (R3, R321) -/

theorem State.Canon.evictAcc {core : Nat} {x : Nat × Nat × Nat} (hs : s.Canon but) :
    (s.evictAcc core x).Canon but := by
  unfold State.evictAcc
  extract_lets +onlyGivenNames s1
  have h : s1.Canon but := hs.modCore
  split
  · exact h.setCtx.modCrew
  · exact h

theorem State.Canon.dropTile {core : Nat} {x : Nat × Nat × Nat} (hs : s.Canon but) :
    (s.dropTile core x).Canon but :=
  hs.modCore.modCrew

theorem State.Canon.bringAcc {core cid crew n : Nat} (hs : s.Canon but) :
    OptionCanon but id (State.bringAcc core cid crew s n) := by
  unfold State.bringAcc
  extract_lets +onlyGivenNames x l room
  have h : OptionCanon but id room := by
    unfold room
    split
    · exact hs
    · exact .map_all fun _ => hs.evictAcc
  exact h.map fun _ h => h.modCore.modCrew

theorem State.Canon.bringAccs {core cid crew : Nat} {l : List Nat} (hs : s.Canon but) :
    OptionCanon but id (State.bringAccs core cid crew l s) := by
  unfold State.bringAccs
  induction l generalizing s with
  | nil => exact hs
  | cons n l ih => exact hs.bringAcc.bind fun _ h => ih h

theorem State.Canon.bringTile {core : Nat} {x : Nat × Nat × Nat} {need n : Nat} (hs : s.Canon but) :
    OptionCanon but id (State.bringTile core x need n s) := by
  induction n generalizing s with
  | zero =>
    unfold State.bringTile
    exact trivial
  | succ n ih =>
    unfold State.bringTile
    extract_lets +onlyGivenNames l
    split
    · exact hs.modCore
    · split
      · exact ih hs.dropTile
      · exact trivial

theorem State.Canon.touchTile {core : Nat} {x : Nat × Nat × Nat} (hs : s.Canon but) :
    (s.touchTile core x).Canon but :=
  hs.modCore

theorem State.Canon.bringFor {core : Nat} {o : ArrOp} {k : Crew} (hs : s.Canon but) :
    OptionCanon but id (s.bringFor core o k) := by
  unfold State.bringFor
  extract_lets +onlyGivenNames t s'
  have h : OptionCanon but id s' := by
    unfold s'
    split
    · exact hs.bringTile
    · exact hs
  exact h.bind fun _ h => h.bringAccs

/-! ## Reloads (R321) -/

theorem State.Canon.reload {cid crew tile : Nat} (hs : s.Canon but) :
    (s.reload cid crew tile).Canon but := by
  unfold State.reload
  split
  · exact hs
  · split
    · split
      · exact hs
      · split
        · exact hs
        · rename_i hq
          have hp := hs.bringTile.some_id hq
          split
          · rename_i hq2
            exact (hp.replay.of_pair hq2).modCrew.rearm
          · rename_i hq3
            exact hp.replay.of_pair hq3
          · rename_i hq4
            extract_lets +onlyGivenNames s1
            have h : s1.Canon but := (hp.replay.of_pair hq4).dropTile
            split
            · exact h.unitFault
            · split
              · split
                · exact h.violateUnit
                · split
                  · exact h.postFault.modCrew
                  · exact h.engineFault
              · exact h.engineFault
    · exact hs

theorem State.Canon.execTileReload {cid crew tile : Nat} (hs : s.Canon but) :
    OutcomeCanon but (execTileReload cid crew tile s) := by
  unfold Machine.execTileReload
  split
  · split
    · exact hs.reload
    · exact hs
  · exact hs

/-! ## Dispatch and retirement -/

theorem State.Canon.execArrayOpDispatch {core seq : Nat} (hs : s.Canon but) :
    OutcomeCanon but (execArrayOpDispatch core seq s) := by
  unfold Machine.execArrayOpDispatch
  split
  · exact hs
  · split
    · extract_lets +onlyGivenNames earlier x
      split
      · exact hs
      · split
        · exact hs.failOp
        · split
          · exact hs.violateOp
          · split
            · exact hs.retireOp
            · extract_lets +onlyGivenNames start
              have h : ∀ s, s.Canon but → (start s).Canon but := by
                unfold start
                intro _ h
                split
                · exact h
                · rename_i hq
                  exact (h.bringFor.some_id hq).modOp.push
              split
              · split
                · exact hs.reload
                · exact h _ hs.touchTile
              · exact h _ hs
    · exact hs

theorem State.Canon.execArrayOpRetire {core seq : Nat} (hs : s.Canon but) :
    OutcomeCanon but (execArrayOpRetire core seq s) := by
  unfold Machine.execArrayOpRetire
  split
  · exact hs
  · split
    · exact hs
    · split
      · exact hs
      · extract_lets +onlyGivenNames n s1
        have h : s1.Canon but := by
          unfold s1
          split
          · exact hs
          · exact hs.runUnit
        split
        · split
          · exact h
          · split
            · exact h.retireOp
            · exact h.push
        · exact h

theorem State.Canon.binStep {core : Nat} {o : ArrOp} {k : Crew} {a : Agent} (hs : s.Canon but) :
    (s.binStep core o k a).Canon but := by
  unfold State.binStep
  split
  · rename_i hq
    exact (hs.binTile.of_pair hq).unitFault
  · rename_i hq2
    exact (hs.binTile.of_pair hq2).modOp.push
  · rename_i hq3
    exact (hs.binTile.of_pair hq3).modOp.binnersGo.push
  · rename_i hq4
    exact (hs.binTile.of_pair hq4).retireOp

theorem State.Canon.wholePrimitive {core seq n : Nat} (hs : s.Canon but) :
    (State.wholePrimitive core seq n s).Canon but := by
  induction n generalizing s with
  | zero =>
    unfold State.wholePrimitive
    exact hs
  | succ n ih =>
    unfold State.wholePrimitive
    split
    · exact hs
    · split
      · split
        · rename_i hq
          exact (hs.binTile.of_pair hq).unbin
        · rename_i hq2
          exact ih (hs.binTile.of_pair hq2).modOp
        · rename_i hq3
          exact (hs.binTile.of_pair hq3).modOp.binnersGo
        · rename_i hq4
          exact (hs.binTile.of_pair hq4).retireOp
      · exact hs

theorem State.Canon.wholePrimitives {cid core : Nat} (hs : s.Canon but) :
    (s.wholePrimitives cid core).Canon but :=
  hs.foldl (fun _ _ h => h.wholePrimitive)

theorem State.Canon.execBinnerPrimitive {core seq : Nat} (hs : s.Canon but) :
    OutcomeCanon but (execBinnerPrimitive core seq s) := by
  unfold Machine.execBinnerPrimitive
  split
  · exact hs
  · split
    · split
      · exact hs
      · split
        · exact hs.push
        · split
          · exact hs
          · exact hs.binStep
    · exact hs

/-! ## Follow-ons (R150) -/

theorem State.Canon.execFollowOnIssue {core seq : Nat} (hs : s.Canon but) :
    OutcomeCanon but (execFollowOnIssue core seq s) := by
  unfold Machine.execFollowOnIssue
  split
  · exact hs
  · split
    · exact hs
    · split
      · extract_lets +onlyGivenNames n op
        split
        · exact hs.copyFatal
        · exact hs.modCore.modCopy.push
      · exact hs

/-! ## The instructions -/

theorem State.Canon.accRead {i : Instr} {h : Hdr} {b : XBody} {body : Env → Crew → State → Perf} (hs : s.Canon but)
    (hbody : ∀ e a s, e.s.Canon but → s.Canon but → (body e a s).Canon but) :
    OutcomeCanon but (accRead i h b body s) := by
  unfold Machine.accRead
  refine hs.issueWith (fun e2 h2 => ?_)
  split
  · exact h2
  · refine h2.interlock (fun t h3 => ?_)
    split
    · rename_i hq
      exact hbody _ _ _ h2 (h3.bringAcc.some_id hq)
    · exact h3.hold

theorem State.Canon.execAccrdEl {h : Hdr} {b : XBody} (hs : s.Canon but) :
    OutcomeCanon but (execAccrdEl h b s) := by
  unfold Machine.execAccrdEl
  refine hs.accRead (fun e2 a2 t h2 h3 => ?_)
  extract_lets +onlyGivenNames a r hf
  split
  · exact h3
  · exact h3.later
  · split
    · exact h3
    · exact h3.later

theorem State.Canon.execAccrdSt {h : Hdr} {b : XBody} (hs : s.Canon but) :
    OutcomeCanon but (execAccrdSt h b s) :=
  hs.accRead (fun _ _ _ _ h3 => h3.later)

theorem State.Canon.execCvg {h : Hdr} {b : XBody} (hs : s.Canon but) :
    OutcomeCanon but (execCvg h b s) := by
  unfold Machine.execCvg
  refine hs.accRead (fun e2 a2 t h2 h3 => ?_)
  extract_lets +onlyGivenNames a
  split
  · exact h3.later
  · exact h3

theorem State.Canon.vxmTiles {e : Env} {k : Crew} {l : List Nat} (hs : s.Canon but) :
    (e.vxmTiles k l s).1.Canon but := by
  induction l generalizing s with
  | nil =>
    unfold Env.vxmTiles
    exact hs
  | cons a l ih =>
    unfold Env.vxmTiles
    split
    rename_i hq
    split
    · refine .of_pair ?_ hq
      split
      · split
        · exact hs
        · split
          · rename_i hq2
            exact hs.replay.of_pair hq2
          · rename_i hq3
            exact hs.replay.of_pair hq3
      · exact hs
    · split
      · rename_i hq4
        refine .of_pair (ih (.of_pair ?_ hq)) hq4
        split
        · split
          · exact hs
          · split
            · rename_i hq5
              exact hs.replay.of_pair hq5
            · rename_i hq6
              exact hs.replay.of_pair hq6
        · exact hs
      · rename_i hq7
        refine .of_pair (ih (.of_pair ?_ hq)) hq7
        split
        · split
          · exact hs
          · split
            · rename_i hq8
              exact hs.replay.of_pair hq8
            · rename_i hq9
              exact hs.replay.of_pair hq9
        · exact hs

theorem State.Canon.execVxm {h : Hdr} {b : XBody} (hs : s.Canon but) :
    OutcomeCanon but (execVxm h b s) := by
  unfold Machine.execVxm
  refine hs.issueWith (fun e2 h2 => ?_)
  split
  · exact h2
  · extract_lets +onlyGivenNames ls ts
    split
    · exact h2
    · refine h2.interlock (fun t h3 => ?_)
      split
      · exact h3
      · split
        · split
          · rename_i hq
            exact (h3.hold.stay hq).reload
          · exact h3.hold
        · rename_i hq2
          exact (h3.vxmTiles.of_pair hq2).later

end

end Sys2Proof.Machine
end

section
/-! SUPPORT. The memories stay in canonical form: control, frames, the pool, futures and spawning. -/

-- One lemma at a time: the lemmas of this part at once take more threads than the memory has room for.
set_option Elab.async false

namespace Sys2Proof.Machine

section
variable {but : Option Nat} {s : State}

/-! ## Merge and pop (R174, R25) -/

theorem State.Canon.execJoinRelease {core slot : Nat} (hs : s.Canon but) :
    OutcomeCanon but (execJoinRelease core slot s) := by
  unfold Machine.execJoinRelease
  split
  · split
    · exact hs.modGroup
    · exact hs
  · exact hs

/-! ## Branches -/

theorem State.Canon.diverge {e : Env} {t : Mask} {target : W64} {also : Nat → State → State} (hs : s.Canon but)
    (halso : ∀ a s, s.Canon but → (also a s).Canon but) :
    (e.diverge t target s also).Canon but := by
  unfold Env.diverge
  split
  · exact hs.modSplit
  · split
    · exact hs
    · exact halso _ _ hs.modGroup.modSplit

theorem State.Canon.checkTarget {e : Env} {target : W64} (hs : s.Canon but) :
    ExceptCanon but Prod.fst (e.checkTarget target s) := by
  unfold Env.checkTarget
  split
  · rename_i hq
    exact hs.checkTransfer.ok_id hq
  · rename_i hq2
    split <;> exact hs.checkTransfer.error hq2
  · rename_i hq3
    exact hs.checkTransfer.error hq3

theorem State.Canon.fetchTrap {e : Env} {bad : Option TrapInfo} {k : Nat} (hs : s.Canon but) :
    (e.fetchTrap bad k s).Canon but := by
  unfold Env.fetchTrap
  split
  · exact hs.take
  · exact hs

theorem State.Canon.transfer {e : Env} {t : Mask} {target : W64} {also : Nat → State → State} (hs : s.Canon but)
    (halso : ∀ a s, s.Canon but → (also a s).Canon but) :
    (e.transfer t target s also).Canon but := by
  unfold Env.transfer
  split
  · rename_i hq
    exact hs.checkTarget.error hq
  · rename_i hq2
    exact (hs.checkTarget.ok_fst hq2).diverge (fun _ _ h => (halso _ _ h).fetchTrap)

theorem State.Canon.control {i : Instr} {h : Hdr} {b : CBody} {ready : Env → Bool} {wait after : Env → State → State} (hs : s.Canon but)
    (hwait : ∀ e s, e.s.Canon but → s.Canon but → (wait e s).Canon but)
    (hafter : ∀ e s, e.s.Canon but → s.Canon but → (after e s).Canon but) :
    OutcomeCanon but (control i h b ready wait after s) := by
  unfold Machine.control
  refine hs.issueWith (fun e2 h2 => ?_)
  split
  · exact hwait _ _ h2 h2
  · split
    · split
      · rename_i hq
        exact hafter _ _ h2 ((h2.transfer (fun _ _ h3 => h3)).moved hq)
      · exact h2.transfer (fun _ _ h3 => h3)
    · exact hafter _ _ h2 h2.next

theorem State.Canon.execBr {h : Hdr} {b : CBody} (hs : s.Canon but) :
    OutcomeCanon but (execBr h b s) :=
  hs.issueWith (fun _ h2 => h2.transfer (fun _ _ h3 => h3))

/-! ## BRX (R265) -/

theorem State.Canon.tableRead {e : Env} {va : W64} {n : Nat} {g : Mask} (hs : s.Canon but) :
    ExceptCanon but Prod.fst (e.tableRead va n g s) := by
  unfold Env.tableRead
  split
  · exact hs
  · extract_lets +onlyGivenNames fault
    have h : ∀ a s, s.Canon but → (fault a s).Canon but := by
      unfold fault
      intro _ _ h
      split
      · exact h.violate
      · split
        · exact h.park
        · exact h
    split
    · exact h _ _ hs
    · split
      · exact hs.requestWalk.hold
      · exact h _ _ hs
      · split
        · exact hs.hold
        · exact hs
      · split
        · rename_i hq
          exact hs.loadAt.of_pair hq
        · rename_i hq2
          exact (hs.loadAt.of_pair hq2).hold

theorem State.Canon.tableEntry {e : Env} {base : W64} {g : Mask} {idx : Nat} (hs : s.Canon but) :
    ExceptCanon but Prod.fst (e.tableEntry base g idx s) := by
  unfold Env.tableEntry
  split
  · rename_i hq
    exact hs.tableRead.error hq
  · rename_i hq2
    have hp := hs.tableRead.ok_fst hq2
    split
    · rename_i hq3
      exact hp.tableRead.error hq3
    · rename_i hq4
      have hp2 := hp.tableRead.ok_fst hq4
      extract_lets +onlyGivenNames pc
      split
      · rename_i hq5
        exact hp2.checkTransfer.error hq5
      · rename_i hq6
        have hp3 := hp2.checkTransfer.ok_id hq6
        split
        · rename_i hq7
          exact hp3.fetchLine.error hq7
        · rename_i hq8
          extract_lets +onlyGivenNames w
          split <;> exact hp3.fetchLine.ok_fst hq8

theorem State.Canon.tableEntries {e : Env} {base : W64} {g : Mask} {l : List Nat} (hs : s.Canon but) :
    ExceptCanon but Prod.fst (e.tableEntries base g l s) := by
  induction l generalizing s with
  | nil =>
    unfold Env.tableEntries
    exact hs
  | cons a l ih =>
    unfold Env.tableEntries
    split
    · rename_i hq
      exact hs.tableEntry.error hq
    · rename_i hq2
      have hp := hs.tableEntry.ok_fst hq2
      split
      · rename_i hq3
        exact (ih hp).error hq3
      · rename_i hq4
        exact (ih hp).ok_fst hq4

theorem State.Canon.execBrx {h : Hdr} {b : CBody} (hs : s.Canon but) :
    OutcomeCanon but (execBrx h b s) := by
  unfold Machine.execBrx
  refine hs.issueWith (fun e2 h2 => ?_)
  extract_lets +onlyGivenNames g base idx
  split
  · exact h2
  · split
    · exact h2
    · split
      · rename_i hq
        exact h2.tableEntries.error hq
      · rename_i hq2
        have hp := h2.tableEntries.ok_fst hq2
        extract_lets +onlyGivenNames sets keep others
        split
        · exact hp.modSplit
        · split
          · exact hp
          · exact hp.modGroup.modSplit

/-! ## The rest of the C format -/

theorem State.Canon.execPad {h : Hdr} {b : CBody} (hs : s.Canon but) :
    OutcomeCanon but (execPad h b s) :=
  hs.control (fun _ _ _ h3 => h3) (fun _ _ _ h3 => h3)

theorem State.Canon.laterFor {e : Env} {k : Nat} {ws : List RegWrite} (hs : s.Canon but) :
    (e.laterFor k ws s).Canon but :=
  hs.later

theorem State.Canon.execCall {h : Hdr} {b : CBody} (hs : s.Canon but) :
    OutcomeCanon but (execCall h b s) :=
  hs.issueWith (fun _ h2 => h2.transfer (fun _ _ h3 => h3.laterFor))

theorem State.Canon.execRet {h : Hdr} {b : CBody} (hs : s.Canon but) :
    OutcomeCanon but (execRet h b s) :=
  hs.issueWith (fun _ h2 => h2.transfer (fun _ _ h3 => h3))

theorem State.Canon.execJoin {h : Hdr} {b : CBody} (hs : s.Canon but) :
    OutcomeCanon but (execJoin h b s) :=
  hs.control (fun _ _ _ h3 => h3.modSplit.push) (fun _ _ _ h3 => h3)

theorem State.Canon.execLoop {h : Hdr} {b : CBody} (hs : s.Canon but) :
    OutcomeCanon but (execLoop h b s) := by
  unfold Machine.execLoop
  refine hs.issueWith (fun e2 h2 => ?_)
  extract_lets +onlyGivenNames wide n ws
  split
  · exact h2.later
  · extract_lets +onlyGivenNames g
    split
    · rename_i hq
      exact h2.checkTarget.error hq
    · rename_i hq2
      have hp := h2.checkTarget.ok_fst hq2
      split
      · split
        · exact hp.modGroup.diverge (fun _ _ h3 => h3.fetchTrap)
        · exact hp.diverge (fun _ _ h3 => h3.laterFor.fetchTrap)
      · exact hp.diverge (fun _ _ h3 => h3)

theorem State.Canon.execExit {h : Hdr} {b : CBody} (hs : s.Canon but) :
    OutcomeCanon but (execExit h b s) :=
  hs.issueWith (fun _ h2 => h2.modSplit.retire)

theorem State.Canon.execYield {h : Hdr} {b : CBody} (hs : s.Canon but) :
    OutcomeCanon but (execYield h b s) :=
  hs.control (fun _ _ _ h3 => h3) (fun _ _ _ h3 => h3.modSplit)

theorem State.Canon.execNop {h : Hdr} {b : CBody} (hs : s.Canon but) :
    OutcomeCanon but (execNop h b s) :=
  hs.control (fun _ _ _ h3 => h3) (fun _ _ _ h3 => h3)

theorem State.Canon.debugTrap {e : Env} {c : FaultCode} {b : CBody} (he : e.s.Canon but) :
    (e.debugTrap c b).Canon but :=
  he.modSplit.take

theorem State.Canon.execBkpt {h : Hdr} {b : CBody} (hs : s.Canon but) :
    OutcomeCanon but (execBkpt h b s) := by
  unfold Machine.execBkpt
  refine hs.issueWith (fun e2 h2 => ?_)
  split
  · exact h2
  · exact h2.debugTrap

theorem State.Canon.execUnassignedOpcode {_w : BitVec 96} (hs : s.Canon but) :
    OutcomeCanon but (execUnassignedOpcode _w s) := by
  unfold Machine.execUnassignedOpcode
  split
  · exact hs
  · exact hs.take

theorem State.Canon.execTrap {h : Hdr} {b : CBody} (hs : s.Canon but) :
    OutcomeCanon but (execTrap h b s) :=
  hs.issueWith (fun _ h2 => h2.debugTrap)

/-! ## The rings -/

theorem State.Canon.toHostRing {vf : Nat} {r : BitVec 512} (hs : s.Canon but) :
    (s.toHostRing vf r).1.Canon but := by
  unfold State.toHostRing
  extract_lets +onlyGivenNames f
  split
  · exact hs
  · exact (hs.ofHost (Mem.writeN_wf _ hs.hostWf _ _)).modFn

theorem State.Canon.ringPost {vf : Nat} {r : BitVec 512} (hs : s.Canon but) :
    (s.ringPost vf r).1.Canon but := by
  unfold State.ringPost
  split
  · exact hs.toHostRing
  · split
    · rename_i hq
      exact (hs.privQueue.of_pair hq).toHostRing
    · rename_i hq2
      have hp := hs.privQueue.of_pair hq2
      split
      · exact hp
      · exact hp.writeMem.writeMem.wakeAll.push

theorem State.Canon.toRing {vf : Nat} {r : BitVec 512} (hs : s.Canon but) :
    (s.toRing vf r).1.Canon but := by
  unfold State.toRing
  extract_lets +onlyGivenNames t
  have h : t.1.Canon but := hs.ringPost
  split
  · exact hs
  · exact h

theorem State.Canon.postEventOn {t : EvType} {vf about die body : Nat} (hs : s.Canon but) :
    (s.postEventOn t vf about die body).Canon but := by
  unfold State.postEventOn
  extract_lets +onlyGivenNames f r s1
  have h : s1.Canon but := hs.modFn
  extract_lets +onlyGivenNames hold
  have h2 : ∀ s, s.Canon but → (hold s).Canon but := fun _ h2 => h2.modFn
  split
  · exact h2 _ h
  · split
    · rename_i hq
      exact h.toRing.of_pair hq
    · rename_i hq2
      exact h2 _ (h.toRing.of_pair hq2)

theorem State.Canon.postEvent {t : EvType} {vf die body : Nat} (hs : s.Canon but) :
    (s.postEvent t vf die body).Canon but :=
  hs.postEventOn

theorem State.Canon.unlessFull {vf : Nat} {t : State} (hs : s.Canon but) (ht : t.Canon but) :
    (s.unlessFull vf t).Canon but := by
  unfold State.unlessFull
  split
  · exact hs
  · exact ht

theorem State.Canon.postHeld {vf : Nat} {l z : List (BitVec 512)} (hs : s.Canon but) :
    (State.postHeld vf l z s).Canon but := by
  induction l generalizing z s with
  | nil =>
    unfold State.postHeld
    exact hs.modFn
  | cons a l ih =>
    unfold State.postHeld
    split
    · exact ih hs
    · split
      · rename_i hq
        exact ih (hs.toRing.of_pair hq)
      · rename_i hq2
        exact ih (hs.toRing.of_pair hq2)

/-! ## EVPOP (R364) -/

theorem State.Canon.popEvent {vf : Nat} (hs : s.Canon but) :
    (s.popEvent vf).1.Canon but := by
  unfold State.popEvent
  split
  · rename_i hq
    exact hs.privQueue.of_pair hq
  · rename_i hq2
    have hp := hs.privQueue.of_pair hq2
    split
    · exact hp
    · split
      rename_i hq3
      exact (hp.readMem.of_pair hq3).writeMem.push

theorem State.Canon.evpop {i : Instr} {h : Hdr} {b : TBody} {wait : Bool} (hs : s.Canon but) :
    OutcomeCanon but (evpop i h b wait s) := by
  unfold Machine.evpop
  refine hs.issueWith (fun e2 h2 => ?_)
  extract_lets +onlyGivenNames va acc
  split
  · exact h2
  · split
    · rename_i hq
      exact (h2.translate.of_pair hq).issueFault
    · rename_i hq2
      exact (h2.translate.of_pair hq2).requestWalk.hold
    · rename_i hq3
      have hp := h2.translate.of_pair hq3
      split
      · rename_i hq4
        have hp2 := hp.popEvent.of_pair hq4
        split
        · exact hp2.hold
        · exact hp2.later
      · rename_i hq5
        exact (hp.popEvent.of_pair hq5).storeAt.sweep.later

/-! ## The pool (R180, R181) -/

theorem State.Canon.newFrame {cid crew : Nat} {f : Nat → Frame} {fresh : Bool} (hs : s.Canon but) :
    (s.newFrame cid crew f fresh).1.Canon but := by
  unfold State.newFrame
  split
  · exact hs
  · extract_lets +onlyGivenNames h awb s1
    extract_lets +onlyGivenNames s2
    have h2 : s2.Canon but := hs.setCtx
    split
    · exact h2.ofAtrium (Mem.clear_wf h2.atriumWf _ _)
    · exact h2

theorem State.Canon.tryFree {cid h : Nat} (hs : s.Canon but) :
    (s.tryFree cid h).Canon but :=
  hs.modCtx.wakeAll

/-! ## Slots -/

theorem State.Canon.offer {core cid : Nat} (hs : s.Canon but) :
    (s.offer core cid).Canon but :=
  hs.pushAll

theorem State.Canon.noteFrame {cid h : Nat} (hs : s.Canon but) :
    (s.noteFrame cid h).Canon but :=
  hs.modCtx

theorem State.Canon.readyFrame {cid h : Nat} (hs : s.Canon but) :
    (s.readyFrame cid h).Canon but := by
  unfold State.readyFrame
  split
  · exact hs
  · extract_lets +onlyGivenNames s1
    have h2 : s1.Canon but := hs.modFrame.noteFrame
    extract_lets +onlyGivenNames x
    split
    · exact h2
    · exact h2.modCore.offer

theorem State.Canon.flushResults {core slot cid h : Nat} (hs : s.Canon but) :
    (s.flushResults core slot cid h).Canon but :=
  hs.same.modGroup

theorem State.Canon.retryReservations {core : Nat} (hs : s.Canon but) :
    (s.retryReservations core).Canon but :=
  hs.pushAll

theorem State.Canon.unbind {core slot : Nat} (hs : s.Canon but) :
    (s.unbind core slot).Canon but := by
  unfold State.unbind
  split
  · exact hs
  · split
    · exact hs
    · extract_lets +onlyGivenNames s1
      have h : s1.Canon but := hs.flushResults
      extract_lets +onlyGivenNames s2
      have h2 : s2.Canon but := h.modCore
      extract_lets +onlyGivenNames s3
      have h3 : s3.Canon but := h2.modFrame
      split
      · exact h3.retryReservations
      · exact h3

theorem State.Canon.bindAcquires {core cid h : Nat} {fr : Frame} (hs : s.Canon but) :
    (s.bindAcquires core cid h fr).Canon but := by
  unfold State.bindAcquires
  extract_lets +onlyGivenNames s1
  have h2 : s1.Canon but := hs.foldl (fun _ _ h2 => h2.acquire)
  extract_lets +onlyGivenNames s2
  have h3 : s2.Canon but := by
    unfold s2
    split
    · refine h2.foldl (fun t a2 h3 => ?_)
      split
      · exact h3
      · split
        exact h3.acquire
    · exact h2
  split
  · split
    · exact h3.sweep
    · exact h3
  · exact h3

theorem State.Canon.bindFrame {core slot cid h : Nat} (hs : s.Canon but) :
    (s.bindFrame core slot cid h).Canon but := by
  unfold State.bindFrame
  split
  · exact hs
  · split
    · exact hs
    · extract_lets +onlyGivenNames s1
      have h2 : s1.Canon but := hs.bindAcquires
      extract_lets +onlyGivenNames moved stepping s2
      have h3 : s2.Canon but := h2.modFrame
      extract_lets +onlyGivenNames s3
      have h4 : s3.Canon but := by
        unfold s3
        split
        · exact h3.modCore
        · exact h3
      extract_lets +onlyGivenNames s4
      have h5 : s4.Canon but := h4.modCore
      split
      · exact h5.push
      · exact h5

/-! ## Stealing and SLOT_BIND (R183, R184) -/

theorem State.Canon.takeStolen {v : Nat} {may : FRef → Bool} (hs : s.Canon but) :
    OptionCanon but Prod.fst (s.takeStolen v may) := by
  unfold State.takeStolen
  extract_lets +onlyGivenNames ok
  split
  · exact hs.modCore
  · exact .map_all fun _ => hs.modCore

theorem State.Canon.chooseFrame {core : Nat} {may : FRef → Bool} {victim : Option Nat} (hs : s.Canon but) :
    OptionCanon but Prod.fst (s.chooseFrame core may victim) := by
  unfold State.chooseFrame
  extract_lets +onlyGivenNames c
  split
  · exact hs.modCore
  · split
    · exact hs.modCore
    · split
      · split
        · exact hs.takeStolen
        · exact trivial
      · exact trivial

theorem State.Canon.execSlotBind {core slot : Nat} {victim : Option Nat} (hs : s.Canon but) :
    OutcomeCanon but (execSlotBind core slot victim s) := by
  unfold Machine.execSlotBind
  extract_lets +onlyGivenNames runs take
  have h : ∀ a, (take a).Canon but := by
    unfold take
    intro _
    split
    · rename_i hq
      exact (hs.chooseFrame.some_fst hq).bindFrame
    · exact hs
  split
  · split
    · exact h _
    · exact hs
  · split
    · exact hs
    · exact h _

theorem State.Canon.offerSteal {core cid : Nat} (hs : s.Canon but) :
    (s.offerSteal core cid).Canon but := by
  unfold State.offerSteal
  split
  · exact hs.push
  · exact hs

/-! ## The end of a group (R107, R270) -/

theorem State.Canon.setPending {awb n : Nat} (hs : s.Canon but) :
    (s.setPending awb n).Canon but :=
  hs.ofAtrium (Mem.writeN_wf _ hs.atriumWf _ _)

theorem State.Canon.takeAwait {core cid h awb : Nat} (hs : s.Canon but) :
    (s.takeAwait core cid h awb).Canon but := by
  unfold State.takeAwait
  split
  extract_lets +onlyGivenNames src
  have h2 : src.Canon but := hs.acquire
  clear_value src
  exact h2.ofAtrium (Mem.clear_wf hs.atriumWf _ _)

theorem State.Canon.completeFrame {core slot cid h : Nat} (hs : s.Canon but) :
    (s.completeFrame core slot cid h).Canon but := by
  unfold State.completeFrame
  split
  · exact hs
  · exact hs.modCrew.unbind.modFrame.tryFree.pushAll

theorem State.Canon.awaitMerge {core cid h : Nat} {fr : Frame} {asid : Nat} (hs : s.Canon but) :
    (s.awaitMerge core cid h fr asid).Canon but := by
  unfold State.awaitMerge
  split
  · exact hs
  · split
    rename_i hq
    exact (hs.sendSig.of_pair hq).send.push

theorem State.Canon.finishGroup {e : Env} (hs : s.Canon but) :
    (e.finishGroup s).Canon but := by
  unfold Env.finishGroup
  split
  · exact hs
  · split
    · exact hs.endReservations.awaitMerge.completeFrame
    · exact hs.sendRegistrations

theorem State.Canon.execAwaitComplete {core slot : Nat} (hs : s.Canon but) :
    OutcomeCanon but (execAwaitComplete core slot s) := by
  unfold Machine.execAwaitComplete
  split
  · exact hs
  · split
    · split
      · exact hs
      · exact hs.takeAwait.modGroup.finishGroup
    · exact hs.finishGroup
    · exact hs

theorem State.Canon.execAwaitPendingDecrement {id : Nat} (hs : s.Canon but) :
    OutcomeCanon but (execAwaitPendingDecrement id s) := by
  unfold Machine.execAwaitPendingDecrement
  split
  · exact hs
  · split
    · split
      · split
        · exact hs.answered
        · exact hs
      · extract_lets +onlyGivenNames n s1
        have h : s1.Canon but := hs.answered.setPending
        split
        · exact h
        · split
          · exact h
          · refine h.foldl (fun t a2 h2 => ?_)
            split
            split
            · exact h2
            · split
              · exact h2.readyFrame
              · split
                · extract_lets +onlyGivenNames s2
                  have h3 : s2.Canon but := h2.wake
                  split
                  · exact h3.push
                  · exact h3
                · exact h2
    · exact hs

/-! ## Eviction (R194) -/

theorem State.Canon.evictGroup {core slot : Nat} (hs : s.Canon but) :
    (s.evictGroup core slot).Canon but := by
  unfold State.evictGroup
  split
  · exact hs
  · split
    · exact hs
    · split
      · exact hs
      · split
        · exact hs.unbind.modFrame.push
        · exact hs

/-! ## The state word of a future (R186) -/

theorem State.Canon.setFut {off w : Nat} (hs : s.Canon but) :
    (s.setFut off w).Canon but :=
  hs.ofAtrium (Mem.writeN_wf _ hs.atriumWf _ _)

/-! ## Spawning (R353, R182) -/

theorem State.Canon.frameStall {e : Env} (hs : s.Canon but) :
    (e.frameStall s).Canon but := by
  unfold Env.frameStall
  split
  · exact hs.hold
  · split
    · exact hs.hold
    · exact hs.modCrew.postEvent.hold

theorem State.Canon.child {e : Env} {kind : FrameKind} {st : FrameSt} {pc : W64} {mask : Mask} {ls : List Nat} {pin : Bool} {arg : W64}
    (hs : s.Canon but) :
    (e.child kind st pc mask ls pin arg s).1.Canon but :=
  hs.newFrame

theorem State.Canon.children {e : Env} {arg : W64} {l : List (W64 × List Nat)} (hs : s.Canon but) :
    (e.children arg l s).1.Canon but := by
  induction l generalizing s with
  | nil =>
    unfold Env.children
    exact hs
  | cons a l ih =>
    unfold Env.children
    split
    rename_i hq
    split
    rename_i hq2
    exact (ih (hs.child.of_pair hq)).of_pair hq2

theorem State.Canon.renameLists {cid h n : Nat} (hs : s.Canon but) :
    (s.renameLists cid h n).Canon but := by
  unfold State.renameLists
  extract_lets +onlyGivenNames one s1
  have h2 : s1.Canon but := by
    unfold s1
    refine hs.foldl (fun t a2 h2 => ?_)
    extract_lets +onlyGivenNames w
    split
    · exact h2.setFut
    · exact h2
  exact h2.same.modCtx

theorem State.Canon.rename {core cid h n : Nat} (hs : s.Canon but) :
    (s.rename core cid h n).Canon but :=
  hs.renameLists.modCtx.modCore.modCtx

theorem State.Canon.continue {e : Env} {pin : Bool} (hs : s.Canon but) :
    (e.continue pin s).Canon but := by
  unfold Env.continue
  extract_lets +onlyGivenNames s1
  have h : s1.Canon but := hs.unbind
  split
  · exact h
  · extract_lets +onlyGivenNames cont
    split
    rename_i hq
    exact (h.newFrame.of_pair hq).rename.modFrame.modCore

theorem State.Canon.spawn {e : Env} {h : Hdr} {sets : List (W64 × List Nat)} {arg : W64} {pin : Bool} (he : e.s.Canon but) :
    (e.spawn h sets arg pin).Canon but := by
  unfold Env.spawn
  split
  · exact he.frameStall
  · refine he.withRelease (fun t h2 => ?_)
    extract_lets +onlyGivenNames awb s
    have h3 : s.Canon but := h2.setPending
    split
    rename_i hq
    extract_lets +onlyGivenNames s1
    have h4 : s1.Canon but := (h3.children.of_pair hq).next.modSplit.continue
    split
    · exact h4
    · exact (h4.bindFrame.foldl (fun _ _ h5 => h5.readyFrame)).offer.offerSteal

theorem State.Canon.issueSpawn {i : Instr} {h : Hdr} {b : TBody} {tags : Env → Bool} {pc : Env → Nat → W64} (hs : s.Canon but) :
    OutcomeCanon but (Machine.spawn i h b tags pc s) := by
  unfold Machine.spawn
  refine hs.issueWith fun e he => ?_
  extract_lets +onlyGivenNames ls
  split
  · exact he
  · exact he
  · exact he.spawn

theorem State.Canon.execSpawn {h : Hdr} {b : TBody} (hs : s.Canon but) :
    OutcomeCanon but (execSpawn h b s) :=
  hs.issueSpawn

theorem State.Canon.execSpawnLane {h : Hdr} {b : TBody} (hs : s.Canon but) :
    OutcomeCanon but (execSpawnLane h b s) :=
  hs.issueSpawn

/-! ## Futures: operands (R351) -/

theorem State.Canon.future {e : Env} {va : W64} (hs : s.Canon but) :
    ExceptCanon but Prod.fst (e.future va s) := by
  unfold Env.future
  split
  · exact hs
  · split
    · exact hs
    · split
      · exact hs
      · split
        · rename_i hq
          exact (hs.translate.of_pair hq).issueFault
        · rename_i hq
          split
          · exact (hs.translate.of_pair hq).again
          · exact hs.translate.of_pair hq
        · rename_i hq
          exact hs.translate.of_pair hq

theorem State.Canon.execFnew {h : Hdr} {b : TBody} (hs : s.Canon but) :
    OutcomeCanon but (Machine.execFnew h b s) := by
  unfold Machine.execFnew
  refine hs.issueWith fun e he => ?_
  split
  · rename_i hq
    exact he.future.error hq
  · rename_i hq
    have h1 := he.future.ok_fst hq
    extract_lets w s1
    split
    · exact h1.later
    · have h2 : s1.Canon but := h1.setFut
      clear_value s1
      exact State.Canon.later (h2.ofAtrium (Mem.clear_wf h2.atriumWf _ _))

theorem State.Canon.fres {i : Instr} {h : Hdr} {b : TBody} {faulted : Bool} (hs : s.Canon but) :
    OutcomeCanon but (fres i h b faulted s) := by
  unfold Machine.fres
  refine hs.issueWith (fun e2 h2 => ?_)
  extract_lets +onlyGivenNames send
  extract_lets +onlyGivenNames send1
  have h3 : send1.Canon but := by
    unfold send1
    split
    · rename_i hq
      exact h2.future.error hq
    · rename_i hq2
      refine (h2.future.ok_fst hq2).withRelease (fun t h3 => ?_)
      split
      rename_i hq3
      exact (h3.sendSig.of_pair hq3).request.push.hold
  split
  · split
    · exact h2.hold
    · exact h2
  · exact h3

theorem State.Canon.futResult {e : Env} {b : TBody} {off w : Nat} (hs : s.Canon but) :
    (e.futResult b off w s).Canon but := by
  unfold Env.futResult
  extract_lets +onlyGivenNames st s1
  have h : s1.Canon but := by
    unfold s1
    split
    · exact hs
    · split
      exact hs.acquire.modSplit
  exact h.later

theorem State.Canon.execFpoll {h : Hdr} {b : TBody} (hs : s.Canon but) :
    OutcomeCanon but (execFpoll h b s) := by
  unfold Machine.execFpoll
  refine hs.issueWith (fun e2 h2 => ?_)
  split
  · rename_i hq
    exact h2.future.error hq
  · rename_i hq2
    exact (h2.future.ok_fst hq2).futResult

theorem State.Canon.toGallery {e : Env} {va : W64} {off i : Nat} (hs : s.Canon but) :
    (e.toGallery va off i s).Canon but :=
  hs.modFrame.request.push.modSplit

theorem State.Canon.register {e : Env} {va : W64} {off : Nat} (hs : s.Canon but) :
    (e.register va off s).Canon but := by
  unfold Env.register
  split
  · exact hs.modCore.request.push.hold
  · split
    · exact hs.toGallery
    · exact hs.hold

theorem State.Canon.execFwait {h : Hdr} {b : TBody} (hs : s.Canon but) :
    OutcomeCanon but (execFwait h b s) := by
  unfold Machine.execFwait
  refine hs.issueWith (fun e2 h2 => ?_)
  split
  · split
    · exact h2.hold
    · exact h2.modSplit
  · exact h2.futResult
  · split
    · rename_i hq
      exact h2.future.error hq
    · rename_i hq2
      have hp := h2.future.ok_fst hq2
      split
      · split
        · exact hp.hold
        · split
          · exact hp.futResult
          · exact hp.register
      · exact hp.register

/-! ## Bank operations on futures (R187, R188) -/

theorem State.Canon.awaken {f : Focus} {w : Wait} (hs : s.Canon but) :
    (s.awaken f w).Canon but := by
  unfold State.awaken
  split
  · exact hs.modSplit
  · exact hs

theorem State.Canon.execWaitRegistrationOp {id : Nat} (hs : s.Canon but) :
    OutcomeCanon but (execWaitRegistrationOp id s) := by
  unfold Machine.execWaitRegistrationOp
  split
  · exact hs
  · split
    · split
      · exact hs
      · extract_lets +onlyGivenNames w s1
        have h : s1.Canon but := hs.answered
        split
        · extract_lets +onlyGivenNames w'
          split
          · exact h.setFut.modSplit
          · exact h.setFut
        · exact h.modCore.awaken
    · exact hs

theorem State.Canon.enlist {off cid h i : Nat} (hs : s.Canon but) :
    (s.enlist off cid h i).Canon but := by
  unfold State.enlist
  extract_lets +onlyGivenNames w word s1
  have h2 : s1.Canon but := hs.setFut
  extract_lets +onlyGivenNames src
  have h3 : src.Canon but := h2.modFrame
  clear_value src
  exact h3.same

theorem State.Canon.lessRem {cid h : Nat} (hs : s.Canon but) :
    (s.lessRem cid h).Canon but := by
  unfold State.lessRem
  extract_lets +onlyGivenNames s1
  have h2 : s1.Canon but := hs.modFrame.noteFrame
  split
  · split
    · exact h2.readyFrame
    · exact h2
  · exact h2

theorem State.Canon.leaveForGallery {cid h : Nat} (hs : s.Canon but) :
    (s.leaveForGallery cid h).Canon but := by
  unfold State.leaveForGallery
  split
  · exact hs
  · split
    · exact hs
    · extract_lets +onlyGivenNames awake s1
      have h2 : s1.Canon but := hs.unbind.modFrame.push
      split
      · exact h2.readyFrame
      · exact h2

theorem State.Canon.execGalleryRegistrationOp {id : Nat} (hs : s.Canon but) :
    OutcomeCanon but (execGalleryRegistrationOp id s) := by
  unfold Machine.execGalleryRegistrationOp
  split
  · exact hs
  · split
    · split
      · exact hs
      · split
        · exact hs.answered
        · extract_lets +onlyGivenNames w s1
          have h : s1.Canon but := hs.answered
          split
          · split
            · exact h.enlist
            · exact h.lessRem
          · split
            · exact h
            · split
              · exact h.enlist.modSplit.leaveForGallery
              · exact h.modFrame.modSplit
    · exact hs

theorem State.Canon.resolveFuture {off : Nat} {value : W64} {faulted : Bool} {rcore rslot : Nat} {eng : Bool} {asid : Nat}
    (hs : s.Canon but) :
    (s.resolveFuture off value faulted rcore rslot eng asid).1.Canon but := by
  unfold State.resolveFuture
  extract_lets +onlyGivenNames w
  split
  · exact hs
  · extract_lets +onlyGivenNames s1
    have h : s1.Canon but := hs.setFut
    extract_lets +onlyGivenNames s2
    extract_lets +onlyGivenNames s3
    have h2 : s3.Canon but := by
      unfold s3
      split
      · exact h
      · exact h.same.pushAll
    extract_lets +onlyGivenNames list s4
    have h3 : s4.Canon but := h2.same
    split
    · exact h3
    · exact h3.modPorter.push

theorem State.Canon.execFutureResolutionOp {id : Nat} (hs : s.Canon but) :
    OutcomeCanon but (execFutureResolutionOp id s) := by
  unfold Machine.execFutureResolutionOp
  split
  · exact hs
  · split
    · split
      · exact hs
      · extract_lets +onlyGivenNames s1
        have h : s1.Canon but := hs.answered
        split
        rename_i hq
        have hp := h.resolveFuture.of_pair hq
        split
        · split
          · exact hp
          · split
            · exact hp.modSplit
            · exact hp.modSplit.take
        · exact hp
    · exact hs

theorem State.Canon.execResolutionNoticeReceive {id core : Nat} (hs : s.Canon but) :
    OutcomeCanon but (Machine.execResolutionNoticeReceive id core s) := by
  unfold Machine.execResolutionNoticeReceive
  split
  · exact hs
  · extract_lets +onlyGivenNames hit s1
    have h : s1.Canon but := by
      unfold s1
      refine hs.foldl fun t a ht => ?_
      split
      · exact ht.modSplit
      · exact ht
    clear_value s1
    extract_lets +onlyGivenNames s2
    have h2 : s2.Canon but := h.modCore
    clear_value s2
    exact h2.same

/-! ## The Porter's wake queue (R385) -/

theorem State.Canon.execWakeQueuePost {hall : Nat} (hs : s.Canon but) :
    OutcomeCanon but (execWakeQueuePost hall s) := by
  unfold Machine.execWakeQueuePost
  extract_lets +onlyGivenNames p
  split
  · exact hs
  · split
    · exact hs
    · exact hs.modPorter.push

theorem State.Canon.wakeFrame {cid word : Nat} (hs : s.Canon but) :
    (s.wakeFrame cid word).Canon but := by
  unfold State.wakeFrame
  extract_lets +onlyGivenNames h i
  split
  · exact hs
  · split
    · exact hs
    · split
      · exact hs
      · split
        · exact hs.lessRem
        · extract_lets +onlyGivenNames w s1
          have h2 : s1.Canon but := hs.modFrame
          extract_lets +onlyGivenNames s2
          have h3 : s2.Canon but := h2.modGroup
          split
          · exact h3.readyFrame
          · exact h3

theorem State.Canon.execWakeQueueHead {hall : Nat} (hs : s.Canon but) :
    OutcomeCanon but (execWakeQueueHead hall s) := by
  unfold Machine.execWakeQueueHead
  split
  · exact hs
  · exact (hs.modPorter.foldl (fun _ _ h => h.wakeFrame)).pushAll

theorem State.Canon.execWaiterToGallery {core slot split : Nat} (hs : s.Canon but) :
    OutcomeCanon but (execWaiterToGallery core slot split s) := by
  unfold Machine.execWaiterToGallery
  split
  · exact hs
  · split
    · exact hs.leaveForGallery
    · split
      · exact hs.modCore.toGallery
      · exact hs
    · exact hs

/-! ## SPAWNC (R354, R189) -/

theorem State.Canon.futures {e : Env} {l : List W64} (hs : s.Canon but) :
    ExceptCanon but Prod.fst (e.futures l s) := by
  induction l generalizing s with
  | nil =>
    unfold Env.futures
    exact hs
  | cons a l ih =>
    unfold Env.futures
    split
    · rename_i hq
      exact hs.future.error hq
    · rename_i hq2
      have hp := hs.future.ok_fst hq2
      split
      · rename_i hq3
        exact (ih hp).error hq3
      · rename_i hq4
        exact (ih hp).ok_fst hq4

theorem State.Canon.execSpawnc {h : Hdr} {b : TBody} (hs : s.Canon but) :
    OutcomeCanon but (execSpawnc h b s) := by
  unfold Machine.execSpawnc
  refine hs.issueWith (fun e2 h2 => ?_)
  extract_lets +onlyGivenNames n pc
  split
  · exact h2.badTrap
  · split
    · rename_i hq
      exact h2.futures.error hq
    · rename_i hq2
      have hp := h2.futures.ok_fst hq2
      split
      · exact hp.frameStall
      · refine hp.withRelease (fun t h3 => ?_)
        extract_lets +onlyGivenNames awb s1
        have h4 : s1.Canon but := h3.setPending
        split
        rename_i hq3
        exact (h4.child.of_pair hq3).modFrame.foldl (fun _ _ h5 => h5.request.push)

/-! ## AWAIT (R355, R107) -/

theorem State.Canon.execAwait {h : Hdr} {b : TBody} (hs : s.Canon but) :
    OutcomeCanon but (execAwait h b s) := by
  unfold Machine.execAwait
  refine hs.issueWith (fun e2 h2 => ?_)
  extract_lets +onlyGivenNames awb
  split
  · exact h2.takeAwait
  · exact h2.hold

/-! ## REORDER (R360, R190 to R192) -/

theorem State.Canon.deal {core cid asid : Nat} {b : TBody} {parts : List Part} (hs : s.Canon but) :
    (s.deal core cid asid b parts).Canon but := by
  unfold State.deal
  extract_lets +onlyGivenNames parts1 src split0 lanes union low d s1
  have h : s1.Canon but := hs.same
  extract_lets +onlyGivenNames s2
  have h2 : s2.Canon but := h.modCore
  refine h2.foldl (fun t a2 h3 => ?_)
  split
  extract_lets +onlyGivenNames mine pc g g1 s3
  have h4 : s3.Canon but := h3.modFrame
  split
  · exact h4.push
  · exact h4

theorem State.Canon.execReorderRendezvous {core slot : Nat} (hs : s.Canon but) :
    OutcomeCanon but (execReorderRendezvous core slot s) := by
  unfold Machine.execReorderRendezvous
  split
  · exact hs
  · split
    · exact hs
    · extract_lets +onlyGivenNames parts
      clear_value parts
      split
      · exact hs
      · split
        · exact hs
        · split
          · exact hs.deal
          · exact hs

theorem State.Canon.execReorder {h : Hdr} {b : TBody} (hs : s.Canon but) :
    OutcomeCanon but (execReorder h b s) := by
  unfold Machine.execReorder
  refine hs.issueAny (fun e2 h2 => ?_)
  split
  · exact h2
  · split
    · exact h2.hold
    · extract_lets +onlyGivenNames awb
      split
      · exact h2.hold
      · extract_lets +onlyGivenNames s1
        have h3 : s1.Canon but := h2.takeAwait
        split
        · exact h3
        · extract_lets +onlyGivenNames launch others
          split
          · exact h3
          · refine h3.withRelease (fun t h4 => ?_)
            extract_lets +onlyGivenNames s2
            have h5 : s2.Canon but := h4.modGroup
            split
            · exact h5.push.hold
            · split
              · exact h5.deal
              · exact h5

/-! ## TIME (R361) -/

theorem State.Canon.execTime {h : Hdr} {b : TBody} (hs : s.Canon but) :
    OutcomeCanon but (execTime h b s) :=
  hs.issueWith (fun _ h2 => h2.later)

end

end Sys2Proof.Machine
end

section
/-! SUPPORT. The memories stay in canonical form: maintenance and what it asks of cores. -/

-- One lemma at a time: the lemmas of this part at once take more threads than the memory has room for.
set_option Elab.async false

namespace Sys2Proof.Machine

section
variable {but : Option Nat} {s : State}

/-! ## Replacement (R170) -/

theorem State.Canon.evictLine {core : Nat} {l : RegLine} (hs : s.Canon but) :
    (s.evictLine core l).Canon but := by
  unfold State.evictLine
  extract_lets +onlyGivenNames s1
  have h : s1.Canon but := hs.modCore
  split
  · exact h
  · split
    · exact h
    · split
      · exact h
      · exact h.homeWrite.modGroup

theorem State.Canon.roomForLine {core : Nat} (hs : s.Canon but) :
    OptionCanon but id (s.roomForLine core) := by
  unfold State.roomForLine
  extract_lets +onlyGivenNames lines
  split
  · exact hs
  · extract_lets +onlyGivenNames old
    split
    · exact hs.evictLine
    · exact .map_all fun _ => hs.evictLine

theorem State.Canon.fetchLines {cid h : Nat} {p : Nat → Bool} (hs : s.Canon but) :
    (s.fetchLines cid h p).Canon but := by
  unfold State.fetchLines
  split
  · exact hs
  · refine hs.foldl (fun t a2 h2 => ?_)
    split
    rename_i hq
    exact (h2.homeRead.of_pair hq).modGroup

theorem State.Canon.fetchAll {cid : Nat} (hs : s.Canon but) :
    (s.fetchAll cid).Canon but := by
  unfold State.fetchAll
  split
  · exact hs
  · refine hs.foldl (fun t a2 h => ?_)
    split
    · exact h
    · exact h.fetchLines

theorem State.Canon.execRegisterLineFill {core : Nat} {line : RegLine} (hs : s.Canon but) :
    OutcomeCanon but (execRegisterLineFill core line s) := by
  unfold Machine.execRegisterLineFill
  split
  · exact hs
  · split
    · exact hs
    · rename_i hq
      exact (hs.roomForLine.some_id hq).fetchLines.modCore.wakeAccess

/-! ## Delivery (R430, R431, R439) -/

theorem State.Canon.serve {id : Nat} {act : Req → State → State} (hs : s.Canon but) (hact : ∀ a s, s.Canon but → (act a s).Canon but) :
    (s.serve id act).Canon but := by
  unfold State.serve
  split
  · exact hs
  · split
    · exact (hact _ _ hs).answered
    · split
      · exact hs.answered
      · exact hs

theorem State.Canon.modReq {id : Nat} {f : Req → Req} (hs : s.Canon but) :
    (s.modReq id f).Canon but :=
  hs.same

theorem State.Canon.giveLoads {id : Nat} {x : Line} (hs : s.Canon but) :
    (s.giveLoads id x).Canon but := by
  unfold State.giveLoads
  refine hs.foldl (fun t a2 h => ?_)
  split
  · exact h.answer.answered
  · exact h

theorem State.Canon.endRead {r : Req} (hs : s.Canon but) :
    (s.endRead r).Canon but :=
  (hs.foldl (fun _ _ h => h.answered)).answered

theorem State.Canon.execL2Read {id : Nat} (hs : s.Canon but) :
    OutcomeCanon but (execL2Read id s) := by
  unfold Machine.execL2Read
  split
  · exact hs
  · split
    · split
      · split
        rename_i hq
        exact (hs.homeReadBy.of_pair hq).modReq.push
      · split
        · exact hs.endRead
        · exact hs
    · split
      · extract_lets +onlyGivenNames s1
        have h : s1.Canon but := by
          unfold s1
          split
          · exact hs.fillL1
          · exact hs
        exact h.giveLoads.answered
      · exact hs
    · exact hs.serve (fun _ _ h => h.homeRead)
    · exact hs

theorem State.Canon.execL2Registration {id : Nat} (hs : s.Canon but) :
    OutcomeCanon but (execL2Registration id s) := by
  unfold Machine.execL2Registration
  refine hs.serve (fun a2 t h => ?_)
  split
  · split
    · split
      · exact h
      · exact h.homeRegister.modCore
    · exact h
  · exact h

theorem State.Canon.execL2WritebackMerge {id : Nat} (hs : s.Canon but) :
    OutcomeCanon but (execL2WritebackMerge id s) := by
  unfold Machine.execL2WritebackMerge
  refine hs.serve (fun a2 t h => ?_)
  split
  · exact h.mergeBack
  · exact h

theorem State.Canon.execL2Atomic {id : Nat} (hs : s.Canon but) :
    OutcomeCanon but (execL2Atomic id s) := by
  unfold Machine.execL2Atomic
  refine hs.serve (fun a2 t h => ?_)
  split
  · split
    rename_i hq
    exact (h.homeAtomic.of_pair hq).answer
  · exact h

theorem State.Canon.copyAnswered {r : Req} {performed : Bool} (hs : s.Canon but) :
    (s.copyAnswered r performed).Canon but := by
  unfold State.copyAnswered
  split
  · split
    · exact hs
    · exact hs.sentBeat
  · exact hs

theorem State.Canon.execL2Reduction {id : Nat} (hs : s.Canon but) :
    OutcomeCanon but (execL2Reduction id s) := by
  unfold Machine.execL2Reduction
  split
  · exact hs
  · extract_lets +onlyGivenNames t
    have h : t.Canon but := by
      unfold t
      refine hs.serve (fun a2 t2 h => ?_)
      split
      · exact h.homeReduce
      · exact h
    exact h.copyAnswered

theorem State.Canon.bankOperation {id : Nat} (hs : s.Canon but) :
    (s.bankOperation id).Canon but := by
  unfold State.bankOperation
  refine hs.serve (fun a2 t h => ?_)
  split
  · exact h.answer
  · exact h.ofAtrium (Mem.writeBytes_wf _ h.atriumWf _)
  · exact (h.ofAtrium (Mem.writeN_wf _ h.atriumWf _ _)).answer
  · exact h.ofAtrium (Mem.writeN_wf _ h.atriumWf _ _)
  · exact h

theorem State.Canon.execAtriumBankOperation {id : Nat} (hs : s.Canon but) :
    OutcomeCanon but (execAtriumBankOperation id s) := by
  unfold Machine.execAtriumBankOperation
  split
  · exact hs
  · exact hs.bankOperation.copyAnswered

theorem State.Canon.execL1ForwardRequest {core asid line : Nat} (hs : s.Canon but) :
    OutcomeCanon but (execL1ForwardRequest core asid line s) := by
  unfold Machine.execL1ForwardRequest
  split
  · split
    · exact hs.forward
    · exact hs
  · exact hs

theorem State.Canon.execMemoryControllerRequest {line : Nat} {write : Bool} (hs : s.Canon but) :
    OutcomeCanon but (execMemoryControllerRequest line write s) := by
  unfold Machine.execMemoryControllerRequest
  split
  · exact hs
  · split
    · exact hs.evictL2
    · split
      · exact hs
      · exact hs.allocate

/-! ## NAK (R430, R431) -/

theorem State.Canon.execFlitAgeLimit {id : Nat} (hs : s.Canon but) :
    OutcomeCanon but (execFlitAgeLimit id s) := by
  unfold Machine.execFlitAgeLimit
  split
  · exact hs
  · split
    · exact hs
    · extract_lets +onlyGivenNames i d src
      have h : src.Canon but := hs.modReq
      clear_value src
      exact h.same

theorem State.Canon.execNakResend {id : Nat} (hs : s.Canon but) :
    OutcomeCanon but (execNakResend id s) := by
  unfold Machine.execNakResend
  split
  · exact hs
  · split
    · exact hs.modReq.push
    · exact hs

/-! ## Results (R241, R243) -/

theorem State.Canon.writeResults {core slot : Nat} {f : Group → Group} (hs : s.Canon but) :
    (s.writeResults core slot f).Canon but := by
  unfold State.writeResults
  split
  · exact hs
  · split
    · exact hs.modGroup.rejoin
    · exact hs

/-! ## Fault records (R33) -/

theorem State.Canon.recordPosted {r : FaultRec} {left : List FaultRec} (hs : s.Canon but) :
    (s.recordPosted r left).Canon but := by
  unfold State.recordPosted
  split
  · exact hs
  · split
    · exact hs
    · exact hs.modSplit

theorem State.Canon.postFaults {core : Nat} {l : List FaultRec} (hs : s.Canon but) :
    (State.postFaults core l s).Canon but := by
  induction l generalizing s with
  | nil =>
    unfold State.postFaults
    exact hs.modCore
  | cons a l ih =>
    unfold State.postFaults
    split
    · rename_i hq
      exact ih (hs.deliverFault.of_pair hq).recordPosted
    · rename_i hq2
      exact (hs.deliverFault.of_pair hq2).modCore

/-! ## Scope and recipients -/

theorem State.Canon.broadcast {m : MaintOp} (hs : s.Canon but) :
    (s.broadcast m).Canon but :=
  hs.pushAll

theorem State.Canon.modMaint {id : Nat} {f : MaintOp → MaintOp} (hs : s.Canon but) :
    (s.modMaint id f).Canon but :=
  hs.same

theorem State.Canon.beginMaint {m : MaintOp} (hs : s.Canon but) :
    (s.beginMaint m).Canon but :=
  hs.same.broadcast

theorem State.Canon.startMaint {inv : Bool} {scope asid lo hi vf : Nat} {owner : MaintFor} (hs : s.Canon but) :
    (s.startMaint inv scope asid lo hi vf owner).1.Canon but := by
  unfold State.startMaint
  extract_lets +onlyGivenNames id m s'
  have h : s'.Canon but := hs.same
  split
  · exact h
  · exact h.beginMaint

/-! ## Completion -/

theorem State.Canon.finishCommand {vf status : Nat} (hs : s.Canon but) :
    (s.finishCommand vf status).Canon but :=
  (hs.ofHost (Mem.writeN_wf _ hs.hostWf _ _)).modFn

theorem State.Canon.maintDone {m : MaintOp} (hs : s.Canon but) :
    (s.maintDone m).Canon but := by
  unfold State.maintDone
  split
  · exact hs.wakeAll
  · split
    · exact hs.finishCommand
    · exact hs
  · exact hs.push
  · exact hs

theorem State.Canon.endMaint {m : MaintOp} (hs : s.Canon but) :
    (s.endMaint m).Canon but := by
  unfold State.endMaint
  extract_lets +onlyGivenNames done served s1
  have h : s1.Canon but := hs.same.foldl (fun _ _ h => h.maintDone)
  refine h.foldl (fun t a2 h2 => ?_)
  split
  · split
    · exact h2
    · exact h2.beginMaint
  · exact h2

/-! ## At a recipient of TLBINV (R37) -/

theorem State.Canon.mapResident {core : Nat} {p : Ctx → Bool} {f : Group → Group} (hs : s.Canon but) :
    (s.mapResident core p f).Canon but :=
  hs.same

theorem State.Canon.invalidate {m : MaintOp} {core : Nat} (hs : s.Canon but) :
    (s.invalidate m core).Canon but :=
  (hs.foldl (fun _ _ h => h.evictL1)).modCore.mapResident

theorem State.Canon.execTlbinvReceive {op rcp : Nat} (hs : s.Canon but) :
    OutcomeCanon but (execTlbinvReceive op rcp s) := by
  unfold Machine.execTlbinvReceive
  split
  · exact hs
  · split
    · exact hs
    · extract_lets +onlyGivenNames s1
      have h : s1.Canon but := by
        unfold s1
        split
        · exact hs.invalidate
        · exact hs
      exact h.modMaint.push

theorem State.Canon.dropFilled {m : MaintOp} {core : Nat} (hs : s.Canon but) :
    (s.dropFilled m core).Canon but := by
  unfold State.dropFilled
  extract_lets +onlyGivenNames has
  split
  · exact hs.modCore
  · exact hs

theorem State.Canon.execTlbinvDrainAck {op rcp : Nat} (hs : s.Canon but) :
    OutcomeCanon but (execTlbinvDrainAck op rcp s) := by
  unfold Machine.execTlbinvDrainAck
  split
  · exact hs
  · split
    · exact hs
    · split
      · exact hs
      · extract_lets +onlyGivenNames s1
        have h : s1.Canon but := hs.dropFilled
        extract_lets +onlyGivenNames left s2
        have h2 : s2.Canon but := h.modMaint
        split
        · exact h2.push
        · exact h2

theorem State.Canon.execTlbinvComplete {op : Nat} (hs : s.Canon but) :
    OutcomeCanon but (execTlbinvComplete op s) := by
  unfold Machine.execTlbinvComplete
  split
  · exact hs
  · split
    · exact hs.endMaint
    · exact hs

/-! ## At a recipient of MAPQ (R366) -/

theorem State.Canon.readyWoken {core : Nat} {has : Nat → Bool} (hs : s.Canon but) :
    (s.readyWoken core has).Canon but := by
  unfold State.readyWoken
  refine hs.foldl (fun t a2 h => h.foldl (fun t2 a3 h2 => ?_))
  split
  extract_lets +onlyGivenNames woken
  split
  · exact h2.readyFrame
  · exact h2

theorem State.Canon.wakeEngines {m : MaintOp} {core : Nat} {has : Nat → Bool} (hs : s.Canon but) :
    (s.wakeEngines m core has).Canon but :=
  ((hs.foldl (fun _ _ h => h.modCopy.pushAll)).foldl (fun _ _ h => h.modOp.push)).foldl (fun _ _ h => h.modCtx.rearm)

theorem State.Canon.execMapqNoticeReceive {op rcp : Nat} (hs : s.Canon but) :
    OutcomeCanon but (execMapqNoticeReceive op rcp s) := by
  unfold Machine.execMapqNoticeReceive
  split
  · exact hs
  · split
    · exact hs
    · extract_lets +onlyGivenNames has s1
      have h : s1.Canon but := hs.mapResident
      extract_lets +onlyGivenNames s2
      have h2 : s2.Canon but := by
        unfold s2
        split
        · exact h.readyWoken.wakeEngines.modCore
        · exact hs
      extract_lets +onlyGivenNames left s3
      have h3 : s3.Canon but := h2.modMaint
      split
      · exact h3.push
      · exact h3

theorem State.Canon.execMapqComplete {op : Nat} (hs : s.Canon but) :
    OutcomeCanon but (execMapqComplete op s) := by
  unfold Machine.execMapqComplete
  split
  · exact hs
  · split
    · exact hs.endMaint
    · exact hs

/-! ## The instructions (R365, R366) -/

theorem State.Canon.writeBack {e : Env} (hs : s.Canon but) :
    (e.writeBack s).Canon but :=
  hs.foldl (fun _ _ h => h.sendBack.modCore)

theorem State.Canon.maintain {i : Instr} {h : Hdr} {b : TBody} {inv : Bool} (hs : s.Canon but) :
    OutcomeCanon but (maintain i h b inv s) := by
  unfold Machine.maintain
  refine hs.issueWith (fun e2 h2 => ?_)
  extract_lets +onlyGivenNames a
  split
  · split
    · exact h2.hold
    · exact h2
  · split
    · exact h2.badTrap
    · split
      · exact h2.badTrap
      · split
        rename_i hq
        split
        · refine State.Canon.violate (.of_pair ?_ hq)
          split
          · exact h2
          · exact h2.asidEntry
        · extract_lets +onlyGivenNames s1
          have h3 : s1.Canon but := by
            unfold s1
            refine .writeBack (.of_pair ?_ hq)
            split
            · exact h2
            · exact h2.asidEntry
          split
          · exact h3.hold
          · split
            · exact h3
            · split
              rename_i hq2
              exact (h3.startMaint.of_pair hq2).hold

end

end Sys2Proof.Machine
end

section
/-! SUPPORT. The memories stay in canonical form: the Porter, halts, saves and restores. -/

-- One lemma at a time: the lemmas of this part at once take more threads than the memory has room for.
set_option Elab.async false

namespace Sys2Proof.Machine

section
variable {but : Option Nat} {s : State}

/-! ## The Porter's own accesses -/

theorem State.Canon.porterXlate {vf asid : Nat} {sup : Bool} {k : Kind} {acc : Accept} {va : W64} (hs : s.Canon but) :
    (s.porterXlate vf asid sup k acc va).1.Canon but := by
  unfold State.porterXlate
  split
  · exact hs
  · split
    · exact hs
    · split
      · rename_i hq
        exact hs.walk.of_pair hq
      · rename_i hq2
        exact hs.walk.of_pair hq2

theorem State.Canon.writeRecord {vf asid die : Nat} {sup : Bool} {va : W64} {r : CompRec} (hs : s.Canon but) :
    (s.writeRecord vf asid die sup va r).1.Canon but := by
  unfold State.writeRecord
  split
  · rename_i hq
    exact (hs.porterXlate.of_pair hq).writeAt
  · rename_i hq2
    exact hs.porterXlate.of_pair hq2
  · rename_i hq3
    exact hs.porterXlate.of_pair hq3

theorem State.Canon.recordFault {vf die cid : Nat} {c : FaultCode} (hs : s.Canon but) :
    (s.recordFault vf die cid c).Canon but := by
  unfold State.recordFault
  split
  · exact hs
  · exact hs.postEvent

/-! ## Choosing a record (R373) -/

theorem State.Canon.eligible {q : Nat} (hs : s.Canon but) :
    (s.eligible q).1.Canon but := by
  unfold State.eligible
  split
  rename_i hq
  exact hs.queue.of_pair hq

theorem State.Canon.selectFrom {l : List Nat} {o : Option Pick} (hs : s.Canon but) :
    (State.selectFrom l o s).1.Canon but := by
  induction l generalizing o s with
  | nil => exact hs
  | cons a l ih =>
    rw [State.selectFrom]
    split
    · rename_i hq
      exact ih (hs.eligible.of_pair hq)
    · rename_i hq
      exact ih (hs.eligible.of_pair hq)

/-! ## Refusal and admission (R374, R375) -/

theorem State.Canon.refuse {hall q vf : Nat} {sup : Bool} {r : LaunchRec} {cause : Nat} (hs : s.Canon but) :
    (s.refuse hall q vf sup r cause).Canon but := by
  unfold State.refuse
  extract_lets +onlyGivenNames s1
  have h : s1.Canon but := by
    unfold s1
    split
    · exact hs.writeRecord
    · exact hs
  exact h.postEvent

theorem State.Canon.enrol {hall q vf prio : Nat} {sup : Bool} {r : LaunchRec} {b : LaunchBlock} {handler : Bool} (hs : s.Canon but) :
    (s.enrol hall q vf prio sup r b handler).Canon but := by
  unfold State.enrol
  extract_lets +onlyGivenNames cid host s1
  extract_lets +onlyGivenNames s2
  have h : s2.Canon but := hs.same
  extract_lets +onlyGivenNames s3
  have h2 : s3.Canon but := h.modPorter
  split
  · exact h2.postEvent
  · exact h2.push

theorem State.Canon.readBlock {vf : Nat} {sup : Bool} {r : LaunchRec} (hs : s.Canon but) :
    (s.readBlock vf sup r).1.Canon but := by
  unfold State.readBlock
  split
  · exact hs
  · split
    · rename_i hq
      split
      rename_i hq2
      exact (hs.porterXlate.of_pair hq).readMem.of_pair hq2
    · rename_i hq3
      exact hs.porterXlate.of_pair hq3

theorem State.Canon.launch {hall q vf prio x : Nat} {handler : Bool} {need : W64 → LaunchRec → Bool} (hs : s.Canon but) :
    (s.launch hall q vf prio x handler need).1.Canon but := by
  unfold State.launch
  extract_lets +onlyGivenNames r
  split
  · exact hs.refuse
  · split
    · exact hs.refuse
    · split
      rename_i hq
      have hp := hs.asidEntry.of_pair hq
      extract_lets +onlyGivenNames sup
      split
      · exact hp.refuse
      · split
        · split
          · exact hp
          · exact hp.writeRecord
        · split
          · rename_i hq2
            exact (hp.readBlock.of_pair hq2).refuse
          · rename_i hq3
            have hp2 := hp.readBlock.of_pair hq3
            split
            · exact hp2.refuse
            · split
              · exact hp2.refuse
              · split
                · exact hp2.refuse
                · exact hp2.enrol

theorem State.Canon.execPorterRecordSelect {hall : Nat} (hs : s.Canon but) :
    OutcomeCanon but (execPorterRecordSelect hall s) := by
  unfold Machine.execPorterRecordSelect
  split
  · exact hs
  · split
    · rename_i hq
      exact hs.selectFrom.of_pair hq
    · rename_i hq2
      have hp := hs.selectFrom.of_pair hq2
      split
      rename_i hq3
      have hp2 := hp.readMem.of_pair hq3
      exact hp2.unlessFull hp2.writeMem.launch.push

/-! ## Placement (R375, R377) -/

theorem State.Canon.StatePlace {cid : Nat} {r : Rect} (hs : s.Canon but) :
    (s.place cid r).Canon but := by
  unfold State.place
  split
  · exact hs
  · exact hs.setCtx.pushAll

theorem State.Canon.execContextPlacement {q : Nat} {origin : Origin} (hs : s.Canon but) :
    OutcomeCanon but (execContextPlacement q origin s) := by
  unfold Machine.execContextPlacement
  split
  · exact hs
  · split
    · exact hs
    · extract_lets +onlyGivenNames fixed
      split
      · split
        · exact hs
        · split
          · exact hs.StatePlace
          · split
            · exact hs.StatePlace
            · exact hs
      · extract_lets +onlyGivenNames r
        split
        · exact hs
        · exact hs.StatePlace

/-! ## Reservation and commit (R376, R378) -/

theorem State.Canon.reserve {c : Ctx} {crew : Nat} {k : Crew} {slots : List Nat} {a t : Nat} (hs : s.Canon but) :
    (s.reserve c crew k slots a t).Canon but :=
  hs.modCrew.foldl (fun _ _ h => h.modCore)

theorem State.Canon.commitCrew {cid crew : Nat} (hs : s.Canon but) :
    (s.commitCrew cid crew).Canon but := by
  unfold State.commitCrew
  split
  · exact hs
  · split
    · exact hs
    · exact hs.modCrew.modCore.push

theorem State.Canon.unhold {cid : Nat} (hs : s.Canon but) :
    (s.unhold cid).Canon but := by
  unfold State.unhold
  split
  · exact hs.same.pushAll
  · exact hs

theorem State.Canon.commitReady {cid : Nat} (hs : s.Canon but) :
    (s.commitReady cid).Canon but := by
  unfold State.commitReady
  split
  · exact hs
  · extract_lets +onlyGivenNames ready
    split
    · exact hs
    · extract_lets +onlyGivenNames s1
      have h : s1.Canon but := hs.modCtx
      extract_lets +onlyGivenNames s2
      have h2 : s2.Canon but := h.foldl (fun _ _ h2 => h2.commitCrew)
      split
      · split
        · exact h2.unhold
        · exact h2
      · exact h2

theorem State.Canon.execResourceReservation {cid core : Nat} (hs : s.Canon but) :
    OutcomeCanon but (execResourceReservation cid core s) := by
  unfold Machine.execResourceReservation
  split
  · exact hs
  · split
    · exact hs
    · extract_lets +onlyGivenNames n
      split
      · exact hs
      · split
        · exact hs
        · split
          · exact hs
          · exact hs.reserve.commitReady

/-! ## The start of groups (R376, R44, R182) -/

theorem State.Canon.startGroup {cid : Nat} {c : Ctx} {core slot : Nat} {b : Bind} (hs : s.Canon but) :
    (s.startGroup cid c core slot b).Canon but := by
  unfold State.startGroup
  split
  · exact hs
  · extract_lets +onlyGivenNames g
    split
    rename_i hq
    exact (hs.newFrame.of_pair hq).modCore

theorem State.Canon.launchSweep {c : Ctx} {core : Nat} (hs : s.Canon but) :
    (s.launchSweep c core).Canon but :=
  hs.foldl (fun _ _ h => h.sweep)

theorem State.Canon.execGroupStart {cid core : Nat} (hs : s.Canon but) :
    OutcomeCanon but (execGroupStart cid core s) := by
  unfold Machine.execGroupStart
  split
  · exact hs
  · extract_lets +onlyGivenNames n
    split
    · exact hs
    · split
      · exact hs
      · extract_lets +onlyGivenNames s1
        have h : s1.Canon but := hs.launchSweep
        extract_lets +onlyGivenNames s2
        have h2 : s2.Canon but := by
          unfold s2
          refine h.modCoreWf (fun c hc => ?_)
          exact Mem.clear_wf hc _ _
        exact h2.modCrew.foldl (fun _ _ h3 => h3.startGroup)

/-! ## Completion (R111, R184, R380, R381) -/

theorem State.Canon.porterResolve {c : Ctx} {die core : Nat} {va : W64} {status cause : Nat} {σ : SigBits} (hs : s.Canon but) :
    (s.porterResolve c die core va status cause σ).Canon but := by
  unfold State.porterResolve
  split
  · rename_i hq
    split
    rename_i hq2
    exact ((hs.porterXlate.of_pair hq).sendSig.of_pair hq2).send.push
  · rename_i hq3
    exact (hs.porterXlate.of_pair hq3).recordFault
  · rename_i hq4
    exact hs.porterXlate.of_pair hq4

theorem State.Canon.releaseCrew {cid crew : Nat} (hs : s.Canon but) :
    (s.releaseCrew cid crew).Canon but := by
  unfold State.releaseCrew
  split
  · exact hs
  · exact hs.modCrew.modCore.retryReservations.pushAll

theorem State.Canon.recordCrew {cid crew status cause : Nat} (hs : s.Canon but) :
    (s.recordCrew cid crew status cause).Canon but := by
  unfold State.recordCrew
  split
  · exact hs
  · split
    · exact hs
    · extract_lets +onlyGivenNames die
      split
      rename_i hq
      extract_lets +onlyGivenNames s1
      have h : s1.Canon but := by
        unfold s1
        split
        · refine .of_pair ?_ hq
          split
          · exact hs
          · split
            · rename_i hq2
              exact hs.writeRecord.of_pair hq2
            · rename_i hq3
              exact (hs.writeRecord.of_pair hq3).recordFault
        · refine .porterResolve (.of_pair ?_ hq)
          split
          · exact hs
          · split
            · rename_i hq4
              exact hs.writeRecord.of_pair hq4
            · rename_i hq5
              exact (hs.writeRecord.of_pair hq5).recordFault
      exact h.modCrew

theorem State.Canon.areaSig {c : Ctx} (hs : s.Canon but) :
    (Ctx.areaSig s c).1.Canon but := by
  unfold Ctx.areaSig
  split
  · exact hs
  · refine hs.foldl_fst (fun a a2 h => ?_)
    split
    · rename_i hq
      exact h.porterXlate.of_pair hq
    · rename_i hq2
      exact h.porterXlate.of_pair hq2

theorem State.Canon.dropCtx {cid : Nat} (hs : s.Canon but) :
    (s.dropCtx cid).Canon but := by
  unfold State.dropCtx
  extract_lets +onlyGivenNames s1
  have h : s1.Canon but := hs.mapCores
  exact h.wakeAll

theorem State.Canon.finishLaunch {cid core status cause : Nat} (hs : s.Canon but) :
    (s.finishLaunch cid core status cause).Canon but := by
  unfold State.finishLaunch
  split
  · exact hs
  · split
    · exact hs
    · extract_lets +onlyGivenNames die count s1
      have h : s1.Canon but := by
        unfold s1
        split
        · exact hs
        · split
          · rename_i hq
            exact hs.writeRecord.of_pair hq
          · rename_i hq2
            exact (hs.writeRecord.of_pair hq2).recordFault
      extract_lets +onlyGivenNames s2
      have h2 : s2.Canon but := by
        unfold s2
        split
        · exact h
        · split
          rename_i hq3
          exact (h.areaSig.of_pair hq3).porterResolve
      exact h2.modCtx

theorem State.Canon.closeCtx {cid : Nat} (hs : s.Canon but) :
    (s.closeCtx cid).Canon but := by
  unfold State.closeCtx
  split
  · exact hs
  · split
    · exact hs
    · extract_lets +onlyGivenNames s1
      have h : s1.Canon but := hs.unhold.dropCtx
      split
      · exact h.modFn.push
      · exact h

theorem State.Canon.execCrewCompletion {cid crew : Nat} (hs : s.Canon but) :
    OutcomeCanon but (execCrewCompletion cid crew s) := by
  unfold Machine.execCrewCompletion
  split
  · exact hs
  · split
    · exact hs
    · split
      · exact hs
      · extract_lets +onlyGivenNames s1
        have h : s1.Canon but := by
          unfold s1
          split
          · exact hs.recordCrew.finishLaunch
          · exact hs
        split
        · exact h
        · split
          · exact h
          · split
            · exact h.releaseCrew.closeCtx
            · exact h

/-! ## Handler launches (R384) -/

theorem State.Canon.ringWaits {vf : Nat} (hs : s.Canon but) :
    (s.ringWaits vf).1.Canon but := by
  unfold State.ringWaits
  split
  · rename_i hq
    exact hs.privQueue.of_pair hq
  · rename_i hq2
    exact hs.privQueue.of_pair hq2

theorem State.Canon.execHandlerLaunchStart {vf : Nat} (hs : s.Canon but) :
    OutcomeCanon but (execHandlerLaunchStart vf s) := by
  unfold Machine.execHandlerLaunchStart
  refine hs.unlessFull ?_
  extract_lets +onlyGivenNames f hall
  split
  · exact hs
  · split
    · rename_i hq
      exact hs.ringWaits.of_pair hq
    · rename_i hq2
      have hp := hs.ringWaits.of_pair hq2
      extract_lets +onlyGivenNames asid
      split
      rename_i hq3
      have hp2 := hp.asidEntry.of_pair hq3
      extract_lets +onlyGivenNames off
      have h : ∀ s a a2, s.Canon but → (off s a a2).Canon but := fun _ _ _ h => h.refuse.modFn
      split
      · exact h _ _ _ hp2
      · split
        · exact h _ _ _ hp2
        · split
          · rename_i hq4
            have hp3 := hp2.porterXlate.of_pair hq4
            split
            rename_i hq5
            have hp4 := hp3.readMem.of_pair hq5
            extract_lets +onlyGivenNames cid
            split
            · rename_i hq6
              exact (hp4.launch.of_pair hq6).modFn
            · rename_i hq7
              exact (hp4.launch.of_pair hq7).modFn
          · rename_i hq8
            exact h _ _ _ (hp2.porterXlate.of_pair hq8)

/-! ## Windows of time (R373, R377) -/

theorem State.Canon.charge {u : Nat} (hs : s.Canon but) :
    (s.charge u).Canon but := by
  unfold State.charge
  generalize Vector.ofFn _ = fns
  exact hs.same

theorem State.Canon.restartShares (hs : s.Canon but) :
    (s.restartShares).Canon but := by
  unfold State.restartShares
  split
  · exact hs.same
  · exact hs

theorem State.Canon.restartBudgets (hs : s.Canon but) :
    (s.restartBudgets).Canon but := by
  unfold State.restartBudgets
  split
  · exact hs.same
  · exact hs

/-! ## Sections whose layout is the model's (assumption 52) -/

theorem State.Canon.materialise {cid st : Nat} (hs : s.Canon but) :
    (s.materialise cid st).Canon but := by
  unfold State.materialise
  extract_lets +onlyGivenNames s1
  have h : s1.Canon but := hs.fetchAll
  split
  · exact h
  · exact h.setCtx

/-! ## What a core does when it stops work of a context -/

theorem State.Canon.endAccess {f : Focus} (hs : s.Canon but) :
    (s.endAccess f).Canon but := by
  unfold State.endAccess
  split
  · split
    · exact hs.next
    · exact hs
  · exact hs

theorem State.Canon.settleResults {cid core : Nat} (hs : s.Canon but) :
    (s.settleResults cid core).Canon but := by
  unfold State.settleResults
  refine hs.foldl (fun t a2 h => ?_)
  split
  · split
    · exact (h.foldl (fun _ _ h2 => h2.endAccess)).flushResults.modGroup
    · exact h
  · exact h

theorem State.Canon.takeEngines {cid core : Nat} (hs : s.Canon but) :
    (s.takeEngines cid core).Canon but :=
  hs.wholePrimitives.modCore.modCtx.rearm

/-! ## Stop records (R393, R394) -/

theorem State.Canon.countStops {cid : Nat} (hs : s.Canon but) :
    (s.countStops cid).Canon but :=
  hs.modCtx

/-! ## The halt (R391) -/

theorem State.Canon.execHaltLineArrival {cid core : Nat} (hs : s.Canon but) :
    OutcomeCanon but (execHaltLineArrival cid core s) := by
  unfold Machine.execHaltLineArrival
  split
  · exact hs
  · split
    · exact hs
    · exact hs.setCtx.push

theorem State.Canon.registerAll {cid core : Nat} (hs : s.Canon but) :
    (s.registerAll cid core).Canon but := by
  unfold State.registerAll
  split
  · exact hs
  · exact hs.foldl (fun _ _ h => h.flushBacks.homeRegister.modCore)

theorem State.Canon.execHaltSettle {cid core : Nat} (hs : s.Canon but) :
    OutcomeCanon but (execHaltSettle cid core s) := by
  unfold Machine.execHaltSettle
  split
  · exact hs
  · split
    · exact hs
    · extract_lets +onlyGivenNames s1
      have h : s1.Canon but := hs.settleResults.takeEngines.registerAll
      split
      · exact h
      · extract_lets +onlyGivenNames c s2
        have h2 : s2.Canon but := h.setCtx
        split
        · exact h2.push
        · exact h2

/-! ## The kill (R363, R397) -/

theorem State.Canon.freeCores {cid : Nat} (hs : s.Canon but) :
    (s.freeCores cid).Canon but := by
  unfold State.freeCores
  extract_lets +onlyGivenNames mine held s1
  have h : s1.Canon but := hs.mapCores
  exact h.foldl fun _ _ h => h.rearm

theorem State.Canon.wakeHaltc {cid : Nat} (hs : s.Canon but) :
    (s.wakeHaltc cid).Canon but :=
  hs.wakeAll

theorem State.Canon.kill {cid : Nat} (hs : s.Canon but) :
    (s.kill cid).Canon but := by
  unfold State.kill
  split
  · exact hs
  · split
    extract_lets +onlyGivenNames c c1 s1
    have h : s1.Canon but := hs.setCtx
    extract_lets +onlyGivenNames open_ s2
    have h2 : s2.Canon but := h.foldl (fun _ _ h2 => h2.recordCrew)
    extract_lets +onlyGivenNames s3
    have h3 : s3.Canon but := h2.finishLaunch
    extract_lets +onlyGivenNames cores s4
    have h4 : s4.Canon but := h3.freeCores
    extract_lets +onlyGivenNames s5
    have h5 : s5.Canon but := h4.modCtx
    extract_lets +onlyGivenNames s6
    have h6 : s6.Canon but := (h5.unhold.foldl (fun _ _ h6 => h6.retryReservations)).wakeHaltc
    split
    · exact h6.modFn.push
    · exact h6

theorem State.Canon.postHalt {cid : Nat} (hs : s.Canon but) :
    (s.postHalt cid).Canon but := by
  unfold State.postHalt
  split
  · exact hs
  · exact hs.postEventOn

theorem State.Canon.execContextHalted {cid : Nat} (hs : s.Canon but) :
    OutcomeCanon but (execContextHalted cid s) := by
  unfold Machine.execContextHalted
  split
  · exact hs
  · split
    · exact hs
    · extract_lets +onlyGivenNames s1
      have h : s1.Canon but := hs.setCtx
      extract_lets +onlyGivenNames s2
      have h2 : s2.Canon but := h.materialise.postHalt
      refine State.Canon.wakeHaltc ?_
      split
      · exact h2.kill
      · exact h2

/-! ## The resume (R396, R363) -/

theorem State.Canon.absorb {cid : Nat} (hs : s.Canon but) :
    (s.absorb cid).Canon but :=
  hs.recallImage.modCtx

theorem State.Canon.returnCopy {c : Ctx} {r : CopyRec} (hs : s.Canon but) :
    (s.returnCopy c r).Canon but := by
  unfold State.returnCopy
  extract_lets +onlyGivenNames r1 n s1
  have h : s1.Canon but := hs.modCore
  split
  · exact h
  · split
    · exact h
    · split
      · rename_i hq
        exact (h.recheck.of_pair hq).copyFatal
      · rename_i hq2
        exact (h.recheck.of_pair hq2).pushAll

theorem State.Canon.returnEngines {cid : Nat} (hs : s.Canon but) :
    (s.returnEngines cid).Canon but := by
  unfold State.returnEngines
  split
  · exact hs
  · exact (hs.setCtx.foldl (fun _ _ h => h.returnCopy)).foldl (fun _ _ h => h.modCore.push)

theorem State.Canon.restartCore {cid core : Nat} (hs : s.Canon but) :
    (s.restartCore cid core).Canon but :=
  hs.pushAll.offer

theorem State.Canon.resume {cid : Nat} (hs : s.Canon but) :
    (s.resume cid).Canon but := by
  unfold State.resume
  extract_lets +onlyGivenNames s1
  have h : s1.Canon but := hs.absorb
  split
  · exact h
  · exact ((h.setCtx.foldl (fun _ _ h2 => h2.sweep)).returnEngines.foldl (fun _ _ h2 => h2.restartCore)).pushAll.commitReady.pushAll

/-! ## Single steps (R406) -/

theorem State.Canon.stepHalt {cid : Nat} (hs : s.Canon but) :
    (s.stepHalt cid).Canon but := by
  unfold State.stepHalt
  split
  · exact hs
  · split
    · exact hs
    · exact (hs.foldl (fun _ _ h => h.mapSplits)).modCtx.raiseHalt

/-! ## HALTC (R363) -/

theorem State.Canon.haltc {cid cmd : Nat} (hs : s.Canon but) :
    (s.haltc cid cmd).Canon but := by
  unfold State.haltc
  split
  · exact hs
  · split
    · exact hs
    · exact hs.raiseHalt
    · exact hs.raiseHalt
    · exact hs.raiseHalt
    · exact hs
    · exact hs
    · exact hs.resume
    · exact hs
    · exact hs
    · exact hs.kill
    · exact hs.kill
    · exact hs
    · exact hs
    · exact hs.raiseHalt.modCtx

theorem State.Canon.haltcFor {cid cmd : Nat} {me : Focus} (hs : s.Canon but) :
    (s.haltcFor cid cmd me).Canon but := by
  unfold State.haltcFor
  split
  · exact hs
  · extract_lets +onlyGivenNames l l1 s1
    have h : s1.Canon but := hs.setCtx
    split
    · exact h
    · split
      · rename_i hq
        exact h.haltc.wait hq
      · rename_i hq2
        exact (h.haltc.done hq2).modCtx.wakeHaltc

theorem State.Canon.haltcOp {i : Instr} {h : Hdr} {b : TBody} {cmd : Nat} (hs : s.Canon but) :
    OutcomeCanon but (haltcOp i h b cmd s) := by
  unfold Machine.haltcOp
  refine hs.issueWith (fun e2 h2 => ?_)
  extract_lets +onlyGivenNames cid answer
  have h3 : ∀ a s, s.Canon but → (answer a s).Canon but := fun _ _ h3 => h3.later
  extract_lets +onlyGivenNames go
  have h4 : ∀ s, s.Canon but → (go s).Canon but := by
    unfold go
    intro _ h4
    split
    · rename_i hq
      exact h3 _ _ (h4.haltcFor.done hq)
    · rename_i hq2
      exact (h4.haltcFor.wait hq2).hold
  split
  · exact h3 _ _ h2
  · split
    · exact h3 _ _ h2
    · split
      · exact h2.withRelease (fun _ h5 => h4 _ h5)
      · exact h4 _ h2

/-! ## CTXRD and CTXWR (R362) -/

theorem State.Canon.execCtxrd {h : Hdr} {b : TBody} (hs : s.Canon but) :
    OutcomeCanon but (execCtxrd h b s) := by
  unfold Machine.execCtxrd
  refine hs.issueWith (fun e2 h2 => ?_)
  extract_lets +onlyGivenNames cid sel
  split
  · exact h2.later
  · split
    · exact h2.later
    · extract_lets +onlyGivenNames stopped s1
      have h3 : s1.Canon but := by
        unfold s1
        split
        · exact h2.sweep
        · exact h2
      exact h3.later

theorem State.Canon.execCtxwr {h : Hdr} {b : TBody} (hs : s.Canon but) :
    OutcomeCanon but (execCtxwr h b s) := by
  unfold Machine.execCtxwr
  refine hs.issueWith (fun e2 h2 => ?_)
  extract_lets +onlyGivenNames cid
  split
  · exact h2
  · split
    · exact h2
    · extract_lets +onlyGivenNames d s1
      have h3 : s1.Canon but := h2.setCtx
      refine h3.foldl (fun t a2 h4 => ?_)
      split
      · exact h4.modCore
      · exact h4

/-! ## Frozen masters (R397) -/

theorem State.Canon.haltAll {cids : List Nat} (hs : s.Canon but) :
    (s.haltAll cids).Canon but :=
  hs.foldl (fun _ _ h => h.raiseHalt)

theorem State.Canon.execCorridorProtocolBreach {core : Nat} (hs : s.Canon but) :
    OutcomeCanon but (execCorridorProtocolBreach core s) := by
  unfold Machine.execCorridorProtocolBreach
  split
  · extract_lets +onlyGivenNames i
    split
    · exact hs
    · exact hs.same.postEventOn.haltAll
  · split
    · exact hs
    · exact hs.modCore.postEventOn.haltAll

/-! ## Pre-emption (R377, R401) -/

theorem State.Canon.waitToGallery {cid core : Nat} {w : WaitEnt} (hs : s.Canon but) :
    (s.waitToGallery cid core w).Canon but := by
  unfold State.waitToGallery
  split
  · exact hs
  · split
    · exact hs
    · extract_lets +onlyGivenNames s1
      have h : s1.Canon but := hs.modCore
      split
      · exact h
      · split
        · exact h
        · exact h.modFrame.enlist.modSplit

theorem State.Canon.cleanCore {core asid : Nat} (hs : s.Canon but) :
    (s.cleanCore core asid).Canon but :=
  hs.foldl (fun _ _ h => h.flushBacks.mergeBack.modCore)

theorem State.Canon.saveSlots {c : Ctx} (hs : s.Canon but) :
    (s.saveSlots c).Canon but := by
  unfold State.saveSlots
  extract_lets +onlyGivenNames mine
  split
  · exact hs
  · exact hs.modCtx.same

theorem State.Canon.saveCore {cid core : Nat} (hs : s.Canon but) :
    (s.saveCore cid core).Canon but := by
  unfold State.saveCore
  extract_lets +onlyGivenNames s1
  have h : s1.Canon but := hs.settleResults.takeEngines
  extract_lets +onlyGivenNames s2
  have h2 : s2.Canon but := h.foldl (fun _ _ h2 => h2.waitToGallery)
  split
  · exact h2
  · exact h2.cleanCore.modCtx.modCrew.modCore

theorem State.Canon.save {cid : Nat} (hs : s.Canon but) :
    (s.save cid).Canon but := by
  unfold State.save
  split
  · exact hs
  · extract_lets +onlyGivenNames held s1
    have h : s1.Canon but := by
      unfold s1
      split
      · exact hs.absorb
      · exact hs
    extract_lets +onlyGivenNames s2
    have h2 : s2.Canon but := h.saveSlots
    extract_lets +onlyGivenNames s3
    have h3 : s3.Canon but := h2.foldl (fun _ _ h3 => h3.saveCore)
    extract_lets +onlyGivenNames c s4
    have h4 : s4.Canon but := h3.modCtx
    extract_lets +onlyGivenNames s5
    have h5 : s5.Canon but := by
      unfold s5
      refine .materialise ?_
      split
      · exact h4
      · exact h4.countStops
    extract_lets +onlyGivenNames s6
    have h6 : s6.Canon but := by
      unfold s6
      split
      · exact h5.postHalt
      · exact h5
    extract_lets +onlyGivenNames s7
    have h7 : s7.Canon but := by
      unfold s7
      split
      · exact h6.kill
      · exact h6
    exact (h7.foldl (fun _ _ h8 => h8.retryReservations)).wakeHaltc

theorem State.Canon.preempt {cid for_ : Nat} (hs : s.Canon but) :
    (s.preempt cid for_).Canon but := by
  unfold State.preempt
  split
  · exact hs
  · split
    · exact hs
    · extract_lets +onlyGivenNames other c
      split
      · exact hs.setCtx.save
      · exact hs.setCtx.pushAll

theorem State.Canon.execSaveLineArrival {cid core : Nat} {late : List Nat} (hs : s.Canon but) :
    OutcomeCanon but (execSaveLineArrival cid core late s) := by
  unfold Machine.execSaveLineArrival
  split
  · exact hs
  · split
    · exact hs
    · exact hs.setCtx.modCore.push

theorem State.Canon.execPreemptSaveComplete {cid : Nat} (hs : s.Canon but) :
    OutcomeCanon but (execPreemptSaveComplete cid s) := by
  unfold Machine.execPreemptSaveComplete
  split
  · exact hs
  · split
    · exact hs
    · exact hs.save.pushAll

/-! ## Late completions (R167) -/

theorem State.Canon.lateBeats {a : Agent} {seq n : Nat} (hs : s.Canon but) :
    (State.lateBeats a seq n s).Canon but := by
  induction n generalizing s with
  | zero =>
    unfold State.lateBeats
    exact hs
  | succ n ih =>
    unfold State.lateBeats
    split
    · exact hs
    · split
      · exact ih hs.startLattice
      · split
        · split
          · rename_i hq
            exact (hs.beat.of_pair hq).copyFault
          · rename_i hq2
            have hp := hs.beat.of_pair hq2
            split
            · exact ih hp.performBeat
            · split
              · rename_i hq3
                exact (hp.agentBarPlace.of_pair hq3).copyFault
              · rename_i hq4
                exact ih (hp.agentBarPlace.of_pair hq4).performBeat
        · exact hs

theorem State.Canon.lateFinish {cid : Nat} {r : CopyRec} (hs : s.Canon but) :
    (s.lateFinish cid r).Canon but := by
  unfold State.lateFinish
  extract_lets +onlyGivenNames s1
  have h : s1.Canon but := hs.modCtx
  split
  · exact h
  · exact h.modCrew.writeStatus.modCrew

/-- The beats of a late copy run on a core of their own that leaves with its Alcove, the one memory that a saved context brings in (R167). -/
theorem State.Canon.lateCopy {cid seq : Nat} (hs : s.Canon none) :
    (s.lateCopy cid seq).Canon none := by
  unfold State.lateCopy
  extract_lets +onlyGivenNames s0
  split
  · exact hs
  · split
    · split
      · exact hs
      · extract_lets +onlyGivenNames held a src work s1 now s2 s3 s4 s5 s6 s7
        have h1 : s1.Canon (some lateCore) := State.Canon.lateBeats (hs.weaken.setCore fun h => (h rfl).elim)
        have h2 : s2.Canon none := h1.removeCore
        have h3 : s3.Canon none := h2.modCtx
        clear_value s3
        have h4 : s4.Canon none := by
          unfold s4
          split
          · exact h3.modCtx
          · exact State.Canon.ite h3.modCtx.lateFinish h3.modCtx
        have h5 : s5.Canon none := h4.countStops.materialise
        have h6 : s6.Canon none := h5.postHalt.ite h5
        have h7 : s7.Canon none := h6.kill.ite h6
        exact hs.unlessFull (hs.unlessFull h7.push)
    · exact hs

/-! ## Restore (R400) -/

theorem State.Canon.returnSlots {c : Ctx} {r : Rect} (hs : s.Canon but) :
    (s.returnSlots c r).Canon but := by
  unfold State.returnSlots
  extract_lets +onlyGivenNames home s1
  have h : s1.Canon but := by
    unfold s1
    refine hs.foldl (fun t a2 h => ?_)
    extract_lets +onlyGivenNames key w src
    have h2 : src.Canon but := h.setSlot
    clear_value src
    exact h2.same
  exact h.modCtx

theorem State.Canon.shiftSeqs {cid n core : Nat} (hs : s.Canon but) :
    (s.shiftSeqs cid n core).Canon but := by
  unfold State.shiftSeqs
  split
  · exact hs
  · exact hs.modCore.modCtx.modCrew

theorem State.Canon.restorePlace {cid : Nat} {r : Rect} {room : List (Nat × List Nat × Nat × Nat)} (hs : s.Canon but) :
    (s.restorePlace cid r room).Canon but := by
  unfold State.restorePlace
  split
  · exact hs
  · extract_lets +onlyGivenNames old again moved s1 s2
    have h : s1.Canon but := hs.mapCores
    refine h.setCtx.foldl fun t a ht => ?_
    split
    · exact ht
    · split
      · exact ht
      · exact ht.reserve.modCrew.modCore.shiftSeqs

theorem State.Canon.rebind {cid core : Nat} (hs : s.Canon but) :
    (s.rebind cid core).Canon but := by
  unfold State.rebind
  split
  · exact hs
  · exact (hs.foldl (fun _ _ h => h.bindFrame)).foldl (fun _ _ h => h.modFrame.modCore)

theorem State.Canon.restoreCore {cid core : Nat} (hs : s.Canon but) :
    (s.restoreCore cid core).Canon but := by
  unfold State.restoreCore
  split
  · exact hs
  · extract_lets +onlyGivenNames n
    split
    · exact hs
    · split
      · exact hs
      · extract_lets +onlyGivenNames part s1
        have h : s1.Canon but := by
          unfold s1
          refine hs.modCoreWf (fun c hc => ?_)
          exact Mem.place_wf _ (Mem.clear_wf hc _ _) _
        extract_lets +onlyGivenNames s2
        have h2 : s2.Canon but := h.foldl (fun _ _ h2 => h2.reload)
        split
        exact h2.modCore.rebind

theorem State.Canon.restoreEnd {cid : Nat} (hs : s.Canon but) :
    (s.restoreEnd cid).Canon but := by
  unfold State.restoreEnd
  extract_lets +onlyGivenNames s1
  have h : s1.Canon but := hs
  split
  · exact hs
  · extract_lets +onlyGivenNames s2
    have h2 : s2.Canon but := by
      unfold s2
      split
      · exact hs.absorb
      · exact hs
    extract_lets +onlyGivenNames s3
    have h3 : s3.Canon but := h2.foldl (fun _ _ h3 => h3.sweep)
    extract_lets +onlyGivenNames s4
    have h4 : s4.Canon but := h3.foldl (fun _ _ h4 => h4.restoreCore)
    extract_lets +onlyGivenNames raised s5
    have h5 : s5.Canon but := h4.modCtx
    extract_lets +onlyGivenNames s6
    have h6 : s6.Canon but := h5.modCtx.materialise
    extract_lets +onlyGivenNames s7
    have h7 : s7.Canon but := h5.modCtx.returnEngines
    extract_lets +onlyGivenNames s8
    have h8 : s8.Canon but := h7.foldl (fun _ _ h8 => h8.restartCore)
    extract_lets +onlyGivenNames s9
    have h9 : s9.Canon but := h8.pushAll.pushAll
    extract_lets +onlyGivenNames s10
    have h10 : s10.Canon but := by
      unfold s10
      split
      · split
        · exact h6.kill
        · exact h6
      · clear_value raised
        split
        · exact h9.raiseHalt
        · exact h9
    exact h10.wakeHaltc

theorem State.Canon.execContextRestore {cid : Nat} {origin : Origin} (hs : s.Canon but) :
    OutcomeCanon but (execContextRestore cid origin s) := by
  unfold Machine.execContextRestore
  split
  · exact hs
  · extract_lets +onlyGivenNames host start
    have h : ∀ a, (start a).Canon but := by
      unfold start
      intro _
      split
      · exact hs.restorePlace.returnSlots.push
      · exact hs
    split
    · exact hs.restoreEnd
    · split
      · exact hs
      · split
        · exact h _
        · split
          · exact hs.unlessFull hs.setCtx.postEvent
          · split
            · exact h _
            · exact hs
    · split
      · exact hs
      · exact h _
    · exact hs

/-! ## Other steps that only a policy begins -/

theorem State.Canon.execIssuePromotion {core slot split : Nat} (hs : s.Canon but) :
    OutcomeCanon but (execIssuePromotion core slot split s) := by
  unfold Machine.execIssuePromotion
  split
  · exact hs
  · split
    · exact hs.modSplit
    · exact hs

theorem State.Canon.execYieldExpiry {core slot split : Nat} (hs : s.Canon but) :
    OutcomeCanon but (execYieldExpiry core slot split s) := by
  unfold Machine.execYieldExpiry
  split
  · exact hs
  · split
    · split
      · exact hs.modSplit
      · exact hs
    · exact hs

theorem State.Canon.execAccumulatorEvict {cid crew acc : Nat} (hs : s.Canon but) :
    OutcomeCanon but (execAccumulatorEvict cid crew acc s) := by
  unfold Machine.execAccumulatorEvict
  split
  · exact hs
  · extract_lets +onlyGivenNames busy
    split
    · exact hs
    · exact hs.evictAcc

theorem State.Canon.execHint {h : BitVec 10} (hs : s.Canon but) :
    OutcomeCanon but (execHint h s) := by
  unfold Machine.execHint
  refine hs.issueWith (fun e2 h2 => ?_)
  extract_lets +onlyGivenNames s1
  have h3 : s1.Canon but := h2.next
  split
  · exact h3.modGroup
  · split
    · exact h3.modSplit
    · split
      · exact h3.modSplit
      · exact h3

end

end Sys2Proof.Machine
end

section
/-! SUPPORT. The memories stay in canonical form: units, management, the host and functions. -/

-- One lemma at a time: the lemmas of this part at once take more threads than the memory has room for.
set_option Elab.async false

namespace Sys2Proof.Machine

section
variable {but : Option Nat} {s : State}

/-! ## Units (R426) -/

theorem State.Canon.modDie {i : Nat} {f : Die → Die} (hs : s.Canon but) :
    (s.modDie i f).Canon but :=
  hs.same

theorem State.Canon.modUnit {u : Nat} {f : Die → Die} (hs : s.Canon but) :
    (s.modUnit u f).Canon but :=
  hs.foldl (fun _ _ h => h.modDie)

/-! ## Health (R445) -/

theorem State.Canon.postHealth {die level reason : Nat} (hs : s.Canon but) :
    (s.postHealth die level reason).Canon but :=
  hs.postEvent

/-! ## The loss of a unit -/

theorem State.Canon.homesBack (hs : s.Canon but) :
    (s.homesBack).Canon but :=
  hs.same.pushAll.wakeAll

theorem State.Canon.killLost {cid : Nat} (hs : s.Canon but) :
    (s.killLost cid).Canon but := by
  unfold State.killLost
  split
  · exact hs
  · extract_lets +onlyGivenNames s1
    have h : s1.Canon but := hs.foldl (fun _ _ h => h.settleResults.registerAll)
    extract_lets +onlyGivenNames s2
    have h2 : s2.Canon but := h.modCtx
    extract_lets +onlyGivenNames t
    have h3 : t.Canon but := h2.modCtx.postHalt.kill
    split
    · extract_lets +onlyGivenNames src
      have h4 : src.Canon but := h2.modCtx
      clear_value src
      exact h4.same
    · exact h3

theorem State.Canon.dropReads {hall : Nat} (hs : s.Canon but) :
    (s.dropReads hall).Canon but :=
  hs.same

theorem State.Canon.loseHall {u : Nat} (hs : s.Canon but) :
    (s.loseHall u).Canon but := by
  unfold State.loseHall
  split
  · exact (hs.foldl (fun _ _ h => h.killLost)).dropReads
  · exact hs

theorem State.Canon.ackUnit {u : Nat} (hs : s.Canon but) :
    (s.ackUnit u).Canon but :=
  hs.pushAll

theorem State.Canon.dropL2 {u : Nat} (hs : s.Canon but) :
    (s.dropL2 u).Canon but :=
  hs.same

theorem State.Canon.resend (hs : s.Canon but) :
    (s.resend).Canon but :=
  hs.same.pushAll

/-! ## Reset (R427, R431) -/

theorem State.Canon.resetUnit {die : Nat} (hs : s.Canon but) :
    (s.resetUnit die).Canon but := by
  unfold State.resetUnit
  extract_lets +onlyGivenNames u
  split
  · exact hs
  · exact hs.modUnit.postEvent.loseHall.ackUnit

theorem State.Canon.execDctlReset {die : Nat} (hs : s.Canon but) :
    OutcomeCanon but (execDctlReset die s) := by
  unfold Machine.execDctlReset
  split
  · exact hs.resetUnit
  · exact hs

theorem State.Canon.renewHall {u : Nat} (hs : s.Canon but) :
    (s.renewHall u).Canon but := by
  unfold State.renewHall
  extract_lets +onlyGivenNames lo inHalf s1
  have h : s1.Canon but := hs.dropL2
  have ht : State.Canon but { s1 with atrium := Mem.clear s1.atrium lo 33554432 } := h.ofAtrium (Mem.clear_wf h.atriumWf _ _)
  refine ht.mapCores (f := fun c => if hallOf c.1 == u then c.2.afterReset else c.2) ?_ fun c hc => ?_
  · simp only [apply_ite (Prod.mk _)]
  · split
    · rfl
    · exact hc

theorem State.Canon.execDieResetComplete {die : Nat} (hs : s.Canon but) :
    OutcomeCanon but (execDieResetComplete die s) := by
  unfold Machine.execDieResetComplete
  extract_lets +onlyGivenNames u
  split
  · exact hs
  · extract_lets +onlyGivenNames s1
    have h : s1.Canon but := hs.modUnit
    extract_lets +onlyGivenNames s2
    have h2 : s2.Canon but := by
      unfold s2
      split
      · exact h.renewHall
      · exact h
    extract_lets +onlyGivenNames s3
    have h3 : s3.Canon but := h2.homesBack.resend.postEvent.pushAll
    refine State.Canon.pushAll ?_
    split
    · exact h3.foldl (fun _ _ h4 => h4.retryReservations)
    · exact h3

/-! ## Authentication (R443) -/

theorem State.Canon.setAuth (hs : s.Canon but) :
    (s.setAuth).Canon but :=
  hs.foldl (fun _ _ h => h.modDie)

/-! ## Withdrawal (R438 to R440) -/

theorem State.Canon.inherit {u : Nat} (hs : s.Canon but) :
    (s.inherit u).Canon but :=
  hs.modPorter.modPorter

theorem State.Canon.withdrawUnit {die reason : Nat} (hs : s.Canon but) :
    (s.withdrawUnit die reason).Canon but := by
  unfold State.withdrawUnit
  extract_lets +onlyGivenNames u
  split
  · exact hs
  · extract_lets +onlyGivenNames s1
    have h : s1.Canon but := by
      unfold s1
      split
      · exact hs.dropL2
      · exact hs
    extract_lets +onlyGivenNames s2
    have h2 : s2.Canon but := h.modUnit.homesBack
    extract_lets +onlyGivenNames s3
    have h3 : s3.Canon but := h2.postEvent.postHealth
    extract_lets +onlyGivenNames s4
    have h4 : s4.Canon but := h3.loseHall.ackUnit
    extract_lets +onlyGivenNames s5
    have h5 : s5.Canon but := by
      unfold s5
      split
      · exact h4.inherit
      · exact h4
    refine .pushAll (.resend ?_)
    split
    · exact h5.setAuth
    · exact h5

theorem State.Canon.execDctlWithdraw {die : Nat} (hs : s.Canon but) :
    OutcomeCanon but (execDctlWithdraw die s) := by
  unfold Machine.execDctlWithdraw
  split
  · refine State.Canon.withdrawUnit ?_
    split
    · exact hs
    · exact hs.modUnit
  · exact hs

theorem State.Canon.resetExpiry {die : Nat} (hs : s.Canon but) :
    (s.resetExpiry die).Canon but := by
  unfold State.resetExpiry
  extract_lets +onlyGivenNames d
  split
  · exact hs.withdrawUnit
  · exact hs

/-! ## Soft errors and reports (R446) -/

theorem State.Canon.execCorrectableSoftError {die : Nat} (hs : s.Canon but) :
    OutcomeCanon but (execCorrectableSoftError die s) := by
  unfold Machine.execCorrectableSoftError
  split
  · exact hs
  · exact hs.modDie

theorem State.Canon.execUncorrectableSoftError {die : Nat} (hs : s.Canon but) :
    OutcomeCanon but (execUncorrectableSoftError die s) := by
  unfold Machine.execUncorrectableSoftError
  split
  · exact hs
  · exact hs.resetUnit.postHealth

theorem State.Canon.reportHealth {die : Nat} (hs : s.Canon but) :
    (s.reportHealth die).Canon but := by
  unfold State.reportHealth
  split <;> exact hs.postHealth

theorem State.Canon.reports {die n : Nat} (hs : s.Canon but) :
    (State.reports die n s).Canon but := by
  induction n generalizing s with
  | zero =>
    unfold State.reports
    exact hs
  | succ n ih =>
    unfold State.reports
    exact ih hs.modDie.reportHealth

theorem State.Canon.reportDue {die : Nat} (hs : s.Canon but) :
    (s.reportDue die).Canon but := by
  unfold State.reportDue
  split
  · exact hs
  · exact hs.reports

theorem State.Canon.diesPass (hs : s.Canon but) :
    (s.diesPass).Canon but :=
  hs.foldl (fun _ _ h => h.resetExpiry.reportDue)

/-! ## Accesses of the migration engine and the controllers -/

theorem State.Canon.uncounted {α : Type} {f : State → State × α} (hs : s.Canon but) (hf : ∀ s, s.Canon but → (f s).1.Canon but) :
    (s.uncounted f).1.Canon but := by
  unfold State.uncounted
  split
  rename_i hq
  exact ((hf _ hs).of_pair hq).same

theorem State.Canon.readQuiet {pa n : Nat} (hs : s.Canon but) :
    (s.readQuiet pa n).1.Canon but :=
  hs.uncounted (fun _ h => h.readMem)

theorem State.Canon.writeQuiet {pa n x : Nat} (hs : s.Canon but) :
    (s.writeQuiet pa n x).Canon but :=
  hs.uncounted (fun _ h => h.writeMem)

/-! ## Hot lists (R64, R65) -/

theorem State.Canon.writeHotList {base c now : Nat} {k : Sketch} (hs : s.Canon but) :
    (s.writeHotList base c now k).Canon but :=
  (hs.foldl (fun _ _ h => h.writeMem)).writeMem

theorem State.Canon.hotLists {now : Nat} (hs : s.Canon but) :
    (s.hotLists now).Canon but := by
  unfold State.hotLists
  extract_lets +onlyGivenNames live old s'
  have h : s'.Canon but := by
    unfold s'
    refine hs.foldl (fun t a2 h => ?_)
    split
    · split
      · exact h.writeHotList
      · exact h
    · exact h
  exact h.same

/-! ## Leaves (R67) -/

theorem State.Canon.findLeaf {asid : Nat} {va : W64} (hs : s.Canon but) :
    (s.findLeaf asid va).1.Canon but := by
  unfold State.findLeaf
  split
  rename_i hq
  have h := hs.asidEntry.of_pair hq
  extract_lets vf
  split
  · exact h
  · split
    · rename_i hq
      exact h.nodeEntry.of_pair hq
    · rename_i hq
      replace h := h.nodeEntry.of_pair hq
      split
      · exact h
      · split
        · rename_i hq
          exact h.nodeEntry.of_pair hq
        · rename_i hq
          replace h := h.nodeEntry.of_pair hq
          split
          · exact h
          · split
            · rename_i hq
              exact h.nodeEntry.of_pair hq
            · rename_i hq
              exact h.nodeEntry.of_pair hq

theorem State.Canon.copyLines {src dst : Nat} {far : Bool} {n : Nat} (hs : s.Canon but) :
    (State.copyLines src dst far n s).Canon but := by
  induction n generalizing s with
  | zero =>
    unfold State.copyLines
    exact hs
  | succ n ih =>
    unfold State.copyLines
    extract_lets +onlyGivenNames s1
    have h : s1.Canon but := ih hs
    split
    rename_i hq
    exact (h.homeRead.of_pair hq).homeWrite

/-! ## Free-frame rings (R69) -/

theorem State.Canon.giveFrame {ring frame : Nat} (hs : s.Canon but) :
    (s.giveFrame ring frame).1.Canon but := by
  unfold State.giveFrame
  split
  · exact hs
  · extract_lets b n
    split
    rename_i hq
    have h := hs.readMem.of_pair hq
    extract_lets put take
    split
    · exact h
    · exact h.writeMem.writeMem

theorem State.Canon.returnFrame {x : Nat × Nat} (hs : s.Canon but) :
    (s.returnFrame x).Canon but := by
  unfold State.returnFrame
  split
  · rename_i hq
    exact hs.giveFrame.of_pair hq
  · rename_i hq2
    exact (hs.giveFrame.of_pair hq2).same

theorem State.Canon.withTaken {l : List (Nat × Nat)} (hs : s.Canon but) :
    State.Canon but { s with taken := l } :=
  hs.same

theorem State.Canon.execFreeFrameTake {ring : Nat} (hs : s.Canon but) :
    OutcomeCanon but (Machine.execFreeFrameTake ring s) := by
  unfold Machine.execFreeFrameTake
  split
  · exact hs
  · extract_lets b n
    split
    rename_i t _ hq
    have ht : t.Canon but := hs.readMem.of_pair hq
    extract_lets at_
    split
    rename_i u _ hq
    have hu : u.Canon but := ht.readMem.of_pair hq
    split
    · exact hu
    · exact hu.writeMem.writeMem.withTaken

/-! ## The engine (R66, R67) -/

theorem State.Canon.modAnnex {a : Nat} {f : Annex → Annex} (hs : s.Canon but) :
    (s.modAnnex a f).Canon but :=
  hs.same

theorem State.Canon.fromRing {a : Nat} {x : Annex} (hs : s.Canon but) :
    (State.nextMove.fromRing a s x).1.Canon but := by
  unfold State.nextMove.fromRing
  extract_lets +onlyGivenNames at_
  split
  rename_i hq
  exact (hs.readQuiet.of_pair hq).modAnnex

theorem State.Canon.nextMove {a : Nat} (hs : s.Canon but) :
    (s.nextMove a).1.Canon but := by
  unfold State.nextMove
  extract_lets +onlyGivenNames x
  split
  · exact hs
  · split
    · split
      · exact hs.fromRing
      · exact hs.modAnnex
    · split
      · exact hs.fromRing
      · exact hs

theorem State.Canon.endMove {a : Nat} {m : MigCmd} {status old : Nat} (hs : s.Canon but) :
    (s.endMove a m status old).Canon but := by
  unfold State.endMove
  extract_lets +onlyGivenNames vf s1
  have h : s1.Canon but := by
    unfold s1
    split
    · exact hs.writeQuiet.modAnnex
    · split
      · split
        · exact hs.returnFrame
        · exact hs
      · split
        · exact hs
        · split
          · exact hs.same
          · exact hs
  exact h.modAnnex.postEvent.push

theorem State.Canon.sweepPage {a : Nat} {m : MigCmd} {inv : Bool} (hs : s.Canon but) :
    (s.sweepPage a m inv).Canon but :=
  hs.startMaint

theorem State.Canon.execMigrationCommand {a : Nat} (hs : s.Canon but) :
    OutcomeCanon but (execMigrationCommand a s) := by
  unfold Machine.execMigrationCommand
  extract_lets +onlyGivenNames x
  split
  · exact hs
  · split
    · exact hs
    · rename_i hq
      have hp := hs.nextMove.of_pair hq
      split
      · exact hs
      · split
        · rename_i hq2
          exact ((hp.uncounted (fun _ h => h.findLeaf)).of_pair hq2).endMove
        · rename_i hq3
          have hp2 := (hp.uncounted (fun _ h => h.findLeaf)).of_pair hq3
          split
          · exact hp2.endMove
          · split
            · exact hp2.endMove
            · split
              · exact hp2.endMove
              · exact hp2.writeQuiet.modAnnex.sweepPage

theorem State.Canon.execMigrationInvalidationDone {a : Nat} (hs : s.Canon but) :
    OutcomeCanon but (execMigrationInvalidationDone a s) := by
  unfold Machine.execMigrationInvalidationDone
  extract_lets +onlyGivenNames x
  split
  · exact hs.push
  · extract_lets +onlyGivenNames old
    split
    · exact hs
    · split
      · extract_lets +onlyGivenNames far s1
        have h : s1.Canon but := hs.uncounted (fun _ h => h.copyLines)
        split
        rename_i hq
        have hp := h.readQuiet.of_pair hq
        split
        · exact hp.writeQuiet.modAnnex.sweepPage
        · exact hp.modAnnex.sweepPage
      · exact hs.modAnnex.sweepPage
      · exact hs.modAnnex.sweepPage
      · split
        · exact hs
        · exact hs.endMove
      · exact hs

/-! ## The Porter's moves (R69) -/

theorem State.Canon.readWindows (hs : s.Canon but) :
    (s.readWindows).Canon but := by
  unfold State.readWindows
  split
  · split
    rename_i hq
    exact (hs.readMem.of_pair hq).same
  · exact hs.same

theorem State.Canon.porterInterval (hs : s.Canon but) :
    (s.porterInterval).Canon but := by
  unfold State.porterInterval
  split
  · refine .foldl ?_ (fun _ _ h => h.returnFrame)
    extract_lets +onlyGivenNames src
    have h : src.Canon but := hs.readWindows
    clear_value src
    exact h.same
  · exact hs

theorem State.Canon.endIntervals {n : Nat} (hs : s.Canon but) :
    (State.endIntervals n s).Canon but := by
  induction n generalizing s with
  | zero =>
    unfold State.endIntervals
    exact hs
  | succ n ih =>
    unfold State.endIntervals
    extract_lets +onlyGivenNames now
    refine ih ?_
    extract_lets +onlyGivenNames src
    have h : src.Canon but := by
      unfold src
      split
      · exact hs.hotLists
      · exact hs
    clear_value src
    exact h.same

theorem State.Canon.closeIntervals (hs : s.Canon but) :
    (s.closeIntervals).Canon but := by
  unfold State.closeIntervals
  split
  · extract_lets +onlyGivenNames t
    have h : t.Canon but := hs.endIntervals.porterInterval
    split
    · exact hs
    · exact h
  · exact hs

theorem State.Canon.hotPages (hs : s.Canon but) :
    (s.hotPages).1.Canon but := by
  unfold State.hotPages
  refine hs.foldl_fst (fun a a2 h => ?_)
  extract_lets +onlyGivenNames at_
  split
  rename_i hq
  refine (h.readMem.of_pair hq).foldl_fst (fun a3 a4 h2 => ?_)
  split
  rename_i hq2
  exact h2.readMem.of_pair hq2

theorem State.Canon.pickMove {a : Nat} {hot : List Nat} {p : MigPick} (hs : s.Canon but) :
    (s.pickMove a hot p).Canon but := by
  unfold State.pickMove
  extract_lets +onlyGivenNames va vf
  split
  · rename_i hq
    have hp := hs.findLeaf.of_pair hq
    split
    · exact hp
    · exact hp.same.modAnnex.push
  · exact hs

theorem State.Canon.execPorterMigrationSelect {a : Nat} {picks : List MigPick} (hs : s.Canon but) :
    OutcomeCanon but (execPorterMigrationSelect a picks s) := by
  unfold Machine.execPorterMigrationSelect
  split
  · exact hs
  · split
    · exact hs
    · split
      rename_i hq
      exact (hs.hotPages.of_pair hq).foldl (fun _ _ h => h.pickMove)

/-! ## The page-fault service in hardware mode (R34, R386) -/

theorem State.Canon.execPorterFaultService {hall : Nat} {map : Option PteWrite} (hs : s.Canon but) :
    OutcomeCanon but (execPorterFaultService hall map s) := by
  unfold Machine.execPorterFaultService
  split
  · exact hs
  · extract_lets +onlyGivenNames x va asid took
    have h : ∀ s, s.Canon but → (took s).Canon but := fun _ h => h.modPorter
    split
    · exact hs
    · split
      · split
        · exact hs
        · exact (h _ hs).writeMem.startMaint.postEvent
      · split
        · exact hs
        · exact (h _ hs).postEvent

/-! ## Feedback rings in hardware mode (R84) -/

theorem State.Canon.drainRing {vf asid : Nat} {sup : Bool} {ring base logn n : Nat} (hs : s.Canon but) :
    (State.drainRing vf asid sup ring base logn n s).Canon but := by
  induction n generalizing s with
  | zero =>
    unfold State.drainRing
    exact hs
  | succ n ih =>
    unfold State.drainRing
    extract_lets +onlyGivenNames h
    split
    · rename_i hq
      have hp := hs.porterXlate.of_pair hq
      extract_lets +onlyGivenNames x
      split
      · exact hp
      · exact ih (hp.ofAtrium (Mem.writeN_wf _ hp.atriumWf _ _)).postEvent
    · rename_i hq2
      exact hs.porterXlate.of_pair hq2

theorem State.Canon.execFeedbackDrain {asid : Nat} {ring : W64} (hs : s.Canon but) :
    OutcomeCanon but (execFeedbackDrain asid ring s) := by
  unfold Machine.execFeedbackDrain
  split
  rename_i hq
  have hp := hs.asidEntry.of_pair hq
  extract_lets +onlyGivenNames vf
  split
  · exact hp
  · split
    · rename_i hq2
      have hp2 := hp.porterXlate.of_pair hq2
      extract_lets +onlyGivenNames x logn
      split
      · exact hp2
      · exact hp2.drainRing
    · rename_i hq3
      exact hp.porterXlate.of_pair hq3

/-! ## Power-on (R432, R441, R472) -/

theorem State.Canon.powerUp (hs : s.Canon but) :
    s.powerUp.Canon but := by
  refine ⟨rfl, hs.hostWf, hs.peerWf, rfl, ?_⟩
  cases but with
  | none => exact nofun
  | some a => exact nofun

theorem State.Canon.bootDie {images : List (List Byte)} {die : Nat} (hs : s.Canon but) :
    (State.bootDie images s die).Canon but := by
  unfold State.bootDie
  extract_lets +onlyGivenNames t img
  split
  · extract_lets +onlyGivenNames src
    have h : src.Canon but := hs.modDie
    clear_value src
    exact h.same
  · exact hs.withdrawUnit

theorem State.Canon.measure (hs : s.Canon but) :
    (s.measure).Canon but :=
  hs.same

theorem State.Canon.execPowerOn {images : List (List Byte)} (hs : s.Canon but) :
    OutcomeCanon but (execPowerOn images s) :=
  (hs.powerUp.foldl (fun _ _ h => h.bootDie)).setAuth.measure

/-! ## Mutual authentication (R443) -/

theorem State.Canon.execLinkAuthentication {link : Nat} {msg : AuthMsg} (hs : s.Canon but) :
    OutcomeCanon but (execLinkAuthentication link msg s) := by
  unfold Machine.execLinkAuthentication
  split
  · exact hs
  · split
    · exact hs
    · extract_lets +onlyGivenNames s1
      have h : s1.Canon but := by
        unfold s1
        split
        · exact hs
        · exact hs.withdrawUnit
      extract_lets +onlyGivenNames s2
      have h2 : s2.Canon but := by
        unfold s2
        split
        · exact h
        · exact h.withdrawUnit
      extract_lets +onlyGivenNames s3
      have h3 : s3.Canon but := by
        unfold s3
        split
        · exact h2.same
        · exact h2
      extract_lets +onlyGivenNames s4
      have h4 : s4.Canon but := by
        unfold s4
        split
        · exact h3
        · exact h3.setAuth.measure
      exact h4.setAuth.homesBack.resend.pushAll

theorem State.Canon.execSvnFloorRaise (hs : s.Canon but) :
    OutcomeCanon but (execSvnFloorRaise s) := by
  unfold Machine.execSvnFloorRaise
  split
  · exact hs.same
  · exact hs

/-! ## Attestation (R444): the response codes of DSP0274 are assumed -/

theorem State.Canon.spdm {code : Byte} {body : List Byte} (hs : s.Canon but) :
    (s.spdm code body).Canon but := by
  unfold State.spdm
  split
  · exact hs.same
  · exact hs

/-! ## Power, thermal and clock (R447, R448) -/

theorem State.Canon.junction {die temp : Nat} (hs : s.Canon but) :
    (s.junction die temp).Canon but := by
  unfold State.junction
  split
  · exact hs
  · extract_lets +onlyGivenNames s1
    have h : s1.Canon but := hs.modDie
    extract_lets +onlyGivenNames s2
    have h2 : s2.Canon but := by
      unfold s2
      split
      · exact h.same.postHealth
      · exact h
    split
    · exact h2.same
    · exact h2

theorem State.Canon.execPldmSetPowerCap {watts : Nat} (hs : s.Canon but) :
    OutcomeCanon but (execPldmSetPowerCap watts s) := by
  unfold Machine.execPldmSetPowerCap
  split
  · exact hs.same
  · exact hs

theorem State.Canon.execPldmSetClockCeiling {mhz : Nat} (hs : s.Canon but) :
    OutcomeCanon but (execPldmSetClockCeiling mhz s) := by
  unfold Machine.execPldmSetClockCeiling
  split
  · exact hs.same
  · exact hs

theorem State.Canon.execPldmReadTemperature {die : Nat} (hs : s.Canon but) :
    OutcomeCanon but (execPldmReadTemperature die s) := by
  unfold Machine.execPldmReadTemperature
  split
  rename_i hq
  exact (hs.draw.of_snd hq).same

theorem State.Canon.execClockStepChange {power : Nat} (hs : s.Canon but) :
    OutcomeCanon but (execClockStepChange power s) := by
  unfold Machine.execClockStepChange
  extract_lets +onlyGivenNames top s1
  have h : s1.Canon but := hs.same
  split <;> exact h.same

/-! ## Violations of a function (R397, R398) -/

theorem State.Canon.freezeFn {vf : Nat} (hs : s.Canon but) :
    (s.freezeFn vf).Canon but :=
  hs.modFn.postEventOn.haltAll

/-! ## What a register write sets going -/

theorem State.Canon.repostFaults (hs : s.Canon but) :
    (s.repostFaults).Canon but :=
  hs.foldl (fun _ _ h => h.postFaults)

theorem State.Canon.retryRestores (hs : s.Canon but) :
    (s.retryRestores).Canon but :=
  hs.pushAll

/-! ## Registers -/

theorem State.Canon.writeAstb {x : W64} (hs : s.Canon but) :
    (s.writeAstb x).Canon but := by
  unfold State.writeAstb
  split
  · exact hs
  · exact hs.same

theorem State.Canon.writeHotctl {x : W64} (hs : s.Canon but) :
    (s.writeHotctl x).Canon but :=
  hs.same

theorem State.Canon.writeMgtl {a : Nat} {x : W64} (hs : s.Canon but) :
    (s.writeMgtl a x).Canon but :=
  hs.modAnnex.push

theorem State.Canon.writeDctl {die : Nat} {x : W64} (hs : s.Canon but) :
    (s.writeDctl die x).Canon but := by
  unfold State.writeDctl
  extract_lets +onlyGivenNames s1
  have h : s1.Canon but := by
    unfold s1
    split
    · exact hs.modUnit.withdrawUnit
    · exact hs
  split
  · exact h.resetUnit
  · exact h

theorem State.Canon.writeDsr {f : Nat} {x : W64} (hs : s.Canon but) :
    (s.writeDsr f x).Canon but := by
  unfold State.writeDsr
  extract_lets +onlyGivenNames s1
  have h : s1.Canon but := hs.modFn
  exact State.Canon.repostFaults h.mapCores

theorem State.Canon.writeVfrz {f : Nat} {x : W64} (hs : s.Canon but) :
    (s.writeVfrz f x).Canon but := by
  unfold State.writeVfrz
  split
  · exact hs.modFn.pushAll.push
  · exact hs

theorem State.Canon.writeEvhl {f : Nat} {evha : Bool} {x : W64} (hs : s.Canon but) :
    (s.writeEvhl f evha x).Canon but :=
  hs.modFn.push

theorem State.Canon.writeRingHead {f : Nat} {events : Bool} {x : W64} (hs : s.Canon but) :
    (s.writeRingHead f events x).Canon but := by
  unfold State.writeRingHead
  split
  · exact hs.modFn.push
  · exact hs.modFn.repostFaults

theorem State.Canon.writeCmdTail {f : Nat} {x : W64} (hs : s.Canon but) :
    (s.writeCmdTail f x).Canon but :=
  hs.modFn

theorem State.Canon.writeRsown {by_ : Writer} {hall slot : Nat} {x : W64} (hs : s.Canon but) :
    (s.writeRsown by_ hall slot x).Canon but := by
  unfold State.writeRsown
  split
  · exact hs
  · extract_lets +onlyGivenNames old put
    have h : ∀ a, (put a).Canon but := fun _ => hs.same.retryRestores
    extract_lets +onlyGivenNames part
    have h2 : ∀ a, (part a).Canon but := by
      unfold part
      intro _
      split
      · exact h _
      · exact hs
    split
    · exact h _
    · exact h2 _
    · exact h2 _
    · exact hs

theorem State.Canon.writeDtrate {die : Nat} {x : W64} (hs : s.Canon but) :
    (s.writeDtrate die x).Canon but :=
  hs.modDie

theorem State.Canon.writeDtoff {die : Nat} {x : W64} (hs : s.Canon but) :
    (s.writeDtoff die x).Canon but :=
  hs.modDie

theorem State.Canon.writeDoorbell {vf q : Nat} {x : W64} (hs : s.Canon but) :
    (s.writeDoorbell vf q x).Canon but := by
  unfold State.writeDoorbell
  split
  rename_i hq
  have hp := hs.queue.of_pair hq
  split
  · exact hp
  · split
    · exact hp.freezeFn
    · split
      · exact hp
      · exact hp.same.pushAll

theorem State.Canon.writeOwn {vf off : Nat} {x : W64} (hs : s.Canon but) :
    (s.writeOwn vf off x).Canon but := by
  unfold State.writeOwn
  refine .ite hs.writeEvhl ?_
  refine .ite hs.modFn ?_
  refine .ite hs.modFn.repostFaults ?_
  refine .ite hs.writeRingHead ?_
  refine .ite hs.modFn.push ?_
  refine .ite hs.writeRingHead ?_
  refine .ite hs.modFn ?_
  refine .ite hs.writeCmdTail ?_
  refine .ite hs.writeEvhl ?_
  refine .ite hs.writeDoorbell ?_
  refine .ite hs.writeRsown ?_
  exact .ite hs.modCore hs

theorem State.Canon.writeAnnex {a k : Nat} {x : W64} (hs : s.Canon but) :
    (s.writeAnnex a k x).Canon but := by
  unfold State.writeAnnex
  split
  · exact hs.modAnnex.push
  · split
    · exact hs.writeMgtl
    · split
      · exact hs.modDie
      · exact hs

theorem State.Canon.writeDie {die k : Nat} {x : W64} (hs : s.Canon but) :
    (s.writeDie die k x).Canon but := by
  unfold State.writeDie
  split
  · exact hs.writeDctl
  · split
    · exact hs.writeDtoff
    · split
      · exact hs.writeDtrate
      · split
        · exact hs.modDie
        · split
          · exact hs.modDie
          · exact hs

theorem State.Canon.writePf {off : Nat} {x : W64} (hs : s.Canon but) :
    (s.writePf off x).Canon but := by
  unfold State.writePf
  refine .ite hs.writeAstb ?_
  refine .ite (State.Canon.same hs).pushAll ?_
  refine .ite hs.writeHotctl ?_
  refine .ite hs.same ?_
  refine .ite hs.same ?_
  refine .ite hs.same ?_
  refine .ite hs.writeAnnex ?_
  refine .ite hs.writeDie ?_
  refine .ite hs.modFn.pushAll ?_
  refine .ite hs.writeVfrz ?_
  refine .ite hs.modFn ?_
  refine .ite hs.writeDsr ?_
  refine .ite hs.writeRsown ?_
  exact .ite hs.same hs

theorem State.Canon.writeRegister {vf off size : Nat} {x : W64} (hs : s.Canon but) :
    (s.writeRegister vf off size x).Canon but := by
  unfold State.writeRegister
  split
  · exact hs.freezeFn
  · split
    · exact hs
    · split
      · exact hs.writePf
      · exact hs.writeOwn

theorem State.Canon.onLink {f : State → State} (hs : s.Canon but) (hf : ∀ s, s.Canon but → (f s).Canon but) :
    OutcomeCanon but (s.onLink f) := by
  unfold State.onLink
  split
  · exact hf _ hs
  · exact hs

theorem State.Canon.execManagementRegisterWrite {vf off size : Nat} {val : W64} (hs : s.Canon but) :
    OutcomeCanon but (execManagementRegisterWrite vf off size val s) :=
  hs.onLink (fun _ h => h.writeRegister)

theorem State.Canon.execAstbWrite {val : W64} (hs : s.Canon but) :
    OutcomeCanon but (execAstbWrite val s) :=
  hs.onLink (fun _ h => h.writeAstb)

theorem State.Canon.execHotctlWrite {val : W64} (hs : s.Canon but) :
    OutcomeCanon but (execHotctlWrite val s) :=
  hs.onLink (fun _ h => h.writeHotctl)

theorem State.Canon.execMgtlWrite {annex : Nat} {val : W64} (hs : s.Canon but) :
    OutcomeCanon but (execMgtlWrite annex val s) :=
  hs.onLink (fun _ h => h.writeMgtl)

theorem State.Canon.execDsrWrite {f : Nat} {val : W64} (hs : s.Canon but) :
    OutcomeCanon but (execDsrWrite f val s) :=
  hs.onLink (fun _ h => h.writeDsr)

theorem State.Canon.execVfrzClear {f : Nat} {val : W64} (hs : s.Canon but) :
    OutcomeCanon but (execVfrzClear f val s) :=
  hs.onLink (fun _ h => h.writeVfrz)

theorem State.Canon.execEvhlWrite {f : Nat} {evha : Bool} {val : W64} (hs : s.Canon but) :
    OutcomeCanon but (execEvhlWrite f evha val s) :=
  hs.onLink (fun _ h => h.writeEvhl)

theorem State.Canon.execHostRingHeadWrite {f : Nat} {events : Bool} {val : W64} (hs : s.Canon but) :
    OutcomeCanon but (execHostRingHeadWrite f events val s) :=
  hs.onLink (fun _ h => h.writeRingHead)

theorem State.Canon.execHcrbTailWrite {f : Nat} {val : W64} (hs : s.Canon but) :
    OutcomeCanon but (execHcrbTailWrite f val s) :=
  hs.onLink (fun _ h => h.writeCmdTail)

theorem State.Canon.execRsownWrite {by_ : Writer} {hall slot : Nat} {val : W64} (hs : s.Canon but) :
    OutcomeCanon but (execRsownWrite by_ hall slot val s) :=
  hs.onLink (fun _ h => h.writeRsown)

theorem State.Canon.execDtrateWrite {die : Nat} {val : W64} (hs : s.Canon but) :
    OutcomeCanon but (execDtrateWrite die val s) :=
  hs.onLink (fun _ h => h.writeDtrate)

theorem State.Canon.execDtoffWrite {die : Nat} {val : W64} (hs : s.Canon but) :
    OutcomeCanon but (execDtoffWrite die val s) :=
  hs.onLink (fun _ h => h.writeDtoff)

theorem State.Canon.execDtoffRead {die : Nat} (hs : s.Canon but) :
    OutcomeCanon but (execDtoffRead die s) :=
  hs.onLink (fun _ h => h.modDie)

theorem State.Canon.execDoorbellWrite {vf q : Nat} {val : W64} (hs : s.Canon but) :
    OutcomeCanon but (execDoorbellWrite vf q val s) :=
  hs.onLink (fun _ h => h.writeDoorbell)

/-! ## Host commands (R388) -/

theorem State.Canon.cmdMaint {vf x : Nat} {inv : Bool} (hs : s.Canon but) :
    (s.cmdMaint vf x inv).Canon but := by
  unfold State.cmdMaint
  extract_lets +onlyGivenNames sc base args
  split
  · exact hs.finishCommand
  · split
    rename_i hq
    split
    · refine .finishCommand (.of_pair ?_ hq)
      split
      · exact hs
      · exact hs.asidEntry
    · split
      · refine .finishCommand (.of_pair ?_ hq)
        split
        · exact hs
        · exact hs.asidEntry
      · split
        · refine .finishCommand (.of_pair ?_ hq)
          split
          · exact hs
          · exact hs.asidEntry
        · refine .startMaint (.modFn (.of_pair ?_ hq))
          split
          · exact hs
          · exact hs.asidEntry

theorem State.Canon.cmdHaltc {vf x : Nat} (hs : s.Canon but) :
    (s.cmdHaltc vf x).Canon but := by
  unfold State.cmdHaltc
  extract_lets +onlyGivenNames sc cid
  split
  · exact hs.finishCommand
  · split
    · exact hs.finishCommand
    · split
      · rename_i hq
        exact (hs.haltcFor.done hq).finishCommand
      · rename_i hq2
        exact hs.haltcFor.wait hq2

theorem State.Canon.cmdPlace {vf x : Nat} (hs : s.Canon but) :
    (s.cmdPlace vf x).Canon but := by
  unfold State.cmdPlace
  extract_lets +onlyGivenNames key x0 y0 mine
  split
  · split
    · exact hs.finishCommand
    · split
      · exact hs.finishCommand
      · split
        · exact hs.finishCommand
        · exact hs.setCtx.push.finishCommand
  · split
    · exact hs.finishCommand
    · extract_lets +onlyGivenNames r
      split
      · exact hs.finishCommand
      · exact hs.StatePlace.finishCommand

theorem State.Canon.serveCommand {vf : Nat} {want : Nat → Nat → Bool} (hs : s.Canon but) :
    (s.serveCommand vf want).Canon but := by
  unfold State.serveCommand
  split
  · exact hs
  · extract_lets +onlyGivenNames op
    split
    · exact hs
    · split
      · exact hs.cmdMaint
      · split
        · exact hs.cmdMaint
        · split
          · exact hs.cmdHaltc
          · split
            · exact hs.cmdPlace
            · exact hs.finishCommand

/-! ## BAR2, peers and links (R434 to R437) -/

theorem State.Canon.outside {pa : Nat} {acc : HostAccess} (hs : s.Canon but) :
    (s.outside pa acc).Canon but := by
  unfold State.outside
  split
  · split
    rename_i hq
    exact (hs.readMem.of_pair hq).same
  · exact hs.writeMem
  · split
    rename_i hq2
    exact (hs.meet.homeAtomic.of_pair hq2).same

theorem State.Canon.execHostBar2Access {vf off : Nat} {acc : HostAccess} (hs : s.Canon but) :
    OutcomeCanon but (execHostBar2Access vf off acc s) := by
  unfold Machine.execHostBar2Access
  extract_lets +onlyGivenNames at_
  clear_value at_
  split
  · split
    · exact hs.outside
    · exact hs
  · exact hs

theorem State.Canon.execPeerInboundAccess {port pa : Nat} {acc : HostAccess} (hs : s.Canon but) :
    OutcomeCanon but (execPeerInboundAccess port pa acc s) := by
  unfold Machine.execPeerInboundAccess
  extract_lets +onlyGivenNames d
  split
  · exact hs
  · split
    · exact hs.same
    · split
      · exact hs.outside
      · exact hs

/-! ## Function-level reset (R434) -/

theorem State.Canon.stopQueues {f : Nat} (hs : s.Canon but) :
    (s.stopQueues f).Canon but := by
  unfold State.stopQueues
  refine hs.foldl (fun t a2 h => ?_)
  split
  rename_i hq
  have hp := h.queue.of_pair hq
  split
  · extract_lets +onlyGivenNames src
    have h2 : src.Canon but := by
      unfold src
      split
      · exact hp
      · exact hp.writeMem
    clear_value src
    exact h2.same
  · exact hp

theorem State.Canon.killSoon {cid : Nat} (hs : s.Canon but) :
    (s.killSoon cid).Canon but := by
  unfold State.killSoon
  split
  · exact hs
  · split
    · exact hs
    · exact hs.kill
    · exact hs.kill
    · exact hs.raiseHalt.modCtx

theorem State.Canon.withMaints {l : List MaintOp} (hs : s.Canon but) :
    State.Canon but { s with maints := l } :=
  hs.same

theorem State.Canon.execFunctionLevelReset {f : Nat} (hs : s.Canon but) :
    OutcomeCanon but (Machine.execFunctionLevelReset f s) := by
  unfold Machine.execFunctionLevelReset
  show State.Canon but _
  split
  · exact hs
  · extract_lets +onlyGivenNames s1 s2
    have h : s2.Canon but := State.Canon.stopQueues (hs.foldl fun _ _ h => h.killSoon)
    clear_value s2
    exact h.withMaints.modFn

end

end Sys2Proof.Machine
end

section
/-! SUPPORT. The memories stay in canonical form: textures, feedback and the lane forms. -/

-- One lemma at a time: the lemmas of this part at once take more threads than the memory has room for.
set_option Elab.async false

namespace Sys2Proof.Machine

section
variable {but : Option Nat} {s : State}

/-! ## Reads of the gather and texel unit -/

theorem State.Canon.texel {e : Env} {va : W64} {pa n : Nat} {tier : Bool} (hs : s.Canon but) :
    (e.texel va pa n tier s).1.Canon but := by
  unfold Env.texel
  split
  · exact hs
  · split
    rename_i hq
    exact (hs.homeRead.of_pair hq).modCore

/-! ## Feedback (R80 to R82) -/

theorem State.Canon.translateLow {e : Env} {k : Kind} {acc : Accept} {va : W64} (hs : s.Canon but) :
    (e.translateLow s k acc va).1.Canon but := by
  unfold Env.translateLow
  split
  · exact hs.translate
  · exact hs

theorem State.Canon.feedback {e : Env} {d : Lod} {l x0 y0 status : Nat} (hs : s.Canon but) :
    (e.feedback d l x0 y0 status s).Canon but := by
  unfold Env.feedback
  extract_lets +onlyGivenNames key
  split
  · exact hs
  · split
    rename_i hq
    have hp := hs.translateLow.of_pair hq
    split
    · extract_lets +onlyGivenNames s1
      have h : s1.Canon but := by
        unfold s1
        split
        · exact hp
        · exact hp.same
      exact h.request.push
    · exact hp.modCore

/-! ## The fetch (R77) -/

theorem State.Canon.texLookup {e : Env} {quiet : Bool} {va : W64} (hs : s.Canon but) :
    (e.texLookup quiet va s).1.Canon but := by
  unfold Env.texLookup
  extract_lets +onlyGivenNames page
  split
  · exact hs
  · split
    · exact hs
    · split
      · exact hs
      · split
        · exact hs
        · exact hs.requestWalk

theorem State.Canon.lodLevels {e : Env} {d : Lod} {l x0 y0 : Nat} {read log : Bool} {n m : Nat} {a : Bool} (hs : s.Canon but) :
    (e.lodLevels d l x0 y0 read log n m a s).Canon but := by
  induction n generalizing m a s with
  | zero =>
    unfold Env.lodLevels
    exact hs
  | succ n ih =>
    unfold Env.lodLevels
    extract_lets +onlyGivenNames const fb
    have h : ∀ s a, s.Canon but → (fb s a).Canon but := by
      unfold fb
      intro _ _ h
      split
      · exact h.feedback
      · exact h
    extract_lets +onlyGivenNames va
    split
    rename_i hq
    have hp := hs.texLookup.of_pair hq
    split
    · exact hp
    · exact hp
    · split
      rename_i hq2
      extract_lets +onlyGivenNames st
      split
      · refine .of_pair ?_ hq2
        split
        · exact hp.texel
        · exact hp
      · refine h _ _ (.of_pair ?_ hq2)
        split
        · exact hp.texel
        · exact hp
    · split
      · exact h _ _ hp
      · exact ih hp

theorem State.Canon.keep {e : Env} {va : W64} {x : Line} (hs : s.Canon but) :
    (e.keep va x s).Canon but :=
  hs.modSplit

theorem State.Canon.lodFetch {e : Env} {d : Lod} {l x0 y0 : Nat} {read log : Bool} (hs : s.Canon but) :
    (e.lodFetch d l x0 y0 read log s).Canon but := by
  unfold Env.lodFetch
  extract_lets +onlyGivenNames l1 x01 y01 va go
  have h : ∀ a s, s.Canon but → (go a s).Canon but := fun _ _ h => h.lodLevels
  split
  · exact h _ _ hs
  · split
    · rename_i hq
      exact hs.texLookup.of_pair hq
    · rename_i hq2
      exact hs.texLookup.of_pair hq2
    · exact trivial
    · rename_i hq3
      split
      rename_i hq4
      exact h _ _ ((hs.texLookup.of_pair hq3).homeRead.of_pair hq4).keep
    · exact trivial

/-! ## The instructions -/

theorem State.Canon.lodRead {e : Env} {va : W64} {u : Mask} (hs : s.Canon but) :
    (e.lodRead va u s).Canon but := by
  unfold Env.lodRead
  split
  · exact hs
  · split
    · exact hs
    · split
      · rename_i hq
        exact (hs.texLookup.of_pair hq).modSplit
      · rename_i hq2
        split
        rename_i hq3
        exact ((hs.texLookup.of_pair hq2).homeRead.of_pair hq3).keep
      · rename_i hq4
        exact hs.texLookup.of_pair hq4
      · rename_i hq5
        extract_lets +onlyGivenNames s1
        have h : s1.Canon but := (hs.texLookup.of_pair hq5).arrived
        split
        · exact h.violate
        · split
          · exact h.park
          · exact h
      · rename_i hq6
        exact hs.texLookup.of_pair hq6

theorem State.Canon.lodLanes {e : Env} {u : Mask} {lane : Nat → State → LodLane} {finish : List (Nat × List W32) → State → State}
    (hs : s.Canon but) (hlane : ∀ a s, s.Canon but → (lane a s).Canon but) (hfinish : ∀ a s, s.Canon but → (finish a s).Canon but) :
    (e.lodLanes u lane finish s).Canon but := by
  unfold Env.lodLanes
  extract_lets +onlyGivenNames go
  have h : ∀ a a1, a.s.Canon but → (go a a1).s.Canon but := by
    unfold go
    intro _ _ h
    split
    · exact h
    · split
      · rename_i hq
        exact (hlane _ _ h).done hq
      · rename_i hq2
        exact (hlane _ _ h).wait hq2
      · exact h
  exact State.Canon.conclude (fun _ _ h2 => hfinish _ _ h2) (hs.foldl_progress (fun _ _ h2 => h _ _ h2))

theorem State.Canon.execLdlod {h : Hdr} {b : MBody} (hs : s.Canon but) :
    OutcomeCanon but (execLdlod h b s) := by
  unfold Machine.execLdlod
  refine hs.issueWith (fun e2 h2 => ?_)
  extract_lets +onlyGivenNames u n k fin
  have h3 : ∀ a s, s.Canon but → (fin a s).Canon but := fun _ _ h3 => h3.gather
  split
  · rename_i hq
    exact h2.opens.lodRead.stop hq
  · rename_i hq2
    exact (h2.opens.lodRead.withdrawn hq2).lodLanes (fun _ _ h4 => h4) (fun _ _ h4 => h3 _ _ h4)
  · rename_i hq3
    have hp := h2.opens.lodRead.desc hq3
    split
    · exact hp
    · refine hp.lodLanes (fun a2 t h4 => ?_) (fun _ _ h4 => h3 _ _ h4)
      split
      · rename_i hq4
        exact h4.lodFetch.got hq4
      · rename_i hq5
        exact h4.lodFetch.wait hq5
      · exact trivial

theorem State.Canon.txgFetches {e : Env} {d : Lod} {l : Nat} {xs ys : Nat → Nat} {read log : Bool} {ks : List Nat} {ts : List W32} {m : Nat}
    (hs : s.Canon but) : (e.txgFetches d l xs ys read log ks s ts m).1.Canon but := by
  induction ks generalizing s ts m with
  | nil => exact hs
  | cons k ks ih =>
    unfold Env.txgFetches
    split
    · trivial
    · rename_i hq
      exact hs.lodFetch.wait hq
    · rename_i hq
      exact ih (hs.lodFetch.got hq)

theorem State.Canon.txgLane {e : Env} {d : Lod} {mode : Nat} {u v lam : W32} (hs : s.Canon but) :
    (e.txgLane d mode u v lam s).Canon but := by
  unfold Env.txgLane
  extract_lets l
  split
  split
  extract_lets xs ys
  generalize hr : e.txgFetches d l xs ys false false [0, 1, 2, 3] s [] 0 = r
  have h : r.1.Canon but := hr ▸ hs.txgFetches
  split
  · exact h
  · trivial
  · generalize hr : e.txgFetches d l xs ys true true [0, 1, 2, 3] s [] 0 = r
    have h : r.1.Canon but := hr ▸ hs.txgFetches
    split
    · exact h
    · exact h

theorem State.Canon.execTxg {h : Hdr} {b : MBody} (hs : s.Canon but) :
    OutcomeCanon but (execTxg h b s) := by
  unfold Machine.execTxg
  refine hs.issueWith (fun e2 h2 => ?_)
  extract_lets +onlyGivenNames u at_ fin
  have h3 : ∀ a s, s.Canon but → (fin a s).Canon but := fun _ _ h3 => h3.gather
  split
  · rename_i hq
    exact h2.opens.lodRead.stop hq
  · rename_i hq2
    split
    rename_i hq3
    exact ((h2.opens.lodRead.withdrawn hq2).draw.of_snd hq3).lodLanes (fun _ _ h4 => h4) (fun _ _ h4 => h3 _ _ h4)
  · rename_i hq4
    have hp := h2.opens.lodRead.desc hq4
    split
    · exact hp
    · exact hp.lodLanes (fun _ _ h4 => h4.txgLane) (fun _ _ h4 => h3 _ _ h4)

theorem State.Canon.resq {i : Instr} {h : Hdr} {b : MBody} {log : Bool} (hs : s.Canon but) :
    OutcomeCanon but (resq i h b log s) := by
  unfold Machine.resq
  refine hs.issueWith (fun e2 h2 => ?_)
  extract_lets +onlyGivenNames u fin
  have h3 : ∀ a s, s.Canon but → (fin a s).Canon but := fun _ _ h3 => h3.gather
  split
  · rename_i hq
    exact h2.opens.lodRead.stop hq
  · rename_i hq2
    exact (h2.opens.lodRead.withdrawn hq2).lodLanes (fun _ _ h4 => h4) (fun _ _ h4 => h3 _ _ h4)
  · rename_i hq3
    have hp := h2.opens.lodRead.desc hq3
    split
    · exact hp
    · refine hp.lodLanes (fun a2 t h4 => ?_) (fun _ _ h4 => h3 _ _ h4)
      split
      · rename_i hq4
        exact h4.lodFetch.got hq4
      · rename_i hq5
        exact h4.lodFetch.wait hq5
      · exact trivial

/-! ## The feedback ring's own steps (R80, R82) -/

theorem State.Canon.fbFlag {off bits : Nat} (hs : s.Canon but) :
    (s.fbFlag off bits).Canon but :=
  hs.ofAtrium (Mem.writeN_wf _ hs.atriumWf _ _)

theorem State.Canon.execFeedbackReserve {id : Nat} (hs : s.Canon but) :
    OutcomeCanon but (Machine.execFeedbackReserve id s) := by
  unfold Machine.execFeedbackReserve
  split
  · exact hs
  · split
    · split
      · exact hs.answered.modCore
      · split
        · exact hs
        · extract_lets s1 a tail logn s2
          have h : s1.Canon but := hs.answered
          clear_value s1
          have hw (o n x : Nat) : (Mem.writeN a o n x).wf = true := Mem.writeN_wf _ h.atriumWf _ _
          clear_value tail logn
          split
          · exact h
          · split
            · exact h.fbFlag
            · split
              · exact State.Canon.fbFlag (h.ofAtrium (hw _ _ _))
              · have h2 : s2.Canon but := h.ofAtrium (hw _ _ _)
                exact h2.send.push
    · exact hs

theorem State.Canon.execFeedbackEntryWrite {id : Nat} (hs : s.Canon but) :
    OutcomeCanon but (execFeedbackEntryWrite id s) := by
  unfold Machine.execFeedbackEntryWrite
  split
  · exact hs
  · split
    · extract_lets +onlyGivenNames va
      split
      rename_i hq
      split
      · exact hs
      · extract_lets +onlyGivenNames s1
        have h : s1.Canon but := by
          unfold s1
          refine .answered (.of_pair ?_ hq)
          split
          · split
            · exact hs.xlate
            · exact hs
          · exact hs
        split
        · exact (h.ofAtrium (Mem.writeN_wf _ h.atriumWf _ _)).modCore
        · exact h.fbFlag
    · exact hs

theorem State.Canon.uniform {i : Instr} {h : Hdr} {lat : Nat} {wide : Bool} {d : BitVec 6} {val : Env → W64} (hs : s.Canon but) :
    OutcomeCanon but (uniform i h lat wide d val s) :=
  hs.issueWith (fun _ h2 => h2.fixed)

theorem State.Canon.arith {i : Instr} {h : Hdr} {b : UBody} {lat : Nat} {f : Int → Int → Int → Int} (hs : s.Canon but) :
    OutcomeCanon but (arith i h b lat f s) :=
  hs.uniform

theorem State.Canon.bitwise {i : Instr} {h : Hdr} {b : UBody} {f : W64 → W64 → W64} (hs : s.Canon but) :
    OutcomeCanon but (bitwise i h b f s) :=
  hs.uniform

theorem State.Canon.shift {i : Instr} {h : Hdr} {b : UBody} {f : Nat → Nat → Nat → Nat} (hs : s.Canon but) :
    OutcomeCanon but (shift i h b f s) :=
  hs.uniform

theorem State.Canon.execScmp {h : Hdr} {b : UBody} (hs : s.Canon but) :
    OutcomeCanon but (execScmp h b s) :=
  hs.issueWith (fun _ h2 => h2.fixed)

theorem State.Canon.execSrd {h : Hdr} {b : UBody} (hs : s.Canon but) :
    OutcomeCanon but (execSrd h b s) := by
  unfold Machine.execSrd
  refine hs.issueWith (fun e2 h2 => ?_)
  extract_lets +onlyGivenNames w
  split
  · exact h2.later
  · exact h2.fixed

theorem State.Canon.execSrdV {h : Hdr} {b : UBody} (hs : s.Canon but) :
    OutcomeCanon but (execSrdV h b s) :=
  hs.issueWith (fun _ h2 => h2.later)

theorem State.Canon.execSwr {h : Hdr} {b : UBody} (hs : s.Canon but) :
    OutcomeCanon but (execSwr h b s) :=
  hs.issueWith (fun _ h2 => h2.modGroup)

theorem State.Canon.execSwrV {h : Hdr} {b : UBody} (hs : s.Canon but) :
    OutcomeCanon but (execSwrV h b s) :=
  hs.issueWith (fun _ h2 => h2.modGroup)

theorem State.Canon.vres {e : Env} {h : Hdr} {lat : Nat} {d : BitVec 8} {tag : BitVec 4} {f : Nat → W32} (hs : s.Canon but) :
    (e.vres h lat d tag f s).Canon but :=
  hs.fixed

theorem State.Canon.lanewise {i : Instr} {h : Hdr} {b : VBody} {lat : Nat} {f : W32 → W32 → W32} (hs : s.Canon but) :
    OutcomeCanon but (lanewise i h b lat f s) :=
  hs.issueWith (fun _ h2 => h2.vres)

theorem State.Canon.intLanes {i : Instr} {h : Hdr} {b : VBody} {lat : Nat} {sat : Bool} {f : Int → Int → Int} (hs : s.Canon but) :
    OutcomeCanon but (intLanes i h b lat sat f s) :=
  hs.lanewise

theorem State.Canon.bitLanes {i : Instr} {h : Hdr} {b : VBody} {f : W32 → W32 → W32} (hs : s.Canon but) :
    OutcomeCanon but (bitLanes i h b f s) :=
  hs.issueWith (fun _ h2 => h2.vres)

theorem State.Canon.oneLane {i : Instr} {h : Hdr} {b : VBody} {lat : Nat} {tag : BitVec 4} {f : W32 → W32} (hs : s.Canon but) :
    OutcomeCanon but (oneLane i h b lat tag f s) :=
  hs.issueWith (fun _ h2 => h2.vres)

theorem State.Canon.shiftLanes {i : Instr} {h : Hdr} {b : VBody} {f : Nat → Nat → Nat → Nat} (hs : s.Canon but) :
    OutcomeCanon but (shiftLanes i h b f s) :=
  hs.issueWith (fun _ h2 => h2.vres)

/-! ## Rounding with the LFSR (R209) -/

theorem State.Canon.stepped {e : Env} {m : Mask} {rm : BitVec 3} {n : Nat} (hs : s.Canon but) :
    (e.stepped m rm n s).Canon but := by
  unfold Env.stepped
  split
  · exact hs.modGroup
  · exact hs

theorem State.Canon.floatLanes {i : Instr} {h : Hdr} {b : VBody} {f : Rnd → Nat → Nat → Nat} (hs : s.Canon but) :
    OutcomeCanon but (floatLanes i h b f s) :=
  hs.issueWith (fun _ h2 => h2.vres.stepped)

theorem State.Canon.floatOne {i : Instr} {h : Hdr} {b : VBody} {lat : Nat} {f : Rnd → Nat → Nat} (hs : s.Canon but) :
    OutcomeCanon but (floatOne i h b lat f s) :=
  hs.issueWith (fun _ h2 => h2.vres.stepped)

theorem State.Canon.floatThree {i : Instr} {h : Hdr} {b : V3Body} {f : Rnd → Nat → Nat → Nat → Nat} (hs : s.Canon but) :
    OutcomeCanon but (floatThree i h b f s) :=
  hs.issueWith (fun _ h2 => h2.vres.stepped)

/-! ## Integer, bitwise and move forms -/

theorem State.Canon.execVnot {h : Hdr} {b : VBody} (hs : s.Canon but) :
    OutcomeCanon but (execVnot h b s) :=
  hs.issueWith (fun _ h2 => h2.vres)

theorem State.Canon.execVbfi {h : Hdr} {b : V3Body} (hs : s.Canon but) :
    OutcomeCanon but (execVbfi h b s) :=
  hs.issueWith (fun _ h2 => h2.vres)

theorem State.Canon.execVcmp {h : Hdr} {b : VBody} (hs : s.Canon but) :
    OutcomeCanon but (execVcmp h b s) :=
  hs.issueWith (fun _ h2 => h2.fixed)

theorem State.Canon.execVmov {h : Hdr} {b : VBody} (hs : s.Canon but) :
    OutcomeCanon but (execVmov h b s) :=
  hs.issueWith (fun _ h2 => h2.vres)

theorem State.Canon.execVmovi {h : Hdr} {b : VBody} (hs : s.Canon but) :
    OutcomeCanon but (execVmovi h b s) :=
  hs.issueWith (fun _ h2 => h2.vres)

theorem State.Canon.execVmad {h : Hdr} {b : V3Body} (hs : s.Canon but) :
    OutcomeCanon but (execVmad h b s) :=
  hs.issueWith (fun _ h2 => h2.vres)

theorem State.Canon.execVsel {h : Hdr} {b : V3Body} (hs : s.Canon but) :
    OutcomeCanon but (execVsel h b s) :=
  hs.issueWith (fun _ h2 => h2.vres)

/-! ## FP32 forms -/

theorem State.Canon.minMaxLanes {i : Instr} {h : Hdr} {b : VBody} {max : Bool} (hs : s.Canon but) :
    OutcomeCanon but (Machine.minMaxLanes i h b max s) := by
  unfold Machine.minMaxLanes
  exact hs.lanewise

theorem State.Canon.execVfcmp {h : Hdr} {b : VBody} (hs : s.Canon but) :
    OutcomeCanon but (execVfcmp h b s) :=
  hs.issueWith (fun _ h2 => h2.fixed)

theorem State.Canon.execVfclass {h : Hdr} {b : VBody} (hs : s.Canon but) :
    OutcomeCanon but (execVfclass h b s) :=
  hs.issueWith (fun _ h2 => h2.fixed)

/-! ## Conversions and tags -/

theorem State.Canon.execVcvt {h : Hdr} {b : VBody} (hs : s.Canon but) :
    OutcomeCanon but (execVcvt h b s) := by
  unfold Machine.execVcvt
  refine hs.issueWith (fun e2 h2 => ?_)
  extract_lets +onlyGivenNames s1
  have h3 : s1.Canon but := h2.vres
  split
  · exact h3.stepped
  · exact h3

theorem State.Canon.execVpack {h : Hdr} {b : VBody} (hs : s.Canon but) :
    OutcomeCanon but (execVpack h b s) := by
  unfold Machine.execVpack
  refine hs.issueWith (fun e2 h2 => ?_)
  extract_lets +onlyGivenNames at_ s1
  have h3 : s1.Canon but := h2.vres
  split
  · exact h3.stepped
  · exact h3

theorem State.Canon.execVunpk {h : Hdr} {b : VBody} (hs : s.Canon but) :
    OutcomeCanon but (execVunpk h b s) :=
  hs.issueWith (fun _ h2 => h2.vres)

theorem State.Canon.execVtag {h : Hdr} {b : VBody} (hs : s.Canon but) :
    OutcomeCanon but (execVtag h b s) :=
  hs.issueWith (fun _ h2 => h2.fixed)

/-! ## Lane operations (R291) -/

theorem State.Canon.execVshfl {h : Hdr} {b : VBody} (hs : s.Canon but) :
    OutcomeCanon but (execVshfl h b s) :=
  hs.issueWith (fun _ h2 => h2.fixed)

theorem State.Canon.execVbcast {h : Hdr} {b : VBody} (hs : s.Canon but) :
    OutcomeCanon but (execVbcast h b s) :=
  hs.issueWith (fun _ h2 => h2.fixed)

theorem State.Canon.execVred {h : Hdr} {b : VBody} (hs : s.Canon but) :
    OutcomeCanon but (execVred h b s) := by
  unfold Machine.execVred
  refine hs.issueWith (fun e2 h2 => ?_)
  extract_lets +onlyGivenNames x s1
  have h3 : s1.Canon but := by
    unfold s1
    split
    · exact h2.fixed
    · exact h2.vres
  split
  · exact h3.stepped
  · exact h3

theorem State.Canon.execVscan {h : Hdr} {b : VBody} (hs : s.Canon but) :
    OutcomeCanon but (execVscan h b s) := by
  unfold Machine.execVscan
  refine hs.issueWith (fun e2 h2 => ?_)
  extract_lets +onlyGivenNames d s1
  have h3 : s1.Canon but := h2.vres
  split
  · exact h3.stepped
  · exact h3

theorem State.Canon.execVballot {h : Hdr} {b : VBody} (hs : s.Canon but) :
    OutcomeCanon but (execVballot h b s) :=
  hs.issueWith (fun _ h2 => h2.fixed)

/-! ## Dot products and interpolation -/

theorem State.Canon.dotLanes {i : Instr} {h : Hdr} {b : V3Body} (hs : s.Canon but) :
    OutcomeCanon but (dotLanes i h b s) := by
  unfold Machine.dotLanes
  split
  · exact hs.issueWith (fun _ h2 => h2.vres.stepped)
  · exact hs.issueWith (fun _ h2 => h2.vres)

theorem State.Canon.exec {i : Instr} (hs : s.Canon none) :
    OutcomeCanon none (exec i s) := by
  unfold Machine.exec
  split
  · exact hs.uniform
  · exact hs.uniform
  · exact hs.arith
  · exact hs.arith
  · exact hs.arith
  · exact hs.arith
  · exact hs.arith
  · exact hs.bitwise
  · exact hs.bitwise
  · exact hs.bitwise
  · exact hs.shift
  · exact hs.shift
  · exact hs.shift
  · exact hs.arith
  · exact hs.arith
  · exact hs.execScmp
  · exact hs.uniform
  · exact hs.uniform
  · exact hs.uniform
  · exact hs.uniform
  · exact hs.uniform
  · exact hs.uniform
  · exact hs.execSrd
  · exact hs.execSrdV
  · exact hs.execSwr
  · exact hs.execSwrV
  · exact hs.execSld
  · exact hs.execSst
  · exact hs.uniform
  · exact hs.execAnchor
  · exact hs.execBr
  · exact hs.execBrx
  · exact hs.execPad
  · exact hs.execCall
  · exact hs.execRet
  · exact hs.execJoin
  · exact hs.execLoop
  · exact hs.execExit
  · exact hs.execYield
  · exact hs.execNop
  · exact hs.execBkpt
  · exact hs.execTrap
  · exact hs.intLanes
  · exact hs.intLanes
  · exact hs.intLanes
  · exact hs.intLanes
  · exact hs.intLanes
  · exact hs.intLanes
  · exact hs.oneLane
  · exact hs.bitLanes
  · exact hs.bitLanes
  · exact hs.bitLanes
  · exact hs.execVnot
  · exact hs.shiftLanes
  · exact hs.shiftLanes
  · exact hs.shiftLanes
  · exact hs.oneLane
  · exact hs.oneLane
  · exact hs.oneLane
  · exact hs.execVcmp
  · exact hs.execVmov
  · exact hs.execVmovi
  · exact hs.floatLanes
  · exact hs.floatLanes
  · exact hs.minMaxLanes
  · exact hs.minMaxLanes
  · exact hs.oneLane
  · exact hs.oneLane
  · exact hs.floatOne
  · exact hs.oneLane
  · exact hs.oneLane
  · exact hs.oneLane
  · exact hs.oneLane
  · exact hs.execVfcmp
  · exact hs.execVfclass
  · exact hs.floatOne
  · exact hs.oneLane
  · exact hs.floatLanes
  · exact hs.floatLanes
  · exact hs.minMaxLanes
  · exact hs.minMaxLanes
  · exact hs.execVcvt
  · exact hs.execVpack
  · exact hs.execVunpk
  · exact hs.execVtag
  · exact hs.execVshfl
  · exact hs.execVbcast
  · exact hs.execVred
  · exact hs.execVscan
  · exact hs.execVballot
  · exact hs.execVmad
  · exact hs.execVbfi
  · exact hs.execVsel
  · exact hs.floatThree
  · exact hs.floatThree
  · exact hs.floatThree
  · exact hs.dotLanes
  · exact hs.dotLanes
  · exact hs.execLd
  · exact hs.execSt
  · exact hs.lineLoad
  · exact hs.lineStore
  · exact hs.lineLoad
  · exact hs.lineStore
  · exact hs.lineLoad
  · exact hs.lineStore
  · exact hs.atomic
  · exact hs.atomic
  · exact hs.execAtoma
  · exact hs.execLdlod
  · exact hs.execTxg
  · exact hs.resq
  · exact hs.resq
  · exact hs.pref
  · exact hs.pref
  · exact hs.copyIssue
  · exact hs.copyIssue
  · exact hs.copyIssue
  · exact hs.copyIssue
  · exact hs.copyIssue
  · exact hs.copyIssue
  · exact hs.execTwany
  · exact hs.execTwall
  · exact hs.execTfirst
  · exact hs.execTcnt
  · exact hs.execAbinit
  · exact hs.execAbexp
  · exact hs.execAbarr
  · exact hs.execAbwait
  · exact hs.execAbtest
  · exact hs.flacq
  · exact hs.flacq
  · exact hs.flrel
  · exact hs.flrel
  · exact hs.execBan
  · exact hs.execBana
  · exact hs.execBanw
  · exact hs.arrayIssue
  · exact hs.arrayIssue
  · exact hs.arrayIssue
  · exact hs.arrayIssue
  · exact hs.arrayIssue
  · exact hs.arrayIssue
  · exact hs.execVxm
  · exact hs.arrayIssue
  · exact hs.arrayIssue
  · exact hs.arrayIssue
  · exact hs.arrayIssue
  · exact hs.execAccrdEl
  · exact hs.execAccrdSt
  · exact hs.arrayIssue
  · exact hs.arrayIssue
  · exact hs.arrayIssue
  · exact hs.arrayIssue
  · exact hs.arrayIssue
  · exact hs.execCvg
  · exact hs.arrayIssue
  · exact hs.arrayIssue
  · exact hs.arrayIssue
  · exact hs.arrayIssue
  · exact hs.arrayIssue
  · exact hs.arrayIssue
  · exact hs.arrayIssue
  · exact hs.arrayIssue
  · exact hs.execSpawn
  · exact hs.execSpawnLane
  · exact hs.execSpawnc
  · exact hs.execAwait
  · exact hs.execFnew
  · exact hs.fres
  · exact hs.fres
  · exact hs.execFwait
  · exact hs.execFpoll
  · exact hs.execReorder
  · exact hs.execTime
  · exact hs.execCtxrd
  · exact hs.execCtxwr
  · exact hs.evpop
  · exact hs.evpop
  · exact hs.maintain
  · exact hs.maintain
  · exact hs.maintain
  · exact hs.maintain
  · exact hs.maintain
  · exact hs.maintain
  · exact hs.haltcOp
  · exact hs.haltcOp
  · exact hs.haltcOp
  · exact hs.execHint
  · exact hs.execJoinRelease
  · exact hs.execReorderRendezvous
  · exact hs.execRegisterLineFill
  · exact hs.writeResults
  · exact hs.execInstructionLineFill
  · exact hs.execPageWalk
  · exact hs.execTlbinvReceive
  · exact hs.execTlbinvDrainAck
  · exact hs.execTlbinvComplete
  · exact hs.execMapqNoticeReceive
  · exact hs.execMapqComplete
  · exact hs.execL2Registration
  · exact hs.execL2WritebackMerge
  · exact hs.execL2Read
  · exact hs.execL2Atomic
  · exact hs.execL2Reduction
  · exact hs.execAtriumBankOperation
  · exact hs.execWaitRegistrationOp
  · exact hs.execGalleryRegistrationOp
  · exact hs.execFutureResolutionOp
  · exact hs.execResolutionNoticeReceive
  · exact hs.execWakeQueuePost
  · exact hs.execWakeQueueHead
  · exact hs.execAwaitPendingDecrement
  · exact hs.execAwaitComplete
  · exact hs.execSlotBind
  · exact hs.execCopyBeat
  · exact hs.execCopyLatticeStart
  · exact hs.execFollowOnIssue
  · exact hs.execCopyComplete
  · exact hs.execBanisterPhaseRelease
  · exact hs.execArrayOpDispatch
  · exact hs.execArrayOpRetire
  · exact hs.execBinnerPrimitive
  · exact hs.execFeedbackReserve
  · exact hs.execFeedbackEntryWrite
  · exact hs.execMigrationCommand
  · exact hs.execMigrationInvalidationDone
  · exact hs.execPorterRecordSelect
  · exact hs.execContextPlacement
  · exact hs.execResourceReservation
  · exact hs.execGroupStart
  · exact hs.execSaveLineArrival
  · exact hs.execPreemptSaveComplete
  · exact hs.execContextRestore
  · exact hs.execCrewCompletion
  · exact hs.postHeld.pushAll
  · exact hs.execHandlerLaunchStart
  · exact hs.execHaltLineArrival
  · exact hs.execHaltSettle
  · exact hs.execContextHalted
  · exact hs.execManagementRegisterWrite
  · exact hs.writeResults
  · exact hs.execUnassignedOpcode
  · exact hs.execAstbWrite
  · exact hs.execHotctlWrite
  · exact hs.execMgtlWrite
  · exact hs.execDctlReset
  · exact hs.execDctlWithdraw
  · exact hs.execDsrWrite
  · exact hs.execVfrzClear
  · exact hs.execEvhlWrite
  · exact hs.execHostRingHeadWrite
  · exact hs.execHcrbTailWrite
  · exact hs.execRsownWrite
  · exact hs.execDtrateWrite
  · exact hs.execDtoffWrite
  · exact hs.execDtoffRead
  · exact hs.execHostBar2Access
  · exact hs.execPeerInboundAccess
  · exact hs.postEvent
  · exact hs.execFunctionLevelReset
  · exact hs.execPowerOn
  · exact hs.execLinkAuthentication
  · exact hs.execSvnFloorRaise
  · exact hs.spdm
  · exact hs.spdm
  · exact hs.spdm
  · exact hs.spdm
  · exact hs.spdm
  · exact hs.spdm
  · exact hs.spdm
  · exact hs.reportDue
  · exact hs.execCorrectableSoftError
  · exact hs.execUncorrectableSoftError
  · exact hs.junction
  · exact hs.junction
  · exact hs.execPldmSetPowerCap
  · exact hs.execPldmSetClockCeiling
  · exact hs.execPldmReadTemperature
  · exact hs.same
  · exact hs.execClockStepChange
  · exact hs.restartShares
  · exact hs.restartBudgets
  · exact hs.execDoorbellWrite
  · exact hs.execCorridorProtocolBreach
  · exact hs.preempt
  · exact hs.execFreeFrameTake
  · exact hs.execPorterMigrationSelect
  · exact hs.execFeedbackDrain
  · exact hs.execFlitAgeLimit
  · exact hs.execNakResend
  · exact hs.resetExpiry
  · exact hs.execDieResetComplete
  · exact hs.serveCommand
  · exact hs.serveCommand
  · exact hs.serveCommand
  · exact hs.serveCommand
  · exact hs.serveCommand
  · exact hs.serveCommand
  · exact hs.closeIntervals
  · exact hs.execL1ForwardRequest
  · exact hs.evictGroup
  · exact hs.execIssuePromotion
  · exact hs.execYieldExpiry
  · exact hs.execTileReload
  · exact hs.execAccumulatorEvict
  · exact hs.execWaiterToGallery
  · exact hs.evictGroup
  · exact hs.execPorterFaultService
  · exact hs.lateCopy
  · exact hs.execMemoryControllerRequest
  · exact hs.postFaults
  · exact hs.stepHalt

end

end Sys2Proof.Machine
end

section
/-! SUPPORT. The memories stay in canonical form: the issue of instructions and the step. -/

-- One lemma at a time: the lemmas of this part at once take more threads than the memory has room for.
set_option Elab.async false

namespace Sys2Proof.Machine

section
variable {but : Option Nat} {s : State}

/-! ## Before an issue decision (R174, R241) -/

theorem State.Canon.cacheAsid {core asid : Nat} (hs : s.Canon but) :
    (s.cacheAsid core asid).Canon but := by
  unfold State.cacheAsid
  split
  · exact hs
  · extract_lets +onlyGivenNames t
    have h : t.Canon but := hs.asidEntry
    split
    · exact hs
    · exact h

theorem State.Canon.prepare {f : Focus} (hs : s.Canon but) :
    (s.prepare f).Canon but := by
  unfold State.prepare
  split
  · exact hs
  · extract_lets +onlyGivenNames s1
    have h : s1.Canon but := hs.cacheAsid
    extract_lets +onlyGivenNames s2
    have h2 : s2.Canon but := h.modGroup
    split
    · exact h2.modSplit
    · exact h2

/-! ## Fetch and decoding (R218 to R221, R238) -/

theorem State.Canon.fetch {e : Env} (hs : s.Canon but) :
    ExceptCanon but Prod.fst (e.fetch s) := by
  unfold Env.fetch
  split
  · exact hs
  · split
    · rename_i hq
      exact hs.fetchLine.error hq
    · rename_i hq2
      split <;> exact hs.fetchLine.ok_fst hq2

/-! ## Readers that come early (R242) -/

theorem State.Canon.lateDraws {reads : Result → Bool} {l : List Result} (hs : s.Canon but) :
    (State.lateDraws reads l s).1.Canon but := by
  induction l generalizing s with
  | nil =>
    unfold State.lateDraws
    exact hs
  | cons a l ih =>
    unfold State.lateDraws
    extract_lets +onlyGivenNames due
    split
    rename_i hq
    split
    rename_i hq2
    refine .of_pair (ih (.of_pair ?_ hq)) hq2
    split
    · split
      rename_i hq3
      exact hs.draw.of_snd hq3
    · exact hs

theorem State.Canon.lateReaders {e : Env} {r : RegUse} (hs : s.Canon but) :
    (e.lateReaders r s).Canon but := by
  unfold Env.lateReaders
  extract_lets +onlyGivenNames reads
  split
  · split
    rename_i hq
    exact (hs.lateDraws.of_pair hq).modGroup
  · exact hs

theorem State.Canon.readStatus {e : Env} {r : RegUse} (hs : s.Canon but) :
    (e.readStatus r s).Canon but := by
  unfold Env.readStatus
  extract_lets +onlyGivenNames mine hit
  split
  · exact hs
  · exact (hs.foldl (fun _ _ h => h.acquire)).modGroup

theorem State.Canon.touch {e : Env} {lines : List RegLine} (hs : s.Canon but) :
    (e.touch lines s).Canon but :=
  hs.modCore

/-! ## The gate -/

theorem State.Canon.readOperands {e : Env} {r : RegUse} (hs : s.Canon but) :
    (e.readOperands r s).Canon but :=
  hs.modGroup

theorem State.Canon.begun {e : Env} {w : BitVec 96} {r : RegUse} {lines : List RegLine} (hs : s.Canon but) :
    (e.begun w r lines s).Canon but :=
  hs.modGroup.lateReaders.readStatus.touch.readOperands

theorem State.Canon.gate {e : Env} {w : BitVec 96} (hs : s.Canon but) :
    (e.gate w s).Canon but := by
  unfold Env.gate
  extract_lets +onlyGivenNames i r
  split
  · exact trivial
  · extract_lets +onlyGivenNames lines missing
    split
    · exact hs.pushAll
    · split
      · exact hs.begun
      · split
        · exact hs.readOperands
        · exact hs

theorem Perf.Canon.fetchEnd {e : Env} {a : Perf} (ha : a.Canon but) :
    (e.fetchEnd a).Canon but := by
  cases a with
  | ok s => exact ha
  | moved s => exact ha
  | stay s => exact ha
  | trap t s => exact State.Canon.take ha

theorem State.Canon.stateGate {f : Focus} (hs : s.Canon but) :
    (s.gate f).Canon but := by
  unfold State.gate
  extract_lets +onlyGivenNames s1
  have h : s1.Canon but := hs.prepare
  split
  · split
    · exact h
    · trivial
  · split
    · trivial
    · split
      · exact h.gate
      · split
        · rename_i hq
          exact Perf.Canon.fetchEnd (h.fetch.error hq)
        · rename_i hq
          exact (h.fetch.ok_fst hq).gate

/-! ## After an issue (R271, R379, R406) -/

theorem State.Canon.unyield {f : Focus} {prio : Nat} (hs : s.Canon but) :
    (s.unyield f prio).Canon but := by
  unfold State.unyield
  refine hs.foldl (fun t a2 h => ?_)
  split
  · refine h.foldl (fun t2 a3 h2 => ?_)
    split
    · split
      · split
        · exact h2
        · exact h2.modSplit
      · exact h2
    · exact h2
  · exact h

theorem State.Canon.makeWay {n : Nat} {c : Core} (hs : s.Canon but) :
    (s.makeWay n c).Canon but := by
  unfold State.makeWay
  extract_lets +onlyGivenNames runs taken
  split
  · exact hs
  · exact hs.push
  · split
    · exact hs.evictGroup
    · split
      · split
        · rename_i hq
          exact hs.execWaiterToGallery.next hq
        · exact hs
      · exact hs

theorem State.Canon.makeWays (hs : s.Canon but) :
    (s.makeWays).Canon but := by
  unfold State.makeWays
  refine hs.foldl (fun t a2 h => ?_)
  split
  · exact h
  · exact h.makeWay

theorem State.Canon.pop {e : Env} (hs : s.Canon but) :
    (e.pop s).Canon but :=
  hs.modGroup

theorem State.Canon.issued {e : Env} {i : Instr} (hs : s.Canon but) :
    (s.issued e i).Canon but := by
  unfold State.issued
  extract_lets +onlyGivenNames s1
  have h : s1.Canon but := hs.unyield
  extract_lets +onlyGivenNames s2
  have h2 : s2.Canon but := h.same
  extract_lets +onlyGivenNames s3
  have h3 : s3.Canon but := h2.modSplit
  extract_lets +onlyGivenNames s4
  have h4 : s4.Canon but := by
    unfold s4
    split
    · exact h3.wakeRelease
    · exact h3
  refine .makeWays ?_
  split
  · exact h4.modGroup.stepHalt
  · exact h4.pop

/-! ## Which split issues next (R379) -/

theorem State.Canon.endYields (hs : s.Canon but) :
    (s.endYields).Canon but :=
  hs.foldl (fun _ _ h => h.modSplit)

theorem State.Canon.ageless (hs : s.Canon but) :
    (s.ageless).Canon but := by
  unfold State.ageless
  refine hs.foldl (fun t e h => ?_)
  split
  · exact h
  · exact h.modSplit

/-! ## Homes in reset (R431, R443) -/

theorem State.Canon.heldEvent {i : Instr} {a : Host.Outcome State Fault Refusal} (hs : s.Canon but) (ha : OutcomeCanon but a) :
    OutcomeCanon but (heldEvent s i a) := by
  unfold Machine.heldEvent
  split
  · split
    · exact hs.same
    · exact ha
  · exact ha
  · exact ha

theorem State.Canon.heldIssue {e : Env} (hs : s.Canon but) :
    (e.heldIssue s).Canon but :=
  hs.modSplit

/-! ## When nothing issues -/

theorem State.Canon.unlessMet {a o : Host.Outcome State Fault Refusal} (ha : OutcomeCanon but a) (h : s.unlessMet a = some o) :
    OutcomeCanon but o := by
  unfold State.unlessMet at h
  split at h
  · split at h
    · cases h
    · cases h
      exact ha
  · cases h
    exact ha

theorem State.Canon.service {o : Host.Outcome State Fault Refusal} (hs : s.Canon but) (h : s.service = some o) : OutcomeCanon but o := by
  unfold State.service at h
  simp only [Option.orElse_eq_some, Option.bind_eq_some_iff, Option.map_eq_some_iff] at h
  rcases h with ⟨vf, -, h⟩ | ⟨-, ⟨p, -, h⟩ | ⟨-, ⟨x, -, rfl⟩ | ⟨-, x, -, rfl⟩⟩⟩
  · exact State.Canon.unlessMet (a := .next _) (hs.serveCommand) h
  · exact State.Canon.unlessMet hs.execPorterFaultService h
  · exact hs.execJoinRelease
  · exact hs.leaveForGallery

theorem State.Canon.idle (hs : s.Canon but) :
    OutcomeCanon but (s.idle) := by
  unfold State.idle
  split
  · exact hs.execFeedbackDrain
  · split
    · exact hs.execDieResetComplete
    · exact hs.makeWays

/-! ## Time (R373, R377) -/

theorem State.Canon.tickAgeless {n u : Nat} (hs : s.Canon but) :
    ((s.tick n).charge u).restartShares.restartBudgets.closeIntervals.diesPass.ageless.Canon but :=
  hs.tick.charge.restartShares.restartBudgets.closeIntervals.diesPass.ageless

theorem State.Canon.noneIssued (hs : s.Canon but) :
    State.Canon but { s with issuedNow := [] } :=
  hs.same

theorem State.Canon.pass {n : Nat} (hs : s.Canon but) :
    (s.pass n).Canon but := by
  unfold State.pass
  split
  · exact hs
  · exact hs.tickAgeless.noneIssued

theorem State.Canon.finish {e : Env} {i : Instr} {a : Host.Outcome State Fault Refusal} (hs : s.Canon but) (ha : OutcomeCanon but a) :
    OutcomeCanon but (Machine.finish e i s a) := by
  cases a with
  | next t => exact State.Canon.ite hs.heldIssue (State.Canon.issued ha)
  | fault r => exact trivial
  | refused r => exact trivial

theorem State.Canon.issueAt {f : Focus} (hs : s.Canon none) :
    OutcomeCanon none (issueAt f s) := by
  unfold Machine.issueAt
  split
  · exact trivial
  · split
    · exact hs
    · rename_i hq
      exact hs.stateGate.busy hq
    · rename_i hq2
      have hp := hs.stateGate.go hq2
      split
      · exact hp
      · exact hp.same.finish hp.same.exec

theorem State.Canon.act {a : Act} (hs : s.Canon none) :
    OutcomeCanon none (act a s) := by
  unfold Machine.act
  split
  · split
    · exact hs.issueAt
    · exact hs
  · split
    · exact hs
    · exact hs.heldEvent hs.exec

theorem State.Canon.step (hs : s.Canon none) :
    OutcomeCanon none (Machine.step s) := by
  unfold Machine.step
  split
  · exact State.Canon.act (State.Canon.pass hs.same)
  · split
    · exact State.Canon.heldEvent hs.same (State.Canon.exec hs.same)
    · split
      · rename_i hq
        exact hs.service hq
      · split
        · exact hs.issueAt
        · split
          · exact hs.endYields
          · have h : (s.pass 1).Canon none := hs.pass
            generalize s.pass 1 = t at h ⊢
            split
            · exact h.idle
            · exact h

end

end Sys2Proof.Machine
end

section
namespace Sys2Proof.Machine

/-- Settles O58: a step keeps `State.Canon` with no core left out, which is `State.memWf`. -/
theorem memoriesStayCanonical : Obligations.MemoriesStayCanonical := by
  unfold Obligations.MemoriesStayCanonical
  intro s t hs hstep
  exact (State.canon_none_iff t).1 (((State.canon_none_iff s).2 hs).step.next hstep)

end Sys2Proof.Machine
end


section
/-! SUPPORT. The issue of copies (R138, R139, R312). -/

namespace Sys2Proof.Machine

/-! ## An instruction that performs at the focus -/

section
variable {s t : State} {e : Env} {i : Instr} {h : Hdr} {tags : Env → Bool} {body : Env → Perf}

theorem Performs.state (hp : Performs s e i h) : e.s = s := Env.of_state hp.here

theorem Performs.ok (hp : Performs s e i h) (ht : tags e = true) (hb : body e = .ok t) :
    issueWith i h tags body s = .next (e.next h (slotsOf i) t) := issueWith_ok hp.here hp.legal ht hp.guarded hb

theorem Performs.stay (hp : Performs s e i h) (ht : tags e = true) (hb : body e = .stay t) : issueWith i h tags body s = .next t :=
  issueWith_stay hp.here hp.legal ht hp.guarded hb

theorem Performs.trap {x : TrapInfo} (hp : Performs s e i h) (ht : tags e = true) (hb : body e = .trap x t) :
    issueWith i h tags body s = .next (e.take x t) := issueWith_trap hp.here hp.legal ht hp.guarded hb

theorem Performs.wellFormed (hp : Performs s e i h) : i.wellFormed = true := by
  have hl := hp.legal
  simp only [Env.legal, Bool.and_eq_true] at hl
  exact hl.1.1.1

end

/-- A release that has nothing left to wait for goes on at once (R101). -/
theorem Env.withRelease_ready {e : Env} {s : State} (k : State → Perf) (h : e.releaseReady s = true) : e.withRelease s k = k s := by
  unfold Env.withRelease
  rw [if_pos h]

/-! ## Copies that pass their checks (R139, R312) -/

/-- The phase that a copy's credits are bound to: that of its barrier at the issue (R160). -/
def State.phaseAt (s : State) : Option BarPlace → Nat
  | some q => (s.bar q).phase
  | none => 0

/-- The follow-on that a copy takes with it, and the state in which it has been fetched (R149, R150). -/
def Env.FollowOn (e : Env) (b : ABody) (s : State) (f : Option Instr) (t : State) : Prop :=
  if b.fo then ∃ j, f = some j ∧ e.followOn s = .ok (t, j) else f = none ∧ t = s

/-- The place of a copy's barrier, and the state in which it has been found. -/
def Env.BarAt (e : Env) (b : ABody) (t : State) (p : Option BarPlace) (u : State) : Prop :=
  if b.be then ∃ q, p = some q ∧ e.barPlace (e.u64 b.ba) t = .ok (u, q) else p = none ∧ u = t

/-- Copies that pass their checks are queued, one record for each, in order. -/
theorem copyIssue_queues {i : Instr} {h : Hdr} {b : ABody} {tags : Env → Bool} {reqs : Env → List CopyReq} {check : Env → Option FaultCode}
    {s t u : State} {e : Env} {x : TagSt} {f : Option Instr} {p : Option BarPlace} (hp : Performs s e i h) (htags : tags e = true)
    (htag : e.crew.bind (·.tag b.tg.toNat) = some x) (hcheck : check e = none) (hfollow : e.FollowOn b s f t) (hbar : e.BarAt b t p u)
    (hroom : (s.core e.f.core).ce.length + (reqs e).length ≤ 256) (hcount : x.count + (reqs e).length ≤ 65535)
    (hready : e.releaseReady u = true) :
    copyIssue i h b tags reqs check s = .next (e.next h (slotsOf i) ((reqs e).foldl (e.enqueue b f (u.phaseAt p)) u)) := by
  have hfull : ¬ (256 < (s.core e.f.core).ce.length + (reqs e).length ∨ 65535 < x.count + (reqs e).length) := by omega
  refine hp.ok htags ?_
  unfold Env.FollowOn at hfollow
  unfold Env.BarAt at hbar
  split at hfollow <;> split at hbar
  · obtain ⟨j, rfl, hj⟩ := hfollow
    obtain ⟨q, rfl, hq⟩ := hbar
    simp [*, hp.state, Except.map, Env.withRelease_ready, State.phaseAt]
  · obtain ⟨j, rfl, hj⟩ := hfollow
    obtain ⟨rfl, rfl⟩ := hbar
    simp [*, hp.state, Env.withRelease_ready, State.phaseAt]
  · obtain ⟨rfl, rfl⟩ := hfollow
    obtain ⟨q, rfl, hq⟩ := hbar
    simp [*, hp.state, Except.map, Env.withRelease_ready, State.phaseAt]
  · obtain ⟨rfl, rfl⟩ := hfollow
    obtain ⟨rfl, rfl⟩ := hbar
    simp [*, hp.state, Env.withRelease_ready, State.phaseAt]


/-- The slots of a copy that takes no follow-on. -/
theorem ABody.slots_of_no_follow {b : ABody} (h : b.fo = false) : (if b.fo then 2 else 1) = 1 := by simp [h]

/-- A CPYL whose offsets lie in the allocation, at multiples of 32, fails no check but those of its sources and barrier (R313). -/
theorem cpyl_offsets_pass {e : Env} {b : ABody} {ls : List Nat}
    (h : ∀ l ∈ ls, 0 ≤ e.cpylOff b l ∧ e.cpylOff b l + 32 ≤ e.alcove.2 ∧ (e.cpylOff b l).toNat % 32 = 0) :
    ((ls.map fun l => e.cpylOff b l).any fun o => o < 0 || ((e.alcove.2 : Nat) : Int) < o + 32) = false ∧
      ((ls.map fun l => e.cpylOff b l).any fun o => o.toNat % 32 != 0) = false := by
  simp only [List.any_map, List.any_eq_false, Function.comp_apply, Bool.or_eq_true, decide_eq_true_eq, bne_iff_ne, not_or, Int.not_lt,
    ne_eq, not_not]
  exact ⟨fun l hl => ⟨(h l hl).1, (h l hl).2.1⟩, fun l hl => (h l hl).2.2⟩

/-- Settles O28: each form is one use of `copyIssue_queues`, with its own records and checks. -/
theorem copiesIssue : Obligations.CopiesIssue := by
  unfold Obligations.CopiesIssue
  intro s e h b x f t u p issues src dst len al none6 cpyl va from_
  have queued {i : Instr} {tags : Env → Bool} {reqs : Env → List CopyReq} {check : Env → Option FaultCode} {rs : List CopyReq}
      {c : Option FaultCode} (hexec : exec i s = copyIssue i h b tags reqs check s) (htags : tags e = true) (hreqs : reqs e = rs)
      (hcheck : c = none → check e = none) (hslots : i.wellFormed = true → slotsOf i = if b.fo then 2 else 1) : issues i rs c := by
    intro hp htag hc hfollow hbar hroom hcount hready
    subst hreqs
    rw [hexec, copyIssue_queues hp htags htag (hcheck hc) hfollow hbar hroom hcount hready, hslots hp.wellFormed]
    cases p <;> rfl
  have single {i : Instr} (hslots : slotsOf i = 1) (hfo : i.wellFormed = true → b.fo = false) :
      i.wellFormed = true → slotsOf i = if b.fo then 2 else 1 := fun hw => hslots.trans (ABody.slots_of_no_follow (hfo hw)).symm
  refine ⟨?_, ?_, ?_, fun htags hoffs => ?_, ?_, ?_⟩
  · refine queued (tags := noTags) rfl rfl rfl ?_ fun _ => rfl
    simp [src, dst, len, al, beq_eq_decide, Bool.and_assoc]
  · refine queued (tags := noTags) rfl rfl rfl ?_ (single rfl ?_)
    · simp [dst, len, al, beq_eq_decide]
    · simp [Instr.wellFormed]
  · refine queued (tags := noTags) rfl rfl rfl ?_ (single rfl ?_)
    · simp [src, dst, al, beq_eq_decide, Bool.and_assoc]
    · simp [Instr.wellFormed]
  · refine queued rfl htags rfl ?_ (single rfl ?_)
    · obtain ⟨hin, haligned⟩ := cpyl_offsets_pass hoffs
      intro hc
      simp only [cpyl] at hin haligned
      simp only [cpyl, from_, va] at hc
      simp only [hc, hin, haligned]
      rfl
    · simp [Instr.wellFormed]
  · exact queued (tags := noTags) rfl rfl rfl id fun _ => rfl
  · refine queued (tags := noTags) rfl rfl rfl id (single rfl ?_)
    simp [Instr.wellFormed]

end Sys2Proof.Machine
end


section
/-! SUPPORT. Queueing a copy: its record, its tag and its status register (R139, R152). -/

namespace Sys2Proof.Machine

/-! ## Crews and their tags -/

theorem modNth_getElem?_self {α : Type} (l : List α) (i : Nat) (f : α → α) : (modNth l i f)[i]? = l[i]?.map f := by
  induction l generalizing i with
  | nil => rfl
  | cons x l ih => cases i with
    | zero => rfl
    | succ i => simpa [modNth] using ih i

theorem modNth_getElem?_ne {α : Type} (l : List α) {i j : Nat} (f : α → α) (h : i ≠ j) : (modNth l i f)[j]? = l[j]? := by
  induction l generalizing i j with
  | nil => rfl
  | cons x l ih => cases i <;> cases j <;> simp_all [modNth]

@[simp] theorem Ctx.crew_modCrew_self (c : Ctx) (n : Nat) (f : Crew → Crew) : (c.modCrew n f).crew n = (c.crew n).map f :=
  modNth_getElem?_self ..

theorem Ctx.crew_modCrew_ne (c : Ctx) {n m : Nat} (f : Crew → Crew) (h : n ≠ m) : (c.modCrew n f).crew m = c.crew m :=
  modNth_getElem?_ne _ _ h

@[simp] theorem Crew.tag_modTag_self (c : Crew) (n : Nat) (f : TagSt → TagSt) : (c.modTag n f).tag n = (c.tag n).map f :=
  modNth_getElem?_self ..

@[simp] theorem State.ctx_modCrew_self (s : State) (cid n : Nat) (f : Crew → Crew) :
    (s.modCrew cid n f).ctx cid = (s.ctx cid).map fun c => c.modCrew n f := State.ctx_modCtx_self ..

@[simp] theorem State.frame_modCrew (s : State) (cid n : Nat) (f : Crew → Crew) (d k : Nat) : (s.modCrew cid n f).frame d k = s.frame d k :=
  State.frame_modCtx (g := fun c => c.modCrew n f) (fun _ => rfl) d k

@[simp] theorem State.core_modCrew (s : State) (cid n : Nat) (f : Crew → Crew) (m : Nat) : (s.modCrew cid n f).core m = s.core m :=
  State.core_modCtx ..

/-- A change of a frame leaves the crews of every context. -/
theorem State.crew_modFrame (s : State) (cid h d : Nat) (f : Frame → Frame) (n : Nat) :
    ((s.modFrame cid h f).ctx d).bind (·.crew n) = (s.ctx d).bind (·.crew n) := by
  unfold State.modFrame
  by_cases hd : cid = d
  · subst hd
    rw [State.ctx_modCtx_self]
    cases s.ctx cid with
    | none => rfl
    | some c =>
      simp only [Option.map_some, Option.bind_some]
      split <;> rfl
  · rw [State.ctx_modCtx_ne _ _ _ _ hd]

/-! ## What one more copy does -/

section
variable {s t : State} {e : Env} {b : ABody} {f : Option Instr} {phase : Nat} {r : CopyReq}

/-- The state in which a copy's status register is owed, where it names one. -/
def Env.oweStatus (e : Env) (b : ABody) (seq : Nat) (s : State) : State :=
  if b.se then e.modGroup s fun g => { g with owed := g.owed ++ [⟨e.f.split, b.sv, b.st.toNat, false, seq, g.nextId, none⟩] } else s

theorem Env.enqueue_eq (e : Env) (b : ABody) (f : Option Instr) (phase : Nat) (s : State) (r : CopyReq) :
    e.enqueue b f phase s r =
      (e.oweStatus b (s.core e.f.core).ceSeq
        (e.modCrew (e.modCore s fun c => { c with ceSeq := (c.ceSeq + 1) % 2 ^ 32, ce := c.ce ++ [e.copyRec b r f phase (s.core e.f.core).ceSeq s] })
          fun c => c.modTag b.tg.toNat fun t => t.add (s.core e.f.core).ceSeq)).push
        (if r.kind == .cpyt then .copyLatticeStart e.f.core (s.core e.f.core).ceSeq else .copyBeat e.f.core (s.core e.f.core).ceSeq) := rfl

@[simp] theorem Env.core_oweStatus (e : Env) (b : ABody) (seq : Nat) (s : State) (n : Nat) : (e.oweStatus b seq s).core n = s.core n := by
  unfold Env.oweStatus Env.modGroup
  split <;> simp

@[simp] theorem Env.dram_oweStatus (e : Env) (b : ABody) (seq : Nat) (s : State) : (e.oweStatus b seq s).dram = s.dram := by
  unfold Env.oweStatus Env.modGroup
  split <;> simp

@[simp] theorem Env.todo_oweStatus (e : Env) (b : ABody) (seq : Nat) (s : State) : (e.oweStatus b seq s).todo = s.todo := by
  unfold Env.oweStatus Env.modGroup
  split <;> simp

theorem Env.crew_oweStatus (e : Env) (b : ABody) (seq : Nat) (s : State) (d n : Nat) :
    ((e.oweStatus b seq s).ctx d).bind (·.crew n) = (s.ctx d).bind (·.crew n) := by
  unfold Env.oweStatus Env.modGroup
  split
  · exact State.crew_modFrame ..
  · rfl

theorem Env.owed_oweStatus (e : Env) (b : ABody) (seq : Nat) {s : State} {fr : Frame} (h : s.frame e.cid e.h = some fr) :
    ∃ fr', (e.oweStatus b seq s).frame e.cid e.h = some fr' ∧ fr'.group.owed =
      fr.group.owed ++ (if b.se then [⟨e.f.split, b.sv, b.st.toNat, false, seq, fr.group.nextId, none⟩] else []) := by
  unfold Env.oweStatus Env.modGroup
  split
  · rw [State.frame_modGroup_self, h]
    exact ⟨_, rfl, rfl⟩
  · exact ⟨fr, h, by simp⟩

/-- The core's engine has one record more, the last, and its next sequence number (R139, R152). -/
theorem Env.core_enqueue : (e.enqueue b f phase s r).core e.f.core = { s.core e.f.core with
      ceSeq := ((s.core e.f.core).ceSeq + 1) % 2 ^ 32, ce := (s.core e.f.core).ce ++ [e.copyRec b r f phase (s.core e.f.core).ceSeq s] } := by
  simp [Env.enqueue_eq, Env.modCrew, Env.modCore]

theorem Env.crew_enqueue {c : Ctx} {k : Crew} (hc : s.ctx e.cid = some c) (hk : c.crew e.bind.crew = some k) :
    ((e.enqueue b f phase s r).ctx e.cid).bind (·.crew e.bind.crew) =
      some (k.modTag b.tg.toNat fun t => t.add (s.core e.f.core).ceSeq) := by
  rw [Env.enqueue_eq, State.ctx_push, Env.crew_oweStatus]
  simp [Env.modCrew, Env.modCore, hc, hk]

/-- The leaf signature of a copy holds that of the frame that issues it (R114). -/
theorem Env.sig_copyRec (e : Env) (b : ABody) (r : CopyReq) (f : Option Instr) (phase seq : Nat) (s : State) (i : Nat)
    (h : e.fr.sig.getLsbD i = true) : (e.copyRec b r f phase seq s).sig.getLsbD i = true := by
  simp only [Env.copyRec, BitVec.getLsbD_or, h, Bool.true_or]

theorem TagSt.count_add (x : TagSt) (seq : Nat) : (x.add seq).count = x.count + 1 := by
  unfold TagSt.add
  split
  · rename_i h
    rw [beq_iff_eq.1 h]
  · rfl

theorem TagSt.add_of_none {x : TagSt} (h : x.count = 0) (seq : Nat) : x.add seq = ⟨1, seq, 0⟩ := by simp [TagSt.add, h]

end

/-- Settles O29. -/
theorem copyQueued : Obligations.CopyQueued := by
  unfold Obligations.CopyQueued
  intro s t e b f phase r c k x _ hc hk hx seq v
  have hcore : v.core e.f.core = _ := Env.core_enqueue
  obtain ⟨c', hc', hk'⟩ := Option.bind_eq_some_iff.1 (Env.crew_enqueue (b := b) (f := f) (phase := phase) (r := r) hc hk)
  refine ⟨⟨e.copyRec b r f phase seq t, ?_, rfl, rfl, rfl, rfl, rfl, rfl, rfl, rfl, rfl, rfl, rfl, Env.sig_copyRec e b r f phase seq t⟩, ?_, ?_, ?_,
    ⟨c', _, x.add seq, hc', hk', ?_, x.count_add seq, fun h => ?_⟩, fun fr hfr => ?_, ?_⟩
  · rw [hcore]
  · rw [hcore]
  · rw [hcore]
  · simp [v, Env.enqueue_eq, Env.modCrew, Env.modCore]
  · rw [Crew.tag_modTag_self, hx]
    rfl
  · rw [TagSt.add_of_none h]
    exact ⟨rfl, rfl⟩
  · simp only [v, Env.enqueue_eq, State.frame_push]
    exact Env.owed_oweStatus e b seq (by simpa [Env.modCrew, Env.modCore] using hfr)
  · simp only [v, Env.enqueue_eq, State.push_todo, Env.todo_oweStatus, Env.modCrew, Env.modCore, State.modCrew_todo, State.modCore_todo, beq_iff_eq]
    rfl

end Sys2Proof.Machine
end


section
/-! SUPPORT. Waits on tags (R153, R315). -/

namespace Sys2Proof.Machine

/-! ## The oldest of some tags, by age (R153) -/

/-- How many copies after `first` one was queued, modulo 2^32. -/
def seqAge (first x : Nat) : Nat := (x + 2 ^ 32 - first) % 2 ^ 32

/-- Within half the range of sequence numbers, the older of two has the smaller age. -/
theorem olderSeq_iff {first a b : Nat} (hf : first < 2 ^ 32) (ha : a < 2 ^ 32 ∧ seqAge first a < 2 ^ 31)
    (hb : b < 2 ^ 32 ∧ seqAge first b < 2 ^ 31) : olderSeq a b = true ↔ seqAge first a < seqAge first b := by
  simp only [olderSeq, seqAge, Bool.and_eq_true, decide_eq_true_eq] at *
  omega

/-- The tag that TFIRST chooses of a list: the one whose oldest copy is the oldest. -/
def oldestTag (seq : Nat → Nat) (t : Nat) (l : List Nat) : Nat := l.foldl (fun m u => if olderSeq (seq u) (seq m) then u else m) t

theorem oldestTag_mem (seq : Nat → Nat) (t : Nat) (l : List Nat) : oldestTag seq t l ∈ t :: l := by
  unfold oldestTag
  induction l generalizing t with
  | nil => exact List.mem_singleton.2 rfl
  | cons u l ih =>
    rw [List.foldl_cons]
    refine List.cons_subset.2 ⟨?_, by simp⟩ (ih _)
    split <;> simp

theorem oldestTag_age {seq : Nat → Nat} {first : Nat} (hf : first < 2 ^ 32) (t : Nat) (l : List Nat)
    (h : ∀ u ∈ t :: l, seq u < 2 ^ 32 ∧ seqAge first (seq u) < 2 ^ 31) :
    ∀ u ∈ t :: l, seqAge first (seq (oldestTag seq t l)) ≤ seqAge first (seq u) := by
  induction l generalizing t with
  | nil => simp [oldestTag]
  | cons v l ih =>
    have hold := olderSeq_iff hf (h v (by simp)) (h t (by simp))
    have hstep : oldestTag seq t (v :: l) = oldestTag seq (if olderSeq (seq v) (seq t) then v else t) l := rfl
    simp only [List.forall_mem_cons] at h ih ⊢
    obtain ⟨ht, hv, hl⟩ := h
    rw [hstep]
    split
    · rename_i hlt
      obtain ⟨hle, hrest⟩ := ih v ⟨hv, hl⟩
      exact ⟨hle.trans (hold.1 hlt).le, hle, hrest⟩
    · rename_i hge
      obtain ⟨hle, hrest⟩ := ih t ⟨ht, hl⟩
      exact ⟨hle, hle.trans (not_lt.1 (hold.not.1 hge)), hrest⟩

/-! ## The forms -/

section
variable {s : State} {e : Env} {h : Hdr} {b : ABody}

/-- A TFIRST that has chosen no tag yet, with some outstanding, waits for the oldest of them. -/
theorem exec_tfirst_chooses (hp : Performs s e (.tfirst h b) h) (hw : ∀ t, e.sp.wait ≠ .tagFirst t) {t : Nat} {l : List Nat}
    (hl : ((e.tagMask h b).filter fun t => !e.ready t) = t :: l) :
    exec (.tfirst h b) s = .next (e.waits (.tagFirst (oldestTag (fun u => (e.tagSt u).oldest) t l)) s) := by
  refine hp.stay (tags := noTags) rfl ?_
  dsimp only
  split
  · exact absurd ‹_› (hw _)
  · rw [hl, hp.state]
    rfl

theorem exec_tfirst_none (hp : Performs s e (.tfirst h b) h) (hw : ∀ t, e.sp.wait ≠ .tagFirst t)
    (hl : ((e.tagMask h b).filter fun t => !e.ready t) = []) :
    exec (.tfirst h b) s = .next (e.next h 1 (e.later [.uni b.al.toNat (BitVec.ofNat 32 64)] s)) := by
  refine hp.ok (tags := noTags) rfl ?_
  dsimp only
  split
  · exact absurd ‹_› (hw _)
  · rw [hl, hp.state]

end

/-- Settles O30: each form by whether its tags have a copy outstanding; `oldestTag_age` says which one TFIRST chooses. -/
theorem tagWaits : Obligations.TagWaits := by
  unfold Obligations.TagWaits
  intro s e h b m done
  have hready : e.ready = done := funext fun t => beq_eq_decide _ _
  have hmask : e.tagMask h b = m := rfl
  have houtstanding (t : Nat) : t ∈ (m.filter fun t => !e.ready t) ↔ t ∈ m ∧ done t = false := by
    rw [hready]
    simp
  refine ⟨fun hp hall => ?_, fun hp ⟨t, ht, hdone⟩ => ?_, fun hp hpass => ?_, fun hp hne hnone => ?_, fun t hp hw hdone => ?_,
    fun hp hw hall => ?_, fun t hp hw hdone => ?_, fun hp hw ⟨t, ht, hdone⟩ => ?_, fun hp => ?_⟩
  · refine hp.ok (tags := noTags) rfl ?_
    have h : m.all done = true := List.all_eq_true.2 hall
    simp [hmask, hready, h, hp.state]
  · refine hp.stay (tags := noTags) rfl ?_
    have h : m.all done = false := List.all_eq_false.2 ⟨t, ht, by simp [hdone]⟩
    simp [hmask, hready, h, hp.state, Env.hold, Env.waits]
  · refine hp.ok (tags := noTags) rfl ?_
    have h : (m.isEmpty || !(m.filter done).isEmpty) = true := by
      rcases hpass with hm | ⟨t, ht, hdone⟩
      · simp [hm]
      · simp [List.isEmpty_eq_false_iff.2 (List.ne_nil_of_mem (List.mem_filter.2 ⟨ht, hdone⟩))]
    simp only [hmask, hready, h, hp.state, if_true]
    rfl
  · refine hp.stay (tags := noTags) rfl ?_
    have h : (m.isEmpty || !(m.filter done).isEmpty) = false := by
      rw [List.filter_eq_nil_iff.2 fun t ht => by simp [hnone t ht]]
      simp [hne]
    simp [hmask, hready, h, hp.state, Env.hold, Env.waits]
  · refine hp.ok (tags := noTags) rfl ?_
    have h : e.ready t = true := by rw [hready]; exact hdone
    simp [hw, h, hp.state]
  · refine exec_tfirst_none hp hw (List.filter_eq_nil_iff.2 fun t ht => ?_)
    simp [hready, hall t ht]
  · refine hp.stay (tags := noTags) rfl ?_
    have h : e.ready t = false := by rw [hready]; exact hdone
    simp [hw, h, hp.state, Env.hold, Env.waits]
  · obtain ⟨v, l, hl⟩ := List.exists_cons_of_ne_nil (List.ne_nil_of_mem ((houtstanding t).2 ⟨ht, hdone⟩))
    rw [hl] at houtstanding
    obtain ⟨hmem, hout⟩ := (houtstanding _).1 (oldestTag_mem (fun u => (e.tagSt u).oldest) v l)
    refine ⟨_, hmem, hout, exec_tfirst_chooses hp hw hl, ?_⟩
    intro first age hfirst hage u hu hdone
    exact oldestTag_age hfirst v l (fun u hu => hage u ((houtstanding u).1 hu).1 ((houtstanding u).1 hu).2) u ((houtstanding u).2 ⟨hu, hdone⟩)
  · refine hp.ok (tags := noTags) rfl ?_
    rw [hp.state]

end Sys2Proof.Machine
end


section
/-! SUPPORT. A credit of no bytes (R158, R160). The operation of R160 on a barrier of another phase rejects its bytes as excess and sets OVERRUN,
whether or not it brought any; the statement about barriers counts no bytes as no excess, and says then that the barrier is as it was. -/

namespace Sys2Proof.Machine

/-- Context 1 runs, and the pair s1:s0 of its split is the address of the first byte of the Alcove. -/
def barrierSt : State := State.reset.loadContext.modSplit 1 0 0 fun sp =>
  { sp with u := (sp.u.setIfInBounds 0 0xFFF80000).setIfInBounds 1 0x00FFFFFF }

/-- Operands whose barrier is at s1:s0. -/
def barrierBody : ABody := ⟨0, 0, 0, 0, 0, false, false, false, 0, false, 0, 0⟩

/-- The barrier lies in core 0's Alcove, at its first byte. -/
theorem barrierSt_place : ∃ e : Env, e.barCheck (e.u64 barrierBody.ba) = none ∧
    e.barPlace (e.u64 barrierBody.ba) barrierSt = .ok (barrierSt, .alcove 0 0) := by
  have h : (Env.of barrierSt barrierSt.focus).any (fun e => e.u64 barrierBody.ba == alcoveBase && e.barCheck alcoveBase == none &&
      e.f.core == 0 && e.alcove.1 == 0) = true := by decide +kernel
  obtain ⟨e, -, h⟩ := (Option.any_eq_true _ _).1 h
  simp only [Bool.and_eq_true, beq_iff_eq] at h
  obtain ⟨⟨⟨hva, hcheck⟩, hcore⟩, hbase⟩ := h
  refine ⟨e, by rw [hva, hcheck], ?_⟩
  rw [hva, Env.barPlace, if_pos (by decide), hcore, hbase]
  rfl

/-- A copy on core 0 whose credits are bound to phase 1. -/
def emptyCreditCopy : CopyRec := { signedCopy with bphase := 1 }

/-- The copy's context, as the engine of core 0 acts for it. -/
def emptyCreditAgent : Agent := ⟨0, 1, 0, 0, true, 0, 524288, none⟩

/-- A credit of no bytes to the barrier, which is in phase 0, sets OVERRUN. -/
theorem barrierSt_overrun : ((barrierSt.creditTo emptyCreditAgent emptyCreditCopy (.alcove 0 0) 0).bar (.alcove 0 0)).overrun = true := by decide +kernel

/-- Refutes O31: a credit of no bytes that is bound to another phase sets OVERRUN, although none of it is excess (`barrierSt`). -/
theorem not_barrierOperations : ¬ Obligations.BarrierOperations := by
  unfold Obligations.BarrierOperations
  intro h
  obtain ⟨e, hcheck, hplace⟩ := barrierSt_place
  obtain ⟨-, -, -, -, hcredit, -⟩ := h barrierSt e ⟨0, false, 7, false, 0⟩ barrierBody barrierSt (.alcove 0 0) hcheck hplace (by decide +kernel)
  obtain ⟨hbar, -⟩ := hcredit emptyCreditAgent emptyCreditCopy 0 (by decide +kernel)
  have hkept : (barrierSt.bar (.alcove 0 0)).overrun = true := by
    rw [← barrierSt_overrun, hbar]
    decide +kernel
  exact absurd hkept (by decide +kernel)

end Sys2Proof.Machine
end


section
/-! SUPPORT. Words of the Alcove, and the treads of a flight (R162 to R164, R113). -/

namespace Sys2Proof.Machine

/-! ## Numbers in memory -/

namespace Mem

theorem readN_congr {m m' : Mem} {a n : Nat} (h : ∀ b, a ≤ b → b < a + n → read m' b = read m b) : readN m' a n = readN m a n := by
  induction n generalizing a with
  | zero => rfl
  | succ n ih =>
    rw [readN, readN, h a (Nat.le_refl a) (by omega), ih fun b h1 h2 => h b (by omega) (by omega)]

/-- A number elsewhere reads as before. -/
theorem readN_writeN_outside {m : Mem} (hm : m.wf = true) {a n b k : Nat} (x : Nat) (h : b + k ≤ a ∨ a + n ≤ b) :
    readN (writeN m a n x) b k = readN m b k :=
  readN_congr fun c h1 h2 => read_writeN_outside n hm a x c (by omega)

theorem readN_lt (m : Mem) (a n : Nat) : readN m a n < 256 ^ n := by
  induction n generalizing a with
  | zero => exact Nat.one_pos
  | succ n ih =>
    have h := (read m a).isLt
    have h' := ih (a + 1)
    rw [readN, Nat.pow_succ]
    omega

end Mem

theorem State.alcove_wf {s : State} (h : s.memWf = true) (n : Nat) : (s.core n).alcove.wf = true :=
  ((State.canon_none_iff s).2 h).alcove nofun

/-! ## What a wake leaves -/

/-- What a change of a group leaves of its frame, it leaves of every frame. -/
theorem State.frame_modGroup_map {α : Type} {part : Frame → α} {g : Group → Group} (hg : ∀ fr, part { fr with group := g fr.group } = part fr)
    (s : State) (cid h d k : Nat) : ((s.modGroup cid h g).frame d k).map part = (s.frame d k).map part := by
  by_cases hne : (cid, h) = (d, k)
  · cases hne
    rw [State.frame_modGroup_self, Option.map_map]
    exact congrArg (Option.map · _) (funext hg)
  · rw [State.frame_modGroup_ne _ _ _ _ _ _ hne]

/-- A wake changes no part of a frame but its splits. -/
theorem State.frame_wake {α : Type} {part : Frame → α}
    (hpart : ∀ fr v, part { fr with group := { fr.group with splits := v } } = part fr) (s : State) (core : Nat) (p : Wait → Bool) (d k : Nat) :
    ((s.wake core p).frame d k).map part = (s.frame d k).map part := by
  unfold State.wake State.mapSplits
  refine foldl_keeps (part := fun s : State => (s.frame d k).map part) (fun t b => ?_) _ s
  split
  · rfl
  · split
    · exact State.frame_modGroup_map (part := part) (fun fr => hpart fr _) ..
    · rfl

/-- What no change of a group touches, no change of the splits of a core does. -/
theorem State.mapSplits_keeps {α : Type} {part : State → α} (h : ∀ s cid k f, part (State.modGroup s cid k f) = part s) (s : State) (core : Nat)
    (p : Bind → Bool) (f : Split → Split) : part (s.mapSplits core p f) = part s := by
  unfold State.mapSplits
  refine foldl_keeps (part := part) (fun t b => ?_) _ s
  split
  · rfl
  · split
    · exact h ..
    · rfl

theorem State.core_wake (s : State) (core : Nat) (p : Wait → Bool) (n : Nat) : (s.wake core p).core n = s.core n :=
  State.mapSplits_keeps (part := fun s : State => s.core n) (fun _ _ _ _ => State.core_modGroup ..) ..

/-! ## Words of the group's Alcove -/

section
variable (e : Env) (s : State)

/-- The Alcove that the group's words lie in is in canonical form. -/
def Env.AlcoveWf : Prop := (s.core e.f.core).alcove.wf = true

@[simp] theorem Env.frame_setAlcoveWord (a x cid h : Nat) : (e.setAlcoveWord a x s).frame cid h = s.frame cid h := rfl

theorem Env.alcove_setAlcoveWord (a x : Nat) :
    ((e.setAlcoveWord a x s).core e.f.core).alcove = Mem.writeN (s.core e.f.core).alcove a 4 x := by
  simp [Env.setAlcoveWord, Env.modCore]

end

section
variable {e : Env} {s t : State}

theorem Env.AlcoveWf.setAlcoveWord (h : e.AlcoveWf s) (a x : Nat) : e.AlcoveWf (e.setAlcoveWord a x s) := by
  rw [Env.AlcoveWf, Env.alcove_setAlcoveWord]
  exact Mem.writeN_wf 4 h a x

theorem Env.alcoveWord_setAlcoveWord_self (h : e.AlcoveWf s) (a x : Nat) :
    e.alcoveWord (e.setAlcoveWord a x s) a = x % 2 ^ 32 := by
  rw [Env.alcoveWord, Env.alcove_setAlcoveWord]
  exact Mem.readN_writeN 4 h a x

theorem Env.alcoveWord_setAlcoveWord_apart (h : e.AlcoveWf s) {a b : Nat} (x : Nat) (hab : b + 4 ≤ a ∨ a + 4 ≤ b) :
    e.alcoveWord (e.setAlcoveWord a x s) b = e.alcoveWord s b := by
  rw [Env.alcoveWord, Env.alcove_setAlcoveWord]
  exact Mem.readN_writeN_outside h x hab

/-- Words are read off the Alcove alone. -/
theorem Env.alcoveWord_congr (h : (t.core e.f.core).alcove = (s.core e.f.core).alcove) (a : Nat) : e.alcoveWord t a = e.alcoveWord s a := by
  rw [Env.alcoveWord, Env.alcoveWord, h]

/-- The treads stand behind the header of the flight (R162). -/
theorem Env.tread_above (e : Env) (s : State) (off pos : Nat) : e.alcove.1 + off + 16 ≤ (e.tread s off pos).1 := by
  simp only [Env.tread]
  omega

end

end Sys2Proof.Machine
end

section
/-! SUPPORT. FLACQ and FLREL (R163, R164, R317). -/

namespace Sys2Proof.Machine

/-- The word of a flight's header that counts the positions taken, by producers or by consumers (R162). -/
def Env.counterAt (e : Env) (off : Nat) (consumer : Bool) : Nat := e.alcove.1 + off + (if consumer then 4 else 0)

/-- FLACQ takes the next position: the counter moves on, the group has a reservation, and the flight has a signature (R163, R164, R113). -/
def Env.reserve (e : Env) (off k : Nat) (consumer : Bool) (s : State) : State :=
  e.modCrew (e.modGroup (e.setAlcoveWord (e.counterAt off consumer) (k + 1) s) fun g => { g with resv := g.resv ++ [⟨off, k, consumer, 0xFF⟩] })
    fun c => { c with flights := insert c.flights off (c.flightSig off) }

/-- Whether the tread of a position is free for a side: empty for a producer, full for a consumer, in the position's phase (R163). -/
def Env.treadFree (e : Env) (s : State) (off k : Nat) (consumer : Bool) : Bool :=
  (e.alcoveWord s (e.tread s off k).1 % 2 == 1) == consumer && e.alcoveWord s (e.tread s off k).1 / 2 % 2 == (e.tread s off k).2

/-- The tread is the group's, whose signature takes the flight's (R163, R113). -/
def Env.takeTread (e : Env) (off k : Nat) (consumer : Bool) (s : State) : State :=
  let w := e.alcoveWord s (e.tread s off k).1
  let t := e.setAlcoveWord (e.tread s off k).1 (treadWord (w % 2) (e.tread s off k).2 e.f.slot (w / 65536)) s
  let u := e.modGroup t fun g => { g with resv := g.resv.map fun (r : Reservation) =>
    if r.flight == off && r.pos == k && r.consumer == consumer then { r with holder := e.f.slot } else r }
  e.modCore (e.modFrame u fun fr => { fr with sig := fr.sig ||| e.flightSig t off }) fun c =>
    { c with tex := c.tex.filter fun x => !(x.asid == e.asid && sigHit (e.flightSig t off) x.line) }

section
variable {i : Instr} {h : Hdr} {b : ABody} {consumer : Bool} {s : State} {e : Env} {off k : Nat}

theorem flacq_takes (hp : Performs s e i h) (hoff : e.flight b = .ok off) (hw : ∀ n, e.sp.wait ≠ .tread n)
    (hresv : e.group.resv.length < 2) (hk : e.alcoveWord s (e.counterAt off consumer) = k)
    (hfree : e.treadFree (e.reserve off k consumer s) off k consumer = true) :
    flacq i h b consumer s = .next (e.next h (slotsOf i) (e.later (.uni b.al.toNat (BitVec.ofNat 32 k) ::
      (if consumer && b.se then [.uni b.st.toNat (BitVec.ofNat 32 (e.alcoveWord (e.reserve off k consumer s) (e.tread (e.reserve off k consumer s) off k).1 / 65536))]
        else [])) (e.takeTread off k consumer (e.reserve off k consumer s)))) := by
  subst hk
  refine hp.ok (tags := noTags) rfl ?_
  simp only [hoff, if_neg (Nat.not_le.2 hresv), hp.state]
  exact if_pos hfree

theorem flacq_waits (hp : Performs s e i h) (hoff : e.flight b = .ok off) (hw : ∀ n, e.sp.wait ≠ .tread n)
    (hresv : e.group.resv.length < 2) (hk : e.alcoveWord s (e.counterAt off consumer) = k)
    (hfree : e.treadFree (e.reserve off k consumer s) off k consumer = false) :
    flacq i h b consumer s = .next (e.waits (.tread k) (e.reserve off k consumer s)) := by
  subst hk
  refine hp.stay (tags := noTags) rfl ?_
  simp only [hoff, if_neg (Nat.not_le.2 hresv), hp.state]
  exact if_neg (ne_true_of_eq_false hfree)

theorem flacq_stalls (hp : Performs s e i h) (hoff : e.flight b = .ok off) (hw : ∀ n, e.sp.wait ≠ .tread n)
    (hresv : 2 ≤ e.group.resv.length) : flacq i h b consumer s = .next (e.waits .stalled s) := by
  refine hp.stay (tags := noTags) rfl ?_
  simp only [hoff, if_pos hresv, hp.state]
  rfl

end

/-! ## A position taken -/

section
variable {e : Env} {s : State} {off k : Nat} {consumer : Bool}

theorem Env.counterAt_below (e : Env) (off : Nat) (consumer : Bool) :
    e.alcove.1 + off ≤ e.counterAt off consumer ∧ e.counterAt off consumer ≤ e.alcove.1 + off + 4 := by
  unfold Env.counterAt
  split <;> omega

theorem Env.alcove_reserve (e : Env) (off k : Nat) (consumer : Bool) (s : State) :
    ((e.reserve off k consumer s).core e.f.core).alcove = ((e.setAlcoveWord (e.counterAt off consumer) (k + 1) s).core e.f.core).alcove := by
  simp [Env.reserve, Env.modCrew, Env.modGroup]

theorem Env.AlcoveWf.reserve (h : e.AlcoveWf s) (off k : Nat) (consumer : Bool) : e.AlcoveWf (e.reserve off k consumer s) := by
  rw [Env.AlcoveWf, Env.alcove_reserve]
  exact h.setAlcoveWord ..

theorem Env.counter_reserve (h : e.AlcoveWf s) (off k : Nat) (consumer : Bool) :
    e.alcoveWord (e.reserve off k consumer s) (e.counterAt off consumer) = (k + 1) % 2 ^ 32 := by
  rw [Env.alcoveWord_congr (e.alcove_reserve off k consumer s)]
  exact Env.alcoveWord_setAlcoveWord_self h ..

/-- The header's number of treads stands, and with it each tread's place and phase. -/
theorem Env.tread_reserve (h : e.AlcoveWf s) (off k pos : Nat) (consumer : Bool) :
    e.tread (e.reserve off k consumer s) off pos = e.tread s off pos := by
  have hc := e.counterAt_below off consumer
  have hnt := Mem.readN_writeN_outside h (k + 1) (a := e.counterAt off consumer) (n := 4) (b := e.alcove.1 + off + 8) (k := 1) (by omega)
  simp only [Env.tread, Env.alcove_reserve, Env.alcove_setAlcoveWord, hnt]

theorem Env.treadWord_reserve (h : e.AlcoveWf s) (off k pos : Nat) (consumer : Bool) :
    e.alcoveWord (e.reserve off k consumer s) (e.tread s off pos).1 = e.alcoveWord s (e.tread s off pos).1 := by
  have hc := e.counterAt_below off consumer
  have ht := e.tread_above s off pos
  rw [Env.alcoveWord_congr (e.alcove_reserve off k consumer s), Env.alcoveWord_setAlcoveWord_apart h _ (by omega)]

theorem Env.treadFree_reserve (h : e.AlcoveWf s) (off k pos : Nat) (consumer : Bool) :
    e.treadFree (e.reserve off k consumer s) off pos consumer = e.treadFree s off pos consumer := by
  rw [Env.treadFree, Env.tread_reserve h, Env.treadWord_reserve h, Env.treadFree]

theorem Env.treadFree_iff (e : Env) (s : State) (off pos : Nat) (consumer : Bool) : e.treadFree s off pos consumer = true ↔
    (e.alcoveWord s (e.tread s off pos).1 % 2 = 1 ↔ consumer = true) ∧ e.alcoveWord s (e.tread s off pos).1 / 2 % 2 = (e.tread s off pos).2 := by
  simp only [Env.treadFree, Bool.and_eq_true, beq_iff_eq]
  cases consumer <;> simp

theorem Env.resv_reserve {fr : Frame} (h : s.frame e.cid e.h = some fr) (off k : Nat) (consumer : Bool) :
    ∃ fr', (e.reserve off k consumer s).frame e.cid e.h = some fr' ∧ fr'.group.resv = fr.group.resv ++ [⟨off, k, consumer, 0xFF⟩] := by
  simp [Env.reserve, Env.modCrew, Env.modGroup, h]

/-! ## A tread taken -/

theorem Env.alcove_takeTread (e : Env) (off k : Nat) (consumer : Bool) (s : State) :
    ((e.takeTread off k consumer s).core e.f.core).alcove = ((e.setAlcoveWord (e.tread s off k).1
      (treadWord (e.alcoveWord s (e.tread s off k).1 % 2) (e.tread s off k).2 e.f.slot (e.alcoveWord s (e.tread s off k).1 / 65536)) s).core
        e.f.core).alcove := by
  simp [Env.takeTread, Env.modCore, Env.modFrame, Env.modGroup]

theorem Env.resv_takeTread {fr : Frame} (h : s.frame e.cid e.h = some fr) (hr : ⟨off, k, consumer, 0xFF⟩ ∈ fr.group.resv) :
    ∃ fr', (e.takeTread off k consumer s).frame e.cid e.h = some fr' ∧ ⟨off, k, consumer, e.f.slot⟩ ∈ fr'.group.resv := by
  simp only [Env.takeTread, Env.modCore, Env.modFrame, Env.modGroup, State.frame_modCore, State.frame_modFrame_self, State.frame_modGroup_self,
    Env.frame_setAlcoveWord, h, Option.map_some]
  exact ⟨_, rfl, List.mem_map.2 ⟨_, hr, if_pos (by simp)⟩⟩

theorem Env.word_takeTread (h : e.AlcoveWf s) (off k : Nat) (consumer : Bool) :
    e.alcoveWord (e.takeTread off k consumer s) (e.tread s off k).1 = treadWord (e.alcoveWord s (e.tread s off k).1 % 2) (e.tread s off k).2
      e.f.slot (e.alcoveWord s (e.tread s off k).1 / 65536) % 2 ^ 32 := by
  rw [Env.alcoveWord_congr (e.alcove_takeTread off k consumer s)]
  exact Env.alcoveWord_setAlcoveWord_self h ..

theorem Env.counter_takeTread (h : e.AlcoveWf s) (off k : Nat) (consumer : Bool) :
    e.alcoveWord (e.takeTread off k consumer s) (e.counterAt off consumer) = e.alcoveWord s (e.counterAt off consumer) := by
  have hc := e.counterAt_below off consumer
  have ht := e.tread_above s off k
  rw [Env.alcoveWord_congr (e.alcove_takeTread off k consumer s), Env.alcoveWord_setAlcoveWord_apart h _ (by omega)]

/-- A tread in the phase of its position keeps FULL and PHASE as it is taken, and HOLDER is the group's slot. -/
theorem treadWord_taken {w ph slot : Nat} (hph : w / 2 % 2 = ph) :
    treadWord (w % 2) ph slot (w / 65536) % 2 ^ 32 / 256 % 256 = slot % 256 ∧ treadWord (w % 2) ph slot (w / 65536) % 2 ^ 32 % 4 = w % 4 := by
  simp only [treadWord]
  omega

/-! ## A tread passed on -/

/-- The group holds the tread of a position, in the words of R163. -/
theorem Env.holdsTread_iff (e : Env) (s : State) (off pos : Nat) : e.holdsTread s off pos = true ↔
    e.alcoveWord s (e.tread s off pos).1 / 256 % 256 = e.f.slot ∨ (e.alcoveWord s (e.tread s off pos).1 / 256 % 256 ≠ 0xFF ∧
      ∃ r ∈ e.group.resv, r.flight = off ∧ r.holder = e.alcoveWord s (e.tread s off pos).1 / 256 % 256 ∧
        (e.tread s off r.pos).1 = (e.tread s off pos).1) := by
  simp [Env.holdsTread, and_assoc]

/-- The group has released a position already: it holds the tread for a later one (R163). -/
theorem Env.releasedPos_iff (e : Env) (s : State) (off pos : Nat) : e.releasedPos s off pos = true ↔
    (∃ r, (r ∈ e.group.resv ∧ r.flight = off ∧ r.holder ≠ 0xFF ∧ (e.tread s off r.pos).1 = (e.tread s off pos).1) ∧
      (r.pos + 2 ^ 32 - pos) % 2 ^ 32 < 2 ^ 31) ∧
    ∀ r, (r ∈ e.group.resv ∧ r.flight = off ∧ r.holder ≠ 0xFF ∧ (e.tread s off r.pos).1 = (e.tread s off pos).1) → r.pos ≠ pos := by
  simp only [Env.releasedPos, Bool.and_eq_true, List.all_eq_true, List.any_eq_true, List.mem_filter, beq_iff_eq, bne_iff_ne, decide_eq_true_eq,
    and_assoc]
  exact and_comm

/-- What a release leaves in its tread (R163): a consumer empties it for the next phase, a producer fills it. -/
def passedWord (w : Nat) (consumer : Bool) (user : Option Nat) : Nat :=
  if consumer then treadWord 0 (1 - w / 2 % 2) 0xFF (w / 65536) else treadWord 1 (w / 2 % 2) 0xFF (user.getD (w / 65536))

theorem passedWord_fields {w : Nat} {consumer : Bool} {user : Option Nat} (hw : w < 2 ^ 32) (hu : ∀ x ∈ user, x < 65536) :
    (passedWord w consumer user % 2 ^ 32 % 2 = 1 ↔ consumer = false) ∧ passedWord w consumer user % 2 ^ 32 / 256 % 256 = 0xFF ∧
      passedWord w consumer user % 2 ^ 32 / 2 % 2 = (if consumer then 1 - w / 2 % 2 else w / 2 % 2) ∧
      passedWord w consumer user % 2 ^ 32 / 65536 = (if consumer then w / 65536 else user.getD (w / 65536)) := by
  have hu : user.getD (w / 65536) < 65536 := by
    cases user with
    | none => simp only [Option.getD_none]; omega
    | some x => exact hu x rfl
  unfold passedWord treadWord
  generalize user.getD (w / 65536) = x at hu ⊢
  cases consumer <;> simp only [if_true, Bool.false_eq_true, if_false, iff_true, iff_false, Bool.true_eq_false] <;> omega

theorem Env.alcove_release (e : Env) (off pos : Nat) (consumer : Bool) (user : Option Nat) (s : State) :
    ((e.release off pos consumer user s).core e.f.core).alcove = ((e.setAlcoveWord (e.tread s off pos).1
      (passedWord (e.alcoveWord s (e.tread s off pos).1) consumer user) s).core e.f.core).alcove := by
  simp [Env.release, passedWord, State.core_wake, Env.modGroup, Env.modCrew, Env.alcove_setAlcoveWord]

theorem Env.word_release (h : e.AlcoveWf s) (off pos : Nat) (consumer : Bool) (user : Option Nat) :
    e.alcoveWord (e.release off pos consumer user s) (e.tread s off pos).1 =
      passedWord (e.alcoveWord s (e.tread s off pos).1) consumer user % 2 ^ 32 := by
  rw [Env.alcoveWord_congr (e.alcove_release off pos consumer user s)]
  exact Env.alcoveWord_setAlcoveWord_self h ..

theorem Env.resv_release {fr : Frame} (h : s.frame e.cid e.h = some fr) (off pos : Nat) (consumer : Bool) (user : Option Nat) :
    ∃ fr', (e.release off pos consumer user s).frame e.cid e.h = some fr' ∧
      fr'.group.resv = fr.group.resv.eraseP fun r => r.flight == off && r.pos == pos && r.consumer == consumer := by
  refine (Option.map_eq_some_iff (f := fun fr : Frame => fr.group.resv)).1 ?_
  unfold Env.release
  rw [State.frame_wake fun fr _ => rfl]
  simp [Env.modGroup, Env.modCrew, h]

end

/-! ## The forms -/

/-- The reservations of the issuing group are those of its frame. -/
theorem Env.of_resv {s : State} {f : Focus} {e : Env} (h : Env.of s f = some e) :
    ∃ fr, s.frame e.cid e.h = some fr ∧ fr.group.resv = e.group.resv := by
  obtain ⟨-, -, -, -, -, hc, fr, sp, hf, -, -, he⟩ := Env.of_eq h
  refine ⟨fr, by simp [State.frame, hc, hf], ?_⟩
  have hfr' := congrArg Prod.fst he
  unfold Env.group
  cases hr : sp.read with
  | none => rw [hr] at hfr'; exact congrArg (·.group.resv) hfr'.symm
  | some q => rw [hr] at hfr'; exact congrArg (·.group.resv) hfr'.symm

section
variable {s : State} {e : Env} {i : Instr} {h : Hdr} {b : ABody} {off : Nat} {consumer : Bool}

theorem flrel_traps (hp : Performs s e i h) (hoff : e.flight b = .ok off)
    (hbad : e.holdsTread s off (e.u b.al).toNat = false ∨ e.releasedPos s off (e.u b.al).toNat = true) :
    flrel i h b consumer s = .next (e.take (faultOf .illegalOpcode) s) := by
  refine hp.trap (tags := noTags) rfl ?_
  have h : (!e.holdsTread s off (e.u b.al).toNat || e.releasedPos s off (e.u b.al).toNat) = true := by simpa using hbad
  simp [hoff, hp.state, h, Perf.bad]

/-- The USER word that FLREL passes on: a producer's (R163, R317). -/
def Env.userOf (e : Env) (b : ABody) (consumer : Bool) : Option Nat :=
  if consumer then none else some (if b.se then (e.sp.ureg b.st.toNat).toNat % 65536 else 0)

theorem Env.userOf_lt (e : Env) (b : ABody) (consumer : Bool) : ∀ x ∈ e.userOf b consumer, x < 65536 := by
  unfold Env.userOf
  split
  · simp
  · simp only [Option.mem_def, Option.some.injEq, forall_eq']
    split <;> omega

theorem flrel_releases (hp : Performs s e i h) (hoff : e.flight b = .ok off) (hready : e.releaseReady s = true)
    (hholds : e.holdsTread s off (e.u b.al).toNat = true) (hnew : e.releasedPos s off (e.u b.al).toNat = false) :
    flrel i h b consumer s = .next (e.next h (slotsOf i) (e.release off (e.u b.al).toNat consumer (e.userOf b consumer) s)) := by
  refine hp.ok (tags := noTags) rfl ?_
  simp [hoff, hp.state, hholds, hnew, Env.withRelease_ready _ hready, Env.userOf]

end

section
variable {s : State} {e : Env} {i : Instr} {h : Hdr} {b : ABody} {off k : Nat} {consumer : Bool}

/-- A free tread is the group's once FLACQ passes: its counter, its word and the reservation (R163). -/
theorem reserve_takeTread_holds (hwf : e.AlcoveWf s) {fr : Frame} (hfr : s.frame e.cid e.h = some fr)
    (hfree : e.treadFree s off k consumer = true) {u : State} (hu : u = e.takeTread off k consumer (e.reserve off k consumer s)) :
    e.alcoveWord u (e.counterAt off consumer) = (k + 1) % 2 ^ 32 ∧ e.alcoveWord u (e.tread s off k).1 / 256 % 256 = e.f.slot % 256 ∧
      e.alcoveWord u (e.tread s off k).1 % 4 = e.alcoveWord s (e.tread s off k).1 % 4 ∧
      ∃ fr, u.frame e.cid e.h = some fr ∧ ⟨off, k, consumer, e.f.slot⟩ ∈ fr.group.resv := by
  subst hu
  obtain ⟨-, hphase⟩ := (e.treadFree_iff s off k consumer).1 hfree
  obtain ⟨hslot, hbits⟩ := treadWord_taken (slot := e.f.slot) hphase
  have hword := Env.word_takeTread (hwf.reserve off k consumer) off k consumer
  rw [Env.tread_reserve hwf, Env.treadWord_reserve hwf] at hword
  obtain ⟨fr', hfr', hresv⟩ := Env.resv_reserve hfr off k consumer
  refine ⟨?_, ?_, ?_, Env.resv_takeTread hfr' (by simp [hresv])⟩
  · rw [Env.counter_takeTread (hwf.reserve off k consumer), Env.counter_reserve hwf]
  · rw [hword, hslot]
  · rw [hword, hbits]

/-- A tread that its holder releases: its word and the reservations left (R163, R317). -/
theorem release_passes (hwf : e.AlcoveWf s) {fr : Frame} (hfr : s.frame e.cid e.h = some fr) {pos : Nat} {u : State}
    (hu : u = e.release off pos consumer (e.userOf b consumer) s) :
    (e.alcoveWord u (e.tread s off pos).1 % 2 = 1 ↔ consumer = false) ∧ e.alcoveWord u (e.tread s off pos).1 / 256 % 256 = 0xFF ∧
      e.alcoveWord u (e.tread s off pos).1 / 2 % 2 =
        (if consumer then 1 - e.alcoveWord s (e.tread s off pos).1 / 2 % 2 else e.alcoveWord s (e.tread s off pos).1 / 2 % 2) ∧
      e.alcoveWord u (e.tread s off pos).1 / 65536 = (if consumer then e.alcoveWord s (e.tread s off pos).1 / 65536
        else if b.se then (e.sp.ureg b.st.toNat).toNat % 65536 else 0) ∧
      ∃ fr', u.frame e.cid e.h = some fr' ∧
        fr'.group.resv = fr.group.resv.eraseP fun r => r.flight == off && r.pos == pos && r.consumer == consumer := by
  subst hu
  rw [Env.word_release hwf]
  obtain ⟨hfull, hholder, hphase, huser⟩ := passedWord_fields (consumer := consumer)
    (Mem.readN_lt (s.core e.f.core).alcove (e.tread s off pos).1 4) (e.userOf_lt b consumer)
  refine ⟨hfull, hholder, hphase, huser.trans ?_, Env.resv_release hfr ..⟩
  cases consumer <;> rfl

end

/-- Settles O32: the forms of a producer and of a consumer are one, `flacq` and `flrel`. -/
theorem flights : Obligations.Flights := by
  unfold Obligations.Flights
  intro s e h b off hoff hwf word forms
  have hwf : e.AlcoveWf s := State.alcove_wf hwf _
  have both {acq rel : Instr} {consumer : Bool} (hacq : exec acq s = flacq acq h b consumer s) (hrel : exec rel s = flrel rel h b consumer s)
      (hacq1 : slotsOf acq = 1) (hrel1 : slotsOf rel = 1) : forms acq rel consumer := by
    have hfree (k : Nat) := (congrArg (· = true) (Env.treadFree_reserve hwf off k k consumer)).to_iff.trans (e.treadFree_iff s off k consumer)
    dsimp only [forms]
    rw [hacq, hrel]
    refine ⟨fun hp hw hresv hf => ?_, fun hp hw hresv hf => ?_, fun hp hw hresv => flacq_stalls hp hoff hw hresv, ?_, fun hp hbad => ?_⟩
    · obtain ⟨fr, hfr, -⟩ := Env.of_resv hp.here
      have htake := flacq_takes (consumer := consumer) hp hoff hw hresv rfl ((hfree _).2 hf)
      rw [Env.tread_reserve hwf, Env.treadWord_reserve hwf, hacq1] at htake
      obtain ⟨hctr, hslot, hbits, fr', hfr', hmine⟩ := reserve_takeTread_holds hwf hfr ((e.treadFree_iff ..).2 hf) rfl
      exact ⟨_, fr', htake, hctr, hslot, hbits, hfr', hmine⟩
    · exact ⟨_, flacq_waits hp hoff hw hresv rfl (Bool.eq_false_iff.2 fun hf' => hf ((hfree _).1 hf')), Env.counter_reserve hwf ..⟩
    · intro hp hready hholds hnew
      obtain ⟨fr, hfr, hresv⟩ := Env.of_resv hp.here
      obtain ⟨hfull, hholder, hphase, huser, fr', hfr', hleft⟩ := release_passes (b := b) (consumer := consumer) (pos := (e.u b.al).toNat) hwf hfr rfl
      refine ⟨_, fr', ?_, hfull, hholder, hphase, huser, hfr', hresv ▸ hleft⟩
      rw [flrel_releases hp hoff hready ((e.holdsTread_iff ..).2 hholds)
        (Bool.eq_false_iff.2 fun h => hnew ((e.releasedPos_iff ..).1 h)), hrel1]
    · exact flrel_traps hp hoff (hbad.imp (fun hn => Bool.eq_false_iff.2 fun h => hn ((e.holdsTread_iff ..).1 h)) (e.releasedPos_iff ..).2)
  exact ⟨both rfl rfl rfl rfl, both rfl rfl rfl rfl⟩

end Sys2Proof.Machine
end


section
/-! SUPPORT. The records of the copy engines and the crews stand through translation, the homes, and the accesses of an engine (R52, R54, R140). -/

namespace Sys2Proof.Machine

/-- One state has the copy records of another, and the crews of its contexts. -/
structure State.SameCopies (s t : State) : Prop where
  ce : ∀ n, (t.core n).ce = (s.core n).ce
  crews : ∀ cid, (t.ctx cid).map (·.crews) = (s.ctx cid).map (·.crews)

theorem State.SameCopies.refl {s : State} : s.SameCopies s := ⟨fun _ => .refl _, fun _ => .refl _⟩

namespace State.SameCopies

variable {b s t : State}

theorem trans (hs : b.SameCopies s) (ht : s.SameCopies t) : b.SameCopies t :=
  ⟨fun n => (ht.ce n).trans (hs.ce n), fun cid => (ht.crews cid).trans (hs.crews cid)⟩

/-! ## What is read off them -/

theorem copyRec (hs : b.SameCopies s) (core seq : Nat) : s.copyRec core seq = b.copyRec core seq := by
  rw [State.copyRec, hs.ce, State.copyRec]

/-- The agent of a crew stays the agent of a core. -/
theorem agent (hs : b.SameCopies s) {core cid crew : Nat} {a : Agent} (ha : b.agent core cid crew = some a) :
    ∃ a', s.agent core cid crew = some a' ∧ a'.core = core := by
  have hcid := hs.crews cid
  unfold State.agent at ha
  split at ha
  · cases ha
  · rename_i c hc
    split at ha
    · cases ha
    · rename_i k hk
      rw [hc] at hcid
      obtain ⟨c', hc', hcrews⟩ := Option.map_eq_some_iff.1 hcid
      have hk' : c'.crew crew = some k := by rwa [Ctx.crew, hcrews]
      exact ⟨⟨core, cid, s.ctxVf core c', c'.asid, s.ctxSup core c', 1024 * k.alcBase, 1024 * k.alcSize, none⟩, by simp [State.agent, hc', hk'], .refl _⟩

/-! ## Updates of parts -/

theorem of_pair {α : Type} {p : State × α} {x : α} (h : b.SameCopies p.1) (e : p = (t, x)) : b.SameCopies t := by
  subst e
  exact h

/-- A choice between answers leaves what either leaves. -/
theorem ite {α : Type} {c : Prop} [Decidable c] {p q : State × α} (hp : b.SameCopies p.1) (hq : b.SameCopies q.1) :
    b.SameCopies (if c then p else q).1 := by
  split
  · exact hp
  · exact hq

theorem foldl {α : Type} {l : List α} {f : State → α → State} (hs : b.SameCopies s) (hf : ∀ s x, b.SameCopies s → b.SameCopies (f s x)) :
    b.SameCopies (l.foldl f s) := by
  induction l generalizing s with
  | nil => exact hs
  | cons x l ih => exact ih (hf s x hs)

/-- What lies beside the cores and the contexts changes. -/
theorem same (hs : b.SameCopies s) (e : (t.cores, t.ctxs) = (s.cores, s.ctxs) := by rfl) : b.SameCopies t := by
  obtain ⟨hcores, hctxs⟩ := Prod.mk.injEq .. ▸ e
  exact ⟨fun n => by rw [State.core, hcores]; exact hs.ce n, fun cid => by rw [State.ctx, hctxs]; exact hs.crews cid⟩

theorem setCore {n : Nat} {c : Core} (hs : b.SameCopies s) (hc : c.ce = (s.core n).ce) : b.SameCopies (s.setCore n c) where
  ce m := by
    by_cases h : n = m
    · subst h; rw [State.core_setCore_self, hc, hs.ce]
    · rw [State.core_setCore_ne _ _ _ _ h, hs.ce]
  crews := hs.crews

theorem modCore {n : Nat} {f : Core → Core} (hs : b.SameCopies s) (hf : ∀ c, (f c).ce = c.ce := by intro _; rfl) :
    b.SameCopies (s.modCore n f) :=
  hs.setCore (hf _)

theorem setCtx {cid : Nat} {c d : Ctx} (hs : b.SameCopies s) (hc : s.ctx cid = some c) (hd : d.crews = c.crews := by rfl) : b.SameCopies (s.setCtx cid d) where
  ce := hs.ce
  crews k := by
    by_cases h : cid = k
    · subst h; rw [State.ctx_setCtx_self, ← hs.crews, hc, Option.map_some, Option.map_some, hd]
    · rw [State.ctx_setCtx_ne _ _ _ _ h, hs.crews]

theorem modCtx {cid : Nat} {f : Ctx → Ctx} (hs : b.SameCopies s) (hf : ∀ c, (f c).crews = c.crews) : b.SameCopies (s.modCtx cid f) := by
  unfold State.modCtx
  split
  · exact hs
  · rename_i c hc
    exact hs.setCtx hc (hf c)

theorem modFrame {cid h : Nat} {f : Frame → Frame} (hs : b.SameCopies s) : b.SameCopies (s.modFrame cid h f) :=
  hs.modCtx fun c => by split <;> rfl

theorem modGroup {cid h : Nat} {f : Group → Group} (hs : b.SameCopies s) : b.SameCopies (s.modGroup cid h f) := hs.modFrame

theorem mapSplits {core : Nat} {p : Bind → Bool} {f : Split → Split} (hs : b.SameCopies s) : b.SameCopies (s.mapSplits core p f) := by
  unfold State.mapSplits
  refine hs.foldl fun t x ht => ?_
  split
  · exact ht
  · split
    · exact ht.modGroup
    · exact ht

theorem wake {core : Nat} {p : Wait → Bool} (hs : b.SameCopies s) : b.SameCopies (s.wake core p) := hs.mapSplits

theorem wakeAll {p : Wait → Bool} (hs : b.SameCopies s) : b.SameCopies (s.wakeAll p) := hs.foldl fun _ _ h => h.wake

theorem push {i : Instr} (hs : b.SameCopies s) : b.SameCopies (s.push i) := hs.same

theorem pushAll {l : List Instr} (hs : b.SameCopies s) : b.SameCopies (s.pushAll l) := hs.same

theorem dropReq {id : Nat} (hs : b.SameCopies s) : b.SameCopies (s.dropReq id) := hs.same

theorem retryExit {core : Nat} (hs : b.SameCopies s) : b.SameCopies (s.retryExit core) := hs.pushAll

theorem draw (hs : b.SameCopies s) : b.SameCopies s.draw.2 := hs.same

/-! ## Homes (R54) -/

theorem meet {ln : Nat} (hs : b.SameCopies s) : b.SameCopies (s.meet ln) := by
  unfold State.meet
  split
  · exact hs.same
  · exact hs

theorem sample {ln : Nat} {tier : Bool} (hs : b.SameCopies s) : b.SameCopies (s.sample ln tier) := by
  unfold State.sample
  split
  · dsimp only
    split
    · exact hs.same
    · exact hs
  · exact hs

theorem imageWrite {cid off n x : Nat} (hs : b.SameCopies s) : b.SameCopies (s.imageWrite cid off n x) := by
  unfold State.imageWrite
  split
  · exact hs
  · rename_i c hc
    split
    · exact hs.setCtx hc
    · split
      · split
        · exact hs.setCtx hc
        · split
          · exact hs.modCore
          · exact hs
      · exact hs

theorem setL2 {ln : Nat} {l : L2Line} (hs : b.SameCopies s) : b.SameCopies (s.setL2 ln l) := by
  unfold State.setL2
  split
  · extract_lets +onlyGivenNames src
    have h : b.SameCopies src := hs.imageWrite
    clear_value src
    exact h.same
  · exact hs.same

theorem memoryRead {ln : Nat} {tier : Bool} (hs : b.SameCopies s) : b.SameCopies (s.memoryRead ln tier) := by
  unfold State.memoryRead
  split
  · exact hs
  · dsimp only
    split
    · exact hs.sample
    · split
      · exact hs.sample.same
      · exact hs.sample.same

theorem fetchL2 {ln : Nat} {tier : Bool} (hs : b.SameCopies s) : b.SameCopies (s.fetchL2 ln tier).1 := by
  unfold State.fetchL2
  split
  · exact hs
  · exact hs.memoryRead.setL2

theorem mergeAt {core : Nat} {x : L1Line} (hs : b.SameCopies s) : b.SameCopies (s.mergeAt core x) := by
  unfold State.mergeAt
  split
  exact (hs.fetchL2.of_pair (by assumption)).setL2

theorem flushBacks {core ln : Nat} (hs : b.SameCopies s) : b.SameCopies (s.flushBacks core ln) := by
  unfold State.flushBacks
  refine State.SameCopies.same (hs.foldl fun t r ht => ?_)
  split
  · exact ht.mergeAt
  · exact ht

theorem staleFills {core : Nat} {p : Nat → Nat → Bool} (hs : b.SameCopies s) : b.SameCopies (s.staleFills core p) := hs.same

/-- An owner struck from a line at its home. -/
theorem dropOwner {ln core asid : Nat} (hs : b.SameCopies s) : b.SameCopies (match s.l2At ln with
    | some l => s.setL2 ln { l with owners := l.owners.filter fun o => !(o.1 == core && o.2.1 == asid) }
    | none => s) := by
  split
  · exact hs.setL2
  · exact hs

theorem forward {ln core asid : Nat} (hs : b.SameCopies s) : b.SameCopies (s.forward ln core asid) := by
  unfold State.forward
  dsimp only
  split
  · split
    · exact (State.SameCopies.modCore hs.flushBacks.mergeAt.staleFills).dropOwner
    · exact hs.flushBacks.dropOwner
  · exact hs.flushBacks.dropOwner

theorem forwardAll {ln : Nat} (hs : b.SameCopies s) : b.SameCopies (s.forwardAll ln) := by
  unfold State.forwardAll State.forwardTo
  split
  · exact hs.foldl fun _ _ h => h.forward
  · exact hs

theorem memoryWrite {ln : Nat} {l : L2Line} (hs : b.SameCopies s) : b.SameCopies (s.memoryWrite ln l) := by
  unfold State.memoryWrite
  dsimp only
  split
  · exact hs.sample.same
  · exact hs.sample.same

theorem evictL2 {ln : Nat} (hs : b.SameCopies s) : b.SameCopies (s.evictL2 ln) := by
  unfold State.evictL2
  dsimp only
  split
  · exact hs.forwardAll
  · split
    · exact hs.forwardAll.memoryWrite.same
    · exact hs.forwardAll.same

theorem makeWayL2 {ln : Nat} (hs : b.SameCopies s) : b.SameCopies (s.makeWayL2 ln) := by
  unfold State.makeWayL2
  split
  · exact hs
  · dsimp only
    split
    · exact hs.draw.evictL2
    · exact hs.draw

theorem allocate {ln : Nat} {tier : Bool} (hs : b.SameCopies s) : b.SameCopies (s.allocate ln tier).1 := hs.makeWayL2.fetchL2

theorem homeRead {ln : Nat} {tier : Bool} (hs : b.SameCopies s) : b.SameCopies (s.homeRead ln tier).1 := by
  unfold State.homeRead
  dsimp only
  exact hs.meet.forwardAll.allocate

theorem homeWrite {ln : Nat} {m : ByteMask} {x : Line} {cmp tier : Bool} (hs : b.SameCopies s) : b.SameCopies (s.homeWrite ln m x cmp tier) := by
  unfold State.homeWrite
  dsimp only
  exact hs.meet.forwardAll.allocate.setL2

theorem homeReduce {ln : Nat} {x : Line} {m : ByteMask} {op ty : Nat} {cmp tier : Bool} (hs : b.SameCopies s) :
    b.SameCopies (s.homeReduce ln x m op ty cmp tier) := by
  unfold State.homeReduce
  dsimp only
  exact hs.forwardAll.allocate.setL2

theorem readSpan {tier : Bool} {f pa n : Nat} (hs : b.SameCopies s) : b.SameCopies (State.readSpan tier f s pa n).1 := by
  induction f generalizing s pa n with
  | zero => exact hs
  | succ f ih =>
    unfold State.readSpan
    refine ite hs ?_
    dsimp only
    exact ih hs.homeRead

theorem readMem {pa n : Nat} (hs : b.SameCopies s) : b.SameCopies (s.readMem pa n).1 := hs.readSpan

/-! ## The walk (R17 to R24) -/

theorem readEntry {pa : Nat} (hs : b.SameCopies s) : b.SameCopies (s.readEntry pa).1 := by
  unfold State.readEntry
  split
  exact hs.readMem.of_pair (by assumption)

theorem asidEntry {core : Option Nat} {asid : Nat} (hs : b.SameCopies s) : b.SameCopies (s.asidEntry core asid).1 := by
  unfold State.asidEntry
  dsimp only
  split
  · exact ite hs hs.readEntry
  · split
    · exact hs
    · refine ite hs ?_
      dsimp only
      split
      · exact hs.readEntry.modCore
      · exact hs.readEntry

theorem nodeEntry {vf base idx : Nat} (hs : b.SameCopies s) : b.SameCopies (s.nodeEntry vf base idx).1 := by
  unfold State.nodeEntry
  refine ite hs (ite hs ?_)
  split
  exact hs.readEntry.of_pair (by assumption)

theorem rememberOn {core : Option Nat} {w : WalkEnt} (hs : b.SameCopies s) : b.SameCopies (s.rememberOn core w) := by
  unfold State.rememberOn
  split
  · exact hs.modCore
  · exact hs

theorem walk1 {vf asid node : Nat} {va : W64} (hs : b.SameCopies s) : b.SameCopies (s.walk1 vf asid va node).1 := by
  unfold State.walk1
  split <;> exact hs.nodeEntry.of_pair (by assumption)

theorem walk2 {core : Option Nat} {vf asid node : Nat} {va : W64} (hs : b.SameCopies s) : b.SameCopies (s.walk2 core vf asid va node).1 := by
  unfold State.walk2
  split
  · exact hs.nodeEntry.of_pair (by assumption)
  · have ht := hs.nodeEntry.of_pair (by assumption)
    split
    · exact ht
    · exact ht.rememberOn.walk1

theorem walk3 {core : Option Nat} {vf asid node : Nat} {va : W64} (hs : b.SameCopies s) : b.SameCopies (s.walk3 core vf asid va node).1 := by
  unfold State.walk3
  split
  · exact hs.nodeEntry.of_pair (by assumption)
  · have ht := hs.nodeEntry.of_pair (by assumption)
    split
    · exact ht
    · exact ht.rememberOn.walk2

theorem walk {core : Option Nat} {asid : Nat} {va : W64} (hs : b.SameCopies s) : b.SameCopies (s.walk core asid va).1 := by
  unfold State.walk
  split
  have ht := hs.asidEntry.of_pair (by assumption)
  refine ite ht ?_
  dsimp only
  split
  · exact ht.walk1
  · split
    · exact ht.walk2
    · exact ht.walk3

theorem xlate {core asid vf : Nat} {sup : Bool} {kind : Kind} {acc : Accept} {va : W64} (hs : b.SameCopies s) :
    b.SameCopies (s.xlate core asid vf sup kind acc va).1 := by
  unfold State.xlate
  refine ite hs (ite hs ?_)
  split
  · exact hs
  · split
    · exact hs.walk.of_pair (by assumption)
    · have ht := hs.walk.of_pair (by assumption)
      dsimp only
      exact ht.modCore

/-! ## Registers that an engine reads (R428) -/

theorem queue {n : Nat} (hs : b.SameCopies s) : b.SameCopies (s.queue n).1 := by
  unfold State.queue
  refine ite hs ?_
  split
  have ht := hs.readMem.of_pair (by assumption)
  exact ite ht ht

/-- An answer whose state has the copies and crews. -/
def FstSame {α : Type} (b : State) (p : State × α) : Prop := b.SameCopies p.1

theorem FstSame.ite {α : Type} {c : Prop} [Decidable c] {p q : State × α} (hp : FstSame b p) (hq : FstSame b q) : FstSame b (if c then p else q) :=
  State.SameCopies.ite hp hq

theorem ownRegister {vf off : Nat} (hs : b.SameCopies s) : b.SameCopies (s.ownRegister vf off).1 := by
  have h (x : W64) : b.SameCopies (s, x).1 := hs
  unfold State.ownRegister
  extract_lets
  iterate 12 refine ite (h _) ?_
  refine ite ?_ (ite (h _) (ite (h _) (h _)))
  extract_lets
  split
  exact hs.queue.of_pair (by assumption)

theorem pfRegister {off : Nat} (hs : b.SameCopies s) : b.SameCopies (s.pfRegister off).1 := by
  have h (x : W64) : FstSame b (s, x) := hs
  have hdies (v) (x : W64) : FstSame b ({ s with dies := v }, x) := hs.same
  show FstSame b (s.pfRegister off)
  unfold State.pfRegister
  iterate 7 refine .ite (h _) ?_
  refine .ite ?_ ?_
  · extract_lets
    exact .ite (h _) (.ite (h _) (.ite (hdies _ _) (.ite (hdies _ _) (.ite (h _) (.ite (h _) (h _))))))
  iterate 5 refine .ite (h _) ?_
  exact .ite (h _) (h _)

theorem readWindow {vf off n : Nat} (hs : b.SameCopies s) : b.SameCopies (s.readWindow vf off n).1 := by
  unfold State.readWindow
  refine ite (ite ?_ ?_) hs
  · split
    exact hs.pfRegister.of_pair (by assumption)
  · split
    exact hs.ownRegister.of_pair (by assumption)

/-! ## Accesses of an engine (R52) -/

section
variable {a : Agent}

theorem place {k : Kind} {acc : Accept} {va : W64} (hs : b.SameCopies s) : b.SameCopies (a.place k acc va s).1 := by
  unfold Agent.place
  refine ite hs (ite hs (ite ?_ hs.xlate))
  split <;> exact hs

theorem readAt {p : Place} {n : Nat} (hs : b.SameCopies s) : b.SameCopies (a.readAt p n s).1 := by
  unfold Agent.readAt
  split
  · split
    exact hs.homeRead.of_pair (by assumption)
  · exact hs
  · exact hs
  · exact hs
  · exact hs.readWindow
  · exact hs
  · exact hs

theorem writeAt {p : Place} {n x : Nat} (hs : b.SameCopies s) : b.SameCopies (a.writeAt p n x s) := by
  unfold Agent.writeAt
  split
  · exact hs.homeWrite
  · exact hs.same
  · exact hs.same
  · exact hs.same
  · split
    · exact hs.push
    · exact hs
  · exact hs.modCore
  · exact hs

theorem agentReadSpan {acc : Accept} {f n : Nat} {va : W64} (hs : b.SameCopies s) : b.SameCopies (a.readSpan acc f va n s).1 := by
  induction f generalizing va n s with
  | zero => exact hs
  | succ f ih =>
    unfold Agent.readSpan
    refine ite hs ?_
    dsimp only
    split
    · exact hs.place.of_pair (by assumption)
    · exact hs.place.of_pair (by assumption)
    · have ht := hs.place.of_pair (by assumption)
      split <;> exact (ih ht.readAt).of_pair (by assumption)

theorem read {acc : Accept} {va : W64} {n : Nat} (hs : b.SameCopies s) : b.SameCopies (a.read acc va n s).1 := hs.agentReadSpan

theorem readElems {t : Lattice} {c : Vector W32 6} {l : List (Nat × Nat)} (hs : b.SameCopies s) : b.SameCopies (a.readElems t c l s).1 := by
  induction l generalizing s with
  | nil => exact hs
  | cons x l ih =>
    unfold Agent.readElems
    dsimp only
    split
    · split <;> exact (ih hs).of_pair (by assumption)
    · split
      · have ht := hs.read.of_pair (by assumption)
        split <;> exact (ih ht).of_pair (by assumption)
      · exact hs.read.of_pair (by assumption)

theorem beat {r : CopyRec} (hs : b.SameCopies s) : b.SameCopies (a.beat r s).1 := by
  unfold Agent.beat
  dsimp only
  split
  · split <;> exact hs.read.of_pair (by assumption)
  · split <;> exact hs.read.of_pair (by assumption)
  · exact hs
  · split <;> exact hs.read.of_pair (by assumption)
  · refine ite (ite hs ?_) ?_
    · split <;> exact hs.read.of_pair (by assumption)
    · split <;> exact hs.readElems.of_pair (by assumption)

theorem barPlace {va : W64} (hs : b.SameCopies s) : b.SameCopies (a.barPlace va s).1 := by
  unfold Agent.barPlace
  refine ite hs ?_
  split <;> exact hs.place.of_pair (by assumption)

end

/-! ## Faults, barriers and answers -/

theorem deliverFault {core : Nat} {r : FaultRec} (hs : b.SameCopies s) : b.SameCopies (s.deliverFault core r).1 := by
  unfold State.deliverFault
  exact ite (ite hs hs.same) hs.same

theorem postFault {core vf : Nat} {owner : Option FRef} {split : Nat} {rec : BitVec 256} (hs : b.SameCopies s) :
    b.SameCopies (s.postFault core vf owner split rec) := by
  unfold State.postFault
  extract_lets +onlyGivenNames rec s1
  have h : b.SameCopies s1 := hs.modCore
  split
  · exact h.modCore
  · split
    · exact h.deliverFault.of_pair (by assumption)
    · have ht := h.deliverFault.of_pair (by assumption)
      exact ht.modCore

theorem putBytes {p : BarPlace} {o n x : Nat} (hs : b.SameCopies s) : b.SameCopies (s.putBytes p o n x) := by
  unfold State.putBytes
  split
  · exact hs.modCore
  · exact hs.same

theorem orSig {p : BarPlace} {o : Nat} {σ : SigBits} (hs : b.SameCopies s) : b.SameCopies (s.orSig p o σ) := hs.putBytes

theorem setBar {p : BarPlace} {x : Bar} (hs : b.SameCopies s) : b.SameCopies (s.setBar p x) := hs.putBytes.wakeAll

theorem raiseHalt {cid : Nat} {code : FaultCode} {seq : Nat} (hs : b.SameCopies s) : b.SameCopies (s.raiseHalt cid code seq) := by
  unfold State.raiseHalt
  split
  · exact hs
  · rename_i c hc
    split
    · exact (hs.setCtx hc).pushAll
    · exact (hs.setCtx hc).pushAll
    · exact hs.setCtx hc
    · split <;> exact hs.setCtx hc
    · split <;> exact hs.setCtx hc
    · exact hs

theorem engineFault {cid core src : Nat} {code : FaultCode} {subc fsubc : Byte} {seq : Nat} {fva : W64} (hs : b.SameCopies s) :
    b.SameCopies (s.engineFault cid core src code subc fsubc seq fva) := by
  unfold State.engineFault
  split
  · exact hs
  · rename_i c hc
    dsimp only
    exact (hs.setCtx hc).raiseHalt

theorem settles {cid core : Nat} (hs : b.SameCopies s) : b.SameCopies (s.settles cid core) := by
  unfold State.settles
  split
  · exact hs
  · split
    · exact hs
    · split
      · exact hs.same
      · split
        · exact hs.same
        · exact hs

theorem answered {r : Req} (hs : b.SameCopies s) : b.SameCopies (s.answered r) :=
  hs.dropReq.pushAll.settles.wake.retryExit.pushAll

theorem serve {id : Nat} {act : Req → State → State} (hs : b.SameCopies s) (hact : ∀ r, b.SameCopies (act r s)) : b.SameCopies (s.serve id act) := by
  unfold State.serve
  split
  · exact hs
  · split
    · exact (hact _).answered
    · split
      · exact hs.answered
      · exact hs

end State.SameCopies

end Sys2Proof.Machine
end


section
/-! SUPPORT. What the steps of a copy change: its record, its barrier, and nothing else that is read off (R140, R116, R158). -/

namespace Sys2Proof.Machine

/-! ## The record of a copy -/

theorem State.seq_of_copyRec {s : State} {core seq : Nat} {r : CopyRec} (h : s.copyRec core seq = some r) : r.seq = seq := by
  simpa using List.find?_some h

/-- A copy with the same number as the first is the first of its number. -/
theorem find?_map_seq {l : List CopyRec} {seq : Nat} {f : CopyRec → CopyRec} (hf : ∀ r, (f r).seq = r.seq) :
    (l.map fun r => if r.seq == seq then f r else r).find? (fun r => r.seq == seq) = (l.find? fun r => r.seq == seq).map f := by
  induction l with
  | nil => rfl
  | cons r l ih =>
    rw [List.map_cons, List.find?_cons, List.find?_cons]
    cases h : r.seq == seq with
    | true => rw [if_pos rfl, hf, h]; rfl
    | false => rw [if_neg nofun, h]; exact ih

theorem State.copyRec_modCopy (s : State) (core seq : Nat) {f : CopyRec → CopyRec} (hf : ∀ r, (f r).seq = r.seq := by intro _; rfl) :
    (s.modCopy core seq f).copyRec core seq = (s.copyRec core seq).map f := by
  rw [State.copyRec, State.modCopy, State.core_modCore_self]
  exact find?_map_seq hf

section
variable (s : State) (core seq : Nat) (f : CopyRec → CopyRec)

@[simp] theorem State.modCopy_dram : (s.modCopy core seq f).dram = s.dram := rfl
@[simp] theorem State.modCopy_atrium : (s.modCopy core seq f).atrium = s.atrium := rfl
@[simp] theorem State.modCopy_todo : (s.modCopy core seq f).todo = s.todo := rfl

@[simp] theorem State.alcove_modCopy (n : Nat) : ((s.modCopy core seq f).core n).alcove = (s.core n).alcove := by
  by_cases h : core = n
  · subst h; simp [State.modCopy]
  · rw [State.modCopy, State.core_modCore_ne _ _ _ _ h]

@[simp] theorem State.copyRec_push (i : Instr) : (s.push i).copyRec core seq = s.copyRec core seq := rfl

end

/-! ## Barriers in an Alcove -/

/-- What no change of a group touches, a wake of every core leaves. -/
theorem State.wakeAll_keeps {α : Type} {part : State → α} (h : ∀ s cid k f, part (State.modGroup s cid k f) = part s) (s : State)
    (p : Wait → Bool) : part (s.wakeAll p) = part s :=
  foldl_keeps (part := part) (fun t _ => State.mapSplits_keeps h t ..) _ s

section
variable (s : State) (core c x seq : Nat) (p : BarPlace) (y : Bar) (σ : SigBits)

theorem State.core_setBar (n : Nat) : (s.setBar p y).core n = (s.putBytes p 0 20 y.num).core n :=
  State.wakeAll_keeps (part := fun s : State => s.core n) (fun _ _ _ _ => State.core_modGroup ..) ..

@[simp] theorem State.setBar_dram : (s.setBar p y).dram = s.dram := by
  rw [State.setBar, State.wakeAll_keeps (part := State.dram) fun _ _ _ _ => State.modGroup_dram ..]
  cases p <;> rfl

@[simp] theorem State.setBar_alcove_atrium : (s.setBar (.alcove c x) y).atrium = s.atrium := by
  rw [State.setBar, State.wakeAll_keeps (part := State.atrium) fun _ _ _ _ => State.modGroup_atrium ..]
  rfl

theorem State.alcove_setBar : ((s.setBar (.alcove c x) y).core c).alcove = Mem.writeN (s.core c).alcove x 20 y.num := by
  rw [State.core_setBar, State.putBytes, State.core_modCore_self]
  rfl

@[simp] theorem State.copyRec_setBar : (s.setBar p y).copyRec core seq = s.copyRec core seq :=
  State.SameCopies.refl.setBar.copyRec core seq

theorem State.alcove_orSig :
    ((s.orSig (.alcove c x) 64 σ).core c).alcove = Mem.writeN (s.core c).alcove (x + 64) 256 (Mem.readN (s.core c).alcove (x + 64) 256 ||| σ.toNat) := by
  rw [State.orSig, State.putBytes, State.core_modCore_self, State.bytesOf]

@[simp] theorem State.copyRec_orSig : (s.orSig p 64 σ).copyRec core seq = s.copyRec core seq :=
  State.SameCopies.refl.orSig.copyRec core seq

end

section
variable {s t : State} {c : Nat} (h : (t.core c).alcove = (s.core c).alcove) (x : Nat)
include h

theorem State.bar_congr : t.bar (.alcove c x) = s.bar (.alcove c x) := by
  simp only [State.bar, State.bytesOf, h]

theorem State.alcove_orSig_congr (σ : SigBits) : ((t.orSig (.alcove c x) 64 σ).core c).alcove = ((s.orSig (.alcove c x) 64 σ).core c).alcove := by
  rw [State.alcove_orSig, State.alcove_orSig, h]

theorem State.alcove_setBar_congr (y : Bar) : ((t.setBar (.alcove c x) y).core c).alcove = ((s.setBar (.alcove c x) y).core c).alcove := by
  rw [State.alcove_setBar, State.alcove_setBar, h]

end

/-- The words that a copy raced for have been seen, and it bears OVERRUN where its credit overran. -/
def State.creditSeen (s : State) (core seq : Nat) (ov : Bool) : State :=
  let s := s.modCore core fun k => k.seen fun y => !y.array && y.seq == seq
  if ov then s.modCopy core seq fun r => { r with overrun := true } else s

section
variable (s : State) (core seq : Nat) (ov : Bool)

@[simp] theorem State.creditSeen_dram : (s.creditSeen core seq ov).dram = s.dram := by unfold State.creditSeen; split <;> rfl
@[simp] theorem State.creditSeen_atrium : (s.creditSeen core seq ov).atrium = s.atrium := by unfold State.creditSeen; split <;> rfl

@[simp] theorem State.alcove_creditSeen (n : Nat) : ((s.creditSeen core seq ov).core n).alcove = (s.core n).alcove := by
  have h : ((s.modCore core fun k => k.seen fun y => !y.array && y.seq == seq).core n).alcove = (s.core n).alcove := by
    by_cases h : core = n
    · subst h; rw [State.core_modCore_self]; rfl
    · rw [State.core_modCore_ne _ _ _ _ h]
  unfold State.creditSeen
  split
  · rw [State.alcove_modCopy, h]
  · exact h

theorem State.copyRec_creditSeen : (s.creditSeen core seq ov).copyRec core seq = (s.copyRec core seq).map fun r => { r with overrun := r.overrun || ov } := by
  have h : (s.modCore core fun k => k.seen fun y => !y.array && y.seq == seq).copyRec core seq = s.copyRec core seq :=
    (State.SameCopies.modCore .refl).copyRec core seq
  unfold State.creditSeen
  cases ov with
  | true => rw [if_pos rfl, State.copyRec_modCopy, h]; simp
  | false => rw [if_neg (by decide), h]; simp

end

section
variable {s : State} {a : Agent} {r : CopyRec} {c x n : Nat} {y : Bar} {ov : Bool}

/-- A credit to a barrier in an Alcove that halts nothing (R158, R160). -/
theorem State.creditTo_alcove (hk : ((s.orSig (.alcove c x) 64 r.sig).bar (.alcove c x)).credit n r.bphase = (y, ov)) (ht : ov = true → y.trapov = false) :
    s.creditTo a r (.alcove c x) n = ((s.orSig (.alcove c x) 64 r.sig).setBar (.alcove c x) y).creditSeen a.core r.seq ov := by
  have hno : (ov && y.trapov) = false := by simpa using ht
  simp only [State.creditTo, hk, hno, Bool.false_eq_true, if_false]
  rfl

variable (hk : ((s.orSig (.alcove c x) 64 r.sig).bar (.alcove c x)).credit n r.bphase = (y, ov)) (ht : ov = true → y.trapov = false)
include hk ht

theorem State.creditTo_alcove_dram : (s.creditTo a r (.alcove c x) n).dram = s.dram := by
  rw [State.creditTo_alcove hk ht, State.creditSeen_dram, State.setBar_dram]
  rfl

theorem State.creditTo_alcove_atrium : (s.creditTo a r (.alcove c x) n).atrium = s.atrium := by
  rw [State.creditTo_alcove hk ht, State.creditSeen_atrium, State.setBar_alcove_atrium]
  rfl

theorem State.creditTo_alcove_copyRec :
    (s.creditTo a r (.alcove c x) n).copyRec a.core r.seq = (s.copyRec a.core r.seq).map fun z => { z with overrun := z.overrun || ov } := by
  rw [State.creditTo_alcove hk ht, State.copyRec_creditSeen, State.copyRec_setBar, State.copyRec_orSig]

theorem State.creditTo_alcove_alcove :
    ((s.creditTo a r (.alcove c x) n).core c).alcove = (((s.orSig (.alcove c x) 64 r.sig).setBar (.alcove c x) y).core c).alcove := by
  rw [State.creditTo_alcove hk ht, State.alcove_creditSeen]

end

end Sys2Proof.Machine
end


section
/-! SUPPORT. The start of a lattice copy, and one beat of a copy (R140, R141, R145, R155, R116). -/

namespace Sys2Proof.Machine

theorem State.agent_core {s : State} {core cid crew : Nat} {a : Agent} (h : s.agent core cid crew = some a) : a.core = core := by
  obtain ⟨a', ha', hcore⟩ := State.SameCopies.refl.agent h
  cases h.symm.trans ha'
  exact hcore

section
variable {s t : State} {core seq : Nat} {r : CopyRec} {a : Agent}

/-! ## The start of a lattice copy -/

theorem exec_copyLatticeStart (hr : s.copyRec core seq = some r) (hon : s.copyActive core r = true) (ha : s.agent core r.cid r.crew = some a)
    (hkind : r.kind = .cpyt) (hlat : r.lattice = []) (hst : r.st = .queued ∨ r.st = .running) :
    exec (.copyLatticeStart core seq) s = .next (s.startLattice core a r) := by
  have hgo : (r.kind == .cpyt && r.lattice.isEmpty && r.st != .parked && r.st != .done && s.copyActive core r) = true := by
    rcases hst with h | h <;> simp [hkind, hlat, hon, h]
  show execCopyLatticeStart core seq s = _
  simp only [execCopyLatticeStart, hr, hgo, ha, if_true]

/-- The 192 bytes of a lattice. -/
def latBytes (x : Nat) : List Byte := (List.range 192).map fun k => BitVec.ofNat 8 (x / 2 ^ (8 * k))

/-- Where a lattice copy's lattice lies, and its block in the Alcove. -/
def CopyRec.latAt (r : CopyRec) : W64 := if r.store then r.dst else r.src
def CopyRec.blockAt (r : CopyRec) : W64 := if r.store then r.src else r.dst

/-- The room from a lattice copy's block to the end of the crew's Alcove. -/
def Agent.room (a : Agent) (r : CopyRec) : Nat := a.alcSize - (r.blockAt.toNat - alcoveBase.toNat)

variable {x : Nat} (hread : a.read ⟨[0], some .aperture, false⟩ r.latAt 192 s = (t, .ok x))
include hread

theorem startLattice_sound (hr : s.copyRec core seq = some r) (hsound : (latOf (latBytes x)).sound r.store r.coords (a.room r) = true) :
    ∃ y, (s.startLattice core a r).copyRec core seq = some y ∧ y.lattice = latBytes x ∧ y.len = (latOf (latBytes x)).nominal r.coords ∧
      y.st = .running ∧ (s.startLattice core a r).todo = t.todo ++ [.copyBeat core seq] := by
  obtain rfl := State.seq_of_copyRec hr
  have ht : t.copyRec core r.seq = some r := by rw [(State.SameCopies.refl.read.of_pair hread).copyRec, hr]
  simp only [CopyRec.latAt] at hread
  simp only [latBytes, Agent.room, CopyRec.blockAt] at hsound
  simp only [State.startLattice, hread, hsound, if_true, State.copyRec_push]
  rw [State.copyRec_modCopy, ht]
  exact ⟨_, rfl, rfl, rfl, rfl, rfl⟩

theorem startLattice_unsound (hbad : (latOf (latBytes x)).sound r.store r.coords (a.room r) = false) :
    s.startLattice core a r = t.copyFatal a r 0x12 0 r.latAt := by
  simp only [CopyRec.latAt] at hread ⊢
  simp only [latBytes, Agent.room, CopyRec.blockAt] at hbad
  simp only [State.startLattice, hread, hbad, Bool.false_eq_true, if_false]

end

/-! ## A beat and its counting -/

section
variable {s : State} {core seq : Nat} {r : CopyRec} {a : Agent}

/-- The CE may perform a beat of a copy. -/
structure BeatReady (s : State) (core seq : Nat) (r : CopyRec) (a : Agent) : Prop where
  found : s.copyRec core seq = some r
  active : s.copyActive core r = true
  agent : s.agent core r.cid r.crew = some a
  goes : r.st = .queued ∨ r.st = .running
  lattice : r.kind = .cpyt → r.lattice ≠ []
  left : r.done < r.len
  clear : r.beat = none

theorem BeatReady.runs (h : BeatReady s core seq r a) : ((r.st == .queued || r.st == .running) && (r.kind != .cpyt || !r.lattice.isEmpty) &&
    r.beat.isNone && r.done < r.len && s.copyActive core r) = true := by
  have hlat : (r.kind != .cpyt || !r.lattice.isEmpty) = true := by
    by_cases hk : r.kind = .cpyt
    · simp [h.lattice hk]
    · simp [hk]
  rcases h.goes with hst | hst <;> simp [hst, hlat, h.left, h.clear, h.active]

theorem BeatReady.faults {t : State} {f : EngFault} (h : BeatReady s core seq r a) (hb : a.beat r s = (t, .error f)) :
    exec (.copyBeat core seq) s = .next (t.copyFault a r f) := by
  show execCopyBeat core seq s = _
  simp only [execCopyBeat, h.found, h.runs, h.agent, hb, if_true]

theorem BeatReady.performs {t : State} {b : Beat} (h : BeatReady s core seq r a) (hb : a.beat r s = (t, .ok b)) (hbar : r.bar = none) :
    exec (.copyBeat core seq) s = .next (t.performBeat a r b none) := by
  show execCopyBeat core seq s = _
  simp only [execCopyBeat, h.found, h.runs, h.agent, hb, hbar, if_true]

theorem BeatReady.performs_barred {t u : State} {b : Beat} {va : W64} {p : BarPlace} (h : BeatReady s core seq r a)
    (hb : a.beat r s = (t, .ok b)) (hbar : r.bar = some va) (hp : a.barPlace va t = (u, .ok p)) :
    exec (.copyBeat core seq) s = .next (u.performBeat a r b (some p)) := by
  show execCopyBeat core seq s = _
  simp only [execCopyBeat, h.found, h.runs, h.agent, hb, hbar, hp, if_true]

/-- What a copy's beat may be written to: through a lattice, memory alone. -/
def CopyRec.accept (r : CopyRec) : Accept := if r.kind = .cpyt ∧ r.store = true then Accept.lattice else .any

/-- The bytes of a beat, written for its copy. -/
def Agent.writeBeat (a : Agent) (r : CopyRec) (p : Place) (b : Beat) (s : State) : State :=
  ({ a with job := some ⟨r.crew, false, r.seq, r.tag⟩ } : Agent).writeAt p b.n b.val s

theorem performBeat_writes {u : State} {b : Beat} {va : W64} {p : Place} {bar : Option BarPlace} (hk : r.kind ≠ .cpyr) (hdst : b.dst = some va)
    (hp : a.place .store r.accept va s = (u, .ok p)) :
    s.performBeat a r b bar = (a.writeBeat r p b u).beatMade a r b.n b.filled (placeSig p) bar := by
  unfold CopyRec.accept at hp
  cases hkind : r.kind with
  | cpyr => exact absurd hkind hk
  | cpyt =>
    rw [hkind] at hp
    cases hst : r.store <;> simp_all [State.performBeat, Agent.writeBeat]
  | cpy | cpyz | cpyl =>
    rw [hkind, if_neg (by simp)] at hp
    simp [State.performBeat, hdst, hkind, hp, Agent.writeBeat]

theorem performBeat_reduces {u : State} {b : Beat} {va : W64} {pa : Nat} {cmp tier leaf : Bool} {bar : Option BarPlace}
    (hk : r.kind = .cpyr) (hdst : b.dst = some va) (hp : a.place .store ⟨[0, 1, 2], some .aperture, true⟩ va s = (u, .ok (.mem pa cmp tier leaf))) :
    s.performBeat a r b bar = u.sendReduction a r b va pa cmp tier bar := by
  simp [State.performBeat, hdst, hk, hp]

/-- A record once a beat of n bytes has been counted. -/
def CopyRec.counted (r : CopyRec) (n : Nat) (filled : Bool) (σ : SigBits) : CopyRec :=
  { r with done := r.done + n, sig := r.sig ||| σ, filled := r.filled || filled, replayed := r.replayed || r.wasParked, st := .running, beat := none }

end

end Sys2Proof.Machine
end


section
/-! SUPPORT. A beat that has been performed: counted, credited, sent on, or parked at a fault (R140, R116, R155). -/

namespace Sys2Proof.Machine

/-! ## Counting a beat -/

/-- The copy with its leaf signature grown. -/
def CopyRec.signed (r : CopyRec) (σ : SigBits) : CopyRec := { r with sig := r.sig ||| σ }

/-- What follows a beat: the next one, the end of the copy, or its follow-on. -/
def State.afterBeat (s : State) (a : Agent) (r : CopyRec) (n : Nat) : State :=
  if r.len ≤ r.done + n then
    if r.follow.isSome then s.push (.followOnIssue a.core r.seq) else s.endCopy a.core r.seq none
  else s.push (.copyBeat a.core r.seq)

/-- The record of a copy after a beat: it is over with its last one, where it has no follow-on. -/
def CopyRec.after (z r : CopyRec) (n : Nat) : CopyRec :=
  if r.len ≤ r.done + n ∧ r.follow = none then { z with st := .done, fault := none } else z

section
variable (s : State) (a : Agent) (r : CopyRec) (n : Nat)

theorem State.afterBeat_dram : (s.afterBeat a r n).dram = s.dram := by
  unfold State.afterBeat
  split
  · split <;> rfl
  · rfl

theorem State.afterBeat_atrium : (s.afterBeat a r n).atrium = s.atrium := by
  unfold State.afterBeat
  split
  · split <;> rfl
  · rfl

theorem State.alcove_afterBeat (c : Nat) : ((s.afterBeat a r n).core c).alcove = (s.core c).alcove := by
  unfold State.afterBeat
  split
  · split
    · rfl
    · exact State.alcove_modCopy ..
  · rfl

theorem State.copyRec_endCopy (core seq : Nat) (fault : Option (Byte × Byte)) :
    (s.endCopy core seq fault).copyRec core seq = (s.copyRec core seq).map fun z => { z with st := .done, fault := fault } :=
  State.copyRec_modCopy ..

theorem State.copyRec_afterBeat : (s.afterBeat a r n).copyRec a.core r.seq = (s.copyRec a.core r.seq).map fun z => z.after r n := by
  unfold State.afterBeat CopyRec.after
  split
  · cases r.follow with
    | none => simpa [*] using s.copyRec_endCopy a.core r.seq none
    | some i => simp
  · simp [*]

variable {s a r n} {filled : Bool} {σ : SigBits}

theorem beatDone_unbarred : s.beatDone a r n filled σ none = (s.modCopy a.core r.seq fun z => z.counted n filled σ).afterBeat a r n := rfl

theorem beatDone_barred {p : BarPlace} (hlast : r.done + n < r.len ∨ r.follow = none) :
    s.beatDone a r n filled σ (some p) =
      ((s.modCopy a.core r.seq fun z => z.counted n filled σ).creditTo a (r.signed σ) p n).afterBeat a r n := by
  have h : (decide (r.len ≤ r.done + n) && r.follow.isSome) = false := by
    rcases hlast with h | h
    · simp [h]
    · simp [h]
  simp only [State.beatDone, h, Bool.false_eq_true, if_false, State.afterBeat]
  simp [CopyRec.counted, CopyRec.signed]

end

section
variable {s : State} {a : Agent} {r : CopyRec} {n : Nat} {filled : Bool} {σ : SigBits}

/-- A beat of a copy with no barrier: it is counted, and the next one follows or the copy is over. -/
theorem beatDone_counts (hr : s.copyRec a.core r.seq = some r) :
    ∃ y, (s.beatDone a r n filled σ none).copyRec a.core r.seq = some y ∧ y.done = r.done + n ∧ y.beat = none ∧ y.sig = r.sig ||| σ ∧
      (y.done < r.len → y.st = .running ∧ (s.beatDone a r n filled σ none).todo = s.todo ++ [.copyBeat a.core r.seq]) ∧
      (r.len ≤ y.done → r.follow = none → y.st = .done ∧ y.fault = none ∧
        (s.beatDone a r n filled σ none).todo = s.todo ++ [.copyComplete a.core r.seq]) := by
  refine ⟨(r.counted n filled σ).after r n, ?_, ?_, ?_, ?_, fun h => ?_, fun h hfollow => ?_⟩
  · rw [beatDone_unbarred, State.copyRec_afterBeat, State.copyRec_modCopy, hr]
    rfl
  · unfold CopyRec.after; split <;> rfl
  · unfold CopyRec.after; split <;> rfl
  · unfold CopyRec.after; split <;> rfl
  · have h : ¬ r.len ≤ r.done + n := by
      unfold CopyRec.after at h
      split at h <;> exact Nat.not_le.2 h
    simp [CopyRec.after, h, CopyRec.counted, beatDone_unbarred, State.afterBeat, State.push]
  · have h : r.len ≤ r.done + n := by
      unfold CopyRec.after at h
      split at h <;> exact h
    simp [CopyRec.after, h, hfollow, beatDone_unbarred, State.afterBeat, State.endCopy, State.push]

theorem beatDone_unbarred_dram : (s.beatDone a r n filled σ none).dram = s.dram := by
  rw [beatDone_unbarred, State.afterBeat_dram, State.modCopy_dram]

theorem beatDone_unbarred_atrium : (s.beatDone a r n filled σ none).atrium = s.atrium := by
  rw [beatDone_unbarred, State.afterBeat_atrium, State.modCopy_atrium]

/-- A beat of a copy whose barrier lies in an Alcove: the barrier takes the signature and the credit (R116, R158). -/
theorem beatDone_credits {c x : Nat} {k : Bar × Bool} (hr : s.copyRec a.core r.seq = some r) (hlast : r.done + n < r.len ∨ r.follow = none)
    (hk : k = ((s.orSig (.alcove c x) 64 (r.sig ||| σ)).bar (.alcove c x)).credit n r.bphase) (ht : k.2 = true → k.1.trapov = false) {v : State}
    (hv : v = s.beatDone a r n filled σ (some (.alcove c x))) :
    ∃ y, v.copyRec a.core r.seq = some y ∧ y.done = r.done + n ∧ y.overrun = (r.overrun || k.2) ∧ v.dram = s.dram ∧ v.atrium = s.atrium ∧
      (v.core c).alcove = (((s.orSig (.alcove c x) 64 (r.sig ||| σ)).setBar (.alcove c x) k.1).core c).alcove := by
  subst hv
  rw [beatDone_barred hlast]
  generalize ht' : s.modCopy a.core r.seq (fun z => z.counted n filled σ) = t
  have halc : (t.core c).alcove = (s.core c).alcove := by rw [← ht', State.alcove_modCopy]
  have hk' : ((t.orSig (.alcove c x) 64 (r.sig ||| σ)).bar (.alcove c x)).credit n r.bphase = (k.1, k.2) := by
    rw [State.bar_congr (State.alcove_orSig_congr halc x (r.sig ||| σ)), hk]
  have hrec : (t.creditTo a (r.signed σ) (.alcove c x) n).copyRec a.core r.seq =
      (t.copyRec a.core r.seq).map fun z => { z with overrun := z.overrun || k.2 } :=
    State.creditTo_alcove_copyRec (r := r.signed σ) hk' ht
  have htr : t.copyRec a.core r.seq = some (r.counted n filled σ) := by
    rw [← ht', State.copyRec_modCopy, hr]
    rfl
  refine ⟨({ r.counted n filled σ with overrun := r.overrun || k.2 } : CopyRec).after r n, ?_, ?_, ?_, ?_, ?_, ?_⟩
  · rw [State.copyRec_afterBeat, hrec, htr]
    rfl
  · unfold CopyRec.after; split <;> rfl
  · unfold CopyRec.after; split <;> rfl
  · rw [State.afterBeat_dram, State.creditTo_alcove_dram (r := r.signed σ) hk' ht, ← ht']
    rfl
  · rw [State.afterBeat_atrium, State.creditTo_alcove_atrium (r := r.signed σ) hk' ht, ← ht']
    rfl
  · rw [State.alcove_afterBeat, State.creditTo_alcove_alcove (r := r.signed σ) hk' ht]
    exact State.alcove_setBar_congr (State.alcove_orSig_congr halc x _) x k.1

end

end Sys2Proof.Machine
end


section
/-! SUPPORT. A beat that waits for its home or for its barrier's bank, and a beat that a fault parks (R116, R143, R155). -/

namespace Sys2Proof.Machine

/-! ## The line ORs of a signature (R58, R116) -/

section
variable (s : State) (core cid h asid : Nat) (dst : ReqDst) (x o : Nat) (σ : SigBits)

theorem State.reqs_claimSig : (s.claimSig x cid).reqs = s.reqs := by
  unfold State.claimSig
  split
  · split <;> rfl
  · rfl

theorem State.dram_claimSig : (s.claimSig x cid).dram = s.dram := by
  unfold State.claimSig
  split
  · split <;> rfl
  · rfl

theorem State.atrium_claimSig : (s.claimSig x cid).atrium = s.atrium := by
  unfold State.claimSig
  split
  · split <;> rfl
  · rfl

theorem State.cores_claimSig : (s.claimSig x cid).cores = s.cores := by
  unfold State.claimSig
  split
  · split <;> rfl
  · rfl

/-- The line OR of one row of a signature. -/
def rowOr (core cid h asid : Nat) (dst : ReqDst) (x o : Nat) (σ : SigBits) (id time k : Nat) : Req :=
  { id := id, page := none, core := core, cid := cid, h := h, asid := asid, op := .bankLine (x + o + 64 * k) 4 4 (σ.extractLsb' (512 * k) 512),
    dst := dst, lanes := 0, nak := false, again := false, sent := time }

theorem State.sendSig_reqs : (s.sendSig core cid h asid dst x o σ).1.reqs = s.reqs ++ (List.range 4).map fun k =>
    rowOr core cid h asid dst x o σ ((s.claimSig x cid).nextReq + k) (s.claimSig x cid).time k := by
  rw [← s.reqs_claimSig cid x]
  simp [State.sendSig, List.range_succ, State.send, State.push, rowOr]

theorem State.sendSig_dram : (s.sendSig core cid h asid dst x o σ).1.dram = s.dram := s.dram_claimSig cid x
theorem State.sendSig_atrium : (s.sendSig core cid h asid dst x o σ).1.atrium = s.atrium := s.atrium_claimSig cid x

theorem State.sendSig_copyRec (n seq : Nat) : (s.sendSig core cid h asid dst x o σ).1.copyRec n seq = s.copyRec n seq := by
  show (s.claimSig x cid).copyRec n seq = s.copyRec n seq
  rw [State.copyRec, State.core, s.cores_claimSig cid x, State.copyRec, State.core]

end

section
variable {s : State} {a : Agent} {r : CopyRec} {n : Nat} {filled : Bool} {σ : SigBits}

/-- A beat whose barrier lies in the Atrium sends the signature there, and is not counted yet (R116). -/
theorem beatMade_sends {off : Nat} (hr : s.copyRec a.core r.seq = some r) (hlate : a.core ≠ lateCore) (hlast : r.done + n < r.len ∨ r.follow = none)
    {v : State} (hv : v = s.beatMade a r n filled σ (some (.atrium off))) :
    ∃ y l, v.copyRec a.core r.seq = some y ∧ y.done = r.done ∧ y.beat = some ⟨n, σ, some (.atrium off), filled, true⟩ ∧ v.dram = s.dram ∧
      v.atrium = s.atrium ∧ v.reqs = s.reqs ++ l ∧ (∀ q ∈ l, q.core = a.core ∧ q.dst = .copy r.seq) ∧
      l.map (·.op) = (List.range 4).map fun i => ReqOp.bankLine (off + 64 + 64 * i) 4 4 ((r.sig ||| σ).extractLsb' (512 * i) 512) := by
  have hgo : (a.core == lateCore || (decide (r.len ≤ r.done + n) && r.follow.isSome)) = false := by
    rcases hlast with h | h <;> simp [hlate, h]
  subst hv
  simp only [State.beatMade, hgo, Bool.false_eq_true, if_false]
  refine ⟨{ r with st := .running, beat := some ⟨n, σ, some (.atrium off), filled, true⟩ }, _, ?_, rfl, rfl, State.sendSig_dram .., State.sendSig_atrium ..,
    State.sendSig_reqs .., ?_, ?_⟩
  · rw [State.sendSig_copyRec, State.copyRec_modCopy, hr]
    rfl
  · simp +contextual [rowOr]
  · simp [rowOr, Function.comp_def]

/-- A beat of a reduction goes to its home, and is not counted yet (R143). -/
theorem sendReduction_sends {b : Beat} {va : W64} {pa : Nat} {cmp tier : Bool} (hr : s.copyRec a.core r.seq = some r) (hlate : a.core ≠ lateCore)
    {v : State} (hv : v = s.sendReduction a r b va pa cmp tier none) :
    ∃ y q, v.copyRec a.core r.seq = some y ∧ y.done = r.done ∧ y.beat = some ⟨b.n, sigOf (pa / 128), none, false, false⟩ ∧ v.reqs = s.reqs ++ [q] ∧
      q.op = .reduce (pa / 128) (bytesAt (pa % 128) b.val) (rangeMask (pa % 128) b.n) r.rop r.rtype cmp tier ∧ q.dst = .copy r.seq ∧
      v.todo = s.todo ++ [.l2Reduction s.nextReq] := by
  have hgo : (a.core == lateCore) = false := by simpa using hlate
  subst hv
  simp only [State.sendReduction, hgo, Bool.false_eq_true, if_false]
  refine ⟨{ r with st := .running, beat := some ⟨b.n, sigOf (pa / 128), none, false, false⟩ }, _, ?_, rfl, rfl, rfl, rfl, rfl, rfl⟩
  show (State.modCopy ..).copyRec a.core r.seq = _
  rw [State.copyRec_modCopy, hr]
  rfl

/-! ## A beat that parks -/

theorem State.deliverFault_dram (s : State) (core : Nat) (x : FaultRec) : (s.deliverFault core x).1.dram = s.dram := by
  unfold State.deliverFault
  dsimp only
  split
  · split <;> rfl
  · rfl

theorem State.deliverFault_atrium (s : State) (core : Nat) (x : FaultRec) : (s.deliverFault core x).1.atrium = s.atrium := by
  unfold State.deliverFault
  dsimp only
  split
  · split <;> rfl
  · rfl

theorem State.postFault_keeps {α : Type} {part : State → α} (hcore : ∀ s n f, part (State.modCore s n f) = part s)
    (hdeliver : ∀ s n x, part (State.deliverFault s n x).1 = part s) (s : State) (core vf : Nat) (owner : Option FRef) (split : Nat)
    (rec : BitVec 256) : part (s.postFault core vf owner split rec) = part s := by
  unfold State.postFault
  extract_lets +onlyGivenNames x t
  have ht : part t = part s := hcore ..
  split
  · rw [hcore, ht]
  · have h := hdeliver t core x
    split
    · rename_i hq
      rw [hq] at h
      exact h.trans ht
    · rename_i hq
      rw [hq] at h
      rw [hcore, h, ht]

/-- The core forgets what it knows of a page that a fault was met at, unless the page was not present. -/
def Agent.forgets (a : Agent) (f : EngFault) (s : State) : State :=
  match f.code with
  | .notPresent => s
  | _ => s.modCore a.core fun c => c.discard a.asid f.va

theorem Agent.forgets_same (a : Agent) (f : EngFault) (s : State) : s.SameCopies (a.forgets f s) := by
  unfold Agent.forgets
  split
  · exact .refl
  · exact State.SameCopies.refl.modCore

theorem Agent.forgets_dram (a : Agent) (f : EngFault) (s : State) : (a.forgets f s).dram = s.dram := by
  unfold Agent.forgets
  split <;> rfl

theorem Agent.forgets_atrium (a : Agent) (f : EngFault) (s : State) : (a.forgets f s).atrium = s.atrium := by
  unfold Agent.forgets
  split <;> rfl

theorem copyFault_replayable {f : EngFault} (hrep : f.code.replayable = true) (hvf : f.code ≠ .vfViolation) :
    s.copyFault a r f = ((a.forgets f s).postFault a.core a.vf none 0 (faultRecord f.va a.asid f.code f.kind 3 a.core r.slot r.split 1 0)).modCopy
      a.core r.seq fun x => { x with st := .parked, pages := [lookupPage f.va], wasParked := true } := by
  have hnot : (f.code == .vfViolation) = false := by simpa using hvf
  simp only [State.copyFault, hnot, hrep, Bool.false_eq_true, if_false, if_true]
  rfl

/-- A replayable fault parks the copy at its beat (R155). -/
theorem copyFault_parks {f : EngFault} (hr : s.copyRec a.core r.seq = some r) (hrep : f.code.replayable = true) (hvf : f.code ≠ .vfViolation) {v : State}
    (hv : v = s.copyFault a r f) :
    ∃ y, v.copyRec a.core r.seq = some y ∧ y.st = .parked ∧ y.done = r.done ∧ y.pages = [lookupPage f.va] ∧ v.dram = s.dram ∧ v.atrium = s.atrium := by
  subst hv
  rw [copyFault_replayable hrep hvf]
  refine ⟨{ r with st := .parked, pages := [lookupPage f.va], wasParked := true }, ?_, rfl, rfl, rfl, ?_, ?_⟩
  · rw [State.copyRec_modCopy, (a.forgets_same f s).postFault.copyRec, hr]
    rfl
  · rw [State.modCopy_dram, State.postFault_keeps (part := State.dram) State.modCore_dram State.deliverFault_dram, Agent.forgets_dram]
  · rw [State.modCopy_atrium, State.postFault_keeps (part := State.atrium) State.modCore_atrium State.deliverFault_atrium, Agent.forgets_atrium]

end

end Sys2Proof.Machine
end


section
/-! SUPPORT. The completion of a copy: its record, its tag, and its status register (R154, R115). -/

namespace Sys2Proof.Machine

/-! ## A register that an engine pays -/

theorem Group.split_setSplit_self {g : Group} {k : Nat} {sp : Split} (h : g.split k = some sp) (x : Split) : (g.setSplit k (some x)).split k = some x := by
  have hk : k < 4 := by
    by_contra hk
    rw [Group.split, Vector.getElem?_eq_none (by omega)] at h
    cases h
  rw [Group.split, Group.setSplit, Vector.getElem?_setIfInBounds_self_of_lt hk]
  rfl

theorem Group.split_modSplit_self {g : Group} {k : Nat} {sp : Split} (h : g.split k = some sp) (f : Split → Split) :
    (g.modSplit k f).split k = some (f sp) := by
  rw [Group.modSplit, h]
  exact Group.split_setSplit_self h _

/-- A result that stands alone and is due leaves its value in its register. -/
theorem Group.split_commitDue_uni {g : Group} {id k now reg : Nat} {x : W32} {sp : Split}
    (hres : g.results = [⟨id, k, false, some now, [.uni reg x], false⟩]) (hsp : g.split k = some sp) :
    (g.commitDue now).split k = some { sp with u := sp.u.setIfInBounds reg x } := by
  rw [Group.commitDue, hres, commit, if_pos (by simp [Result.blockedBy])]
  exact Group.split_modSplit_self hsp _

/-- Where no result is left before it, a register that an engine owes takes its value. -/
theorem Group.pay_uni {g : Group} {now seq : Nat} {engine : Bool} {σ : SigBits} {w : Owed → List RegWrite} {o : Owed} {sp : Split} {reg : Nat} {x : W32}
    (hres : g.results = []) (ho : (g.owed.find? fun o => o.engine == engine && o.seq == seq) = some o) (hsp : g.split o.split = some sp)
    (hw : w o = [.uni reg x]) : (g.pay now engine seq σ w).split o.split = some { sp with u := sp.u.setIfInBounds reg x } := by
  unfold Group.pay
  rw [ho]
  exact Group.split_commitDue_uni (id := o.id) (by simp [hres, hw, Owed.tagged]) hsp

/-! ## Tags -/

/-- A tag of a crew. -/
def State.tagOf (s : State) (cid crew tag : Nat) : Option TagSt := (s.ctx cid).bind fun c => (c.crew crew).bind (·.tag tag)

theorem State.tagOf_eq_some {s : State} {cid crew tag : Nat} {x : TagSt} :
    s.tagOf cid crew tag = some x ↔ ∃ c k, s.ctx cid = some c ∧ c.crew crew = some k ∧ k.tag tag = some x := by
  simp only [State.tagOf, Option.bind_eq_some_iff]
  grind

theorem State.SameCopies.tagOf {s t : State} (h : s.SameCopies t) (cid crew tag : Nat) : t.tagOf cid crew tag = s.tagOf cid crew tag := by
  have hcrews (u : State) : u.tagOf cid crew tag = ((u.ctx cid).map (·.crews)).bind fun l => (getNth l crew).bind (·.tag tag) := by
    rw [State.tagOf, Option.bind_map]
    rfl
  rw [hcrews, hcrews, h.crews]

theorem State.tagOf_modCrew_self (s : State) (cid n tag : Nat) (f : Crew → Crew) :
    (s.modCrew cid n f).tagOf cid n tag = (s.ctx cid).bind fun c => (c.crew n).bind fun k => (f k).tag tag := by
  rw [State.tagOf, State.ctx_modCrew_self, Option.bind_map]
  refine Option.bind_congr fun c _ => ?_
  rw [Function.comp_apply, Ctx.crew_modCrew_self, Option.bind_map]
  rfl

theorem State.tagOf_modCrew_tags (s : State) (cid n m tag : Nat) {f : Crew → Crew} (hf : ∀ k, (f k).tags = k.tags) :
    (s.modCrew cid n f).tagOf cid m tag = s.tagOf cid m tag := by
  rw [State.tagOf, State.ctx_modCrew_self, Option.bind_map]
  refine Option.bind_congr fun c _ => ?_
  rw [Function.comp_apply]
  by_cases h : n = m
  · subst h
    rw [Ctx.crew_modCrew_self, Option.bind_map]
    exact Option.bind_congr fun k _ => by simp [Crew.tag, hf]
  · rw [Ctx.crew_modCrew_ne _ _ h]

end Sys2Proof.Machine
end


section
/-! SUPPORT. What a copy that completes leaves (R152, R154, R206). -/

namespace Sys2Proof.Machine

/-! ## The parts of a completion -/

/-- A copy's record has gone, and the words it raced for have been seen where something waits for it. -/
def State.dropCopy (s : State) (core seq : Nat) (told : Bool) : State :=
  s.modCore core fun c => ({ c with ce := c.ce.filter fun x => x.seq != seq } : Core).seen fun y => told && !y.array && y.seq == seq

theorem State.finishCopy_eq (s : State) (core : Nat) (r : CopyRec) : ∃ told left σ,
    s.finishCopy core r = ((((((s.dropCopy core r.seq told).modCrew r.cid r.crew fun c => c.tagDone r left).writeStatus r σ).modCrew r.cid r.home
      fun c => { c with sig := c.sig ||| r.sig }).wake core Wait.isTags).pushAll [.crewCompletion r.cid r.home, .crewCompletion r.cid r.crew]) :=
  ⟨_, _, _, rfl⟩

section
variable (s : State) (core : Nat) (r : CopyRec)

theorem State.core_dropCopy_ce (seq : Nat) (told : Bool) : ((s.dropCopy core seq told).core core).ce = (s.core core).ce.filter fun x => x.seq != seq := by
  rw [State.dropCopy, State.core_modCore_self]
  rfl

theorem State.alcove_dropCopy (seq : Nat) (told : Bool) (n : Nat) : ((s.dropCopy core seq told).core n).alcove = (s.core n).alcove := by
  by_cases h : core = n
  · subst h
    rw [State.dropCopy, State.core_modCore_self]
    rfl
  · rw [State.dropCopy, State.core_modCore_ne _ _ _ _ h]

theorem State.core_writeStatus (σ : SigBits) (n : Nat) : (s.writeStatus r σ).core n = s.core n := State.core_modGroup ..

/-- The cores after a completion, but for the record that has gone. -/
theorem State.core_finishCopy : ∃ told, ∀ n, (s.finishCopy core r).core n = (s.dropCopy core r.seq told).core n := by
  obtain ⟨told, left, σ, h⟩ := s.finishCopy_eq core r
  exact ⟨told, fun n => by rw [h, State.core_pushAll, State.core_wake, State.core_modCrew, State.core_writeStatus, State.core_modCrew]⟩

theorem State.copyRec_finishCopy : (s.finishCopy core r).copyRec core r.seq = none := by
  obtain ⟨told, h⟩ := s.core_finishCopy core r
  rw [State.copyRec, h, State.core_dropCopy_ce]
  simp

theorem State.alcove_finishCopy (n : Nat) : ((s.finishCopy core r).core n).alcove = (s.core n).alcove := by
  obtain ⟨told, h⟩ := s.core_finishCopy core r
  rw [h, State.alcove_dropCopy]

theorem State.finishCopy_dram : (s.finishCopy core r).dram = s.dram := by
  obtain ⟨told, left, σ, h⟩ := s.finishCopy_eq core r
  rw [h]
  refine (State.mapSplits_keeps (part := State.dram) (fun _ _ _ _ => State.modGroup_dram ..) ..).trans ?_
  simp [State.writeStatus, State.dropCopy]

theorem State.finishCopy_atrium : (s.finishCopy core r).atrium = s.atrium := by
  obtain ⟨told, left, σ, h⟩ := s.finishCopy_eq core r
  rw [h]
  refine (State.mapSplits_keeps (part := State.atrium) (fun _ _ _ _ => State.modGroup_atrium ..) ..).trans ?_
  simp [State.writeStatus, State.dropCopy]

end

/-! ## The tag and the status register -/

section
variable {s : State} {core : Nat} {r : CopyRec}

theorem Crew.tag_tagDone (c : Crew) (r : CopyRec) (left : List Nat) :
    (c.tagDone r left).tag r.tag = (c.tag r.tag).map fun t => { t with count := t.count - 1, sig := t.sig ||| r.sig, oldest := oldestSeq left } :=
  Crew.tag_modTag_self ..

theorem State.tagOf_finishCopy {x : TagSt} (hx : s.tagOf r.cid r.crew r.tag = some x) :
    ∃ y, (s.finishCopy core r).tagOf r.cid r.crew r.tag = some y ∧ y.count = x.count - 1 ∧ y.sig = x.sig ||| r.sig := by
  obtain ⟨told, left, σ, h⟩ := s.finishCopy_eq core r
  obtain ⟨c, k, hc, hk, ht⟩ := State.tagOf_eq_some.1 hx
  refine ⟨{ x with count := x.count - 1, sig := x.sig ||| r.sig, oldest := oldestSeq left }, ?_, rfl, rfl⟩
  rw [h, State.SameCopies.refl.wake.pushAll.tagOf, State.tagOf_modCrew_tags, State.writeStatus, State.SameCopies.refl.modGroup.tagOf,
    State.tagOf_modCrew_self]
  · show ((s.ctx r.cid).bind _) = _
    rw [hc, Option.bind_some, hk, Option.bind_some, Crew.tag_tagDone, ht]
    rfl
  · exact fun _ => rfl

/-- A wake changes no register of a split. -/
theorem State.regs_wake (s : State) (core : Nat) (p : Wait → Bool) (cid h k : Nat) :
    ((s.wake core p).frame cid h).map (fun fr => (fr.group.split k).map (·.u)) = (s.frame cid h).map fun fr => (fr.group.split k).map (·.u) := by
  unfold State.wake State.mapSplits
  refine foldl_keeps (part := fun s : State => (s.frame cid h).map fun fr => (fr.group.split k).map (·.u)) (fun t b => ?_) _ s
  split
  · rfl
  · split
    · refine State.frame_modGroup_map (part := fun fr : Frame => (fr.group.split k).map (·.u)) (fun fr => ?_) ..
      refine (congrArg (Option.map _) (Group.split_mapSplits fr.group _ k)).trans ?_
      rw [Option.map_map]
      refine congrArg (Option.map · _) (funext fun sp => ?_)
      rw [Function.comp_apply]
      split <;> rfl
    · rfl

/-- What a copy writes to the register it owes. -/
def CopyRec.statusWrites (r : CopyRec) (o : Owed) : List RegWrite :=
  match r.statVec with
  | some (reg, l) => [.vec reg (BitVec.twoPow 32 l) (Vector.replicate 32 r.status) 2#4]
  | none => [.uni o.reg r.status]

theorem State.frame_writeStatus (t : State) (r : CopyRec) (σ : SigBits) {fr : Frame} (h : t.frame r.cid r.handle = some fr) :
    (t.writeStatus r σ).frame r.cid r.handle = some { fr with group := fr.group.pay t.ac false r.seq σ r.statusWrites } := by
  refine (State.frame_modGroup_self ..).trans ?_
  rw [h]
  rfl

/-- The status word of a completed copy is in its register, where no earlier result of the group is left (R154, R206). -/
theorem State.status_finishCopy {fr : Frame} {o : Owed} {sp : Split} (hfr : s.frame r.cid r.handle = some fr) (hres : fr.group.results = [])
    (hvec : r.statVec = none) (hreg : o.reg < 64) (ho : (fr.group.owed.find? fun o => o.engine == false && o.seq == r.seq) = some o)
    (hsp : fr.group.split o.split = some sp) :
    ∃ fr' sp', (s.finishCopy core r).frame r.cid r.handle = some fr' ∧ fr'.group.split o.split = some sp' ∧ sp'.ureg o.reg = r.status := by
  obtain ⟨told, left, σ, h⟩ := s.finishCopy_eq core r
  have hw : r.statusWrites o = [.uni o.reg r.status] := by rw [CopyRec.statusWrites, hvec]
  have hfr' : ((s.dropCopy core r.seq told).modCrew r.cid r.crew fun c => c.tagDone r left).frame r.cid r.handle = some fr := by
    rw [State.frame_modCrew, State.dropCopy, State.frame_modCore, hfr]
  have hregs : ((s.finishCopy core r).frame r.cid r.handle).map (fun fr => (fr.group.split o.split).map (·.u)) =
      some (some (sp.u.setIfInBounds o.reg r.status)) := by
    rw [h, State.frame_pushAll, State.regs_wake, State.frame_modCrew, State.frame_writeStatus _ _ _ hfr', Option.map_some,
      Group.pay_uni hres ho hsp hw, Option.map_some]
  obtain ⟨fr', hf, hu⟩ := Option.map_eq_some_iff.1 hregs
  obtain ⟨sp', hs, hu⟩ := Option.map_eq_some_iff.1 hu
  refine ⟨fr', sp', hf, hs, ?_⟩
  rw [Split.ureg, hu, Vector.getElem?_setIfInBounds_self_of_lt hreg]
  rfl

end

end Sys2Proof.Machine
end


section
/-! SUPPORT. Completions, status words, and beats whose operation comes back (R150, R154, R140, R116). -/

namespace Sys2Proof.Machine

/-! ## A credit, whatever it halts -/

section
variable {s : State} {a : Agent} {r : CopyRec} {p : BarPlace} {n : Nat}

/-- A credit changes no copy's record but for OVERRUN. -/
theorem State.copyRec_creditTo : ∃ ov, (s.creditTo a r p n).copyRec a.core r.seq =
    (s.copyRec a.core r.seq).map fun z => { z with overrun := z.overrun || ov } := by
  have hsig : s.SameCopies (match p with
      | .alcove _ _ => s.orSig p 64 r.sig
      | .atrium _ => s) := by
    split
    · exact State.SameCopies.refl.orSig
    · exact .refl
  unfold State.creditTo
  extract_lets +onlyGivenNames t
  split
  rename_i y ov _
  refine ⟨ov, ?_⟩
  have hseen : ((t.setBar p y).creditSeen a.core r.seq ov).copyRec a.core r.seq =
      (s.copyRec a.core r.seq).map fun z => { z with overrun := z.overrun || ov } := by
    rw [State.copyRec_creditSeen, State.copyRec_setBar]
    exact congrArg (Option.map _) (hsig.copyRec ..)
  unfold State.creditSeen at hseen
  dsimp only at hseen ⊢
  split
  · rw [State.SameCopies.refl.engineFault.copyRec]
    exact hseen
  · exact hseen

/-- A beat is counted whatever its credit does. -/
theorem copyRec_beatDone {filled : Bool} {σ : SigBits} {bar : Option BarPlace} (hr : s.copyRec a.core r.seq = some r) :
    ∃ y, (s.beatDone a r n filled σ bar).copyRec a.core r.seq = some y ∧ y.done = r.done + n ∧ y.beat = none := by
  have after (t : State) (z : CopyRec) (ht : t.copyRec a.core r.seq = some z) (hz : z.done = r.done + n ∧ z.beat = none) :
      ∃ y, (t.afterBeat a r n).copyRec a.core r.seq = some y ∧ y.done = r.done + n ∧ y.beat = none := by
    refine ⟨z.after r n, by rw [State.copyRec_afterBeat, ht]; rfl, ?_⟩
    unfold CopyRec.after
    split <;> exact hz
  have hcount : (s.modCopy a.core r.seq fun z => z.counted n filled σ).copyRec a.core r.seq = some (r.counted n filled σ) := by
    rw [State.copyRec_modCopy, hr]
    rfl
  cases bar with
  | none => exact after _ _ hcount ⟨rfl, rfl⟩
  | some p =>
    by_cases hlast : (decide (r.len ≤ r.done + n) && r.follow.isSome) = true
    · obtain ⟨y, hy⟩ := after _ _ hcount ⟨rfl, rfl⟩
      refine ⟨y, ?_⟩
      simp only [State.beatDone, hlast, if_true]
      exact hy
    · obtain ⟨ov, hov⟩ := State.copyRec_creditTo (s := s.modCopy a.core r.seq fun z => z.counted n filled σ) (a := a) (r := r.signed σ) (p := p) (n := n)
      have hlast : r.done + n < r.len ∨ r.follow = none := by
        simpa [Decidable.imp_iff_not_or] using hlast
      rw [beatDone_barred hlast]
      refine after _ { r.counted n filled σ with overrun := r.overrun || ov } (hov.trans ?_) ⟨rfl, rfl⟩
      rw [show (r.signed σ).seq = r.seq from rfl, hcount]
      rfl

end

/-! ## The end of a copy -/

section
variable {s : State} {core seq : Nat} {r : CopyRec} {a : Agent}

theorem exec_copyComplete_finishes (hr : s.copyRec core seq = some r) (hst : r.st = .done) (h : r.follow = none ∨ r.fault ≠ none ∨ r.bar = none) :
    exec (.copyComplete core seq) s = .next (s.finishCopy core r) := by
  show execCopyComplete core seq s = _
  have hdone : (r.st == .done) = true := by simp [hst]
  simp only [execCopyComplete, hr, hdone, if_true]
  split
  · rename_i hfollow hfault hbar _
    rcases h with h | h | h
    · cases hfollow.symm.trans h
    · exact absurd hfault h
    · cases hbar.symm.trans h
  · rfl

theorem exec_copyComplete_credits {va : W64} {c x : Nat} (hr : s.copyRec core seq = some r) (hst : r.st = .done) (hfollow : r.follow ≠ none)
    (hfault : r.fault = none) (hbar : r.bar = some va) (ha : s.agent core r.cid r.crew = some a) (hp : a.barPlace va s = (s, .ok (.alcove c x))) :
    exec (.copyComplete core seq) s = .next (s.lastCredit a r (.alcove c x)) := by
  show execCopyComplete core seq s = _
  have hdone : (r.st == .done) = true := by simp [hst]
  obtain ⟨i, hi⟩ := Option.ne_none_iff_exists'.1 hfollow
  simp only [execCopyComplete, hr, hdone, hi, hfault, hbar, ha, hp, if_true]

/-- The last credit of a copy with a follow-on, to a barrier in an Alcove: the copy has completed (R150, R154). -/
theorem lastCredit_completes {c x : Nat} {k : Bar × Bool} (hr : s.copyRec a.core r.seq = some r)
    (hk : k = ((s.orSig (.alcove c x) 64 r.sig).bar (.alcove c x)).credit r.lastBeat r.bphase) (ht : k.2 = true → k.1.trapov = false) :
    (s.lastCredit a r (.alcove c x)).copyRec a.core r.seq = none ∧
      ((s.lastCredit a r (.alcove c x)).core c).alcove = (((s.orSig (.alcove c x) 64 r.sig).setBar (.alcove c x) k.1).core c).alcove := by
  have hrec := State.creditTo_alcove_copyRec (a := a) (y := k.1) (ov := k.2) hk.symm ht
  rw [hr, Option.map_some] at hrec
  unfold State.lastCredit
  dsimp only
  rw [hrec, Option.getD_some]
  refine ⟨State.copyRec_finishCopy _ _ _, ?_⟩
  rw [State.alcove_finishCopy, State.creditTo_alcove_alcove (y := k.1) (ov := k.2) hk.symm ht]

end

/-! ## The layout of a status word (R154) -/

theorem toNat_append_add {n m : Nat} (x : BitVec n) (y : BitVec m) : (x ++ y).toNat = x.toNat * 2 ^ m + y.toNat := by
  rw [BitVec.toNat_append, ← Nat.shiftLeft_add_eq_or_of_lt y.isLt, Nat.shiftLeft_eq]

/-- The cause byte of a status word. -/
def CopyRec.cause (r : CopyRec) : Byte := match r.fault with | some (c, _) => c | none => 0#8

theorem CopyRec.status_eq (r : CopyRec) : r.status = BitVec.ofNat 32 (r.fault.isSome.toNat + 16 * r.clamped.toNat + 32 * r.filled.toNat +
    64 * r.overrun.toNat + 128 * r.replayed.toNat + 256 * r.cause.toNat + 65536 * r.tag) := by
  unfold CopyRec.status CopyRec.cause
  cases r.fault <;> rfl

theorem CopyRec.status_layout {r : CopyRec} (htag : r.tag < 64) : r.status = (0#10 ++ BitVec.ofNat 6 r.tag ++ r.cause ++ BitVec.ofBool r.replayed ++
    BitVec.ofBool r.overrun ++ BitVec.ofBool r.filled ++ BitVec.ofBool r.clamped ++ (if r.fault.isSome then 1#4 else 0#4)) := by
  have hfault : (if r.fault.isSome then 1#4 else 0#4).toNat = r.fault.isSome.toNat := by split <;> simp_all
  have hcause := r.cause.isLt
  have hclamped := r.clamped.toNat_le
  have hfilled := r.filled.toNat_le
  have hoverrun := r.overrun.toNat_le
  have hreplayed := r.replayed.toNat_le
  have hres := r.fault.isSome.toNat_le
  refine BitVec.eq_of_toNat_eq ?_
  rw [CopyRec.status_eq]
  simp only [toNat_append_add, BitVec.toNat_ofNat, BitVec.toNat_ofBool, hfault]
  omega

end Sys2Proof.Machine
end


section
/-! SUPPORT. An operation of a copy's beat comes back from its home or bank (R140, R116, R58). -/

namespace Sys2Proof.Machine

/-! ## An operation that has been answered -/

theorem State.settles_keeps {α : Type} {part : State → α} (hpush : ∀ s i, part (State.push s i) = part s) (s : State) (cid core : Nat) :
    part (s.settles cid core) = part s := by
  unfold State.settles
  split
  · rfl
  · split
    · rfl
    · split
      · exact hpush ..
      · split
        · exact hpush ..
        · rfl

/-- An answer takes its operation out of flight, adds events and wakes splits. -/
theorem State.answered_keeps {α : Type} {part : State → α} (hpush : ∀ s i, part (State.push s i) = part s)
    (hall : ∀ s l, part (State.pushAll s l) = part s) (hgroup : ∀ s cid h f, part (State.modGroup s cid h f) = part s) (s : State) (r : Req) :
    part (s.answered r) = part (s.dropReq r.id) := by
  rw [State.answered, hall, State.retryExit, hall, State.wake, State.mapSplits_keeps hgroup, State.settles_keeps hpush, hall]

theorem State.reqs_answered (s : State) (r : Req) : (s.answered r).reqs = s.reqs.filter fun q => q.id != r.id :=
  State.answered_keeps (part := State.reqs) (fun _ _ => rfl) (fun _ _ => rfl) (fun _ _ _ _ => State.modGroup_reqs ..) s r

theorem State.atrium_answered (s : State) (r : Req) : (s.answered r).atrium = s.atrium :=
  State.answered_keeps (part := State.atrium) (fun _ _ => rfl) (fun _ _ => rfl) (fun _ _ _ _ => State.modGroup_atrium ..) s r

theorem State.nextReq_answered (s : State) (r : Req) : (s.answered r).nextReq = s.nextReq :=
  State.answered_keeps (part := State.nextReq) (fun _ _ => rfl) (fun _ _ => rfl) (fun _ _ _ _ => State.modGroup_nextReq ..) s r

theorem State.core_answered (s : State) (r : Req) (n : Nat) : (s.answered r).core n = s.core n := by
  rw [State.core, State.answered_keeps (part := State.cores) (fun _ _ => rfl) (fun _ _ => rfl) (fun _ _ _ _ => State.modGroup_cores ..) s r]
  rfl

theorem State.req_answered (s : State) (r : Req) : (s.answered r).req r.id = none := by
  rw [State.req, State.reqs_answered]
  simp

section
variable {s : State} {id : Nat} {q : Req}

theorem State.id_of_req (h : s.req id = some q) : q.id = id := by
  simpa using List.find?_some h

theorem State.serve_performs {act : Req → State → State} (h : s.req id = some q) (hserve : s.mayServe q = true) :
    s.serve id act = (act q s).answered q := by
  simp only [State.serve, h, hserve, if_true]

/-- The beat of a copy goes on once its operation is no longer in flight. -/
theorem State.copyAnswered_answered {seq : Nat} {performed : Bool} (hdst : q.dst = .copy seq) :
    (s.answered q).copyAnswered q performed = (s.answered q).sentBeat q.core seq performed := by
  rw [State.copyAnswered, hdst]
  simp [State.req_answered]

theorem exec_l2Reduction {seq : Nat} {ln op ty : Nat} {x : Line} {m : ByteMask} {cmp tier : Bool} (h : s.req id = some q) (hserve : s.mayServe q = true)
    (hdst : q.dst = .copy seq) (hop : q.op = .reduce ln x m op ty cmp tier) :
    exec (.l2Reduction id) s = .next (((s.homeReduce ln x m op ty cmp tier).answered q).sentBeat q.core seq true) := by
  show execL2Reduction id s = _
  unfold execL2Reduction
  simp only [h, State.serve_performs h hserve, hop, hserve]
  rw [State.copyAnswered_answered hdst]

theorem exec_atriumBankLine {seq off op ty : Nat} {x : BitVec 512} (h : s.req id = some q) (hserve : s.mayServe q = true)
    (hdst : q.dst = .copy seq) (hop : q.op = .bankLine off op ty x) :
    exec (.atriumBankOperation id) s = .next ((({ s with
      atrium := Mem.writeN s.atrium off 64 (aluWords op ty 16 (Mem.readN s.atrium off 64) x.toNat) } : State).answered q).sentBeat q.core seq true) := by
  rw [exec_atriumBankOperation h, State.bankOperation, State.serve_performs h hserve]
  simp only [hop, hserve]
  rw [State.copyAnswered_answered hdst]

end

/-! ## The beat goes on -/

section
variable {s : State} {core seq : Nat} {r : CopyRec} {b : SentBeat} {a : Agent}

/-- A reduction that has been performed lets its beat be counted. -/
theorem sentBeat_reduction (hr : s.copyRec core seq = some r) (hb : r.beat = some b) (ha : s.agent core r.cid r.crew = some a)
    (hsigned : b.signed = false) (hbar : b.bar = none) :
    ∃ y, (s.sentBeat core seq true).copyRec core seq = some y ∧ y.done = r.done + b.n ∧ y.beat = none ∧ y.sig = r.sig ||| b.sig := by
  obtain rfl := State.agent_core ha
  obtain rfl := State.seq_of_copyRec hr
  simp only [State.sentBeat, hr, hb, ha, hsigned, Bool.false_eq_true, if_false, if_true, hbar]
  obtain ⟨y, hy, hdone, hbeat, hsig, -⟩ := beatDone_counts (a := a) (n := b.n) (filled := false) (σ := b.sig) hr
  exact ⟨y, hy, hdone, hbeat, hsig⟩

/-- The last line OR of a signature lets its beat be counted. -/
theorem sentBeat_signed (hr : s.copyRec core seq = some r) (hb : r.beat = some b) (ha : s.agent core r.cid r.crew = some a) (hsigned : b.signed = true)
    (hst : r.st ≠ .done) (hlast : ∀ q ∈ s.reqs, ¬ (q.core = core ∧ q.dst = .copy seq)) :
    ∃ y, (s.sentBeat core seq true).copyRec core seq = some y ∧ y.done = r.done + b.n ∧ y.beat = none := by
  obtain rfl := State.agent_core ha
  obtain rfl := State.seq_of_copyRec hr
  have hnone : (s.reqs.any fun q => q.core == a.core && q.dst == .copy r.seq) = false := by simpa using hlast
  have hgo : (r.st == .done) = false := by simpa using hst
  simp only [State.sentBeat, hr, hb, ha, hsigned, hnone, hgo, Bool.false_eq_true, if_false, if_true]
  exact copyRec_beatDone hr

end

end Sys2Proof.Machine
end


section
/-! SUPPORT. The reserve operation of the feedback ring, and its entries (R80, R82). -/

namespace Sys2Proof.Machine

theorem State.atriumWf {s : State} (h : s.memWf = true) : s.atrium.wf = true := ((State.canon_none_iff s).2 h).atriumWf

theorem State.destState_of_mayServe {s : State} {r : Req} (h : s.mayServe r = true) : s.destState r = .good := by
  simp only [State.mayServe, Bool.and_eq_true, beq_iff_eq] at h
  exact h.2

section
variable {s : State} {id off : Nat} {r : Req} {key : FbKey} {status : Nat} (hr : s.req id = some r) (hop : r.op = .fbReserve off key status)
include hr hop

/-- A reservation whose header's Hall is withdrawn is counted as unreachable. -/
theorem exec_feedbackReserve_withdrawn (hgone : s.destState r = .withdrawn) : exec (.feedbackReserve id) s =
    .next ((s.answered r).modCore r.core fun c => { c with fbUnreach := c.fbUnreach + 1 }) := by
  show execFeedbackReserve id s = _
  have h : (s.destState r == .withdrawn) = true := by simp [hgone]
  simp only [execFeedbackReserve, hr, hop, h, if_true]

variable (hserve : s.mayServe r = true) (hen : Mem.readN s.atrium (off + 12) 1 % 2 = 1) (hlog : 4 ≤ Mem.readN s.atrium (off + 14) 1)
  (hlog' : Mem.readN s.atrium (off + 14) 1 ≤ 16)
include hserve hen hlog hlog'

/-- A drop is counted in the header of a full ring (R82). -/
def State.fbDrop (s : State) (off : Nat) : State :=
  State.fbFlag { s with atrium := Mem.writeN s.atrium (off + 8) 4 (min (Mem.readN s.atrium (off + 8) 4 + 1) 0xFFFFFFFF) } off 2

/-- The next entry of a ring is taken, and its write is sent (R82). -/
def State.fbTake (s : State) (r : Req) (off : Nat) (key : FbKey) (status : Nat) : State :=
  let tail := Mem.readN s.atrium off 4
  let op : ReqOp := .fbWrite off tail key status (Mem.readN s.atrium (off + 14) 1) (BitVec.ofNat 64 (Mem.readN s.atrium (off + 16) 8 % 2 ^ 57))
  (State.send { s with atrium := Mem.writeN s.atrium off 4 (tail + 1) } fun n => { r with id := n, op := op }).push (.feedbackEntryWrite s.nextReq)

/-- A ring that is on and sound drops an entry where it is full, and else gives it the next place. -/
theorem exec_feedbackReserve_serves : exec (.feedbackReserve id) s =
    .next (if 2 ^ Mem.readN s.atrium (off + 14) 1 ≤ (Mem.readN s.atrium off 4 + 2 ^ 32 - Mem.readN s.atrium (off + 4) 4) % 2 ^ 32
      then (s.answered r).fbDrop off else (s.answered r).fbTake r off key status) := by
  have hstay : (s.destState r == .withdrawn) = false := by rw [State.destState_of_mayServe hserve]; rfl
  have hon : (Mem.readN s.atrium (off + 12) 1 % 2 == 0) = false := by simp [hen]
  have hsize : ((Mem.readN s.atrium (off + 14) 1 < 4 : Bool) || (16 < Mem.readN s.atrium (off + 14) 1 : Bool)) = false := by simp; omega
  show execFeedbackReserve id s = _
  simp only [execFeedbackReserve, hr, hop, hstay, hserve, State.atrium_answered, hon, hsize, Bool.false_eq_true, if_false, Bool.not_true,
    State.fbDrop, State.fbTake]

end

theorem State.fbTake_atrium (s : State) (r : Req) (off : Nat) (key : FbKey) (status : Nat) :
    (s.fbTake r off key status).atrium = Mem.writeN s.atrium off 4 (Mem.readN s.atrium off 4 + 1) := rfl

theorem State.fbTake_todo (s : State) (r : Req) (off : Nat) (key : FbKey) (status : Nat) :
    .feedbackEntryWrite s.nextReq ∈ (s.fbTake r off key status).todo := by
  simp [State.fbTake, State.push]

/-- The Atrium once an entry has been dropped: the header counts it and has the flag LOST (R82). -/
def droppedAt (m : Mem) (off : Nat) : Mem :=
  let m := Mem.writeN m (off + 8) 4 (min (Mem.readN m (off + 8) 4 + 1) 0xFFFFFFFF)
  Mem.writeN m (off + 12) 1 (Mem.readN m (off + 12) 1 ||| 2)

theorem State.fbDrop_atrium (s : State) (off : Nat) : (s.fbDrop off).atrium = droppedAt s.atrium off := rfl

theorem readN_droppedAt {m : Mem} (hm : m.wf = true) (off : Nat) :
    Mem.readN (droppedAt m off) (off + 8) 4 = min (Mem.readN m (off + 8) 4 + 1) 0xFFFFFFFF ∧ Mem.readN (droppedAt m off) off 8 = Mem.readN m off 8 ∧
      Mem.readN (droppedAt m off) (off + 12) 1 = Mem.readN m (off + 12) 1 ||| 2 := by
  have hcounted := Mem.writeN_wf 4 hm (off + 8) (min (Mem.readN m (off + 8) 4 + 1) 0xFFFFFFFF)
  have hflag : Mem.readN m (off + 12) 1 ||| 2 < 256 := Nat.or_lt_two_pow (n := 8) (Mem.readN_lt m (off + 12) 1) (by omega)
  unfold droppedAt
  refine ⟨?_, ?_, ?_⟩
  · rw [Mem.readN_writeN_outside hcounted _ (by omega), Mem.readN_writeN 4 hm]
    omega
  · rw [Mem.readN_writeN_outside hcounted _ (by omega), Mem.readN_writeN_outside hm _ (by omega)]
  · rw [Mem.readN_writeN 1 hcounted, Mem.readN_writeN_outside hm _ (by omega)]
    exact Nat.mod_eq_of_lt hflag

/-! ## The entry (R83) -/

section
variable {s u : State} {id off index status logn a : Nat} {r : Req} {key : FbKey} {base : W64} {c : Ctx} {x : TRes}

theorem exec_feedbackEntryWrite (hr : s.req id = some r) (hop : r.op = .fbWrite off index key status logn base) (hnak : r.nak = false)
    (hc : s.ctx r.cid = some c) {va : W64} (hva : va = base + BitVec.ofNat 64 (16 * (index % 2 ^ logn))) (hcan : canonical va = true)
    (hup : upperHalf va = false) (halc : inAlcove va = false)
    (hx : s.xlate r.core r.asid (s.ctxVf r.core c) (s.ctxSup r.core c) .store .atrium va = (u, x)) (ha : atriumOff x = some a)
    (hopen : s.openSt (a / 33554432 % 2) ≠ .inReset) :
    exec (.feedbackEntryWrite id) s = .next (({ u.answered r with
      atrium := Mem.writeN (u.answered r).atrium (a / 16 * 16) 16 (fbEntry key status r.core index) } : State).modCore r.core fun c =>
        { c with filter := (key :: c.filter).take 64 }) := by
  subst hva
  have hin : (canonical (base + BitVec.ofNat 64 (16 * (index % 2 ^ logn))) && !upperHalf (base + BitVec.ofNat 64 (16 * (index % 2 ^ logn))) &&
      !inAlcove (base + BitVec.ofNat 64 (16 * (index % 2 ^ logn)))) = true := by simp [hcan, hup, halc]
  have hgo : (s.openSt (a / 33554432 % 2) == .inReset) = false := by simpa using hopen
  show execFeedbackEntryWrite id s = _
  simp only [execFeedbackEntryWrite, hr, hop, hc, hin, hx, ha, hnak, hgo, Option.any_some, Bool.or_false, Bool.false_eq_true, if_false, if_true]

end

end Sys2Proof.Machine
end


section
/-! Copies, their completions, and the feedback ring: the steps they take (O44). -/

namespace Sys2Proof.Machine

/-! ## The beats of a copy, by where its barrier lies -/

section
variable {s t u : State} {core seq : Nat} {r : CopyRec} {a : Agent} {b : Beat} {va vb : W64} {p : Place}

/-- A beat that is written leaves the copies as they were. -/
theorem writeBeat_same (ht : s.SameCopies t) (hp : a.place .store r.accept va t = (u, .ok p)) : s.SameCopies (a.writeBeat r p b u) :=
  (ht.place.of_pair hp).writeAt

theorem copyBeat_unbarred (h : BeatReady s core seq r a) (hb : a.beat r s = (t, .ok b)) (hk : r.kind ≠ .cpyr) (hdst : b.dst = some va)
    (hbar : r.bar = none) (hp : a.place .store r.accept va t = (u, .ok p)) :
    ∃ v y, exec (.copyBeat core seq) s = .next v ∧ v.copyRec core seq = some y ∧ y.done = r.done + b.n ∧ v.dram = (a.writeBeat r p b u).dram ∧
      v.atrium = (a.writeBeat r p b u).atrium ∧ (y.done < r.len → y.st = .running ∧ v.todo = (a.writeBeat r p b u).todo ++ [.copyBeat core seq]) ∧
      (r.len ≤ y.done → r.follow = none → y.st = .done ∧ y.fault = none ∧ v.todo = (a.writeBeat r p b u).todo ++ [.copyComplete core seq]) := by
  obtain rfl := State.agent_core h.agent
  obtain rfl := State.seq_of_copyRec h.found
  have hrec : (a.writeBeat r p b u).copyRec a.core r.seq = some r := by
    rw [(writeBeat_same (State.SameCopies.refl.beat.of_pair hb) hp).copyRec, h.found]
  obtain ⟨y, hy, hdone, -, -, hnext, hlast⟩ := beatDone_counts (n := b.n) (filled := b.filled) (σ := placeSig p) hrec
  refine ⟨_, y, (h.performs hb hbar).trans (congrArg _ (performBeat_writes hk hdst hp)), hy, hdone, ?_, ?_, hnext, hlast⟩
  · exact beatDone_unbarred_dram
  · exact beatDone_unbarred_atrium

theorem copyBeat_alcove {t' : State} {c x : Nat} {k : Bar × Bool} (h : BeatReady s core seq r a) (hb : a.beat r s = (t, .ok b)) (hk : r.kind ≠ .cpyr)
    (hdst : b.dst = some va) (hbar : r.bar = some vb) (hbp : a.barPlace vb t = (t', .ok (.alcove c x)))
    (hp : a.place .store r.accept va t' = (u, .ok p)) (hlast : r.done + b.n < r.len ∨ r.follow = none)
    (hcredit : k = (((a.writeBeat r p b u).orSig (.alcove c x) 64 (r.sig ||| placeSig p)).bar (.alcove c x)).credit b.n r.bphase)
    (htrap : k.2 = true → k.1.trapov = false) :
    ∃ v y, exec (.copyBeat core seq) s = .next v ∧ v.copyRec core seq = some y ∧ y.done = r.done + b.n ∧ y.overrun = (r.overrun || k.2) ∧
      v.dram = (a.writeBeat r p b u).dram ∧ v.atrium = (a.writeBeat r p b u).atrium ∧
      (v.core c).alcove = ((((a.writeBeat r p b u).orSig (.alcove c x) 64 (r.sig ||| placeSig p)).setBar (.alcove c x) k.1).core c).alcove := by
  obtain rfl := State.agent_core h.agent
  obtain rfl := State.seq_of_copyRec h.found
  have hrec : (a.writeBeat r p b u).copyRec a.core r.seq = some r := by
    rw [(writeBeat_same ((State.SameCopies.refl.beat.of_pair hb).barPlace.of_pair hbp) hp).copyRec, h.found]
  obtain ⟨y, hy⟩ := beatDone_credits (filled := b.filled) hrec hlast hcredit htrap rfl
  exact ⟨_, y, (h.performs_barred hb hbar hbp).trans (congrArg _ (performBeat_writes hk hdst hp)), hy⟩

theorem copyBeat_atrium {t' : State} {off : Nat} (h : BeatReady s core seq r a) (hb : a.beat r s = (t, .ok b)) (hk : r.kind ≠ .cpyr)
    (hdst : b.dst = some va) (hbar : r.bar = some vb) (hbp : a.barPlace vb t = (t', .ok (.atrium off)))
    (hp : a.place .store r.accept va t' = (u, .ok p)) (hlast : r.done + b.n < r.len ∨ r.follow = none) (hlate : core ≠ lateCore) :
    ∃ v y l, exec (.copyBeat core seq) s = .next v ∧ v.copyRec core seq = some y ∧ y.done = r.done ∧
      y.beat = some ⟨b.n, placeSig p, some (.atrium off), b.filled, true⟩ ∧ v.dram = (a.writeBeat r p b u).dram ∧
      v.atrium = (a.writeBeat r p b u).atrium ∧ v.reqs = (a.writeBeat r p b u).reqs ++ l ∧ (∀ q ∈ l, q.core = core ∧ q.dst = .copy seq) ∧
      l.map (·.op) = (List.range 4).map fun i => ReqOp.bankLine (off + 64 + 64 * i) 4 4 ((r.sig ||| placeSig p).extractLsb' (512 * i) 512) := by
  obtain rfl := State.agent_core h.agent
  obtain rfl := State.seq_of_copyRec h.found
  have hrec : (a.writeBeat r p b u).copyRec a.core r.seq = some r := by
    rw [(writeBeat_same ((State.SameCopies.refl.beat.of_pair hb).barPlace.of_pair hbp) hp).copyRec, h.found]
  obtain ⟨y, l, hy⟩ := beatMade_sends (filled := b.filled) hrec hlate hlast rfl
  exact ⟨_, y, l, (h.performs_barred hb hbar hbp).trans (congrArg _ (performBeat_writes hk hdst hp)), hy⟩

theorem copyBeat_reduction {pa : Nat} {cmp tier leaf : Bool} (h : BeatReady s core seq r a) (hb : a.beat r s = (t, .ok b)) (hk : r.kind = .cpyr)
    (hdst : b.dst = some va) (hbar : r.bar = none) (hlate : core ≠ lateCore)
    (hp : a.place .store ⟨[0, 1, 2], some .aperture, true⟩ va t = (u, .ok (.mem pa cmp tier leaf))) :
    ∃ v y q, exec (.copyBeat core seq) s = .next v ∧ v.copyRec core seq = some y ∧ y.done = r.done ∧
      y.beat = some ⟨b.n, sigOf (pa / 128), none, false, false⟩ ∧ v.reqs = u.reqs ++ [q] ∧
      q.op = .reduce (pa / 128) (bytesAt (pa % 128) b.val) (rangeMask (pa % 128) b.n) r.rop r.rtype cmp tier ∧ q.dst = .copy seq ∧
      v.todo = u.todo ++ [.l2Reduction u.nextReq] := by
  obtain rfl := State.agent_core h.agent
  obtain rfl := State.seq_of_copyRec h.found
  have hrec : u.copyRec a.core r.seq = some r := by
    rw [((State.SameCopies.refl.beat.of_pair hb).place.of_pair hp).copyRec, h.found]
  obtain ⟨y, q, hy⟩ := sendReduction_sends (va := va) hrec hlate rfl
  exact ⟨_, y, q, (h.performs hb hbar).trans (congrArg _ (performBeat_reduces hk hdst hp)), hy⟩

theorem copyBeat_parks {f : EngFault} (h : BeatReady s core seq r a) (hb : a.beat r s = (t, .error f)) (hrep : f.code.replayable = true)
    (hvf : f.code ≠ .vfViolation) :
    ∃ v y, exec (.copyBeat core seq) s = .next v ∧ v.copyRec core seq = some y ∧ y.st = .parked ∧ y.done = r.done ∧ y.pages = [lookupPage f.va] ∧
      v.dram = t.dram ∧ v.atrium = t.atrium := by
  obtain rfl := State.agent_core h.agent
  obtain rfl := State.seq_of_copyRec h.found
  have hrec : t.copyRec a.core r.seq = some r := by rw [(State.SameCopies.refl.beat.of_pair hb).copyRec, h.found]
  obtain ⟨y, hy⟩ := copyFault_parks hrec hrep hvf rfl
  exact ⟨_, y, h.faults hb, hy⟩

end

/-- Settles O44: a copy's steps by `State.SameCopies`, which translation and the homes keep, and the ring's by what its bank holds. -/
theorem copyAndFeedbackSteps : Obligations.CopyAndFeedbackSteps := by
  unfold Obligations.CopyAndFeedbackSteps
  refine ⟨fun s t core seq r a hr hon ha => ⟨?start, ?beats, ?complete, ?credit⟩, fun r htag => CopyRec.status_layout htag, ?answer, ?reserve, ?entry⟩
  case start =>
    intro x hkind hlat hst m al hread bytes
    refine ⟨fun hsound => ?_, fun hbad => ?_⟩
    · obtain ⟨y, hy, hbytes, hlen, hrun, htodo⟩ := startLattice_sound hread hr hsound
      exact ⟨_, y, exec_copyLatticeStart hr hon ha hkind hlat hst, hy, hbytes, hlen, hrun, htodo⟩
    · exact (exec_copyLatticeStart hr hon ha hkind hlat hst).trans (congrArg _ (startLattice_unsound hread hbad))
  case beats =>
    intro hst hlat hleft hclear
    have h : BeatReady s core seq r a := ⟨hr, hon, ha, hst, hlat, hleft, hclear⟩
    refine ⟨fun f hb hrep hvf => copyBeat_parks h hb hrep hvf, fun b va u p hk hb hdst => ⟨fun hbar hp => copyBeat_unbarred h hb hk hdst hbar hp,
      fun vb t' c x hbar hbp hp hlast htrap => copyBeat_alcove h hb hk hdst hbar hbp hp hlast rfl htrap,
      fun vb t' off hbar hbp hp hlast hlate => copyBeat_atrium h hb hk hdst hbar hbp hp hlast hlate⟩,
      fun b va u pa cmp tier leaf hk hbar hlate hb hdst hp => copyBeat_reduction h hb hk hdst hbar hlate hp⟩
  case complete =>
    intro hst hends c k x hc hk hx
    obtain ⟨y, hy, hcount, hsig⟩ := State.tagOf_finishCopy (core := core) (State.tagOf_eq_some.2 ⟨c, k, hc, hk, hx⟩)
    obtain ⟨c', k', hc', hk', hy⟩ := State.tagOf_eq_some.1 hy
    obtain rfl := State.seq_of_copyRec hr
    exact ⟨_, c', k', y, exec_copyComplete_finishes hr hst hends, State.copyRec_finishCopy .., hc', hk', hy, hcount, hsig, State.finishCopy_dram ..,
      State.finishCopy_atrium .., fun fr o sp hfr hres hvec _ hreg ho hsp => State.status_finishCopy hfr hres hvec hreg ho hsp⟩
  case credit =>
    intro va c x hst hfollow hfault hbar hp o k htrap
    have hexec := exec_copyComplete_credits hr hst hfollow hfault hbar ha hp
    obtain rfl := State.agent_core ha
    obtain rfl := State.seq_of_copyRec hr
    exact ⟨_, hexec, lastCredit_completes hr rfl htrap⟩
  case answer =>
    intro s id core seq q r b a hq hcore hdst hserve hr hb hst ha hlast
    subst hcore
    refine ⟨fun ln x m op ty cmp tier hop hsigned hbar => ?_, fun off op ty x hop hsigned => ?_⟩
    · have hsame : s.SameCopies ((s.homeReduce ln x m op ty cmp tier).answered q) := State.SameCopies.refl.homeReduce.answered
      obtain ⟨a', ha', -⟩ := hsame.agent ha
      obtain ⟨y, hy⟩ := sentBeat_reduction ((hsame.copyRec ..).trans hr) hb ha' hsigned hbar
      exact ⟨_, y, exec_l2Reduction hq hserve hdst hop, hy⟩
    · have hsame (m : Mem) : s.SameCopies (({ s with atrium := m } : State).answered q) := State.SameCopies.answered State.SameCopies.refl.same
      obtain ⟨a', ha', -⟩ := (hsame _).agent ha
      have hgone (m : Mem) : ∀ z ∈ (({ s with atrium := m } : State).answered q).reqs, ¬ (z.core = q.core ∧ z.dst = .copy seq) := by
        intro z hz
        rw [State.reqs_answered] at hz
        obtain ⟨hz, hne⟩ := List.mem_filter.1 hz
        exact hlast z hz (by simpa [State.id_of_req hq] using hne)
      obtain ⟨y, hy⟩ := sentBeat_signed (((hsame _).copyRec ..).trans hr) hb ha' hsigned hst (hgone _)
      exact ⟨_, y, exec_atriumBankLine hq hserve hdst hop, hy⟩
  case reserve =>
    intro s id off r key status hr hop hwf
    refine ⟨fun hgone => ⟨_, exec_feedbackReserve_withdrawn hr hop hgone, ?_, ?_⟩, fun hserve hen hlog hlog' => ⟨fun hroom => ?_, fun hfull => ?_⟩⟩
    · rw [State.modCore_atrium, State.atrium_answered]
    · rw [State.core_modCore_self, State.core_answered]
    · refine ⟨_, (exec_feedbackReserve_serves hr hop hserve hen hlog hlog').trans (congrArg _ (if_neg (Nat.not_le.2 hroom))), ?_, ?_, ?_⟩
      · rw [State.fbTake_atrium, State.atrium_answered]
        exact Mem.readN_writeN 4 (State.atriumWf hwf) ..
      · rw [State.fbTake_atrium, State.atrium_answered, Mem.readN_writeN_outside (State.atriumWf hwf) _ (by omega)]
      · exact State.nextReq_answered s r ▸ State.fbTake_todo ..
    · refine ⟨_, (exec_feedbackReserve_serves hr hop hserve hen hlog hlog').trans (congrArg _ (if_pos hfull)), ?_⟩
      rw [State.fbDrop_atrium, State.atrium_answered]
      exact readN_droppedAt (State.atriumWf hwf) off
  case entry =>
    intro s u id off index status logn a r key base c x hr hop hnak hc va hcan hup halc hx ha hopen hwf
    refine ⟨_, exec_feedbackEntryWrite hr hop hnak hc rfl hcan hup halc hx ha hopen, ?_, ?_⟩
    · rw [State.modCore_atrium, State.atrium_answered]
      exact Mem.readN_writeN 16 (State.atriumWf hwf) ..
    · rw [State.core_modCore_self]
      rfl

end Sys2Proof.Machine
end

section
/-! SUPPORT. The state word of a future in memory, and what the steps of futures share (R186 to R188). -/

namespace Sys2Proof.Machine

/-! ## The state word (R186) -/

theorem State.futWord_setFut {s : State} (h : s.atrium.wf = true) (off w : Nat) : (s.setFut off w).futWord off = w % 2 ^ 128 :=
  Mem.readN_writeN 16 h off w

/-- The word is read off the Atrium alone. -/
theorem State.futWord_congr {s t : State} (h : t.atrium = s.atrium) (off : Nat) : t.futWord off = s.futWord off := by
  rw [State.futWord, h, State.futWord]

/-- The word with one waiter more, up to what its field counts. -/
def futCounted (w : Nat) : Nat := w - 2 ^ 66 * futWaiters w + 2 ^ 66 * min (futWaiters w + 1) 0x3FFF

theorem futCounted_fields (w : Nat) : futWaiters (futCounted w % 2 ^ 128) = min (futWaiters w + 1) 16383 ∧
    futState (futCounted w % 2 ^ 128) = futState w ∧ futHead (futCounted w % 2 ^ 128) = futHead w := by
  simp only [futCounted, futWaiters, futState, futHead, Nat.reducePow]
  omega

/-- The word with a new list head. -/
def futHeaded (w head : Nat) : Nat := w - 2 ^ 96 * futHead w + 2 ^ 96 * head

theorem futHeaded_fields (w : Nat) {head : Nat} (h : head < 2 ^ 32) : futHead (futHeaded w head % 2 ^ 128) = head ∧
    futState (futHeaded w head % 2 ^ 128) = futState w ∧ futWaiters (futHeaded w head % 2 ^ 128) = futWaiters w := by
  simp only [futHeaded, futWaiters, futState, futHead, Nat.reducePow] at h ⊢
  omega

theorem futMake_fields {value st waiters rcore rslot reng head : Nat} (hv : value < 2 ^ 64) (hst : st < 4) (hw : waiters < 2 ^ 14) (hr : reng < 2)
    (hh : head < 2 ^ 32) : futState (futMake value st waiters rcore rslot reng head % 2 ^ 128) = st ∧
      futValue (futMake value st waiters rcore rslot reng head % 2 ^ 128) = value ∧
      futHead (futMake value st waiters rcore rslot reng head % 2 ^ 128) = head := by
  simp only [futMake, futState, futValue, futHead, Nat.reducePow] at *
  omega

/-! ## The split at a focus -/

/-- The frame and the split at a focus, as they stand. -/
theorem Env.of_split {s : State} {f : Focus} {e : Env} (h : Env.of s f = some e) :
    ∃ fr sp, s.frame e.cid e.h = some fr ∧ fr.group.split e.f.split = some sp := by
  obtain ⟨-, rfl, -, -, -, hc, fr, sp, hf, hs, -⟩ := Env.of_eq h
  exact ⟨fr, sp, by simp [State.frame, hc, hf], hs⟩

/-- It is the same split in a state with the same slots and contexts. -/
theorem Env.of_congr {s t : State} {f : Focus} {e : Env} (h : Env.of s f = some e) (hslots : (t.core f.core).slots = (s.core f.core).slots)
    (hctx : ∀ cid, t.ctx cid = s.ctx cid) : Env.of t f = some { e with s := t } := by
  obtain ⟨-, rfl, hb, hk, hcid, hc, fr, sp, hfr, hsp, -, hq⟩ := Env.of_eq h
  unfold Env.of
  rw [hcid] at hc
  simp only [hslots, hb, hk, hctx, hc, hfr, hsp]
  split <;> rename_i hread <;> rw [hread] at hq
  · obtain ⟨rfl, rfl⟩ := Prod.mk.inj hq
    rw [← hcid]
  · dsimp only at hq
    rw [← hcid, ← hq]

/-- A change of a core that leaves its slots leaves every core's. -/
theorem State.slots_modCore (s : State) (n m : Nat) {f : Core → Core} (hf : ∀ c, (f c).slots = c.slots) :
    ((s.modCore n f).core m).slots = (s.core m).slots := by
  by_cases h : n = m
  · rw [h, State.core_modCore_self, hf]
  · rw [State.core_modCore_ne _ _ _ _ h]

theorem State.frame_modSplit_self (s : State) (cid h k : Nat) (f : Split → Split) :
    (s.modSplit cid h k f).frame cid h = (s.frame cid h).map fun fr => { fr with group := fr.group.modSplit k f } :=
  State.frame_modGroup_self ..

/-- What no change of a context, of a core or of the events that are due touches, a frame that becomes ready does not touch. -/
theorem State.readyFrame_keeps {α : Type} {part : State → α} (hctx : ∀ s cid f, part (State.modCtx s cid f) = part s)
    (hcore : ∀ s n (f : Core → List FRef), part (State.modCore s n fun c => { c with ready := f c }) = part s) (hall : ∀ s l, part (State.pushAll s l) = part s) (s : State) (cid h : Nat) :
    part (s.readyFrame cid h) = part s := by
  unfold State.readyFrame
  split
  · rfl
  · have hr : part ((s.modFrame cid h fun fr => { fr with st := .ready }).noteFrame cid h) = part s := (hctx ..).trans (hctx ..)
    dsimp only
    split
    · exact hr
    · exact (hall ..).trans ((hcore ..).trans hr)

theorem State.atrium_readyFrame (s : State) (cid h : Nat) : (s.readyFrame cid h).atrium = s.atrium :=
  State.readyFrame_keeps (part := State.atrium) (fun _ _ _ => State.modCtx_atrium ..) (fun _ _ _ => rfl) (fun _ _ => rfl) s cid h

theorem State.reqs_readyFrame (s : State) (cid h : Nat) : (s.readyFrame cid h).reqs = s.reqs :=
  State.readyFrame_keeps (part := State.reqs) (fun _ _ _ => State.modCtx_reqs ..) (fun _ _ _ => rfl) (fun _ _ => rfl) s cid h

theorem State.frame_noteFrame (s : State) (cid h d k : Nat) : (s.noteFrame cid h).frame d k = s.frame d k :=
  State.frame_modCtx (fun c => by split; · split <;> rfl
                                  · rfl) d k

/-- A frame that becomes ready changes in its state alone. -/
theorem State.frame_readyFrame {s : State} {cid h : Nat} {fr : Frame} (hfr : s.frame cid h = some fr) :
    (s.readyFrame cid h).frame cid h = some { fr with st := .ready } := by
  have hr : ((s.modFrame cid h fun fr => { fr with st := .ready }).noteFrame cid h).frame cid h = some { fr with st := .ready } := by
    rw [State.frame_noteFrame, State.frame_modFrame_self, hfr]; rfl
  unfold State.readyFrame
  rw [hfr]
  dsimp only
  split
  · exact hr
  · exact hr

/-- A dependent frame has one future less to wait for. -/
theorem State.rem_lessRem {s : State} {cid h : Nat} {fr : Frame} (hfr : s.frame cid h = some fr) :
    ∃ fr', (s.lessRem cid h).frame cid h = some fr' ∧ fr'.rem = fr.rem - 1 := by
  have hr : ((s.modFrame cid h fun fr => { fr with rem := fr.rem - 1 }).noteFrame cid h).frame cid h = some { fr with rem := fr.rem - 1 } := by
    rw [State.frame_noteFrame, State.frame_modFrame_self, hfr]; rfl
  unfold State.lessRem
  simp only [hr]
  split
  · exact ⟨_, State.frame_readyFrame hr, rfl⟩
  · exact ⟨_, hr, rfl⟩

theorem State.atrium_lessRem (s : State) (cid h : Nat) : (s.lessRem cid h).atrium = s.atrium := by
  have hr : ((s.modFrame cid h fun fr => { fr with rem := fr.rem - 1 }).noteFrame cid h).atrium = s.atrium :=
    (State.modCtx_atrium ..).trans (State.modFrame_atrium ..)
  unfold State.lessRem
  dsimp only
  split
  · split
    · rw [State.atrium_readyFrame, hr]
    · exact hr
  · exact hr

/-- An exception writes no byte of the Atrium. -/
theorem State.atrium_raiseHalt (s : State) (cid : Nat) (code : FaultCode) (seq : Nat) : (s.raiseHalt cid code seq).atrium = s.atrium := by
  unfold State.raiseHalt
  split
  · rfl
  · split
    · rfl
    · rfl
    · rfl
    · split <;> rfl
    · split <;> rfl
    · rfl

/-! ## The steps of O40 -/

section
variable {s : State} {id off : Nat} {r : Req} {f : Focus} {e : Env}

/-- R187: a registration with an EMPTY future is counted, and the split waits. -/
theorem exec_waitRegistrationOp_empty (hr : s.req id = some r) (hop : r.op = .waitReg off) (hdst : r.dst = .split f) (hserve : s.mayServe r = true)
    (he : Env.of (s.answered r) f = some e) (h : futState (s.futWord off) = 0) :
    exec (.waitRegistrationOp id) s = .next (e.waits (.future none) ((s.answered r).setFut off (futCounted (s.futWord off)))) := by
  show execWaitRegistrationOp id s = _
  simp [execWaitRegistrationOp, hr, hop, hdst, hserve, he, h, futCounted, Env.waits]

/-- A split leaves the wait table of a core. -/
def State.leaveWaits (s : State) (core : Nat) (f : Focus) : State :=
  s.modCore core fun c => { c with waits := c.waits.filter fun x => !(x.slot == f.slot && x.split == f.split) }

/-- One with a resolved future answers the split, which leaves the wait table. -/
theorem exec_waitRegistrationOp_resolved (hr : s.req id = some r) (hop : r.op = .waitReg off) (hdst : r.dst = .split f) (hserve : s.mayServe r = true)
    (he : Env.of (s.answered r) f = some e) (h : futState (s.futWord off) ≠ 0) :
    exec (.waitRegistrationOp id) s = .next (e.modSplit ((s.answered r).leaveWaits r.core f)
      fun sp => { sp with wait := .resolved off (s.futWord off), asleep := false }) := by
  have he' : Env.of ((s.answered r).leaveWaits r.core f) f = some { e with s := (s.answered r).leaveWaits r.core f } :=
    Env.of_congr he (State.slots_modCore _ _ _ fun _ => rfl) fun _ => rfl
  show execWaitRegistrationOp id s = _
  simp only [execWaitRegistrationOp, hr, hop, hdst, hserve, Bool.not_true, Bool.false_eq_true, if_false, beq_iff_eq, if_neg h]
  show Host.Outcome.next (((s.answered r).leaveWaits r.core f).awaken f (.resolved off (s.futWord off))) = _
  rw [State.awaken, he']
  rfl

end

section
variable {s : State} {id off i cid h : Nat} {r : Req} {fr : Frame}

/-- R187, R189: a Gallery registration of a dependent frame heads the list of an EMPTY future; a resolved one needs no waiting. -/
theorem exec_galleryRegistrationOp_dependent (hr : s.req id = some r) (hop : r.op = .galleryReg off i) (hdst : r.dst = .frame cid h)
    (hserve : s.mayServe r = true) (hfr : s.frame cid h = some fr) (hrem : 0 < fr.rem) :
    exec (.galleryRegistrationOp id) s = .next (if futState (s.futWord off) = 0 then (s.answered r).enlist off cid h i
      else (s.answered r).lessRem cid h) := by
  show execGalleryRegistrationOp id s = _
  simp [execGalleryRegistrationOp, hr, hop, hdst, hserve, hfr, hrem]

end

section
variable {s : State}

theorem State.gallery_answered (s : State) (r : Req) : (s.answered r).gallery = s.gallery :=
  State.answered_keeps (part := State.gallery) (fun _ _ => rfl) (fun _ _ => rfl) (fun _ _ _ _ => State.modGroup_gallery ..) s r

theorem State.futWord_answered (s : State) (r : Req) (off : Nat) : (s.answered r).futWord off = s.futWord off := by
  rw [State.futWord, State.atrium_answered, State.futWord]

/-- The swap into the overflow list (R187). -/
theorem State.enlist_heads {off cid h i : Nat} {fr : Frame} (hwf : s.atrium.wf = true) (hfr : s.frame cid h = some fr) (hi : i < 4) (hh : h < 2 ^ 30) :
    futHead ((s.enlist off cid h i).futWord off) = h + 2 ^ 30 * i ∧ futState ((s.enlist off cid h i).futWord off) = futState (s.futWord off) ∧
    futWaiters ((s.enlist off cid h i).futWord off) = futWaiters (s.futWord off) ∧ (s.enlist off cid h i).gallery = (off, cid, h + 2 ^ 30 * i) :: s.gallery ∧
    ∃ fr', (s.enlist off cid h i).frame cid h = some fr' ∧ fr'.links.toList[i]? = some (BitVec.ofNat 32 (futHead (s.futWord off))) := by
  have hword : (s.enlist off cid h i).futWord off = futHeaded (s.futWord off) (h + 2 ^ 30 * i) % 2 ^ 128 := by
    rw [← State.futWord_setFut hwf off]
    exact State.futWord_congr (State.modFrame_atrium ..) off
  obtain ⟨hhead, hst, hw⟩ := futHeaded_fields (s.futWord off) (head := h + 2 ^ 30 * i) (by omega)
  refine ⟨by rw [hword, hhead], by rw [hword, hst], by rw [hword, hw], ?_, _, (State.frame_modFrame_self ..).trans (congrArg _ hfr), ?_⟩
  · simp [State.enlist, State.setFut]
  · simp [hi]

/-- R188: a resolution of an EMPTY future makes its word, and takes its list away. -/
theorem State.resolveFuture_empty {off rcore rslot asid : Nat} {value : W64} {faulted eng : Bool} (h : futState (s.futWord off) = 0) :
    ∃ u, s.resolveFuture off value faulted rcore rslot eng asid = (u, true) ∧
      u.atrium = (s.setFut off (futMake value.toNat (if faulted then 2 else 1) 0 rcore rslot eng.toNat noHandle)).atrium ∧ ∀ x ∈ u.gallery, x.1 ≠ off := by
  have hgone (l : List (Nat × Nat × Nat)) : ∀ x ∈ l.filter (fun x => x.1 != off), x.1 ≠ off :=
    fun x hx => by simpa using (List.mem_filter.1 hx).2
  unfold State.resolveFuture
  simp only [h, bne_self_eq_false, Bool.false_eq_true, if_false]
  split <;> split <;> exact ⟨_, rfl, rfl, hgone _⟩

theorem State.resolveFuture_resolved {off rcore rslot asid : Nat} {value : W64} {faulted eng : Bool} (h : futState (s.futWord off) ≠ 0) :
    s.resolveFuture off value faulted rcore rslot eng asid = (s, false) := by
  simp [State.resolveFuture, h]

end

section
variable {s : State} {id off rcore rslot : Nat} {value : W64} {faulted eng : Bool} {r : Req} {f : Focus} {e : Env}

/-- R188: the first resolution of a future writes its word. -/
theorem exec_futureResolutionOp_empty (hr : s.req id = some r) (hop : r.op = .resolve off value faulted rcore rslot eng) (hserve : s.mayServe r = true)
    (hdst : r.dst = .split f) (h : futState (s.futWord off) = 0) (hwf : s.memWf = true) : ∃ u, exec (.futureResolutionOp id) s = .next u ∧
      u.futWord off = futMake value.toNat (if faulted then 2 else 1) 0 rcore rslot eng.toNat noHandle % 2 ^ 128 ∧ ∀ x ∈ u.gallery, x.1 ≠ off := by
  obtain ⟨t, ht, hatrium, hgone⟩ := State.resolveFuture_empty (rcore := rcore) (rslot := rslot) (asid := r.asid) (value := value) (faulted := faulted)
    (eng := eng) ((congrArg futState (s.futWord_answered r off)).trans h)
  have hword : t.futWord off = _ := (State.futWord_congr hatrium off).trans (State.futWord_setFut ((s.atrium_answered r).symm ▸ State.atriumWf hwf) ..)
  show ∃ u, execFutureResolutionOp id s = .next u ∧ _
  simp only [execFutureResolutionOp, hr, hop, hserve, hdst, ht, Bool.not_true, Bool.false_eq_true, if_false, if_true]
  split
  · exact ⟨t, rfl, hword, hgone⟩
  · exact ⟨_, rfl, (State.futWord_congr (State.modSplit_atrium ..) off).trans hword, by simpa [Env.modSplit] using hgone⟩

/-- R188, R357: the second takes DOUBLE_RESOLVE. -/
theorem exec_futureResolutionOp_resolved (hr : s.req id = some r) (hop : r.op = .resolve off value faulted rcore rslot eng) (hserve : s.mayServe r = true)
    (hdst : r.dst = .split f) (he : Env.of (s.answered r) f = some e) (h : futState (s.futWord off) ≠ 0) :
    exec (.futureResolutionOp id) s = .next (e.take (faultOf .doubleResolve) (e.modSplit (s.answered r) fun sp => { sp with wait := .none, asleep := false })) := by
  have hsame : futState ((s.answered r).futWord off) ≠ 0 := by rwa [State.futWord_answered]
  show execFutureResolutionOp id s = _
  simp [execFutureResolutionOp, hr, hop, hserve, hdst, he, State.resolveFuture_resolved hsame]

end

/-- The waiters of a core that a notice names try again. -/
def State.wakeWaiters (s : State) (core : Nat) (n : Notice) : State :=
  ((s.core core).waits.filter fun w => w.future == n.future && w.asid == n.asid).foldl (fun s w => match Env.of s ⟨core, w.slot, w.split⟩ with
    | some e => e.modSplit s fun sp => { sp with asleep := false }
    | none => s) s

/-- Their entries of the wait table are free. -/
def State.freeWaiters (s : State) (core : Nat) (n : Notice) : State :=
  s.modCore core fun c => { c with waits := c.waits.filter fun w => !(w.future == n.future && w.asid == n.asid) }

theorem State.wakeWaiters_keeps {α : Type} {part : State → α} (h : ∀ s cid k j g, part (State.modSplit s cid k j g) = part s) (s : State) (core : Nat)
    (n : Notice) : part (s.wakeWaiters core n) = part s := by
  refine foldl_keeps (part := part) (fun t w => ?_) _ s
  split
  · exact h ..
  · rfl

/-- R188: a notice takes the waiters of its future off the wait table of a core. -/
theorem exec_resolutionNoticeReceive {s : State} {id core : Nat} {n : Notice} (h : (s.notices.find? fun x => x.id == id) = some n) :
    ∃ l, exec (.resolutionNoticeReceive id core) s = .next { (s.wakeWaiters core n).freeWaiters core n with notices := l } := by
  show ∃ l, execResolutionNoticeReceive id core s = _
  simp only [execResolutionNoticeReceive, h]
  exact ⟨_, rfl⟩

/-! ## The wake queue (R385) -/

section
variable {s : State} {hall : Nat} {x : List (Nat × Nat)} {l : List (List (Nat × Nat))}

theorem State.porter_push (s : State) (i : Instr) (hall : Nat) : (s.push i).porter hall = s.porter hall := rfl

/-- A post enters the wake queue while it has room. -/
theorem exec_wakeQueuePost (h : (s.porter hall).wakePend = x :: l) : exec (.wakeQueuePost hall) s = .next (
    if 4096 ≤ (s.porter hall).wake.length then s
    else (s.modPorter hall fun p => { p with wake := p.wake ++ [x], wakePend := l }).push (.wakeQueueHead hall)) := by
  show execWakeQueuePost hall s = _
  simp only [execWakeQueuePost, h]

theorem exec_wakeQueueHead (h : (s.porter hall).wake = x :: l) : exec (.wakeQueueHead hall) s = .next ((x.foldl (fun s y => s.wakeFrame y.1 y.2)
    (s.modPorter hall fun p => { p with wake := l })).pushAll [.wakeQueuePost hall, .wakeQueueHead hall]) := by
  show execWakeQueueHead hall s = _
  simp only [execWakeQueueHead, h]

end

/-! ## From the wait table to the Gallery (R188) -/

theorem exec_waiterToGallery {s : State} {core slot split i : Nat} {e : Env} {w : WaitEnt} (he : Env.of s ⟨core, slot, split⟩ = some e)
    (hw : e.sp.wait = .future none) (hsleep : e.sp.asleep = true) (hfind : ((s.core core).waits.find? fun x => x.slot == slot && x.split == split) = some w)
    (hi : e.fr.freeLink = some i) : exec (.waiterToGallery core slot split) s = .next (e.toGallery w.va w.future i (s.leaveWaits core ⟨core, slot, split⟩)) := by
  obtain rfl : core = e.f.core := by rw [Env.of_focus he]
  show execWaiterToGallery e.f.core slot split s = _
  simp only [execWaiterToGallery, he, hw, hsleep, hfind, hi, if_true]
  rfl

/-- A registration in the Gallery names the future by a link, and its operation goes to the bank (R187). -/
theorem Env.toGallery_links {e : Env} {t : State} {fr : Frame} (hfr : t.frame e.cid e.h = some fr) {i : Nat} (hi : i < 4) (va : W64) (off : Nat) :
    (∃ fr', (e.toGallery va off i t).frame e.cid e.h = some fr' ∧ fr'.links.toList[i]? = some linkPending ∧ fr'.futs.toList[i]? = some va ∧
      fr'.futOffs.toList[i]? = some off) ∧
    (e.toGallery va off i t).todo = t.todo ++ [.galleryRegistrationOp t.nextReq] ∧ ∀ n, (e.toGallery va off i t).core n = t.core n := by
  refine ⟨⟨_, (State.frame_modSplit_self ..).trans (congrArg _ ((State.frame_modFrame_self ..).trans (congrArg _ hfr))), ?_, ?_, ?_⟩, ?_, fun n => ?_⟩
  · simp [hi]
  · simp [Frame.setFut, hi]
  · simp [Frame.setFut, hi]
  · simp [Env.toGallery, Env.modSplit, Env.modFrame, Env.request, State.send]
  · exact (State.core_modSplit ..).trans (State.core_modFrame ..)

end Sys2Proof.Machine
end

section
/-! The steps of futures (O40). -/

namespace Sys2Proof.Machine

/-- Settles O40: each step by what it makes of the state word, of the lists and of the frame. -/
theorem futureEvents : Obligations.FutureEvents := by
  unfold Obligations.FutureEvents
  refine ⟨?registration, ?gallery, ?resolution, ?notice, ?queue, ?move, ?rendezvous⟩
  case registration =>
    intro s id off r f e hr hop hdst hserve he hwf
    refine ⟨fun h => ?_, fun h => ?_⟩
    · obtain ⟨hcount, hstate, hhead⟩ := futCounted_fields (s.futWord off)
      have hword : ((s.answered r).setFut off (futCounted (s.futWord off))).futWord off = _ :=
        State.futWord_setFut ((s.atrium_answered r).symm ▸ State.atriumWf hwf) ..
      refine ⟨_, exec_waitRegistrationOp_empty hr hop hdst hserve he h, ?_, ?_, ?_, rfl⟩
      · rw [hword, hcount]
      · rw [hword, hstate, h]
      · rw [hword, hhead]
    · obtain ⟨fr, sp, hfr, hsp⟩ := Env.of_split he
      obtain rfl := Env.of_focus he
      refine ⟨_, _, _, exec_waitRegistrationOp_resolved hr hop hdst hserve he h, (State.frame_modSplit_self ..).trans (congrArg _ hfr),
        Group.split_modSplit_self hsp _, rfl, rfl, ?_⟩
      exact (State.modSplit_atrium ..).trans (s.atrium_answered r)
  case gallery =>
    intro s id off i cid h r fr hr hop hdst hserve hfr hrem hfr' hi hh hwf
    have hexec := exec_galleryRegistrationOp_dependent hr hop hdst hserve hfr hrem
    refine ⟨fun hempty => ?_, fun hresolved => ?_⟩
    · rw [if_pos hempty] at hexec
      obtain ⟨hhead, hstate, hcount, hlist, fr', hfr', hlink⟩ := State.enlist_heads (off := off) ((s.atrium_answered r).symm ▸ State.atriumWf hwf) hfr' hi hh
      rw [State.futWord_answered] at hstate hcount hlink
      exact ⟨_, fr', hexec, hhead, hstate.trans hempty, hcount, hfr', hlink, hlist.trans (congrArg _ (s.gallery_answered r))⟩
    · rw [if_neg hresolved] at hexec
      obtain ⟨fr', hfr', hless⟩ := State.rem_lessRem hfr'
      exact ⟨_, fr', hexec, hfr', hless, (State.atrium_lessRem ..).trans (s.atrium_answered r)⟩
  case resolution =>
    intro s id off rcore rslot value faulted eng r f e hr hop hserve hdst he hwf
    refine ⟨fun h => ?_, fun h => ?_⟩
    · obtain ⟨u, hexec, hword, hgone⟩ := exec_futureResolutionOp_empty hr hop hserve hdst h hwf
      obtain ⟨hstate, hvalue, hhead⟩ := futMake_fields (st := if faulted then 2 else 1) (waiters := 0) (rcore := rcore) (rslot := rslot) value.isLt
        (by split <;> decide) (by decide) (Bool.toNat_lt eng) (show noHandle < 2 ^ 32 by decide)
      exact ⟨u, hexec, hword ▸ hstate, hword ▸ hvalue, hword ▸ hhead, hgone⟩
    · refine ⟨_, exec_futureResolutionOp_resolved hr hop hserve hdst he h, ?_, rfl⟩
      exact (State.atrium_raiseHalt ..).trans ((State.modSplit_atrium ..).trans ((State.modSplit_atrium ..).trans (s.atrium_answered r)))
  case notice =>
    intro s id core n hn
    obtain ⟨l, hexec⟩ := exec_resolutionNoticeReceive (core := core) hn
    refine ⟨_, hexec, ?_, ?_⟩
    · show (((s.wakeWaiters core n).freeWaiters core n).core core).waits = _
      rw [State.freeWaiters, State.core_modCore_self, State.wakeWaiters_keeps (part := fun s => s.core core) fun _ _ _ _ _ => State.core_modSplit ..]
    · exact State.wakeWaiters_keeps (part := State.atrium) (fun _ _ _ _ _ => State.modSplit_atrium ..) s core n
  case queue =>
    intro s hall x l hhall
    refine ⟨fun hpend hroom => ⟨_, (exec_wakeQueuePost hpend).trans (congrArg _ (if_neg (Nat.not_le.2 hroom))), ?_, ?_, rfl⟩,
      fun hpend hfull => (exec_wakeQueuePost hpend).trans (congrArg _ (if_pos hfull)), fun hwake => exec_wakeQueueHead hwake⟩
    · rw [State.porter_push, State.porter_modPorter s hhall]
    · rw [State.porter_push, State.porter_modPorter s hhall]
  case move =>
    intro s core slot split i e w he hw hsleep hfind hlink hi
    obtain ⟨fr, _, hfr, -⟩ := Env.of_split he
    obtain ⟨⟨fr', hfr', hpending, hfut, hoff⟩, htodo, hcore⟩ := Env.toGallery_links (t := s.leaveWaits core ⟨core, slot, split⟩) hfr hi w.va w.future
    exact ⟨_, fr', exec_waiterToGallery he hw hsleep hfind hlink, hfr', hpending, hfut, hoff, htodo,
      congrArg Core.waits ((hcore core).trans (State.core_modCore_self ..))⟩
  case rendezvous =>
    intro s core slot b c x l body hb hc hparts hbody
    show execReorderRendezvous core slot s = _
    simp only [execReorderRendezvous, hb, hc, hparts, hbody]

end Sys2Proof.Machine
end

section
/-! SUPPORT. What an operation leaves of every frame, and of the slots and the ready frames of every core (R180, R183): relations that the shared
operations keep. -/

namespace Sys2Proof.Machine

/-! ## Lists of key and value pairs, seen through a function of the value -/

section
variable {α β : Type} {g : α → β}

/-- A value replaced by one that looks the same. -/
theorem map_insert_of_lookup {l : List (Nat × α)} {a : Nat} {x y : α} (h : lookup l a = some x) (hy : g y = g x) :
    (insert l a y).map (fun c => (c.1, g c.2)) = l.map fun c => (c.1, g c.2) := by
  induction l with
  | nil => cases h
  | cons c l ih =>
    obtain ⟨k, v⟩ := c
    simp only [lookup] at h
    simp only [insert]
    split at h
    · rename_i hk
      cases h
      rw [if_pos hk, List.map_cons, List.map_cons, hy, beq_iff_eq.1 hk]
    · rename_i hk
      split at h
      · cases h
      · rename_i hlt
        rw [if_neg hk, if_neg hlt, List.map_cons, List.map_cons, ih h]

theorem rising_map (l : List (Nat × α)) : rising (l.map fun c => (c.1, g c.2)) = rising l := by
  induction l with
  | nil => rfl
  | cons c l ih =>
    cases l with
    | nil => rfl
    | cons d l => exact congrArg (_ && ·) ih

end

/-! ## Frames -/

/-- What is seen of the frames of a context. -/
def Ctx.parts {α : Type} (part : Frame → α) (c : Ctx) : List (Nat × α) := c.frames.map fun x => (x.1, part x.2)

/-- Two states have the same frames, as far as `part` sees them. -/
def State.SameFrames {α : Type} (part : Frame → α) (s t : State) : Prop := ∀ cid, (t.ctx cid).map (Ctx.parts part) = (s.ctx cid).map (Ctx.parts part)

namespace State.SameFrames

section
variable {α : Type} {part : Frame → α} {b s t : State}

theorem refl : State.SameFrames part s s := fun _ => rfl

theorem trans (hs : State.SameFrames part b s) (ht : State.SameFrames part s t) : State.SameFrames part b t := fun cid => (ht cid).trans (hs cid)

theorem frame (hs : State.SameFrames part b s) (cid h : Nat) : (s.frame cid h).map part = (b.frame cid h).map part := by
  have hread (u : State) : (u.frame cid h).map part = ((u.ctx cid).map (Ctx.parts part)).bind (lookup · h) := by
    unfold State.frame
    cases u.ctx cid with
    | none => rfl
    | some c => exact (lookup_map c.frames part h).symm
  rw [hread, hread, hs cid]

/-- A frame is there in both. -/
theorem frame_some (hs : State.SameFrames part b s) {cid h : Nat} {fr : Frame} (hfr : b.frame cid h = some fr) :
    ∃ fr', s.frame cid h = some fr' ∧ part fr' = part fr := by
  have h := hs.frame cid h
  rw [hfr] at h
  exact Option.map_eq_some_iff.1 h

/-- The frames of a context rise in both. -/
theorem rising (hs : State.SameFrames part b s) {cid : Nat} {c d : Ctx} (hc : b.ctx cid = some c) (hd : s.ctx cid = some d)
    (h : Machine.rising c.frames = true) : Machine.rising d.frames = true := by
  have hparts : d.parts part = c.parts part := by simpa [hc, hd] using hs cid
  rw [← rising_map (g := part), show d.frames.map _ = _ from hparts]
  exact (rising_map c.frames).trans h

theorem foldl {β : Type} {l : List β} {f : State → β → State} (hs : State.SameFrames part b s)
    (hf : ∀ s x, State.SameFrames part b s → State.SameFrames part b (f s x)) : State.SameFrames part b (l.foldl f s) := by
  induction l generalizing s with
  | nil => exact hs
  | cons x l ih => exact ih (hf s x hs)

theorem of_pair {β : Type} {p : State × β} {x : β} (h : State.SameFrames part b p.1) (e : p = (t, x)) : State.SameFrames part b t := by
  subst e
  exact h

/-- What lies beside the contexts changes. -/
theorem same (hs : State.SameFrames part b s) (e : t.ctxs = s.ctxs) : State.SameFrames part b t :=
  fun cid => by rw [State.ctx, e]; exact hs cid

theorem modCore {n : Nat} {f : Core → Core} (hs : State.SameFrames part b s) : State.SameFrames part b (s.modCore n f) := hs.same rfl

theorem setCtx {cid : Nat} {c d : Ctx} (hs : State.SameFrames part b s) (hc : s.ctx cid = some c) (hd : d.parts part = c.parts part) :
    State.SameFrames part b (s.setCtx cid d) := by
  intro k
  by_cases h : cid = k
  · subst h
    rw [State.ctx_setCtx_self, ← hs, hc, Option.map_some, Option.map_some, hd]
  · rw [State.ctx_setCtx_ne _ _ _ _ h, hs]

theorem modCtx {cid : Nat} {f : Ctx → Ctx} (hs : State.SameFrames part b s) (hf : ∀ c, (f c).parts part = c.parts part) :
    State.SameFrames part b (s.modCtx cid f) := by
  unfold State.modCtx
  split
  · exact hs
  · rename_i c hc
    exact hs.setCtx hc (hf c)

theorem modFrame {cid h : Nat} {f : Frame → Frame} (hs : State.SameFrames part b s) (hf : ∀ fr, part (f fr) = part fr) :
    State.SameFrames part b (s.modFrame cid h f) :=
  hs.modCtx fun c => by
    split
    · rfl
    · rename_i fr hfr
      exact map_insert_of_lookup hfr (hf fr)

theorem modGroup {cid h : Nat} {f : Group → Group} (hs : State.SameFrames part b s)
    (hf : ∀ fr, part { fr with group := f fr.group } = part fr) : State.SameFrames part b (s.modGroup cid h f) := hs.modFrame hf

theorem modCrew {cid n : Nat} {f : Crew → Crew} (hs : State.SameFrames part b s) : State.SameFrames part b (s.modCrew cid n f) := hs.modCtx fun _ => rfl

theorem wake {core : Nat} {p : Wait → Bool} (hs : State.SameFrames part b s)
    (hpart : ∀ fr v, part { fr with group := { fr.group with splits := v } } = part fr) : State.SameFrames part b (s.wake core p) := by
  unfold State.wake State.mapSplits
  refine hs.foldl fun t x ht => ?_
  split
  · exact ht
  · split
    · exact ht.modGroup fun fr => hpart fr _
    · exact ht

theorem wakeAll {p : Wait → Bool} (hs : State.SameFrames part b s)
    (hpart : ∀ fr v, part { fr with group := { fr.group with splits := v } } = part fr) : State.SameFrames part b (s.wakeAll p) :=
  hs.foldl fun _ _ h => h.wake hpart

end

end State.SameFrames

/-! ## Slots and ready frames -/

/-- Two states have the same slot tables and the same ready frames. -/
def State.SameQueues (s t : State) : Prop := ∀ n, ((t.core n).slots, (t.core n).ready) = ((s.core n).slots, (s.core n).ready)

namespace State.SameQueues

variable {b s t : State}

theorem refl : s.SameQueues s := fun _ => rfl

theorem slots (hs : b.SameQueues s) (n : Nat) : (s.core n).slots = (b.core n).slots := congrArg Prod.fst (hs n)

theorem ready (hs : b.SameQueues s) (n : Nat) : (s.core n).ready = (b.core n).ready := congrArg Prod.snd (hs n)

theorem foldl {β : Type} {l : List β} {f : State → β → State} (hs : b.SameQueues s) (hf : ∀ s x, b.SameQueues s → b.SameQueues (f s x)) :
    b.SameQueues (l.foldl f s) := by
  induction l generalizing s with
  | nil => exact hs
  | cons x l ih => exact ih (hf s x hs)

/-- What lies beside the cores changes. -/
theorem same (hs : b.SameQueues s) (e : t.cores = s.cores) : b.SameQueues t := fun n => by rw [State.core, e]; exact hs n

theorem modCore {n : Nat} {f : Core → Core} (hs : b.SameQueues s) (hf : ∀ c, ((f c).slots, (f c).ready) = (c.slots, c.ready)) :
    b.SameQueues (s.modCore n f) := by
  intro m
  by_cases h : n = m
  · rw [h, State.core_modCore_self, hf, hs]
  · rw [State.core_modCore_ne _ _ _ _ h, hs]

theorem modCtx {cid : Nat} {f : Ctx → Ctx} (hs : b.SameQueues s) : b.SameQueues (s.modCtx cid f) := hs.same (State.modCtx_cores ..)

theorem wake {core : Nat} {p : Wait → Bool} (hs : b.SameQueues s) : b.SameQueues (s.wake core p) := fun n => by rw [State.core_wake, hs]

theorem wakeAll {p : Wait → Bool} (hs : b.SameQueues s) : b.SameQueues (s.wakeAll p) := hs.foldl fun _ _ h => h.wake

end State.SameQueues

end Sys2Proof.Machine
end

section
/-! SUPPORT. Which JOIN of a group is released (R174, R270). -/

namespace Sys2Proof.Machine

/-! ## The splits of a group -/

theorem Group.lt_of_split {g : Group} {k : Nat} {sp : Split} (h : g.split k = some sp) : k < 4 := by
  by_contra hk
  simp [Group.split, Vector.getElem?_eq_none (Nat.le_of_not_lt hk)] at h

theorem Group.split_setSplit_ne (g : Group) {k j : Nat} (h : k ≠ j) (x : Option Split) : (g.setSplit k x).split j = g.split j := by
  simp [Group.split, Group.setSplit, Vector.getElem?_setIfInBounds_ne h]

theorem Group.split_modSplit_ne (g : Group) {k j : Nat} (h : k ≠ j) (f : Split → Split) : (g.modSplit k f).split j = g.split j := by
  unfold Group.modSplit
  split
  · rfl
  · exact g.split_setSplit_ne h _

/-! ## The lowest PC -/

/-- The splits of a group with their numbers. -/
def Group.numbered (g : Group) : List (Nat × Split) := (List.range 4).filterMap fun k => (g.split k).map fun sp => (k, sp)

theorem Group.mem_numbered {g : Group} {k : Nat} {sp : Split} : (k, sp) ∈ g.numbered ↔ g.split k = some sp := by
  simp only [Group.numbered, List.mem_filterMap, List.mem_range, Option.map_eq_some_iff, Prod.mk.injEq]
  exact ⟨fun ⟨_, _, _, h, rfl, rfl⟩ => h, fun h => ⟨k, Group.lt_of_split h, sp, h, rfl, rfl⟩⟩

/-- The first of a list with the lowest PC. -/
def lowestPc (best : Option (Nat × Split)) (l : List (Nat × Split)) : Option (Nat × Split) :=
  l.foldl (fun (best : Option (Nat × Split)) x => match best with
    | some b => if x.2.pc < b.2.pc then some x else some b
    | none => some x) best

theorem lowestPc_some (l : List (Nat × Split)) (b : Nat × Split) :
    ∃ m, lowestPc (some b) l = some m ∧ m ∈ b :: l ∧ ∀ x ∈ b :: l, m.2.pc ≤ x.2.pc := by
  induction l generalizing b with
  | nil => exact ⟨b, rfl, List.mem_cons_self .., by simp⟩
  | cons x l ih =>
    by_cases hx : x.2.pc < b.2.pc
    · obtain ⟨m, hm, hmem, hlow⟩ := ih x
      refine ⟨m, by simpa [lowestPc, hx] using hm, List.mem_cons_of_mem _ hmem, List.forall_mem_cons.2 ⟨?_, hlow⟩⟩
      have := hlow x (List.mem_cons_self ..)
      bv_omega
    · obtain ⟨m, hm, hmem, hlow⟩ := ih b
      obtain ⟨hb, hlow⟩ := List.forall_mem_cons.1 hlow
      refine ⟨m, by simpa [lowestPc, hx] using hm, ?_, ?_⟩
      · rcases List.mem_cons.1 hmem with h | h
        · exact h ▸ List.mem_cons_self ..
        · exact List.mem_cons_of_mem _ (List.mem_cons_of_mem _ h)
      · exact List.forall_mem_cons.2 ⟨hb, List.forall_mem_cons.2 ⟨BitVec.le_trans hb (BitVec.not_lt.1 hx), hlow⟩⟩

/-- A group that has a split has one with the lowest PC. -/
theorem Group.lowestPc_numbered {g : Group} {k : Nat} {sp : Split} (h : g.split k = some sp) :
    ∃ j q, lowestPc none g.numbered = some (j, q) ∧ g.split j = some q ∧ ∀ i p, g.split i = some p → q.pc ≤ p.pc := by
  obtain ⟨x, l, hl⟩ := List.exists_cons_of_ne_nil (List.ne_nil_of_mem (Group.mem_numbered.2 h))
  obtain ⟨⟨j, q⟩, hm, hmem, hlow⟩ := lowestPc_some l x
  refine ⟨j, q, by rw [hl]; exact hm, Group.mem_numbered.1 (hl ▸ hmem), fun i p hp => hlow (i, p) ?_⟩
  rw [← hl]
  exact Group.mem_numbered.2 hp

/-! ## The release -/

theorem Group.joinWinner_eq (g : Group) : g.joinWinner =
    if g.numbered.any (fun x => x.2.wait != .join) || (!g.stack.isEmpty && g.freeSplit.isSome) then none
    else (lowestPc none g.numbered).bind fun b => if g.numbered.any (fun x => x.1 != b.1 && x.2.pc == b.2.pc) then none else some b.1 := by
  have hmatch : g.joinWinner = if g.numbered.any (fun x => x.2.wait != .join) || (!g.stack.isEmpty && g.freeSplit.isSome) then none
      else match lowestPc none g.numbered with
        | some b => if g.numbered.any (fun x => x.1 != b.1 && x.2.pc == b.2.pc) then none else some b.1
        | none => none := rfl
  rw [hmatch]
  cases lowestPc none g.numbered <;> rfl

/-- No JOIN is released while a split waits at none. -/
theorem Group.releaseJoin_blocked {g : Group} {k : Nat} {sp : Split} (h : g.split k = some sp) (hw : sp.wait ≠ .join) : g.releaseJoin = g := by
  have hany : g.numbered.any (fun x => x.2.wait != .join) = true := List.any_eq_true.2 ⟨_, Group.mem_numbered.2 h, by simpa using hw⟩
  rw [Group.releaseJoin, Group.joinWinner_eq, hany]
  rfl

section
variable {g : Group} (hjoin : ∀ k sp, g.split k = some sp → sp.wait = .join) (hstack : g.stack = [])
include hjoin hstack

/-- Where every split waits at a JOIN, the one with the lowest PC is looked for. -/
theorem Group.joinWinner_of_joins : g.joinWinner =
    (lowestPc none g.numbered).bind fun b => if g.numbered.any (fun x => x.1 != b.1 && x.2.pc == b.2.pc) then none else some b.1 := by
  have hany : g.numbered.any (fun x => x.2.wait != .join) = false :=
    List.any_eq_false.2 fun x hx => by simpa using hjoin x.1 x.2 (Group.mem_numbered.1 hx)
  rw [Group.joinWinner_eq, hany, hstack]
  rfl

/-- The one with the lowest PC of all is released. -/
theorem Group.joinWinner_lowest {k : Nat} {sp : Split} (h : g.split k = some sp) (hlow : ∀ j q, j ≠ k → g.split j = some q → sp.pc < q.pc) :
    g.joinWinner = some k := by
  obtain ⟨j, q, hbest, hq, hmin⟩ := Group.lowestPc_numbered h
  obtain rfl : j = k := by
    by_contra hne
    exact BitVec.not_le.2 (hlow j q hne hq) (hmin k sp h)
  obtain rfl : q = sp := Option.some.inj (hq.symm.trans h)
  have halone : g.numbered.any (fun x => x.1 != j && x.2.pc == q.pc) = false := by
    refine List.any_eq_false.2 fun x hx hx' => ?_
    simp only [Bool.and_eq_true, bne_iff_ne, ne_eq, beq_iff_eq] at hx'
    exact BitVec.ne_of_lt (hlow x.1 x.2 hx'.1 (Group.mem_numbered.1 hx)) hx'.2.symm
  rw [Group.joinWinner_of_joins hjoin hstack, hbest, Option.bind_some, halone]
  rfl

/-- None is while two stand at the lowest PC. -/
theorem Group.joinWinner_tie {k j : Nat} {sp q : Split} (h : g.split k = some sp) (hlow : ∀ j q, g.split j = some q → sp.pc ≤ q.pc) (hj : j ≠ k)
    (hq : g.split j = some q) (hpc : q.pc = sp.pc) : g.joinWinner = none := by
  obtain ⟨i, p, hbest, hp, hmin⟩ := Group.lowestPc_numbered h
  have hpc' : p.pc = sp.pc := BitVec.le_antisymm (hmin k sp h) (hlow i p hp)
  have hany : g.numbered.any (fun x => x.1 != i && x.2.pc == p.pc) = true := by
    rw [List.any_eq_true]
    by_cases hi : i = k
    · exact ⟨_, Group.mem_numbered.2 hq, by simp [hi, hj, hpc, hpc']⟩
    · exact ⟨_, Group.mem_numbered.2 h, by simp [Ne.symm hi, hpc']⟩
  rw [Group.joinWinner_of_joins hjoin hstack, hbest, Option.bind_some, hany]
  rfl

end

/-- A JOIN release changes the group of its slot. -/
theorem exec_joinRelease {s : State} {core slot h : Nat} {b : Bind} (hb : lookup (s.core core).slots slot = some b) (hbound : b.frame = some h) :
    exec (.joinRelease core slot) s = .next (s.modGroup b.cid h fun g => (Group.normalise s.ac 68 (g.commitDue s.ac)).releaseJoin) := by
  show execJoinRelease core slot s = _
  simp only [execJoinRelease, hb, hbound]

end Sys2Proof.Machine
end

section
/-! SUPPORT. A group that leaves its slot, and a frame that is complete (R107, R181, R183, R194, R270). -/

namespace Sys2Proof.Machine

/-! ## A group leaves its slot -/

theorem State.SameFrames.unbind {α : Type} {part : Frame → α} (hpart : ∀ fr pc g, part { fr with pc := pc, group := g } = part fr) {b s : State}
    (hs : State.SameFrames part b s) (core slot : Nat) : State.SameFrames part b (s.unbind core slot) := by
  unfold State.unbind
  split
  · exact hs
  · split
    · exact hs
    · rename_i x _ _ h _
      have hflush : State.SameFrames part b (s.flushResults core slot x.cid h) := State.SameFrames.modGroup (hs.same rfl) fun fr => hpart fr fr.pc _
      dsimp only
      split
      · unfold State.retryReservations
        exact State.SameFrames.same (hflush.modCore.modFrame fun fr => hpart fr _ fr.group) rfl
      · exact hflush.modCore.modFrame fun fr => hpart fr _ fr.group

section
variable {s : State} {core slot h : Nat} {b : Bind} (hb : lookup (s.core core).slots slot = some b) (hbound : b.frame = some h) (hextra : b.extra = false)
include hb hbound hextra

/-- A slot that a launch has reserved stays the context's. -/
theorem State.slot_unbind : lookup ((s.unbind core slot).core core).slots slot = some { b with frame := none } := by
  have hcore : ((s.unbind core slot).core core).slots = insert ((s.flushResults core slot b.cid h).core core).slots slot { b with frame := none } := by
    unfold State.unbind
    simp only [hb, hbound, hextra, Bool.false_eq_true, if_false]
    rw [State.core_modFrame, State.core_modCore_self]
  rw [hcore, lookup_insert_self]

end

/-! ## A frame is freed (R181) -/

/-- A frame of a context is freed, or stays as it is. -/
theorem Ctx.lookup_tryFree (n : Nat) {c : Ctx} (hr : rising c.frames = true) (h k : Nat) :
    lookup (c.tryFree n h).frames k = none ∨ lookup (c.tryFree n h).frames k = lookup c.frames k := by
  induction n generalizing c h with
  | zero => exact .inr rfl
  | succ n ih =>
    unfold Ctx.tryFree
    split
    · exact .inr rfl
    · rename_i fr _
      dsimp only
      split
      · exact .inr rfl
      · have hgone : lookup (remove c.frames h) k = none ∨ lookup (remove c.frames h) k = lookup c.frames k := by
          by_cases hk : h = k
          · exact .inl (hk ▸ lookup_remove_self _ _ hr)
          · exact .inr (lookup_remove_ne _ _ _ hr hk)
        split
        · rename_i p _
          rcases ih (c := { c with frames := remove c.frames h }.modCrew fr.group.crew fun k => { k with frames := k.frames - 1, frameLow := false })
            (rising_remove _ _ hr) p with hp | hp
          · exact .inl hp
          · exact hgone.imp hp.trans hp.trans
        · exact hgone

/-- A frame that is complete is freed, or stays complete. -/
theorem State.st_tryFree {s : State} {cid h : Nat} (hr : ∀ c, s.ctx cid = some c → rising c.frames = true) (hst : ∀ fr, s.frame cid h = some fr → fr.st = .complete)
    {fr : Frame} (hfr : (s.tryFree cid h).frame cid h = some fr) : fr.st = .complete := by
  have hwake : State.SameFrames Frame.st (s.modCtx cid fun c => c.tryFree (c.frames.length + 1) h) (s.tryFree cid h) :=
    State.SameFrames.refl.wakeAll fun _ _ => rfl
  have hsame := hwake.frame cid h
  rw [hfr] at hsame
  obtain ⟨fr', hfr', hst'⟩ := Option.map_eq_some_iff.1 hsame.symm
  rw [← hst']
  rw [State.frame, State.ctx_modCtx_self] at hfr'
  cases hc : s.ctx cid with
  | none => rw [hc] at hfr'; cases hfr'
  | some c =>
    rw [hc] at hfr'
    rcases Ctx.lookup_tryFree (c.frames.length + 1) (hr c hc) h h with hgone | hkept
    · exact absurd (hfr'.symm.trans hgone) nofun
    · exact hst fr' (by rw [State.frame, hc]; exact hkept.symm.trans hfr')

theorem State.SameQueues.tryFree {b s : State} (hs : b.SameQueues s) (cid h : Nat) : b.SameQueues (s.tryFree cid h) := State.SameQueues.wakeAll hs.modCtx

/-- The end of a group: its slot is free, and its frame is complete, where it has not been freed (R181, R270). -/
theorem State.completeFrame_frees {s : State} {core slot h : Nat} {b : Bind} {fr : Frame} (hb : lookup (s.core core).slots slot = some b)
    (hbound : b.frame = some h) (hextra : b.extra = false) (hfr : s.frame b.cid h = some fr) (hr : ∀ c, s.ctx b.cid = some c → rising c.frames = true) :
    lookup ((s.completeFrame core slot b.cid h).core core).slots slot = some { b with frame := none } ∧
    ∀ fr', (s.completeFrame core slot b.cid h).frame b.cid h = some fr' → fr'.st = .complete := by
  have hcrew : State.SameFrames (fun _ => ()) s (s.modCrew b.cid fr.group.crew fun k => { k with sig := k.sig ||| fr.sig }) := State.SameFrames.refl.modCrew
  have hleft := hcrew.unbind (fun _ _ _ => rfl) core slot
  have hrise (c : Ctx) (hc : (((s.modCrew b.cid fr.group.crew fun k => { k with sig := k.sig ||| fr.sig }).unbind core slot).modFrame b.cid h fun f =>
      { f with st := .complete, mask := 0, group := { f.group with exit := .complete } }).ctx b.cid = some c) : rising c.frames = true := by
    obtain ⟨d, hd⟩ : ∃ d, s.ctx b.cid = some d := by
      cases hd : s.ctx b.cid with
      | none => simp [State.frame, hd] at hfr
      | some d => exact ⟨d, rfl⟩
    exact (hleft.modFrame (part := fun _ => ()) fun _ => rfl).rising hd hc (hr d hd)
  have hslot := State.slot_unbind (s := s.modCrew b.cid fr.group.crew fun k => { k with sig := k.sig ||| fr.sig })
    (slot := slot) (by rwa [State.core_modCrew]) hbound hextra
  unfold State.completeFrame
  simp only [hfr]
  refine ⟨?_, fun fr' hfr' => ?_⟩
  · rw [State.core_pushAll, (State.SameQueues.refl.tryFree b.cid h).slots, State.core_modFrame, hslot]
  · refine State.st_tryFree hrise (fun f hf => ?_) hfr'
    rw [State.frame_modFrame_self] at hf
    obtain ⟨f', -, rfl⟩ := Option.map_eq_some_iff.1 hf
    rfl

end Sys2Proof.Machine
end

section
/-! SUPPORT. The end of a group, and its eviction (R101, R107, R194, R270). -/

namespace Sys2Proof.Machine

/-! ## The reservations of a group, and its merge -/

theorem State.ctxs_claimSig (s : State) (cid x : Nat) : (s.claimSig x cid).ctxs = s.ctxs := by
  unfold State.claimSig
  split
  · split <;> rfl
  · rfl

theorem State.ctxs_sendSig (s : State) (core cid h asid : Nat) (dst : ReqDst) (x o : Nat) (σ : SigBits) :
    (s.sendSig core cid h asid dst x o σ).1.ctxs = s.ctxs := s.ctxs_claimSig cid x

theorem State.cores_sendSig (s : State) (core cid h asid : Nat) (dst : ReqDst) (x o : Nat) (σ : SigBits) :
    (s.sendSig core cid h asid dst x o σ).1.cores = s.cores := s.cores_claimSig cid x

theorem State.SameQueues.setAlcoveWord {b s : State} (hs : b.SameQueues s) (e : Env) (x w : Nat) : b.SameQueues (e.setAlcoveWord x w s) :=
  hs.modCore fun _ => rfl

/-- The reservations of a group end: every frame is still there, and every slot is as it was. -/
theorem Env.endReservations_keeps (e : Env) (s : State) :
    State.SameFrames (fun _ => ()) s (e.endReservations s) ∧ s.SameQueues (e.endReservations s) := by
  unfold Env.endReservations Env.release
  constructor
  · refine State.SameFrames.modGroup (State.SameFrames.refl.foldl fun t r ht => ?_) fun _ => rfl
    split
    · exact State.SameFrames.wake (State.SameFrames.modGroup (State.SameFrames.modCore ht.modCrew) fun _ => rfl) fun _ _ => rfl
    · exact ht
  · refine State.SameQueues.modCtx (State.SameQueues.refl.foldl fun t r ht => ?_)
    split
    · exact (State.SameQueues.modCtx (State.SameQueues.setAlcoveWord ht.modCtx e _ _)).wake
    · exact ht

/-- The merge sends: it changes no context and no core. -/
theorem State.awaitMerge_keeps (s : State) (core cid h : Nat) (fr : Frame) (asid : Nat) :
    (s.awaitMerge core cid h fr asid).ctxs = s.ctxs ∧ (s.awaitMerge core cid h fr asid).cores = s.cores := by
  unfold State.awaitMerge
  split
  · exact ⟨rfl, rfl⟩
  · rename_i p _
    have hctxs := s.ctxs_sendSig core cid h asid .drop p.awb.toNat 64 fr.sig
    have hcores := s.cores_sendSig core cid h asid .drop p.awb.toNat 64 fr.sig
    generalize s.sendSig core cid h asid .drop p.awb.toNat 64 fr.sig = q at hctxs hcores ⊢
    exact ⟨hctxs, hcores⟩

/-! ## A bound frame -/

section
variable {s : State} {core slot h : Nat} {b : Bind} (hb : lookup (s.core core).slots slot = some b) (hbound : b.frame = some h)
include hb hbound

theorem Env.ofSlot_of_bound {c : Ctx} {fr : Frame} (hc : s.ctx b.cid = some c) (hfr : s.frame b.cid h = some fr) :
    Env.ofSlot s core slot = some ⟨s, ⟨core, slot, 0⟩, b, b.cid, h, c, fr, Split.fresh 0 0 (Vector.replicate 64 0) anchorsEmpty 0⟩ := by
  have hlook : lookup c.frames h = some fr := by simpa [State.frame, hc] using hfr
  unfold Env.ofSlot
  simp only [hb, hbound, hc, hlook]

section
variable (hextra : b.extra = false)
include hextra

/-- A group that has released everything leaves its slot, and its frame is complete (R101, R270). -/
theorem exec_awaitComplete_releasing {c : Ctx} {fr : Frame} (hc : s.ctx b.cid = some c) (hfr : s.frame b.cid h = some fr)
    (hexit : fr.group.exit = .releasing) (hreleased : s.released core c.asid fr.sig = true) (hr : rising c.frames = true) :
    ∃ t, exec (.awaitComplete core slot) s = .next t ∧ lookup (t.core core).slots slot = some { b with frame := none } ∧
      ∀ fr', t.frame b.cid h = some fr' → fr'.st = .complete := by
  let e : Env := ⟨s, ⟨core, slot, 0⟩, b, b.cid, h, c, fr, Split.fresh 0 0 (Vector.replicate 64 0) anchorsEmpty 0⟩
  let u : State := (e.endReservations s).awaitMerge core b.cid h fr e.asid
  refine ⟨u.completeFrame core slot b.cid h, ?_, ?_⟩
  · show execAwaitComplete core slot s = _
    have hfinish : e.finishGroup s = u.completeFrame core slot b.cid h := by
      unfold Env.finishGroup
      rw [show s.frame e.cid e.h = some fr from hfr]
      exact if_pos hreleased
    unfold execAwaitComplete
    rw [Env.ofSlot_of_bound hb hbound hc hfr]
    dsimp only
    rw [show Env.group _ = fr.group from rfl, hexit]
    exact congrArg _ hfinish
  · obtain ⟨hframes, hqueues⟩ := e.endReservations_keeps s
    obtain ⟨hctxs, hcores⟩ := (e.endReservations s).awaitMerge_keeps core b.cid h fr e.asid
    have hframes : State.SameFrames (fun _ => ()) s u := hframes.same hctxs
    have hqueues : s.SameQueues u := hqueues.same hcores
    obtain ⟨fr', hfr', -⟩ := hframes.frame_some hfr
    exact State.completeFrame_frees (by rw [hqueues.slots, hb]) hbound hextra hfr' fun d hd => hframes.rising hc hd hr

/-- A group that may be evicted leaves its slot (R194). -/
theorem State.evictGroup_frees {fr : Frame} (hfr : s.frame b.cid h = some fr) (hevict : s.canEvict core slot b h fr = true) :
    lookup ((s.evictGroup core slot).core core).slots slot = some { b with frame := none } ∧
    ∃ fr', (s.evictGroup core slot).frame b.cid h = some fr' ∧ (fr'.st = .awaiting ∨ fr'.st = .gallery) := by
  obtain ⟨fr', hfr', -⟩ := (State.SameFrames.refl.unbind (part := fun _ => ()) (fun _ _ _ => rfl) core slot).frame_some hfr
  unfold State.evictGroup
  simp only [hb, hbound, hfr, if_pos hevict]
  constructor
  · rw [State.core_push, State.core_modFrame]
    exact State.slot_unbind hb hbound hextra
  · rw [State.frame_push, State.frame_modFrame_self, hfr']
    refine ⟨_, rfl, ?_⟩
    dsimp only
    split
    · exact .inr rfl
    · exact .inl rfl

end

/-- One that waits for its children stays (R107). -/
theorem exec_awaitComplete_pending {fr : Frame} (hfr : s.frame b.cid h = some fr) (hexit : fr.group.exit = .awaiting)
    (hpending : s.pending fr.awb.toNat ≠ 0) : exec (.awaitComplete core slot) s = .next s := by
  obtain ⟨c, hc⟩ : ∃ c, s.ctx b.cid = some c := by
    cases hc : s.ctx b.cid with
    | none => simp [State.frame, hc] at hfr
    | some c => exact ⟨c, rfl⟩
  show execAwaitComplete core slot s = _
  unfold execAwaitComplete
  rw [Env.ofSlot_of_bound hb hbound hc hfr]
  dsimp only
  rw [show Env.group _ = fr.group from rfl, hexit]
  exact congrArg _ (if_pos (bne_iff_ne.2 hpending))

/-- One that may not be evicted stays (R194). -/
theorem State.evictGroup_stays {fr : Frame} (hfr : s.frame b.cid h = some fr) (hevict : s.canEvict core slot b h fr = false) :
    s.evictGroup core slot = s := by
  unfold State.evictGroup
  simp only [hb, hbound, hfr, hevict, Bool.false_eq_true, if_false]

end

end Sys2Proof.Machine
end

section
/-! SUPPORT. A frame is bound in a slot (R102, R106, R183). -/

namespace Sys2Proof.Machine

/-! ## What a frame acquires as it is bound -/

section
variable {b s : State} {core cid h asid owner : Nat} {σ : SigBits}

theorem State.SameQueues.evictL1 (hs : b.SameQueues s) {ln : Nat} : b.SameQueues (s.evictL1 core cid h asid ln) := by
  unfold State.evictL1
  split
  · exact hs
  · have hdrop : b.SameQueues (s.modCore core fun c => { c with l1 := dropL1 c.l1 asid ln }) := hs.modCore fun _ => rfl
    dsimp only
    split
    · exact hdrop
    · exact hdrop.same rfl

theorem State.SameQueues.acquireOn (hs : b.SameQueues s) : b.SameQueues (s.acquireOn core cid h asid σ) :=
  State.SameQueues.modCore (State.SameQueues.same (hs.foldl fun _ _ ht => ht.evictL1) rfl) fun _ => rfl

theorem State.SameQueues.acquire (hs : b.SameQueues s) : b.SameQueues (s.acquire core cid h owner σ) := by
  unfold State.acquire
  dsimp only
  split
  · exact hs
  · exact State.SameQueues.modCtx hs.acquireOn

theorem State.ctxs_acquireOn (s : State) : (s.acquireOn core cid h asid σ).ctxs = s.ctxs := by
  show State.ctxs (List.foldl _ s _) = s.ctxs
  generalize (s.core core).l1.filter _ = l
  induction l generalizing s with
  | nil => rfl
  | cons x l ih => exact (ih _).trans (s.ctxs_evictL1 ..)

theorem State.SameFrames.acquire {α : Type} {part : Frame → α} (hpart : ∀ fr v, part { fr with sig := v } = part fr) (hs : State.SameFrames part b s) :
    State.SameFrames part b (s.acquire core cid h owner σ) := by
  unfold State.acquire
  dsimp only
  split
  · exact hs
  · exact State.SameFrames.modFrame (hs.same s.ctxs_acquireOn) fun fr => hpart fr _

/-- What every acquire and a sweep keep holds after the acquires of a frame that is bound. -/
theorem State.bindAcquires_of {P : State → Prop} (hs : P s) {fr : Frame} (hacquire : ∀ t owner σ, P t → P (t.acquire core cid h owner σ))
    (hsweep : ∀ t asid, P t → P (t.sweep core cid h asid)) : P (s.bindAcquires core cid h fr) := by
  have hedges : P (fr.acq.foldl (fun s σ => s.acquire core cid h cid σ) s) := List.foldlRecOn _ _ hs fun t ht σ _ => hacquire t cid σ ht
  unfold State.bindAcquires
  generalize fr.acq.foldl (fun s σ => s.acquire core cid h cid σ) s = u at hedges ⊢
  have hfuts (l : List (W64 × Nat)) : P (l.foldl (fun s (f : W64 × Nat) =>
      if f.1 == noFut then s
      else
        let (owner, σ) := s.blockOf (.atrium f.2) 64 cid
        s.acquire core cid h owner σ) u) := by
    refine List.foldlRecOn _ _ hedges fun t ht f _ => ?_
    split
    · exact ht
    · exact hacquire t _ _ ht
  have hboth (v : State) (hv : P v) : P (match v.ctx cid with
      | some c => if fr.acqAll then v.sweep core cid h c.asid else v
      | none => v) := by
    split
    · split
      · exact hsweep v _ hv
      · exact hv
    · exact hv
  refine hboth _ ?_
  split
  · exact hfuts _
  · exact hedges

/-- The acquires of a frame that is bound change the caches, and its signature. -/
theorem State.bindAcquires_keeps (s : State) (fr : Frame) :
    State.SameFrames (fun _ => ()) s (s.bindAcquires core cid h fr) ∧ s.SameQueues (s.bindAcquires core cid h fr) := by
  refine State.bindAcquires_of (P := fun t => State.SameFrames (fun _ => ()) s t ∧ s.SameQueues t) ⟨State.SameFrames.refl, State.SameQueues.refl⟩
    (fun t _ _ ⟨hframes, hqueues⟩ => ?_) fun t _ ⟨hframes, hqueues⟩ => ?_
  · exact ⟨hframes.acquire fun _ _ => rfl, hqueues.acquire⟩
  · exact ⟨State.SameFrames.modCore (hframes.same t.ctxs_acquireOn), hqueues.acquireOn.modCore fun _ => rfl⟩

end

/-! ## SLOT_BIND -/

/-- A frame that is bound runs in its slot, and the ready frames of the core are those before (R183). -/
theorem State.bindFrame_binds {s : State} {core slot cid h : Nat} {fr : Frame} {b : Bind} (hfr : s.frame cid h = some fr)
    (hslot : s.slotFor core slot cid fr = some b) :
    ((s.bindFrame core slot cid h).core core).ready = (s.core core).ready ∧
    lookup ((s.bindFrame core slot cid h).core core).slots slot = some { b with frame := some h, shown := h, regs := regsOf h } ∧
    ∃ fr', (s.bindFrame core slot cid h).frame cid h = some fr' ∧ fr'.st = .running ∧ fr'.core = core ∧ fr'.slot = slot := by
  obtain ⟨hframes, hqueues⟩ := s.bindAcquires_keeps (core := core) (cid := cid) (h := h) fr
  obtain ⟨fr', hfr', -⟩ := hframes.frame_some hfr
  have hpush (t : State) (i : Instr) : (∀ n, (if fr.group.exit != .live then t.push i else t).core n = t.core n) ∧
      (if fr.group.exit != .live then t.push i else t).frame cid h = t.frame cid h := by
    split <;> exact ⟨fun _ => rfl, rfl⟩
  have hlines (t : State) (g : Core → List RegLine) :
      t.SameQueues (if fr.core != core then t.modCore fr.core fun c => { c with regLines := g c } else t) ∧
      (if fr.core != core then t.modCore fr.core fun c => { c with regLines := g c } else t).frame cid h = t.frame cid h := by
    split
    · exact ⟨State.SameQueues.refl.modCore fun _ => rfl, rfl⟩
    · exact ⟨State.SameQueues.refl, rfl⟩
  unfold State.bindFrame
  simp only [hfr, hslot, (hpush _ _).1, (hpush _ _).2, State.core_modCore_self, lookup_insert_self]
  refine ⟨?_, trivial, ?_⟩
  · rw [(hlines _ _).1.ready, State.core_modFrame]
    exact hqueues.ready core
  · rw [State.frame_modCore, (hlines _ _).2, State.frame_modFrame_self, hfr']
    exact ⟨_, rfl, rfl, rfl, rfl⟩

/-- A slot that a launch reserved binds the first ready frame, where it is of its context, which runs on the core (R183). -/
theorem exec_slotBind_first {s : State} {core slot : Nat} {b : Bind} {c : Ctx} {fr : Frame} {x : FRef} {l : List FRef}
    (hb : lookup (s.core core).slots slot = some b) (hfree : b.frame = none) (hcommit : b.commit = true) (hready : (s.core core).ready = x :: l)
    (hcid : x.cid = b.cid) (hc : s.ctx b.cid = some c) (hst : c.st = .running) (hcrew : (c.crewOn core).isSome = true)
    (hfr : lookup c.frames x.handle = some fr) : ∃ t fr' b', exec (.slotBind core slot none) s = .next t ∧
    (t.core core).ready = l ∧ lookup (t.core core).slots slot = some b' ∧ b'.frame = some x.handle ∧ b'.cid = b.cid ∧
    t.frame b.cid x.handle = some fr' ∧ fr'.st = .running ∧ fr'.core = core ∧ fr'.slot = slot := by
  let u : State := s.modCore core fun c => { c with ready := l }
  have hframe : u.frame b.cid x.handle = some fr := by
    show s.frame b.cid x.handle = _
    rw [State.frame, hc]
    exact hfr
  have hslot : u.slotFor core slot b.cid fr = some b := by
    have hb' : lookup (u.core core).slots slot = some b := by rw [State.core_modCore_self]; exact hb
    unfold State.slotFor
    simp only [hb']
  obtain ⟨hkept, hbound, fr', hfr', hruns⟩ := State.bindFrame_binds hframe hslot
  refine ⟨_, fr', _, ?_, hkept.trans ?_, hbound, rfl, rfl, hfr', hruns⟩
  · have hchoose : s.chooseFrame core (fun x => x.cid == b.cid && (s.ctx x.cid).any fun c => c.st == .running && (c.crewOn core).isSome) none =
        some (u, x) := by
      have htake : takeFirst (fun x : FRef => x.cid == b.cid && (s.ctx x.cid).any fun c => c.st == .running && (c.crewOn core).isSome)
          (s.core core).ready = some (x, l) := by
        rw [hready]
        exact if_pos (by simp [hcid, hc, hst, hcrew])
      simp only [State.chooseFrame, htake]
      rfl
    show execSlotBind core slot none s = _
    unfold execSlotBind
    simp only [hb, hfree, hcommit, Option.isSome_none, Bool.not_true, Bool.or_self, Bool.false_eq_true, if_false, hchoose, hcid]
  · rw [State.core_modCore_self]

end Sys2Proof.Machine
end

section
/-! SUPPORT. A child's decrement of its parent's count (R107), and the next phase of a Banister (R319). -/

namespace Sys2Proof.Machine

/-! ## AWAIT_PENDING_DECREMENT -/

/-- The count is one less, whether or not it wakes a frame (R107). -/
theorem exec_awaitPendingDecrement {s : State} {id off : Nat} {r : Req} (hr : s.req id = some r) (hop : r.op = .awaitDec off)
    (hserve : s.mayServe r = true) : ∃ t, exec (.awaitPendingDecrement id) s = .next t ∧
      t.atrium = ((s.answered r).setPending off (s.pending off - 1)).atrium ∧ t.reqs = (s.answered r).reqs := by
  let part (u : State) : Mem × List Req := (u.atrium, u.reqs)
  let v : State := (s.answered r).setPending off (s.pending off - 1)
  have hwake (u : State) (core : Nat) : part (u.wake core (· == .await)) = part u :=
    State.mapSplits_keeps (part := part) (fun _ _ _ _ => Prod.ext (State.modGroup_atrium ..) (State.modGroup_reqs ..)) ..
  have hframe (u : State) (x : Nat × Frame) : part (if x.2.awb.toNat != off || x.2.st == .complete then u
      else if x.2.awaits then u.readyFrame r.cid x.1
      else if x.2.st == .running then
        if x.2.group.exit == .awaiting then (u.wake x.2.core (· == .await)).push (.awaitComplete x.2.core x.2.slot) else u.wake x.2.core (· == .await)
      else u) = part u := by
    split
    · rfl
    · split
      · exact Prod.ext (u.atrium_readyFrame ..) (u.reqs_readyFrame ..)
      · split
        · split <;> exact hwake ..
        · rfl
  have hkept (u : State) : part u = part v → u.atrium = v.atrium ∧ u.reqs = (s.answered r).reqs :=
    fun h => ⟨congrArg Prod.fst h, congrArg Prod.snd h⟩
  refine ⟨_, rfl, hkept _ ?_⟩
  simp only [hr, hop, hserve, Bool.not_true, Bool.false_eq_true, if_false]
  split
  · rfl
  · split
    · rfl
    · exact foldl_keeps (part := part) hframe ..

/-! ## BANISTER_PHASE_RELEASE -/

/-- What no change of a context touches stays. -/
theorem State.map_ctx_modCtx {α : Type} {part : Ctx → α} {f : Ctx → Ctx} (hf : ∀ c, part (f c) = part c) (s : State) (d cid : Nat) :
    ((s.modCtx d f).ctx cid).map part = (s.ctx cid).map part := by
  by_cases h : d = cid
  · subst h
    rw [State.ctx_modCtx_self]
    cases s.ctx d with
    | none => rfl
    | some c => exact congrArg some (hf c)
  · rw [State.ctx_modCtx_ne _ _ _ _ h]

/-- The phases of a context are beside its groups. -/
theorem State.banPhase_modGroup (s : State) (cid d h : Nat) (f : Group → Group) :
    ((s.modGroup d h f).ctx cid).map Ctx.banPhase = (s.ctx cid).map Ctx.banPhase :=
  State.map_ctx_modCtx (fun c => by split <;> rfl) ..

theorem Ctx.banPhase_mapResidents (l : List Nat) (c : Ctx) (f : Group → Group) :
    (l.foldl (fun c core => c.mapResident core f) c).banPhase = c.banPhase := by
  induction l generalizing c with
  | nil => rfl
  | cons n l ih => exact ih _

section
variable {s : State} {cid tag : Nat} {c : Ctx} (hc : s.ctx cid = some c)
include hc

/-- A phase that is complete gives way to the next (R319). -/
theorem exec_banisterPhaseRelease_ready {k : Crew} (hk : k ∈ c.crews) (hready : c.banReady tag ((k.ban[tag]?).getD BanCore.empty) = true) :
    ∃ t c', exec (.banisterPhaseRelease cid tag) s = .next t ∧ t.ctx cid = some c' ∧
      c'.banPhase = c.banPhase.setIfInBounds tag ((c.banPhaseOf tag + 1) % 65536) := by
  obtain ⟨b, hb⟩ : ∃ b, (c.crews.map fun k => (k.ban[tag]?).getD BanCore.empty).find? (fun b => c.banReady tag b) = some b :=
    Option.isSome_iff_exists.1 (List.find?_isSome.2 ⟨_, List.mem_map_of_mem hk, hready⟩)
  have hphase : ∃ t, exec (.banisterPhaseRelease cid tag) s = .next t ∧
      (t.ctx cid).map Ctx.banPhase = some (c.banPhase.setIfInBounds tag ((c.banPhaseOf tag + 1) % 65536)) := by
    refine ⟨_, rfl, ?_⟩
    simp only [hc, hb]
    refine (State.wakeAll_keeps (part := fun t : State => (t.ctx cid).map Ctx.banPhase) (fun t d h f => t.banPhase_modGroup ..) ..).trans ?_
    refine (State.map_ctx_modCtx (fun d => Ctx.banPhase_mapResidents ..) ..).trans ?_
    refine (foldl_keeps (part := fun t : State => (t.ctx cid).map Ctx.banPhase) (fun t x => t.banPhase_modGroup ..) ..).trans ?_
    rw [State.ctx_setCtx_self]
    rfl
  obtain ⟨t, ht, hpart⟩ := hphase
  obtain ⟨c', hc', hban⟩ := Option.map_eq_some_iff.1 hpart
  exact ⟨t, c', ht, hc', hban⟩

/-- Until then it goes on. -/
theorem exec_banisterPhaseRelease_early (h : ∀ k ∈ c.crews, c.banReady tag ((k.ban[tag]?).getD BanCore.empty) = false) :
    exec (.banisterPhaseRelease cid tag) s = .next s := by
  have hnone : (c.crews.map fun k => (k.ban[tag]?).getD BanCore.empty).find? (fun b => c.banReady tag b) = none := by
    simpa using h
  show execBanisterPhaseRelease cid tag s = _
  simp only [execBanisterPhaseRelease, hc, hnone]

end

end Sys2Proof.Machine
end

section
/-! SUPPORT. The obligation of the steps of frames. -/

namespace Sys2Proof.Machine

/-- Settles O45: which JOIN is released, what a group that ends or is evicted leaves, what a slot binds, and what a decrement and a Banister phase
write. -/
theorem frameSteps : Obligations.FrameSteps := by
  unfold Obligations.FrameSteps
  refine ⟨?joins, ?binds, ?decrements, ?phases⟩
  case joins =>
    intro s core slot h b fr hb hbound hfr
    refine ⟨⟨_, { fr with group := (Group.normalise s.ac 68 (fr.group.commitDue s.ac)).releaseJoin }, exec_joinRelease hb hbound, ?_, ?_, ?_⟩, ?_, ?_, ?_, ?_⟩
    · rw [State.frame_modGroup_self, hfr]
      rfl
    · intro hjoin hstack k sp hsp
      constructor
      · intro hlow
        have hwinner := Group.joinWinner_lowest hjoin hstack hsp hlow
        dsimp only
        rw [Group.releaseJoin, hwinner]
        exact ⟨Group.split_modSplit_self hsp _, fun j hj => Group.split_modSplit_ne _ (Ne.symm hj) _⟩
      · rintro hlow ⟨j, q, hj, hq, hpc⟩
        dsimp only
        rw [Group.releaseJoin, Group.joinWinner_tie hjoin hstack hsp hlow hj hq hpc]
    · rintro ⟨k, sp, hsp, hwait⟩
      exact Group.releaseJoin_blocked hsp hwait
    · intro c hc hexit hreleased hextra hr
      exact exec_awaitComplete_releasing hb hbound hextra hc hfr hexit hreleased hr
    · exact exec_awaitComplete_pending hb hbound hfr
    · intro hevict hextra
      obtain ⟨hslot, fr', hfr', hst⟩ := State.evictGroup_frees hb hbound hextra hfr hevict
      exact ⟨_, fr', rfl, rfl, hslot, hfr', hst⟩
    · intro hevict
      have hstays := State.evictGroup_stays hb hbound hfr hevict
      exact ⟨congrArg _ hstays, congrArg _ hstays⟩
  case binds =>
    intro s core slot b c fr x l hb hfree hcommit hready hcid hc hst hcrew hfr
    exact exec_slotBind_first hb hfree hcommit hready hcid hc hst hcrew hfr
  case decrements =>
    intro s id off r hr hop hserve hwf
    obtain ⟨t, ht, hatrium, hreqs⟩ := exec_awaitPendingDecrement hr hop hserve
    refine ⟨t, ht, ?_, ?_⟩
    · have hlt : s.pending off < 256 ^ 4 := Mem.readN_lt ..
      rw [State.pending, hatrium, State.setPending, State.atrium_answered, Mem.readN_writeN 4 (State.atriumWf hwf)]
      omega
    · rw [State.req, hreqs, ← State.id_of_req hr]
      exact s.req_answered r
  case phases =>
    intro s cid tag c hc htag
    refine ⟨fun ⟨k, hk, hready⟩ => ?_, exec_banisterPhaseRelease_early hc⟩
    obtain ⟨t, c', ht, hc', hphase⟩ := exec_banisterPhaseRelease_ready hc hk hready
    refine ⟨t, c', ht, hc', ?_, fun i hi hne => ?_⟩
    · rw [Ctx.banPhaseOf, hphase, Vector.getElem?_setIfInBounds_self_of_lt htag]
      rfl
    · rw [Ctx.banPhaseOf, hphase, Vector.getElem?_setIfInBounds_ne (Ne.symm hne)]
      rfl

end Sys2Proof.Machine
end

section
/-! SUPPORT. How many splits and stack entries of a group hold a lane (R168, R171 to R174): the lanes are apart where none is held twice, and no
movement of lanes makes the number larger. -/

namespace Sys2Proof.Machine

/-! ## Masks -/

/-- Sets of lanes that are disjoint and lie in another hold a lane at most as often as that one. -/
theorem apart_iff_countP (l : List Mask) (r : Mask) : (l.Pairwise (fun a b => a &&& b = 0) ∧ ∀ m ∈ l, m &&& ~~~r = 0) ↔
    ∀ i < 32, l.countP (·.getLsbD i) ≤ (r.getLsbD i).toNat := by
  have hdisjoint (a b : Mask) : a &&& b = 0 ↔ ∀ i < 32, a.getLsbD i = true → b.getLsbD i = false := by
    constructor
    · intro h i _ ha
      simpa [ha] using congrArg (·.getLsbD i) h
    · intro h
      refine BitVec.eq_of_getLsbD_eq fun i hi => ?_
      cases ha : a.getLsbD i with
      | false => simp [ha]
      | true => simp [h i hi ha]
  induction l with
  | nil => simp
  | cons m l ih =>
    have hrest : (∀ b ∈ l, m &&& b = 0) ↔ ∀ i < 32, m.getLsbD i = true → l.countP (·.getLsbD i) = 0 := by
      simp only [List.countP_eq_zero, hdisjoint, Bool.not_eq_true]
      exact ⟨fun h i hi hm b hb => h b hb i hi hm, fun h b hb i hi hm => h i hi hm b hb⟩
    have hin : m &&& ~~~r = 0 ↔ ∀ i < 32, m.getLsbD i = true → r.getLsbD i = true :=
      (hdisjoint _ _).trans (forall₂_congr fun i hi => by simp [hi])
    have hone (i : Nat) : (m :: l).countP (·.getLsbD i) ≤ (r.getLsbD i).toNat ↔ l.countP (·.getLsbD i) ≤ (r.getLsbD i).toNat ∧
        (m.getLsbD i = true → l.countP (·.getLsbD i) = 0) ∧ (m.getLsbD i = true → r.getLsbD i = true) := by
      rw [List.countP_cons]
      generalize l.countP (·.getLsbD i) = n
      cases m.getLsbD i <;> cases r.getLsbD i <;> simp
      omega
    rw [List.pairwise_cons, List.forall_mem_cons, and_and_and_comm, hrest, hin]
    simp only [hone, forall_and, ← ih, and_comm, and_left_comm]

theorem countP_filterMap_eq_sum {α β : Type} (f : α → Option β) (p : β → Bool) (l : List α) :
    (l.filterMap f).countP p = (l.map fun a => ((f a).any p).toNat).sum := by
  induction l with
  | nil => rfl
  | cons a l ih =>
    cases h : f a with
    | none => simp [h, ih]
    | some b => cases hb : p b <;> simp [h, hb, ih, Nat.add_comm]

/-! ## The holders of a lane -/

/-- Whether a set, where there is one, holds a lane: 0 or 1. -/
def heldBy (o : Option Mask) (l : Nat) : Nat := (o.any (·.getLsbD l)).toNat

/-- The sets of lanes of the stack entries of a group, and those of its splits. -/
def Group.masks (g : Group) : List Mask × (Nat → Option Mask) := (g.stack.map (·.mask), fun k => (g.split k).map (·.mask))

/-- How many stack entries and splits hold a lane. -/
def Group.holders (g : Group) (l : Nat) : Nat := g.masks.1.countP (·.getLsbD l) + ∑ k ∈ Finset.range 4, heldBy (g.masks.2 k) l

theorem Frame.lanesApart_iff (fr : Frame) : fr.lanesApart ↔ ∀ l < 32, fr.group.holders l ≤ (fr.mask.getLsbD l).toNat := by
  unfold Frame.lanesApart
  refine (apart_iff_countP ..).trans (forall₂_congr fun l _ => ?_)
  rw [List.countP_append, countP_filterMap_eq_sum]
  rfl

theorem Group.holders_congr {g g' : Group} (h : g'.masks = g.masks) (l : Nat) : g'.holders l = g.holders l := by
  rw [Group.holders, h, Group.holders]

theorem Group.holders_setSplit (g : Group) {k : Nat} (hk : k < 4) (x : Option Split) (l : Nat) :
    (g.setSplit k x).holders l + heldBy ((g.split k).map (·.mask)) l = g.holders l + heldBy (x.map (·.mask)) l := by
  have hmem : k ∈ Finset.range 4 := Finset.mem_range.2 hk
  have hself : (g.setSplit k x).split k = x := by
    rw [Group.split, Group.setSplit, Vector.getElem?_setIfInBounds_self_of_lt hk]
    rfl
  have hothers : ∑ j ∈ (Finset.range 4).erase k, heldBy ((g.setSplit k x).masks.2 j) l = ∑ j ∈ (Finset.range 4).erase k, heldBy (g.masks.2 j) l :=
    Finset.sum_congr rfl fun j hj => congrArg (heldBy · l) (congrArg (Option.map _) (g.split_setSplit_ne (Finset.ne_of_mem_erase hj).symm x))
  have hnew : (g.setSplit k x).masks.2 k = x.map (·.mask) := congrArg (Option.map _) hself
  have hold : g.masks.2 k = (g.split k).map (·.mask) := rfl
  have hstack : (g.setSplit k x).masks.1 = g.masks.1 := rfl
  rw [Group.holders, Group.holders, ← Finset.add_sum_erase _ _ hmem, ← Finset.add_sum_erase _ _ hmem, hothers, hnew, hold, hstack]
  omega

end Sys2Proof.Machine
end

section
/-! SUPPORT. What the movements of lanes do to the holders of a lane: a divergence, a branch, an end of lanes, a merge, a pop, a release
(R168, R172, R173, R174, R265). -/

namespace Sys2Proof.Machine

variable {g : Group} {k : Nat} {sp : Split}

theorem Group.masks_modSplit (g : Group) (k : Nat) {f : Split → Split} (hf : ∀ sp, (f sp).mask = sp.mask) : (g.modSplit k f).masks = g.masks := by
  unfold Group.modSplit
  split
  · rfl
  · rename_i sp hsp
    refine Prod.ext rfl (funext fun j => ?_)
    by_cases hj : k = j
    · subst hj
      exact (congrArg (Option.map _) (Group.split_setSplit_self hsp _)).trans ((congrArg some (hf sp)).trans (congrArg (Option.map _) hsp).symm)
    · exact congrArg (Option.map _) (g.split_setSplit_ne hj _)

/-! ## One split, one stack entry -/

/-- A split that is replaced. -/
theorem Group.holders_replace (h : g.split k = some sp) (x : Option Split) (l : Nat) :
    (g.setSplit k x).holders l + (sp.mask.getLsbD l).toNat = g.holders l + heldBy (x.map (·.mask)) l := by
  have hset := g.holders_setSplit (Group.lt_of_split h) x l
  rwa [h] at hset

theorem Group.freeSplit_eq_some {n : Nat} (h : g.freeSplit = some n) : n < 4 ∧ g.split n = none ∧ ∀ k < n, g.split k ≠ none := by
  obtain ⟨hfree, hn, hbefore⟩ := List.find?_range_eq_some.1 h
  refine ⟨List.mem_range.1 hn, Option.isNone_iff_eq_none.1 hfree, fun k hk hnone => ?_⟩
  simpa [hnone] using hbefore k hk

/-- A split in a free number. -/
theorem Group.holders_addSplit {n : Nat} (h : g.freeSplit = some n) (sp : Split) (l : Nat) :
    (g.addSplit n sp).holders l = g.holders l + (sp.mask.getLsbD l).toNat := by
  obtain ⟨hn, hnone, -⟩ := Group.freeSplit_eq_some h
  have hset := g.holders_setSplit hn (some sp) l
  rw [hnone] at hset
  exact hset

/-- A stack entry on top of others. -/
theorem Group.holders_push (g : Group) (x : StackEntry) (l : Nat) :
    ({ g with stack := x :: g.stack } : Group).holders l = g.holders l + (x.mask.getLsbD l).toNat := by
  have hsplits : ({ g with stack := x :: g.stack } : Group).masks.2 = g.masks.2 := rfl
  have hcount : ({ g with stack := x :: g.stack } : Group).masks.1.countP (·.getLsbD l) = g.masks.1.countP (·.getLsbD l) + (x.mask.getLsbD l).toNat := by
    show (x.mask :: g.masks.1).countP _ = _
    rw [List.countP_cons]
    cases x.mask.getLsbD l <;> rfl
  rw [Group.holders, Group.holders, hsplits, hcount]
  omega

/-! ## Where lanes go (R172, R173, R265) -/

/-- The lanes of a set beside those that a split keeps. -/
theorem Group.holders_divergeTo (h : g.split k = some sp) (t : Mask) (target : W64) (l : Nat) :
    (g.divergeTo k t target).holders l = g.holders l + (t.getLsbD l).toNat := by
  unfold Group.divergeTo
  simp only [h]
  split
  · rename_i n hn
    exact Group.holders_addSplit hn _ l
  · have hput := Group.holders_replace h (some { sp.arrive target with mask := t }) l
    refine (Group.holders_push _ _ l).trans ?_
    show _ + (sp.mask.getLsbD l).toNat = _
    exact hput

/-- A split whose lanes go on, all of them. -/
theorem Group.holders_sameMask (h : g.split k = some sp) {q : Split} (hq : q.mask = sp.mask) (l : Nat) : (g.setSplit k (some q)).holders l = g.holders l := by
  have hput := Group.holders_replace h (some q) l
  rw [Option.map_some, hq] at hput
  exact Nat.add_right_cancel hput

/-- A transfer moves the lanes of its split. -/
theorem Group.holders_branch (h : g.split k = some sp) {t : Mask} (ht : t &&& ~~~sp.mask = 0) (target : W64) {l : Nat} (hl : l < 32) :
    (g.branch k t target).holders l = g.holders l := by
  unfold Group.branch
  simp only [h]
  split
  · exact Group.holders_sameMask h (q := sp.goto (nextPc sp.pc)) rfl l
  · split
    · exact Group.holders_sameMask h (q := sp.arrive target) rfl l
    · have hkeep := Group.holders_replace h (some { sp.arrive (nextPc sp.pc) with mask := sp.mask &&& ~~~t }) l
      have hbits := congrArg (·.getLsbD l) ht
      rw [Group.holders_divergeTo (Group.split_setSplit_self h _)]
      simp only [Option.map_some, heldBy, Option.any_some, BitVec.getLsbD_and, BitVec.getLsbD_not, hl, decide_true, Bool.true_and] at hkeep hbits ⊢
      cases ht' : t.getLsbD l <;> cases hs : sp.mask.getLsbD l <;> simp [ht', hs] at hkeep hbits ⊢ <;> omega

/-- The split whose lanes diverge is still there. -/
theorem Group.split_divergeTo (h : g.split k = some sp) (t : Mask) (target : W64) : ∃ q, (g.divergeTo k t target).split k = some q := by
  unfold Group.divergeTo
  simp only [h]
  split
  · rename_i n hn
    have hne : n ≠ k := fun hnk => by simp [(hnk ▸ Group.freeSplit_eq_some hn).2.1] at h
    exact ⟨sp, (g.split_setSplit_ne hne _).trans h⟩
  · exact ⟨_, Group.split_setSplit_self h _⟩

/-- The sets that a BRX sends, one after the other. -/
theorem Group.holders_divergeAll (h : g.split k = some sp) (sets : List (W64 × Mask)) (l : Nat) :
    (sets.foldl (fun g x => g.divergeTo k x.2 x.1) g).holders l = g.holders l + sets.countP (·.2.getLsbD l) := by
  induction sets generalizing g sp with
  | nil => rfl
  | cons x sets ih =>
    obtain ⟨q, hq⟩ := Group.split_divergeTo h x.2 x.1
    rw [List.foldl_cons, ih hq, Group.holders_divergeTo h, List.countP_cons]
    cases x.2.getLsbD l <;> simp
    omega

/-- A BRX that sends no lane twice holds none more often than before. -/
theorem Group.holders_brx_le (h : g.split k = some sp) {keep : Mask} {sets : List (W64 × Mask)} {l : Nat}
    (hle : (keep.getLsbD l).toNat + sets.countP (·.2.getLsbD l) ≤ (sp.mask.getLsbD l).toNat) : (g.brx k keep sets).holders l ≤ g.holders l := by
  have hsend (f : Split → Split) (rest : List (W64 × Mask)) (hrest : ((f sp).mask.getLsbD l).toNat + rest.countP (·.2.getLsbD l) ≤ (sp.mask.getLsbD l).toNat) :
      (rest.foldl (fun g x => g.divergeTo k x.2 x.1) (g.modSplit k f)).holders l ≤ g.holders l := by
    have hput := Group.holders_replace h (some (f sp)) l
    rw [Group.holders_divergeAll (Group.split_modSplit_self h f), Group.modSplit]
    simp only [h]
    simp only [Option.map_some, heldBy, Option.any_some] at hput
    omega
  unfold Group.brx
  split
  rename_i g' rest hmoved
  split at hmoved
  · split at hmoved <;> cases hmoved
    · exact Nat.le_refl _
    · rename_i pc m
      refine hsend (fun sp => { sp.arrive pc with mask := m }) rest (Nat.le_trans ?_ hle)
      rw [List.countP_cons]
      cases m.getLsbD l <;> simp
      omega
  · cases hmoved
    exact hsend (fun sp => { sp.arrive (nextPc sp.pc) with mask := keep }) sets hle

/-! ## Lanes that end (R168) -/

theorem Group.holders_retire (h : g.split k = some sp) (m : Mask) {l : Nat} (hl : l < 32) :
    (g.retire k m).holders l + ((sp.mask &&& m).getLsbD l).toNat = g.holders l := by
  unfold Group.retire
  simp only [h]
  split
  · rename_i hrest
    have hput := Group.holders_replace h none l
    have hbits := congrArg (·.getLsbD l) (beq_iff_eq.1 hrest)
    show (g.setSplit k none).holders l + _ = _
    simp only [Option.map_none, heldBy, Option.any_none, BitVec.getLsbD_and, BitVec.getLsbD_not, hl, decide_true, Bool.true_and] at hput hbits ⊢
    cases hm : m.getLsbD l <;> cases hs : sp.mask.getLsbD l <;> simp [hm, hs] at hput hbits ⊢ <;> omega
  · have hput := Group.holders_replace h (some { sp with mask := sp.mask &&& ~~~m }) l
    simp only [Option.map_some, heldBy, Option.any_some, BitVec.getLsbD_and, BitVec.getLsbD_not, hl, decide_true, Bool.true_and] at hput ⊢
    cases hm : m.getLsbD l <;> cases hs : sp.mask.getLsbD l <;> simp [hm, hs] at hput ⊢ <;> omega

/-- Lanes stay apart where none is held more often. -/
theorem Frame.lanesApart_of_holders_le {fr fr' : Frame} (hapart : fr.lanesApart) (hmask : fr'.mask = fr.mask)
    (hle : ∀ l < 32, fr'.group.holders l ≤ fr.group.holders l) : fr'.lanesApart := by
  rw [Frame.lanesApart_iff] at hapart ⊢
  exact fun l hl => hmask ▸ Nat.le_trans (hle l hl) (hapart l hl)

/-- Lanes of a split that retire leave the others apart. -/
theorem Frame.lanesApart_retire {fr : Frame} (hapart : fr.lanesApart) (h : fr.group.split k = some sp) {m : Mask} (hm : m &&& ~~~sp.mask = 0) :
    Frame.lanesApart { fr with mask := fr.mask &&& ~~~m, group := fr.group.retire k m } := by
  rw [Frame.lanesApart_iff] at hapart ⊢
  intro l hl
  have hheld := Group.holders_retire h m hl
  have hone := hapart l hl
  have hbits := congrArg (·.getLsbD l) hm
  simp only [BitVec.getLsbD_and, BitVec.getLsbD_not, hl, decide_true, Bool.true_and] at hheld hbits ⊢
  cases hml : m.getLsbD l <;> cases hs : sp.mask.getLsbD l <;> cases hf : fr.mask.getLsbD l <;> simp [hml, hs, hf] at hheld hone hbits ⊢ <;> omega

/-! ## Merges and pops (R174) -/

theorem Group.holders_mergeInto_le (g : Group) {i j : Nat} (hij : i ≠ j) (l : Nat) : (g.mergeInto i j).holders l ≤ g.holders l := by
  unfold Group.mergeInto
  split
  · rename_i a b ha hb
    extract_lets both
    have hgone := Group.holders_replace (g := g.relabel i j) (k := j) hb none l
    have hsplit : ((g.relabel i j).setSplit j none).split i = some a := ((g.relabel i j).split_setSplit_ne hij.symm none).trans ha
    have hput (q : Split) (hq : q.mask = a.mask ||| b.mask) :
        (((g.relabel i j).setSplit j none).setSplit i (some q)).holders l ≤ g.holders l := by
      have hmerged := Group.holders_replace hsplit (some q) l
      have hlabel : (g.relabel i j).holders l = g.holders l := rfl
      simp only [Option.map_some, Option.map_none, heldBy, Option.any_some, Option.any_none, hq, BitVec.getLsbD_or] at hmerged hgone
      cases hal : a.mask.getLsbD l <;> cases hbl : b.mask.getLsbD l <;> simp [hal, hbl] at hmerged hgone <;> omega
    exact hput _ rfl
  · exact Nat.le_refl _

/-- A pair that merges is a pair of two splits. -/
theorem Group.mergePair_ne {i j : Nat} (h : g.mergePair = some (i, j)) : i ≠ j := by
  have hmem := List.mem_of_find?_eq_some h
  simp only [List.mem_cons, Prod.mk.injEq, List.not_mem_nil, or_false] at hmem
  omega

theorem Group.holders_mergeAll_le (n : Nat) (g : Group) (l : Nat) : (g.mergeAll n).holders l ≤ g.holders l := by
  induction n generalizing g with
  | zero => exact Nat.le_refl _
  | succ n ih =>
    unfold Group.mergeAll
    split
    · rename_i i j hpair
      exact Nat.le_trans (ih _) (g.holders_mergeInto_le (Group.mergePair_ne hpair) l)
    · exact Nat.le_refl _

/-- The lanes of the top stack entry become those of a split in a free number. -/
theorem Group.holders_pop {n : Nat} {x : StackEntry} {rest : List StackEntry} (hn : g.freeSplit = some n) (hstack : g.stack = x :: rest) (now l : Nat) :
    (({ g with stack := rest } : Group).addSplit n (x.split now)).holders l = g.holders l := by
  have hpushed := ({ g with stack := rest } : Group).holders_push x l
  have hback : ({ ({ g with stack := rest } : Group) with stack := x :: rest } : Group) = g := by rw [← hstack]
  rw [Group.holders_addSplit (g := { g with stack := rest }) hn]
  exact hpushed.symm.trans (congrArg (Group.holders · l) hback)

theorem Group.holders_normalise_le (now n : Nat) (g : Group) (l : Nat) : (Group.normalise now n g).holders l ≤ g.holders l := by
  induction n generalizing g with
  | zero => exact Nat.le_refl _
  | succ n ih =>
    have hmerged := g.holders_mergeAll_le 3 l
    unfold Group.normalise
    dsimp only
    split
    · rename_i k x rest hfree hstack
      exact Nat.le_trans (ih _) ((Group.holders_pop hfree hstack now l).trans_le hmerged)
    · exact hmerged

theorem Group.masks_releaseJoin (g : Group) : g.releaseJoin.masks = g.masks := by
  unfold Group.releaseJoin
  split
  · exact g.masks_modSplit _ fun _ => rfl
  · rfl

/-! ## Registers -/

theorem Group.masks_writes (g : Group) (k : Nat) (ws : List RegWrite) : (g.writes k ws).masks = g.masks := by
  induction ws generalizing g with
  | nil => rfl
  | cons w ws ih =>
    refine (ih _).trans ?_
    cases w with
    | vec | tag => rfl
    | uni | anchor => exact g.masks_modSplit k fun _ => rfl
    | pred p m val => unfold Group.write; dsimp only; split <;> rfl

theorem masks_commit (now : Result → Bool) (rs kept : List Result) (g : Group) : (commit now rs kept g).masks = g.masks := by
  induction rs generalizing kept g with
  | nil => rfl
  | cons r rs ih =>
    unfold commit
    split
    · exact (ih ..).trans (g.masks_writes r.split r.writes)
    · exact ih ..

theorem Group.masks_commitDue (g : Group) (now : Nat) : (g.commitDue now).masks = g.masks := masks_commit ..

end Sys2Proof.Machine
end

section
/-! SUPPORT. A home, and a register of a window, leave the frames of every context as they are: of a context they write the image and the Alcoves
(R54, R95, R428). -/

namespace Sys2Proof.Machine
namespace State.SameFrames

variable {α : Type} {part : Frame → α} {b s : State}

/-- A choice between answers leaves what either leaves. -/
theorem ite {β : Type} {c : Prop} [Decidable c] {p q : State × β} (hp : State.SameFrames part b p.1) (hq : State.SameFrames part b q.1) :
    State.SameFrames part b (if c then p else q).1 := by
  split
  · exact hp
  · exact hq

/-! ## Lines at a home -/

theorem imageWrite {cid off n x : Nat} (hs : State.SameFrames part b s) : State.SameFrames part b (s.imageWrite cid off n x) := by
  unfold State.imageWrite
  split
  · exact hs
  · rename_i c hc
    split
    · exact hs.setCtx hc rfl
    · split
      · split
        · exact hs.setCtx hc rfl
        · split
          · exact hs.modCore
          · exact hs
      · exact hs

theorem setL2 {ln : Nat} {l : L2Line} (hs : State.SameFrames part b s) : State.SameFrames part b (s.setL2 ln l) := by
  unfold State.setL2
  split
  · extract_lets +onlyGivenNames src
    have hsrc : State.SameFrames part b src := hs.imageWrite
    clear_value src
    exact hsrc.same rfl
  · exact hs.same rfl

theorem ctxs_sample (s : State) (ln : Nat) (tier : Bool) : (s.sample ln tier).ctxs = s.ctxs := by
  unfold State.sample
  split
  · dsimp only
    split <;> rfl
  · rfl

theorem memoryRead {ln : Nat} {tier : Bool} (hs : State.SameFrames part b s) : State.SameFrames part b (s.memoryRead ln tier) := by
  have hsampled : State.SameFrames part b (s.sample ln tier) := hs.same (ctxs_sample ..)
  unfold State.memoryRead
  split
  · exact hs
  · dsimp only
    split
    · exact hsampled
    · split <;> exact hsampled.same rfl

theorem fetchL2 {ln : Nat} {tier : Bool} (hs : State.SameFrames part b s) : State.SameFrames part b (s.fetchL2 ln tier).1 := by
  unfold State.fetchL2
  split
  · exact hs
  · exact hs.memoryRead.setL2

theorem mergeAt {core : Nat} {x : L1Line} (hs : State.SameFrames part b s) : State.SameFrames part b (s.mergeAt core x) := by
  unfold State.mergeAt
  split
  exact (hs.fetchL2.of_pair (by assumption)).setL2

theorem flushBacks {core ln : Nat} (hs : State.SameFrames part b s) : State.SameFrames part b (s.flushBacks core ln) := by
  unfold State.flushBacks
  refine State.SameFrames.same (hs.foldl fun t r ht => ?_) rfl
  split
  · exact ht.mergeAt
  · exact ht

/-- Whatever becomes of an owner at a line's home. -/
theorem dropOwner {ln : Nat} {f : L2Line → L2Line} (hs : State.SameFrames part b s) : State.SameFrames part b (match s.l2At ln with
    | some l => s.setL2 ln (f l)
    | none => s) := by
  split
  · exact hs.setL2
  · exact hs

theorem forward {ln core asid : Nat} (hs : State.SameFrames part b s) : State.SameFrames part b (s.forward ln core asid) := by
  have hstale (x : L1Line) (p : Nat → Nat → Bool) : State.SameFrames part b (((s.flushBacks core ln).mergeAt core x).staleFills core p) :=
    hs.flushBacks.mergeAt.same rfl
  unfold State.forward
  dsimp only
  split
  · split
    · exact dropOwner (hstale _ _).modCore
    · exact dropOwner hs.flushBacks
  · exact dropOwner hs.flushBacks

theorem forwardAll {ln : Nat} (hs : State.SameFrames part b s) : State.SameFrames part b (s.forwardAll ln) := by
  unfold State.forwardAll State.forwardTo
  split
  · exact hs.foldl fun _ _ ht => ht.forward
  · exact hs

theorem ctxs_memoryWrite (s : State) (ln : Nat) (l : L2Line) : (s.memoryWrite ln l).ctxs = s.ctxs := by
  unfold State.memoryWrite
  dsimp only
  split <;> exact ctxs_sample ..

theorem evictL2 {ln : Nat} (hs : State.SameFrames part b s) : State.SameFrames part b (s.evictL2 ln) := by
  unfold State.evictL2
  dsimp only
  split
  · exact hs.forwardAll
  · split
    · exact hs.forwardAll.same (ctxs_memoryWrite ..)
    · exact hs.forwardAll.same rfl

theorem makeWayL2 {ln : Nat} (hs : State.SameFrames part b s) : State.SameFrames part b (s.makeWayL2 ln) := by
  unfold State.makeWayL2
  split
  · exact hs
  · have hdrawn : State.SameFrames part b s.draw.2 := hs.same rfl
    dsimp only
    split
    · exact hdrawn.evictL2
    · exact hdrawn

theorem allocate {ln : Nat} {tier : Bool} (hs : State.SameFrames part b s) : State.SameFrames part b (s.allocate ln tier).1 := hs.makeWayL2.fetchL2

theorem homeRead {ln : Nat} {tier : Bool} (hs : State.SameFrames part b s) : State.SameFrames part b (s.homeRead ln tier).1 := by
  have hmet : State.SameFrames part b (s.meet ln) := by
    unfold State.meet
    split
    · exact hs.same rfl
    · exact hs
  unfold State.homeRead
  dsimp only
  exact hmet.forwardAll.allocate

/-! ## Registers of a window -/

theorem readMem {pa n : Nat} (hs : State.SameFrames part b s) : State.SameFrames part b (s.readMem pa n).1 := by
  unfold State.readMem
  generalize n / 128 + 2 = f
  induction f generalizing s pa n with
  | zero => exact hs
  | succ f ih =>
    unfold State.readSpan
    refine ite hs ?_
    dsimp only
    exact ih hs.homeRead

theorem queue {n : Nat} (hs : State.SameFrames part b s) : State.SameFrames part b (s.queue n).1 := by
  unfold State.queue
  refine ite hs ?_
  split
  have hread := hs.readMem.of_pair (by assumption)
  exact ite hread hread

theorem ownRegister {vf off : Nat} (hs : State.SameFrames part b s) : State.SameFrames part b (s.ownRegister vf off).1 := by
  have hval (x : W64) : State.SameFrames part b (s, x).1 := hs
  unfold State.ownRegister
  extract_lets
  iterate 12 refine ite (hval _) ?_
  refine ite ?_ (ite (hval _) (ite (hval _) (hval _)))
  extract_lets
  split
  exact hs.queue.of_pair (by assumption)

/-- A register of the PF is read beside the contexts. -/
theorem ctxs_pfRegister (s : State) (off : Nat) : (s.pfRegister off).1.ctxs = s.ctxs := by
  simp only [State.pfRegister, apply_ite Prod.fst, apply_ite State.ctxs, ite_self]

theorem readWindow {vf off n : Nat} (hs : State.SameFrames part b s) : State.SameFrames part b (s.readWindow vf off n).1 := by
  unfold State.readWindow
  refine ite (ite ?_ ?_) hs
  · exact hs.same (ctxs_pfRegister ..)
  · exact hs.ownRegister

end State.SameFrames
end Sys2Proof.Machine
end

section
/-! SUPPORT. What an instruction of the C format leaves of the lanes while it is checked, and where it waits or traps (R219, R220, R224, R265):
every frame, stack entry and split keeps its lanes. -/

namespace Sys2Proof.Machine

/-- The lanes of a frame, of its stack entries and of its splits. -/
def Frame.lanes (fr : Frame) : Mask × List Mask × (Nat → Option Mask) := (fr.mask, fr.group.masks)

/-! ## Splits, stops and requests -/

theorem State.ctxs_deliverFault (s : State) (core : Nat) (x : FaultRec) : (s.deliverFault core x).1.ctxs = s.ctxs := by
  unfold State.deliverFault
  dsimp only
  split
  · split <;> rfl
  · rfl

namespace State.SameFrames

variable {b s : State}

theorem modSplit {cid h k : Nat} {f : Split → Split} (hs : State.SameFrames Frame.lanes b s) (hf : ∀ sp, (f sp).mask = sp.mask) :
    State.SameFrames Frame.lanes b (s.modSplit cid h k f) :=
  hs.modGroup fun fr => congrArg (Prod.mk fr.mask) (fr.group.masks_modSplit k hf)

theorem push {α : Type} {part : Frame → α} {i : Instr} (hs : State.SameFrames part b s) : State.SameFrames part b (s.push i) := hs.same rfl

theorem pushAll {α : Type} {part : Frame → α} {l : List Instr} (hs : State.SameFrames part b s) : State.SameFrames part b (s.pushAll l) := hs.same rfl

theorem raiseHalt {α : Type} {part : Frame → α} {cid seq : Nat} {code : FaultCode} (hs : State.SameFrames part b s) :
    State.SameFrames part b (s.raiseHalt cid code seq) := by
  unfold State.raiseHalt
  split
  · exact hs
  · rename_i c hc
    split
    · exact State.SameFrames.pushAll (hs.setCtx hc rfl)
    · exact State.SameFrames.pushAll (hs.setCtx hc rfl)
    · exact hs.setCtx hc rfl
    · split <;> exact hs.setCtx hc rfl
    · split <;> exact hs.setCtx hc rfl
    · exact hs

section
variable {e : Env}

theorem take {t : TrapInfo} (hs : State.SameFrames Frame.lanes b s) : State.SameFrames Frame.lanes b (e.take t s) := State.SameFrames.raiseHalt (hs.modSplit fun _ => rfl)

theorem violate {va : W64} {u : Mask} {precise : Bool} (hs : State.SameFrames Frame.lanes b s) :
    State.SameFrames Frame.lanes b (e.violate va u s precise) := State.SameFrames.modCtx hs.take fun _ => rfl

theorem postFault {core vf split : Nat} {owner : Option FRef} {rec : BitVec 256} (hs : State.SameFrames Frame.lanes b s) :
    State.SameFrames Frame.lanes b (s.postFault core vf owner split rec) :=
  hs.same (State.postFault_keeps (part := State.ctxs) (fun _ _ _ => rfl) State.ctxs_deliverFault ..)

theorem park {k : Kind} {src : Nat} {u : Mask} {bad : List Bad} (hs : State.SameFrames Frame.lanes b s) :
    State.SameFrames Frame.lanes b (e.park k src u bad s) := by
  unfold Env.park
  extract_lets +onlyGivenNames pages post s1 s2
  have h1 : State.SameFrames Frame.lanes b s1 := by
    refine hs.foldl fun t x ht => ?_
    split
    · exact ht.modCore
    · exact ht.modCore
    · exact ht.modCore
    · exact ht
  have h2 : State.SameFrames Frame.lanes b s2 := by
    refine h1.foldl fun t p ht => ?_
    unfold post
    split
    · exact ht
    · exact ht.postFault
  split
  · exact h2
  · exact h2.modSplit fun _ => rfl

theorem requestWalk {page : Nat} {quiet : Bool} (hs : State.SameFrames Frame.lanes b s) : State.SameFrames Frame.lanes b (e.requestWalk page s quiet) := by
  unfold Env.requestWalk
  dsimp only
  split
  · split
    · exact hs
    · exact hs.modCore
  · split
    · exact hs
    · exact State.SameFrames.push hs.modCore

/-! ## Reads at a place -/

theorem awaitFill {dst : ReqDst} {lanes : Mask} {va : W64} {pa n : Nat} {cmp tier : Bool} (hs : State.SameFrames Frame.lanes b s) :
    State.SameFrames Frame.lanes b (e.awaitFill dst lanes va pa n cmp tier s) := by
  have hfill (ln vunit : Nat) : State.SameFrames Frame.lanes b (e.fill ln vunit cmp tier s).1 := by
    unfold Env.fill
    dsimp only
    split
    · exact hs
    · exact hs.same rfl
  unfold Env.awaitFill
  split
  · exact hs
  · dsimp only
    split
    · exact hfill _ _
    · exact (hfill (pa / 128) (lookupPage va)).same rfl

theorem readNow {p : Place} {n : Nat} (hs : State.SameFrames Frame.lanes b s) : State.SameFrames Frame.lanes b (e.readNow p n s).1 := by
  unfold Env.readNow
  split
  · dsimp only
    split
    · exact hs
    · exact hs.same rfl
  · exact hs
  · exact hs
  · exact hs.readWindow
  · exact hs
  · exact hs
  · exact hs

theorem loadAt {dst : ReqDst} {lanes : Mask} {va : W64} {n : Nat} {p : Place} (hs : State.SameFrames Frame.lanes b s) :
    State.SameFrames Frame.lanes b (e.loadAt dst lanes va n p s).1 := by
  unfold Env.loadAt
  split
  · split
    · exact hs
    · exact hs.awaitFill
  · split
    · exact hs
    · exact hs.same rfl
  · exact hs.readNow

end

end State.SameFrames

end Sys2Proof.Machine
end

section
/-! SUPPORT. What one instruction of the C format may come to: it keeps all lanes where they are, or has moved those of its split, and all of the group
are apart (R168, R171 to R174, R227). -/

namespace Sys2Proof.Machine

/-! ## The frame of an issue -/

section
variable {e : Env} {s t : State}

/-- The lanes of the frame are apart. -/
def Env.Apart (e : Env) (s : State) : Prop := ∀ fr, s.frame e.cid e.h = some fr → fr.lanesApart

/-- The lanes of the frame are apart, and the split that issues still has its lanes. -/
def Env.Stands (e : Env) (s : State) : Prop :=
  ∀ fr, s.frame e.cid e.h = some fr → fr.lanesApart ∧ ∃ sp, fr.group.split e.f.split = some sp ∧ sp.mask = e.sp.mask

theorem Frame.lanesApart_of_lanes {fr fr' : Frame} (h : fr'.lanes = fr.lanes) (hapart : fr.lanesApart) : fr'.lanesApart := by
  obtain ⟨hmask, hmasks⟩ := Prod.mk.inj h
  exact Frame.lanesApart_of_holders_le hapart hmask fun l _ => (Group.holders_congr hmasks l).le

theorem Env.Apart.of_same (h : e.Apart s) (hs : State.SameFrames Frame.lanes s t) : e.Apart t := by
  intro fr' hfr'
  have hsame := hs.frame e.cid e.h
  rw [hfr'] at hsame
  obtain ⟨fr, hfr, hlanes⟩ := Option.map_eq_some_iff.1 hsame.symm
  exact Frame.lanesApart_of_lanes hlanes.symm (h fr hfr)

theorem Env.Stands.of_same (h : e.Stands s) (hs : State.SameFrames Frame.lanes s t) : e.Stands t := by
  intro fr' hfr'
  have hsame := hs.frame e.cid e.h
  rw [hfr'] at hsame
  obtain ⟨fr, hfr, hlanes⟩ := Option.map_eq_some_iff.1 hsame.symm
  obtain ⟨hapart, sp, hsp, hmask⟩ := h fr hfr
  refine ⟨Frame.lanesApart_of_lanes hlanes.symm hapart, ?_⟩
  have hsplit : (fr'.group.split e.f.split).map (·.mask) = (fr.group.split e.f.split).map (·.mask) :=
    congrFun (congrArg (fun x => x.2.2) hlanes.symm) e.f.split
  rw [hsp] at hsplit
  obtain ⟨sp', hsp', hmask'⟩ := Option.map_eq_some_iff.1 hsplit
  exact ⟨sp', hsp', hmask'.trans hmask⟩

theorem Env.Stands.apart (h : e.Stands s) : e.Apart s := fun fr hfr => (h fr hfr).1

/-- What an instruction under way reads in place of the registers changes no lanes. -/
theorem Env.of_masks {f : Focus} (h : Env.of s f = some e) : ∃ fr sp, s.frame e.cid e.h = some fr ∧ fr.group.split e.f.split = some sp ∧
    sp.mask = e.sp.mask ∧ sp.pc = e.sp.pc ∧ e.group.splits = fr.group.splits ∧ e.group.stack = fr.group.stack := by
  obtain ⟨-, rfl, -, -, -, hc, fr, sp, hfr, hsp, -, hq⟩ := Env.of_eq h
  refine ⟨fr, sp, by simp [State.frame, hc, hfr], hsp, ?_⟩
  split at hq
  all_goals
    obtain ⟨hefr, hesp⟩ := Prod.mk.inj hq
    rw [Env.group, hefr, hesp]
    exact ⟨rfl, rfl, rfl, rfl⟩

theorem Env.stands_of {f : Focus} (h : Env.of s f = some e) {fr0 : Frame} (hfr0 : s.frame e.cid e.h = some fr0) (hapart : fr0.lanesApart) : e.Stands s := by
  obtain ⟨fr, sp, hfr, hsp, hmask, -⟩ := Env.of_masks h
  obtain rfl : fr = fr0 := Option.some.inj (hfr.symm.trans hfr0)
  intro fr' hfr'
  obtain rfl : fr = fr' := Option.some.inj (hfr.symm.trans hfr')
  exact ⟨hapart, sp, hsp, hmask⟩

/-! ## Moves -/

/-- A change of the group of an issue, where it moves lanes of its split. -/
theorem Env.Stands.move (h : e.Stands s) {f : Group → Group}
    (hf : ∀ g sp, g.split e.f.split = some sp → sp.mask = e.sp.mask → ∀ l < 32, (f g).holders l ≤ g.holders l) : e.Apart (e.modGroup s f) := by
  intro fr' hfr'
  rw [Env.modGroup, State.frame_modGroup_self] at hfr'
  obtain ⟨fr, hfr, rfl⟩ := Option.map_eq_some_iff.1 hfr'
  obtain ⟨hapart, sp, hsp, hmask⟩ := h fr hfr
  exact Frame.lanesApart_of_holders_le hapart rfl (hf fr.group sp hsp hmask)

/-- The taken lanes go to the target (R172, R173). -/
theorem Env.Stands.sent (h : e.Stands s) {m : Mask} (hm : m &&& ~~~e.sp.mask = 0) (target : W64) : e.Apart (Machine.sent e m target s) :=
  (h.move fun _ _ hsp hmask _ hl => (Group.holders_branch hsp (hmask ▸ hm) target hl).le).of_same (State.SameFrames.refl.modSplit fun _ => rfl)

/-- Lanes of the split end (R168). -/
theorem Env.Stands.retire (h : e.Stands s) {m : Mask} (hm : m &&& ~~~e.sp.mask = 0) : e.Apart (e.retire m s) := by
  have hended : e.Apart (e.modFrame s fun fr => { fr with mask := fr.mask &&& ~~~m, group := fr.group.retire e.f.split m }) := by
    intro fr' hfr'
    rw [Env.modFrame, State.frame_modFrame_self] at hfr'
    obtain ⟨fr, hfr, rfl⟩ := Option.map_eq_some_iff.1 hfr'
    obtain ⟨hapart, sp, hsp, hmask⟩ := h fr hfr
    exact Frame.lanesApart_retire hapart hsp (hmask ▸ hm)
  unfold Env.retire
  dsimp only
  split
  · exact hended
  · split
    · exact hended.of_same (State.SameFrames.push (State.SameFrames.modGroup State.SameFrames.refl fun _ => rfl))
    · unfold State.rejoin
      split
      · split
        · exact hended.of_same (State.SameFrames.push State.SameFrames.refl)
        · exact hended
      · exact hended

theorem Env.g_sub (e : Env) (h : Hdr) : e.g h &&& ~~~e.sp.mask = 0 := by
  have hsub (a q : Mask) : a &&& q &&& ~~~a = 0 := by
    rw [BitVec.and_assoc, BitVec.and_comm q, ← BitVec.and_assoc, BitVec.and_not_self]
    exact BitVec.zero_and
  exact hsub ..

end

/-! ## Outcomes -/

/-- What an instruction has come to leaves the lanes apart: where it has not moved them, all have stayed where they were. -/
def Perf.LeavesApart (e : Env) (b : State) : Perf → Prop
  | .ok s | .stay s | .trap _ s => State.SameFrames Frame.lanes b s
  | .moved s => e.Apart s

/-- The same of a part of an instruction that answers a value. -/
def AnswersApart {α : Type} (e : Env) (b : State) (st : α → State) : Except Perf α → Prop
  | .ok a => State.SameFrames Frame.lanes b (st a)
  | .error p => p.LeavesApart e b

section
variable {e : Env} {b s t : State}

theorem AnswersApart.ok {α : Type} {st : α → State} {r : Except Perf α} {a : α} (h : AnswersApart e b st r) (hr : r = .ok a) :
    State.SameFrames Frame.lanes b (st a) := by
  subst hr
  exact h

theorem AnswersApart.error {α : Type} {st : α → State} {r : Except Perf α} {p : Perf} (h : AnswersApart e b st r) (hr : r = .error p) :
    p.LeavesApart e b := by
  subst hr
  exact h

theorem leavesApart_hold (hs : State.SameFrames Frame.lanes b s) (w : Wait) : (e.hold w s).LeavesApart e b := hs.modSplit fun _ => rfl

/-! ## Checks -/

theorem leavesApart_fetchFault (hs : State.SameFrames Frame.lanes b s) (c : FaultCode) (va : W64) (u : Mask) : (e.fetchFault c va u s).LeavesApart e b := by
  unfold Env.fetchFault
  split
  · exact hs.violate
  · split
    · exact hs.park
    · exact hs

theorem answersApart_fetchLine (hs : State.SameFrames Frame.lanes b s) (va : W64) (u : Mask) : AnswersApart e b Prod.fst (e.fetchLine va u s) := by
  have hfault (c : FaultCode) : (e.fetchFault c va u s).LeavesApart e b := leavesApart_fetchFault hs c va u
  unfold Env.fetchLine
  split
  · exact hs
  · split
    · exact hfault .aperture
    · split
      · exact hs
      · split
        · exact hfault _
        · split
          · exact leavesApart_hold hs.requestWalk _
          · exact hfault _
          · exact leavesApart_hold hs.push _

theorem answersApart_checkTransfer (hs : State.SameFrames Frame.lanes b s) (pc : W64) (u : Mask) : AnswersApart e b id (e.checkTransfer pc u s) := by
  unfold Env.checkTransfer
  split
  · exact hs
  · split
    · exact hs
    · split
      · rename_i hline
        exact (answersApart_fetchLine hs pc u).error hline
      · rename_i hline
        split <;> exact (answersApart_fetchLine hs pc u).ok hline

theorem answersApart_checkTarget (hs : State.SameFrames Frame.lanes b s) (target : W64) : AnswersApart e b Prod.fst (e.checkTarget target s) := by
  have hcheck := answersApart_checkTransfer (e := e) hs target 0
  unfold Env.checkTarget
  split
  · rename_i hq
    exact hcheck.ok hq
  · rename_i hq
    split <;> exact hcheck.error hq
  · rename_i hq
    exact hcheck.error hq

theorem answersApart_tableRead (hs : State.SameFrames Frame.lanes b s) (va : W64) (n : Nat) (g : Mask) :
    AnswersApart e b Prod.fst (e.tableRead va n g s) := by
  unfold Env.tableRead
  split
  · exact hs
  · extract_lets +onlyGivenNames fault
    have hfault (c : FaultCode) : (fault c s).LeavesApart e b := by
      unfold fault
      split
      · exact hs.violate
      · split
        · exact hs.park
        · exact hs
    split
    · exact hfault _
    · split
      · exact leavesApart_hold hs.requestWalk _
      · exact hfault _
      · split
        · exact leavesApart_hold hs _
        · exact hs
      · split
        · rename_i hload
          exact hs.loadAt.of_pair hload
        · rename_i hload
          exact leavesApart_hold (hs.loadAt.of_pair hload) _

theorem answersApart_tableEntry (hs : State.SameFrames Frame.lanes b s) (base : W64) (g : Mask) (idx : Nat) :
    AnswersApart e b Prod.fst (e.tableEntry base g idx s) := by
  unfold Env.tableEntry
  split
  · rename_i hpc
    exact (answersApart_tableRead hs _ _ _).error hpc
  · rename_i hpc
    have hread := (answersApart_tableRead hs _ _ _).ok hpc
    split
    · rename_i hlbl
      exact (answersApart_tableRead hread _ _ _).error hlbl
    · rename_i hlbl
      have hread := (answersApart_tableRead hread _ _ _).ok hlbl
      dsimp only
      split
      · rename_i hcheck
        exact (answersApart_checkTransfer hread _ _).error hcheck
      · rename_i hcheck
        have hchecked := (answersApart_checkTransfer hread _ _).ok hcheck
        split
        · rename_i hline
          exact (answersApart_fetchLine hchecked _ _).error hline
        · rename_i hline
          split <;> exact (answersApart_fetchLine hchecked _ _).ok hline

theorem answersApart_tableEntries (hs : State.SameFrames Frame.lanes b s) (base : W64) (g : Mask) (l : List Nat) :
    AnswersApart e b Prod.fst (e.tableEntries base g l s) := by
  induction l generalizing s with
  | nil => exact hs
  | cons i l ih =>
    unfold Env.tableEntries
    split
    · rename_i hentry
      exact (answersApart_tableEntry hs base g i).error hentry
    · rename_i u pc hentry
      have hread : State.SameFrames Frame.lanes b u := (answersApart_tableEntry hs base g i).ok hentry
      split
      · rename_i hrest
        exact (ih hread).error hrest
      · rename_i v rest hrest
        have hall : State.SameFrames Frame.lanes b v := (ih hread).ok hrest
        exact hall

/-! ## Transfers -/

theorem leavesApart_diverge (hb : e.Stands b) (hs : State.SameFrames Frame.lanes b s) {m : Mask} (hm : m &&& ~~~e.sp.mask = 0) (target : W64)
    {also : Nat → State → State} (halso : ∀ k t, State.SameFrames Frame.lanes t (also k t)) : (e.diverge m target s also).LeavesApart e b := by
  unfold Env.diverge
  split
  · exact hs.modSplit fun _ => rfl
  · split
    · exact hs
    · exact ((hb.of_same hs).sent hm target).of_same (halso _ _)

theorem State.SameFrames.fetchTrap (bad : Option TrapInfo) (k : Nat) (s : State) : State.SameFrames Frame.lanes s (e.fetchTrap bad k s) := by
  unfold Env.fetchTrap
  split
  · exact State.SameFrames.refl.take
  · exact State.SameFrames.refl

theorem State.SameFrames.later (ws : List RegWrite) (s : State) : State.SameFrames Frame.lanes s (e.later ws s) := by
  unfold Env.later
  split
  · exact State.SameFrames.refl
  · exact State.SameFrames.push (State.SameFrames.modGroup State.SameFrames.refl fun _ => rfl)

theorem leavesApart_transfer (hb : e.Stands b) (hs : State.SameFrames Frame.lanes b s) {m : Mask} (hm : m &&& ~~~e.sp.mask = 0) (target : W64)
    {also : Nat → State → State} (halso : ∀ k t, State.SameFrames Frame.lanes t (also k t)) : (e.transfer m target s also).LeavesApart e b := by
  unfold Env.transfer
  split
  · rename_i hcheck
    exact (answersApart_checkTarget hs target).error hcheck
  · rename_i hcheck
    exact leavesApart_diverge hb ((answersApart_checkTarget hs target).ok hcheck) hm target fun k t => (halso k t).trans (State.SameFrames.fetchTrap _ k _)

/-- Where the lanes go after an instruction that has not moved them (R227). -/
theorem Env.Stands.next (h : e.Stands s) (hdr : Hdr) (n : Nat) : e.Apart (e.next hdr n s) := by
  have hadvanced : e.Stands (e.modSplit s (Split.advance n)) := h.of_same (State.SameFrames.refl.modSplit fun _ => rfl)
  unfold Env.next
  dsimp only
  split
  · exact hadvanced.retire (e.g_sub hdr)
  · exact hadvanced.apart

end

/-! ## Issues -/

section
variable {s t : State} {e : Env} (he : Env.of s s.focus = some e) (hs : e.Stands s)
include he hs

theorem apart_of_issueWith {i : Instr} {h : Hdr} {tags : Env → Bool} {body : Env → Perf} (hbody : (body e).LeavesApart e s)
    (ht : issueWith i h tags body s = .next t) : e.Apart t := by
  have hes := Env.of_state he
  have htake (x : TrapInfo) : e.Apart (e.take x s) := hs.apart.of_same State.SameFrames.refl.take
  have hperf : Perf.LeavesApart e s (if e.g h == 0 then .ok e.s else body e) := by
    split
    · exact hes ▸ State.SameFrames.refl
    · exact hbody
  unfold issueWith issueAny at ht
  simp only [he] at ht
  cases ht
  split
  · exact htake _
  · split
    · exact htake _
    · generalize (if e.g h == 0 then Perf.ok e.s else body e) = p at hperf
      cases p with
      | ok u => exact (hs.of_same hperf).next h _
      | moved u => exact hperf
      | stay u => exact hs.apart.of_same hperf
      | trap x u => exact hs.apart.of_same (State.SameFrames.trans hperf State.SameFrames.refl.take)

theorem apart_of_control {i : Instr} {h : Hdr} {b : CBody} {ready : Env → Bool} {wait after : Env → State → State}
    (hwait : State.SameFrames Frame.lanes e.s (wait e e.s)) (hafter : ∀ u, State.SameFrames Frame.lanes u (after e u))
    (ht : control i h b ready wait after s = .next t) : e.Apart t := by
  have hes := Env.of_state he
  have hsame : State.SameFrames Frame.lanes s e.s := hes ▸ State.SameFrames.refl
  refine apart_of_issueWith he hs ?_ ht
  split
  · exact hsame.trans hwait
  · split
    · have htransfer := leavesApart_transfer hs hsame (e.g_sub h) (branchTarget e.sp.pc b) (also := fun _ u => u) fun _ _ => State.SameFrames.refl
      split
      · rename_i hmoved
        rw [hmoved] at htransfer
        exact Env.Apart.of_same htransfer (hafter _)
      · exact htransfer
    · exact (Env.Stands.next (hs.of_same hsame) h 1).of_same (hafter _)

end

end Sys2Proof.Machine
end

section
/-! SUPPORT. The sets of lanes that a BRX sends (R265): no lane is in two. -/

namespace Sys2Proof.Machine

/-! ## Distinct indices -/

theorem nodup_of_rising {α : Type} {l : List (Nat × α)} (h : rising l = true) : (l.map (·.1)).Nodup := by
  induction l with
  | nil => exact List.nodup_nil
  | cons x l ih =>
    obtain ⟨habove, hrest⟩ := (rising_cons x.1 x.2 l).1 h
    refine List.nodup_cons.2 ⟨fun hx => ?_, ih hrest⟩
    obtain ⟨y, hy, hxy⟩ := List.mem_map.1 hx
    exact absurd (habove y hy) (hxy ▸ Nat.lt_irrefl _)

theorem nodup_distinctAsc (l : List Nat) : (distinctAsc l).Nodup := by
  have hrising (m : List (Nat × Unit)) (hm : rising m = true) : rising (l.foldl (fun (m : List (Nat × Unit)) i => insert m i ()) m) = true := by
    induction l generalizing m with
    | nil => exact hm
    | cons i l ih => exact ih _ (rising_insert m i () hm)
  exact nodup_of_rising (hrising [] rfl)

/-- The entries that are read are those of the indices, in their order. -/
theorem Env.tableEntries_indices {e : Env} {base : W64} {g : Mask} {l : List Nat} {s t : State} {targets : List (Nat × W64)}
    (h : e.tableEntries base g l s = .ok (t, targets)) : targets.map (·.1) = l := by
  induction l generalizing s t targets with
  | nil => cases h; rfl
  | cons i l ih =>
    unfold Env.tableEntries at h
    split at h
    · cases h
    · split at h
      · cases h
      · rename_i hrest
        cases h
        exact congrArg (i :: ·) (ih hrest)

/-! ## Sets by target -/

/-- One more set of lanes for a target. -/
def joinSet (sets : List (W64 × Mask)) (pc : W64) (m : Mask) : List (W64 × Mask) :=
  if sets.any fun t => t.1 == pc then sets.map fun t => if t.1 == pc then (pc, t.2 ||| m) else t else sets ++ [(pc, m)]

/-- The lanes of a set that have an index. -/
def indexLanes (idx : Nat → Nat) (g : Mask) (i : Nat) : Mask := maskBy fun l => g.getLsbD l && idx l == i

theorem targetSets_eq (idx : Nat → Nat) (g : Mask) (targets : List (Nat × W64)) :
    targetSets idx g targets = targets.foldl (fun sets x => joinSet sets x.2 (indexLanes idx g x.1)) [] := rfl

theorem joinSet_targets (sets : List (W64 × Mask)) (pc : W64) (m : Mask) (h : (sets.map (·.1)).Nodup) : ((joinSet sets pc m).map (·.1)).Nodup := by
  unfold joinSet
  split
  · have hsame : (sets.map fun t => if t.1 == pc then (pc, t.2 ||| m) else t).map (·.1) = sets.map (·.1) := by
      rw [List.map_map]
      refine List.map_congr_left fun t _ => ?_
      by_cases ht : t.1 = pc <;> simp [ht]
    rwa [hsame]
  · rename_i hnew
    have hpc : pc ∉ sets.map (·.1) := fun hpc => by
      obtain ⟨t, ht, htpc⟩ := List.mem_map.1 hpc
      exact hnew (List.any_eq_true.2 ⟨t, ht, beq_iff_eq.2 htpc⟩)
    rw [List.map_append]
    exact List.nodup_append.2 ⟨h, List.nodup_singleton _, fun a ha b hb => by
      obtain rfl := List.mem_singleton.1 hb
      exact fun hab => hpc (hab ▸ ha)⟩

theorem joinSet_countP_le {sets : List (W64 × Mask)} (pc : W64) (m : Mask) (h : (sets.map (·.1)).Nodup) (l : Nat) :
    (joinSet sets pc m).countP (·.2.getLsbD l) ≤ sets.countP (·.2.getLsbD l) + (m.getLsbD l).toNat := by
  unfold joinSet
  split
  · rename_i hany
    clear hany
    induction sets with
    | nil => exact Nat.zero_le _
    | cons t sets ih =>
      obtain ⟨hnotin, hrest⟩ := List.nodup_cons.1 h
      by_cases ht : t.1 = pc
      · have hothers : (sets.map fun t => if t.1 == pc then (pc, t.2 ||| m) else t) = sets :=
          (List.map_congr_left fun t' ht' => if_neg fun heq => hnotin (List.mem_map.2 ⟨t', ht', (beq_iff_eq.1 heq).trans ht.symm⟩)).trans (List.map_id _)
        rw [List.map_cons, hothers, if_pos (beq_iff_eq.2 ht), List.countP_cons, List.countP_cons, BitVec.getLsbD_or]
        cases t.2.getLsbD l <;> cases m.getLsbD l <;> simp
      · have hcons := ih hrest
        rw [List.map_cons, if_neg (by simpa using ht), List.countP_cons, List.countP_cons]
        omega
  · rw [List.countP_append, List.countP_singleton]
    cases m.getLsbD l <;> simp

/-- The sets of distinct indices hold no lane twice, and none beyond the guarded ones. -/
theorem targetSets_countP_le (idx : Nat → Nat) (g : Mask) {targets : List (Nat × W64)} (hnodup : (targets.map (·.1)).Nodup) {l : Nat} (hl : l < 32) :
    (targetSets idx g targets).countP (·.2.getLsbD l) ≤ (g.getLsbD l).toNat := by
  have hlane (i : Nat) : (indexLanes idx g i).getLsbD l = (g.getLsbD l && idx l == i) := by
    simp [indexLanes, maskBy, hl]
  have hjoined (ts : List (Nat × W64)) (sets : List (W64 × Mask)) (hsets : (sets.map (·.1)).Nodup) :
      (ts.foldl (fun sets x => joinSet sets x.2 (indexLanes idx g x.1)) sets).countP (·.2.getLsbD l) ≤
        sets.countP (·.2.getLsbD l) + ts.countP (fun x => g.getLsbD l && idx l == x.1) := by
    induction ts generalizing sets with
    | nil => exact Nat.le_refl _
    | cons x ts ih =>
      have hone := joinSet_countP_le x.2 (indexLanes idx g x.1) hsets l
      have hall := ih (joinSet sets x.2 (indexLanes idx g x.1)) (joinSet_targets sets x.2 _ hsets)
      rw [hlane] at hone
      rw [List.foldl_cons, List.countP_cons]
      cases hx : (g.getLsbD l && idx l == x.1) <;> simp only [hx, Bool.toNat_false, Bool.toNat_true, Bool.false_eq_true, if_true, if_false] at hone ⊢ <;> omega
  have hindex : targets.countP (fun x => idx l == x.1) ≤ 1 := by
    have hcount := List.nodup_iff_count_le_one.1 hnodup (idx l)
    rw [List.count, List.countP_map] at hcount
    refine Nat.le_trans (Nat.le_of_eq (List.countP_congr fun x _ => ?_)) hcount
    exact (beq_iff_eq.trans eq_comm).trans beq_iff_eq.symm
  rw [targetSets_eq]
  refine Nat.le_trans (hjoined targets [] List.nodup_nil) ?_
  rw [List.countP_nil, Nat.zero_add]
  cases g.getLsbD l with
  | false => exact (List.countP_eq_zero.2 fun _ _ => Bool.false_ne_true).le
  | true => exact hindex

end Sys2Proof.Machine
end

section
/-! SUPPORT. The instructions of the C format leave the lanes of their frame apart (R264 to R273). -/

namespace Sys2Proof.Machine

/-- The lanes outside the guarded set, and the sets by target, hold each lane of the split at most once. -/
theorem Env.keep_add_sets_le (e : Env) (h : Hdr) (idx : Nat → Nat) {targets : List (Nat × W64)} (hnodup : (targets.map (·.1)).Nodup) {l : Nat} (hl : l < 32) :
    ((e.sp.mask &&& ~~~e.g h).getLsbD l).toNat + (targetSets idx (e.g h) targets).countP (·.2.getLsbD l) ≤ (e.sp.mask.getLsbD l).toNat := by
  have hsets := targetSets_countP_le idx (e.g h) hnodup hl
  have hsub := congrArg (·.getLsbD l) (e.g_sub h)
  simp only [BitVec.getLsbD_and, BitVec.getLsbD_not, hl, decide_true, Bool.true_and] at hsub ⊢
  cases hg : (e.g h).getLsbD l <;> cases hm : e.sp.mask.getLsbD l <;> simp [hg, hm] at hsub hsets ⊢ <;> omega

section
variable {s t : State} {e : Env} {h : Hdr} {b : CBody} (he : Env.of s s.focus = some e) (hs : e.Stands s)
include he hs

theorem apart_br (ht : exec (.br h b) s = .next t) : e.Apart t :=
  apart_of_issueWith he hs (leavesApart_transfer hs (Env.of_state he ▸ State.SameFrames.refl) (e.g_sub h) _ fun _ _ => State.SameFrames.refl) ht

theorem apart_ret (ht : exec (.ret h b) s = .next t) : e.Apart t :=
  apart_of_issueWith he hs (leavesApart_transfer hs (Env.of_state he ▸ State.SameFrames.refl) (e.g_sub h) _ fun _ _ => State.SameFrames.refl) ht

theorem apart_call (ht : exec (.call h b) s = .next t) : e.Apart t :=
  apart_of_issueWith he hs (leavesApart_transfer hs (Env.of_state he ▸ State.SameFrames.refl) (e.g_sub h) _ fun _ _ => State.SameFrames.later _ _) ht

theorem apart_pad (ht : execPad h b s = .next t) : e.Apart t := by
  unfold execPad at ht
  exact apart_of_control he hs State.SameFrames.refl (fun _ => State.SameFrames.refl) ht

theorem apart_nop (ht : execNop h b s = .next t) : e.Apart t := by
  unfold execNop at ht
  exact apart_of_control he hs State.SameFrames.refl (fun _ => State.SameFrames.refl) ht

theorem apart_yield (ht : execYield h b s = .next t) : e.Apart t := by
  unfold execYield at ht
  have hwaits (u : State) : State.SameFrames Frame.lanes u (e.modSplit u fun sp => { sp with wait := .yield u.ac, asleep := true }) :=
    State.SameFrames.refl.modSplit fun _ => rfl
  exact apart_of_control he hs State.SameFrames.refl hwaits ht

theorem apart_join (ht : execJoin h b s = .next t) : e.Apart t := by
  unfold execJoin at ht
  have hwaits : State.SameFrames Frame.lanes e.s (e.modSplit e.s fun sp => { sp with wait := .join, asleep := true }) :=
    State.SameFrames.refl.modSplit fun _ => rfl
  exact apart_of_control he hs hwaits.push (fun _ => State.SameFrames.refl) ht

theorem apart_exit (ht : exec (.exit h b) s = .next t) : e.Apart t := by
  refine apart_of_issueWith he hs ?_ ht
  have hadvanced : e.Stands (e.modSplit e.s (Split.advance 1)) := hs.of_same (Env.of_state he ▸ State.SameFrames.refl.modSplit fun _ => rfl)
  exact hadvanced.retire (e.g_sub h)

omit hs in
theorem leavesApart_debugTrap (hs : e.Stands s) (c : FaultCode) : (e.debugTrap c b).LeavesApart e s :=
  hs.apart.of_same (Env.of_state he ▸ State.SameFrames.take (State.SameFrames.refl.modSplit fun _ => rfl))

theorem apart_trap (ht : exec (.trap h b) s = .next t) : e.Apart t := apart_of_issueWith he hs (leavesApart_debugTrap he hs _) ht

theorem apart_bkpt (ht : exec (.bkpt h b) s = .next t) : e.Apart t := by
  refine apart_of_issueWith he hs ?_ ht
  split
  · exact Env.of_state he ▸ State.SameFrames.refl
  · exact leavesApart_debugTrap he hs _

theorem apart_loop (ht : exec (.loop h b) s = .next t) : e.Apart t := by
  have hes : State.SameFrames Frame.lanes s e.s := Env.of_state he ▸ State.SameFrames.refl
  refine apart_of_issueWith he hs ?_ ht
  extract_lets wide n ws
  split
  · exact hes.trans (State.SameFrames.later _ _)
  · split
    · rename_i hcheck
      exact (answersApart_checkTarget hes _).error hcheck
    · rename_i u bad hcheck
      have hchecked : State.SameFrames Frame.lanes s u := (answersApart_checkTarget hes _).ok hcheck
      have hplain := leavesApart_diverge hs hchecked (e.g_sub h) (branchTarget e.sp.pc b) (also := fun _ u => u) fun _ _ => State.SameFrames.refl
      split
      · split
        · exact leavesApart_diverge hs (hchecked.modGroup fun fr => congrArg (Prod.mk fr.mask) (fr.group.masks_writes _ _)) (e.g_sub h) _
            fun k v => State.SameFrames.fetchTrap _ k v
        · exact leavesApart_diverge hs hchecked (e.g_sub h) _ fun k v => (State.SameFrames.later _ _).trans (State.SameFrames.fetchTrap _ k _)
      · exact hplain

theorem apart_brx (ht : exec (.brx h b) s = .next t) : e.Apart t := by
  have hes : State.SameFrames Frame.lanes s e.s := Env.of_state he ▸ State.SameFrames.refl
  refine apart_of_issueWith he hs ?_ ht
  extract_lets g base
  split
  · exact hes
  · split
    · exact hes
    · split
      · rename_i hentries
        exact (answersApart_tableEntries hes _ _ _).error hentries
      · rename_i u targets hentries
        have hread : State.SameFrames Frame.lanes s u := (answersApart_tableEntries hes _ _ _).ok hentries
        have hnodup : (targets.map (·.1)).Nodup := Env.tableEntries_indices hentries ▸ nodup_distinctAsc _
        extract_lets sets keep
        split
        · exact hread.modSplit fun _ => rfl
        · split
          · exact hread
          · refine ((hs.of_same hread).move fun _ _ hsp hmask _ hl => Group.holders_brx_le hsp ?_).of_same (State.SameFrames.refl.modSplit fun _ => rfl)
            exact hmask ▸ e.keep_add_sets_le h _ hnodup hl

end

/-- A JOIN release leaves the lanes of every frame apart (R174). -/
theorem apart_joinRelease {s t : State} {core slot cid f : Nat} {fr0 fr : Frame} (hfr0 : s.frame cid f = some fr0) (hapart : fr0.lanesApart)
    (ht : exec (.joinRelease core slot) s = .next t) (hfr : t.frame cid f = some fr) : fr.lanesApart := by
  have hstay (h : s.frame cid f = some fr) : fr.lanesApart := Option.some.inj (hfr0.symm.trans h) ▸ hapart
  cases hb : lookup (s.core core).slots slot with
  | none =>
    have hs : exec (.joinRelease core slot) s = .next s := by
      show execJoinRelease core slot s = _
      simp only [execJoinRelease, hb]
    cases hs.symm.trans ht
    exact hstay hfr
  | some b =>
    cases hbound : b.frame with
    | none =>
      have hs : exec (.joinRelease core slot) s = .next s := by
        show execJoinRelease core slot s = _
        simp only [execJoinRelease, hb, hbound]
      cases hs.symm.trans ht
      exact hstay hfr
    | some k =>
      cases (exec_joinRelease hb hbound).symm.trans ht
      by_cases hthis : (b.cid, k) = (cid, f)
      · obtain ⟨rfl, rfl⟩ := Prod.mk.inj hthis
        rw [State.frame_modGroup_self, hfr0] at hfr
        cases hfr
        refine Frame.lanesApart_of_holders_le hapart rfl fun l _ => ?_
        calc _ = _ := Group.holders_congr (Group.masks_releaseJoin _) l
          _ ≤ _ := Group.holders_normalise_le _ _ _ l
          _ = _ := Group.holders_congr (Group.masks_commitDue _ _) l
      · rw [State.frame_modGroup_ne _ _ _ _ _ _ hthis] at hfr
        exact hstay hfr

end Sys2Proof.Machine
end

section
/-! SUPPORT. Where a taken set goes (R172, R173): what the group holds afterwards. -/

namespace Sys2Proof.Machine

section
variable {g : Group} {k : Nat} {sp : Split} {m : Mask} {target : W64}

theorem Group.stack_modSplit (g : Group) (k : Nat) (f : Split → Split) : (g.modSplit k f).stack = g.stack := by
  unfold Group.modSplit
  split <;> rfl

theorem Group.freeSplit_congr {g' : Group} (h : g'.splits = g.splits) : g'.freeSplit = g.freeSplit := by
  unfold Group.freeSplit Group.split
  rw [h]

/-- A split that is replaced leaves the same numbers free. -/
theorem Group.freeSplit_setSplit (h : g.split k = some sp) (q : Split) : (g.setSplit k (some q)).freeSplit = g.freeSplit := by
  have hfree : (fun j => ((g.setSplit k (some q)).split j).isNone) = fun j => (g.split j).isNone := by
    funext j
    by_cases hj : k = j
    · rw [← hj, Group.split_setSplit_self h, h]
      rfl
    · rw [g.split_setSplit_ne hj]
  rw [Group.freeSplit, hfree, Group.freeSplit]

theorem Group.split_addSplit_ne {n : Nat} (g : Group) (hne : n ≠ k) (q : Split) : (g.addSplit n q).split k = g.split k := g.split_setSplit_ne hne _

theorem Group.split_addSplit_self {n : Nat} (hn : g.freeSplit = some n) (q : Split) : (g.addSplit n q).split n = some q := by
  show ((g.splits.setIfInBounds n (some q))[n]?).join = some q
  rw [Vector.getElem?_setIfInBounds_self_of_lt (Group.freeSplit_eq_some hn).1]
  rfl

/-! ## One divergence -/

section
variable (h : g.split k = some sp)
include h

theorem Group.divergeTo_free {n : Nat} (hn : g.freeSplit = some n) : g.divergeTo k m target = g.addSplit n { sp.arrive target with mask := m } := by
  unfold Group.divergeTo
  simp only [h, hn]

/-- With no number free the split goes on with the set, and its lanes are pushed. -/
theorem Group.divergeTo_full (hn : g.freeSplit = none) : (g.divergeTo k m target).split k = some { sp.arrive target with mask := m } ∧
    (g.divergeTo k m target).stack = sp.entry sp.pc sp.mask :: g.stack := by
  unfold Group.divergeTo
  simp only [h, hn]
  exact ⟨Group.split_setSplit_self h _, trivial⟩

end

/-- What a split keeps when a set of its lanes goes elsewhere. -/
def Split.rest (m : Mask) (sp : Split) : Split := { sp.arrive (nextPc sp.pc) with mask := sp.mask &&& ~~~m }

section
variable (h : g.split k = some sp) (hm : m ≠ 0)
include h hm

/-- All lanes of the split go. -/
theorem Group.branch_all (hall : sp.mask &&& ~~~m = 0) : g.branch k m target = g.setSplit k (some (sp.arrive target)) := by
  unfold Group.branch
  simp only [h]
  rw [if_neg (by simpa using hm), if_pos (beq_iff_eq.2 hall)]

theorem Group.branch_some (hrest : sp.mask &&& ~~~m ≠ 0) : g.branch k m target = (g.setSplit k (some (sp.rest m))).divergeTo k m target := by
  unfold Group.branch
  simp only [h]
  rw [if_neg (by simpa using hm), if_neg (by simpa using hrest)]
  rfl

end

end

/-! ## The frame -/

theorem Env.diverges_iff (e : Env) {m : Mask} (hm : m ≠ 0) : e.diverges m = true ↔ e.sp.mask &&& ~~~m ≠ 0 := by
  rw [Env.diverges, bne_iff_ne.2 hm, Bool.true_and, bne_iff_ne]

section
variable {s : State} {e : Env} {m : Mask} {target : W64} {fr0 : Frame} {sp0 : Split} (he : Env.of s s.focus = some e) (hfr0 : s.frame e.cid e.h = some fr0)
include hfr0

theorem frame_sent : (sent e m target s).frame e.cid e.h =
    some { fr0 with group := (fr0.group.branch e.f.split m target).modSplit e.f.split fun sp => { sp with stepped := true } } := by
  rw [sent, Env.modSplit, State.frame_modSplit_self, Env.modGroup, State.frame_modGroup_self, hfr0]
  rfl

variable (hsp0 : fr0.group.split e.f.split = some sp0) (hm : m ≠ 0)
include he hsp0

/-- The split at the focus as it stands, beside what the instruction reads. -/
theorem Env.of_standing : sp0.mask = e.sp.mask ∧ sp0.pc = e.sp.pc ∧ e.group.splits = fr0.group.splits ∧ e.group.stack = fr0.group.stack := by
  obtain ⟨fr, sp, hfr, hsp, hrest⟩ := Env.of_masks he
  obtain rfl : fr = fr0 := Option.some.inj (hfr.symm.trans hfr0)
  obtain rfl : sp = sp0 := Option.some.inj (hsp.symm.trans hsp0)
  exact hrest

include hm

variable {fr : Frame} (hfr : (sent e m target s).frame e.cid e.h = some fr)
include hfr

/-- The whole split goes to the target (R172). -/
theorem sent_all (hdiv : e.diverges m = false) :
    (∃ sp, fr.group.split e.f.split = some sp ∧ sp.pc = target ∧ sp.mask = e.sp.mask ∧ sp.u = sp0.u) ∧ fr.group.stack = e.group.stack := by
  obtain ⟨hmask, -, -, hstack⟩ := Env.of_standing he hfr0 hsp0
  have hall : sp0.mask &&& ~~~m = 0 := hmask ▸ not_not.1 fun hrest => Bool.false_ne_true (hdiv.symm.trans ((e.diverges_iff hm).2 hrest))
  cases (frame_sent hfr0).symm.trans hfr
  dsimp only
  rw [Group.branch_all hsp0 hm hall, Group.stack_modSplit, hstack]
  exact ⟨⟨_, Group.split_modSplit_self (Group.split_setSplit_self hsp0 _) _, rfl, hmask, rfl⟩, rfl⟩

section
variable (hdiv : e.diverges m = true)
include hdiv

/-- The taken set becomes the split of the lowest free number (R172). -/
theorem sent_split {n : Nat} (hn : e.group.freeSplit = some n) : fr.group.stack = e.group.stack ∧
    (∃ sp, fr.group.split e.f.split = some sp ∧ sp.pc = nextPc e.sp.pc ∧ sp.mask = e.sp.mask &&& ~~~m ∧ sp.u = sp0.u) ∧
    ∃ sp, fr.group.split n = some sp ∧ sp.pc = target ∧ sp.mask = m ∧ sp.u = sp0.u ∧ sp.anchors = sp0.anchors := by
  obtain ⟨hmask, hpc, hsplits, hstack⟩ := Env.of_standing he hfr0 hsp0
  have hrest : sp0.mask &&& ~~~m ≠ 0 := hmask ▸ (e.diverges_iff hm).1 hdiv
  have hkept := Group.split_setSplit_self hsp0 (sp0.rest m)
  have hfree0 : fr0.group.freeSplit = some n := Group.freeSplit_congr hsplits ▸ hn
  have hfree : (fr0.group.setSplit e.f.split (some (sp0.rest m))).freeSplit = some n := (Group.freeSplit_setSplit hsp0 _).trans hfree0
  have hne : n ≠ e.f.split := fun hnk => by simp [← hnk, (Group.freeSplit_eq_some hfree0).2.1] at hsp0
  cases (frame_sent hfr0).symm.trans hfr
  dsimp only
  rw [Group.branch_some hsp0 hm hrest, Group.divergeTo_free hkept hfree, Group.stack_modSplit, hstack]
  refine ⟨rfl, ⟨_, Group.split_modSplit_self ((Group.split_addSplit_ne _ hne _).trans hkept) _, ?_⟩,
    _, (Group.split_modSplit_ne _ hne.symm _).trans (Group.split_addSplit_self hfree _), ?_⟩
  · exact ⟨congrArg nextPc hpc, congrArg (· &&& ~~~m) hmask, rfl⟩
  · exact ⟨rfl, rfl, rfl, rfl⟩

/-- With no number free, the rest goes on the stack (R173). -/
theorem sent_push (hn : e.group.freeSplit = none) :
    (∃ sp, fr.group.split e.f.split = some sp ∧ sp.pc = target ∧ sp.mask = m ∧ sp.u = sp0.u) ∧
    ∃ x, fr.group.stack = x :: e.group.stack ∧ x.pc = nextPc e.sp.pc ∧ x.mask = e.sp.mask &&& ~~~m ∧ x.u = sp0.u := by
  obtain ⟨hmask, hpc, hsplits, hstack⟩ := Env.of_standing he hfr0 hsp0
  have hrest : sp0.mask &&& ~~~m ≠ 0 := hmask ▸ (e.diverges_iff hm).1 hdiv
  have hkept := Group.split_setSplit_self hsp0 (sp0.rest m)
  have hfree : (fr0.group.setSplit e.f.split (some (sp0.rest m))).freeSplit = none :=
    (Group.freeSplit_setSplit hsp0 _).trans (Group.freeSplit_congr hsplits ▸ hn)
  obtain ⟨hgoes, hpushed⟩ := Group.divergeTo_full (m := m) (target := target) hkept hfree
  cases (frame_sent hfr0).symm.trans hfr
  dsimp only
  rw [Group.branch_some hsp0 hm hrest, Group.stack_modSplit, hpushed, hstack]
  refine ⟨⟨_, Group.split_modSplit_self hgoes _, ?_⟩, _, rfl, ?_⟩
  · exact ⟨rfl, rfl, rfl⟩
  · exact ⟨congrArg nextPc hpc, congrArg (· &&& ~~~m) hmask, rfl⟩

end

end

end Sys2Proof.Machine
end

section
/-! SUPPORT. The obligation of branches. -/

namespace Sys2Proof.Machine

/-- Settles O19: the instructions of the C format and the release of a JOIN move lanes, and hold none twice; where a taken set goes is read off
the one branch. -/
theorem branchDivides : Obligations.BranchDivides := by
  unfold Obligations.BranchDivides
  refine ⟨?control, ?joins, ?sends⟩
  case control =>
    intro s t e h b fr0 fr he hfr0 hapart i hi ht hfr
    have hs : e.Stands s := Env.stands_of he hfr0 hapart
    suffices e.Apart t from this fr hfr
    simp only [List.mem_cons, List.not_mem_nil, or_false] at hi
    rcases hi with rfl | rfl | rfl | rfl | rfl | rfl | rfl | rfl | rfl | rfl | rfl | rfl
    · exact apart_br he hs ht
    · exact apart_brx he hs ht
    · exact apart_pad he hs ht
    · exact apart_call he hs ht
    · exact apart_ret he hs ht
    · exact apart_join he hs ht
    · exact apart_loop he hs ht
    · exact apart_exit he hs ht
    · exact apart_yield he hs ht
    · exact apart_nop he hs ht
    · exact apart_bkpt he hs ht
    · exact apart_trap he hs ht
  case joins =>
    intro s t core slot cid f fr0 fr hfr0 hapart ht hfr
    exact apart_joinRelease hfr0 hapart ht hfr
  case sends =>
    intro s e m target fr0 sp0 he hfr0 hsp0 hm _
    have hfr := frame_sent hfr0 (m := m) (target := target)
    refine ⟨_, hfr, sent_all he hfr0 hsp0 hm hfr, fun n hdiv hn => ?_, sent_push he hfr0 hsp0 hm hfr⟩
    obtain ⟨hstack, hkeeps, htakes⟩ := sent_split he hfr0 hsp0 hm hfr hdiv hn
    exact ⟨hstack, hkeeps, htakes, (Group.freeSplit_eq_some hn).2.2⟩

end Sys2Proof.Machine
end

section
/-! SUPPORT. The elements of accumulators: one element of a row is written at a time (R207, R216, R320, R325). -/

namespace Sys2Proof.Machine

/-! ## An element that is written -/

namespace Acc

variable {a : Acc} {i j i' j' : Nat}

@[simp] theorem mode_put (a : Acc) (i j : Nat) (x : W64) : (a.put i j x).mode = a.mode := rfl
@[simp] theorem status_put (a : Acc) (i j : Nat) (x : W64) : (a.put i j x).status = a.status := rfl
@[simp] theorem mode_flag (a : Acc) (f : AccFlags) : (a.flag f).mode = a.mode := rfl
@[simp] theorem elems_flag (a : Acc) (f : AccFlags) : (a.flag f).elems = a.elems := rfl
@[simp] theorem get_flag (a : Acc) (f : AccFlags) (i j : Nat) : (a.flag f).get i j = a.get i j := rfl
@[simp] theorem status_flag (a : Acc) (f : AccFlags) : (a.flag f).status = a.status ||| f.word := rfl

theorem cols_congr {b : Acc} (h : a.mode = b.mode) : a.cols = b.cols := by
  unfold cols
  rw [h]

theorem rising_put (h : rising a.elems = true) (i j : Nat) (x : W64) : rising (a.put i j x).elems = true := by
  simp only [put]
  split
  · exact rising_remove _ _ h
  · exact rising_insert _ _ _ h

theorem get_put_self (h : rising a.elems = true) (i j : Nat) (x : W64) : (a.put i j x).get i j = x := by
  by_cases hx : (x == 0 && a.undef.isNone) = true
  case pos =>
    have hlook : lookup (a.put i j x).elems (a.cols * i + j) = none := by
      simp only [put, if_pos hx]
      exact lookup_remove_self _ _ h
    simp only [Bool.and_eq_true, beq_iff_eq, Option.isNone_iff_eq_none] at hx
    have hundef : (a.put i j x).undef = none := hx.2
    unfold get
    rw [cols_congr (mode_put a i j x), hlook, hundef, hx.1]
  case neg =>
    have hlook : lookup (a.put i j x).elems (a.cols * i + j) = some x := by
      simp only [put, if_neg hx]
      exact lookup_insert_self _ _ _
    unfold get
    rw [cols_congr (mode_put a i j x), hlook]

theorem get_put_ne (h : rising a.elems = true) (x : W64) (hne : a.cols * i + j ≠ a.cols * i' + j') : (a.put i j x).get i' j' = a.get i' j' := by
  have hlook : lookup (a.put i j x).elems (a.cols * i' + j') = lookup a.elems (a.cols * i' + j') := by
    simp only [put]
    split
    · exact lookup_remove_ne _ _ _ h hne
    · exact lookup_insert_ne _ _ _ _ hne
  unfold get
  rw [cols_congr (mode_put a i j x), hlook]
  rfl

/-- Two places of a block of rows are one only where row and column are. -/
theorem place_ne {w : Nat} (hj : j < w) (hj' : j' < w) (h : i' ≠ i ∨ j' ≠ j) : w * i + j ≠ w * i' + j' := by
  intro he
  have hw : 0 < w := by omega
  have hrow : i = i' := by
    have := congrArg (· / w) he
    simpa [Nat.mul_add_div hw, Nat.div_eq_of_lt hj, Nat.div_eq_of_lt hj'] using this
  subst hrow
  omega

end Acc

/-! ## What changes one element, as a function of that element -/

/-- A change of accumulators of a mode that writes element (i, j) from what it was, and leaves the rest of row i. -/
structure Acc.Writes (m : AccMode) (i j : Nat) (f : Acc → Acc) : Prop where
  mode : ∀ a, (f a).mode = a.mode
  rising : ∀ a, Machine.rising a.elems = true → Machine.rising (f a).elems = true
  other : ∀ a j', a.mode = m → Machine.rising a.elems = true → j < a.cols → j' < a.cols → j' ≠ j → (f a).get i j' = a.get i j'
  here : ∀ a b, a.mode = m → b.mode = m → Machine.rising a.elems = true → Machine.rising b.elems = true → a.get i j = b.get i j →
    (f a).get i j = (f b).get i j

/-- What one row of a product makes of an element. -/
def productCell (m : AccMode) (t : TileData) (segs : List Seg) (n : Nat) (x : W64) : W64 × AccFlags :=
  match m with
  | .i48 => sumI48 t n segs x.toInt
  | _ => (BitVec.ofNat 64 (sumF32 t n segs x.toNat).1, (sumF32 t n segs x.toNat).2)

/-- The flag of an alignment that lost something (R214). -/
def lossFlag (t : TileData) (segs : List Seg) : AccFlags := { AccFlags.none with aloss := t.loss || segs.any (·.loss) }

theorem Acc.product_eq (a : Acc) (t : TileData) (segs : List Seg) (n i j : Nat) : a.product t segs n i j =
    (a.put i j (productCell a.mode t segs n (a.get i j)).1).flag ((productCell a.mode t segs n (a.get i j)).2.or (lossFlag t segs)) := by
  unfold Acc.product productCell
  cases a.mode <;> rfl

/-- The sum that a row of integers adds to an element of column n. -/
def rowSum (t : TileData) (row : List Int) (n : Nat) : Int := (((List.range row.length).zip row).map fun x => x.2 * t.weight x.1 n).sum

theorem foldl_rowSum (t : TileData) (n : Nat) (l : List (Nat × Int)) (p : Int) :
    l.foldl (fun p (k, x) => if x == 0 then p else p + x * t.weight k n) p = p + (l.map fun x => x.2 * t.weight x.1 n).sum := by
  induction l generalizing p with
  | nil => simp
  | cons y l ih =>
    rw [List.foldl_cons, ih, List.map_cons, List.sum_cons]
    by_cases h : y.2 = 0
    · simp [h]
    · simp [h, Int.add_assoc]

theorem Acc.addRow_eq (a : Acc) (t : TileData) (row : List Int) (n i j : Nat) : a.addRow t row n i j =
    (a.put i j (addI48 (a.int i j) (rowSum t row n)).1).flag (addI48 (a.int i j) (rowSum t row n)).2 := by
  unfold Acc.addRow rowSum
  rw [foldl_rowSum, Int.zero_add]

theorem Acc.get_product (a : Acc) (t : TileData) (segs : List Seg) (n i j : Nat) (h : rising a.elems = true) :
    (a.product t segs n i j).get i j = (productCell a.mode t segs n (a.get i j)).1 := by
  rw [a.product_eq, get_flag, get_put_self h]

theorem Acc.get_product_ne {a : Acc} (t : TileData) (segs : List Seg) (n : Nat) {i j i' j' : Nat} (h : rising a.elems = true) (hj : j < a.cols)
    (hj' : j' < a.cols) (hne : i' ≠ i ∨ j' ≠ j) : (a.product t segs n i j).get i' j' = a.get i' j' := by
  rw [a.product_eq, get_flag, get_put_ne h _ (place_ne hj hj' hne)]

theorem Acc.get_addRow (a : Acc) (t : TileData) (row : List Int) (n i j : Nat) (h : rising a.elems = true) :
    (a.addRow t row n i j).get i j = (BitVec.ofInt 48 (a.int i j + rowSum t row n)).signExtend 64 := by
  rw [a.addRow_eq, get_flag, get_put_self h]
  rfl

theorem Acc.get_addRow_ne {a : Acc} (t : TileData) (row : List Int) (n : Nat) {i j i' j' : Nat} (h : rising a.elems = true) (hj : j < a.cols)
    (hj' : j' < a.cols) (hne : i' ≠ i ∨ j' ≠ j) : (a.addRow t row n i j).get i' j' = a.get i' j' := by
  rw [a.addRow_eq, get_flag, get_put_ne h _ (place_ne hj hj' hne)]

theorem Acc.writes_product (m : AccMode) (t : TileData) (segs : List Seg) (n i j : Nat) : Acc.Writes m i j fun a => a.product t segs n i j where
  mode a := by rw [a.product_eq, mode_flag, mode_put]
  rising a h := by
    rw [a.product_eq, elems_flag]
    exact rising_put h ..
  other a j' _ h hj hj' hne := get_product_ne t segs n h hj hj' (.inr hne)
  here a b ha hb hra hrb he := by rw [get_product _ _ _ _ _ _ hra, get_product _ _ _ _ _ _ hrb, ha, hb, he]

theorem Acc.writes_addRow (m : AccMode) (t : TileData) (row : List Int) (n i j : Nat) : Acc.Writes m i j fun a => a.addRow t row n i j where
  mode a := by rw [a.addRow_eq, mode_flag, mode_put]
  rising a h := by
    rw [a.addRow_eq, elems_flag]
    exact rising_put h ..
  other a j' _ h hj hj' hne := get_addRow_ne t row n h hj hj' (.inr hne)
  here a b _ _ hra hrb he := by
    simp only [get_addRow _ _ _ _ _ _ hra, get_addRow _ _ _ _ _ _ hrb, Acc.int, he]

/-! ## The accumulators of a crew, one row of a stream at a time -/

theorem Crew.acc_setAcc_self (c : Crew) {n : Nat} (a : Acc) (h : n < 16) : (c.setAcc n a).acc n = a := by
  simp [Crew.acc, Crew.setAcc, h]

theorem Crew.acc_setAcc_ne (c : Crew) {n k : Nat} (a : Acc) (h : n ≠ k) : (c.setAcc n a).acc k = c.acc k := by
  simp [Crew.acc, Crew.setAcc, h]

/-- Column n of a row of a stream: the accumulator is changed in which it stands, `w` columns to each. -/
def Crew.column (base w : Nat) (f : Nat → Acc → Acc) (c : Crew) (n : Nat) : Crew :=
  c.setAcc (base + n / w) (f n (c.acc (base + n / w)))

section
variable {m : AccMode} {i base w nt : Nat} {f : Nat → Acc → Acc} {c : Crew}

/-- What has become of column n after the first k columns: done, or as it was. -/
structure Crew.Columns (m : AccMode) (i base w : Nat) (f : Nat → Acc → Acc) (c c' : Crew) (k n : Nat) : Prop where
  mode : (c'.acc (base + n / w)).mode = m
  rising : Machine.rising (c'.acc (base + n / w)).elems = true
  value : (c'.acc (base + n / w)).get i (n % w) =
    if n < k then (f n (c.acc (base + n / w))).get i (n % w) else (c.acc (base + n / w)).get i (n % w)

theorem Crew.Columns.step {c' : Crew} {k n : Nat} (hf : ∀ n, Acc.Writes m i (n % w) (f n)) (hw : ∀ a : Acc, a.mode = m → a.cols = w) (hpos : 0 < w)
    (hk : base + k / w < 16) (hck : (c.acc (base + k / w)).mode = m) (hrk : Machine.rising (c.acc (base + k / w)).elems = true)
    (hdone : Crew.Columns m i base w f c c' k k) (hn : Crew.Columns m i base w f c c' k n) :
    Crew.Columns m i base w f c (c'.column base w f k) (k + 1) n := by
  by_cases hplace : base + k / w = base + n / w
  case neg =>
    have hsame : (c'.column base w f k).acc (base + n / w) = c'.acc (base + n / w) := Crew.acc_setAcc_ne _ _ hplace
    have hlt : n < k + 1 ↔ n < k := by
      have : n ≠ k := fun h => hplace (by rw [h])
      omega
    exact ⟨hsame ▸ hn.mode, hsame ▸ hn.rising, by rw [hsame, hn.value]; simp only [hlt]⟩
  case pos =>
    have hacc : (c'.column base w f k).acc (base + n / w) = f k (c'.acc (base + n / w)) := by
      rw [← hplace]
      exact Crew.acc_setAcc_self _ _ hk
    refine ⟨?_, ?_, ?_⟩
    · rw [hacc, (hf k).mode, hn.mode]
    · rw [hacc]
      exact (hf k).rising _ hn.rising
    rw [hacc]
    by_cases hnk : n = k
    · subst hnk
      rw [if_pos (Nat.lt_succ_self n)]
      refine (hf n).here _ _ hdone.mode hck hdone.rising hrk ?_
      rw [hdone.value, if_neg (Nat.lt_irrefl n)]
    · have hcol : n % w ≠ k % w := by
        intro h
        have hdiv : k / w = n / w := by omega
        exact hnk (by rw [← Nat.div_add_mod n w, ← Nat.div_add_mod k w, hdiv, h])
      have hlt : n < k + 1 ↔ n < k := by omega
      have hlow (q : Nat) : q % w < (c'.acc (base + n / w)).cols := (hw _ hn.mode).symm ▸ Nat.mod_lt q hpos
      rw [(hf k).other _ _ hn.mode hn.rising (hlow k) (hlow n) hcol, hn.value]
      simp only [hlt]

/-- A row of a stream changes each of its columns once, from what it was before the row. -/
theorem Crew.columns_get (hf : ∀ n, Acc.Writes m i (n % w) (f n)) (hw : ∀ a : Acc, a.mode = m → a.cols = w) (hpos : 0 < w)
    (hc : ∀ n, n < nt → base + n / w < 16 ∧ (c.acc (base + n / w)).mode = m ∧ rising (c.acc (base + n / w)).elems = true) {n : Nat} (hn : n < nt) :
    (((List.range nt).foldl (Crew.column base w f) c).acc (base + n / w)).get i (n % w) = (f n (c.acc (base + n / w))).get i (n % w) := by
  suffices h : ∀ k, k ≤ nt → ∀ n, n < nt → Crew.Columns m i base w f c ((List.range k).foldl (Crew.column base w f) c) k n by
    rw [(h nt (Nat.le_refl nt) n hn).value, if_pos hn]
  intro k
  induction k with
  | zero => exact fun _ n hn => ⟨(hc n hn).2.1, (hc n hn).2.2, by simp⟩
  | succ k ih =>
    intro hk n hn
    obtain ⟨hplace, hmode, hrising⟩ := hc k hk
    rw [List.range_succ, List.foldl_append]
    exact Crew.Columns.step hf hw hpos hplace hmode hrising (ih (by omega) k hk) (ih (by omega) n hn)

end

/-- A change of a crew of a context. -/
theorem State.crew_setCrew {s : State} {a : Agent} {crew : Nat} {c : Crew} (f : Crew → Crew) (h : (s.ctx a.cid).bind (·.crew crew) = some c) :
    ((s.setCrew a crew f).ctx a.cid).bind (·.crew crew) = some (f c) := by
  obtain ⟨x, hx, hc⟩ := Option.bind_eq_some_iff.1 h
  simp [State.setCrew, hx, hc]

end Sys2Proof.Machine
end

section
/-! SUPPORT. Products of segments: an F32 element takes the segments in turn (R215, R216), and its accumulator the flags (R214, R216). -/

namespace Sys2Proof.Machine

theorem dot_eq_sum (l m : List Int) : dot l m = ((l.zip m).map fun y => y.1 * y.2).sum := by
  induction l generalizing m with
  | nil => simp [dot]
  | cons x l ih => cases m with
    | nil => simp [dot]
    | cons y m => simp [dot, ih]

/-! ## The flags of an accumulator -/

theorem AccFlags.getLsbD_word (f : AccFlags) : f.word.getLsbD 0 = f.aloss ∧ f.word.getLsbD 1 = f.special := by
  obtain ⟨a, b, c, d⟩ := f
  revert a b c d
  decide

@[simp] theorem AccFlags.aloss_or (f g : AccFlags) : (f.or g).aloss = (f.aloss || g.aloss) := rfl
@[simp] theorem AccFlags.special_or (f g : AccFlags) : (f.or g).special = (f.special || g.special) := rfl

theorem segTerm_fst (sg : Seg) (c : List Int) (sc : Scale) : (segTerm sg c sc).1 = if sg.special || sc.special then 0x7FC00000
    else rnd32 ((fp32.value (rnd32 (Fv.ofInt ((sg.ints.zip c).map fun y => y.1 * y.2).sum))).mul (.fin sc.neg sc.mant (sc.exp + sg.exp))) := by
  unfold segTerm
  rw [dot_eq_sum]
  split <;> rfl

theorem segTerm_flags (sg : Seg) (c : List Int) (sc : Scale) :
    (segTerm sg c sc).2.aloss = false ∧ (segTerm sg c sc).2.special = (sg.special || sc.special) := by
  unfold segTerm
  split <;> simp_all [AccFlags.none]

theorem accStep_flags (x t : Nat) : (accStep x t).2.aloss = false ∧ (accStep x t).2.special = false := by
  simp only [accStep]
  split <;> exact ⟨rfl, rfl⟩

/-! ## The segments in turn -/

/-- One segment of an F32 element (R216). -/
def f32Step (t : TileData) (n : Nat) (r : Nat × AccFlags) (y : Nat × Seg) : Nat × AccFlags :=
  let term := segTerm y.2 (t.column y.1 n) (t.scale y.1 n)
  let next := accStep r.1 term.1
  (next.1, (r.2.or term.2).or next.2)

theorem sumF32_append (t : TileData) (n : Nat) (l : List Seg) (sg : Seg) (x : Nat) :
    sumF32 t n (l ++ [sg]) x = f32Step t n (sumF32 t n l x) (l.length, sg) := by
  unfold sumF32
  rw [List.length_append, List.length_singleton, List.range_succ, List.zip_append (List.length_range), List.foldl_append]
  rfl

/-- The element after its first g segments. -/
theorem sumF32_take_succ (t : TileData) (n : Nat) {segs : List Seg} {g : Nat} {sg : Seg} (x : Nat) (h : segs[g]? = some sg) :
    sumF32 t n (segs.take (g + 1)) x = f32Step t n (sumF32 t n (segs.take g) x) (g, sg) := by
  obtain ⟨hg, rfl⟩ := List.getElem?_eq_some_iff.1 h
  rw [← List.take_concat_get' _ _ hg, sumF32_append, List.length_take, Nat.min_eq_left (Nat.le_of_lt hg)]

theorem aloss_sumF32 (t : TileData) (n : Nat) (segs : List Seg) (x : Nat) : (sumF32 t n segs x).2.aloss = false := by
  induction segs using List.reverseRecOn with
  | nil => rfl
  | append_singleton l sg ih => simp [sumF32_append, f32Step, ih, segTerm_flags, accStep_flags]

theorem special_sumF32 (t : TileData) (n : Nat) (segs : List Seg) (x : Nat) : (sumF32 t n segs x).2.special = true ↔
    ∃ g sg, segs[g]? = some sg ∧ (sg.special = true ∨ (t.scale g n).special = true) := by
  induction segs using List.reverseRecOn with
  | nil => simp [sumF32, AccFlags.none]
  | append_singleton l sg ih =>
    simp only [sumF32_append, f32Step, AccFlags.special_or, segTerm_flags, accStep_flags, Bool.or_false, Bool.or_eq_true, ih]
    constructor
    · rintro (⟨g, y, hy, hs⟩ | hs)
      · exact ⟨g, y, List.getElem?_append_left (List.getElem?_eq_some_iff.1 hy).1 ▸ hy, hs⟩
      · exact ⟨l.length, sg, List.getElem?_concat_length, hs⟩
    · rintro ⟨g, y, hy, hs⟩
      rw [List.getElem?_append] at hy
      split at hy
      · exact .inl ⟨g, y, hy, hs⟩
      · have hg : g = l.length := by
          have := (List.getElem?_eq_some_iff.1 hy).1
          simp only [List.length_singleton] at this
          omega
        subst hg
        obtain rfl : sg = y := by simpa using hy
        exact .inr hs

/-! ## An F32 element of a product -/

section
variable {a : Acc} {t : TileData} {segs : List Seg} {n i j : Nat}

theorem Acc.cols_f32 (hm : a.mode = .f32) : a.cols = 64 := by
  unfold Acc.cols
  rw [hm]
  rfl

theorem Acc.cols_i48 (hm : a.mode = .i48) : a.cols = 32 := by
  unfold Acc.cols
  rw [hm]
  rfl

/-- The values of the element after 0, 1, … segments. -/
theorem Acc.product_f32_steps (hm : a.mode = .f32) (hr : rising a.elems = true) :
    ∃ x : Nat → Nat, x 0 = (a.get i j).toNat ∧ (a.product t segs n i j).get i j = BitVec.ofNat 64 (x segs.length) ∧
      ∀ g sg, segs[g]? = some sg →
        let sc : Scale := t.scale g n
        let p : Fv := fp32.value (fp32.ofValue .ieee .rne (Fv.ofInt ((sg.ints.zip (t.column g n)).map fun y => y.1 * y.2).sum))
        let term : Nat := if sg.special || sc.special then 0x7FC00000 else fp32.ofValue .ieee .rne (p.mul (.fin sc.neg sc.mant (sc.exp + sg.exp)))
        x (g + 1) = fp32.ofValue .ieee .rne ((fp32.value (x g)).add .rne (fp32.value term)) := by
  refine ⟨fun g => (sumF32 t n (segs.take g) (a.get i j).toNat).1, rfl, ?_, fun g sg hg => ?_⟩
  · rw [Acc.get_product _ _ _ _ _ _ hr, hm]
    simp only [List.take_length]
    rfl
  · have hstep := congrArg (·.1) (sumF32_take_succ t n (a.get i j).toNat hg)
    simp only [f32Step, accStep, segTerm_fst] at hstep
    exact hstep

theorem Acc.status_product_f32 (hm : a.mode = .f32) : (a.product t segs n i j).status =
    a.status ||| ((sumF32 t n segs (a.get i j).toNat).2.or (lossFlag t segs)).word := by
  rw [Acc.product_eq, hm, status_flag, status_put]
  rfl

theorem Acc.loss_product_f32 (hm : a.mode = .f32) :
    (a.product t segs n i j).status.getLsbD 0 = (a.status.getLsbD 0 || t.loss || segs.any (·.loss)) := by
  rw [status_product_f32 hm, BitVec.getLsbD_or, (AccFlags.getLsbD_word _).1, AccFlags.aloss_or, aloss_sumF32, Bool.false_or, Bool.or_assoc]
  rfl

theorem Acc.special_product_f32 (hm : a.mode = .f32) : (a.product t segs n i j).status.getLsbD 1 = true ↔ a.status.getLsbD 1 = true ∨
    ∃ g sg, segs[g]? = some sg ∧ (sg.special = true ∨ (t.scale g n).special = true) := by
  have hloss : (lossFlag t segs).special = false := rfl
  rw [status_product_f32 hm, BitVec.getLsbD_or, (AccFlags.getLsbD_word _).2, AccFlags.special_or, hloss, Bool.or_false, Bool.or_eq_true,
    special_sumF32]

end

/-! ## Rows of a stream -/

/-- Row i of MMA or MMAG (R336): every element of the row takes the product of what it was. -/
theorem streamUnit_products {s u : State} {a : Agent} {crew i : Nat} {b : XBody} {x : XArg} {mem : Bool} {t : TileData} {row : List Nat} {c : Crew}
    (ht : x.tile b = some t) (hrow : a.streamRow b x t.kt i mem s = (u, .ok row)) (hc : (u.ctx a.cid).bind (·.crew crew) = some c) :
    let w : Nat := (x.acc b).cols
    let place (n : Nat) : Nat := b.xa.toNat + i / 32 * ((t.nt + w - 1) / w) + n / w
    (∀ n, n < t.nt → place n < 16 ∧ (c.acc (place n)).mode = (x.acc b).mode ∧ rising (c.acc (place n)).elems = true) →
    ∃ v c', a.streamUnit crew b x mem i s = (v, .ok (0, 0)) ∧ (v.ctx a.cid).bind (·.crew crew) = some c' ∧ ∀ n, n < t.nt →
      (c'.acc (place n)).get (i % 32) (n % w) =
        ((c.acc (place n)).product t (actRow b.af.toNat t.rk row) n (i % 32) (n % w)).get (i % 32) (n % w) := by
  intro w place hplaces
  have hunit : a.streamUnit crew b x mem i s = (u.setCrew a crew fun c => (List.range t.nt).foldl
      (Crew.column (b.xa.toNat + i / 32 * ((t.nt + w - 1) / w)) w fun n y => y.product t (actRow b.af.toNat t.rk row) n (i % 32) (n % w)) c,
      .ok (0, 0)) := by
    simp only [Agent.streamUnit, ht, hrow, thenDo]
    rfl
  refine ⟨_, _, hunit, State.crew_setCrew _ hc, fun n hn => ?_⟩
  have hpos : 0 < w := by
    unfold w Acc.cols
    split <;> omega
  exact Crew.columns_get (f := fun n y => y.product t _ n (i % 32) (n % w)) (fun n => Acc.writes_product _ _ _ n _ _) (fun _ ha => Acc.cols_congr ha) hpos hplaces hn

/-- A generated row against an FXS tile (R342): every element of the row takes the sum of what it was. -/
theorem integerRow_sums {s : State} {a : Agent} {crew i : Nat} {b : XBody} {t : TileData} {row : List Int} {c : Crew}
    (hc : (s.ctx a.cid).bind (·.crew crew) = some c) :
    let place (n : Nat) : Nat := b.xa.toNat + i / 32 * ((t.nt + 31) / 32) + n / 32
    (∀ n, n < t.nt → place n < 16 ∧ (c.acc (place n)).mode = .i48 ∧ rising (c.acc (place n)).elems = true) →
    ∃ c', ((s.integerRow a crew b t i row).ctx a.cid).bind (·.crew crew) = some c' ∧ ∀ n, n < t.nt →
      (c'.acc (place n)).get (i % 32) (n % 32) = ((c.acc (place n)).addRow t row n (i % 32) (n % 32)).get (i % 32) (n % 32) := by
  intro place hplaces
  refine ⟨_, State.crew_setCrew _ hc, fun n hn => ?_⟩
  exact Crew.columns_get (f := fun n y => y.addRow t row n (i % 32) (n % 32)) (fun n => Acc.writes_addRow _ _ _ n _ _)
    (fun _ ha => Acc.cols_i48 ha) (by omega) hplaces hn

end Sys2Proof.Machine
end

section
/-! SUPPORT. Magnitudes as rational numbers: units, the exponent, and rounding to the nearest number of units (R208). -/

namespace Sys2Proof.Machine

/-! ## The value of a magnitude -/

def Mag.val (m : Mag) : ℚ := (m.num : ℚ) / m.den * 2 ^ m.exp

namespace Mag

variable {m : Mag} {u : Int}

theorem two_zpow_pos (u : Int) : (0 : ℚ) < 2 ^ u := zpow_pos (by norm_num) u

theorem two_zpow_toNat {k : Int} (h : 0 ≤ k) : (2 : ℚ) ^ k.toNat = 2 ^ k := by
  rw [← zpow_natCast, Int.toNat_of_nonneg h]

theorem two_zpow_sub (e u : Int) : (2 : ℚ) ^ (e - u) * 2 ^ u = 2 ^ e := by
  rw [← zpow_add₀ (by norm_num), Int.sub_add_cancel]

theorem val_nonneg (m : Mag) : 0 ≤ m.val := mul_nonneg (div_nonneg (Nat.cast_nonneg _) (Nat.cast_nonneg _)) (two_zpow_pos _).le

theorem val_one (k : Nat) (e : Int) : Mag.val ⟨k, 1, e⟩ = k * 2 ^ e := by simp [val]

theorem scale_den_pos (hd : 0 < m.den) (u : Int) : 0 < (m.scale u).2 := by
  unfold scale
  split
  · exact hd
  · positivity

/-- The numerator over the denominator is the value in units of 2^u. -/
theorem scale_val (hd : 0 < m.den) (u : Int) : ((m.scale u).1 : ℚ) / (m.scale u).2 * 2 ^ u = m.val := by
  have hden : (m.den : ℚ) ≠ 0 := by positivity
  unfold scale val
  split
  case isTrue h =>
    push_cast
    rw [two_zpow_toNat (by omega), mul_div_right_comm, mul_assoc, two_zpow_sub]
  case isFalse h =>
    push_cast
    rw [two_zpow_toNat (by omega), ← div_div, div_mul_eq_mul_div, div_eq_iff (two_zpow_pos _).ne', mul_assoc, mul_comm ((2 : ℚ) ^ m.exp), two_zpow_sub]

/-! ## The exponent -/

theorem scaled_lt_iff {a b : Nat} (hb : 0 < b) (hs : (a : ℚ) / b * 2 ^ u = m.val) : a < b ↔ m.val < 2 ^ u := by
  have hb' : (0 : ℚ) < b := by positivity
  rw [← hs, ← Nat.cast_lt (α := ℚ), ← div_lt_one hb']
  exact ⟨fun h => by simpa using mul_lt_mul_of_pos_right h (two_zpow_pos u), fun h => lt_of_mul_lt_mul_right (by simpa using h) (two_zpow_pos u).le⟩

theorem log2_bounds (k : Nat) (h : 0 < k) : (2 : ℚ) ^ (k.log2 : Int) ≤ k ∧ (k : ℚ) < 2 ^ ((k.log2 : Int) + 1) := by
  constructor
  · exact_mod_cast Nat.log2_self_le (by omega)
  · exact_mod_cast (Nat.lt_log2_self (n := k))

/-- `log2` is the floor of the binary logarithm. -/
theorem log2_spec (hn : 0 < m.num) (hd : 0 < m.den) : (2 : ℚ) ^ m.log2 ≤ m.val ∧ m.val < 2 ^ (m.log2 + 1) := by
  have hden : (0 : ℚ) < m.den := by positivity
  obtain ⟨hn1, hn2⟩ := log2_bounds m.num hn
  obtain ⟨hd1, hd2⟩ := log2_bounds m.den hd
  let l : Int := (m.num.log2 : Int) - m.den.log2
  let r : Mag := ⟨m.num, m.den, 0⟩
  have hr : r.val = (m.num : ℚ) / m.den := by simp [r, val]
  have hval : m.val = r.val * 2 ^ m.exp := by rw [hr, val]
  have hlow : (2 : ℚ) ^ (l - 1) ≤ r.val := by
    rw [hr, le_div_iff₀ hden]
    calc (2 : ℚ) ^ (l - 1) * m.den ≤ 2 ^ (l - 1) * 2 ^ ((m.den.log2 : Int) + 1) := by gcongr
      _ = 2 ^ (m.num.log2 : Int) := by rw [← zpow_add₀ (by norm_num)]; congr 1; omega
      _ ≤ m.num := hn1
  have hhigh : r.val < 2 ^ (l + 1) := by
    rw [hr, div_lt_iff₀ hden]
    calc (m.num : ℚ) < 2 ^ ((m.num.log2 : Int) + 1) := hn2
      _ = 2 ^ (l + 1) * 2 ^ (m.den.log2 : Int) := by rw [← zpow_add₀ (by norm_num)]; congr 1; omega
      _ ≤ 2 ^ (l + 1) * m.den := by gcongr
  have hlt := scaled_lt_iff (scale_den_pos (m := r) hd l) (scale_val (m := r) hd l)
  have hlog : m.log2 = if r.val < 2 ^ l then l - 1 + m.exp else l + m.exp := by
    unfold log2
    simp only [← hlt]
    rfl
  have hshift (p : Int) : (2 : ℚ) ^ (p + m.exp) = 2 ^ p * 2 ^ m.exp := zpow_add₀ (by norm_num) _ _
  have hpos := two_zpow_pos m.exp
  rw [hlog, hval]
  split
  case isTrue h =>
    rw [add_right_comm, hshift, hshift]
    exact ⟨by gcongr, by rw [sub_add_cancel]; gcongr⟩
  case isFalse h =>
    rw [add_right_comm, hshift, hshift]
    exact ⟨by gcongr; exact not_lt.1 h, by gcongr⟩

/-! ## Rounding to the nearest (R208) -/

/-- A quotient rounded to the nearest, ties to even. -/
def nearest (a b : Nat) : Nat := if (b < 2 * (a % b) || (b == 2 * (a % b) && a / b % 2 == 1)) then a / b + 1 else a / b

theorem roundAt_rne (m : Mag) (u : Int) (neg : Bool) : m.roundAt u .rne neg = nearest (m.scale u).1 (m.scale u).2 := rfl

theorem nearest_spec (a : Nat) {b : Nat} (hb : 0 < b) : 2 * |(nearest a b : Int) * b - a| ≤ b ∧
    (2 * |(nearest a b : Int) * b - a| = b → nearest a b % 2 = 0) := by
  have hdiv : (b : Int) * (a / b : Nat) + (a % b : Nat) = a := by exact_mod_cast Nat.div_add_mod a b
  have hmod : a % b < b := Nat.mod_lt a hb
  unfold nearest
  generalize a / b = q at *
  generalize a % b = r at *
  split
  case isTrue h =>
    simp only [Bool.or_eq_true, decide_eq_true_eq, Bool.and_eq_true, beq_iff_eq] at h
    have habs : |((q + 1 : Nat) : Int) * b - a| = b - r := by
      rw [abs_of_nonneg] <;> push_cast <;> linarith
    rw [habs]
    omega
  case isFalse h =>
    simp only [Bool.or_eq_true, decide_eq_true_eq, Bool.and_eq_true, beq_iff_eq] at h
    have habs : |(q : Int) * b - a| = r := by
      rw [abs_of_nonpos] <;> linarith
    rw [habs]
    omega

/-- The distance from a number of units to the value, over the denominator. -/
theorem dist_scaled {a b : Nat} (hb : 0 < b) (hs : (a : ℚ) / b * 2 ^ u = m.val) (q : Nat) :
    |(q : ℚ) * 2 ^ u - m.val| = |((q : Int) * b - a : Int)| * (2 ^ u / b) := by
  have hb' : (0 : ℚ) < b := by positivity
  have hpos := two_zpow_pos u
  have hfac : (q : ℚ) * 2 ^ u - m.val = ((q : Int) * b - a : Int) * (2 ^ u / b) := by
    rw [← hs]
    push_cast
    field_simp
  rw [hfac, abs_mul, abs_of_pos (div_pos hpos hb'), Int.cast_abs]

theorem roundAt_near (hd : 0 < m.den) (u : Int) (neg : Bool) : 2 * |(m.roundAt u .rne neg : ℚ) * 2 ^ u - m.val| ≤ 2 ^ u ∧
    (2 * |(m.roundAt u .rne neg : ℚ) * 2 ^ u - m.val| = 2 ^ u → m.roundAt u .rne neg % 2 = 0) := by
  have hb := scale_den_pos hd u
  have hb' : (0 : ℚ) < (m.scale u).2 := by positivity
  have hpos := two_zpow_pos u
  obtain ⟨hle, heven⟩ := nearest_spec (m.scale u).1 hb
  rw [roundAt_rne, dist_scaled hb (scale_val hd u)]
  have hunit : (2 : ℚ) ^ u = (m.scale u).2 * (2 ^ u / (m.scale u).2) := by field_simp
  have hq : (0 : ℚ) < 2 ^ u / (m.scale u).2 := div_pos hpos hb'
  constructor
  · rw [← mul_assoc]
    conv_rhs => rw [hunit]
    refine mul_le_mul_of_nonneg_right ?_ hq.le
    exact_mod_cast hle
  · intro h
    rw [← mul_assoc] at h
    conv_rhs at h => rw [hunit]
    exact heven (by exact_mod_cast mul_right_cancel₀ hq.ne' h)

theorem exactAt_iff (hd : 0 < m.den) (u : Int) (neg : Bool) : m.exactAt u = true ↔ (m.roundAt u .rne neg : ℚ) * 2 ^ u = m.val := by
  have hb := scale_den_pos hd u
  have hb' : (0 : ℚ) < (m.scale u).2 := by positivity
  have hdist := dist_scaled hb (scale_val hd u) (m.roundAt u .rne neg)
  have hzero : (m.roundAt u .rne neg : ℚ) * 2 ^ u = m.val ↔ (m.roundAt u .rne neg : Int) * (m.scale u).2 = (m.scale u).1 := by
    rw [← sub_eq_zero, ← abs_eq_zero, hdist, mul_eq_zero, or_iff_left (div_pos (two_zpow_pos u) hb').ne', Int.cast_eq_zero, abs_eq_zero, sub_eq_zero]
  rw [hzero, roundAt_rne]
  have hex : m.exactAt u = ((m.scale u).1 % (m.scale u).2 == 0) := rfl
  rw [hex, beq_iff_eq]
  constructor
  · intro h
    have hn : nearest (m.scale u).1 (m.scale u).2 = (m.scale u).1 / (m.scale u).2 := by
      unfold nearest
      rw [if_neg]
      simp only [h, Bool.or_eq_true, decide_eq_true_eq, Bool.and_eq_true, beq_iff_eq]
      omega
    rw [hn]
    exact_mod_cast Nat.div_mul_cancel (Nat.dvd_of_mod_eq_zero h)
  · intro h
    exact Nat.mod_eq_zero_of_dvd ⟨_, by rw [mul_comm]; exact_mod_cast h.symm⟩

end Mag

/-! ## Signs -/

theorem signed_cast (n : Bool) (k : Nat) : ((signed n k : Int) : ℚ) = (if n then -1 else 1) * (k : ℚ) := by
  cases n <;> simp [signed]

theorem Fv.rat_fin (n : Bool) (k : Nat) (e : Int) : (Fv.fin n k e).rat = (if n then -1 else 1) * Mag.val ⟨k, 1, e⟩ := by
  rw [Fv.rat, signed_cast, Mag.val_one, mul_assoc]

theorem abs_sign (n : Bool) (x : ℚ) : |(if n then -1 else 1) * x| = |x| := by
  cases n <;> simp

theorem Fv.abs_rat_fin (n : Bool) (k : Nat) (e : Int) : |(Fv.fin n k e).rat| = Mag.val ⟨k, 1, e⟩ := by
  rw [Fv.rat_fin, abs_sign, abs_of_nonneg (Mag.val_nonneg _)]

theorem signed_mod_two (n : Bool) {k : Nat} (h : k % 2 = 0) : signed n k % 2 = 0 := by
  cases n <;> simp only [signed, if_true, Bool.false_eq_true, if_false] <;> omega

end Sys2Proof.Machine
end

section
/-! SUPPORT. Alignment of a segment (R213, R214): the exponent of its largest element, and every element to the nearest of its units. -/

namespace Sys2Proof.Machine

def Fv.Finite (v : Fv) : Prop := ∃ n m q, v = .fin n m q

/-! ## The parts of an alignment, element by element -/

/-- The largest exponent so far, with one element more. -/
def raised (m : Int) (v : Fv) : Int := match v with
  | .fin _ k e => if k == 0 then m else max m (Mag.log2 ⟨k, 1, e⟩)
  | _ => m

def topExp (vs : List Fv) : Int := vs.foldl raised (-126)

/-- An element in units of 2^x. -/
def alignedTo (x : Int) : Fv → Int
  | .fin n k e => signed n (Mag.roundAt ⟨k, 1, e⟩ x .rne n)
  | _ => 0

def inexactAt (x : Int) : Fv → Bool
  | .fin _ k e => !Mag.exactAt ⟨k, 1, e⟩ x
  | _ => false

def Fv.unbounded : Fv → Bool
  | .fin _ _ _ => false
  | _ => true

section
variable {f : Fmt} {w : Nat} {l : List Nat}

theorem align_exp : (align f w l).exp = topExp (l.map f.value) - (w - 2 : Nat) := rfl
theorem align_ints : (align f w l).ints = (l.map f.value).map (alignedTo (align f w l).exp) := rfl
theorem align_special : (align f w l).special = (l.map f.value).any Fv.unbounded := rfl
theorem align_loss : (align f w l).loss = (l.map f.value).any (inexactAt (align f w l).exp) := rfl

theorem Fv.unbounded_iff (v : Fv) : v.unbounded = true ↔ ¬ v.Finite := by
  cases v <;> simp [Fv.unbounded, Fv.Finite]

theorem alignedTo_not_finite (x : Int) {v : Fv} (h : ¬ v.Finite) : alignedTo x v = 0 := by
  cases v with
  | fin n k e => exact absurd ⟨n, k, e, rfl⟩ h
  | _ => rfl

/-- The distance of an aligned element from the element is that of their magnitudes. -/
theorem abs_alignedTo_sub (x : Int) (n : Bool) (k : Nat) (e : Int) : |(alignedTo x (.fin n k e) : ℚ) * 2 ^ x - (Fv.fin n k e).rat| =
    |(Mag.roundAt ⟨k, 1, e⟩ x .rne n : ℚ) * 2 ^ x - Mag.val ⟨k, 1, e⟩| := by
  rw [alignedTo, signed_cast, Fv.rat_fin, mul_assoc, ← mul_sub, abs_sign]

/-- A finite element goes to the nearest number of units, ties to even. -/
theorem alignedTo_near (x : Int) {v : Fv} (h : v.Finite) : 2 * |(alignedTo x v : ℚ) * 2 ^ x - v.rat| ≤ 2 ^ x ∧
    (2 * |(alignedTo x v : ℚ) * 2 ^ x - v.rat| = 2 ^ x → alignedTo x v % 2 = 0) := by
  obtain ⟨n, k, e, rfl⟩ := h
  obtain ⟨hle, heven⟩ := Mag.roundAt_near (m := ⟨k, 1, e⟩) Nat.one_pos x n
  rw [abs_alignedTo_sub]
  exact ⟨hle, fun h => signed_mod_two n (heven h)⟩

theorem inexactAt_iff (x : Int) (v : Fv) : inexactAt x v = true ↔ v.Finite ∧ (alignedTo x v : ℚ) * 2 ^ x ≠ v.rat := by
  cases v with
  | fin n k e =>
    have hexact := Mag.exactAt_iff (m := ⟨k, 1, e⟩) Nat.one_pos x n
    have hfin : (Fv.fin n k e).Finite := ⟨n, k, e, rfl⟩
    rw [and_iff_right hfin, ← sub_ne_zero, ← abs_ne_zero, abs_alignedTo_sub, abs_ne_zero, sub_ne_zero, ne_eq, ← hexact]
    simp [inexactAt]
  | _ => simp [inexactAt, Fv.Finite]

end

/-! ## The exponent of a segment -/

/-- The exponent is that of an element which is not 0, or where it began. -/
theorem foldl_raised (vs : List Fv) (m : Int) : m ≤ vs.foldl raised m ∧
    (m < vs.foldl raised m → ∃ n k e, Fv.fin n k e ∈ vs ∧ 0 < k ∧ vs.foldl raised m = Mag.log2 ⟨k, 1, e⟩) ∧
    ∀ n k e, Fv.fin n k e ∈ vs → 0 < k → Mag.log2 ⟨k, 1, e⟩ ≤ vs.foldl raised m := by
  induction vs generalizing m with
  | nil => simp
  | cons v vs ih =>
    obtain ⟨hle, hfrom, hall⟩ := ih (raised m v)
    have hv : m ≤ raised m v ∧ (m < raised m v → ∃ n k e, v = .fin n k e ∧ 0 < k ∧ raised m v = Mag.log2 ⟨k, 1, e⟩) ∧
        ∀ n k e, v = .fin n k e → 0 < k → Mag.log2 ⟨k, 1, e⟩ ≤ raised m v := by
      cases v with
      | fin n k e =>
        by_cases hk : k = 0
        · subst hk
          simp only [raised, beq_self_eq_true, if_true, Fv.fin.injEq]
          exact ⟨le_refl m, fun h => absurd h (lt_irrefl m), fun _ _ _ he hpos => by omega⟩
        · simp only [raised, beq_iff_eq, if_neg hk, Fv.fin.injEq]
          refine ⟨le_max_left .., fun h => ⟨n, k, e, ⟨rfl, rfl, rfl⟩, by omega, max_eq_right (by omega)⟩, ?_⟩
          rintro _ _ _ ⟨rfl, rfl, rfl⟩ _
          exact le_max_right ..
      | _ => simp [raised]
    obtain ⟨hvle, hvfrom, hvall⟩ := hv
    rw [List.foldl_cons]
    refine ⟨hvle.trans hle, fun h => ?_, fun n k e hmem hk => ?_⟩
    · rcases hle.lt_or_eq with hlt | heq
      · obtain ⟨n, k, e, hmem, hk, htop⟩ := hfrom hlt
        exact ⟨n, k, e, List.mem_cons_of_mem _ hmem, hk, htop⟩
      · obtain ⟨n, k, e, rfl, hk, htop⟩ := hvfrom (heq ▸ h)
        exact ⟨n, k, e, List.mem_cons_self, hk, heq ▸ htop⟩
    · rcases List.mem_cons.1 hmem with rfl | hmem
      · exact (hvall _ _ _ rfl hk).trans hle
      · exact hall _ _ _ hmem hk

theorem le_topExp (vs : List Fv) : -126 ≤ topExp vs := (foldl_raised vs (-126)).1

theorem exists_of_lt_topExp {vs : List Fv} (h : -126 < topExp vs) : ∃ v ∈ vs, v.Finite ∧ (2 : ℚ) ^ topExp vs ≤ |v.rat| := by
  obtain ⟨n, k, e, hmem, hk, htop⟩ := (foldl_raised vs (-126)).2.1 h
  refine ⟨_, hmem, ⟨n, k, e, rfl⟩, ?_⟩
  rw [Fv.abs_rat_fin, topExp, htop]
  exact (Mag.log2_spec hk Nat.one_pos).1

theorem lt_two_zpow_topExp {vs : List Fv} {v : Fv} (hmem : v ∈ vs) (hv : v.Finite) : |v.rat| < (2 : ℚ) ^ (topExp vs + 1) := by
  obtain ⟨n, k, e, rfl⟩ := hv
  rw [Fv.abs_rat_fin]
  rcases Nat.eq_zero_or_pos k with rfl | hk
  · rw [Mag.val_one, Nat.cast_zero, zero_mul]
    exact Mag.two_zpow_pos _
  · have hle := (foldl_raised vs (-126)).2.2 _ _ _ hmem hk
    calc Mag.val ⟨k, 1, e⟩ < 2 ^ (Mag.log2 ⟨k, 1, e⟩ + 1) := (Mag.log2_spec hk Nat.one_pos).2
      _ ≤ 2 ^ (topExp vs + 1) := zpow_le_zpow_right₀ (by norm_num) (by simpa [topExp] using hle)

/-! ## The alignment -/

/-- What a segment aligned into w bits is: one exponent, and the nearest integers. -/
theorem align_spec (f : Fmt) (w : Nat) (l : List Nat) (hw : 2 ≤ w) :
    let sg : Seg := align f w l
    let unit : ℚ := 2 ^ sg.exp
    sg.ints.length = l.length ∧ (sg.special = true ↔ ∃ n ∈ l, ¬ (f.value n).Finite) ∧
    (∃ top : Int, sg.exp = top - ((w : Int) - 2) ∧ -126 ≤ top ∧ (-126 < top → ∃ n ∈ l, (f.value n).Finite ∧ (2 : ℚ) ^ top ≤ |(f.value n).rat|) ∧
      ∀ n ∈ l, (f.value n).Finite → |(f.value n).rat| < (2 : ℚ) ^ (top + 1)) ∧
    (∀ (i n : Nat) (q : Int), l[i]? = some n → sg.ints[i]? = some q → (¬ (f.value n).Finite → q = 0) ∧
      ((f.value n).Finite → 2 * |(q : ℚ) * unit - (f.value n).rat| ≤ unit ∧ (2 * |(q : ℚ) * unit - (f.value n).rat| = unit → q % 2 = 0))) ∧
    (sg.loss = true ↔ ∃ (i n : Nat) (q : Int), l[i]? = some n ∧ sg.ints[i]? = some q ∧ (f.value n).Finite ∧ (q : ℚ) * unit ≠ (f.value n).rat) := by
  intro sg unit
  have hint (i : Nat) : sg.ints[i]? = l[i]?.map fun n => alignedTo sg.exp (f.value n) := by
    simp only [sg, align_ints, List.getElem?_map, Option.map_map]
    rfl
  refine ⟨?length, ?special, ⟨topExp (l.map f.value), ?exp, le_topExp _, ?top, ?bound⟩, ?near, ?loss⟩
  case length => simp [sg, align_ints]
  case special => simp [sg, align_special, List.any_eq_true, Fv.unbounded_iff]
  case exp =>
    rw [show sg.exp = _ from align_exp]
    omega
  case top => exact fun h => by simpa using exists_of_lt_topExp h
  case bound => exact fun n hn hv => lt_two_zpow_topExp (List.mem_map_of_mem hn) hv
  case near =>
    intro i n q hn hq
    obtain rfl : alignedTo sg.exp (f.value n) = q := by simpa [hint, hn] using hq
    exact ⟨alignedTo_not_finite _, alignedTo_near _⟩
  case loss =>
    have hloss : sg.loss = true ↔ ∃ n ∈ l, inexactAt sg.exp (f.value n) = true := by
      simp only [sg, align_loss, List.any_map, List.any_eq_true]
      rfl
    rw [hloss]
    constructor
    · rintro ⟨n, hn, hx⟩
      obtain ⟨i, hi⟩ := List.mem_iff_getElem?.1 hn
      exact ⟨i, n, _, hi, by rw [hint, hi]; rfl, (inexactAt_iff _ _).1 hx⟩
    · rintro ⟨i, n, q, hn, hq, hfin, hne⟩
      obtain rfl : alignedTo sg.exp (f.value n) = q := by simpa [hint, hn] using hq
      exact ⟨n, List.mem_of_getElem? hn, (inexactAt_iff _ _).2 ⟨hfin, hne⟩⟩

end Sys2Proof.Machine
end

section
/-! SUPPORT. FP32 (R196, R208): the values of its encodings in order, and rounding to the nearest of them. -/

namespace Sys2Proof.Machine

/-! ## The encodings in order -/

/-- The significand and the exponent of a magnitude, as if the exponent field had no end. -/
def f32Mant (k : Nat) : Nat := k - (k / 2 ^ 23 - 1) * 2 ^ 23
def f32Exp (k : Nat) : Int := (k / 2 ^ 23 - 1 : Nat) - 149
def f32Bin (k : Nat) : ℚ := Mag.val ⟨f32Mant k, 1, f32Exp k⟩

theorem f32Bin_eq (k : Nat) : f32Bin k = f32Mant k * 2 ^ f32Exp k := Mag.val_one ..

theorem f32Mant_lt (k : Nat) : f32Mant k < 2 ^ 24 := by
  unfold f32Mant
  omega

theorem f32Mant_eq_zero_iff (k : Nat) : f32Mant k = 0 ↔ k = 0 := by
  unfold f32Mant
  omega

theorem f32Mant_pos {k : Nat} (h : 0 < k) : 0 < f32Mant k := Nat.pos_of_ne_zero fun h0 => h.ne' ((f32Mant_eq_zero_iff k).1 h0)

theorem le_f32Exp (k : Nat) : -149 ≤ f32Exp k := by
  unfold f32Exp
  omega

/-- A significand over an exponent, a renormalisation carried into the exponent field. -/
theorem f32Bin_add {d q : Nat} (hq : q ≤ 2 ^ 24) (h : d = 0 ∨ 2 ^ 23 ≤ q) : f32Bin (q + d * 2 ^ 23) = q * 2 ^ ((d : Int) - 149) := by
  rw [f32Bin_eq]
  rcases Nat.lt_or_eq_of_le hq with hlt | rfl
  · have hfield : (q + d * 2 ^ 23) / 2 ^ 23 - 1 = d := by omega
    have hmant : f32Mant (q + d * 2 ^ 23) = q := by
      unfold f32Mant
      omega
    rw [hmant, f32Exp, hfield]
  · have hfield : (2 ^ 24 + d * 2 ^ 23) / 2 ^ 23 - 1 = d + 1 := by omega
    have hmant : f32Mant (2 ^ 24 + d * 2 ^ 23) = 2 ^ 23 := by
      unfold f32Mant
      omega
    have hexp : (2 : ℚ) ^ (((d + 1 : Nat) : Int) - 149) = 2 * 2 ^ ((d : Int) - 149) := by
      rw [← zpow_one_add₀ (by norm_num)]
      congr 1
      omega
    rw [hmant, f32Exp, hfield, hexp]
    push_cast
    ring

theorem f32Bin_zero : f32Bin 0 = 0 := by
  rw [f32Bin_eq, show f32Mant 0 = 0 from rfl, Nat.cast_zero, zero_mul]

theorem f32Bin_nonneg (k : Nat) : 0 ≤ f32Bin k := Mag.val_nonneg _

theorem f32Bin_strictMono : StrictMono f32Bin := by
  refine strictMono_nat_of_lt_succ fun k => ?_
  have hk : k + 1 = (f32Mant k + 1) + (k / 2 ^ 23 - 1) * 2 ^ 23 := by
    unfold f32Mant
    omega
  have hnorm : k / 2 ^ 23 - 1 = 0 ∨ 2 ^ 23 ≤ f32Mant k + 1 := by
    unfold f32Mant
    omega
  rw [hk, f32Bin_add (f32Mant_lt k) hnorm, f32Bin_eq]
  refine mul_lt_mul_of_pos_right ?_ (Mag.two_zpow_pos _)
  push_cast
  linarith

/-! ## What an encoding stands for -/

theorem f32_value_of_le {n : Nat} (h : n % 2 ^ 31 ≤ 0x7F7FFFFF) :
    fp32.value n = .fin (n / 2 ^ 31 % 2 == 1) (f32Mant (n % 2 ^ 31)) (f32Exp (n % 2 ^ 31)) := by
  have hfin : ¬ fp32.maxFin < n % 2 ^ (fp32.bits - 1) := not_lt.2 h
  have hparts : fp32.value n = if n % 2 ^ 31 / 2 ^ 23 == 0 then .fin (n / 2 ^ 31 % 2 == 1) (n % 2 ^ 31 % 2 ^ 23) (-149)
      else .fin (n / 2 ^ 31 % 2 == 1) (2 ^ 23 + n % 2 ^ 31 % 2 ^ 23) (((n % 2 ^ 31 / 2 ^ 23 : Nat) : Int) - 127 - 23) := by
    unfold Fmt.value
    simp only [hfin, decide_false, Bool.and_false, Bool.false_eq_true, if_false]
    rfl
  rw [hparts]
  generalize n % 2 ^ 31 = k
  unfold f32Mant f32Exp
  split
  case isTrue h0 =>
    rw [beq_iff_eq] at h0
    congr 1 <;> omega
  case isFalse h0 =>
    rw [beq_iff_eq] at h0
    congr 1 <;> omega

theorem f32_value_of_lt {n : Nat} (h : 0x7F7FFFFF < n % 2 ^ 31) :
    fp32.value n = if n % 2 ^ 31 = 0x7F800000 then .inf (n / 2 ^ 31 % 2 == 1) else .nan := by
  have hfin : fp32.maxFin < n % 2 ^ (fp32.bits - 1) := h
  have hparts : fp32.value n = if n % 2 ^ 31 % 2 ^ 23 == 0 then .inf (n / 2 ^ 31 % 2 == 1) else .nan := by
    unfold Fmt.value
    simp only [hfin, decide_true, Bool.and_true, if_true]
    rfl
  have hfrac : n % 2 ^ 31 % 2 ^ 23 = 0 ↔ n % 2 ^ 31 = 0x7F800000 := by omega
  rw [hparts]
  simp only [beq_iff_eq, hfrac]

theorem f32_finite_iff (n : Nat) : (fp32.value n).Finite ↔ n % 2 ^ 31 ≤ 0x7F7FFFFF := by
  constructor
  · rintro ⟨s, m, e, h⟩
    by_contra hlt
    rw [f32_value_of_lt (not_le.1 hlt)] at h
    split at h <;> exact absurd h (by simp)
  · exact fun h => ⟨_, _, _, f32_value_of_le h⟩

theorem f32_rat {n : Nat} (h : n % 2 ^ 31 ≤ 0x7F7FFFFF) :
    (fp32.value n).rat = (if (n / 2 ^ 31 % 2 == 1) = true then -1 else 1) * f32Bin (n % 2 ^ 31) := by
  rw [f32_value_of_le h, Fv.rat_fin]
  rfl

theorem f32_sign_mod (s : Bool) {k : Nat} (h : k < 2 ^ 31) : fp32.sign s k % 2 ^ 31 = k := by
  have hb : fp32.sign s k = if s then 2 ^ 31 + k else k := rfl
  cases s <;> simp only [hb, Bool.false_eq_true, if_false, if_true] <;> omega

theorem f32_sign_top (s : Bool) {k : Nat} (h : k < 2 ^ 31) : (fp32.sign s k / 2 ^ 31 % 2 == 1) = s := by
  have hb : fp32.sign s k = if s then 2 ^ 31 + k else k := rfl
  cases s <;> simp only [hb, Bool.false_eq_true, if_false, if_true, beq_iff_eq, beq_eq_false_iff_ne] <;> omega

theorem f32_sign_lt (s : Bool) {k : Nat} (h : k < 2 ^ 31) : fp32.sign s k < 2 ^ 32 := by
  have hb : fp32.sign s k = if s then 2 ^ 31 + k else k := rfl
  cases s <;> simp only [hb, Bool.false_eq_true, if_false, if_true] <;> omega

/-! ## Rounding (R208) -/

/-- The exponent that a magnitude is rounded under, and the encoding that rounding gives before overflow applies. -/
def f32Scale (m : Mag) : Int := max m.log2 (-126)
def f32Code (m : Mag) : Nat := m.roundAt (f32Scale m - 23) .rne false + (f32Scale m + 126).toNat * 2 ^ 23

theorem f32_round (s : Bool) (m : Mag) : fp32.round .ieee .rne s m =
    if 0x7F7FFFFF < f32Code m then fp32.infinity s else fp32.sign s (f32Code m) := by
  have hscale : (if m.log2 < -126 then (-126 : Int) else m.log2) = f32Scale m := by
    unfold f32Scale
    split <;> omega
  have hcode : fp32.round .ieee .rne s m =
      let e := if m.log2 < -126 then (-126 : Int) else m.log2
      let k := m.roundAt (e - 23) .rne false + (e - -126).toNat * 2 ^ 23
      if 0x7F7FFFFF < k then fp32.infinity s else fp32.sign s k := rfl
  rw [hcode]
  simp only [hscale]
  rfl

theorem rnd32_fin (s : Bool) {m : Nat} (e : Int) (h : 0 < m) : rnd32 (.fin s m e) = fp32.round .ieee .rne s ⟨m, 1, e⟩ := by
  rw [rnd32, Fmt.ofValue]
  exact h.ne'

theorem two_zpow_split (k : Nat) (e : Int) : (2 : ℚ) ^ k * 2 ^ (e - k) = 2 ^ e := by
  rw [← zpow_natCast, ← zpow_add₀ (by norm_num), add_sub_cancel]

/-- A number of units that is within half a unit is as near as any other. -/
theorem near_multiple {p q : Int} {x v : ℚ} (hx : 0 < x) (h : 2 * |q * x - v| ≤ x) : |q * x - v| ≤ |p * x - v| := by
  rcases eq_or_ne p q with rfl | hne
  · exact le_refl _
  · have hone : (1 : ℚ) ≤ |(p : ℚ) - q| := by exact_mod_cast Int.one_le_abs (sub_ne_zero.2 hne)
    have htri : |(p : ℚ) - q| * x ≤ |p * x - v| + |q * x - v| := by
      calc |(p : ℚ) - q| * x = |(p * x - v) - (q * x - v)| := by rw [← abs_of_pos hx, ← abs_mul, abs_of_pos hx]; ring_nf
        _ ≤ _ := abs_sub _ _
    nlinarith

section
variable {m : Mag}

theorem f32Scale_spec (hn : 0 < m.num) (hd : 0 < m.den) :
    -126 ≤ f32Scale m ∧ (-126 < f32Scale m → (2 : ℚ) ^ f32Scale m ≤ m.val) ∧ m.val < 2 ^ (f32Scale m + 1) := by
  obtain ⟨hlow, hhigh⟩ := Mag.log2_spec hn hd
  refine ⟨le_max_right .., fun h => ?_, hhigh.trans_le (zpow_le_zpow_right₀ (by norm_num) (by unfold f32Scale; omega))⟩
  have hlog : f32Scale m = m.log2 := by
    unfold f32Scale at h ⊢
    omega
  rwa [hlog]

/-- The significand fits its 24 bits, and is normal above the least exponent. -/
theorem f32_significand (hn : 0 < m.num) (hd : 0 < m.den) : m.roundAt (f32Scale m - 23) .rne false ≤ 2 ^ 24 ∧
    (-126 < f32Scale m → 2 ^ 23 ≤ m.roundAt (f32Scale m - 23) .rne false) := by
  obtain ⟨_, hlow, hhigh⟩ := f32Scale_spec hn hd
  have hnear := abs_le.1 ((le_div_iff₀' two_pos).2 (Mag.roundAt_near hd (f32Scale m - 23) false).1)
  generalize m.roundAt (f32Scale m - 23) .rne false = q at *
  have hx := Mag.two_zpow_pos (f32Scale m - 23)
  have hbase : (2 : ℚ) ^ 23 * 2 ^ (f32Scale m - 23) = 2 ^ f32Scale m := two_zpow_split 23 _
  have htop : (2 : ℚ) ^ (f32Scale m + 1) = 2 * 2 ^ f32Scale m := by rw [zpow_add_one₀ (by norm_num), mul_comm]
  constructor
  · have hlt : (q : ℚ) < (2 ^ 24 + 1 : Nat) := by
      refine lt_of_mul_lt_mul_right ?_ hx.le
      push_cast
      linarith
    exact Nat.lt_succ_iff.1 (Nat.cast_lt.1 hlt)
  · intro h
    have hlt : ((2 ^ 23 : Nat) : ℚ) < (q + 1 : Nat) := by
      refine lt_of_mul_lt_mul_right ?_ hx.le
      push_cast
      linarith [hlow h]
    exact Nat.lt_succ_iff.1 (Nat.cast_lt.1 hlt)

/-- The encoding stands for the nearest number of units. -/
theorem f32Bin_code (hn : 0 < m.num) (hd : 0 < m.den) :
    f32Bin (f32Code m) = (m.roundAt (f32Scale m - 23) .rne false : Int) * 2 ^ (f32Scale m - 23) := by
  obtain ⟨hq, hnormal⟩ := f32_significand hn hd
  have hmin := (f32Scale_spec hn hd).1
  rw [f32Code, f32Bin_add hq]
  · push_cast
    congr 2
    omega
  · by_cases h : -126 < f32Scale m
    · exact .inr (hnormal h)
    · exact .inl (by omega)

/-- Every encoding at or above the exponent's power of two, and every one at the least exponent, is a number of units. -/
theorem f32Bin_multiple {k : Nat} {e : Int} (h : e = -126 ∨ (2 : ℚ) ^ e ≤ f32Bin k) : ∃ p : Int, f32Bin k = p * 2 ^ (e - 23) := by
  have hexp : e - 23 ≤ f32Exp k := by
    rcases h with rfl | h
    · exact le_f32Exp k
    · have hmant : (f32Mant k : ℚ) < 2 ^ (24 : Int) := by exact_mod_cast f32Mant_lt k
      have hlt : (2 : ℚ) ^ e < 2 ^ (24 + f32Exp k) := by
        rw [zpow_add₀ (by norm_num)]
        exact h.trans_lt (f32Bin_eq k ▸ mul_lt_mul_of_pos_right hmant (Mag.two_zpow_pos _))
      have := (zpow_lt_zpow_iff_right₀ (by norm_num)).1 hlt
      omega
  refine ⟨f32Mant k * 2 ^ (f32Exp k - (e - 23)).toNat, ?_⟩
  push_cast
  rw [Mag.two_zpow_toNat (by omega), mul_assoc, Mag.two_zpow_sub, f32Bin_eq]

/-- No encoding is nearer to a magnitude than the one that rounding gives. -/
theorem f32Code_nearest (hn : 0 < m.num) (hd : 0 < m.den) (k : Nat) : |f32Bin (f32Code m) - m.val| ≤ |f32Bin k - m.val| := by
  obtain ⟨hmin, hlow, _⟩ := f32Scale_spec hn hd
  have hnear (p : Int) : |f32Bin (f32Code m) - m.val| ≤ |p * 2 ^ (f32Scale m - 23) - m.val| := by
    rw [f32Bin_code hn hd]
    exact near_multiple (Mag.two_zpow_pos _) (by exact_mod_cast (Mag.roundAt_near hd (f32Scale m - 23) false).1)
  by_cases h : f32Scale m = -126 ∨ (2 : ℚ) ^ f32Scale m ≤ f32Bin k
  case pos =>
    obtain ⟨p, hp⟩ := f32Bin_multiple h
    rw [hp]
    exact hnear p
  case neg =>
    obtain ⟨hne, hlt⟩ := not_or.1 h
    have hle := hlow (by omega)
    have hpow : ((2 ^ 23 : Int) : ℚ) * 2 ^ (f32Scale m - 23) = 2 ^ f32Scale m := by
      rw [Int.cast_pow, Int.cast_ofNat]
      exact two_zpow_split 23 _
    calc |f32Bin (f32Code m) - m.val| ≤ |2 ^ f32Scale m - m.val| := hpow ▸ hnear (2 ^ 23)
      _ = m.val - 2 ^ f32Scale m := by rw [abs_sub_comm, abs_of_nonneg (sub_nonneg.2 hle)]
      _ ≤ m.val - f32Bin k := by linarith [not_le.1 hlt]
      _ ≤ |f32Bin k - m.val| := by rw [abs_sub_comm]; exact le_abs_self _

end

/-- An encoding's own magnitude rounds to it. -/
theorem f32Code_self {k : Nat} (h : 0 < k) : f32Code ⟨f32Mant k, 1, f32Exp k⟩ = k := by
  have hnear := f32Code_nearest (m := ⟨f32Mant k, 1, f32Exp k⟩) (f32Mant_pos h) Nat.one_pos k
  refine f32Bin_strictMono.injective (sub_eq_zero.1 (abs_nonpos_iff.1 (hnear.trans ?_)))
  rw [show Mag.val ⟨f32Mant k, 1, f32Exp k⟩ = f32Bin k from rfl, sub_self, abs_zero]

/-- Rounding a value of FP32 that is not 0 gives it back. -/
theorem rnd32_self (s : Bool) {k : Nat} (h : 0 < k) (hk : k ≤ 0x7F7FFFFF) : rnd32 (.fin s (f32Mant k) (f32Exp k)) = fp32.sign s k := by
  rw [rnd32_fin s _ (f32Mant_pos h), f32_round, f32Code_self h, if_neg (not_lt.2 hk)]

/-- With its sign, an encoding that rounding gives is as near as any other. -/
theorem f32Code_nearest_signed {m : Mag} (hn : 0 < m.num) (hd : 0 < m.den) (s t : Bool) (k : Nat) :
    |(if s then -1 else 1) * f32Bin (f32Code m) - (if s then -1 else 1) * m.val| ≤
      |(if t then -1 else 1) * f32Bin k - (if s then -1 else 1) * m.val| := by
  rw [← mul_sub, abs_sign]
  by_cases hst : t = s
  · subst hst
    rw [← mul_sub, abs_sign]
    exact f32Code_nearest hn hd k
  · have hflip : (if t then (-1 : ℚ) else 1) * f32Bin k = (if s then -1 else 1) * -f32Bin k := by
      rw [Bool.eq_not.2 hst]
      cases s <;> simp
    have hval := Mag.val_nonneg m
    have hbin := f32Bin_nonneg k
    rw [hflip, ← mul_sub, abs_sign]
    calc |f32Bin (f32Code m) - m.val| ≤ |f32Bin 0 - m.val| := f32Code_nearest hn hd 0
      _ = m.val := by rw [f32Bin_zero, zero_sub, abs_neg, abs_of_nonneg hval]
      _ ≤ f32Bin k + m.val := by linarith
      _ = |-f32Bin k - m.val| := by rw [← neg_add', abs_neg, abs_of_nonneg (by linarith)]

end Sys2Proof.Machine
end

section
/-! SUPPORT. Exact operations on finite values (R281, R282): products, sums and comparisons as rational numbers. -/

namespace Sys2Proof.Machine

/-! ## Products and sums -/

theorem signed_natAbs (x : Int) : signed (decide (x < 0)) x.natAbs = x := by
  by_cases h : x < 0 <;> simp only [signed, h, decide_true, decide_false, if_true, Bool.false_eq_true, if_false] <;> omega

theorem Fv.finite_fin (n : Bool) (m : Nat) (e : Int) : (Fv.fin n m e).Finite := ⟨n, m, e, rfl⟩

theorem Fv.rat_ofInt (x : Int) : (Fv.ofInt x).rat = x := by
  rw [Fv.ofInt, Fv.rat, signed_natAbs, zpow_zero, mul_one]

theorem Fv.finite_ofInt (x : Int) : (Fv.ofInt x).Finite := Fv.finite_fin _ _ _

theorem sign_bne (n n' : Bool) : (if n != n' then (-1 : ℚ) else 1) = (if n then -1 else 1) * if n' then -1 else 1 := by
  cases n <;> cases n' <;> norm_num

theorem Fv.mul_finite {a b : Fv} (ha : a.Finite) (hb : b.Finite) : (a.mul b).Finite ∧ (a.mul b).rat = a.rat * b.rat := by
  obtain ⟨n, m, e, rfl⟩ := ha
  obtain ⟨n', m', e', rfl⟩ := hb
  refine ⟨Fv.finite_fin _ _ _, ?_⟩
  rw [Fv.mul, Fv.rat_fin, Fv.rat_fin, Fv.rat_fin, Mag.val_one, Mag.val_one, Mag.val_one, zpow_add₀ (by norm_num), sign_bne, Nat.cast_mul]
  ring

/-- A finite value in units of an exponent that is not above its own. -/
theorem Fv.rat_shift (n : Bool) (m : Nat) {e lo : Int} (h : lo ≤ e) :
    ((signed n (m * 2 ^ (e - lo).toNat) : Int) : ℚ) * 2 ^ lo = (Fv.fin n m e).rat := by
  rw [signed_cast, Fv.rat, signed_cast]
  push_cast
  rw [Mag.two_zpow_toNat (by omega), mul_assoc, mul_assoc, mul_assoc, Mag.two_zpow_sub]

/-- The least exponent of two finite values. -/
def lowExp (e e' : Int) : Int := if e ≤ e' then e else e'

theorem lowExp_le (e e' : Int) : lowExp e e' ≤ e ∧ lowExp e e' ≤ e' := by
  unfold lowExp
  split <;> omega

theorem Fv.add_finite (r : Rnd) {a b : Fv} (ha : a.Finite) (hb : b.Finite) : (a.add r b).Finite ∧ (a.add r b).rat = a.rat + b.rat := by
  obtain ⟨n, m, e, rfl⟩ := ha
  obtain ⟨n', m', e', rfl⟩ := hb
  obtain ⟨h, h'⟩ := lowExp_le e e'
  let x : Int := signed n (m * 2 ^ (e - lowExp e e').toNat) + signed n' (m' * 2 ^ (e' - lowExp e e').toNat)
  have hx : (x : ℚ) * 2 ^ lowExp e e' = (Fv.fin n m e).rat + (Fv.fin n' m' e').rat := by
    rw [Int.cast_add, add_mul, Fv.rat_shift n m h, Fv.rat_shift n' m' h']
  have hadd : (Fv.fin n m e).add r (.fin n' m' e') = if x == 0 then .fin (if m == 0 && m' == 0 && n == n' then n else r.zeroNeg) 0 0
      else .fin (x < 0) x.natAbs (lowExp e e') := rfl
  rw [hadd]
  by_cases h0 : x = 0
  · rw [if_pos (beq_iff_eq.2 h0)]
    refine ⟨Fv.finite_fin _ _ _, ?_⟩
    rw [← hx, h0, Fv.rat_fin, Mag.val_one]
    simp
  · rw [if_neg (by simpa using h0)]
    refine ⟨Fv.finite_fin _ _ _, ?_⟩
    rw [← hx, Fv.rat, signed_natAbs]

/-! ## Comparisons -/

theorem Fv.cmp_finite {a b : Fv} (ha : a.Finite) (hb : b.Finite) : (a.cmp b < 0 ↔ a.rat < b.rat) ∧ (a.cmp b = 0 ↔ a.rat = b.rat) := by
  obtain ⟨n, m, e, rfl⟩ := ha
  obtain ⟨n', m', e', rfl⟩ := hb
  obtain ⟨h, h'⟩ := lowExp_le e e'
  let x : Int := signed n (m * 2 ^ (e - lowExp e e').toNat) - signed n' (m' * 2 ^ (e' - lowExp e e').toNat)
  have hx : (x : ℚ) * 2 ^ lowExp e e' = (Fv.fin n m e).rat - (Fv.fin n' m' e').rat := by
    rw [Int.cast_sub, sub_mul, Fv.rat_shift n m h, Fv.rat_shift n' m' h']
  have hpos := Mag.two_zpow_pos (lowExp e e')
  have hcmp : (Fv.fin n m e).cmp (.fin n' m' e') = if x < 0 then -1 else if x == 0 then 0 else 1 := rfl
  have hlt : x < 0 ↔ (Fv.fin n m e).rat < (Fv.fin n' m' e').rat := by
    rw [← sub_neg (a := (Fv.fin n m e).rat), ← hx]
    exact ⟨fun h => mul_neg_of_neg_of_pos (Int.cast_lt_zero.2 h) hpos, fun h => Int.cast_lt_zero.1 (neg_of_mul_neg_left h hpos.le)⟩
  have heq : x = 0 ↔ (Fv.fin n m e).rat = (Fv.fin n' m' e').rat := by
    rw [← sub_eq_zero (a := (Fv.fin n m e).rat), ← hx, mul_eq_zero, or_iff_left hpos.ne', Int.cast_eq_zero]
  rw [hcmp, ← hlt, ← heq]
  clear_value x
  rcases lt_trichotomy x 0 with h | h | h
  · rw [if_pos h]
    exact ⟨by simp [h], by simp [h.ne]⟩
  · rw [if_neg h.not_lt, if_pos (beq_iff_eq.2 h)]
    exact ⟨by simp [h], by simp [h]⟩
  · rw [if_neg h.not_gt, if_neg (by simpa using h.ne')]
    exact ⟨by simp [h.le], by simp [h.ne']⟩

theorem Fv.finite_not_nan {a : Fv} (h : a.Finite) : a.isNan = false := by
  obtain ⟨_, _, _, rfl⟩ := h
  rfl

/-- Where two finite values differ, `fvLess` says which is less; of two equal ones it may name either. -/
theorem fvLess_finite {a b : Fv} (ha : a.Finite) (hb : b.Finite) : (fvLess a b = true → a.rat ≤ b.rat) ∧ (fvLess a b = false → b.rat ≤ a.rat) := by
  obtain ⟨hlt, heq⟩ := Fv.cmp_finite ha hb
  constructor
  · intro h
    simp only [fvLess, Bool.or_eq_true, decide_eq_true_eq, Bool.and_eq_true, beq_iff_eq, hlt, heq] at h
    rcases h with h | h
    · exact h.le
    · exact h.1.le
  · intro h
    simp only [fvLess, Bool.or_eq_false_iff, decide_eq_false_iff_not, hlt] at h
    exact not_lt.1 h.1

theorem fvMax_finite {a b : Fv} (ha : a.Finite) (hb : b.Finite) : (fvMax a b).Finite ∧ (fvMax a b).rat = max a.rat b.rat := by
  obtain ⟨hle, hge⟩ := fvLess_finite ha hb
  rw [fvMax, Fv.finite_not_nan ha, Fv.finite_not_nan hb]
  cases h : fvLess a b with
  | true => exact ⟨hb, (max_eq_right (hle h)).symm⟩
  | false => exact ⟨ha, (max_eq_left (hge h)).symm⟩

theorem fvMin_finite {a b : Fv} (ha : a.Finite) (hb : b.Finite) : (fvMin a b).Finite ∧ (fvMin a b).rat = min a.rat b.rat := by
  obtain ⟨hle, hge⟩ := fvLess_finite hb ha
  rw [fvMin, Fv.finite_not_nan ha, Fv.finite_not_nan hb]
  cases h : fvLess b a with
  | true => exact ⟨hb, (min_eq_right (hle h)).symm⟩
  | false => exact ⟨ha, (min_eq_left (hge h)).symm⟩

/-! ## The order of FP32 values (R282) -/

/-- The value that a rank stands for, -0 and +0 alike, as if the exponent field had no end. -/
def rankVal (r : Int) : ℚ := if r < 0 then -f32Bin r.natAbs else f32Bin r.natAbs

theorem rankVal_strictMono : StrictMono rankVal := by
  intro r r' h
  have hzero {k : Nat} (hk : 0 < k) : 0 < f32Bin k := f32Bin_zero ▸ f32Bin_strictMono hk
  unfold rankVal
  split
  case isTrue hr =>
    split
    case isTrue hr' => exact neg_lt_neg (f32Bin_strictMono (by omega))
    case isFalse hr' => exact (neg_neg_of_pos (hzero (by omega))).trans_le (f32Bin_nonneg _)
  case isFalse hr =>
    rw [if_neg (by omega)]
    exact f32Bin_strictMono (by omega)

theorem f32Rank_eq (x : W32) : f32Rank x = if (x.toNat / 2 ^ 31 % 2 == 1) = true then -((x.toNat % 2 ^ 31 : Nat) : Int) else (x.toNat % 2 ^ 31 : Nat) := by
  have htop : x.getLsbD 31 = (x.toNat / 2 ^ 31 % 2 == 1) := by
    rw [BitVec.getLsbD, Nat.testBit, Nat.shiftRight_eq_div_pow, Nat.one_and_eq_mod_two]
    rcases Nat.mod_two_eq_zero_or_one (x.toNat / 2 ^ 31) with h | h <;> rw [h] <;> rfl
  have hlow : (x.extractLsb' 0 31).toNat = x.toNat % 2 ^ 31 := by simp
  rw [f32Rank, htop, hlow]

theorem rat_eq_rankVal {x : W32} (h : x.toNat % 2 ^ 31 ≤ 0x7F7FFFFF) : (fp32.value x.toNat).rat = rankVal (f32Rank x) := by
  rw [f32_rat h, f32Rank_eq]
  generalize x.toNat % 2 ^ 31 = k
  cases (x.toNat / 2 ^ 31 % 2 == 1) with
  | false =>
    rw [if_neg (by simp), if_neg (by simp), one_mul, rankVal, if_neg (by omega), Int.natAbs_natCast]
  | true =>
    rw [if_pos rfl, if_pos rfl, neg_one_mul, rankVal, Int.natAbs_neg, Int.natAbs_natCast]
    rcases Nat.eq_zero_or_pos k with rfl | hk
    · simp [f32Bin_zero]
    · rw [if_pos (by omega)]

theorem natAbs_f32Rank (x : W32) : (f32Rank x).natAbs = x.toNat % 2 ^ 31 := by
  rw [f32Rank_eq]
  split
  · rw [Int.natAbs_neg, Int.natAbs_natCast]
  · rw [Int.natAbs_natCast]

/-- The values that are no NaN and not finite: the infinities, at either end of the ranks. -/
theorem f32_value_inf {x : W32} (hx : x.toNat % 2 ^ 31 ≤ 0x7F800000) (h : ¬ x.toNat % 2 ^ 31 ≤ 0x7F7FFFFF) :
    ∃ s : Bool, fp32.value x.toNat = .inf s ∧ f32Rank x = if s then -0x7F800000 else 0x7F800000 := by
  have he : x.toNat % 2 ^ 31 = 0x7F800000 := by omega
  exact ⟨_, by rw [f32_value_of_lt (not_le.1 h), if_pos he], by rw [f32Rank_eq, he]; rfl⟩

/-- Values that are no NaN compare as their ranks do. -/
theorem f32_cmp {x y : W32} (hx : x.toNat % 2 ^ 31 ≤ 0x7F800000) (hy : y.toNat % 2 ^ 31 ≤ 0x7F800000) :
    ((fp32.value x.toNat).cmp (fp32.value y.toNat) < 0 ↔ f32Rank x < f32Rank y) ∧
    ((fp32.value x.toNat).cmp (fp32.value y.toNat) = 0 ↔ f32Rank x = f32Rank y) := by
  have hxabs := natAbs_f32Rank x
  have hyabs := natAbs_f32Rank y
  by_cases hfx : x.toNat % 2 ^ 31 ≤ 0x7F7FFFFF <;> by_cases hfy : y.toNat % 2 ^ 31 ≤ 0x7F7FFFFF
  · obtain ⟨hlt, heq⟩ := Fv.cmp_finite ((f32_finite_iff _).2 hfx) ((f32_finite_iff _).2 hfy)
    rw [hlt, heq, rat_eq_rankVal hfx, rat_eq_rankVal hfy]
    exact ⟨rankVal_strictMono.lt_iff_lt, rankVal_strictMono.injective.eq_iff⟩
  · obtain ⟨s, hv, hrank⟩ := f32_value_inf hy hfy
    have hcmp : (fp32.value x.toNat).cmp (fp32.value y.toNat) = if s then 1 else -1 := by rw [hv, f32_value_of_le hfx]; rfl
    rw [hcmp, hrank]
    cases s <;> simp only [Bool.false_eq_true, if_false, if_true] <;> omega
  · obtain ⟨s, hv, hrank⟩ := f32_value_inf hx hfx
    have hcmp : (fp32.value x.toNat).cmp (fp32.value y.toNat) = if s then -1 else 1 := by rw [hv, f32_value_of_le hfy]; rfl
    rw [hcmp, hrank]
    cases s <;> simp only [Bool.false_eq_true, if_false, if_true] <;> omega
  · obtain ⟨s, hv, hrank⟩ := f32_value_inf hx hfx
    obtain ⟨s', hv', hrank'⟩ := f32_value_inf hy hfy
    rw [hv, hv', hrank, hrank']
    clear hv hv' hrank hrank'
    revert s s'
    decide

theorem f32_isNan_iff (x : W32) : (fp32.value x.toNat).isNan = true ↔ 0x7F800000 < x.toNat % 2 ^ 31 := by
  by_cases h : x.toNat % 2 ^ 31 ≤ 0x7F7FFFFF
  · rw [f32_value_of_le h]
    simp only [Fv.isNan, Bool.false_eq_true, false_iff]
    omega
  · rw [f32_value_of_lt (not_le.1 h)]
    split <;> simp only [Fv.isNan, Bool.false_eq_true, false_iff, true_iff] <;> omega

/-- Which candidate replaces an entry (R346). -/
theorem passes_iff {le : Bool} {z : W32} {id seq : Nat} {x : Entry96} (hz : (z.extractLsb' 0 31).toNat ≤ 0x7F800000) :
    let d : W32 := x.extractLsb' 0 32
    let xid : Nat := (x.extractLsb' 32 32).toNat
    let xseq : Nat := (x.extractLsb' 64 32).toNat
    passes le z id seq x = true ↔ 0x7F800000 < (d.extractLsb' 0 31).toNat ∨ f32Rank z < f32Rank d ∨
      (f32Rank z = f32Rank d ∧ ((if le then xseq < seq else seq < xseq) ∨ (seq = xseq ∧ id < xid))) := by
  intro d xid xseq
  have hlow (y : W32) : (y.extractLsb' 0 31).toNat = y.toNat % 2 ^ 31 := by simp
  rw [hlow] at hz ⊢
  have hle : (if le then decide (xseq < seq) else decide (seq < xseq)) = true ↔ if le then xseq < seq else seq < xseq := by
    cases le <;> simp
  have hpass : passes le z id seq x = true ↔ (fp32.value d.toNat).isNan = true ∨ (fp32.value z.toNat).cmp (fp32.value d.toNat) < 0 ∨
      ((fp32.value z.toNat).cmp (fp32.value d.toNat) = 0 ∧ ((if le then xseq < seq else seq < xseq) ∨ (seq = xseq ∧ id < xid))) := by
    simp only [passes, Bool.or_eq_true, Bool.and_eq_true, decide_eq_true_eq, beq_iff_eq, or_assoc]
    simp only [← hle]
    rfl
  rw [hpass, f32_isNan_iff]
  by_cases hd : 0x7F800000 < d.toNat % 2 ^ 31
  · exact iff_of_true (.inl hd) (.inl hd)
  · obtain ⟨hlt, heq⟩ := f32_cmp hz (not_lt.1 hd)
    rw [hlt, heq]

end Sys2Proof.Machine
end

section
/-! SUPPORT. The depth of a sample (R339, R346): the exact sum of edge values times vertex depths, divided by the signed area and rounded once. -/

namespace Sys2Proof.Machine

/-- The word that the Resolver stores for a depth: -0 as +0. -/
def depthWord : Fv → Option W32
  | .fin n m e => some (if m == 0 then 0 else BitVec.ofNat 32 (rnd32 (.fin n m e)))
  | .inf n => some (f32Inf n)
  | .nan => none

/-- The sum that is divided by the area. -/
def depthSum (acc : Acc) (p j z0 z1 z2 : Nat) : Fv :=
  let e (k : Nat) : Fv := Fv.ofInt (acc.int (3 * p + k) j)
  Fv.add .rne (Fv.add .rne ((e 1).mul (fp32.value z0)) ((e 2).mul (fp32.value z1))) ((e 0).mul (fp32.value z2))

section
variable {acc : Acc} {p j : Nat} {r : Prim} {z0 z1 z2 : Nat}

theorem depthAt_finite (hz : r.zs = [z0, z1, z2]) (h0 : (fp32.value z0).Finite) (h1 : (fp32.value z1).Finite) (h2 : (fp32.value z2).Finite) :
    depthAt acc p j r = depthWord (quotient (depthSum acc p j z0 z1 z2) (r.area < 0) r.area.natAbs 1) := by
  obtain ⟨_, _, _, e0⟩ := h0
  obtain ⟨_, _, _, e1⟩ := h1
  obtain ⟨_, _, _, e2⟩ := h2
  simp only [depthAt, depthSum, hz, List.getElem?_cons_zero, List.getElem?_cons_succ, Option.getD_some, e0, e1, e2]
  rfl

theorem depthAt_not_finite (hz : r.zs = [z0, z1, z2]) (h : ¬ ((fp32.value z0).Finite ∧ (fp32.value z1).Finite ∧ (fp32.value z2).Finite)) :
    depthAt acc p j r = none := by
  simp only [depthAt, hz, List.getElem?_cons_zero, List.getElem?_cons_succ, Option.getD_some]
  split
  case h_1 e0 e1 e2 => exact absurd ⟨⟨_, _, _, e0⟩, ⟨_, _, _, e1⟩, ⟨_, _, _, e2⟩⟩ h
  case h_2 => rfl

theorem depthSum_finite (h0 : (fp32.value z0).Finite) (h1 : (fp32.value z1).Finite) (h2 : (fp32.value z2).Finite) :
    (depthSum acc p j z0 z1 z2).Finite ∧ (depthSum acc p j z0 z1 z2).rat =
      acc.int (3 * p + 1) j * (fp32.value z0).rat + acc.int (3 * p + 2) j * (fp32.value z1).rat + acc.int (3 * p) j * (fp32.value z2).rat := by
  obtain ⟨m0, r0⟩ := Fv.mul_finite (Fv.finite_ofInt (acc.int (3 * p + 1) j)) h0
  obtain ⟨m1, r1⟩ := Fv.mul_finite (Fv.finite_ofInt (acc.int (3 * p + 2) j)) h1
  obtain ⟨m2, r2⟩ := Fv.mul_finite (Fv.finite_ofInt (acc.int (3 * p + 0) j)) h2
  obtain ⟨ma, ra⟩ := Fv.add_finite .rne m0 m1
  obtain ⟨mb, rb⟩ := Fv.add_finite .rne ma m2
  refine ⟨mb, ?_⟩
  rw [depthSum, rb, ra, r0, r1, r2, Fv.rat_ofInt, Fv.rat_ofInt, Fv.rat_ofInt]
  rfl

end

/-! ## The quotient, rounded once -/

/-- A word that a depth is stored as: never -0, and as near to the depth as any other finite word. -/
structure DepthOf (w : W32) (z : ℚ) : Prop where
  notNegZero : w ≠ 0x80000000
  zero : z = 0 → w = 0
  nearest : f32Finite w → ∀ y, f32Finite y → |f32Rat w - z| ≤ |f32Rat y - z|

theorem f32Rat_zero : f32Rat 0 = 0 := by
  rw [f32Rat, rat_eq_rankVal (by decide), show f32Rank 0 = 0 by decide, rankVal, if_neg (lt_irrefl 0)]
  exact f32Bin_zero

/-- What a depth that is not 0 is stored as, by the encoding of its magnitude. -/
theorem depthWord_round (s : Bool) (m : Mag) : ∃ w,
    depthWord (fp32.value (fp32.round .ieee .rne s m)) = some w ∧ w ≠ 0x80000000 ∧
      (f32Finite w → f32Rat w = (if s then -1 else 1) * f32Bin (f32Code m)) := by
  rw [f32_round]
  by_cases hover : 0x7F7FFFFF < f32Code m
  · have hval : fp32.value (fp32.infinity s) = .inf s := by cases s <;> rfl
    rw [if_pos hover, hval]
    refine ⟨f32Inf s, rfl, by cases s <;> decide, fun hfin => absurd ((f32_finite_iff _).1 hfin) ?_⟩
    cases s <;> decide
  · have hle := not_lt.1 hover
    have hlt : f32Code m < 2 ^ 31 := by omega
    have hmod := f32_sign_mod s hlt
    rw [if_neg hover, f32_value_of_le (by rwa [hmod]), hmod, f32_sign_top s hlt]
    rcases Nat.eq_zero_or_pos (f32Code m) with h0 | hpos
    · refine ⟨0, ?_, by decide, fun _ => by rw [h0, f32Bin_zero, mul_zero, f32Rat_zero]⟩
      rw [h0, depthWord, show f32Mant 0 = 0 from rfl]
      rfl
    · have hmant : (f32Mant (f32Code m) == 0) = false := by simpa using (f32Mant_pos hpos).ne'
      have hnat : (BitVec.ofNat 32 (fp32.sign s (f32Code m))).toNat = fp32.sign s (f32Code m) := by
        rw [BitVec.toNat_ofNat, Nat.mod_eq_of_lt (f32_sign_lt s hlt)]
      refine ⟨BitVec.ofNat 32 (fp32.sign s (f32Code m)), ?_, fun h => ?_, fun _ => ?_⟩
      · rw [depthWord, hmant, rnd32_self s hpos hle]
        rfl
      · have := congrArg (·.toNat % 2 ^ 31) h
        simp only [hnat, hmod] at this
        exact absurd this (by simpa using hpos.ne')
      · rw [f32Rat, hnat, f32_rat (by rwa [hmod]), hmod, f32_sign_top s hlt]

/-- An exact value over an integer that is not 0, stored as a depth. -/
theorem depthWord_quotient {a : Fv} (ha : a.Finite) {area : Int} (harea : area ≠ 0) :
    ∃ w, depthWord (quotient a (area < 0) area.natAbs 1) = some w ∧ DepthOf w (a.rat / area) := by
  obtain ⟨n, m, e, rfl⟩ := ha
  rcases Nat.eq_zero_or_pos m with rfl | hm
  · have hz : (Fv.fin n 0 e).rat / area = 0 := by rw [Fv.rat_fin, Mag.val_one, Nat.cast_zero, zero_mul, mul_zero, zero_div]
    refine ⟨0, rfl, by decide, fun _ => rfl, fun _ y _ => ?_⟩
    rw [hz, f32Rat_zero, sub_self, abs_zero]
    exact abs_nonneg _
  have hden : 0 < area.natAbs := Int.natAbs_pos.2 harea
  have hquot : quotient (.fin n m e) (area < 0) area.natAbs 1 = fp32.value (fp32.round .ieee .rne (n != decide (area < 0)) ⟨m, area.natAbs, e⟩) := by
    rw [quotient, if_neg (by simpa using hm.ne'), Nat.mul_one]
  have hz : (Fv.fin n m e).rat / area = (if n != decide (area < 0) then -1 else 1) * Mag.val ⟨m, area.natAbs, e⟩ := by
    have harea' : ((area.natAbs : Nat) : ℚ) = if area < 0 then -(area : ℚ) else area := by
      rw [Nat.cast_natAbs]
      split
      · rw [abs_of_neg ‹_›, Int.cast_neg]
      · rw [abs_of_nonneg (by omega)]
    rw [Fv.rat_fin, Mag.val_one, Mag.val]
    simp only [harea']
    by_cases h : area < 0 <;> cases n <;> simp [h] <;> ring
  have hpos : 0 < Mag.val ⟨m, area.natAbs, e⟩ := mul_pos (div_pos (Nat.cast_pos.2 hm) (Nat.cast_pos.2 hden)) (Mag.two_zpow_pos e)
  obtain ⟨w, hw, hne, hrat⟩ := depthWord_round (n != decide (area < 0)) ⟨m, area.natAbs, e⟩
  refine ⟨w, hquot ▸ hw, hne, fun h0 => ?_, fun hfin y hy => ?_⟩
  · rw [hz] at h0
    refine absurd h0 (mul_ne_zero ?_ hpos.ne')
    split <;> norm_num
  · rw [hrat hfin, hz, f32Rat, f32_rat ((f32_finite_iff _).1 hy)]
    exact f32Code_nearest_signed hm hden _ _ _

/-- The depth of sample j of primitive p (R346). -/
theorem depthAt_spec {acc : Acc} {p j : Nat} {r : Prim} {z0 z1 z2 : Nat} (hz : r.zs = [z0, z1, z2]) :
    let all : Prop := (fp32.value z0).Finite ∧ (fp32.value z1).Finite ∧ (fp32.value z2).Finite
    (¬ all → depthAt acc p j r = none) ∧
    (all → r.area ≠ 0 → ∃ w, depthAt acc p j r = some w ∧ w ≠ 0x80000000 ∧
      let z : ℚ := (acc.int (3 * p + 1) j * (fp32.value z0).rat + acc.int (3 * p + 2) j * (fp32.value z1).rat + acc.int (3 * p) j * (fp32.value z2).rat) / r.area
      (z = 0 → w = 0) ∧ (f32Finite w → ∀ y, f32Finite y → |f32Rat w - z| ≤ |f32Rat y - z|)) := by
  refine ⟨depthAt_not_finite hz, ?_⟩
  rintro ⟨h0, h1, h2⟩ harea
  obtain ⟨hsum, hrat⟩ := depthSum_finite (acc := acc) (p := p) (j := j) h0 h1 h2
  obtain ⟨w, hw, hne, hzero, hnear⟩ := depthWord_quotient hsum harea
  rw [hrat] at hzero hnear
  exact ⟨w, by rw [depthAt_finite hz h0 h1 h2, hw], hne, hzero, hnear⟩

end Sys2Proof.Machine
end

section
/-! SUPPORT. The slots of the Resolver: their entries, and the entries that a primitive's samples replace (R345 to R347). -/

namespace Sys2Proof.Machine

/-! ## Entries -/

theorem rising_setEntry {l : List (Nat × Entry96)} (h : rising l = true) (k : Nat) (x : Entry96) : rising (setEntry l k x) = true := by
  unfold setEntry
  split
  · exact rising_remove _ _ h
  · exact rising_insert _ _ _ h

theorem entryAt_setEntry {l : List (Nat × Entry96)} (h : rising l = true) (k j : Nat) (x : Entry96) :
    entryAt (setEntry l k x) j = if j = k then x else entryAt l j := by
  unfold entryAt setEntry
  by_cases hj : j = k
  · subst hj
    rw [if_pos rfl]
    split
    case isTrue hx => rw [lookup_remove_self _ _ h, eq_of_beq hx, Option.getD_none]
    case isFalse => rw [lookup_insert_self, Option.getD_some]
  · rw [if_neg hj]
    split
    · rw [lookup_remove_ne _ _ _ h (Ne.symm hj)]
    · rw [lookup_insert_ne _ _ _ _ (Ne.symm hj)]

theorem State.slotEntries_setSlot {s : State} (h : Machine.rising s.resolver = true) (key : Nat) (l : List (Nat × Entry96)) :
    (s.setSlot key l).slotEntries key = l := by
  unfold State.slotEntries State.setSlot
  by_cases hl : l.isEmpty = true
  · rw [if_pos hl, lookup_remove_self _ _ h, Option.getD_none, List.isEmpty_iff.1 hl]
  · rw [if_neg hl, lookup_insert_self, Option.getD_some]

theorem lookup_range'_map {α : Type} (x : α) (n a k : Nat) (h : a ≤ k) (hk : k < a + n) :
    lookup ((List.range' a n).map fun j => (j, x)) k = some x := by
  induction n generalizing a with
  | zero => omega
  | succ n ih =>
    rw [List.range'_succ, List.map_cons, lookup]
    by_cases hak : a = k
    · rw [if_pos (beq_iff_eq.2 hak)]
    · rw [if_neg (by simpa using hak), if_neg (by omega)]
      exact ih (a + 1) (by omega) (by omega)

/-! ## Samples that may each replace one entry -/

/-- One sample: where it lands, the entry may give way to what the sample offers. -/
def offerStep (lands : Nat → Bool) (key : Nat → Nat) (offer : Nat → Entry96 → Option Entry96) (y : List (Nat × Entry96) × Nat) (j : Nat) :
    List (Nat × Entry96) × Nat :=
  if lands j then match offer j (entryAt y.1 (key j)) with
    | some x => (setEntry y.1 (key j) x, y.2 + 1)
    | none => y
  else y

section
variable {lands : Nat → Bool} {key : Nat → Nat} {offer : Nat → Entry96 → Option Entry96} {l : List (Nat × Entry96)}

/-- What the first k samples leave: the entries that they replaced, counted, and the others as they were. -/
structure Offered (lands : Nat → Bool) (key : Nat → Nat) (offer : Nat → Entry96 → Option Entry96) (l : List (Nat × Entry96)) (k : Nat)
    (y : List (Nat × Entry96) × Nat) : Prop where
  rising : Machine.rising y.1 = true
  count : y.2 = (List.range k).countP fun j => lands j && (offer j (entryAt l (key j))).isSome
  missed : ∀ e, (∀ j, j < k → lands j = true → key j ≠ e) → entryAt y.1 e = entryAt l e
  hit : ∀ j, j < k → lands j = true → entryAt y.1 (key j) = (offer j (entryAt l (key j))).getD (entryAt l (key j))

theorem Offered.step {y : List (Nat × Entry96) × Nat} {k : Nat}
    (hinj : ∀ i j, lands i = true → lands j = true → key i = key j → i = j) (h : Offered lands key offer l k y) :
    Offered lands key offer l (k + 1) (offerStep lands key offer y k) := by
  unfold offerStep
  by_cases hland : lands k = true
  case neg =>
    rw [if_neg hland]
    have hlt {j : Nat} (hj : j < k + 1) (hl : lands j = true) : j < k := Nat.lt_of_le_of_ne (Nat.le_of_lt_succ hj) fun he => hland (he ▸ hl)
    refine ⟨h.rising, ?_, fun e he => h.missed e fun j hj => he j (by omega), fun j hj hl => h.hit j (hlt hj hl) hl⟩
    simp [List.range_succ, hland, h.count]
  have hold : entryAt y.1 (key k) = entryAt l (key k) :=
    h.missed _ fun j hj hl he => (hinj j k hl hland he ▸ hj : k < k).ne rfl
  have hother {j : Nat} (hj : j < k) (hl : lands j = true) : key j ≠ key k := fun he => hj.ne (hinj j k hl hland he)
  rw [if_pos hland, hold]
  cases hoffer : offer k (entryAt l (key k)) with
  | none =>
    refine ⟨h.rising, ?_, fun e he => h.missed e fun j hj => he j (by omega), fun j hj hl => ?_⟩
    · simp [List.range_succ, hoffer, h.count]
    · rcases Nat.lt_succ_iff_lt_or_eq.1 hj with hj | rfl
      · exact h.hit j hj hl
      · simp [hoffer, hold]
  | some x =>
    refine ⟨rising_setEntry h.rising _ _, ?_, fun e he => ?_, fun j hj hl => ?_⟩
    · simp [List.range_succ, hoffer, hland, h.count]
    · rw [entryAt_setEntry h.rising, if_neg (he k (Nat.lt_succ_self k) hland).symm]
      exact h.missed e fun j hj => he j (by omega)
    · rcases Nat.lt_succ_iff_lt_or_eq.1 hj with hj | rfl
      · rw [entryAt_setEntry h.rising, if_neg (hother hj hl)]
        exact h.hit j hj hl
      · rw [entryAt_setEntry h.rising, if_pos rfl, hoffer, Option.getD_some]

/-- Samples that land on entries of their own each meet the entry that stood before. -/
theorem offered (hinj : ∀ i j, lands i = true → lands j = true → key i = key j → i = j) (hl : rising l = true) (k : Nat) :
    Offered lands key offer l k ((List.range k).foldl (offerStep lands key offer) (l, 0)) := by
  induction k with
  | zero => exact ⟨hl, rfl, fun _ _ => rfl, fun j hj => absurd hj (by omega)⟩
  | succ k ih =>
    rw [List.range_succ, List.foldl_append]
    exact ih.step hinj

end

/-! ## The samples of a primitive (R346) -/

def sampleX (bx j : Nat) : Nat := bx + 4 * (j / 16) + j % 4
def sampleY (by_ j : Nat) : Nat := by_ + j % 16 / 4
def sampleKey (bx by_ j : Nat) : Nat := 32 * sampleY by_ j + sampleX bx j

def sampleLands (acc : Acc) (r : Raster) (p bx by_ j : Nat) : Bool := sampleX bx j < 32 && sampleY by_ j < 32 && acc.covered r p j

/-- The entry that a sample puts in the place of an entry it beats. -/
def sampleOffer (acc : Acc) (pr : Prim) (le : Bool) (p j : Nat) (old : Entry96) : Option Entry96 :=
  (depthAt acc p j pr).bind fun z =>
    if passes le z pr.id pr.seq old then some (BitVec.ofNat 96 (z.toNat + 2 ^ 32 * pr.id + 2 ^ 64 * pr.seq)) else none

theorem sampleLands_iff {acc : Acc} {r : Raster} {p bx by_ j : Nat} :
    sampleLands acc r p bx by_ j = true ↔ sampleX bx j < 32 ∧ sampleY by_ j < 32 ∧ acc.covered r p j = true := by
  simp [sampleLands, and_assoc]

theorem sampleKey_inj {acc : Acc} {r : Raster} {p bx by_ i j : Nat} (hi : sampleLands acc r p bx by_ i = true)
    (hj : sampleLands acc r p bx by_ j = true) (h : sampleKey bx by_ i = sampleKey bx by_ j) : i = j := by
  obtain ⟨hi, _, _⟩ := sampleLands_iff.1 hi
  obtain ⟨hj, _, _⟩ := sampleLands_iff.1 hj
  unfold sampleKey at h
  unfold sampleX sampleY at *
  omega

/-- The entries of a slot, and how many were replaced, after the samples of a primitive. -/
def resolvedSlot (acc : Acc) (r : Raster) (pr : Prim) (le : Bool) (p bx by_ : Nat) (l : List (Nat × Entry96)) : List (Nat × Entry96) × Nat :=
  (List.range r.samples).foldl (offerStep (sampleLands acc r p bx by_) (sampleKey bx by_) (sampleOffer acc pr le p)) (l, 0)

theorem resolveUnit_eq {s u : State} {a : Agent} {b : XBody} {x : XArg} {le : Bool} {p v bx by_ : Nat} {r : Raster} {t : TileData}
    (ht : x.tile b = some t) (ho : t.origin = some (bx, by_)) (hr : (x.acc b).raster = some r)
    (hget : a.get .any (x.va + off64 (48 * p)) 48 s = (u, .ok v)) :
    a.resolveUnit b x le p s = (u.setSlot (a.slotKey x) (resolvedSlot (x.acc b) r (primOf v) le p bx by_ (u.slotEntries (a.slotKey x))).1,
      .ok (0, (resolvedSlot (x.acc b) r (primOf v) le p bx by_ (u.slotEntries (a.slotKey x))).2)) := by
  simp only [Agent.resolveUnit, ht, Option.bind_some, ho, hr, hget, thenDo]
  generalize hfold : List.foldl _ _ _ = w
  have hz : resolvedSlot (x.acc b) r (primOf v) le p bx by_ (u.slotEntries (a.slotKey x)) = w := by
    rw [← hfold]
    refine List.foldl_ext _ _ _ fun y j _ => ?_
    unfold offerStep sampleOffer
    refine if_congr Iff.rfl ?_ rfl
    cases depthAt (x.acc b) p j (primOf v) with
    | none => rfl
    | some d =>
      rw [Option.bind_some]
      by_cases hpass : passes le d (primOf v).id (primOf v).seq (entryAt y.1 (sampleKey bx by_ j)) = true
      · rw [if_pos hpass]
        exact (if_pos hpass).symm
      · rw [if_neg hpass]
        exact (if_neg hpass).symm
  rw [hz]
  rfl

/-- What RSLV.lt and RSLV.le leave in a slot, and how many entries they have updated (R345, R346). -/
theorem resolveUnit_spec {s u : State} {a : Agent} {b : XBody} {x : XArg} {le : Bool} {p y bx by_ : Nat} {r : Raster} {t : TileData}
    (ht : x.tile b = some t) (ho : t.origin = some (bx, by_)) (hr : (x.acc b).raster = some r)
    (hget : a.get .any (x.va + off64 (48 * p)) 48 s = (u, .ok y)) (hslots : rising u.resolver = true)
    (hentries : rising (u.slotEntries (a.slotKey x)) = true) :
    let acc : Acc := x.acc b
    let pr : Prim := primOf y
    let old (k : Nat) : Entry96 := entryAt (u.slotEntries (a.slotKey x)) k
    let hit (j k : Nat) : Prop := j < r.samples ∧ bx + 4 * (j / 16) + j % 4 < 32 ∧ by_ + j % 16 / 4 < 32 ∧
      k = 32 * (by_ + j % 16 / 4) + (bx + 4 * (j / 16) + j % 4) ∧ acc.covered r p j = true
    let won (j : Nat) : Bool := bx + 4 * (j / 16) + j % 4 < 32 && by_ + j % 16 / 4 < 32 && acc.covered r p j && match depthAt acc p j pr with
      | some z => passes le z pr.id pr.seq (old (32 * (by_ + j % 16 / 4) + (bx + 4 * (j / 16) + j % 4)))
      | none => false
    ∃ v, a.resolveUnit b x le p s = (v, .ok (0, (List.range r.samples).countP won)) ∧ ∀ k,
      ((∀ j, ¬ hit j k) → entryAt (v.slotEntries (a.slotKey x)) k = old k) ∧
      (∀ j, hit j k → entryAt (v.slotEntries (a.slotKey x)) k = match depthAt acc p j pr with
        | some z => if passes le z pr.id pr.seq (old k) = true then BitVec.ofNat 96 (z.toNat + 2 ^ 32 * pr.id + 2 ^ 64 * pr.seq) else old k
        | none => old k) := by
  intro acc pr old hit won
  have h : Offered (sampleLands acc r p bx by_) (sampleKey bx by_) (sampleOffer acc pr le p) (u.slotEntries (a.slotKey x)) r.samples
      (resolvedSlot acc r pr le p bx by_ (u.slotEntries (a.slotKey x))) := offered (fun _ _ => sampleKey_inj) hentries r.samples
  have hwon : won = fun j => sampleLands acc r p bx by_ j && (sampleOffer acc pr le p j (old (sampleKey bx by_ j))).isSome := by
    funext j
    refine congrArg (sampleLands acc r p bx by_ j && ·) ?_
    unfold sampleOffer
    cases depthAt acc p j pr with
    | none => rfl
    | some z =>
      rw [Option.bind_some]
      change passes le z pr.id pr.seq (old (sampleKey bx by_ j)) = _
      split
      · assumption
      · exact Bool.eq_false_iff.2 ‹_›
  refine ⟨u.setSlot (a.slotKey x) (resolvedSlot acc r pr le p bx by_ (u.slotEntries (a.slotKey x))).1, ?_, fun k => ?_⟩
  · rw [resolveUnit_eq ht ho hr hget, h.count, hwon]
  rw [State.slotEntries_setSlot hslots]
  constructor
  · intro hmiss
    refine h.missed k fun j hj hland he => hmiss j ?_
    obtain ⟨hx, hy, hc⟩ := sampleLands_iff.1 hland
    exact ⟨hj, hx, hy, he.symm, hc⟩
  · rintro j ⟨hj, hx, hy, rfl, hc⟩
    refine (h.hit j hj (sampleLands_iff.2 ⟨hx, hy, hc⟩)).trans ?_
    unfold sampleOffer
    cases depthAt acc p j pr with
    | none => rfl
    | some z =>
      rw [Option.bind_some]
      change Option.getD (if passes le z pr.id pr.seq (old (sampleKey bx by_ j)) = true then _ else none) (old (sampleKey bx by_ j)) =
        if passes le z pr.id pr.seq (old (sampleKey bx by_ j)) = true then _ else old (sampleKey bx by_ j)
      split <;> rfl

/-! ## RSLV.clr, .ld and .rd (R347) -/

theorem entryAt_clearSlot {s : State} {a : Agent} {x : XArg} (hslots : rising s.resolver = true) {k : Nat} (hk : k < 1024) :
    entryAt ((s.clearSlot a.core x).slotEntries (a.slotKey x)) k = BitVec.ofNat 96 (low32 x.va + 2 ^ 32 * (2 ^ 64 - 1)) := by
  have hclear : s.clearSlot a.core x = s.setSlot (a.slotKey x)
      ((List.range 1024).map fun k => (k, BitVec.ofNat 96 (low32 x.va + 2 ^ 32 * (2 ^ 64 - 1)))) := rfl
  rw [hclear, State.slotEntries_setSlot hslots, entryAt, List.range_eq_range', lookup_range'_map _ _ _ _ (Nat.zero_le k) (by omega), Option.getD_some]

theorem slotIn_spec {s u : State} {a : Agent} {x : XArg} {y k : Nat} (hslots : rising s.resolver = true)
    (hentries : rising (s.slotEntries (a.slotKey x)) = true) (hget : a.get .memoryOnly (x.va + off64 (12 * k)) 12 s = (u, .ok y))
    (hsame : u.resolver = s.resolver) : ∃ v, a.slotIn x k s = (v, .ok (0, 1)) ∧
      ∀ j, entryAt (v.slotEntries (a.slotKey x)) j = if j = k then BitVec.ofNat 96 y else entryAt (s.slotEntries (a.slotKey x)) j := by
  have hkept : u.slotEntries (a.slotKey x) = s.slotEntries (a.slotKey x) := by
    unfold State.slotEntries
    rw [hsame]
  refine ⟨u.setSlot (a.slotKey x) (setEntry (u.slotEntries (a.slotKey x)) k (BitVec.ofNat 96 y)), ?_, fun j => ?_⟩
  · unfold Agent.slotIn
    rw [hget]
    rfl
  · rw [State.slotEntries_setSlot (hsame ▸ hslots), hkept, entryAt_setEntry hentries]

end Sys2Proof.Machine
end

section
/-! SUPPORT. Stationary tiles: the weights and the scales that packed columns expand to (R212, R213, R327). -/

namespace Sys2Proof.Machine

/-! ## Lists of keys and values, put together -/

section
variable {α β : Type}

theorem lookup_append_left {l l' : List (Nat × α)} {k : Nat} (h : ∀ c ∈ l', k < c.1) : lookup (l ++ l') k = lookup l k := by
  induction l with
  | nil =>
    cases l' with
    | nil => rfl
    | cons c l' =>
      have hc := h c List.mem_cons_self
      simp [lookup, hc.ne', hc]
  | cons c l ih => rw [List.cons_append, lookup, lookup, ih]

theorem lookup_append_right {l l' : List (Nat × α)} {k : Nat} (h : ∀ c ∈ l, c.1 < k) : lookup (l ++ l') k = lookup l' k := by
  induction l with
  | nil => rfl
  | cons c l ih =>
    have hc := h c List.mem_cons_self
    rw [List.cons_append, lookup, if_neg (by simpa using hc.ne), if_neg (by omega)]
    exact ih fun d hd => h d (List.mem_cons_of_mem _ hd)

/-- Entry n of a list of columns, each with keys of its own, is looked up in column n. -/
theorem lookup_columns {g : Nat → β → List (Nat × α)} {B : Nat} {l : List β}
    (hg : ∀ y ∈ l, ∀ n, ∀ c ∈ g n y, B * n ≤ c.1 ∧ c.1 < B * (n + 1)) {k : Nat} (hk : k < B) (a n : Nat) (ha : a ≤ n) :
    lookup (((List.range' a l.length).zip l).flatMap fun p => g p.1 p.2) (B * n + k) =
      (l[n - a]?).bind fun y => lookup (g n y) (B * n + k) := by
  induction l generalizing a with
  | nil => rfl
  | cons y l ih =>
    have hrest := ih (fun z hz => hg z (List.mem_cons_of_mem _ hz))
    rw [List.length_cons, List.range'_succ, List.zip_cons_cons, List.flatMap_cons]
    rcases Nat.eq_or_lt_of_le ha with rfl | hlt
    · rw [lookup_append_left, Nat.sub_self, List.getElem?_cons_zero, Option.bind_some]
      intro c hc
      obtain ⟨⟨m, z⟩, hmem, hc⟩ := List.mem_flatMap.1 hc
      obtain ⟨hm, hz⟩ := List.of_mem_zip hmem
      have hm : a + 1 ≤ m := (List.mem_range'_1.1 hm).1
      have hkey := (hg z (List.mem_cons_of_mem _ hz) m c hc).1
      have hmul : B * (a + 1) ≤ B * m := Nat.mul_le_mul_left B hm
      rw [Nat.mul_succ] at hmul
      omega
    · rw [lookup_append_right, hrest (a + 1) hlt, show n - a = (n - (a + 1)) + 1 by omega, List.getElem?_cons_succ]
      intro c hc
      have hkey := (hg y List.mem_cons_self a c hc).2
      have hmul : B * (a + 1) ≤ B * n := Nat.mul_le_mul_left B hlt
      omega

theorem keyed_cons (keep : α → Bool) (a : Nat) (x : α) (l : List α) :
    keyed keep a (x :: l) = (if keep x then [(a, x)] else []) ++ keyed keep (a + 1) l := by
  unfold keyed
  rw [List.length_cons, List.range_succ_eq_map, List.zip_cons_cons, List.filterMap_cons, List.zip_map_left, List.filterMap_map]
  have hshift : ((fun p : Nat × α => if keep p.2 then some (a + p.1, p.2) else none) ∘ Prod.map Nat.succ id) =
      fun p : Nat × α => if keep p.2 then some (a + 1 + p.1, p.2) else none := by
    funext p
    simp [Nat.succ_eq_add_one, Nat.add_comm, Nat.add_left_comm]
  rw [hshift]
  by_cases h : keep x = true <;> simp [h]

theorem mem_keyed {keep : α → Bool} {a : Nat} {l : List α} {c : Nat × α} (h : c ∈ keyed keep a l) : a ≤ c.1 ∧ c.1 < a + l.length := by
  induction l generalizing a with
  | nil => exact absurd h List.not_mem_nil
  | cons x l ih =>
    rw [keyed_cons, List.mem_append] at h
    rw [List.length_cons]
    rcases h with h | h
    · obtain rfl : c = (a, x) := by
        split at h
        · exact List.mem_singleton.1 h
        · exact absurd h List.not_mem_nil
      exact ⟨Nat.le_refl a, by simp⟩
    · have := ih h
      omega

theorem lookup_keyed (keep : α → Bool) (a i : Nat) (l : List α) : lookup (keyed keep a l) (a + i) = (l[i]?).filter keep := by
  induction l generalizing a i with
  | nil => rfl
  | cons x l ih =>
    rw [keyed_cons]
    cases i with
    | zero =>
      have habove : ∀ c ∈ keyed keep (a + 1) l, a < c.1 := fun c hc => (mem_keyed hc).1
      rw [Nat.add_zero a, lookup_append_left habove, List.getElem?_cons_zero]
      by_cases h : keep x = true <;> simp [h, lookup, Option.filter]
    | succ i =>
      rw [lookup_append_right, List.getElem?_cons_succ, ← ih (a + 1) i, Nat.add_assoc, Nat.add_comm 1 i]
      intro c hc
      split at hc
      · rw [List.mem_singleton.1 hc]
        omega
      · exact absurd hc List.not_mem_nil

/-- An element of lists of one length, put together. -/
theorem getElem?_flatMap_blocks {f : β → List α} {w j : Nat} (hj : j < w) (l : List β) (hf : ∀ y ∈ l, (f y).length = w) (g : Nat) :
    (l.flatMap f)[w * g + j]? = (l[g]?).bind fun y => (f y)[j]? := by
  induction l generalizing g with
  | nil => rfl
  | cons y l ih =>
    have hy := hf y List.mem_cons_self
    rw [List.flatMap_cons]
    cases g with
    | zero => rw [List.getElem?_append_left (by omega), List.getElem?_cons_zero, Option.bind_some, Nat.mul_zero, Nat.zero_add]
    | succ g =>
      have hoff : w * (g + 1) + j - (f y).length = w * g + j := by
        rw [hy, Nat.mul_succ]
        omega
      rw [List.getElem?_append_right (by rw [hy, Nat.mul_succ]; omega), hoff, List.getElem?_cons_succ]
      exact ih (fun z hz => hf z (List.mem_cons_of_mem _ hz)) g

end

/-! ## One column -/

/-- Group g of a packed column of E4M3 or BF16 weights, aligned (R213). -/
def groupSeg (wf x g : Nat) : Seg :=
  if wf = 3 then align e4m3 8 ((List.range 32).map fun j => x / 2 ^ (8 * (32 * g + j)) % 2 ^ 8)
  else align bf16 16 ((List.range 32).map fun j => x / 2 ^ (16 * (32 * g + j)) % 2 ^ 16)

/-- The integer that element k of a column of the other formats expands to. -/
def plainWeight (wf k x : Nat) : Int :=
  match wf with
  | 0 => intOf 3 true (packed 0 k x)
  | 1 => intOf 4 true (packed 1 k x)
  | 2 => e2m1Twice (packed 2 k x)
  | _ => intOf 16 true (packed wf k x)

theorem expandCol_plain {wf : Nat} (kt x : Nat) (h3 : wf ≠ 3) (h4 : wf ≠ 4) :
    expandCol wf kt x = ((List.range kt).map fun k => plainWeight wf k x, [], false) := by
  match wf with
  | 0 | 1 | 2 | n + 5 => simp only [expandCol, List.map_map]; rfl
  | 3 => exact absurd rfl h3
  | 4 => exact absurd rfl h4

theorem expandCol_grouped {wf : Nat} (kt x : Nat) (h : wf = 3 ∨ wf = 4) : expandCol wf kt x =
    (((List.range (kt / 32)).map (groupSeg wf x)).flatMap (·.ints), ((List.range (kt / 32)).map (groupSeg wf x)).map fun s => ⟨s.special, false, 1, s.exp⟩,
      ((List.range (kt / 32)).map (groupSeg wf x)).any (·.loss)) := by
  rcases h with rfl | rfl <;> rfl

theorem length_groupSeg (wf x g : Nat) : (groupSeg wf x g).ints.length = 32 := by
  unfold groupSeg
  split <;> simp [align_ints]

theorem length_expandCol (wf kt x : Nat) : (expandCol wf kt x).1.length ≤ kt ∧ (expandCol wf kt x).2.1.length ≤ kt / 32 := by
  by_cases h : wf = 3 ∨ wf = 4
  · have hsum : ((List.range (kt / 32)).map fun g => (groupSeg wf x g).ints.length).sum = 32 * (kt / 32) := by
      simp only [length_groupSeg, List.map_const', List.length_range, List.sum_replicate, smul_eq_mul, Nat.mul_comm]
    rw [expandCol_grouped kt x h, List.length_flatMap, List.map_map, List.length_map, List.length_map, List.length_range]
    exact ⟨hsum.trans_le (Nat.mul_div_le kt 32), Nat.le_refl _⟩
  · obtain ⟨h3, h4⟩ := not_or.1 h
    simp [expandCol_plain kt x h3 h4]

/-! ## The tile -/

section
variable {wf rk rn kt n k : Nat} {cols : List Nat} {desc : List LoadDesc}

theorem weight_packedTile (hkt : kt ≤ 8192) (hk : k < 8192) :
    (packedTile wf rk rn kt cols desc).weight k n = ((cols[n]?).bind fun x => (expandCol wf kt x).1[k]?).getD 0 := by
  have hbounds : ∀ y ∈ cols.map (expandCol wf kt), ∀ m, ∀ c ∈ keyed (· != 0) (8192 * m) y.1, 8192 * m ≤ c.1 ∧ c.1 < 8192 * (m + 1) := by
    intro y hy m c hc
    obtain ⟨x, _, rfl⟩ := List.mem_map.1 hy
    have hlen := (length_expandCol wf kt x).1
    have := mem_keyed hc
    omega
  have hlook := lookup_columns hbounds hk 0 n (Nat.zero_le n)
  rw [List.length_map, ← List.range_eq_range'] at hlook
  have hweight : (packedTile wf rk rn kt cols desc).weight k n = (lookup (((List.range cols.length).zip (cols.map (expandCol wf kt))).flatMap
      fun p => keyed (· != 0) (8192 * p.1) p.2.1) (8192 * n + k)).getD 0 := rfl
  rw [hweight, hlook, Nat.sub_zero, List.getElem?_map, Option.bind_map]
  cases cols[n]? with
  | none => rfl
  | some x =>
    simp only [Option.bind_some, Function.comp_apply, lookup_keyed]
    cases (expandCol wf kt x).1[k]? with
    | none => rfl
    | some q => by_cases hq : q = 0 <;> simp [Option.filter, hq]

theorem scale_packedTile {g : Nat} (hkt : kt ≤ 8192) (hg : g < 256) : (packedTile wf rk rn kt cols desc).scale g n =
    ((cols[n]?).bind fun x => (expandCol wf kt x).2.1[g]?).getD (match tagOfWf wf with
      | .mxfp4w => ⟨false, false, 1, -1⟩
      | _ => TileData.unitScale) := by
  have hbounds : ∀ y ∈ cols.map (expandCol wf kt), ∀ m, ∀ c ∈ keyed (fun _ => true) (256 * m) y.2.1, 256 * m ≤ c.1 ∧ c.1 < 256 * (m + 1) := by
    intro y hy m c hc
    obtain ⟨x, _, rfl⟩ := List.mem_map.1 hy
    have hlen := (length_expandCol wf kt x).2
    have := mem_keyed hc
    omega
  have hlook := lookup_columns hbounds hg 0 n (Nat.zero_le n)
  rw [List.length_map, ← List.range_eq_range', Nat.sub_zero, List.getElem?_map, Option.bind_map] at hlook
  have hfound : lookup (packedTile wf rk rn kt cols desc).scales (256 * n + 32 * g / (packedTile wf rk rn kt cols desc).gsize) =
      (cols[n]?).bind fun x => (expandCol wf kt x).2.1[g]? := by
    rw [show 32 * g / (packedTile wf rk rn kt cols desc).gsize = g from Nat.mul_div_cancel_left g (by decide)]
    refine hlook.trans ?_
    cases cols[n]? with
    | none => rfl
    | some x =>
      simp only [Option.bind_some, Function.comp_apply, lookup_keyed]
      cases (expandCol wf kt x).2.1[g]? <;> rfl
  unfold TileData.scale
  rw [hfound]
  cases (cols[n]?).bind fun x => (expandCol wf kt x).2.1[g]? with
  | none => rfl
  | some s => rfl

theorem loss_packedTile {x : Nat} (hx : cols[n]? = some x) (hl : (expandCol wf kt x).2.2 = true) :
    (packedTile wf rk rn kt cols desc).loss = true := by
  have hloss : (packedTile wf rk rn kt cols desc).loss = ((List.range cols.length).zip (cols.map (expandCol wf kt))).any fun p => p.2.2.2 := rfl
  rw [hloss, List.any_eq_true]
  obtain ⟨hn, rfl⟩ := List.getElem?_eq_some_iff.1 hx
  exact ⟨(n, expandCol wf kt cols[n]), List.mem_of_getElem? (i := n) (by simp [hn]), hl⟩

/-! ## What each format gives -/

theorem intOf_mod {w : Nat} (hw : 0 < w) (y : Nat) : intOf w true (y % 2 ^ w) = (BitVec.ofNat w y).toInt := by
  have hpow : 2 ^ w = 2 * 2 ^ (w - 1) := by rw [← pow_succ', Nat.sub_add_cancel hw]
  rw [intOf, BitVec.toInt, BitVec.toNat_ofNat, Bool.true_and]
  have hlt := Nat.mod_lt y (Nat.two_pow_pos w)
  generalize y % 2 ^ w = z at *
  generalize 2 ^ (w - 1) = h at *
  rw [hpow] at hlt ⊢
  by_cases hz : h ≤ z
  · rw [if_pos (by simpa using hz), if_neg (by omega)]
  · rw [if_neg (by simpa using hz), if_pos (by omega)]

theorem e2m1Twice_eq {y : Nat} (h : y < 16) :
    e2m1Twice y = (if 8 ≤ y then -1 else 1) * (([0, 1, 2, 3, 4, 6, 8, 12] : List Int)[y % 8]?).getD 0 := by
  revert y
  decide

/-- What a weight and its scale are, by the format of the column (R212, R213, R327). -/
theorem packedTile_spec (wf rk rn kt n k x : Nat) (cols : List Nat) (desc : List LoadDesc) (hkt : kt ≤ 8192) (hk : k < 8192) :
    let t : TileData := packedTile wf rk rn kt cols desc
    ((kt ≤ k ∨ cols.length ≤ n) → t.weight k n = 0) ∧
    (k < kt → cols[n]? = some x →
      (wf = 0 → t.weight k n = (BitVec.ofNat 3 (x / 2 ^ (32 * (k / 10) + 3 * (k % 10)))).toInt) ∧
      (wf = 1 → t.weight k n = (BitVec.ofNat 4 (x / 2 ^ (4 * k))).toInt) ∧
      (wf = 2 → t.weight k n = (if 8 ≤ x / 2 ^ (4 * k) % 16 then -1 else 1) * (([0, 1, 2, 3, 4, 6, 8, 12] : List Int)[x / 2 ^ (4 * k) % 8]?).getD 0) ∧
      (wf = 5 → t.weight k n = (BitVec.ofNat 16 (x / 2 ^ (16 * k))).toInt) ∧
      (wf < 3 ∨ wf = 5 → t.scale (k / 32) n = ⟨false, false, 1, if wf = 2 then -1 else 0⟩) ∧
      (kt % 32 = 0 → wf = 3 ∨ wf = 4 →
        let sg : Seg := if wf = 3 then align e4m3 8 ((List.range 32).map fun j => x / 2 ^ (8 * (32 * (k / 32) + j)) % 2 ^ 8)
          else align bf16 16 ((List.range 32).map fun j => x / 2 ^ (16 * (32 * (k / 32) + j)) % 2 ^ 16)
        sg.ints[k % 32]? = some (t.weight k n) ∧ t.scale (k / 32) n = ⟨sg.special, false, 1, sg.exp⟩ ∧ (sg.loss = true → t.loss = true))) := by
  intro t
  have hweight : t.weight k n = _ := weight_packedTile hkt hk
  have hscale : t.scale (k / 32) n = _ := scale_packedTile hkt (by omega)
  refine ⟨?outside, fun hkk hx => ?_⟩
  case outside =>
    intro h
    rw [hweight]
    rcases h with h | h
    · cases cols[n]? with
      | none => rfl
      | some x => rw [Option.bind_some, List.getElem?_eq_none ((length_expandCol wf kt x).1.trans h), Option.getD_none]
    · rw [List.getElem?_eq_none h]
      rfl
  rw [hx, Option.bind_some] at hweight hscale
  have hplain (h3 : wf ≠ 3) (h4 : wf ≠ 4) : t.weight k n = plainWeight wf k x := by
    rw [hweight, expandCol_plain kt x h3 h4]
    simp [hkk]
  refine ⟨?w3g, ?w4g, ?mxfp4, ?fxs, ?scale, ?grouped⟩
  case w3g =>
    rintro rfl
    exact (hplain (by decide) (by decide)).trans (intOf_mod (by decide) _)
  case w4g =>
    rintro rfl
    exact (hplain (by decide) (by decide)).trans (intOf_mod (by decide) _)
  case mxfp4 =>
    rintro rfl
    refine (hplain (by decide) (by decide)).trans ((e2m1Twice_eq (Nat.mod_lt _ (by decide))).trans ?_)
    rw [Nat.mod_mod_of_dvd _ (by decide)]
  case fxs =>
    rintro rfl
    exact (hplain (by decide) (by decide)).trans (intOf_mod (by decide) _)
  case scale =>
    intro h
    rw [hscale, expandCol_plain kt x (by omega) (by omega), List.getElem?_nil, Option.getD_none]
    rcases h with h | rfl
    · interval_cases wf <;> rfl
    · rfl
  case grouped =>
    intro hmod hwf
    have hg : k / 32 < kt / 32 := by omega
    have hcol := expandCol_grouped kt x hwf
    change (groupSeg wf x (k / 32)).ints[k % 32]? = some (t.weight k n) ∧
      t.scale (k / 32) n = ⟨(groupSeg wf x (k / 32)).special, false, 1, (groupSeg wf x (k / 32)).exp⟩ ∧ ((groupSeg wf x (k / 32)).loss = true → t.loss = true)
    refine ⟨?_, ?_, fun hl => loss_packedTile hx ?_⟩
    · have hj : k % 32 < (groupSeg wf x (k / 32)).ints.length := by
        rw [length_groupSeg]
        exact Nat.mod_lt _ (by decide)
      have hget := getElem?_flatMap_blocks (f := fun s : Seg => s.ints) (w := 32) (Nat.mod_lt k (by decide)) ((List.range (kt / 32)).map (groupSeg wf x))
        (fun y hy => by obtain ⟨g, _, rfl⟩ := List.mem_map.1 hy; exact length_groupSeg wf x g) (k / 32)
      rw [Nat.div_add_mod, List.getElem?_map, List.getElem?_range hg, Option.map_some, Option.bind_some] at hget
      rw [hweight, hcol, hget, List.getElem?_eq_getElem hj, Option.getD_some]
    · rw [hscale, hcol]
      simp [hg]
    · rw [hcol, List.any_eq_true]
      exact ⟨_, List.mem_map_of_mem (List.mem_range.2 hg), hl⟩

end

end Sys2Proof.Machine
end

section
/-! SUPPORT. The accumulator image, and its reading back (R332). -/

namespace Sys2Proof.Machine

/-! ## Fields of a number in memory -/

namespace Mem

theorem readN_mod (m : Mem) (a c d : Nat) : readN m a (c + d) % 256 ^ c = readN m a c := by
  induction c generalizing a with
  | zero => rw [Nat.pow_zero, Nat.mod_one, readN]
  | succ c ih =>
    have hbyte := (read m a).isLt
    rw [Nat.succ_add, readN, readN, ← ih (a + 1), Nat.pow_succ', Nat.mod_mul, Nat.add_mul_mod_self_left, Nat.mod_eq_of_lt hbyte,
      Nat.add_mul_div_left _ _ (by decide), Nat.div_eq_of_lt hbyte, Nat.zero_add]

theorem readN_div (m : Mem) (a o c : Nat) : readN m a (o + c) / 256 ^ o = readN m (a + o) c := by
  induction o generalizing a with
  | zero => rw [Nat.pow_zero, Nat.div_one, Nat.zero_add, Nat.add_zero]
  | succ o ih =>
    have hbyte := (read m a).isLt
    rw [Nat.succ_add, readN, Nat.pow_succ', ← Nat.div_div_eq_div_mul, Nat.add_mul_div_left _ _ (by decide), Nat.div_eq_of_lt hbyte, Nat.zero_add,
      ih (a + 1), Nat.add_assoc, Nat.add_comm 1 o]

/-- Bytes o to o + c of a number are those at o. -/
theorem readN_field (m : Mem) {n o c : Nat} (h : o + c ≤ n) : readN m 0 n / 2 ^ (8 * o) % 2 ^ (8 * c) = readN m o c := by
  obtain ⟨d, rfl⟩ := Nat.exists_eq_add_of_le h
  rw [Nat.pow_mul, Nat.pow_mul, show 2 ^ 8 = 256 from rfl, Nat.add_assoc, readN_div, readN_mod, Nat.zero_add]

theorem readN_nil (a n : Nat) : readN [] a n = 0 := by
  induction n generalizing a with
  | zero => rfl
  | succ n ih => rw [readN, ih]; rfl

end Mem

/-! ## Elements in a row of memory -/

/-- Numbers of `size` bytes, each at its own place. -/
def storeAll (size : Nat) (v : Nat → Nat) (ks : List Nat) (m : Mem) : Mem := ks.foldl (fun m k => Mem.writeN m (size * k) size (v k)) m

section
variable {size : Nat} {v : Nat → Nat}

theorem storeAll_wf (ks : List Nat) {m : Mem} (hm : m.wf = true) : (storeAll size v ks m).wf = true := by
  induction ks generalizing m with
  | nil => exact hm
  | cons k ks ih => exact ih (Mem.writeN_wf _ hm _ _)

theorem readN_storeAll (hv : ∀ k, v k < 256 ^ size) (ks : List Nat) {m : Mem} (hm : m.wf = true) (k : Nat) :
    Mem.readN (storeAll size v ks m) (size * k) size = if k ∈ ks then v k else Mem.readN m (size * k) size := by
  induction ks generalizing m with
  | nil => rw [if_neg List.not_mem_nil]; rfl
  | cons j ks ih =>
    have hstep : storeAll size v (j :: ks) m = storeAll size v ks (Mem.writeN m (size * j) size (v j)) := rfl
    rw [hstep, ih (Mem.writeN_wf _ hm _ _)]
    by_cases hks : k ∈ ks
    · rw [if_pos hks, if_pos (List.mem_cons_of_mem _ hks)]
    rw [if_neg hks]
    by_cases hkj : k = j
    · subst hkj
      rw [if_pos List.mem_cons_self, Mem.readN_writeN _ hm, Nat.mod_eq_of_lt (hv k)]
    · rw [if_neg (by simp [hkj, hks]), Mem.readN_writeN_outside hm]
      rcases Nat.lt_or_gt_of_ne hkj with h | h
      · exact .inl (by rw [← Nat.mul_succ]; exact Nat.mul_le_mul_left size h)
      · exact .inr (by rw [← Nat.mul_succ]; exact Nat.mul_le_mul_left size h)

theorem read_storeAll_above (ks : List Nat) {m : Mem} (hm : m.wf = true) {n p : Nat} (hks : ∀ k ∈ ks, k < n) (hp : size * n ≤ p) :
    Mem.read (storeAll size v ks m) p = Mem.read m p := by
  induction ks generalizing m with
  | nil => rfl
  | cons j ks ih =>
    have hj : size * (j + 1) ≤ size * n := Nat.mul_le_mul_left size (hks j List.mem_cons_self)
    rw [Nat.mul_succ] at hj
    exact (ih (Mem.writeN_wf _ hm _ _) fun k hk => hks k (List.mem_cons_of_mem _ hk)).trans
      (Mem.read_writeN_outside _ hm _ _ _ (.inr (by omega)))

end

/-! ## The elements of an accumulator -/

namespace Acc

variable {a b : Acc}

theorem size_cols (a : Acc) : a.size * (32 * a.cols) = 8192 := by
  unfold size cols
  split <;> rfl

theorem cols_pos (a : Acc) : 0 < a.cols := by
  unfold cols
  split <;> decide

theorem shape_congr (h : a.mode = b.mode) : a.shape = b.shape := by
  funext x
  unfold shape
  rw [h]

theorem extract_signExtend (y : BitVec 48) : (y.signExtend 64).extractLsb' 0 48 = y := by
  ext i hi
  simp [BitVec.getLsbD_signExtend, hi]
  omega

theorem shape_shape (a : Acc) (x : W64) : a.shape (a.shape x) = a.shape x := by
  unfold shape
  split
  · rw [extract_signExtend]
  · rw [BitVec.and_assoc, BitVec.and_self]

theorem shape_zero (a : Acc) : a.shape 0 = 0 := by
  unfold shape
  split <;> decide

theorem shape_get (h : ∀ x ∈ a.elems, a.shape x.2 = x.2) (i n : Nat) : a.shape (a.get i n) = a.get i n := by
  cases hlook : lookup a.elems (a.cols * i + n) with
  | some x =>
    have hget : a.get i n = x := by
      unfold get
      rw [hlook]
    rw [hget]
    exact h (_, x) (mem_of_lookup hlook)
  | none =>
    cases hundef : a.undef with
    | none =>
      have hget : a.get i n = 0 := by
        unfold get
        rw [hlook, hundef]
      rw [hget, shape_zero]
    | some d =>
      have hget : a.get i n = a.shape (Config.freeElement (d / 16) (2048 * (d % 16) + (a.cols * i + n))) := by
        unfold get
        rw [hlook, hundef]
      rw [hget, shape_shape]

/-- An element fits the bytes it has in an image. -/
theorem toNat_get_lt (h : ∀ x ∈ a.elems, a.shape x.2 = x.2) (i n : Nat) : (a.get i n).toNat < 256 ^ a.size := by
  by_cases hm : (a.mode == .i48) = true
  · rw [size, if_pos hm, show 256 ^ 8 = 2 ^ 64 by norm_num]
    exact (a.get i n).isLt
  · have hmask : (0xFFFFFFFF : W64).toNat < 256 ^ 4 := by decide
    rw [size, if_neg hm, ← shape_get h, shape, if_neg hm, BitVec.toNat_and]
    exact Nat.lt_of_le_of_lt Nat.and_le_right hmask

/-- The elements that an image lists. -/
def imageKeys (a : Acc) : List Nat := if a.undef.isSome then List.range (32 * a.cols) else a.elems.map (·.1)

def imageCell (a : Acc) (k : Nat) : Nat := (a.get (k / a.cols) (k % a.cols)).toNat

def imageBody (a : Acc) : Mem := storeAll a.size a.imageCell a.imageKeys []

theorem image_eq (a : Acc) : a.image = Mem.writeN (Mem.writeN a.imageBody 8192 4 a.status.toNat) 8196 4 a.modeCode := rfl

theorem imageBody_wf (a : Acc) : a.imageBody.wf = true := storeAll_wf _ rfl

/-- An element that an image does not list is 0. -/
theorem imageCell_unlisted {k : Nat} (hk : k < 32 * a.cols) (h : k ∉ a.imageKeys) : a.imageCell k = 0 := by
  unfold imageKeys at h
  split at h
  case isTrue => exact absurd (List.mem_range.2 hk) h
  case isFalse hundef =>
    have hnone : lookup a.elems k = none := by
      cases hl : lookup a.elems k with
      | none => rfl
      | some x => exact absurd (List.mem_map_of_mem (f := (·.1)) (mem_of_lookup hl)) h
    rw [Option.not_isSome_iff_eq_none] at hundef
    rw [imageCell, get, Nat.div_add_mod, hnone, hundef]
    rfl

theorem readN_imageBody (h : ∀ x ∈ a.elems, a.shape x.2 = x.2) {k : Nat} (hk : k < 32 * a.cols) :
    Mem.readN a.imageBody (a.size * k) a.size = a.imageCell k := by
  have hfits (j : Nat) : a.imageCell j < 256 ^ a.size := toNat_get_lt h _ _
  rw [imageBody, readN_storeAll hfits _ rfl, Mem.readN_nil]
  split
  · rfl
  · exact (imageCell_unlisted hk ‹_›).symm

theorem read_imageBody_above (h : ∀ x ∈ a.elems, x.1 < 32 * a.cols) {p : Nat} (hp : 8192 ≤ p) : Mem.read a.imageBody p = 0 := by
  refine read_storeAll_above (n := 32 * a.cols) _ rfl (fun k hk => ?_) (a.size_cols.trans_le hp)
  unfold imageKeys at hk
  split at hk
  · exact List.mem_range.1 hk
  · obtain ⟨x, hx, rfl⟩ := List.mem_map.1 hk
    exact h x hx

/-! ## The image -/

theorem modeCode_lt (a : Acc) : a.modeCode < 256 ^ 4 := by
  unfold modeCode
  split <;> decide

theorem readN_image_element (h : ∀ x ∈ a.elems, a.shape x.2 = x.2) {k : Nat} (hk : k < 32 * a.cols) :
    Mem.readN a.image (a.size * k) a.size = a.imageCell k := by
  have hend : a.size * k + a.size ≤ 8192 := by
    rw [← Nat.mul_succ, ← a.size_cols]
    exact Nat.mul_le_mul_left _ hk
  rw [image_eq, Mem.readN_writeN_outside (Mem.writeN_wf _ a.imageBody_wf _ _) _ (.inl (by omega)),
    Mem.readN_writeN_outside a.imageBody_wf _ (.inl hend), readN_imageBody h hk]

/-- The key of an element's place, and what it is of that key. -/
theorem place_key (a : Acc) {i n : Nat} (hi : i < 32) (hn : n < a.cols) : a.cols * i + n < 32 * a.cols ∧ (a.cols * i + n) / a.cols = i ∧
    (a.cols * i + n) % a.cols = n := by
  have hrow := Nat.mul_le_mul_left a.cols hi
  rw [Nat.mul_succ, Nat.mul_comm a.cols 32] at hrow
  exact ⟨by omega, by rw [Nat.mul_add_div a.cols_pos, Nat.div_eq_of_lt hn, Nat.add_zero], by rw [Nat.mul_add_mod, Nat.mod_eq_of_lt hn]⟩

theorem readN_image_at (h : ∀ x ∈ a.elems, a.shape x.2 = x.2) {i n : Nat} (hi : i < 32) (hn : n < a.cols) :
    Mem.readN a.image (256 * i + a.size * n) a.size = (a.get i n).toNat := by
  obtain ⟨hk, hdiv, hmod⟩ := a.place_key hi hn
  have hrow : a.size * a.cols = 256 := by
    unfold size cols
    split <;> rfl
  rw [← hrow, Nat.mul_assoc, ← Nat.mul_add, readN_image_element h hk, imageCell, hdiv, hmod]

theorem readN_image_status (a : Acc) : Mem.readN a.image 8192 4 = a.status.toNat := by
  rw [image_eq, Mem.readN_writeN_outside (Mem.writeN_wf _ a.imageBody_wf _ _) _ (.inl (by omega)), Mem.readN_writeN _ a.imageBody_wf]
  exact Nat.mod_eq_of_lt a.status.isLt

theorem readN_image_mode (a : Acc) : Mem.readN a.image 8196 4 = a.modeCode := by
  rw [image_eq, Mem.readN_writeN _ (Mem.writeN_wf _ a.imageBody_wf _ _), Nat.mod_eq_of_lt a.modeCode_lt]

theorem read_image_above (h : ∀ x ∈ a.elems, x.1 < 32 * a.cols) {p : Nat} (hp : 8200 ≤ p) : Mem.read a.image p = 0 := by
  rw [image_eq, Mem.read_writeN_outside _ (Mem.writeN_wf _ a.imageBody_wf _ _) _ _ _ (.inr hp),
    Mem.read_writeN_outside _ a.imageBody_wf _ _ _ (.inr (by omega)), read_imageBody_above h (by omega)]

/-! ## Reading an image back -/

/-- One element of an image that is loaded. -/
def loadCell (x : Nat) (b : Acc) (k : Nat) : Acc :=
  b.put (k / b.cols) (k % b.cols) (b.shape (BitVec.ofNat 64 (x / 2 ^ (8 * b.size * k) % 2 ^ (8 * b.size))))

def loadStart (a : Acc) (m : AccMode) (x : Nat) : Acc := { a.cleared m with status := BitVec.ofNat 32 (x / 2 ^ (8 * 8192) % 16) }

theorem load_of_mode {x code : Nat} (h : x / 2 ^ (8 * 8196) % 2 ^ 32 = code) : b.load x = if code == 1 || code == 2 then
    some ((List.range (32 * (b.loadStart (if code == 1 then .f32 else .i48) x).cols)).foldl (loadCell x) (b.loadStart (if code == 1 then .f32 else .i48) x))
    else none := by
  subst h
  rfl

/-- What the first k elements of an image make of a cleared accumulator. -/
structure Loaded (x : Nat) (b c : Acc) (k : Nat) : Prop where
  rest : { c with elems := [] } = { b with elems := [] }
  rising : Machine.rising c.elems = true
  value : ∀ q, q < k → c.get (q / b.cols) (q % b.cols) = b.shape (BitVec.ofNat 64 (x / 2 ^ (8 * b.size * q) % 2 ^ (8 * b.size)))

theorem loaded (x : Nat) {b : Acc} (hb : Machine.rising b.elems = true) (k : Nat) : Loaded x b ((List.range k).foldl (loadCell x) b) k := by
  induction k with
  | zero => exact ⟨rfl, hb, fun q hq => absurd hq (by omega)⟩
  | succ k ih =>
    rw [List.range_succ, List.foldl_append]
    generalize (List.range k).foldl (loadCell x) b = c at ih
    have hmode : c.mode = b.mode := (congrArg Acc.mode ih.rest :)
    have hcols : c.cols = b.cols := cols_congr hmode
    have hsize : c.size = b.size := by
      unfold size
      rw [hmode]
    have hcell : [k].foldl (loadCell x) c =
        c.put (k / b.cols) (k % b.cols) (b.shape (BitVec.ofNat 64 (x / 2 ^ (8 * b.size * k) % 2 ^ (8 * b.size)))) := by
      rw [List.foldl_cons, List.foldl_nil, loadCell, hcols, hsize, shape_congr hmode]
    rw [hcell]
    refine ⟨ih.rest, rising_put ih.rising _ _ _, fun q hq => ?_⟩
    rcases Nat.lt_succ_iff_lt_or_eq.1 hq with hlt | rfl
    · rw [get_put_ne ih.rising _ (by rw [hcols, Nat.div_add_mod, Nat.div_add_mod]; omega), ih.value q hlt]
    · rw [get_put_self ih.rising]

/-- The image of an accumulator that has a mode loads as that accumulator, without its raster state. -/
theorem load_image (h : ∀ x ∈ a.elems, a.shape x.2 = x.2) (b : Acc) (hm : a.mode ≠ .none) :
    ∃ c, b.load (Mem.readN a.image 0 8256) = some c ∧ c.mode = a.mode ∧ c.raster = none ∧ c.status = a.status &&& 15 ∧
      c.pre = b.pre ∧ c.post = b.post ∧ ∀ i n, i < 32 → n < a.cols → c.get i n = a.get i n := by
  have hmode := Mem.readN_field a.image (n := 8256) (o := 8196) (c := 4) (by omega)
  have hstatus := Mem.readN_field a.image (n := 8256) (o := 8192) (c := 4) (by omega)
  have helement {k : Nat} (hk : k < 32 * a.cols) := Mem.readN_field a.image (n := 8256) (o := a.size * k) (c := a.size) (by
    have := Nat.mul_le_mul_left a.size hk
    rw [a.size_cols, Nat.mul_succ] at this
    omega)
  rw [readN_image_mode] at hmode
  rw [readN_image_status] at hstatus
  generalize Mem.readN a.image 0 8256 = x at *
  have hcode : (a.modeCode == 1 || a.modeCode == 2) = true ∧ (if a.modeCode == 1 then .f32 else .i48) = a.mode := by
    unfold modeCode
    cases hcase : a.mode with
    | none => exact absurd hcase hm
    | f32 => exact ⟨rfl, rfl⟩
    | i48 => exact ⟨rfl, rfl⟩
  have hload := load_of_mode (b := b) hmode
  rw [if_pos hcode.1, hcode.2] at hload
  refine ⟨_, hload, ?_⟩
  have hloaded := loaded x (b := b.loadStart a.mode x) rfl (32 * (b.loadStart a.mode x).cols)
  generalize (List.range (32 * (b.loadStart a.mode x).cols)).foldl (loadCell x) (b.loadStart a.mode x) = c at *
  have hcols : (b.loadStart a.mode x).cols = a.cols := rfl
  have hsize : (b.loadStart a.mode x).size = a.size := rfl
  have hshape : (b.loadStart a.mode x).shape = a.shape := rfl
  have hstat : (b.loadStart a.mode x).status = a.status &&& 15 := by
    have hbits : x / 2 ^ (8 * 8192) % 16 = a.status.toNat % 16 := by
      rw [← hstatus, Nat.mod_mod_of_dvd _ (by decide)]
    refine BitVec.eq_of_toNat_eq ?_
    rw [loadStart, hbits, BitVec.toNat_and, BitVec.toNat_ofNat, Nat.mod_eq_of_lt (by omega)]
    exact (Nat.and_two_pow_sub_one_eq_mod a.status.toNat 4).symm
  refine ⟨(congrArg Acc.mode hloaded.rest :), (congrArg Acc.raster hloaded.rest :), (congrArg Acc.status hloaded.rest :).trans hstat,
    (congrArg Acc.pre hloaded.rest :), (congrArg Acc.post hloaded.rest :), fun i n hi hn => ?_⟩
  obtain ⟨hk, hdiv, hmod⟩ := a.place_key hi hn
  have hvalue := hloaded.value (a.cols * i + n) (hcols ▸ hk)
  rw [hcols, hsize, hshape, hdiv, hmod, Nat.mul_assoc, helement hk, readN_image_element h hk, imageCell, hdiv, hmod, BitVec.ofNat_toNat,
    BitVec.setWidth_eq, shape_get h] at hvalue
  exact hvalue

theorem load_image_none (b : Acc) (hm : a.mode = .none) : b.load (Mem.readN a.image 0 8256) = none := by
  have hmode := Mem.readN_field a.image (n := 8256) (o := 8196) (c := 4) (by omega)
  rw [readN_image_mode, modeCode, hm] at hmode
  rw [load_of_mode hmode]
  rfl

end Acc

end Sys2Proof.Machine
end

section
/-! SUPPORT. Post-operator programs and their steps (R338), edge rows (R202, R339), and the rows of FLT and BLEND (R343, R344). -/

namespace Sys2Proof.Machine

/-! ## Programs that are well formed -/

theorem PostStep.ok_iff (t : PostStep) : t.ok = true ↔ 1 ≤ t.op ∧ t.op ≤ 8 ∧ (t.op = 1 ∨ t.op = 2 → t.mode ≤ 1) ∧
    (t.op = 3 → t.lo.isNan = true ∨ t.hi.isNan = true ∨ t.lo.cmp t.hi ≤ 0) ∧ (t.op = 7 → t.arg32 ≠ 0) ∧
    (t.op = 4 → t.mode ∈ [1, 3, 5, 6, 7, 8, 9, 12, 13] ∧ t.arg16 % 8 ≤ 4 ∧ t.arg16 < 16) := by
  unfold PostStep.ok
  split
  case h_9 h1 h2 h3 h4 h5 h6 h7 h8 =>
    simp only [Bool.false_eq_true, false_iff]
    rw [imp_false] at h1 h2 h3 h4 h5 h6 h7 h8
    rintro ⟨hlo, hhi, _⟩
    omega
  all_goals rename_i h; simp [h, or_assoc, and_assoc]

/-- Each step's place, and CONVERT, MASK_AND, EDGE_TL and BARY in theirs; `i` steps stand before the list. -/
theorem placesOk_iff (i : Nat) (l : List PostStep) : placesOk i l = true ↔ ∀ j t, l[j]? = some t →
    (t.op = 4 → j + 1 = l.length) ∧ (t.op = 8 → j + 1 = l.length ∧ i + j = 1) ∧ (t.op = 5 ∨ t.op = 6 → i + j = 0) ∧
      ∀ u, l[j + 1]? = some u → u.op = 8 → t.op = 5 := by
  induction l generalizing i with
  | nil => simp [placesOk]
  | cons t l ih =>
    have hhead : placesOk i (t :: l) = true ↔ ((t.op = 4 → 0 + 1 = (t :: l).length) ∧ (t.op = 8 → 0 + 1 = (t :: l).length ∧ i + 0 = 1) ∧
        (t.op = 5 ∨ t.op = 6 → i + 0 = 0) ∧ ∀ u, l[0]? = some u → u.op = 8 → t.op = 5) ∧ placesOk (i + 1) l = true := by
      simp only [placesOk, Bool.and_eq_true, Bool.or_eq_true, bne_iff_ne, beq_iff_eq, ne_eq, List.isEmpty_iff, List.length_cons]
      cases l with
      | nil => simp; omega
      | cons u l => simp; omega
    rw [hhead, ih]
    constructor
    · rintro ⟨h0, hrest⟩ j y hj
      cases j with
      | zero =>
        obtain rfl : t = y := by simpa using hj
        exact h0
      | succ j =>
        obtain ⟨h4, h8, h5, hn⟩ := hrest j y hj
        refine ⟨fun h => ?_, fun h => ?_, fun h => ?_, hn⟩
        · have := h4 h
          rw [List.length_cons]
          omega
        · have := h8 h
          rw [List.length_cons]
          omega
        · have := h5 h
          omega
    · intro h
      refine ⟨h 0 t rfl, fun j y hj => ?_⟩
      obtain ⟨h4, h8, h5, hn⟩ := h (j + 1) y hj
      rw [List.length_cons] at h4 h8
      refine ⟨fun h => ?_, fun h => ?_, fun h => ?_, hn⟩
      · have := h4 h
        omega
      · have := h8 h
        omega
      · have := h5 h
        omega

/-- Which programs are well formed. -/
theorem programOk_iff (p : Vector W64 8) :
    let ps : List PostStep := program p
    programOk p = true ↔ ∀ i t, ps[i]? = some t → 1 ≤ t.op ∧ t.op ≤ 8 ∧ (t.op = 1 ∨ t.op = 2 → t.mode ≤ 1) ∧
      (t.op = 3 → t.lo.isNan = true ∨ t.hi.isNan = true ∨ t.lo.cmp t.hi ≤ 0) ∧ (t.op = 7 → t.arg32 ≠ 0) ∧
      (t.op = 4 → t.mode ∈ [1, 3, 5, 6, 7, 8, 9, 12, 13] ∧ t.arg16 % 8 ≤ 4 ∧ t.arg16 < 16 ∧ i + 1 = ps.length) ∧ (t.op = 5 ∨ t.op = 6 → i = 0) ∧
      (t.op = 8 → i + 1 = ps.length ∧ ∃ j u, i = j + 1 ∧ ps[j]? = some u ∧ u.op = 5) := by
  intro ps
  have hall : programOk p = true ↔ (∀ (i : Nat) (t : PostStep), ps[i]? = some t → t.ok = true) ∧ placesOk 0 ps = true := by
    rw [programOk, Bool.and_eq_true, List.all_eq_true]
    refine and_congr_left' ⟨fun h i t ht => h t (List.mem_of_getElem? ht), fun h t ht => ?_⟩
    obtain ⟨i, hi⟩ := List.mem_iff_getElem?.1 ht
    exact h i t hi
  rw [hall, placesOk_iff]
  constructor
  · rintro ⟨hok, hplaces⟩ i t ht
    obtain ⟨hlo, hhi, h12, h3, h7, h4⟩ := t.ok_iff.1 (hok i t ht)
    obtain ⟨p4, p8, p56, _⟩ := hplaces i t ht
    refine ⟨hlo, hhi, h12, h3, h7, fun h => ?_, fun h => ?_, fun h => ?_⟩
    · obtain ⟨hm, hr, hs⟩ := h4 h
      exact ⟨hm, hr, hs, p4 h⟩
    · simpa using p56 h
    · obtain ⟨hlast, hone⟩ := p8 h
      obtain rfl : i = 1 := by omega
      obtain ⟨u, hu⟩ : ∃ u, ps[0]? = some u := ⟨ps[0], List.getElem?_eq_getElem (by omega)⟩
      obtain ⟨_, _, _, hnext⟩ := hplaces 0 u hu
      exact ⟨hlast, 0, u, rfl, hu, hnext t ht h⟩
  · intro h
    refine ⟨fun i t ht => ?_, fun i t ht => ?_⟩
    · obtain ⟨hlo, hhi, h12, h3, h7, h4, _, _⟩ := h i t ht
      refine t.ok_iff.2 ⟨hlo, hhi, h12, h3, h7, fun ho => ?_⟩
      obtain ⟨hm, hr, hs, _⟩ := h4 ho
      exact ⟨hm, hr, hs⟩
    · obtain ⟨_, _, _, _, _, h4, h56, h8⟩ := h i t ht
      refine ⟨fun ho => ?_, fun ho => ?_, fun ho => by simpa using h56 ho, fun u hu ho => ?_⟩
      · obtain ⟨_, _, _, hlast⟩ := h4 ho
        exact hlast
      · obtain ⟨hlast, j, u, rfl, hu, hedge⟩ := h8 ho
        obtain ⟨_, _, _, _, _, _, hfirst, _⟩ := h j u hu
        have := hfirst (.inl hedge)
        exact ⟨hlast, by omega⟩
      · obtain ⟨_, _, _, _, _, _, _, hmask⟩ := h (i + 1) u hu
        obtain ⟨_, j, y, hj, hy, hedge⟩ := hmask ho
        obtain rfl : i = j := by omega
        obtain rfl : t = y := Option.some.inj (ht.symm.trans hy)
        exact hedge

/-! ## Steps -/

theorem scaleOf_immediate (a : Agent) {t : PostStep} (n : Nat) (s : State) (h : t.mode = 0) : a.scaleOf t n s = (s, .ok (fp32.value t.arg32)) := by
  rw [Agent.scaleOf, if_pos (beq_iff_eq.2 h)]

/-- What the steps give of which the statement speaks (R338). -/
theorem postOne_spec (a : Agent) (acc : Acc) (i n : Nat) (t : PostStep) (x : Fv) (s : State) :
    let gives (y : Fv) : Prop := a.postOne acc i n t x s = (s, .ok y)
    (t.op = 1 → t.mode = 0 → gives (fp32.value (fp32.ofValue .ieee .rne (x.mul (fp32.value t.arg32))))) ∧
    (t.op = 2 → t.mode = 0 → gives (fp32.value (fp32.ofValue .ieee .rne (x.add .rne (fp32.value t.arg32))))) ∧
    (t.op = 3 → x = .nan → gives t.lo) ∧
    (t.op = 3 → x.Finite → t.lo.Finite → t.hi.Finite → ∃ y, gives y ∧ y.Finite ∧ y.rat = min (max x.rat t.lo.rat) t.hi.rat) ∧
    (t.op = 5 → ∀ r, acc.raster = some r → ∃ y, gives y ∧ y.Finite ∧
      y.rat = if 0 < acc.int i n ∨ (acc.int i n = 0 ∧ r.flag i = true) then 1 else 0) := by
  intro gives
  refine ⟨fun ho hm => ?scale, fun ho hm => ?bias, fun ho hx => ?nan, fun ho hx hlo hhi => ?clamp, fun ho r hr => ?edge⟩
  case scale =>
    simp only [gives, Agent.postOne, ho, scaleOf_immediate a n s hm, thenDo]
    rfl
  case bias =>
    simp only [gives, Agent.postOne, ho, scaleOf_immediate a n s hm, thenDo]
    rfl
  case nan =>
    simp only [gives, Agent.postOne, ho, hx]
    rfl
  case clamp =>
    obtain ⟨hmax, hmaxrat⟩ := fvMax_finite hx hlo
    obtain ⟨hmin, hminrat⟩ := fvMin_finite hmax hhi
    refine ⟨fvMin (fvMax x t.lo) t.hi, ?_, hmin, by rw [hminrat, hmaxrat]⟩
    simp only [gives, Agent.postOne, ho, Fv.finite_not_nan hx]
    rfl
  case edge =>
    refine ⟨Fv.ofInt (if 0 < acc.int i n || (acc.int i n == 0 && r.flag i) then 1 else 0), ?_, Fv.finite_ofInt _, ?_⟩
    · simp only [gives, Agent.postOne, ho, hr]
    · rw [Fv.rat_ofInt]
      simp only [Bool.or_eq_true, decide_eq_true_eq, Bool.and_eq_true, beq_iff_eq]
      split <;> simp

/-! ## Edge rows -/

section
variable {p : Prim} {x0 x1 x2 y0 y1 y2 : Int}

/-- The three edges, in their order. -/
def edgeRows (x0 x1 x2 y0 y1 y2 : Int) : List (List Int) :=
  [[y0 - y1, x1 - x0, x0 * y1 - x1 * y0], [y1 - y2, x2 - x1, x1 * y2 - x2 * y1], [y2 - y0, x0 - x2, x2 * y0 - x0 * y2]]

theorem Prim.map_edge (hx : p.xs = [x0, x1, x2]) (hy : p.ys = [y0, y1, y2]) : (List.range 3).map p.edge = edgeRows x0 x1 x2 y0 y1 y2 := by
  have hrange : List.range 3 = [0, 1, 2] := rfl
  simp only [hrange, List.map_cons, List.map_nil, Prim.edge, hx, hy]
  rfl

theorem Prim.area_eq (hx : p.xs = [x0, x1, x2]) (hy : p.ys = [y0, y1, y2]) : p.area = (x1 - x0) * (y2 - y0) - (x2 - x0) * (y1 - y0) := by
  have hsum : p.area = (((List.range 3).map p.edge).map fun e => e[2]?.getD 0).foldl (· + ·) 0 := by
    rw [List.map_map]
    rfl
  rw [hsum, Prim.map_edge hx hy]
  simp only [edgeRows, List.map_cons, List.map_nil, List.foldl_cons, List.foldl_nil, List.getElem?_cons_succ, List.getElem?_cons_zero, Option.getD_some]
  ring

theorem Prim.far_iff (hx : p.xs = [x0, x1, x2]) (hy : p.ys = [y0, y1, y2]) :
    ((p.xs ++ p.ys).any fun v => decide (4194304 < v.natAbs)) = true ↔ ¬ ∀ v ∈ [x0, x1, x2, y0, y1, y2], |v| ≤ 2 ^ 22 := by
  have hnear (v : Int) : 4194304 < v.natAbs ↔ ¬ |v| ≤ 2 ^ 22 := by
    rw [Int.abs_eq_natAbs]
    omega
  rw [hx, hy, List.any_eq_true]
  simp only [decide_eq_true_eq, hnear, not_forall]
  simp

theorem Prim.rows_eq (hx : p.xs = [x0, x1, x2]) (hy : p.ys = [y0, y1, y2]) (two : Bool) : p.rows two =
    if ((p.xs ++ p.ys).any fun v => decide (4194304 < v.natAbs)) = true ∨ p.area = 0 ∨ (p.area < 0 ∧ two = false) then List.replicate 3 [0, 0, -1]
    else (edgeRows x0 x1 x2 y0 y1 y2).map fun e => e.map fun v => if p.area < 0 then -v else v := by
  rw [Prim.rows, ← Prim.map_edge hx hy, List.map_map]
  refine if_congr ?_ rfl rfl
  simp [or_assoc]

/-- The rows of a primitive, and their top-left flags (R202, R339). -/
theorem Prim.rows_spec (two : Bool) (hx : p.xs = [x0, x1, x2]) (hy : p.ys = [y0, y1, y2]) :
    let area : Int := (x1 - x0) * (y2 - y0) - (x2 - x0) * (y1 - y0)
    let rows : List (List Int) := [[y0 - y1, x1 - x0, x0 * y1 - x1 * y0], [y1 - y2, x2 - x1, x1 * y2 - x2 * y1], [y2 - y0, x0 - x2, x2 * y0 - x0 * y2]]
    let near : Prop := ∀ v ∈ [x0, x1, x2, y0, y1, y2], |v| ≤ 2 ^ 22
    p.area = area ∧ (near → 0 < area → p.rows two = rows) ∧ (near → area < 0 → two = true → p.rows two = rows.map (·.map fun v => -v)) ∧
    ((¬ near ∨ area = 0 ∨ (area < 0 ∧ two = false)) → p.rows two = [[0, 0, -1], [0, 0, -1], [0, 0, -1]]) ∧
    ∀ a b c : Int, topLeft [a, b, c] = true ↔ 0 < a ∨ (a = 0 ∧ 0 < b) := by
  intro area rows near
  have harea : p.area = area := Prim.area_eq hx hy
  have hrows := Prim.rows_eq hx hy two
  simp only [Prim.far_iff hx hy, harea] at hrows
  refine ⟨harea, fun hnear hpos => ?_, fun hnear hneg htwo => ?_, fun h => ?_, fun a b c => ?_⟩
  · rw [hrows, if_neg (by simp only [not_or, not_not]; exact ⟨hnear, hpos.ne', fun h => absurd h.1 (by omega)⟩)]
    simp only [if_neg (not_lt.2 hpos.le)]
    simp only [List.map_id']
    rfl
  · rw [hrows, if_neg (by simp only [not_or, not_not]; exact ⟨hnear, hneg.ne, fun h => by simp [htwo] at h⟩)]
    simp only [if_pos hneg]
    rfl
  · rw [hrows, if_pos h]
    rfl
  · simp [topLeft]

end

/-! ## The rows of FLT (R343) -/

/-- A texel coordinate kept within the tile of 16. -/
def clampTexel (z : Int) : Nat := (clampInt 0 15 z).toNat

theorem clampTexel_cast (z : Int) : (clampTexel z : Int) = max 0 (min 15 z) := by
  unfold clampTexel clampInt
  split
  · omega
  · split <;> omega

theorem clampTexel_lt (z : Int) : clampTexel z < 16 := by
  have := clampTexel_cast z
  omega

/-- What a coordinate gives to texel k of its axis. -/
def texelShare (d : Int) (k : Nat) : Int :=
  (if clampTexel (d / 128) = k then 128 - d % 128 else 0) + if clampTexel (d / 128 + 1) = k then d % 128 else 0

/-- One of the four corners of a point. -/
def corner (cx cy : Nat) (w : Int) (k : Nat) : Int := if 16 * cy + cx = k then w else 0

theorem corner_at {cx cy tx ty : Nat} (w : Int) (hc : cx < 16) (ht : tx < 16) :
    corner cx cy w (16 * ty + tx) = if cx = tx ∧ cy = ty then w else 0 := by
  refine if_congr ?_ rfl rfl
  omega

theorem sum_corner {cx cy : Nat} (w : Int) (hx : cx < 16) (hy : cy < 16) : ((List.range 256).map (corner cx cy w)).sum = w := by
  have hsum : ((List.range 256).map (corner cx cy w)).sum = ∑ k ∈ Finset.range 256, corner cx cy w k := rfl
  rw [hsum]
  unfold corner
  rw [Finset.sum_ite_eq, if_pos (Finset.mem_range.2 (by omega))]

/-- A point's offset from the texel centres of an axis. -/
def texelOffset (c : Nat) : Int := ((min c 2047 : Nat) : Int) - 64

theorem filterRow_eq (rc : Nat) :
    let u : Int := texelOffset (rc % 65536)
    let v : Int := texelOffset (rc / 65536)
    filterRow rc = (List.range 256).map fun k =>
      corner (clampTexel (u / 128)) (clampTexel (v / 128)) ((128 - u % 128) * (128 - v % 128)) k +
      corner (clampTexel (u / 128 + 1)) (clampTexel (v / 128)) (u % 128 * (128 - v % 128)) k +
      corner (clampTexel (u / 128)) (clampTexel (v / 128 + 1)) ((128 - u % 128) * (v % 128)) k +
      corner (clampTexel (u / 128 + 1)) (clampTexel (v / 128 + 1)) (u % 128 * (v % 128)) k := by
  intro u v
  have hdiv (d : Int) : Int.fdiv d 128 = d / 128 := Int.fdiv_eq_ediv_of_nonneg d (by decide)
  have hmod (d : Int) : d - 128 * (d / 128) = d % 128 := by omega
  unfold filterRow corner
  simp only [hdiv]
  refine List.map_congr_left fun k _ => ?_
  simp only [Bool.toNat_false, Bool.toNat_true, Nat.cast_zero, Nat.cast_one, Int.add_zero, beq_iff_eq, if_true, Bool.false_eq_true, if_false]
  rw [hmod, hmod]
  rfl

theorem texelShare_mul (du dv : Int) {tx ty : Nat} (ht : tx < 16) :
    corner (clampTexel (du / 128)) (clampTexel (dv / 128)) ((128 - du % 128) * (128 - dv % 128)) (16 * ty + tx) +
      corner (clampTexel (du / 128 + 1)) (clampTexel (dv / 128)) (du % 128 * (128 - dv % 128)) (16 * ty + tx) +
      corner (clampTexel (du / 128)) (clampTexel (dv / 128 + 1)) ((128 - du % 128) * (dv % 128)) (16 * ty + tx) +
      corner (clampTexel (du / 128 + 1)) (clampTexel (dv / 128 + 1)) (du % 128 * (dv % 128)) (16 * ty + tx) =
    texelShare du tx * texelShare dv ty := by
  simp only [corner_at _ (clampTexel_lt _) ht, texelShare, ite_and]
  split_ifs <;> ring

theorem filterRow_spec (rc : Nat) :
    let u : Int := ((min (rc % 2 ^ 16) 2047 : Nat) : Int) - 64
    let v : Int := ((min (rc / 2 ^ 16) 2047 : Nat) : Int) - 64
    let share (d : Int) (k : Nat) : Int := (if max 0 (min 15 (d / 128)) = k then 128 - d % 128 else 0) + if max 0 (min 15 (d / 128 + 1)) = k then d % 128 else 0
    (filterRow rc).length = 256 ∧ (filterRow rc).sum = 16384 ∧
    ∀ tx ty, tx < 16 → ty < 16 → (filterRow rc)[16 * ty + tx]? = some (share u tx * share v ty) := by
  intro u v share
  have hshare (d : Int) (k : Nat) : share d k = texelShare d k := by
    simp only [share, texelShare, ← clampTexel_cast, Nat.cast_inj]
  have hrow : filterRow rc = _ := filterRow_eq rc
  rw [hrow]
  refine ⟨by simp, ?_, fun tx ty hx hy => ?_⟩
  · simp only [List.sum_map_add, sum_corner _ (clampTexel_lt _) (clampTexel_lt _)]
    ring
  · rw [List.getElem?_map, List.getElem?_range (by omega), Option.map_some, texelShare_mul _ _ hx, hshare, hshare]
    rfl

/-! ## The rows of BLEND (R344) -/

theorem blendRow_spec (src dst : W32) :
    let of (x : W32) (c : Nat) : Int := (x.extractLsb' (8 * c) 8).toNat
    let row : List Int := blendRow src.toNat dst.toNat
    row.length = 18 ∧ row[16]? = some 65025 ∧ row[17]? = some 255 ∧ ∀ c, c < 4 → row[c]? = some (of src c) ∧ row[4 + c]? = some (of dst c) ∧
      row[8 + c]? = some (of dst c * of src 3) ∧ row[12 + c]? = some (of src c * of src 3) := by
  intro of row
  have hchannel (x : W32) (c : Nat) : of x c = ((x.toNat / 2 ^ (8 * c) % 256 : Nat) : Int) := by
    simp only [of, BitVec.extractLsb'_toNat, Nat.shiftRight_eq_div_pow]
  have hq : List.range 4 = [0, 1, 2, 3] := rfl
  refine ⟨rfl, rfl, rfl, fun c hc => ?_⟩
  simp only [hchannel]
  interval_cases c <;> exact ⟨rfl, rfl, rfl, rfl⟩

end Sys2Proof.Machine
end

section
/-! SUPPORT. A unit of a running operation that has been performed: it is counted, and the last one retires the operation (R325, R345). -/

namespace Sys2Proof.Machine

section
variable {s v : State} {core seq : Nat} {o : ArrOp} {f : ArrOp → ArrOp}

theorem State.arrOp_seq (h : s.arrOp core seq = some o) : o.seq = seq := by
  simpa using List.find?_some h

theorem State.arrOp_modOp (hf : ∀ x, (f x).seq = x.seq) (h : s.arrOp core seq = some o) : (s.modOp core seq f).arrOp core seq = some (f o) := by
  have hpred : ((fun x : ArrOp => x.seq == seq) ∘ fun x => if x.seq == seq then f x else x) = fun x => x.seq == seq := by
    funext x
    simp only [Function.comp_apply]
    split <;> simp [hf]
  rw [State.arrOp, State.modOp, State.core_modCore_self, List.find?_map, hpred]
  have hfind : (s.core core).arr.find? (fun x => x.seq == seq) = some o := h
  rw [hfind, Option.map_some, if_pos (beq_iff_eq.2 (State.arrOp_seq h))]

end

/-- What the result word of an operation counts (R345). -/
def ArrOp.counted (o : ArrOp) (n : Nat) : Nat := match o.instr with | .rslvClr _ _ => 1024 | .rslvRd _ _ => 0 | _ => n

theorem resultWord_zero (n : Nat) : resultWord 0 0 n = 65536 * min n 65535 := by
  rw [resultWord, Nat.zero_add, show (0 : Byte).toNat = 0 from rfl, Nat.mul_zero, Nat.zero_add]

theorem doneWord_eq {o : ArrOp} (h : isBinfl o.instr = false) : doneWord o = 65536 * min (o.counted o.updates) 65535 := by
  unfold doneWord ArrOp.counted
  split
  case h_1 hi => simp only [hi, resultWord_zero]
  case h_2 hi => simp only [hi, resultWord_zero]
  case h_3 hi =>
    rw [hi] at h
    cases h
  case h_4 hclr hrd _ =>
    rw [resultWord_zero]
    split
    case h_1 hi => exact absurd hi (hclr _ _)
    case h_2 hi => exact absurd hi (hrd _ _)
    case h_3 => rfl

/-- A unit that has been performed. -/
def ArrOp.advance (σ : SigBits) (m : Nat) (x : ArrOp) : ArrOp := { x with next := x.next + 1, sig := x.sig ||| σ, updates := x.updates + m }

theorem exec_arrayOpRetire_unit {s v : State} {core seq : Nat} {o : ArrOp} {k : Crew} {a : Agent} {σ : SigBits} {m : Nat}
    (ho : s.arrOp core seq = some o) (hk : s.opCrew o = some k) (ha : s.agent core o.cid o.crew = some a) (hactive : s.opActive core o = true)
    (hrun : o.st = .running) (hb : isBinfl o.instr = false) (hnext : o.next < unitCount o.instr (o.arg k))
    (hunit : ({ a with job := some ⟨o.crew, true, o.seq, 0⟩ } : Agent).unit o.crew o.instr (o.arg k) o.next s = (v, .ok (σ, m)))
    (hv : v.arrOp core seq = some o) :
    exec (.arrayOpRetire core seq) s = .next (if unitCount o.instr (o.arg k) ≤ o.next + 1
      then (v.modOp core seq (ArrOp.advance σ m)).retireOp core (o.advance σ m) (65536 * min (o.counted (o.updates + m)) 65535)
      else (v.modOp core seq (ArrOp.advance σ m)).push (.arrayOpRetire core seq)) := by
  have hran : s.runUnit core o = v.modOp core seq (ArrOp.advance σ m) := by
    unfold State.runUnit
    simp only [hk, ha, if_neg (not_le.2 hnext), hunit]
    rw [State.arrOp_seq ho]
    rfl
  have hleft : (v.modOp core seq (ArrOp.advance σ m)).arrOp core seq = some (o.advance σ m) := State.arrOp_modOp (fun _ => rfl) hv
  have hword : doneWord (o.advance σ m) = 65536 * min (o.counted (o.updates + m)) 65535 := doneWord_eq hb
  have hgoes : (o.st != .running || !s.opActive core o) = false := by rw [hrun, hactive]; rfl
  have hstill : ((o.advance σ m).st != .running) = false := by
    rw [show (o.advance σ m).st = o.st from rfl, hrun]
    rfl
  change execArrayOpRetire core seq s = _
  unfold execArrayOpRetire
  simp only [ho, hk, hgoes, hb, hran, hleft, hstill, hword, Bool.false_eq_true, if_false]
  rfl

end Sys2Proof.Machine
end

section
/-! SUPPORT. The obligation of the results of the Array and the Resolver. -/

namespace Sys2Proof.Machine

/-- Settles O2: the units of the Array and of the Resolver, each from the lemma of its own operation. -/
theorem arrayResults : Obligations.ArrayResults := by
  unfold Obligations.ArrayResults
  refine ⟨?unit, ?align, ?product, ?stream, ?tiles, ?images, ?programs, ?steps, ?edges, ?addRow, ?integerRow, ?filter, ?blend, ?passes, ?depth,
    ?resolve, ?slots⟩
  case unit =>
    intro s v core seq o k a σ m ho hk ha hactive hrun hb hnext hunit hv
    exact exec_arrayOpRetire_unit ho hk ha hactive hrun hb hnext hunit hv
  case align => exact align_spec
  case product =>
    intro a t segs n i j hm hj hr
    have hcols := Acc.cols_f32 hm
    refine ⟨Acc.product_f32_steps hm hr, Acc.loss_product_f32 hm, Acc.special_product_f32 hm, fun i' j' hj' hne => ?_⟩
    exact Acc.get_product_ne t segs n hr (hcols ▸ hj) (hcols ▸ hj') hne
  case stream =>
    intro s u a crew i b x mem t row c ht hrow hc
    exact streamUnit_products ht hrow hc
  case tiles => exact packedTile_spec
  case images =>
    intro a b _ helems
    have hkeys : ∀ x ∈ a.elems, x.1 < 32 * a.cols := fun x hx => (helems x hx).1
    have hshape : ∀ x ∈ a.elems, a.shape x.2 = x.2 := fun x hx => (helems x hx).2
    refine ⟨fun i n hi hn => Acc.readN_image_at hshape hi hn, Acc.readN_image_status a, Acc.readN_image_mode a, fun p => Acc.read_image_above hkeys,
      Acc.load_image_none b, Acc.load_image hshape b⟩
  case programs => exact programOk_iff
  case steps => exact postOne_spec
  case edges =>
    intro p two x0 x1 x2 y0 y1 y2 hx hy
    exact Prim.rows_spec two hx hy
  case addRow =>
    intro a t row n i j hm hj hr
    have hcols := Acc.cols_i48 hm
    exact ⟨Acc.get_addRow a t row n i j hr, fun i' j' hj' hne => Acc.get_addRow_ne t row n hr (hcols ▸ hj) (hcols ▸ hj') hne⟩
  case integerRow =>
    intro s a crew i b t row c hc
    exact integerRow_sums hc
  case filter => exact fun rc _ => filterRow_spec rc
  case blend => exact blendRow_spec
  case passes => exact fun le z id seq x hz => passes_iff hz
  case depth => exact fun acc p j r z0 z1 z2 hz => depthAt_spec hz
  case resolve =>
    intro s u a b x le p y bx by_ r t ht ho hr hget hslots hentries
    exact resolveUnit_spec ht ho hr hget hslots hentries
  case slots =>
    intro s a x hslots hentries
    exact ⟨fun k hk => entryAt_clearSlot hslots hk, fun u y k hget hsame => slotIn_spec hslots hentries hget hsame, fun k => rfl⟩

end Sys2Proof.Machine
end
